-- ==== Sys2Proof/Word.lean ====
section
/-! DEFINITION. The word types of the machine and their plainest arithmetic. -/

namespace Sys2Proof

/-- A byte of memory. -/
abbrev Byte := BitVec 8

/-- A scalar register, a port word, an address (R87, R156). -/
abbrev Word := BitVec 64

/-- A vector register (R133). -/
abbrev Vec := BitVec 512

/-- A halfword of an instruction (R27). -/
abbrev Half := BitVec 16

/-- The operand fields of the encodings (R29, R32). -/
abbrev F6 := BitVec 6
abbrev F3 := BitVec 3
abbrev F2 := BitVec 2

end Sys2Proof
end

