-- ==== Sys2Proof/Machine/Bits.lean ====
section
/-! DEFINITION. Bit fields, sign extension, byte order and the other plain computations on words that the meanings
share. -/

namespace Sys2Proof.Machine

/-- Bits hi:lo of a word as a number (R6). -/
def bits (w : Word) (hi lo : Nat) : Nat := w.toNat / 2 ^ lo % 2 ^ (hi + 1 - lo)

/-- One bit of a word. -/
def bit (w : Word) (i : Nat) : Bool := w.toNat.testBit i

/-- The word with bits hi:lo replaced by v. -/
def setBits (w : Word) (hi lo v : Nat) : Word :=
  BitVec.ofNat 64 (w.toNat - bits w hi lo * 2 ^ lo + v % 2 ^ (hi + 1 - lo) * 2 ^ lo)

/-- A word from a number, modulo 2^64. -/
def word (n : Nat) : Word := BitVec.ofNat 64 n

/-- sx(x, n): the low n bits of x read as a two's-complement number (R45). -/
def sx (x n : Nat) : Int :=
  let y := x % 2 ^ n
  if y < 2 ^ (n - 1) then (y : Int) else (y : Int) - (2 ^ n : Nat)

/-- An integer as a word, modulo 2^64. -/
def wordOfInt (i : Int) : Word := BitVec.ofInt 64 i

/-- A field of w bits sign-extended to a word. -/
def sext {w : Nat} (x : BitVec w) : Word := BitVec.signExtend 64 x

/-- 1 when the condition holds, else 0. -/
def flagWord (c : Bool) : Word := if c then 1#64 else 0#64

/-- The number that little-endian bytes stand for (R2). -/
def ofBytes : List Byte → Nat
  | [] => 0
  | b :: bs => b.toNat + 256 * ofBytes bs

/-- The n little-endian bytes of a number (R2). -/
def toBytes : Nat → Nat → List Byte
  | 0, _ => []
  | n + 1, x => BitVec.ofNat 8 x :: toBytes n (x / 256)

/-- Byte i of a list, zero past its end. -/
def byteAt (bs : List Byte) (i : Nat) : Byte := bs.getD i 0#8

/-- The list with entry i replaced. -/
def setAt {α : Type} (l : List α) (i : Nat) (x : α) : List α := l.set i x

/-- Entry i changed by f, when there is one. -/
def modifyAt {α : Type} (l : List α) (i : Nat) (f : α → α) : List α :=
  match l[i]? with
  | some x => l.set i (f x)
  | none => l

/-- The first entry that satisfies p, with its place. -/
def findIdxOf {α : Type} (p : α → Bool) (l : List α) : Option Nat :=
  match l.findIdx? p with
  | some i => some i
  | none => none

/-- The number of one bits (R95). -/
def popCount (w : Word) : Nat := (List.range 64).foldl (fun n i => if bit w i then n + 1 else n) 0

/-- The number of zero bits from bit 63 down to the first one bit (R95). -/
def leadingZeros (w : Word) : Nat := if w = 0#64 then 64 else 63 - Nat.log2 w.toNat

/-- The number of zero bits from bit 0 up to the first one bit (R95). -/
def trailingZeros (w : Word) : Nat := ((List.range 64).takeWhile (fun i => !bit w i)).length

/-- The word with its bits in opposite order (R95). -/
def reverseBits (w : Word) : Word :=
  (List.range 64).foldl (fun r i => if bit w i then r ||| (1#64 <<< (63 - i)) else r) 0#64

/-- The word with its bytes in opposite order (R95). -/
def swapBytes (w : Word) : Word := word (ofBytes (toBytes 8 w.toNat).reverse)

/-- The line of an address (R14). -/
def lineOf (a : Nat) : Nat := a / 128

/-- The granule of an address (R202). -/
def granuleOf (a : Nat) : Nat := a / 8

end Sys2Proof.Machine
end

