-- ==== Sys2Proof/Machine/Num.lean ====
section
/-! DEFINITION. Number formats, tags, rounding and the stochastic-rounding generator (spec/04_numbers.md). -/

namespace Sys2Proof.Machine

/-- The format tags (R69). -/
inductive Tag where
  | raw | i8 | i16 | i32 | n8 | n16 | n32 | fp16 | bf16 | fp32 | dm8 | mask
  deriving DecidableEq, Repr, Inhabited

/-- The code of a tag (R69). -/
def Tag.code : Tag → Nat
  | .raw => 0 | .i8 => 1 | .i16 => 2 | .i32 => 3 | .n8 => 4 | .n16 => 5 | .n32 => 6 | .fp16 => 7 | .bf16 => 8
  | .fp32 => 9 | .dm8 => 10 | .mask => 11

/-- The tag of a code; codes 12 to 15 are reserved and no register holds them (R69). -/
def tagOf (n : Nat) : Tag :=
  match n with
  | 1 => .i8 | 2 => .i16 | 3 => .i32 | 4 => .n8 | 5 => .n16 | 6 => .n32 | 7 => .fp16 | 8 => .bf16 | 9 => .fp32
  | 10 => .dm8 | 11 => .mask | _ => .raw

/-- Lanes of a vector (R69, R86). -/
def lanes : Tag → Nat
  | .i8 | .n8 | .dm8 | .mask => 64
  | .i16 | .n16 | .fp16 | .bf16 => 32
  | .i32 | .n32 | .fp32 | .raw => 16

/-- Bits of an element (R86). -/
def width : Tag → Nat
  | .mask => 1
  | .i8 | .n8 | .dm8 => 8
  | .i16 | .n16 | .fp16 | .bf16 => 16
  | .i32 | .n32 | .fp32 | .raw => 32

/-- An integer tag (R138). -/
def isInt : Tag → Bool
  | .i8 | .i16 | .i32 | .n8 | .n16 | .n32 => true
  | _ => false

/-- A signed integer tag. -/
def isSigned : Tag → Bool
  | .i8 | .i16 | .i32 => true
  | _ => false

/-- A float tag (R138). -/
def isFloat : Tag → Bool
  | .fp16 | .bf16 | .fp32 | .dm8 => true
  | _ => false

/-- Tags 1 to 10 (R137). -/
def isArith (t : Tag) : Bool := isInt t || isFloat t

/-- The value of an element: real numbers with a signed zero, infinities, NAN and NAR (R86). -/
inductive Val where
  | nan
  | nar
  | inf (neg : Bool)
  | fin (neg : Bool) (q : Rat)
  deriving DecidableEq, Repr, Inhabited

/-- A finite value; neg is the sign of a zero. -/
def finVal (neg : Bool) (q : Rat) : Val := if q = 0 then .fin neg 0 else .fin (decide (q < 0)) q

/-- The sticky flags an instruction collects (R74, R77). -/
structure Flags where
  nv : Bool
  ov : Bool
  uf : Bool
  nx : Bool
  deriving DecidableEq, Repr, Inhabited

/-- No flag. -/
def noFlags : Flags := ⟨false, false, false, false⟩
def flagNV : Flags := ⟨true, false, false, false⟩
def flagOV : Flags := ⟨false, true, false, false⟩
def flagNX : Flags := ⟨false, false, false, true⟩
def flagOVNX : Flags := ⟨false, true, false, true⟩
def flagUFNX : Flags := ⟨false, false, true, true⟩

/-- The OR of the conditions met (R77). -/
def orFlags (a b : Flags) : Flags := ⟨a.nv || b.nv, a.ov || b.ov, a.uf || b.uf, a.nx || b.nx⟩

/-- The flags as FMODE bits 19 to 16 (R74). -/
def flagBits (f : Flags) : Word :=
  (if f.nv then 0x80000#64 else 0#64) ||| (if f.ov then 0x40000#64 else 0#64) |||
  (if f.uf then 0x20000#64 else 0#64) ||| (if f.nx then 0x10000#64 else 0#64)

/-- The rounding modes (R74, R80). -/
inductive RoundMode where
  | rne | rtz | rdn | rup | rsto
  deriving DecidableEq, Repr, Inhabited

/-- FMODE.RM (R74). RM never holds 5 to 7 (R75). -/
def fmodeRM (fm : Word) : RoundMode :=
  match bits fm 2 0 with
  | 1 => .rtz | 2 => .rdn | 3 => .rup | 4 => .rsto | _ => .rne

/-- The flush-input bit of a format's class (R74, R78). -/
def flushIn (fm : Word) : Tag → Bool
  | .fp16 | .bf16 => bit fm 3
  | .fp32 => bit fm 5
  | .dm8 => bit fm 7
  | _ => false

/-- The flush-result bit of a format's class (R74, R79). -/
def flushOut (fm : Word) : Tag → Bool
  | .fp16 | .bf16 => bit fm 4
  | .fp32 => bit fm 6
  | .dm8 => bit fm 8
  | _ => false

/-! ### Values of codes -/

/-- 2^e for an integer exponent. -/
def pow2 (e : Int) : Rat := if 0 ≤ e then ((2 ^ e.toNat : Nat) : Rat) else 1 / ((2 ^ (-e).toNat : Nat) : Rat)

/-- 10^e for an integer exponent. -/
def pow10 (e : Int) : Rat := if 0 ≤ e then ((10 ^ e.toNat : Nat) : Rat) else 1 / ((10 ^ (-e).toNat : Nat) : Rat)

/-- The length of the run of bits equal to b<6>, counted from bit 6 downward (R64). -/
def dm8Run (b : Nat) : Nat :=
  ((List.range 7).takeWhile (fun i => b.testBit (6 - i) == b.testBit 6)).length

/-- The magnitude of a DM8 code's low seven bits (R64). -/
def dm8Mag (b : Nat) : Rat :=
  if b = 0 then 0 else
    let k := dm8Run b
    let e : Int := if b.testBit 6 then (k : Int) - 1 else -(k : Int)
    let m := 6 - k
    let f := b % 2 ^ m
    (1 + ((9 * f : Nat) : Rat) / ((2 ^ m : Nat) : Rat)) * pow10 e

/-- dm8val (R86). -/
def dm8Val (fm : Word) (x : Nat) : Val :=
  let neg := x.testBit 7
  if x % 128 = 0 then (if neg then .nar else .fin false 0) else
    let v := dm8Mag (x % 128)
    if flushIn fm .dm8 && decide (v < 1 / 1000) then .fin false 0 else finVal false (if neg then -v else v)

/-- Fraction bits, exponent bits and smallest normal exponent of a binary format (R62). -/
def fracBits : Tag → Nat
  | .fp16 => 10 | .bf16 => 7 | _ => 23
def expBits : Tag → Nat
  | .fp16 => 5 | _ => 8
def minExp : Tag → Int
  | .fp16 => -14 | _ => -126

/-- The canonical NaN (R62, R63); NaR for DM8. -/
def nanCode : Tag → Nat
  | .fp16 => 0x7E00 | .bf16 => 0x7FC0 | .fp32 => 0x7FC00000 | .dm8 => 0x80 | _ => 0

/-- fpval (R62, R63, R78, R86): the value, and the flag a signalling NaN sets. -/
def fpVal (fm : Word) (t : Tag) (x : Nat) : Val × Flags :=
  let p := fracBits t
  let neg := x.testBit (p + expBits t)
  let e := x / 2 ^ p % 2 ^ expBits t
  let f := x % 2 ^ p
  if e = 2 ^ expBits t - 1 then
    if f = 0 then (.inf neg, noFlags)
    else (.nan, if f.testBit (p - 1) then noFlags else flagNV)
  else if e = 0 then
    if flushIn fm t then (.fin neg 0, noFlags)
    else
      let q := (f : Rat) * pow2 (minExp t - p)
      (finVal neg (if neg then -q else q), noFlags)
  else
    let q := ((2 ^ p + f : Nat) : Rat) * pow2 (minExp t + ((e : Int) - 1) - p)
    (finVal neg (if neg then -q else q), noFlags)

/-- val (R86): the value of an element with tag t. -/
def val (fm : Word) (t : Tag) (x : Nat) : Val × Flags :=
  match t with
  | .dm8 => (dm8Val fm x, noFlags)
  | .fp16 | .bf16 | .fp32 => fpVal fm t x
  | .i8 | .i16 | .i32 => (finVal false ((sx x (width t) : Int) : Rat), noFlags)
  | _ => (finVal false (((x % 2 ^ width t : Nat)) : Rat), noFlags)

/-! ### Rounding -/

/-- Whether rounding takes the neighbour of greater magnitude (R80). frac is the distance of the magnitude from the
smaller neighbour, strictly between 0 and 1 of the gap; lowEven says that the smaller neighbour's code has bit 0
equal to 0. -/
def roundsUp (rm : RoundMode) (r : Nat) (neg : Bool) (frac : Rat) (lowEven : Bool) : Bool :=
  match rm with
  | .rne => if frac < 1 / 2 then false else if 1 / 2 < frac then true else !lowEven
  | .rtz => false
  | .rdn => neg
  | .rup => !neg
  | .rsto =>
    if neg then !decide ((r : Rat) < (1 - frac) * 16777216)
    else decide ((r : Rat) < frac * 16777216)

/-- floor(log2 q) of a positive number. -/
def log2Floor (q : Rat) : Int :=
  let k : Int := (Nat.log2 q.num.toNat : Int) - (Nat.log2 q.den : Int)
  if pow2 k ≤ q then k else k - 1

/-- A magnitude rounded to units: the number of units, and whether it was inexact. -/
def roundUnits (rm : RoundMode) (r : Nat) (neg : Bool) (u : Rat) : Nat × Bool :=
  let n := u.floor.toNat
  let frac := u - (n : Rat)
  if frac = 0 then (n, false)
  else (if roundsUp rm r neg frac (n % 2 == 0) then n + 1 else n, true)

/-- The greatest DM8 magnitude code whose value does not exceed q (R66). -/
def dm8Below (q : Rat) : Nat :=
  (List.range 128).foldl (fun best b => if dm8Mag b ≤ q then b else best) 0

/-- A DM8 code from its magnitude and sign; zero is unsigned (R64). -/
def dm8Code (neg : Bool) (b : Nat) : Nat := if b = 0 then 0 else if neg then 128 + b else b

/-- tiny(t) (R79). -/
def tiny : Tag → Rat
  | .fp16 => pow2 (-14) | .dm8 => 1 / 1000 | _ => pow2 (-126)

/-- The range of an integer format (R60). -/
def intMin (t : Tag) : Int := if isSigned t then -((2 ^ (width t - 1) : Nat) : Int) else 0
def intMax (t : Tag) : Int := if isSigned t then ((2 ^ (width t - 1) : Nat) : Int) - 1 else ((2 ^ width t : Nat) : Int) - 1

/-- The low bits of an integer, as a code of w bits. -/
def lowBits (w : Nat) (i : Int) : Nat := (i % ((2 ^ w : Nat) : Int)).toNat

/-- The infinity, the largest finite number and the zero of a binary format, with a sign. -/
def signBit (t : Tag) (neg : Bool) : Nat := if neg then 2 ^ (fracBits t + expBits t) else 0
def infCode (t : Tag) (neg : Bool) : Nat := signBit t neg + (2 ^ expBits t - 1) * 2 ^ fracBits t
def maxCode (t : Tag) (neg : Bool) : Nat := infCode t neg - 1

/-- The overflow result (R81). -/
def overflowCode (t : Tag) (rm : RoundMode) (neg : Bool) : Nat :=
  match rm with
  | .rne => infCode t neg
  | .rtz | .rsto => maxCode t neg
  | .rdn => if neg then infCode t neg else maxCode t neg
  | .rup => if neg then maxCode t neg else infCode t neg

/-- enc for an integer target (R81, R86). -/
def encInt (v : Val) (t : Tag) (rm : RoundMode) (r : Nat) : Nat × Flags :=
  match v with
  | .nan | .nar => (0, flagNV)
  | .inf neg => (lowBits (width t) (if neg then intMin t else intMax t), flagNV)
  | .fin _ q =>
    let neg := decide (q < 0)
    let m := roundUnits rm r neg (if neg then -q else q)
    let n : Int := if neg then -(m.1 : Int) else (m.1 : Int)
    let f := if m.2 then flagNX else noFlags
    if n < intMin t then (lowBits (width t) (intMin t), orFlags f flagOVNX)
    else if intMax t < n then (lowBits (width t) (intMax t), orFlags f flagOVNX)
    else (lowBits (width t) n, f)

/-- enc for DM8 (R68, R86). -/
def encDm8 (fm : Word) (v : Val) (rm : RoundMode) (r : Nat) : Nat × Flags :=
  match v with
  | .nan | .nar => (0x80, noFlags)
  | .inf neg => (if neg then 0xFF else 0x7F, flagOV)
  | .fin _ q =>
    let neg := decide (q < 0)
    let m := if neg then -q else q
    if m = 0 then (0, noFlags)
    else if flushOut fm .dm8 && decide (m < tiny .dm8) then (0, flagUFNX)
    else if 1000000 < m then (if neg then 0xFF else 0x7F, flagOVNX)
    else
      let b := dm8Below m
      if dm8Mag b = m then (dm8Code neg b, noFlags)
      else
        let frac := (m - dm8Mag b) / (dm8Mag (b + 1) - dm8Mag b)
        let b' := if roundsUp rm r neg frac (b % 2 == 0) then b + 1 else b
        (dm8Code neg b', if m < tiny .dm8 then flagUFNX else flagNX)

/-- enc for a binary floating-point target (R79, R81, R86). -/
def encFloat (fm : Word) (v : Val) (t : Tag) (rm : RoundMode) (r : Nat) : Nat × Flags :=
  match v with
  | .nan | .nar => (nanCode t, noFlags)
  | .inf neg => (infCode t neg, noFlags)
  | .fin zneg q =>
    let neg := decide (q < 0)
    let m := if neg then -q else q
    if m = 0 then (signBit t zneg, noFlags)
    else if flushOut fm t && decide (m < tiny t) then (signBit t neg, flagUFNX)
    else
      let e := max (log2Floor m) (minExp t)
      let u := roundUnits rm r neg (m / pow2 (e - fracBits t))
      let code := (e - minExp t).toNat * 2 ^ fracBits t + u.1
      let f := if u.2 then (if m < tiny t then flagUFNX else flagNX) else noFlags
      if (2 ^ expBits t - 1) * 2 ^ fracBits t ≤ code then (overflowCode t rm neg, orFlags f flagOVNX)
      else (signBit t neg + code, f)

/-- enc (R86): the code of v in format t, and the flags. -/
def enc (fm : Word) (v : Val) (t : Tag) (rm : RoundMode) (r : Nat) : Nat × Flags :=
  if isInt t then encInt v t rm r
  else if t = .dm8 then encDm8 fm v rm r
  else encFloat fm v t rm r

/-! ### The generator -/

/-- The value SRG takes in place of zero (R82, R83). -/
def srgDefault : Word := 0x2545F4914F6CDD1D#64

/-- One step of the generator: the new state (R83). -/
def srgNext (x : Word) : Word :=
  let x1 := x ^^^ (x <<< 13)
  let x2 := x1 ^^^ (x1 >>> 7)
  x2 ^^^ (x2 <<< 17)

/-- The 24 bits a step returns (R83). -/
def srgBits (x : Word) : Nat := bits x 23 0

/-- The seed of a context (R83). -/
def srgSeed (jobSeed : Word) (lcn ctx : Nat) : Word :=
  let s := jobSeed ^^^ (word lcn * 0x9E3779B97F4A7C15#64) ^^^ word ctx
  if s = 0#64 then srgDefault else s

/-! ### Arithmetic on values (R138, R139) -/

/-- Negation of a value. -/
def negVal : Val → Val
  | .nan => .nan
  | .nar => .nar
  | .inf n => .inf (!n)
  | .fin n q => .fin (!n) (-q)

/-- Product; 0 × ∞ gives NAN and NV (R138, R139). -/
def mulVal (x y : Val) : Val × Flags :=
  match x, y with
  | .nar, _ | _, .nar => (.nar, noFlags)
  | .nan, _ | _, .nan => (.nan, noFlags)
  | .inf a, .inf b => (.inf (a != b), noFlags)
  | .inf a, .fin b q => if q = 0 then (.nan, flagNV) else (.inf (a != b), noFlags)
  | .fin a q, .inf b => if q = 0 then (.nan, flagNV) else (.inf (a != b), noFlags)
  | .fin a p, .fin b q => (finVal (a != b) (p * q), noFlags)

/-- What a sum of values has gathered so far: the exact sum of the finite terms, the kinds of special terms met, and
whether every term was a zero of one sign. -/
structure Sum where
  total : Rat
  nan : Bool
  nar : Bool
  posInf : Bool
  negInf : Bool
  allNegZero : Bool
  allPosZero : Bool
  deriving DecidableEq, Repr

/-- The sum of no term. -/
def sumStart : Sum := ⟨0, false, false, false, false, true, true⟩

/-- One more term. -/
def sumAdd (s : Sum) (v : Val) : Sum :=
  match v with
  | .nan => { s with nan := true }
  | .nar => { s with nar := true }
  | .inf true => { s with negInf := true }
  | .inf false => { s with posInf := true }
  | .fin n q =>
    { s with total := s.total + q
             allNegZero := s.allNegZero && decide (q = 0) && n
             allPosZero := s.allPosZero && decide (q = 0) && !n }

/-- The exact sum (R138, R139, R153). -/
def sumVal (rm : RoundMode) (s : Sum) : Val × Flags :=
  if s.nar then (.nar, noFlags)
  else if s.posInf && s.negInf then (.nan, flagNV)
  else if s.nan then (.nan, noFlags)
  else if s.posInf then (.inf false, noFlags)
  else if s.negInf then (.inf true, noFlags)
  else if s.total = 0 then
    (.fin (if s.allNegZero then true else if s.allPosZero then false else decide (rm = .rdn)) 0, noFlags)
  else (finVal false s.total, noFlags)

/-- x + y (R138, R139). -/
def addVal (rm : RoundMode) (x y : Val) : Val × Flags := sumVal rm (sumAdd (sumAdd sumStart x) y)

/-- x × y + z, exact (R138, R139, R145). An invalid product sets NV whatever the addend. -/
def fmaVal (rm : RoundMode) (x y z : Val) : Val × Flags :=
  let p := mulVal x y
  let s := addVal rm p.1 z
  (s.1, orFlags p.2 s.2)

/-- x < y among values, −0 below +0 when signed zeros count (R141, R144). NAN and NAR are below nothing. -/
def ltVal (zeros : Bool) (x y : Val) : Bool :=
  match x, y with
  | .nan, _ | .nar, _ | _, .nan | _, .nar => false
  | .inf a, .inf b => a && !b
  | .inf a, .fin _ _ => a
  | .fin _ _, .inf b => !b
  | .fin a p, .fin b q => decide (p < q) || (zeros && decide (p = q) && decide (p = 0) && a && !b)

/-- x = y among values; −0 equals +0, NAN and NAR equal nothing (R144). -/
def eqVal (x y : Val) : Bool :=
  match x, y with
  | .inf a, .inf b => a == b
  | .fin _ p, .fin _ q => decide (p = q)
  | _, _ => false

/-- NAN or NAR. -/
def isNanVal : Val → Bool
  | .nan | .nar => true
  | _ => false

/-- The lesser (wantMax false) or greater value (R141). -/
def pickVal (wantMax : Bool) (x y : Val) : Val :=
  if x = .nar || y = .nar then .nar
  else if x = .nan || y = .nan then .nan
  else if wantMax then (if ltVal true x y then y else x) else (if ltVal true y x then y else x)

end Sys2Proof.Machine
end

