-- ==== Sys2Proof/Machine/Sparse.lean ====
section
/-! DEFINITION. Finite maps from numbers, kept as lists in one canonical form: keys strictly rising, no entry equal to
what an unlisted key reads as. Memory and every other sparse part of the state are such maps. -/

namespace Sys2Proof.Machine

/-- A finite map. -/
abbrev Sparse (α : Type) := List (Nat × α)

/-- The entry of a key. -/
def look {α : Type} : Sparse α → Nat → Option α
  | [], _ => none
  | (k, v) :: m, a => if k = a then some v else look m a

/-- The map without a key. -/
def erase {α : Type} (m : Sparse α) (a : Nat) : Sparse α := m.filter (fun e => !(e.1 == a))

/-- Put an entry before the first greater key. -/
def insertAt {α : Type} (a : Nat) (v : α) : Sparse α → Sparse α
  | [] => [(a, v)]
  | (k, w) :: m => if a < k then (a, v) :: (k, w) :: m else (k, w) :: insertAt a v m

/-- The map with an entry at a key. -/
def put {α : Type} (m : Sparse α) (a : Nat) (v : α) : Sparse α := insertAt a v (erase m a)

/-- What a key reads as, d where nothing is listed. -/
def getD {α : Type} (d : α) (m : Sparse α) (a : Nat) : α := (look m a).getD d

/-- The map after writing v at a key; writing d removes the entry. -/
def setD {α : Type} [DecidableEq α] (d : α) (m : Sparse α) (a : Nat) (v : α) : Sparse α :=
  if v = d then erase m a else put m a v

/-- The canonical form, from a least key on: keys strictly rising, no entry equal to d. -/
def canonFrom {α : Type} [DecidableEq α] (d : α) : Nat → Sparse α → Bool
  | _, [] => true
  | lo, (k, v) :: m => decide (lo ≤ k) && decide (v ≠ d) && canonFrom d (k + 1) m

/-- The canonical form. -/
def canon {α : Type} [DecidableEq α] (d : α) (m : Sparse α) : Bool := canonFrom d 0 m

/-- The keys listed. -/
def keys {α : Type} (m : Sparse α) : List Nat := m.map (·.1)

/-- The entries whose key satisfies p, changed or dropped by f; the others stay. -/
def updWhere {α : Type} (m : Sparse α) (p : Nat → Bool) (f : α → Option α) : Sparse α :=
  m.filterMap (fun e => if p e.1 then (f e.2).map (fun v => (e.1, v)) else some e)

end Sys2Proof.Machine
end

