-- ==== Sys2Proof/Syntax.lean ====
section
/-! DEFINITION. The syntax of the machine: one constructor for every row of the opcode table. The first 210 are
instruction words (spec/03_encoding.md); the rest are the machine's events, which no word encodes
(spec/95_what_each_step_holds.md). -/

namespace Sys2Proof

/-- An operand field with its kind (R38): a scalar register or port, a vector register, an entry of the constant
bank, an inline literal or name. -/
inductive Opnd where
  | s (f : F6)
  | v (f : F6)
  | c (f : F6)
  | lit (f : F6)
  deriving DecidableEq, Repr, Inhabited

/-- What a matrix job met besides its operands: nothing, a disagreement of the two halves of a duplicate job (R235),
or a poisoned or uncorrectable stash byte (R233). -/
inductive JobError where
  | none
  | mismatch
  | poison
  deriving DecidableEq, Repr, Inhabited

/-- A temperature threshold of a sensor (R304): the limit of a core, the row threshold by the hottest core of a row,
the throttle of a stack's base die, and the package trip by any sensor, cores first and base dies after them. -/
inductive Sensor where
  | core (n : Nat)
  | row (n : Nat)
  | base (n : Nat)
  | trip (n : Nat)
  deriving DecidableEq, Repr, Inhabited

/-- The unit a register write names (R310, R311, R326, R354): a context, a logical core, a physical core, a row,
the package or a virtual function, and the register's number. -/
inductive RegAddr where
  | context (lc ctx n : Nat)
  | logical (lc n : Nat)
  | physical (phys n : Nat)
  | row (row n : Nat)
  | package (n : Nat)
  | vf (vf n : Nat)
  deriving DecidableEq, Repr, Inhabited

/-- A host access through BAR 2 (R355): a read or a write of bytes, by one virtual function. -/
structure HostAccess where
  vf : Nat
  addr : Nat
  write : Bool
  bytes : List Byte
  deriving DecidableEq, Repr, Inhabited

/-- What a link receives at once (R356): a number of flits, and the bytes that they carry for an address of an address
space. -/
structure Received where
  count : Nat
  asid : Nat
  addr : Nat
  bytes : List Byte
  deriving DecidableEq, Repr, Inhabited

/-- A key for a key slot (R359), and whether it is a debug key (R361). -/
structure SlotKey where
  value : Nat
  isDebug : Bool
  deriving DecidableEq, Repr, Inhabited

/-- The fault a failing granule belongs to (R346): one granule of a line, more of one line, or a row. -/
inductive RepairNeed where
  | granule
  | line
  | row
  deriving DecidableEq, Repr, Inhabited

/-- What boot finds and what the firmware sets up by its end (R357, R366): the signature's check, the units that fail
their tests (channels by 32 × stack + channel), the rates of the channels that pass, the core chosen as reeve for each
die and the dies whose core does not start (R307), the entry point of the firmware's heads, the root table's address,
memory, the virtual functions with partition and address space, the owners of yards and key slots, and the heat store's
reading (R292). -/
structure BootInput where
  firmwareOk : Bool
  badChannels : List Nat
  rates : List (Nat × Nat)
  badSlices : List Nat
  badCores : List Nat
  badSlots : List Nat
  badPorts : List Nat
  reeves : List Nat
  badReeves : List Nat
  entry : Word
  asidBase : Word
  image : List (Nat × Byte)
  vfs : List (Nat × Nat × Nat)
  yards : List (Nat × Nat)
  slots : List (Nat × Nat)
  melt : Nat
  rfz : Bool
  deriving DecidableEq, Repr, Inhabited

/-- The rows of spec/opcode_table.json. -/
inductive Instr where

  /-- ADD (R92). -/
  | add (d : F6) (a : Opnd) (b : Opnd)
  /-- SUB (R92). -/
  | sub (d : F6) (a : Opnd) (b : Opnd)
  /-- AND (R92). -/
  | and (d : F6) (a : Opnd) (b : Opnd)
  /-- OR (R92). -/
  | or (d : F6) (a : Opnd) (b : Opnd)
  /-- XOR (R92). -/
  | xor (d : F6) (a : Opnd) (b : Opnd)
  /-- SHL (R92). -/
  | shl (d : F6) (a : Opnd) (b : Opnd)
  /-- SHR (R92). -/
  | shr (d : F6) (a : Opnd) (b : Opnd)
  /-- SAR (R92). -/
  | sar (d : F6) (a : Opnd) (b : Opnd)
  /-- MUL (R92). -/
  | mul (d : F6) (a : Opnd) (b : Opnd)
  /-- MULH (R92). -/
  | mulh (d : F6) (a : Opnd) (b : Opnd)
  /-- MULHN (R92). -/
  | mulhn (d : F6) (a : Opnd) (b : Opnd)
  /-- DIV (R93). -/
  | div (d : F6) (a : Opnd) (b : Opnd)
  /-- DIVN (R93). -/
  | divn (d : F6) (a : Opnd) (b : Opnd)
  /-- REM (R93). -/
  | rem (d : F6) (a : Opnd) (b : Opnd)
  /-- REMN (R93). -/
  | remn (d : F6) (a : Opnd) (b : Opnd)
  /-- SEQ (R94). -/
  | seq (d : F6) (a : Opnd) (b : Opnd)
  /-- SNE (R94). -/
  | sne (d : F6) (a : Opnd) (b : Opnd)
  /-- SLT (R94). -/
  | slt (d : F6) (a : Opnd) (b : Opnd)
  /-- SLTN (R94). -/
  | sltn (d : F6) (a : Opnd) (b : Opnd)
  /-- SLE (R94). -/
  | sle (d : F6) (a : Opnd) (b : Opnd)
  /-- SLEN (R94). -/
  | slen (d : F6) (a : Opnd) (b : Opnd)
  /-- MIN (R94). -/
  | min (d : F6) (a : Opnd) (b : Opnd)
  /-- MAX (R94). -/
  | max (d : F6) (a : Opnd) (b : Opnd)
  /-- CLZ (R95). -/
  | clz (d : F6) (a : Opnd)
  /-- CTZ (R95). -/
  | ctz (d : F6) (a : Opnd)
  /-- POPC (R95). -/
  | popc (d : F6) (a : Opnd)
  /-- BREV (R95). -/
  | brev (d : F6) (a : Opnd)
  /-- BSWAP (R95). -/
  | bswap (d : F6) (a : Opnd)
  /-- MOV (R95). -/
  | mov (d : F6) (a : Opnd)
  /-- MOVY (R187). -/
  | movy (d : F6) (y : F6)
  /-- SEXT (R96). -/
  | sext (d : F6) (a : Opnd) (b : Opnd)
  /-- SEL (R97). -/
  | sel (d : F6) (a : Opnd) (b : Opnd)
  /-- MINN (R94). -/
  | minn (d : F6) (a : Opnd) (b : Opnd)
  /-- MAXN (R94). -/
  | maxn (d : F6) (a : Opnd) (b : Opnd)
  /-- EXT (R51). -/
  | ext (n : F6) (a : Opnd)
  /-- NOP (R53). -/
  | nop
  /-- NOP_COMPACT (R53). -/
  | nopCompact
  /-- TS (R105). -/
  | ts (d : F6)
  /-- WHO (R107). -/
  | who (d : F6) (item : F6)
  /-- MOVX (R52). -/
  | movx (d : F6) (n : F6)
  /-- EXT_L (R48). -/
  | extL (e : BitVec 24)
  /-- LD_B (R161). -/
  | ldB (d : F6) (base : F6) (off : BitVec 12)
  /-- LD_H (R161). -/
  | ldH (d : F6) (base : F6) (off : BitVec 12)
  /-- LD_W (R161). -/
  | ldW (d : F6) (base : F6) (off : BitVec 12)
  /-- LD (R161). -/
  | ld (d : F6) (base : F6) (off : BitVec 12)
  /-- ST_B (R161). -/
  | stB (d : F6) (base : F6) (off : BitVec 12)
  /-- ST_H (R161). -/
  | stH (d : F6) (base : F6) (off : BitVec 12)
  /-- ST_W (R161). -/
  | stW (d : F6) (base : F6) (off : BitVec 12)
  /-- ST (R161). -/
  | st (d : F6) (base : F6) (off : BitVec 12)
  /-- LD_ACQ (R167). -/
  | ldAcq (d : F6) (a : F6) (scope : F6)
  /-- ST_REL (R167). -/
  | stRel (x : F6) (a : F6) (scope : F6)
  /-- FENCE (R167). -/
  | fence (scope : F6)
  /-- FENCE_ACQ (R167). -/
  | fenceAcq (scope : F6)
  /-- FENCE_REL (R167). -/
  | fenceRel (scope : F6)
  /-- LD_BZ (R162). -/
  | ldBz (d : F6) (a : F6) (k : F6)
  /-- LD_HZ (R162). -/
  | ldHz (d : F6) (a : F6) (k : F6)
  /-- LD_WZ (R162). -/
  | ldWz (d : F6) (a : F6) (k : F6)
  /-- VLD_RAW (R163). -/
  | vldRaw (d : F6) (a : F6) (b : Opnd)
  /-- VLD_I8 (R163). -/
  | vldI8 (d : F6) (a : F6) (b : Opnd)
  /-- VLD_I16 (R163). -/
  | vldI16 (d : F6) (a : F6) (b : Opnd)
  /-- VLD_I32 (R163). -/
  | vldI32 (d : F6) (a : F6) (b : Opnd)
  /-- VLD_N8 (R163). -/
  | vldN8 (d : F6) (a : F6) (b : Opnd)
  /-- VLD_N16 (R163). -/
  | vldN16 (d : F6) (a : F6) (b : Opnd)
  /-- VLD_N32 (R163). -/
  | vldN32 (d : F6) (a : F6) (b : Opnd)
  /-- VLD_FP16 (R163). -/
  | vldFp16 (d : F6) (a : F6) (b : Opnd)
  /-- VLD_BF16 (R163). -/
  | vldBf16 (d : F6) (a : F6) (b : Opnd)
  /-- VLD_FP32 (R163). -/
  | vldFp32 (d : F6) (a : F6) (b : Opnd)
  /-- VLD_DM8 (R163). -/
  | vldDm8 (d : F6) (a : F6) (b : Opnd)
  /-- VLD_MASK (R163). -/
  | vldMask (d : F6) (a : F6) (k : F6)
  /-- VST (R163). -/
  | vst (x : F6) (a : F6) (b : Opnd)
  /-- TSTAT (R177). -/
  | tstat (d : F6) (t : F6)
  /-- TWAIT (R177). -/
  | twait (t : F6)
  /-- TFREE (R177). -/
  | tfree (t : F6)
  /-- RESIZE (R169). -/
  | resize (d : F6) (a : Opnd)
  /-- SMAP (R170). -/
  | smap (o : F6) (a : F6) (b : Opnd)
  /-- SUNMAP (R171). -/
  | sunmap (o : F6)
  /-- TDEF_RAW (R176). -/
  | tdefRaw (t : F6) (a : F6) (b : Opnd)
  /-- TDEF_I8 (R176). -/
  | tdefI8 (t : F6) (a : F6) (b : Opnd)
  /-- TDEF_I16 (R176). -/
  | tdefI16 (t : F6) (a : F6) (b : Opnd)
  /-- TDEF_I32 (R176). -/
  | tdefI32 (t : F6) (a : F6) (b : Opnd)
  /-- TDEF_N8 (R176). -/
  | tdefN8 (t : F6) (a : F6) (b : Opnd)
  /-- TDEF_N16 (R176). -/
  | tdefN16 (t : F6) (a : F6) (b : Opnd)
  /-- TDEF_N32 (R176). -/
  | tdefN32 (t : F6) (a : F6) (b : Opnd)
  /-- TDEF_FP16 (R176). -/
  | tdefFp16 (t : F6) (a : F6) (b : Opnd)
  /-- TDEF_BF16 (R176). -/
  | tdefBf16 (t : F6) (a : F6) (b : Opnd)
  /-- TDEF_FP32 (R176). -/
  | tdefFp32 (t : F6) (a : F6) (b : Opnd)
  /-- TDEF_DM8 (R176). -/
  | tdefDm8 (t : F6) (a : F6) (b : Opnd)
  /-- TDEF_MASK (R176). -/
  | tdefMask (t : F6) (a : F6) (b : Opnd)
  /-- B (R99). -/
  | b (off : BitVec 16)
  /-- B_Z (R99). -/
  | bZ (r : F6) (off : BitVec 16)
  /-- B_NZ (R99). -/
  | bNz (r : F6) (off : BitVec 16)
  /-- B_LTZ (R99). -/
  | bLtz (r : F6) (off : BitVec 16)
  /-- B_GEZ (R99). -/
  | bGez (r : F6) (off : BitVec 16)
  /-- B_GTZ (R99). -/
  | bGtz (r : F6) (off : BitVec 16)
  /-- B_LEZ (R99). -/
  | bLez (r : F6) (off : BitVec 16)
  /-- CALL (R100). -/
  | call (r : F6) (off : BitVec 16)
  /-- LOOP (R101). -/
  | loop (r : F6) (off : BitVec 16)
  /-- JR (R102). -/
  | jr (a : Opnd)
  /-- CALLR (R102). -/
  | callr (d : F6) (a : Opnd)
  /-- GROW (R115). -/
  | grow (d : F6) (a : Opnd) (b : Opnd)
  /-- SHRINK (R116). -/
  | shrink (d : F6) (a : Opnd) (b : Opnd)
  /-- START (R118). -/
  | start (h : F6) (a : Opnd) (target : Opnd)
  /-- HALT (R119). -/
  | halt
  /-- HALT_KEEP (R119). -/
  | haltKeep (a : Opnd)
  /-- YIELD (R113). -/
  | yield
  /-- WAITP (R127). -/
  | waitp (d : F6) (a : Opnd)
  /-- PORTSEL (R126). -/
  | portsel (a : Opnd)
  /-- BAR (R130). -/
  | bar (level : F6)
  /-- BARA (R130). -/
  | bara (level : F6)
  /-- BARW (R130). -/
  | barw (level : F6)
  /-- LAUNCH (R283). -/
  | launch (d : F6) (a : Opnd)
  /-- SPRINT (R294). -/
  | sprint (d : F6) (a : Opnd)
  /-- SPREL (R296). -/
  | sprel
  /-- SYSRD (R319). -/
  | sysrd (d : F6) (reg : F6)
  /-- SYSWR (R319). -/
  | syswr (reg : F6) (a : Opnd)
  /-- CPY (R241). -/
  | cpy (a : F6)
  /-- CPYT (R243). -/
  | cpyt (d : F6) (a : F6)
  /-- TRAP (R316). -/
  | trap (n : F6)
  /-- BRK (R316). -/
  | brk
  /-- OFR_ADD (R184). -/
  | ofrAdd (d : F6) (y : F2) (a : F6) (b : Opnd)
  /-- OFR_FMA (R184). -/
  | ofrFma (d : F6) (y : F2) (a : F6) (b : Opnd)
  /-- OFR_MIN (R184). -/
  | ofrMin (d : F6) (y : F2) (a : F6) (b : Opnd)
  /-- OFR_MAX (R184). -/
  | ofrMax (d : F6) (y : F2) (a : F6) (b : Opnd)
  /-- OFR_AND (R184). -/
  | ofrAnd (d : F6) (y : F2) (a : F6) (b : Opnd)
  /-- OFR_OR (R184). -/
  | ofrOr (d : F6) (y : F2) (a : F6) (b : Opnd)
  /-- OFR_XCHG (R184). -/
  | ofrXchg (d : F6) (y : F2) (a : F6) (b : Opnd)
  /-- OFR_CAS (R184). -/
  | ofrCas (d : F6) (y : F2) (a : F6) (b : Opnd)
  /-- OFR_ADD_F32 (R184). -/
  | ofrAddF32 (d : F6) (y : F2) (a : F6) (b : Opnd)
  /-- OFR_FMA_F32 (R184). -/
  | ofrFmaF32 (d : F6) (y : F2) (a : F6) (b : Opnd)
  /-- OFR_MIN_F32 (R184). -/
  | ofrMinF32 (d : F6) (y : F2) (a : F6) (b : Opnd)
  /-- OFR_MAX_F32 (R184). -/
  | ofrMaxF32 (d : F6) (y : F2) (a : F6) (b : Opnd)
  /-- SETL (R193). -/
  | setl (y : F2) (a : F6) (b : Opnd)
  /-- RLS (R194). -/
  | rls (y : F2) (a : F6)
  /-- PUB (R210). -/
  | pub (d : F6) (a : F6) (scope : F6)
  /-- PUBW (R212). -/
  | pubw (a : F6)
  /-- REFLD (R208). -/
  | refld (d : F6) (a : F6)
  /-- REFLD_ACQ (R207). -/
  | refldAcq (d : F6) (a : F6) (scope : F6)
  /-- REFST (R209). -/
  | refst (x : F6) (a : F6)
  /-- REFST_REL (R209). -/
  | refstRel (x : F6) (a : F6) (scope : F6)
  /-- VADD (R140). -/
  | vadd (d : F6) (a : F6) (b : F6)
  /-- VSUB (R140). -/
  | vsub (d : F6) (a : F6) (b : F6)
  /-- VMUL (R140). -/
  | vmul (d : F6) (a : F6) (b : F6)
  /-- VMIN (R141). -/
  | vmin (d : F6) (a : F6) (b : F6)
  /-- VMAX (R141). -/
  | vmax (d : F6) (a : F6) (b : F6)
  /-- VAND (R142). -/
  | vand (d : F6) (a : F6) (b : F6)
  /-- VOR (R142). -/
  | vor (d : F6) (a : F6) (b : F6)
  /-- VXOR (R142). -/
  | vxor (d : F6) (a : F6) (b : F6)
  /-- VSHL (R143). -/
  | vshl (d : F6) (a : F6) (b : Opnd)
  /-- VSHR (R143). -/
  | vshr (d : F6) (a : F6) (b : Opnd)
  /-- VSAR (R143). -/
  | vsar (d : F6) (a : F6) (b : Opnd)
  /-- VCEQ (R144). -/
  | vceq (d : F6) (a : F6) (b : F6)
  /-- VCLT (R144). -/
  | vclt (d : F6) (a : F6) (b : F6)
  /-- VCLE (R144). -/
  | vcle (d : F6) (a : F6) (b : F6)
  /-- VBCST (R150). -/
  | vbcst (d : F6) (a : Opnd) (tag : F6)
  /-- VRED (R153). -/
  | vred (d : F6) (a : F6) (op : F6)
  /-- VCVT (R152). -/
  | vcvt (d : F6) (a : F6) (tag : F6)
  /-- VCVT_RNE (R152). -/
  | vcvtRne (d : F6) (a : F6) (tag : F6)
  /-- VCVT_RTZ (R152). -/
  | vcvtRtz (d : F6) (a : F6) (tag : F6)
  /-- VCVT_RDN (R152). -/
  | vcvtRdn (d : F6) (a : F6) (tag : F6)
  /-- VCVT_RUP (R152). -/
  | vcvtRup (d : F6) (a : F6) (tag : F6)
  /-- VCVT_RSTO (R152). -/
  | vcvtRsto (d : F6) (a : F6) (tag : F6)
  /-- VRETAG (R151). -/
  | vretag (d : F6) (a : F6) (tag : F6)
  /-- VSCAN (R154). -/
  | vscan (d : F6) (a : F6) (op : F6)
  /-- VFMA (R145). -/
  | vfma (d : F6) (a : F6) (b : F6)
  /-- VFMS (R145). -/
  | vfms (d : F6) (a : F6) (b : F6)
  /-- VFNMA (R145). -/
  | vfnma (d : F6) (a : F6) (b : F6)
  /-- VSEL (R146). -/
  | vsel (d : F6) (a : F6) (b : F6)
  /-- VPERM (R147). -/
  | vperm (d : F6) (a : F6) (b : F6)
  /-- VABS (R148). -/
  | vabs (d : F6) (a : F6)
  /-- VNEG (R148). -/
  | vneg (d : F6) (a : F6)
  /-- VMOV (R149). -/
  | vmov (d : F6) (a : F6)
  /-- MXMM (R226). -/
  | mxmm (d : F6) (acc : F3) (op : Opnd) (t : F6)
  /-- MXMM_DUP (R235). -/
  | mxmmDup (d : F6) (acc : F3) (op : Opnd) (t : F6)
  /-- MXZ (R230). -/
  | mxz (d : F6) (acc : F6)
  /-- WAITJ (R236). -/
  | waitj (a : Opnd)
  /-- POLLJ (R236). -/
  | pollj (d : F6) (a : Opnd)
  /-- MXDR_FP32 (R231). -/
  | mxdrFp32 (d : F6) (t : F6) (acc : F6)
  /-- MXDR_BF16 (R231). -/
  | mxdrBf16 (d : F6) (t : F6) (acc : F6)
  /-- MXDR_FP16 (R231). -/
  | mxdrFp16 (d : F6) (t : F6) (acc : F6)
  /-- MXDR_DM8 (R231). -/
  | mxdrDm8 (d : F6) (t : F6) (acc : F6)
  /-- MXDR_I8 (R231). -/
  | mxdrI8 (d : F6) (t : F6) (acc : F6)
  /-- ADD_COMPACT (R30). -/
  | addCompact (d : F3) (a : F3) (b : F3)
  /-- SUB_COMPACT (R30). -/
  | subCompact (d : F3) (a : F3) (b : F3)
  /-- AND_COMPACT (R30). -/
  | andCompact (d : F3) (a : F3) (b : F3)
  /-- OR_COMPACT (R30). -/
  | orCompact (d : F3) (a : F3) (b : F3)
  /-- XOR_COMPACT (R30). -/
  | xorCompact (d : F3) (a : F3) (b : F3)
  /-- SHL_COMPACT (R30). -/
  | shlCompact (d : F3) (a : F3) (b : F3)
  /-- SHR_COMPACT (R30). -/
  | shrCompact (d : F3) (a : F3) (b : F3)
  /-- SAR_COMPACT (R30). -/
  | sarCompact (d : F3) (a : F3) (b : F3)
  /-- MOV_COMPACT (R30). -/
  | movCompact (d : F3) (a : F3)
  /-- SEQ_COMPACT (R30). -/
  | seqCompact (d : F3) (a : F3) (b : F3)
  /-- SLT_COMPACT (R30). -/
  | sltCompact (d : F3) (a : F3) (b : F3)
  /-- VADD_COMPACT (R30). -/
  | vaddCompact (d : F3) (a : F3) (b : F3)
  /-- VSUB_COMPACT (R30). -/
  | vsubCompact (d : F3) (a : F3) (b : F3)
  /-- VMUL_COMPACT (R30). -/
  | vmulCompact (d : F3) (a : F3) (b : F3)
  /-- VFMA_COMPACT (R30). -/
  | vfmaCompact (d : F3) (a : F3) (b : F3)
  /-- ADD_IMM_COMPACT (R104). -/
  | addImmCompact (d : F3) (l : F6)
  /-- AND_IMM_COMPACT (R104). -/
  | andImmCompact (d : F3) (l : F6)
  /-- SHL_IMM_COMPACT (R104). -/
  | shlImmCompact (d : F3) (l : F6)
  /-- SHR_IMM_COMPACT (R104). -/
  | shrImmCompact (d : F3) (l : F6)
  /-- SAR_IMM_COMPACT (R104). -/
  | sarImmCompact (d : F3) (l : F6)
  /-- MOV_IMM_COMPACT (R104). -/
  | movImmCompact (d : F3) (l : F6)
  /-- B_Z_COMPACT (R104). -/
  | bZCompact (d : F3) (l : F6)
  /-- B_NZ_COMPACT (R104). -/
  | bNzCompact (d : F3) (l : F6)
  /-- B_COMPACT (R104). -/
  | bCompact (l : F6)
  /-- LOOP_COMPACT (R104). -/
  | loopCompact (d : F3) (l : F6)
  /-- LD_COMPACT (R30). -/
  | ldCompact (d : F3) (base : F3) (off : F3)
  /-- ST_COMPACT (R30). -/
  | stCompact (d : F3) (base : F3) (off : F3)
  /-- LD_W_COMPACT (R30). -/
  | ldWCompact (d : F3) (base : F3) (off : F3)
  /-- ST_W_COMPACT (R30). -/
  | stWCompact (d : F3) (base : F3) (off : F3)
  /-- MODULE_RESET (R366). -/
  | moduleReset (boot : BootInput)
  /-- LOAD_REPLY (R161). -/
  | loadReply (lc : Nat) (ctx : Nat) (idx : Nat)
  /-- MEMORY_RECORD_WRITE (R336). -/
  | memoryRecordWrite (idx : Nat)
  /-- FAULT_PACKET_WRITE (R308). -/
  | faultPacketWrite (die : Nat)
  /-- DELIVERED_TRAP (R305). -/
  | deliveredTrap (lc : Nat) (ctx : Nat)
  /-- PORT_WORD_DELIVERY (R123). -/
  | portWordDelivery (idx : Nat)
  /-- OFFER_ARRIVAL (R179). -/
  | offerArrival (idx : Nat)
  /-- PRIORITY_OFFER_ARRIVAL (R195). -/
  | priorityOfferArrival (idx : Nat)
  /-- MILL_TAKE_OFFER (R188). -/
  | millTakeOffer (mill : Nat) (prio : Bool)
  /-- OFFER_REPLY (R189). -/
  | offerReply (idx : Nat)
  /-- SETTLE_ARRIVAL (R193). -/
  | settleArrival (idx : Nat)
  /-- SETTLE_REPLY (R193). -/
  | settleReply (idx : Nat)
  /-- RELEASE_ARRIVAL (R194). -/
  | releaseArrival (idx : Nat)
  /-- HOLD_AGE_EXPIRY (R192). -/
  | holdAgeExpiry (mill : Nat) (entry : Nat)
  /-- SLICE_RETENTION_ENTRY (R192). -/
  | sliceRetentionEntry (stack : Nat)
  /-- SLICE_WAKE (R192). -/
  | sliceWake (stack : Nat)
  /-- WALK_ID_ASSIGN (R210). -/
  | walkIdAssign (idx : Nat)
  /-- WALK_START (R211). -/
  | walkStart (task : Nat)
  /-- WALK_STEP (R214). -/
  | walkStep (task : Nat)
  /-- MX_JOB_START (R225). -/
  | mxJobStart (yard : Nat) (idx : Nat)
  /-- MX_JOB_COMPLETE (R227). -/
  | mxJobComplete (yard : Nat) (idx : Nat) (err : JobError)
  /-- ENGINE_SPRINT_CLOCK (R220). -/
  | engineSprintClock (yard : Nat)
  /-- ENGINE_CLOCK_DROP (R239). -/
  | engineClockDrop (yard : Nat)
  /-- COPY_DESCRIPTOR_READ (R245). -/
  | copyDescriptorRead (yard : Nat) (idx : Nat)
  /-- COPY_LANDING (R246). -/
  | copyLanding (yard : Nat) (idx : Nat)
  /-- COPY_COMPLETE (R246). -/
  | copyComplete (yard : Nat) (idx : Nat)
  /-- COPY_ABANDON (R248). -/
  | copyAbandon (yard : Nat) (idx : Nat)
  /-- PLACE_TASK (R287). -/
  | placeTask (task : Nat) (cores : List Nat)
  /-- TASK_READY (R285). -/
  | taskReady (task : Nat)
  /-- PRIORITY_AGEING (R286). -/
  | priorityAgeing (task : Nat)
  /-- STARVATION_HOLD (R286). -/
  | starvationHold (task : Nat)
  /-- TASK_COMPLETE (R290). -/
  | taskComplete (task : Nat)
  /-- STASH_RETENTION_LAPSE (R291). -/
  | stashRetentionLapse (phys : Nat)
  /-- HQDB_WRITE (R354). -/
  | hqdbWrite (vf : Nat) (value : Word)
  /-- HOST_QUEUE_ENTRY (R284). -/
  | hostQueueEntry (vf : Nat)
  /-- HOST_WINDOW_ACCESS (R355). -/
  | hostWindowAccess (acc : HostAccess)
  /-- BACK_INVALIDATE (R352). -/
  | backInvalidate (key : Nat) (half : Nat) (data : Bool)
  /-- RENAIR_RECEIVE (R356). -/
  | renairReceive (die : Nat) (flits : Received)
  /-- MRSOLVE_REPLAY (R337). -/
  | mrsolveReplay (rec : Nat)
  /-- MRSOLVE_UNMAPPED (R337). -/
  | mrsolveUnmapped (rec : Nat)
  /-- TLBINV_PAGE (R334). -/
  | tlbinvPage (value : Word)
  /-- TLBINV_ASID (R334). -/
  | tlbinvAsid (value : Word)
  /-- TLBINV_DONE (R334). -/
  | tlbinvDone
  /-- HVCMD_HARVEST (R340). -/
  | hvcmdHarvest (value : Word)
  /-- HARVEST_FRAME (R340). -/
  | harvestFrame
  /-- CHRATE_SWITCH (R345). -/
  | chrateSwitch (value : Word)
  /-- CHRATE_SELECT (R326). -/
  | chrateSelect (value : Word)
  /-- CHRATE_SWITCH_DONE (R345). -/
  | chrateSwitchDone (stack : Nat)
  /-- DICTLD_LOAD (R343). -/
  | dictldLoad (value : Word)
  /-- DICTLD_DONE (R343). -/
  | dictldDone (stack : Nat)
  /-- GENERATION_RETIRE (R343). -/
  | generationRetire (part : Nat) (gen : Nat)
  /-- DRAM_REPAIR (R346). -/
  | dramRepair (pa : Nat) (need : RepairNeed) (lost : Bool)
  /-- ROW_COPY_COMPLETE (R346). -/
  | rowCopyComplete (idx : Nat)
  /-- ROLLBACK (R350). -/
  | rollback (task : Nat)
  /-- TEMP_THRESHOLD_CROSSING (R304). -/
  | tempThresholdCrossing (sensor : Sensor) (tenths : Nat)
  /-- DWELL_END (R304). -/
  | dwellEnd (sensor : Sensor)
  /-- THERMAL_MIGRATION (R289). -/
  | thermalMigration (lc : Nat) (phys : Nat)
  /-- SPATIAL_PREEMPTION (R289). -/
  | spatialPreemption (lc : Nat) (survivor : Nat)
  /-- UNFOLD (R289). -/
  | unfold (lc : Nat) (phys : Nat)
  /-- LODGING (R289). -/
  | lodging (lc : Nat) (slot : Nat)
  /-- LODGE_RESTORE (R397). -/
  | lodgeRestore (lc : Nat) (phys : Nat)
  /-- RUNNING_FUNCTION_CHANGE (R388). -/
  | runningFunctionChange (part : Nat) (vf : Nat)
  /-- CORE_POWER_DOWN (R300). -/
  | corePowerDown (phys : Nat)
  /-- POWER_UP_ADMIT (R301). -/
  | powerUpAdmit (row : Nat)
  /-- CORE_READY (R301). -/
  | coreReady (phys : Nat)
  /-- LANE_GATE (R155). -/
  | laneGate (phys : Nat)
  /-- DROOP_ALARM (R377). -/
  | droopAlarm (row : Nat) (depth : Nat)
  /-- STRETCH_END (R303). -/
  | stretchEnd (row : Nat)
  /-- HALVED_END (R303). -/
  | halvedEnd (row : Nat)
  /-- INJECTION_PULSE_START (R379). -/
  | injectionPulseStart (yard : Nat)
  /-- INJECTION_PULSE_END (R379). -/
  | injectionPulseEnd (yard : Nat)
  /-- ROW_CLOCK_RAISE (R294). -/
  | rowClockRaise (row : Nat)
  /-- LEASE_EXPIRY (R297). -/
  | leaseExpiry (row : Nat)
  /-- MELT_UPDATE (R292). -/
  | meltUpdate (permille : Nat)
  /-- HALT_GROUP_STOP (R322). -/
  | haltGroupStop (lc : Nat) (ctx : Nat)
  /-- DCTL_RESUME (R313). -/
  | dctlResume (lc : Nat) (ctx : Nat)
  /-- DCTL_STEP (R313). -/
  | dctlStep (lc : Nat) (ctx : Nat)
  /-- DCTL_END (R313). -/
  | dctlEnd (lc : Nat) (ctx : Nat)
  /-- DCTL_STOP (R313). -/
  | dctlStop (lc : Nat) (ctx : Nat)
  /-- LEASE_RENEW (R315). -/
  | leaseRenew (row : Nat) (value : Word)
  /-- ALLOT_WRITE (R312). -/
  | allotWrite (lc : Nat) (ctx : Nat) (value : Word)
  /-- PC_WRITE (R312). -/
  | pcWrite (lc : Nat) (ctx : Nat) (value : Word)
  /-- CLKDIV_WRITE (R299). -/
  | clkdivWrite (phys : Nat) (value : Word)
  /-- FMODE_WRITE (R75). -/
  | fmodeWrite (lc : Nat) (ctx : Nat) (value : Word)
  /-- SRG_WRITE (R82). -/
  | srgWrite (lc : Nat) (ctx : Nat) (value : Word)
  /-- REGISTER_WRITE (R4). -/
  | registerWrite (reg : RegAddr) (value : Word)
  /-- KEY_SLOT_WRITE (R359). -/
  | keySlotWrite (vf : Nat) (slot : Nat) (key : SlotKey)
  /-- ATTESTATION_QUOTE (R360). -/
  | attestationQuote (vf : Nat) (nonce : Nat)
  /-- DEBUG_UNLOCK (R361). -/
  | debugUnlock (granted : Bool)
  /-- RESERVED_WORD (R56). -/
  | reservedWord (w : BitVec 32)
  /-- WRITE_ACKNOWLEDGEMENT (R167). -/
  | writeAcknowledgement (idx : Nat)
  /-- REFERENCE_TICK (R386). -/
  | referenceTick
  /-- RENAIR_SEND (R386). -/
  | renairSend (die : Nat) (flits : Nat)
  /-- IDLE_ENTRY (R361). -/
  | idleEntry
  deriving DecidableEq, Repr, Inhabited

/-- Is this row an event of the machine, a step that no instruction word encodes? -/
def Instr.isEvent : Instr → Bool
  | .moduleReset _ => true
  | .loadReply _ _ _ => true
  | .memoryRecordWrite _ => true
  | .faultPacketWrite _ => true
  | .deliveredTrap _ _ => true
  | .portWordDelivery _ => true
  | .offerArrival _ => true
  | .priorityOfferArrival _ => true
  | .millTakeOffer _ _ => true
  | .offerReply _ => true
  | .settleArrival _ => true
  | .settleReply _ => true
  | .releaseArrival _ => true
  | .holdAgeExpiry _ _ => true
  | .sliceRetentionEntry _ => true
  | .sliceWake _ => true
  | .walkIdAssign _ => true
  | .walkStart _ => true
  | .walkStep _ => true
  | .mxJobStart _ _ => true
  | .mxJobComplete _ _ _ => true
  | .engineSprintClock _ => true
  | .engineClockDrop _ => true
  | .copyDescriptorRead _ _ => true
  | .copyLanding _ _ => true
  | .copyComplete _ _ => true
  | .copyAbandon _ _ => true
  | .placeTask _ _ => true
  | .taskReady _ => true
  | .priorityAgeing _ => true
  | .starvationHold _ => true
  | .taskComplete _ => true
  | .stashRetentionLapse _ => true
  | .hqdbWrite _ _ => true
  | .hostQueueEntry _ => true
  | .hostWindowAccess _ => true
  | .backInvalidate _ _ _ => true
  | .renairReceive _ _ => true
  | .mrsolveReplay _ => true
  | .mrsolveUnmapped _ => true
  | .tlbinvPage _ => true
  | .tlbinvAsid _ => true
  | .tlbinvDone => true
  | .hvcmdHarvest _ => true
  | .harvestFrame => true
  | .chrateSwitch _ => true
  | .chrateSelect _ => true
  | .chrateSwitchDone _ => true
  | .dictldLoad _ => true
  | .dictldDone _ => true
  | .generationRetire _ _ => true
  | .dramRepair _ _ _ => true
  | .rowCopyComplete _ => true
  | .rollback _ => true
  | .tempThresholdCrossing _ _ => true
  | .dwellEnd _ => true
  | .thermalMigration _ _ => true
  | .spatialPreemption _ _ => true
  | .unfold _ _ => true
  | .lodging _ _ => true
  | .lodgeRestore _ _ => true
  | .runningFunctionChange _ _ => true
  | .corePowerDown _ => true
  | .powerUpAdmit _ => true
  | .coreReady _ => true
  | .laneGate _ => true
  | .droopAlarm _ _ => true
  | .stretchEnd _ => true
  | .halvedEnd _ => true
  | .injectionPulseStart _ => true
  | .injectionPulseEnd _ => true
  | .rowClockRaise _ => true
  | .leaseExpiry _ => true
  | .meltUpdate _ => true
  | .haltGroupStop _ _ => true
  | .dctlResume _ _ => true
  | .dctlStep _ _ => true
  | .dctlEnd _ _ => true
  | .dctlStop _ _ => true
  | .leaseRenew _ _ => true
  | .allotWrite _ _ _ => true
  | .pcWrite _ _ _ => true
  | .clkdivWrite _ _ => true
  | .fmodeWrite _ _ _ => true
  | .srgWrite _ _ _ => true
  | .registerWrite _ _ => true
  | .keySlotWrite _ _ _ => true
  | .attestationQuote _ _ => true
  | .debugUnlock _ => true
  | .reservedWord _ => true
  | .writeAcknowledgement _ => true
  | .referenceTick => true
  | .renairSend _ _ => true
  | .idleEntry => true
  | .add _ _ _ => false
  | .sub _ _ _ => false
  | .and _ _ _ => false
  | .or _ _ _ => false
  | .xor _ _ _ => false
  | .shl _ _ _ => false
  | .shr _ _ _ => false
  | .sar _ _ _ => false
  | .mul _ _ _ => false
  | .mulh _ _ _ => false
  | .mulhn _ _ _ => false
  | .div _ _ _ => false
  | .divn _ _ _ => false
  | .rem _ _ _ => false
  | .remn _ _ _ => false
  | .seq _ _ _ => false
  | .sne _ _ _ => false
  | .slt _ _ _ => false
  | .sltn _ _ _ => false
  | .sle _ _ _ => false
  | .slen _ _ _ => false
  | .min _ _ _ => false
  | .max _ _ _ => false
  | .clz _ _ => false
  | .ctz _ _ => false
  | .popc _ _ => false
  | .brev _ _ => false
  | .bswap _ _ => false
  | .mov _ _ => false
  | .movy _ _ => false
  | .sext _ _ _ => false
  | .sel _ _ _ => false
  | .minn _ _ _ => false
  | .maxn _ _ _ => false
  | .ext _ _ => false
  | .nop => false
  | .nopCompact => false
  | .ts _ => false
  | .who _ _ => false
  | .movx _ _ => false
  | .extL _ => false
  | .ldB _ _ _ => false
  | .ldH _ _ _ => false
  | .ldW _ _ _ => false
  | .ld _ _ _ => false
  | .stB _ _ _ => false
  | .stH _ _ _ => false
  | .stW _ _ _ => false
  | .st _ _ _ => false
  | .ldAcq _ _ _ => false
  | .stRel _ _ _ => false
  | .fence _ => false
  | .fenceAcq _ => false
  | .fenceRel _ => false
  | .ldBz _ _ _ => false
  | .ldHz _ _ _ => false
  | .ldWz _ _ _ => false
  | .vldRaw _ _ _ => false
  | .vldI8 _ _ _ => false
  | .vldI16 _ _ _ => false
  | .vldI32 _ _ _ => false
  | .vldN8 _ _ _ => false
  | .vldN16 _ _ _ => false
  | .vldN32 _ _ _ => false
  | .vldFp16 _ _ _ => false
  | .vldBf16 _ _ _ => false
  | .vldFp32 _ _ _ => false
  | .vldDm8 _ _ _ => false
  | .vldMask _ _ _ => false
  | .vst _ _ _ => false
  | .tstat _ _ => false
  | .twait _ => false
  | .tfree _ => false
  | .resize _ _ => false
  | .smap _ _ _ => false
  | .sunmap _ => false
  | .tdefRaw _ _ _ => false
  | .tdefI8 _ _ _ => false
  | .tdefI16 _ _ _ => false
  | .tdefI32 _ _ _ => false
  | .tdefN8 _ _ _ => false
  | .tdefN16 _ _ _ => false
  | .tdefN32 _ _ _ => false
  | .tdefFp16 _ _ _ => false
  | .tdefBf16 _ _ _ => false
  | .tdefFp32 _ _ _ => false
  | .tdefDm8 _ _ _ => false
  | .tdefMask _ _ _ => false
  | .b _ => false
  | .bZ _ _ => false
  | .bNz _ _ => false
  | .bLtz _ _ => false
  | .bGez _ _ => false
  | .bGtz _ _ => false
  | .bLez _ _ => false
  | .call _ _ => false
  | .loop _ _ => false
  | .jr _ => false
  | .callr _ _ => false
  | .grow _ _ _ => false
  | .shrink _ _ _ => false
  | .start _ _ _ => false
  | .halt => false
  | .haltKeep _ => false
  | .yield => false
  | .waitp _ _ => false
  | .portsel _ => false
  | .bar _ => false
  | .bara _ => false
  | .barw _ => false
  | .launch _ _ => false
  | .sprint _ _ => false
  | .sprel => false
  | .sysrd _ _ => false
  | .syswr _ _ => false
  | .cpy _ => false
  | .cpyt _ _ => false
  | .trap _ => false
  | .brk => false
  | .ofrAdd _ _ _ _ => false
  | .ofrFma _ _ _ _ => false
  | .ofrMin _ _ _ _ => false
  | .ofrMax _ _ _ _ => false
  | .ofrAnd _ _ _ _ => false
  | .ofrOr _ _ _ _ => false
  | .ofrXchg _ _ _ _ => false
  | .ofrCas _ _ _ _ => false
  | .ofrAddF32 _ _ _ _ => false
  | .ofrFmaF32 _ _ _ _ => false
  | .ofrMinF32 _ _ _ _ => false
  | .ofrMaxF32 _ _ _ _ => false
  | .setl _ _ _ => false
  | .rls _ _ => false
  | .pub _ _ _ => false
  | .pubw _ => false
  | .refld _ _ => false
  | .refldAcq _ _ _ => false
  | .refst _ _ => false
  | .refstRel _ _ _ => false
  | .vadd _ _ _ => false
  | .vsub _ _ _ => false
  | .vmul _ _ _ => false
  | .vmin _ _ _ => false
  | .vmax _ _ _ => false
  | .vand _ _ _ => false
  | .vor _ _ _ => false
  | .vxor _ _ _ => false
  | .vshl _ _ _ => false
  | .vshr _ _ _ => false
  | .vsar _ _ _ => false
  | .vceq _ _ _ => false
  | .vclt _ _ _ => false
  | .vcle _ _ _ => false
  | .vbcst _ _ _ => false
  | .vred _ _ _ => false
  | .vcvt _ _ _ => false
  | .vcvtRne _ _ _ => false
  | .vcvtRtz _ _ _ => false
  | .vcvtRdn _ _ _ => false
  | .vcvtRup _ _ _ => false
  | .vcvtRsto _ _ _ => false
  | .vretag _ _ _ => false
  | .vscan _ _ _ => false
  | .vfma _ _ _ => false
  | .vfms _ _ _ => false
  | .vfnma _ _ _ => false
  | .vsel _ _ _ => false
  | .vperm _ _ _ => false
  | .vabs _ _ => false
  | .vneg _ _ => false
  | .vmov _ _ => false
  | .mxmm _ _ _ _ => false
  | .mxmmDup _ _ _ _ => false
  | .mxz _ _ => false
  | .waitj _ => false
  | .pollj _ _ => false
  | .mxdrFp32 _ _ _ => false
  | .mxdrBf16 _ _ _ => false
  | .mxdrFp16 _ _ _ => false
  | .mxdrDm8 _ _ _ => false
  | .mxdrI8 _ _ _ => false
  | .addCompact _ _ _ => false
  | .subCompact _ _ _ => false
  | .andCompact _ _ _ => false
  | .orCompact _ _ _ => false
  | .xorCompact _ _ _ => false
  | .shlCompact _ _ _ => false
  | .shrCompact _ _ _ => false
  | .sarCompact _ _ _ => false
  | .movCompact _ _ => false
  | .seqCompact _ _ _ => false
  | .sltCompact _ _ _ => false
  | .vaddCompact _ _ _ => false
  | .vsubCompact _ _ _ => false
  | .vmulCompact _ _ _ => false
  | .vfmaCompact _ _ _ => false
  | .addImmCompact _ _ => false
  | .andImmCompact _ _ => false
  | .shlImmCompact _ _ => false
  | .shrImmCompact _ _ => false
  | .sarImmCompact _ _ => false
  | .movImmCompact _ _ => false
  | .bZCompact _ _ => false
  | .bNzCompact _ _ => false
  | .bCompact _ => false
  | .loopCompact _ _ => false
  | .ldCompact _ _ _ => false
  | .stCompact _ _ _ => false
  | .ldWCompact _ _ _ => false
  | .stWCompact _ _ _ => false

end Sys2Proof
end

