-- ==== Sys2Proof/Machine/State.lean ====
section
/-! DEFINITION. The state of the module as plain data, and the state right after module reset. -/

namespace Sys2Proof.Machine

/-- Why the machine stops. The module never stops on a program's account: every trap is a next state (R306). -/
inductive Fault where
  /-- Raised by step for an event that names a unit the module does not have. Safe: no run of the hardware has
  such an event. -/
  | noSuchUnit
  deriving DecidableEq, Repr

/-- Why an instruction has no meaning. -/
inductive Refusal where
  /-- Raised by the dispatch for an instruction whose meaning is not written. Safe. -/
  | notModelled (mnemonic : String)
  deriving DecidableEq, Repr

/-! ### Pages and lines -/

/-- A translation: the page table's leaf entry (R332). frame is the tier times 2^48 plus the address of the page. -/
structure Page where
  frame : Nat
  large : Bool
  attr : Nat
  aliased : Bool
  cmp : Bool
  w : Bool
  x : Bool
  key : Nat
  deriving DecidableEq, Repr, Inhabited

/-- A cached line (R14, R165): its bytes, which are valid, which are dirty and on which task's account, which granules
are held as PRIVATE or FROZEN (R165, R216), and the translation it was cached with. -/
structure Line where
  data : BitVec 1024
  valid : BitVec 128
  dirty : Sparse (BitVec 128)
  priv : BitVec 16
  page : Page
  deriving DecidableEq, Repr, Inhabited

/-- A line of the memory-side cache (R330): its bytes, its translation, whether it differs from its frame. -/
structure MscLine where
  data : BitVec 1024
  page : Page
  dirty : Bool
  deriving DecidableEq, Repr, Inhabited

/-- The host's hold on a half of a line (R352). -/
inductive Half2 where
  | i | s | e
  deriving DecidableEq, Repr, Inhabited

/-- The two halves of a line as the bridge tracks them, and the bytes the host has modified and not written back. -/
structure HalfHeld where
  h0 : Half2
  h1 : Half2
  hostData : BitVec 1024
  hostMask : BitVec 128
  deriving DecidableEq, Repr, Inhabited

/-! ### A context -/

/-- An outstanding load, or one outstanding element of a gather (R89, R161 to R164, R306): destination, size, address
with the translation it was checked with, the lane of an element, and the ticks at its issue (R362). A load of a
reference is one of eight bytes (R208). -/
structure Load where
  vec : Bool
  dst : Nat
  tag : Tag
  size : Nat
  signed : Bool
  addr : Nat
  page : Page
  lane : Option Nat
  ticks : Nat
  deriving DecidableEq, Repr, Inhabited

/-- A delivered cause that waits for an instruction boundary (R305, R306): CAUSE, SUB, ADDR and the packet's detail
words from word 5 on (R309). -/
structure Pending where
  cause : Nat
  sub : Nat
  addr : Word
  detail : List Word
  deriving DecidableEq, Repr, Inhabited

/-- The fault of a walk that its context has not been told of (R212, R213). -/
structure WalkFault where
  walk : Nat
  cause : Nat
  granule : Nat
  deriving DecidableEq, Repr, Inhabited

/-- How far an instruction that waits has come: nothing done; issued, so that it is no boundary (R305); its release
done; a request sent to another agent; the answer back; a step of HALT reached. -/
inductive Stage where
  | idle
  | begun
  | released
  | sent
  | answered (w : Word)
  | halting (n : Nat)
  deriving DecidableEq, Repr, Inhabited

/-- A hardware context (R108, R109, R312, R313). counted says that the instruction that waits has been counted at its
issue (R386); arrived holds, for each level, the phase of its last arrival (R130); gap is the number of its core's cycles
that it stays without an issue after a taken branch (R378, R382); fence says that a resume's FENCE.acq is still to come
(R313); issuedAt is the tick at which the instruction that waits was counted (R362). -/
structure Ctx where
  live : Bool
  frozen : Bool
  cause : Nat
  sub : Nat
  deliv : Bool
  wait : Nat
  pend : List Pending
  dctl : Nat
  stepping : Bool
  pc : Word
  s : Sparse Word
  v : Sparse Vec
  vtag : Sparse Tag
  e : Sparse Word
  y : Sparse Word
  ysg : Sparse Word
  ofrst : Word
  barst : Word
  allot : Word
  psel : Word
  prio : Word
  srg : Word
  fmode : Word
  elit : Word
  waddr0 : Word
  waddr1 : Word
  wctl : Word
  haltg : Word
  age : Nat
  loads : List Load
  spend : List Nat
  vpend : List Nat
  ypend : List Nat
  arrived : Sparse Nat
  stage : Stage
  counted : Bool
  walkFaults : List WalkFault
  gap : Nat
  fence : Bool
  issuedAt : Nat
  deriving DecidableEq, Repr

/-- A context before any start: registers zero, SRG never zero (R82). -/
def Ctx.reset : Ctx :=
  { live := false, frozen := false, cause := 0, sub := 0, deliv := false, wait := 0, pend := [], dctl := 0,
    stepping := false, pc := 0#64, s := [], v := [], vtag := [], e := [], y := [], ysg := [], ofrst := 0#64,
    barst := 0#64, allot := 0#64, psel := 0#64, prio := 0#64, srg := 0x2545F4914F6CDD1D#64, fmode := 0#64,
    elit := 0#64, waddr0 := 0#64, waddr1 := 0#64, wctl := 0#64, haltg := 0#64, age := 0, loads := [], spend := [],
    vpend := [], ypend := [], arrived := [], stage := .idle, counted := false, walkFaults := [], gap := 0, fence := false,
    issuedAt := 0 }

/-! ### A logical core -/

/-- The states of a tile (R172). -/
inductive TileState where
  | empty | filling | ready | draining
  deriving DecidableEq, Repr, Inhabited

/-- A tile-table entry (R172). -/
structure Tile where
  wm : Nat
  size : Nat
  base : Nat
  tag : Tag
  state : TileState
  deriving DecidableEq, Repr, Inhabited

/-- The entry after reset (R172). -/
def Tile.reset : Tile := ⟨0, 0, 0, .raw, .empty⟩

/-- A stash mapping (R170): stash offset, global address, length, the lines filled since the last invalidation, and
the dirty bytes by stash offset. -/
structure Mapping where
  off : Nat
  addr : Nat
  len : Nat
  filled : List Nat
  dirty : List Nat
  deriving DecidableEq, Repr, Inhabited

/-- A logical core: its LPCT entry (R288), contexts, queues (R120), waiting readers (R121), stash (R168), mappings
(R170), tiles (R172), first-level cache (R165), MXACC and MXJOB (R222, R224), the
accumulators held behind a faulted job with the context that enqueued it (R234), a RESIZE that waits (context, first and
last way, R169), the physical core it left while lodged (R397) and the core whose space holds its image (R289). -/
structure LCore where
  lstate : Nat
  half : Bool
  phys : Nat
  left : Nat
  storedIn : Option Nat
  ctxs : Sparse Ctx
  queues : Sparse (List Word)
  waiters : List (Nat × Nat)
  ways : Nat
  stash : Sparse Byte
  maps : List Mapping
  tiles : Sparse Tile
  l1 : Sparse Line
  mxacc : Word
  mxNext : Nat
  mxOut : List Nat
  blocked : List (Nat × Nat)
  resizing : Option (Nat × Nat × Nat)
  retired : Bool
  deriving DecidableEq, Repr

/-- A logical core that no task has placed. -/
def LCore.reset : LCore :=
  { lstate := 0, half := false, phys := 0, left := 0, storedIn := none, ctxs := [], queues := [], waiters := [], ways := 0,
    stash := [], maps := [], tiles := [], l1 := [], mxacc := 0#64, mxNext := 0, mxOut := [],
    blocked := [], resizing := none, retired := false }

/-! ### Physical cores, rows, yards -/

/-- Stash ways kept by HALT.keep (R291): the successor's record address and address space, the logical core number, the
ways, bytes and tiles, and the ticks at the HALT. -/
structure Kept where
  record : Nat
  asid : Nat
  lcn : Nat
  ways : Nat
  stash : Sparse Byte
  tiles : Sparse Tile
  since : Nat
  deriving DecidableEq, Repr, Inhabited

/-- The power switch of a core (R300, R301). -/
inductive Power where
  | off
  | queued (ticks : Nat)
  | waking (ticks : Nat)
  | on
  deriving DecidableEq, Repr, Inhabited

/-- A physical core: the round-robin order of the contexts that have issued on it, the last to issue last (R111), CLKDIV
(R299) and the cycles of the row clock since its own last cycle, counters (R362), the reeve registers (R310), power
(R300), lane gating (R155),
kept ways (R291), the contexts of a logical core that has retired here, by physical index (R119, R312), halved-issue phase
(R378), skipped at boot (R366). -/
structure PCore where
  rr : List (Nat × Nat)
  clkdiv : Word
  divCount : Nat
  cnt : Sparse Word
  csel : Sparse Word
  covf : Word
  chbnd : Word
  ctag : Word
  fpqbase : Word
  fpqptr : Word
  dbgbase : Word
  power : Power
  idleSince : Nat
  vIdle : Nat
  gated : Bool
  kept : Option Kept
  rest : Sparse Ctx
  halfPhase : Bool
  skipped : Bool
  deriving DecidableEq, Repr

/-- A physical core after reset. -/
def PCore.reset : PCore :=
  { rr := [], clkdiv := 0#64, divCount := 0, cnt := [], csel := [], covf := 0#64, chbnd := 0#64, ctag := 0#64, fpqbase := 0#64,
    fpqptr := 0#64, dbgbase := 0#64, power := .off, idleSince := 0, vIdle := 0, gated := false, kept := none, rest := [],
    halfPhase := false, skipped := false }

/-- The steps of the droop sequence (R303). -/
inductive Droop where
  | calm | stretched | halved
  deriving DecidableEq, Repr, Inhabited

/-- A row: its lease (R293, R294), clock and rail (R297), droop registers and sequence with the cycles left of its step
(R302, R303, R377), in-rush requests (R301), over its threshold (R304). below is the last unmasked sample of the rail,
railBelow the last sample. cycleAt is when the row's present clock cycle began, in fortieths of a reference tick (R380); the
other times are reference ticks. -/
structure Row where
  leaseTask : Nat
  leaseLive : Bool
  leaseEnd : Nat
  why : Nat
  sprint : Bool
  railUp : Bool
  railSince : Nat
  drth : Word
  cinj : Word
  alarms : Nat
  droop : Droop
  droopLeft : Nat
  cycleAt : Nat
  below : Bool
  railBelow : Bool
  inrush : List Nat
  inrushNext : Nat
  hot : Bool
  deriving DecidableEq, Repr

/-- A row after reset (R302). -/
def Row.reset : Row :=
  { leaseTask := 0, leaseLive := false, leaseEnd := 0, why := 0, sprint := false, railUp := false, railSince := 0,
    drth := 20#64, cinj := 0x1014#64, alarms := 0, droop := .calm, droopLeft := 0, cycleAt := 0, below := false, railBelow := false, inrush := [],
    inrushNext := 0, hot := false }

/-- What a matrix job does (R226, R230, R231). -/
inductive JobKind where
  | mm (dup : Bool) (acc : Nat) (opAcc : Bool) (op : Nat) (tb : Nat)
  | mxz (acc : Nat)
  | drain (tag : Tag) (tile : Nat) (acc : Nat)
  deriving DecidableEq, Repr, Inhabited

/-- A matrix job in the queue (R223 to R235): its context, identifier, FMODE and generator at enqueue, the tiles and
the stash bytes they held at enqueue, whether it runs, whether its context has been ended. -/
structure Job where
  lc : Nat
  ctx : Nat
  id : Nat
  kind : JobKind
  fm : Word
  srg : Word
  tileA : Tile
  tileB : Tile
  snap : Sparse Byte
  running : Bool
  orphan : Bool
  deriving DecidableEq, Repr, Inhabited

/-- A descriptor as read by the copy unit (R244): BASE and, for each dimension, extent and stride. -/
structure Desc where
  base : Nat
  dims : List (Nat × Int)
  deriving DecidableEq, Repr, Inhabited

/-- A copy request (R240): its context, identifier, four words, tile, descriptor once read, the position before which
every element or byte has moved, those moved after it, the position that has been tried and has
not moved, the fault it stopped with (sub-code, address), whether its context has been ended. -/
structure Copy where
  lc : Nat
  ctx : Nat
  id : Nat
  words : List Word
  desc : Option Desc
  pos : Nat
  landed : List Nat
  trying : Option Nat
  fault : Option (Nat × Nat)
  orphan : Bool
  deriving DecidableEq, Repr, Inhabited

/-- A yard: the accumulators of its engine by physical number and element (R221), owners of accumulators, jobs and
copies with the core whose request each queue accepted last (R223, R243), engine clock (R220, R239), injection pulses:
when those of the last microsecond
began, when the running one ends, when the last one ended, in fortieths of a reference tick (R379). lost holds, for each
accumulator whose contents were lost when its core retired (R222), the number of the first of the free values that stand
for its elements. -/
structure Yard where
  acc : Sparse (Sparse (BitVec 32))
  lost : Sparse Nat
  owner : Sparse Nat
  jobs : List Job
  sprint : Bool
  jobTurn : Nat
  copyTurn : Nat
  copies : List Copy
  pulses : List Nat
  pulseEnd : Option Nat
  pulseFree : Nat
  deriving DecidableEq, Repr

/-- A yard after reset. -/
def Yard.reset : Yard :=
  { acc := [], lost := [], owner := [], jobs := [], sprint := false, jobTurn := 7, copyTurn := 7, copies := [],
    pulses := [], pulseEnd := none, pulseFree := 0 }

/-! ### Stacks and mills -/

/-- The operations of offers (R184). -/
inductive OfferOp where
  | add | fma | min | max | and | or | xchg | cas
  deriving DecidableEq, Repr, Inhabited

/-- The access shapes of offers (R180, R192). -/
inductive Shape where
  | scalar | f32 | vector
  deriving DecidableEq, Repr, Inhabited

/-- An offer on its way or in its mill (R183); turn is its place among the arrivals at its mill, 0 for a priority offer
that has met a hold on its line and so is taken first when the hold ends (R192, R195). -/
structure Offer where
  lc : Nat
  ctx : Nat
  y : Nat
  dst : Nat
  op : OfferOp
  shape : Shape
  tag : Tag
  addr : Nat
  asid : Nat
  task : Nat
  b : Vec
  b2 : Vec
  fm : Word
  r : List Nat
  prio : Bool
  turn : Nat
  deriving DecidableEq, Repr, Inhabited

/-- A settle or release on its way (R193, R194): data is none for a release; answered says that its reply register waits for
it, as that of an RLS does and that of the release which an offer sends does not (R181, R194). -/
structure Settle where
  lc : Nat
  ctx : Nat
  y : Nat
  hold : Nat
  mill : Nat
  addr : Nat
  asid : Nat
  task : Nat
  shape : Shape
  data : Option Vec
  answered : Bool
  deriving DecidableEq, Repr, Inhabited

/-- A request to a mill on its way, in the order sent. -/
inductive MillReq where
  | offer (o : Offer)
  | settle (r : Settle)
  deriving DecidableEq, Repr, Inhabited

/-- A reply on its way to a core (R189, R193); release says that it answers an RLS (R194). -/
structure Reply where
  lc : Nat
  ctx : Nat
  y : Nat
  dst : Nat
  shape : Shape
  tag : Tag
  data : Vec
  writes : Bool
  kind : Nat
  reason : Nat
  hold : Nat
  mill : Nat
  flags : Flags
  settle : Bool
  release : Bool
  addr : Nat
  deriving DecidableEq, Repr, Inhabited

/-- A hold (R192), with the reply register that names it and the translation of its line when it was installed. -/
structure Hold where
  lc : Nat
  ctx : Nat
  y : Nat
  task : Nat
  addr : Nat
  asid : Nat
  shape : Shape
  prio : Bool
  reason : Nat
  since : Nat
  page : Page
  deriving DecidableEq, Repr, Inhabited

/-- A mill (R179, R195): queued offers, priority slots, the count of arrivals, hold table by entry number, how the
last hold of a reply register ended, which a late settle reports (R186), and the mill cycle in which its queue last accepted
an offer. -/
structure Mill where
  queue : List Offer
  slots : List Offer
  arrivals : Nat
  holds : Sparse Hold
  ended : Sparse Nat
  accepted : Option Nat
  deriving DecidableEq, Repr

/-- A mill after reset. -/
def Mill.reset : Mill := ⟨[], [], 0, [], [], none⟩

/-- A stack: slice asleep, base die throttled, slice skipped at boot, the rates of its channels and of those that switch
(R188, R192, R304, R329, R345), dictionary generations held by its engine, one list of generations for each partition
(R343), spare resources
used in each bank and banks marked DEGRADED (R346, R347). -/
structure Stack where
  asleep : Bool
  throttled : Bool
  skipped : Bool
  rates : Sparse Nat
  switching : Sparse Nat
  dicts : Sparse (List Nat)
  spareGranules : Sparse Nat
  spareLines : Sparse Nat
  spareRows : Sparse Nat
  degraded : List Nat
  deriving DecidableEq, Repr

/-- A stack after reset. -/
def Stack.reset : Stack := ⟨false, false, false, [], [], [], [], [], [], []⟩

/-! ### Tasks -/

/-- A level of a launch record (R279). -/
structure Level where
  domain : Nat
  scope : Nat
  extent : Nat
  carr : Nat
  deriving DecidableEq, Repr, Inhabited

/-- A range of a launch record (R280). -/
structure Range where
  base : Nat
  len : Nat
  replay : Bool
  deriving DecidableEq, Repr, Inhabited

/-- The stages of a task (R285). -/
inductive TaskStage where
  | pending | ready | placed | done
  deriving DecidableEq, Repr, Inhabited

/-- An object on the path of a walk: its header address, its length and the next granule to read (R214). -/
structure WalkFrame where
  obj : Nat
  len : Nat
  next : Nat
  deriving DecidableEq, Repr, Inhabited

/-- A walk (R210 to R215): identifier, root, scope, issuing context, whether it has started, its path, and the cause and
granule it must end with when the reeve has answered UNMAPPED to its request (R337). -/
structure Walk where
  id : Nat
  root : Nat
  scope : Nat
  lc : Nat
  ctx : Nat
  started : Bool
  path : List WalkFrame
  ending : Option (Nat × Nat)
  deriving DecidableEq, Repr, Inhabited

/-- A barrier instance (R128, R129): arrivals of the current phase, the phases ended; the parity is the latter's
lowest bit. -/
structure Barrier where
  count : Nat
  phase : Nat
  deriving DecidableEq, Repr, Inhabited

/-- A record of the undo log (R348): the line's address space and address, its frame address, its bytes and tags before,
the mask of bytes the task has written. -/
structure LogRec where
  frame : Nat
  key : Nat
  data : BitVec 1024
  tags : List Nat
  mask : BitVec 128
  deriving DecidableEq, Repr, Inhabited

/-- A task in the dispatcher (R278 to R290); seq is its place among the arrivals at the ready queues (R286); begun says
that every core of its crew was powered, so that its heads have
started together (R287, R301). -/
structure Task where
  num : Nat
  record : Nat
  asid : Nat
  part : Nat
  vf : Nat
  entry : Nat
  const : Nat
  seed : Word
  pred : Nat
  prio : Nat
  fold : Bool
  expl : Bool
  split : Nat
  compl : Nat
  succ0 : Nat
  succ1 : Nat
  levels : List Level
  ranges : List Range
  stage : TaskStage
  level : Nat
  since : Nat
  seq : Nat
  bank : List Word
  tstart : Option Nat
  dropped : Nat
  rollbacks : Nat
  cause : Nat
  nextWalk : Nat
  walks : List Walk
  barriers : Sparse Barrier
  begun : Bool
  log : List LogRec
  logged : Bool
  rolling : Bool
  deriving DecidableEq, Repr, Inhabited

/-- A PUB on its way to the dispatcher (R210). -/
structure PubReq where
  lc : Nat
  ctx : Nat
  dst : Nat
  addr : Nat
  scope : Nat
  task : Nat
  deriving DecidableEq, Repr, Inhabited

/-! ### Records, packets, words and writes on their way -/

/-- Who waits behind a memory record (R335, R342); write is a release's write of a line, refst the granule of a REFST
(R392), harvest a frame of a harvest, bridge
the write-back of a line that the host has modified, link a write that arrives over the link. -/
inductive Requester where
  | access (lc ctx : Nat)
  | fetch (lc ctx : Nat)
  | write (lc ctx key : Nat)
  | refst (lc ctx key : Nat)
  | copy (lc id : Nat)
  | offer (lc ctx y : Nat)
  | settle (lc ctx y : Nat)
  | walk (task : Nat)
  | launch (lc ctx : Nat)
  | hostEntry (vf : Nat)
  | bank (task : Nat)
  | completion (task : Nat)
  | packet (die : Nat)
  | harvest
  | bridge (key : Nat)
  | link (die : Nat)
  | rollback (task : Nat)
  deriving DecidableEq, Repr, Inhabited

/-- A parked request: who waits, the address a precise freeze reports and the detail words that go with it (R309,
R337). -/
structure Waiter where
  who : Requester
  addr : Nat
  detail : List Word
  deriving DecidableEq, Repr, Inhabited

/-- A memory record (R336), waiting to be written (index none) or written and outstanding. -/
structure MemRecord where
  index : Option Nat
  kind : Nat
  req : Nat
  asid : Nat
  stack : Nat
  va : Nat
  frame : Nat
  ticks : Nat
  entry : Word
  task : Nat
  bank : Nat
  waiters : List Waiter
  deriving DecidableEq, Repr, Inhabited

/-- A fault packet waiting in its die (R308). -/
structure Packet where
  lc : Nat
  ctx : Nat
  words : List Word
  deriving DecidableEq, Repr, Inhabited

/-- A port word on its way (R123): the sender, or none for a word of the module itself. -/
structure PortWord where
  sender : Option (Nat × Nat)
  dest : Nat
  port : Nat
  value : Word
  deriving DecidableEq, Repr, Inhabited

/-- The point a write-through goes to (R166). -/
inductive WriteDest where
  | l2
  | msc
  deriving DecidableEq, Repr, Inhabited

/-- What a REFST does to its granule at the MSC (R209): it carves an object of n granules, frees its object, or stores a
reference. -/
inductive RefstKind where
  | carve (n : Nat)
  | free
  | store
  deriving DecidableEq, Repr, Inhabited

/-- The write of a REFST on its way to the MSC (R392, R395): the granule's address, the page it was checked with, the
word and
the kind. -/
structure RefstReq where
  addr : Nat
  page : Page
  word : Word
  kind : RefstKind
  deriving DecidableEq, Repr, Inhabited

/-- A write on its way to a point of coherence (R167): the context whose release waits, the second-level line it comes
from, or none for the core's own, the line, the bytes; refst is the granule of a REFST (R392). -/
structure WriteReq where
  lc : Nat
  ctx : Nat
  dest : WriteDest
  fromL2 : Option Nat
  key : Nat
  mask : BitVec 128
  refst : Option RefstReq
  deriving DecidableEq, Repr, Inhabited

/-- A halt-group stop on its way to a member (R322): the group, the trigger's physical core and context, the ticks
of the trip, and how many cycles of the member's row may still begin before it. -/
structure StopDue where
  lc : Nat
  ctx : Nat
  group : Nat
  trigPhys : Nat
  trigCtx : Nat
  since : Nat
  left : Nat
  deriving DecidableEq, Repr, Inhabited

/-! ### The host side -/

/-- A virtual function (R354, R355, R357). -/
structure VFunc where
  part : Nat
  asid : Nat
  hqdb : Word
  ref : Bool
  queue : List Nat
  rrbase : Word
  rrhead : Nat
  rrtail : Nat
  replies : List (Nat × Word × Word)
  window : Sparse Word
  answers : Nat
  deriving DecidableEq, Repr, Inhabited

/-- A partition (R357, R388): its yards, its key slots, its running function, its dictionary generations with the newest
one, the 32 lines of each generation's dictionary (R341, R343), and its retirements in order, each with the newest
generation at that time, which the pages of the retired one then carry (R343). -/
structure Part where
  yards : List Nat
  slots : List Nat
  running : Option Nat
  gens : List Nat
  newest : Nat
  books : Sparse (List (BitVec 1024))
  moves : List (Nat × Nat)
  deriving DecidableEq, Repr, Inhabited

/-- A load of dictionaries under way (R343): the partition, the generation, and the stacks whose engines still wait for
it. -/
structure DictLoad where
  part : Nat
  gen : Nat
  left : List Nat
  deriving DecidableEq, Repr, Inhabited

/-- A temperature sensor (R304): over its threshold, ticks of its last transition, a crossing that waits. -/
structure Sense where
  above : Bool
  since : Option Nat
  pending : Option Bool
  deriving DecidableEq, Repr, Inhabited

/-- The security states, debug accesses and power states (R361). -/
inductive Security where
  | unverified | verified
  deriving DecidableEq, Repr, Inhabited
inductive DebugAccess where
  | window | port
  deriving DecidableEq, Repr, Inhabited
inductive ModulePower where
  | active | idle | standby
  deriving DecidableEq, Repr, Inhabited

/-- An entry of the boot journal (R366): step, outcome, unit, ticks. -/
structure JournalEntry where
  step : Nat
  outcome : Nat
  unit : Nat
  ticks : Nat
  deriving DecidableEq, Repr, Inhabited

/-- An attestation quote (R360): the function that asked, its nonce, the key index used (none: NO_KEYS), the digests of
the journal's steps, the security state and debug access, the signature. -/
structure Quote where
  vf : Nat
  nonce : Nat
  index : Option Nat
  digests : List Nat
  security : Security
  debug : DebugAccess
  signature : Nat
  deriving DecidableEq, Repr, Inhabited

/-- What a compressed page keeps in its stack (R341, R342): the generation of its last write-back, with the number of
retirements of its partition before it (R343), how often the reeve
has replayed its full overflow area, and the lines that hold an overflow entry. -/
structure CmpPage where
  gen : Option (Nat × Nat)
  ver : Nat
  taken : List Nat
  deriving DecidableEq, Repr, Inhabited

/-- A turn of the schedule: a context's next instruction, a look at a context that waits, an event, a cycle of a core's
issue logic (R111), the cycles of the cores of a row in the order in which the shared queues accept (R223), a clock
cycle of a row with the depth in millivolts that its droop detector reads, and what follows when
the cycle ends (R377, R380), an eviction, a TLB entry filled or dropped, a new reading of the package's power in watts
(R295), or an uncorrectable error in the granule of a frame address (R158, R208). -/
inductive Turn where
  | context (lc ctx : Nat)
  | poll (lc ctx : Nat)
  | event (i : Instr)
  | cycle (phys : Nat)
  | rowIssue (row : Nat)
  | rowCycle (row depth : Nat)
  | rowNext (row : Nat)
  | evictL1 (lc line : Nat)
  | evictL2 (key : Nat)
  | evictMsc (key : Nat)
  | fillTlb (key : Nat)
  | dropTlb (key : Nat)
  | watts (w : Nat)
  | fault (pa : Nat)
  deriving DecidableEq, Repr, Inhabited

/-! ### The module -/

/-- Everything the spec gives the module, and three fields of the model's own: agenda and draws (which agent moves
next), taken (the count of free values used). -/
structure State where
  ticks : Nat
  cores : Sparse LCore
  phys : Sparse PCore
  rows : Sparse Row
  yards : Sparse Yard
  memStacks : Sparse Stack
  mills : Sparse Mill
  mem : List Host.Cell
  gtags : Sparse Nat
  faulty : List Nat
  frameKeys : Sparse Nat
  msc : Sparse MscLine
  l2 : Sparse Line
  tlb : Sparse Page
  halves : Sparse HalfHeld
  tasks : Sparse Task
  readySeq : Nat
  credits : Sparse Nat
  starved : Option Nat
  pubs : List PubReq
  records : List MemRecord
  packets : List Packet
  reeves : Sparse Nat
  words : List PortWord
  writes : List WriteReq
  flights : List MillReq
  replies : List Reply
  tripped : Sparse (List (Nat × Nat))
  stopsDue : List StopDue
  mrqbase : Word
  mrqptr : Word
  mrsolve : Word
  asidbase : Word
  tlbinv : Word
  heatk : Word
  hvcmd : Word
  hvbuf : Word
  hvDone : Nat
  chrate : Word
  dictld : Word
  dictLoads : List DictLoad
  heat : Sparse Nat
  heatDirty : List Nat
  gens : Sparse Nat
  cmpPages : Sparse CmpPage
  rowCopies : List Nat
  melt : Nat
  meltAt : Nat
  rfz : Bool
  power10us : Nat
  trip : Bool
  sensors : List (Sensor × Sense)
  vfs : Sparse VFunc
  parts : Sparse Part
  keySlots : Sparse Nat
  security : Security
  debug : DebugAccess
  modPower : ModulePower
  journal : List JournalEntry
  quoteIndex : Nat
  quotes : List Quote
  msix : List (Nat × Nat)
  hostErrors : List (Nat × Nat)
  hostReads : List (Nat × List Byte)
  cur : Nat × Nat
  agenda : List Turn
  draws : Nat
  taken : Nat
  deriving DecidableEq, Repr

/-- The number that stands for no partition: partitions are 0 to 47 (R357). -/
def noPart : Nat := 48

/-- Virtual function 0 to 95 before the boot inputs assign it: it belongs to no partition, and every register is 0 (R354,
R357). -/
def VFunc.reset : VFunc := ⟨noPart, 0, 0#64, false, [], 0#64, 0, 0, [], [], 0⟩

/-- A partition that owns nothing yet. -/
def Part.reset : Part := ⟨[], [], none, [], 0, [], []⟩

/-- The module right after module reset (R5): no core placed, no line cached, memory with nothing listed. -/
def State.reset : State :=
  { ticks := 0, cores := [], phys := [], rows := [], yards := [], memStacks := [], mills := [], mem := [], gtags := [], faulty := [],
    frameKeys := [], msc := [], l2 := [], tlb := [], halves := [], tasks := [], readySeq := 0, credits := [], starved := none,
    pubs := [], records := [], packets := [], reeves := [], words := [], writes := [], flights := [], replies := [],
    tripped := [], stopsDue := [], mrqbase := 0#64, mrqptr := 0#64, mrsolve := 0#64,
    asidbase := 0#64, tlbinv := 0#64, heatk := 8#64, hvcmd := 0#64, hvbuf := 0#64, hvDone := 0, chrate := 0#64, dictld := 0#64,
    dictLoads := [], heat := [], heatDirty := [], gens := [], cmpPages := [], rowCopies := [], melt := 0, meltAt := 0,
    rfz := false, power10us := 0, trip := false, sensors := [], vfs := [], parts := [], keySlots := [],
    security := .unverified, debug := .window, modPower := .active, journal := [], quoteIndex := 0, quotes := [],
    msix := [], hostErrors := [], hostReads := [], cur := (0, 0), agenda := [], draws := 0, taken := 0 }

end Sys2Proof.Machine
end

