-- ==== Sys2Proof/Config.lean ====
section
/-! DEFINITION. What the spec leaves to the implementation or open: values without a body, so that nothing can be proved
of them but what holds for every value. -/

namespace Sys2Proof

/-- Which turn the schedule draws when its agenda is empty (log 3). -/
opaque Config.freeTurn : Nat → Machine.Turn

/-- A value the spec leaves open, a fresh one for each count (log 5). -/
opaque Config.freeValue : Nat → Word

/-- Which of the free entries of its hold table a mill allots (R179). -/
opaque Config.freeEntry : Nat → Nat

/-- The DRAM channel, 0 to 31, of an address in its stack (R338). -/
opaque Config.channelOf : Nat → Nat

/-- The size in bytes to which a line compresses with a dictionary, given as its lines (R341, R342). -/
opaque Config.compressedSize : List (BitVec 1024) → BitVec 1024 → Nat

/-- The slot, 0 for 32 bytes to 2 for 96, of a line of a compressed frame, the overflow entries of the frame after the
reeve has replayed it a number of times, and the generation it was made with: the firmware's service sets them (R341). -/
opaque Config.cmpSlot : Nat → Nat
opaque Config.cmpEntries : Nat → Nat → Nat
opaque Config.cmpGen : Nat → Nat

/-- What a line stored at a frame address under one key reads as under another (R359). -/
opaque Config.decrypted : Nat → Nat → Nat → BitVec 1024 → BitVec 1024

/-- The halves of a word that a fault packet cannot read, by the ticks and the address (R308). -/
opaque Config.unreadableInsn : Nat → Nat → Word

/-- The bank of a frame address (R346). -/
opaque Config.bankOf : Nat → Nat

/-- The SHAKE256 digest of a step of the boot journal (R360). -/
opaque Config.digest : Machine.JournalEntry → Nat

/-- The signature of a quote with a given key index (R360). -/
opaque Config.signature : Nat → Machine.Quote → Nat

end Sys2Proof
end

