-- ==== Sys2Proof/Machine/Units.lean ====
section
/-! DEFINITION. Reading and writing the units of the module, and their numbers (spec/01_machine.md R10). -/

namespace Sys2Proof.Machine

/-! ### Reading and writing units -/

def coreOf (s : State) (lc : Nat) : LCore := getD LCore.reset s.cores lc
def setCore (s : State) (lc : Nat) (c : LCore) : State := { s with cores := setD LCore.reset s.cores lc c }
def modCore (s : State) (lc : Nat) (f : LCore → LCore) : State := setCore s lc (f (coreOf s lc))

def ctxOf (s : State) (lc c : Nat) : Ctx := getD Ctx.reset (coreOf s lc).ctxs c
def setCtx (s : State) (lc c : Nat) (x : Ctx) : State :=
  setCore s lc { coreOf s lc with ctxs := setD Ctx.reset (coreOf s lc).ctxs c x }
def modCtx (s : State) (lc c : Nat) (f : Ctx → Ctx) : State := setCtx s lc c (f (ctxOf s lc c))

/-- The context whose turn it is. -/
def me (s : State) : Ctx := ctxOf s s.cur.1 s.cur.2
def setMe (s : State) (x : Ctx) : State := setCtx s s.cur.1 s.cur.2 x
def modMe (s : State) (f : Ctx → Ctx) : State := setMe s (f (me s))
def myCore (s : State) : LCore := coreOf s s.cur.1

def physOf (s : State) (p : Nat) : PCore := getD PCore.reset s.phys p
def setPhys (s : State) (p : Nat) (x : PCore) : State := { s with phys := setD PCore.reset s.phys p x }
def modPhys (s : State) (p : Nat) (f : PCore → PCore) : State := setPhys s p (f (physOf s p))

def rowOf (s : State) (r : Nat) : Row := getD Row.reset s.rows r
def setRow (s : State) (r : Nat) (x : Row) : State := { s with rows := setD Row.reset s.rows r x }
def modRow (s : State) (r : Nat) (f : Row → Row) : State := setRow s r (f (rowOf s r))

def yardOf (s : State) (y : Nat) : Yard := getD Yard.reset s.yards y
def setYard (s : State) (y : Nat) (x : Yard) : State := { s with yards := setD Yard.reset s.yards y x }
def modYard (s : State) (y : Nat) (f : Yard → Yard) : State := setYard s y (f (yardOf s y))

def stackOf (s : State) (k : Nat) : Stack := getD Stack.reset s.memStacks k
def setStack (s : State) (k : Nat) (x : Stack) : State := { s with memStacks := setD Stack.reset s.memStacks k x }
def modStack (s : State) (k : Nat) (f : Stack → Stack) : State := setStack s k (f (stackOf s k))

def millOf (s : State) (m : Nat) : Mill := getD Mill.reset s.mills m
def setMill (s : State) (m : Nat) (x : Mill) : State := { s with mills := setD Mill.reset s.mills m x }
def modMill (s : State) (m : Nat) (f : Mill → Mill) : State := setMill s m (f (millOf s m))

def vfOf (s : State) (v : Nat) : VFunc := getD VFunc.reset s.vfs v
def modVf (s : State) (v : Nat) (f : VFunc → VFunc) : State := { s with vfs := setD VFunc.reset s.vfs v (f (vfOf s v)) }

def partOf (s : State) (p : Nat) : Part := getD Part.reset s.parts p
def modPart (s : State) (p : Nat) (f : Part → Part) : State :=
  { s with parts := setD Part.reset s.parts p (f (partOf s p)) }

def taskOf (s : State) (t : Nat) : Option Task := look s.tasks t
def modTask (s : State) (t : Nat) (f : Task → Task) : State :=
  match look s.tasks t with
  | some x => { s with tasks := put s.tasks t (f x) }
  | none => s

/-! ### Numbers of units (R10) -/

/-- The task number and the logical core number of a logical core's key; task 0 is the reeve firmware's. -/
def taskNum (lc : Nat) : Nat := lc / 2048
def lcnOf (lc : Nat) : Nat := lc % 2048
def lcKey (task lcn : Nat) : Nat := task * 2048 + lcn

def dieOf (p : Nat) : Nat := p / 256
def rowNum (p : Nat) : Nat := p / 16
def yardNum (p : Nat) : Nat := p / 8

/-- The physical core a logical core stands on, when it stands on one (R288): it is placed, moving or folded. -/
def standsOn (s : State) (lc : Nat) : Option Nat :=
  let c := coreOf s lc
  if c.lstate = 1 ∨ c.lstate = 2 ∨ c.lstate = 3 then some c.phys else none

/-- The physical core in whose yard a logical core's accumulators lie: the one it left while it is lodged (R237). -/
def homePhys (c : LCore) : Nat := if c.lstate = 4 then c.left else c.phys

/-- The logical cores on a physical core (R288, R289). -/
def coresOn (s : State) (p : Nat) : List Nat := (keys s.cores).filter (fun lc => standsOn s lc == some p)

/-- The address space of a logical core: its task's, or the firmware's (R327). -/
def asidOf (s : State) (lc : Nat) : Nat :=
  match taskOf s (taskNum lc) with
  | some t => t.asid
  | none => 0

/-- The reeve core that serves a die (R307). -/
def reeveOf (s : State) (die : Nat) : Option Nat := look s.reeves die

/-- Is a logical core a reeve core? -/
def isReeve (s : State) (lc : Nat) : Bool := s.reeves.any (fun e => e.2 == lc)

/-- Is the logical core's task foldable (R278)? -/
def foldable (s : State) (lc : Nat) : Bool :=
  match taskOf s (taskNum lc) with
  | some t => t.fold
  | none => false

/-! ### Time (R12, R105) -/

/-- Cycles of the 1.2 GHz mill clock since module reset, against the 1.8 GHz reference clock. -/
def millCycle (s : State) : Nat := s.ticks * 2 / 3

/-- Reference ticks in a microsecond. -/
def usTicks : Nat := 1800

/-! ### Free values (log 5) -/

/-- Take a fresh open value. -/
def takeFree (s : State) : Word × State := (Config.freeValue s.taken, { s with taken := s.taken + 1 })

end Sys2Proof.Machine
end

