-- ==== Sys2Proof/Machine/Frames.lean ====
section
/-! DEFINITION. The frames of memory, lines and their homes, page tables and translation, and the word at an address
(spec/17_memsys.md R327 to R334). -/

namespace Sys2Proof.Machine

/-! ### The frames -/

/-- What a byte of memory that nothing has written reads as (log 1). -/
def blankByte : Byte := 0#8

/-- The canonical form of memory. -/
def Memory.wf (m : List Host.Cell) : Bool := canon blankByte m

/-- One byte of a frame. -/
def memByte (s : State) (a : Nat) : Byte := getD blankByte s.mem a
def setMemByte (s : State) (a : Nat) (b : Byte) : State := { s with mem := setD blankByte s.mem a b }

/-- n bytes as a number, the first the least significant (R2). -/
def bytesNat (f : Nat → Byte) (n : Nat) : Nat := (List.range n).foldl (fun acc i => acc + (f i).toNat * 256 ^ i) 0

/-- n bytes of memory from a on, as a number. -/
def memNat (s : State) (a n : Nat) : Nat := bytesNat (fun i => memByte s (a + i)) n

/-- The byte of a line of 128 bytes. -/
def lineByte (d : BitVec 1024) (i : Nat) : Byte := d.extractLsb' (8 * i) 8

/-- A mask of byte positions. -/
def inMask {w : Nat} (m : BitVec w) (i : Nat) : Bool := m.getLsbD i

/-- The bits of the bytes that a mask names. -/
def byteBits (m : BitVec 128) : BitVec 1024 :=
  BitVec.ofNat 1024 ((List.range 128).foldl (fun acc i => if inMask m i then acc + 255 * 256 ^ i else acc) 0)

/-- The mask of n bytes from byte o on. -/
def spanMask (o n : Nat) : BitVec 128 := BitVec.ofNat 128 ((2 ^ n - 1) * 2 ^ o)

/-- Line d with the bytes of mask m taken from e. -/
def mergeLine (d e : BitVec 1024) (m : BitVec 128) : BitVec 1024 :=
  (d &&& ~~~byteBits m) ||| (e &&& byteBits m)

/-- The 128 bytes of the frame line at a. -/
def frameLine (s : State) (a : Nat) : BitVec 1024 := BitVec.ofNat 1024 (memNat s a 128)

/-- Write the bytes of mask m of a line to the frame at a. -/
def writeFrame (s : State) (a : Nat) (d : BitVec 1024) (m : BitVec 128) : State :=
  (List.range 128).foldl (fun t i => if inMask m i then setMemByte t (a + i) (lineByte d i) else t) s

/-! ### Lines, granules and homes -/

/-- The canonical address with the given low 48 bits (R327). -/
def canonVa (va : Nat) : Nat := if va < 2 ^ 47 then va else va + (2 ^ 64 - 2 ^ 48)

/-- The key of a virtual line in an address space (R330). -/
def lineKey (asid va : Nat) : Nat := asid * 2 ^ 41 + va % 2 ^ 48 / 128
/-- The address space and the virtual address of a line's key. -/
def keyAsid (k : Nat) : Nat := k / 2 ^ 41
def keyVa (k : Nat) : Nat := canonVa (k % 2 ^ 41 * 128)

/-- Bits 63:48 all equal bit 47 (R327). -/
def canonicalVa (va : Nat) : Bool := va / 2 ^ 47 == 0 || va / 2 ^ 47 == 2 ^ 17 - 1

/-- h of R328: the home hash of a line in an address space, six bits. -/
def homeHash (va asid : Nat) : Nat :=
  let g := va / 128 % 2 ^ 41
  let h0 := (asid % 64) ^^^ (asid / 64 % 64) ^^^ (asid / 4096)
  (List.range 7).foldl (fun h i => h ^^^ (g / 2 ^ (6 * i) % 64)) h0

/-- The stacks whose slices passed boot (R329). -/
def goodStacks (s : State) : List Nat := (List.range 16).filter (fun k => !(stackOf s k).skipped)

/-- home(va, asid) (R328, R329): the home stack and the mill within it. -/
def home (s : State) (va asid : Nat) : Nat × Nat :=
  let h := homeHash va asid
  let st := h / 4 % 16
  let g := va / 128 % 2 ^ 41
  let u := (g % 2 ^ 16) ^^^ (g / 2 ^ 16 % 2 ^ 16) ^^^ (g / 2 ^ 32)
  let ok := goodStacks s
  (if (stackOf s st).skipped then ok.getD (u % ok.length) st else st, h % 4)

/-- The home stack and the package number of the home mill. -/
def homeStack (s : State) (va asid : Nat) : Nat := (home s va asid).1
def homeMill (s : State) (va asid : Nat) : Nat := (home s va asid).1 * 4 + (home s va asid).2

/-! ### Pages -/

/-- Page attributes (R201, R332). -/
def attrPlain : Nat := 0
def attrObject : Nat := 1
def attrFrozen : Nat := 2

/-- The size of a page (R332). -/
def pageSize (p : Page) : Nat := if p.large then 2 ^ 25 else 65536

/-- The frame address a virtual address names in its page; the tier stands in bits 49:48. -/
def frameOf (p : Page) (va : Nat) : Nat := p.frame + va % pageSize p

/-- The tier of a frame address, and the stack of a stack frame (R332). -/
def tierOf (a : Nat) : Nat := a / 2 ^ 48
def frameStack (a : Nat) : Nat := a / 2 ^ 37 % 16

/-! ### What frames hold under their keys (R359) -/

/-- The key under which a page is stored: 0 for slot 0, which stores plaintext, and for host memory, whose bytes are not
encrypted; a slot that holds no key counts as holding the key 0 (log 42). -/
def pageKey (s : State) (p : Page) : Nat :=
  if p.key = 0 ∨ tierOf p.frame = 2 then 0 else 1 + getD 0 s.keySlots p.key

/-- The frame line at a as a page reads it: bytes stored under another key decrypt to bytes that the spec leaves open.
A line that nothing has written reads alike under every key (log 42). -/
def pageLine (s : State) (p : Page) (a : Nat) : BitVec 1024 :=
  match look s.frameKeys (a / 128) with
  | none => frameLine s a
  | some k => if k = pageKey s p then frameLine s a else Config.decrypted k (pageKey s p) a (frameLine s a)

/-- Write the bytes of mask m of a line through a page: the line is stored under the page's key. -/
def writePage (s : State) (p : Page) (a : Nat) (d : BitVec 1024) (m : BitVec 128) : State :=
  let t := match look s.frameKeys (a / 128) with
    | none => writeFrame s a d m
    | some k => if k = pageKey s p then writeFrame s a d m
      else writeFrame s a (mergeLine (pageLine s p a) d m) (BitVec.allOnes 128)
  { t with frameKeys := put t.frameKeys (a / 128) (pageKey s p) }

/-- The MSC line that holds a frame line. -/
def mscOfFrame (s : State) (a : Nat) : Option MscLine :=
  (s.msc.find? (fun e => frameOf e.2.page (keyVa e.1) == a / 128 * 128)).map (·.2)

/-- The value of a frame line at the point of coherence: the MSC line that holds it, else the frame's. -/
def currentLine (s : State) (p : Page) (a : Nat) : BitVec 1024 :=
  match mscOfFrame s a with
  | some l => l.data
  | none => pageLine s p (a / 128 * 128)

/-- Eight bytes of the point of coherence at a frame address that is a multiple of 8. -/
def currentWord (s : State) (p : Page) (a : Nat) : Word := (currentLine s p a).extractLsb' (8 * (a % 128)) 64

/-- The page through which the walker reads tables, and the firmware's registers their memory: plaintext (R359). -/
def rawPage : Page := default

/-- What a translation answers (R333): a page, or the entry it failed at. -/
inductive Trans where
  | ok (p : Page)
  | fail (entry : Word)
  deriving DecidableEq, Repr

/-- Does the address space's partition own a key slot (R357, R359)? Firmware spaces name slot 0 only. -/
def ownsSlot (s : State) (asid slot : Nat) : Bool :=
  if asid < 1024 then slot == 0 else slot != 0 && (partOf s (asid / 1024 - 1)).slots.contains slot

/-- A leaf entry is well formed at its level (R332, R333). R332 has PA<24:16> of a level-1 leaf 0, and R333's list does not
name one that is not: the model's choice is that it fails too (log 43). -/
def leafOk (e : Word) (lvl : Nat) : Bool :=
  let tier := bits e 55 54
  let pa := bits e 47 16 * 65536
  decide (lvl ≤ 1) && bits e 62 61 != 3 && !bit e 56 && bits e 53 48 == 0 && bits e 2 0 == 0 && tier != 3 &&
    (lvl != 1 || bits e 24 16 == 0) && (tier != 0 || (bits e 47 41 == 0 && decide (pa % 2 ^ 37 < 96 * 2 ^ 30)))

/-- The page of a leaf entry. -/
def leafPage (e : Word) (lvl : Nat) : Page :=
  { frame := bits e 55 54 * 2 ^ 48 + bits e 47 16 * 65536, large := lvl == 1, attr := bits e 62 61,
    aliased := bit e 60, cmp := bit e 59, w := bit e 58, x := bit e 57, key := bits e 15 3 }

/-- The levels of the walk: number, lowest bit of the index, its width (R332). -/
def walkLevels : List (Nat × Nat × Nat) := [(3, 41, 7), (2, 33, 8), (1, 25, 8), (0, 16, 9)]

/-- Walk the tables from one on (R332, R333). -/
def walkTables (s : State) (asid va : Nat) : List (Nat × Nat × Nat) → Nat → Trans
  | [], _ => .fail 0#64
  | (lvl, lo, n) :: rest, table =>
    let e := currentWord s rawPage (table + va / 2 ^ lo % 2 ^ n * 8)
    if !bit e 63 then .fail e
    else if bits e 62 61 = 3 then
      if lvl = 0 ∨ bits e 60 48 ≠ 0 ∨ bits e 9 0 ≠ 0 then .fail e
      else walkTables s asid va rest (bits e 47 10 * 1024)
    else if leafOk e lvl && ownsSlot s asid (bits e 15 3) then .ok (leafPage e lvl)
    else .fail e

/-- The translation of an address space's root (R326): 0 when it is unused. -/
def rootTable (s : State) (asid : Nat) : Nat := (currentWord s rawPage (bits s.asidbase 63 12 * 4096 + asid * 8)).toNat

/-! ### The stash window (R157) -/

def windowBase : Nat := 0xFFFFFFFFFFF80000
def inWindow (va : Nat) : Bool := decide (windowBase ≤ va)

/-- May an address be translated at all? An address of the stash window never is (R157), and no page maps one that is not
canonical (R327). -/
def mapsPage (va : Nat) : Bool := canonicalVa va && !inWindow va

/-- The key of a page in the TLBs of a stack (R13, R330). -/
def tlbEntry (stack asid va : Nat) : Nat := stack * 2 ^ 48 + asid * 2 ^ 32 + va / 65536 % 2 ^ 32
/-- The key of a line's page in the TLBs of its home stack. -/
def tlbKey (s : State) (asid va : Nat) : Nat := tlbEntry (homeStack s va asid) asid va
def tlbAsid (k : Nat) : Nat := k / 2 ^ 32 % 65536
def tlbVa (k : Nat) : Nat := canonVa (k % 2 ^ 32 * 65536)

/-- A walk of the tables from the address space's root (R326, R332). -/
def walkFrom (s : State) (asid va : Nat) : Trans :=
  if rootTable s asid = 0 then .fail 0#64 else walkTables s asid va walkLevels (rootTable s asid)

/-- Translate (R157, R327, R330, R333, R334): the copy in an MSC tag, else a TLB entry, else a walk. -/
def translate (s : State) (asid va : Nat) : Trans :=
  if !mapsPage va then .fail 0#64
  else match look s.msc (lineKey asid va) with
  | some l => .ok l.page
  | none =>
    match look s.tlb (tlbKey s asid va) with
    | some p => .ok p
    | none => walkFrom s asid va

/-- A translation stays cached (R334). -/
def cachePage (s : State) (asid va : Nat) (p : Page) : State := { s with tlb := put s.tlb (tlbKey s asid va) p }

/-! ### The word at an address -/

/-- A halfword as it stands in memory, when its address translates. -/
def halfAt (s : State) (asid va : Nat) : Option Half :=
  match translate s asid va with
  | .ok p => some ((currentLine s p (frameOf p va)).extractLsb' (8 * (va % 128)) 16)
  | .fail _ => none

/-- The word at an address (R27, R308), a compact form zero-extended; a half that cannot be read gives open bits. -/
def insnAt (s : State) (asid va : Nat) : Nat :=
  let free := (Config.unreadableInsn s.ticks va).toNat % 65536
  let lo := ((halfAt s asid va).map (·.toNat)).getD free
  if lo % 4 = 3 then lo + ((halfAt s asid ((va + 2) % 2 ^ 64)).map (·.toNat)).getD free * 65536 else lo

end Sys2Proof.Machine
end

