-- ==== Sys2Proof/Machine/Ops.lean ====
section
/-! DEFINITION. The named operations over the units of the module that the meanings share, and taking an exception and
returning from one (spec/16_traps.md). -/

namespace Sys2Proof.Machine

/-- What a step answers. -/
abbrev Res := Host.Outcome State Fault Refusal

/-! ### Port words (R120 to R123) -/

/-- A word of the module itself for a queue, which the router holds in order. -/
def postWord (s : State) (dest port : Nat) (v : Word) : State :=
  { s with words := s.words ++ [⟨none, dest, port, v⟩] }

/-- Has a context a word that its router has not yet delivered? -/
def routerBusy (s : State) (lc c : Nat) : Bool := s.words.any (fun w => w.sender == some (lc, c))

/-! ### Counters (R362 to R364, R386) -/

/-- The owner tag of a task's events: virtual function in bits 14:8, partition in bits 5:0 (R362, R363). -/
def ownerTag (s : State) (task : Nat) : Option (Nat × Nat) :=
  match taskOf s task with
  | some t => some (t.part, t.vf)
  | none => none

/-- Does CTAG admit an owner (R363)? -/
def tagAdmits (ctag : Word) (owner : Option (Nat × Nat)) : Bool :=
  bit ctag 15 || (match owner with
    | some (p, v) => bits ctag 5 0 == p && bits ctag 14 8 == v
    | none => false)

/-- Which bin of a histogram a value falls in (R364). -/
def histBin (bnd : Word) (x : Nat) : Nat :=
  if x < bits bnd 15 0 then 0 else if x < bits bnd 31 16 then 1 else if x < bits bnd 47 32 then 2 else 3

/-- Add x to counter n of a core; on a wrap set OV and signal by the route in a CSEL word, to the owner that CTAG names
(R364, R387). -/
def countAdd (s : State) (p n x : Nat) (sel : Word) : State :=
  let pc := physOf s p
  let total := (getD 0#64 pc.cnt n).toNat + x
  let s1 := setPhys s p { pc with cnt := setD 0#64 pc.cnt n (word (total % 2 ^ 48)) }
  if total < 2 ^ 48 then s1
  else
    let s2 := modPhys s1 p (fun q => { q with covf := q.covf ||| (1#64 <<< n) })
    match bits sel 13 12 with
    | 1 =>
      match reeveOf s (dieOf p) with
      | some lc => postWord s2 lc 5 (word (p % 2048 + n * 4096))
      | none => s2
    | 2 => { s2 with msix := s2.msix ++ [(bits pc.ctag 14 8, 1)] }
    | _ => s2

/-- One counter meets an event with value x (R364): MAX keeps no more than the counter's 48 bits hold (R362, log 43).
What HIST in CSEL1 to CSEL3 does while CSEL0 is not HIST is not
stated: the counter then takes a free value (log 5). -/
def countOne (s : State) (p code x n : Nat) : State :=
  let pc := physOf s p
  let sel := getD 0#64 pc.csel n
  let hist := bits (getD 0#64 pc.csel 0) 15 14 == 3
  if hist && n != 0 then s
  else if bits sel 7 0 != code then s
  else match bits sel 15 14 with
    | 0 => countAdd s p n x sel
    | 1 => setPhys s p { pc with cnt := setD 0#64 pc.cnt n (word (min (getD 0#64 pc.cnt n).toNat x)) }
    | 2 => setPhys s p { pc with cnt := setD 0#64 pc.cnt n (word (max (getD 0#64 pc.cnt n).toNat (min x (2 ^ 48 - 1)))) }
    | _ =>
      if n = 0 then countAdd s p (histBin pc.chbnd x) 1 sel
      else setPhys (takeFree s).2 p { pc with cnt := setD 0#64 pc.cnt n (word ((takeFree s).1.toNat % 2 ^ 48)) }

/-- An event of a physical core, carrying an owner (R363, R386). -/
def countEvent (s : State) (p code x : Nat) (owner : Option (Nat × Nat)) : State :=
  if tagAdmits (physOf s p).ctag owner then
    (List.range 4).foldl (fun t n => countOne t p code x n) s
  else s

/-- An event of a logical core's task, counted where the core stands. -/
def countAt (s : State) (lc code x : Nat) : State :=
  match standsOn s lc with
  | some p => countEvent s p code x (ownerTag s (taskNum lc))
  | none => s

/-! ### Causes (R305) -/

def causeIllegalInsn : Nat := 0x01
def causeIllegalReg : Nat := 0x02
def causeFormat : Nat := 0x03
def causeMisaligned : Nat := 0x04
def causeProtect : Nat := 0x05
def causeEscape : Nat := 0x06
def causeLease : Nat := 0x07
def causePoison : Nat := 0x08
def causeMxMismatch : Nat := 0x09
def causeSprint : Nat := 0x0A
def causeTrap : Nat := 0x0B
def causeBreak : Nat := 0x0C
def causeTile : Nat := 0x0D
def causeCopy : Nat := 0x0E
def causeWatch : Nat := 0x0F

/-! ### Taking an exception: the freeze and its packet (R305 to R309) -/

/-- Word 0 of a fault packet (R308). -/
def packetHead (s : State) (lc c cause sub : Nat) (deliv : Bool) : Word :=
  word (taskNum lc * 2 ^ 44 + lcnOf lc * 2 ^ 33 + (coreOf s lc).phys * 2 ^ 22 + c * 2 ^ 18 +
    (if deliv then 2 ^ 17 else 0) + sub * 2 ^ 8 + cause)

/-- The sixteen words of a fault packet (R308, R309): a precise cause gives the word at PC. -/
def packetWords (s : State) (lc c cause sub : Nat) (deliv : Bool) (addr : Word) (detail : List Word) : List Word :=
  let x := ctxOf s lc c
  [packetHead s lc c cause sub deliv, x.pc, (if deliv then 0#64 else word (insnAt s (asidOf s lc) x.pc.toNat)),
    word s.ticks, addr] ++
    (detail ++ List.replicate 11 0#64).take 11

/-- Is a RESIZE of this context under way (R169)? -/
def resizes (k : LCore) (c : Nat) : Bool :=
  match k.resizing with
  | some r => r.1 == c
  | none => false

/-- A context leaves the readers that wait at the queues of its core, and gives up a RESIZE under way. -/
def dropWaiter (s : State) (lc c : Nat) : State :=
  modCore s lc (fun k => { k with waiters := k.waiters.filter (fun w => w.2 != c)
                                  resizing := if resizes k c then none else k.resizing })

/-- The contexts that a halt group stops when it trips (R321, R322): every RECV member. -/
def groupMembers (s : State) (group : Nat) : List (Nat × Nat) :=
  s.cores.flatMap (fun k => k.2.ctxs.filterMap (fun x =>
    if x.2.live && bit x.2.haltg 9 && bits x.2.haltg 5 0 == group then some (k.1, x.1) else none))

/-- The cycles of a member's row within which it sees a stop (R322). -/
def stopCycles : Nat := 40

/-- Trip a halt group, unless it is tripped already (R322, R323). A trigger that is a RECV member is frozen by now: its
stop stays pending. -/
def tripGroup (s : State) (lc c group : Nat) : State :=
  if (look s.tripped group).isSome then s
  else
    let ms := groupMembers s group
    if ms.isEmpty then s else
    { s with
      tripped := put s.tripped group ms
      stopsDue := s.stopsDue ++ ms.map (fun m => ⟨m.1, m.2, group, (coreOf s lc).phys, c, s.ticks, stopCycles⟩) }

/-- TAKING AN EXCEPTION (R305, R306, R308): the context freezes where it stands, its cause and sub-code show in DSTAT,
a packet waits in the die, and a precise freeze of a TRIG context trips its halt group (R322). PC, ELIT and every
register keep their values. -/
def freeze (s : State) (lc c cause sub : Nat) (deliv : Bool) (addr : Word) (detail : List Word) : State :=
  let x := ctxOf s lc c
  let pk : Packet := ⟨lc, c, packetWords s lc c cause sub deliv addr detail⟩
  let s1 := { s with packets := s.packets ++ [pk] }
  let s2 := dropWaiter s1 lc c
  let s3 := setCtx s2 lc c { x with frozen := true, cause := cause, sub := sub, deliv := deliv, wait := 0,
                                    stage := .idle, counted := false, stepping := false }
  if !deliv && !x.stepping && bit x.haltg 8 && bits x.haltg 5 0 != 0 then tripGroup s3 lc c (bits x.haltg 5 0)
  else s3

/-- The contexts of a task's crew that are live. -/
def crewContexts (s : State) (task : Nat) : List (Nat × Nat) :=
  (s.cores.filter (fun k => taskNum k.1 == task)).flatMap (fun k =>
    (k.2.ctxs.filter (fun x => x.2.live)).map (fun x => (k.1, x.1)))

/-- A delivered cause becomes pending for a live context (R305, R306). -/
def pendCause (s : State) (lc c : Nat) (p : Pending) : State :=
  if (ctxOf s lc c).live then modCtx s lc c (fun x => { x with pend := x.pend ++ [p] }) else s

/-! ### Waits and boundaries (R103, R298, R305, R313, R335) -/

/-- The code under which a context waits on a request of its own that is parked (R335): DSTAT shows 7 for it, and code says
in what it waits. -/
def parkedWait (code : Nat) : Nat := code + 16

/-- In what a context waits, by its DSTAT.WAIT codes. -/
def waitsIn (x : Ctx) : Nat := x.wait % 16

/-- The waits at whose own word a delivered cause is taken (R298, R305), by their DSTAT.WAIT codes: port read, WAITP, BAR
and BARW, TWAIT, WAITJ and the first step of HALT. A BAR that waits for its release has not arrived yet and is none of
them: a BAR that freezes while it waits has recorded its arrival (R130). Any other instruction that has issued and waits
reaches its end first. -/
def interruptible (x : Ctx) : Bool :=
  decide (1 ≤ waitsIn x) && decide (waitsIn x ≤ 6) && decide (x.stage = .idle)

/-- May a context take a delivered cause now (R50, R103, R305)? It is live and not frozen, no extension is pending, and it
stands in an interruptible wait or between instructions: one that waits for its next instruction's sources, a reply among
them (R110), has not issued it. -/
def atDelivery (x : Ctx) : Bool :=
  x.live && !x.frozen && !bit x.elit 63 &&
    (interruptible x || ((waitsIn x == 0 || waitsIn x == 8) && decide (x.stage = .idle)))

/-- May a context take a pending delivered cause now? -/
def deliverable (x : Ctx) : Bool := atDelivery x && !x.pend.isEmpty

/-! ### POISON (R349, R350) -/

/-- A pending cause that tells a context of a POISON: the cause itself, or a copy's fault with that sub-code (R248). -/
def isPoisonCause (p : Pending) : Bool := p.cause == causePoison || (p.cause == causeCopy && p.sub == 4)

/-- A context of a task that has met a POISON has the cause pending, unless it is frozen or is told of one already; it takes
it at once where it stands at a boundary, and else at its next one (R50, R103, R305, R350). -/
def freezePoisoned (s : State) (e : Nat × Nat) : State :=
  if (ctxOf s e.1 e.2).frozen then s
  else
    let s1 := if (ctxOf s e.1 e.2).pend.any isPoisonCause then s else pendCause s e.1 e.2 ⟨causePoison, 0, 0#64, []⟩
    let x := ctxOf s1 e.1 e.2
    match x.pend.find? isPoisonCause with
    | some p =>
      if atDelivery x then
        freeze (setCtx s1 e.1 e.2 { x with pend := x.pend.erase p }) e.1 e.2 p.cause p.sub true p.addr p.detail
      else s1
    | none => s1

/-- Every live context of a task that has met a POISON freezes, at once or at its next boundary. -/
def freezeCrew (s : State) (task : Nat) : State := (crewContexts s task).foldl freezePoisoned s

/-- The dispatcher learns that a task met a POISON: its contexts freeze and its rollback, or its end, starts (R349,
R350). -/
def poisonMet (s : State) (task : Nat) : State :=
  match taskOf s task with
  | some t =>
    if t.stage = .placed ∧ t.rolling = false then freezeCrew (modTask s task (fun q => { q with rolling := true })) task
    else s
  | none => s

/-- The current context takes a precise cause (R46, R305). -/
def trapAt (s : State) (cause sub : Nat) (addr : Word) (detail : List Word) : Res :=
  let s1 := freeze s s.cur.1 s.cur.2 cause sub false addr detail
  .next (if cause = causePoison then poisonMet s1 (taskNum s.cur.1) else s1)

/-- A precise cause with nothing but its code (R309, other causes). -/
def trap (s : State) (cause : Nat) : Res := trapAt s cause 0 0#64 []

/-- A precise cause at an address. -/
def trapAddr (s : State) (cause : Nat) (addr : Nat) : Res := trapAt s cause 0 (word addr) []

/-- Take the oldest pending delivered cause (R306). -/
def deliver (s : State) (lc c : Nat) : State :=
  let x := ctxOf s lc c
  match x.pend with
  | p :: ps => freeze (setCtx s lc c { x with pend := ps }) lc c p.cause p.sub true p.addr p.detail
  | [] => s

/-- A halt group re-arms when every member it stopped has been resumed or ended (R323). -/
def rearm (s : State) (lc c : Nat) : State :=
  { s with tripped := updWhere s.tripped (fun _ => true) (fun ms =>
      let rest := ms.filter (fun m => m != (lc, c))
      if rest.isEmpty && !ms.isEmpty then none else some rest) }

/-- The accumulators a context's faulted jobs still hold back after it resumes (R234): those of faults it has not been
told of. -/
def stillHeld (x : Ctx) (acc : Nat) : Bool :=
  x.pend.any (fun p => (p.cause == causeMxMismatch || p.cause == causePoison) && (match p.detail with
    | w :: _ => bits w 18 16 == acc
    | [] => false))

/-- The detail words of a copy's fault (R309). -/
def copyDetail (k : Copy) : List Word := k.words ++ [word (k.trying.getD k.pos)]

/-- A copy stopped by a fault that its context has been told of goes on when the context resumes (R248). -/
def resumeCopy (lc c : Nat) (x : Ctx) (k : Copy) : Copy :=
  if k.lc = lc ∧ k.ctx = c ∧ k.orphan = false ∧
      x.pend.all (fun p => p.cause != causeCopy || p.detail != copyDetail k) then { k with fault := none } else k

/-- RETURNING FROM AN EXCEPTION (R313): the context continues at PC; jobs held behind a fault it was told of may run
(R234), and copies stopped by one go on (R248). A context that a group's trip had stopped counts as resumed (R323). -/
def thaw (s : State) (lc c : Nat) : State :=
  let x := ctxOf s lc c
  let s1 := modCore s lc (fun k => { k with blocked := k.blocked.filter (fun b => b.1 != c || stillHeld x b.2) })
  let s2 := modYard s1 (yardNum (homePhys (coreOf s lc))) (fun y => { y with copies := y.copies.map (resumeCopy lc c x) })
  let s3 := setCtx s2 lc c { x with frozen := false, cause := 0, sub := 0, deliv := false, wait := 0, stage := .idle }
  if x.deliv && x.cause == causeBreak && x.sub == 1 then rearm s3 lc c else s3

/-! ### Waiting and completing -/

/-- Is a word of the V class (R110)? A compact form is of the class of the form it stands for. -/
def isVClass (w : Nat) : Bool :=
  let major := w / 4 % 32
  let fn := w / 2 ^ 29
  if w % 4 = 3 then
    major == 0x0A || major == 0x0B || (decide (0x18 ≤ major) && decide (major ≤ 0x1E)) ||
      (major == 0x0C && fn == 0) || (major == 0x14 && decide (fn ≤ 1))
  else w % 4 == 0 && decide (12 ≤ major) && decide (major ≤ 15)

/-- The codes under which an instruction word counts at its issue (R386). -/
def issueCodes (w : Nat) : List Nat := if isVClass w then [0x02, 0x03] else [0x02]

/-- The current context's instruction issues without completing: it is counted (R386). -/
def noteIssue (s : State) : State :=
  if (me s).counted then s
  else (issueCodes (insnAt s (asidOf s s.cur.1) (me s).pc.toNat)).foldl (fun t code => countAt t s.cur.1 code 1)
    (modMe s (fun x => { x with counted := true, age := 0, issuedAt := s.ticks }))

/-- The tick at which the current context's instruction issued (R362): one that has issued and waited, as an access that
parks
and is replayed, issued then. -/
def issueTick (s : State) : Nat := if (me s).counted then (me s).issuedAt else s.ticks

/-- Does a DSTAT.WAIT code say that an instruction has issued and waits (R313)? One that waits for a source, in a port read
or for a reply, has not issued (R110). -/
def waitIssued (code : Nat) : Bool := decide (2 ≤ code % 16) && decide (code % 16 ≤ 6)

/-- Is a requester parked behind a record? -/
def isParked (s : State) (r : Requester) : Bool := s.records.any (fun m => m.waiters.any (fun w => w.who == r))

/-- The instruction cannot go on yet: the context waits at its word with a DSTAT.WAIT code (R313). -/
def waitAt (s : State) (code : Nat) : Res :=
  .next (modMe (if waitIssued code then noteIssue s else s) (fun x => { x with wait := code }))

/-- Is the offer, settle or release that a reply register of the current context waits for parked? -/
def replyParked (s : State) (y : Nat) : Bool :=
  isParked s (.offer s.cur.1 s.cur.2 y) || isParked s (.settle s.cur.1 s.cur.2 y)

/-- Is a REFST of a context parked? -/
def myRefstParked (s : State) (lc c : Nat) : Bool :=
  s.writes.any (fun w => w.lc == lc && w.ctx == c && w.refst.isSome && isParked s (.refst lc c w.key))

/-- The wait, under a code, of the current context for all its replies, and for the REFSTs that it has sent (R335). -/
def repliesWait (s : State) (code : Nat) : Nat :=
  if (me s).ypend.any (replyParked s) || myRefstParked s s.cur.1 s.cur.2 then parkedWait code else code

/-- The wait, under a code, of the current context for the reply that names yN (R335). -/
def replyWait (s : State) (y code : Nat) : Nat := if replyParked s y then parkedWait code else code

/-- MOVY, SETL and RLS wait for the reply that names yN (R181, R193, R194). The reply is a source: they have not issued
(R110). -/
def waitReply (s : State) (y : Nat) : Res := waitAt s (replyWait s y 8)

/-- The instruction has issued and waits, recording how far it has come. -/
def waitStage (s : State) (code : Nat) (st : Stage) : Res :=
  .next (modMe (noteIssue s) (fun x => { x with wait := code, stage := st }))

/-- The instruction has issued and waits; how far it has come stays, once it has begun. -/
def waitBegun (s : State) (code : Nat) : Res :=
  waitStage s code (if (me s).stage = .idle then .begun else (me s).stage)

end Sys2Proof.Machine
end

