-- ==== Sys2Proof/Machine/Flags.lean ====
section
/-! DEFINITION. FMODE: reading it, raising its flags, writing it (R74 to R77), and the generator (R82). -/

namespace Sys2Proof.Machine

/-- FMODE of the current context (R76). -/
def fm (s : State) : Word := (me s).fmode

/-- Flags are ORed into FMODE when the instruction completes (R77). -/
def raise (f : Flags) (fmode : Word) : Word := fmode ||| flagBits f

/-- FMODE after a SYSWR (R74, R75): RM unchanged for 5 to 7, the other RW fields written, 1 clears a flag. -/
def writeFmode (old v : Word) : Word :=
  let rm := if bits v 2 0 < 5 then bits v 2 0 else bits old 2 0
  (old &&& 0xF0000#64 &&& ~~~v) ||| (v &&& 0x1F8#64) ||| word rm

/-- SRG after a write (R82). -/
def writeSrg (v : Word) : Word := if v = 0#64 then srgDefault else v

end Sys2Proof.Machine
end

