-- ==== Sys2Proof/Machine/Operands.lean ====
section
/-! DEFINITION. The operand forms (R38 to R45, R49, R57), the checks and waits before an instruction issues (R44, R46,
R89, R120, R121), and its completion (R42, R43, R49). -/

namespace Sys2Proof.Machine

/-! ### Registers -/

/-- S[n]: s0 reads zero (R87). -/
def sreg (x : Ctx) (n : Nat) : Word := if n = 0 then 0#64 else getD 0#64 x.s n
/-- Write S[n]: s0 ignores writes (R87). -/
def setSreg (x : Ctx) (n : Nat) (v : Word) : Ctx := if n = 0 then x else { x with s := setD 0#64 x.s n v }

/-- V[n] and its tag. -/
def vreg (x : Ctx) (n : Nat) : Vec := getD 0 x.v n
def vtagOf (x : Ctx) (n : Nat) : Tag := getD .raw x.vtag n
def setVreg (x : Ctx) (n : Nat) (t : Tag) (v : Vec) : Ctx :=
  { x with v := setD 0 x.v n v, vtag := setD .raw x.vtag n t }

def ereg (x : Ctx) (n : Nat) : Word := getD 0#64 x.e n
def setEreg (x : Ctx) (n : Nat) (v : Word) : Ctx := { x with e := setD 0#64 x.e n v }
def yreg (x : Ctx) (n : Nat) : Word := getD 0#64 x.y n
def setYreg (x : Ctx) (n : Nat) (v : Word) : Ctx := { x with y := setD 0#64 x.y n v }

/-- ALLOT.SB and ALLOT.VB (R109). -/
def allotSB (x : Ctx) : Nat := bits x.allot 3 0
def allotVB (x : Ctx) : Nat := bits x.allot 7 4
def mkAllot (vb sb : Nat) : Word := word (vb % 16 * 16 + sb % 16)

/-- Is a scalar code inside the allotment (R44)? s0 to s7 always are, and a port is no register. -/
def scalarHeld (x : Ctx) (n : Nat) : Bool := decide (56 ≤ n) || decide (n < 8 * (allotSB x + 1))
/-- Is a vector register inside the allotment (R44, R109)? -/
def vectorHeld (x : Ctx) (n : Nat) : Bool := decide (n < 4 * allotVB x)

/-! ### What an instruction names -/

/-- The operands an instruction reads, the scalar destination it writes with the destination rule of R42, and further
scalar and vector registers it names. -/
structure Names where
  srcs : List Opnd
  dst : Option Nat
  regs : List Nat
  vregs : List Nat

/-- The scalar codes, the vector registers and the ports of a list of operands. -/
def scalarCodes (os : List Opnd) : List Nat := os.filterMap (fun o => match o with
  | .s f => some f.toNat
  | _ => none)
def vectorCodes (os : List Opnd) : List Nat := os.filterMap (fun o => match o with
  | .v f => some f.toNat
  | _ => none)
def portsOf (os : List Opnd) : List Nat :=
  ((scalarCodes os).filterMap (fun n => if 56 ≤ n then some (n - 56) else none)).dedup

/-- Every register named lies inside the allotment (R44). -/
def allHeld (x : Ctx) (n : Names) : Bool :=
  (scalarCodes n.srcs).all (scalarHeld x) && (vectorCodes n.srcs).all (vectorHeld x) &&
    n.regs.all (scalarHeld x) && n.vregs.all (vectorHeld x) &&
    (match n.dst with
      | some d => scalarHeld x d
      | none => true)

/-- Is some register named still to be written by an earlier instruction (R89)? -/
def anyPending (x : Ctx) (n : Names) : Bool :=
  (scalarCodes n.srcs).any (fun r => x.spend.contains r) || (vectorCodes n.srcs).any (fun r => x.vpend.contains r) ||
    n.regs.any (fun r => x.spend.contains r) || n.vregs.any (fun r => x.vpend.contains r) ||
    (match n.dst with
      | some d => x.spend.contains d
      | none => false)

/-! ### Ports (R43, R120, R121) -/

/-- The queue of a port. -/
def queueOf (k : LCore) (p : Nat) : List Word := getD [] k.queues p

/-- Is a queue empty at which context c waits? -/
def lacksWord (k : LCore) (c : Nat) : Bool := k.waiters.any (fun w => w.2 == c && (queueOf k w.1).isEmpty)

/-- Does a reader of port p that has waited longer than context c stand before it (R121)? One that reads two ports and
lacks a
word at the other cannot take its word yet, and is passed over: the spec is silent on it, and this is the model's choice
(log
43). -/
def readerAhead (k : LCore) (p c : Nat) : Bool :=
  ((k.waiters.filter (fun w => w.1 == p)).takeWhile (fun w => w.2 != c)).any (fun w => !lacksWord k w.2)

/-- The word that context c reads from port p, when its turn among the readers has come: the oldest one, for the words of a
queue are consumed in their order (R43, R120 to R122). -/
def portWord (k : LCore) (c p : Nat) : Option Word := if readerAhead k p c then none else (queueOf k p).head?

/-- Consume the oldest word of a port, and stop waiting there (R43). -/
def consumePort (c : Nat) (k : LCore) (p : Nat) : LCore :=
  { k with queues := setD [] k.queues p (queueOf k p).tail
           waiters := k.waiters.filter (fun w => w != (p, c)) }

/-- Context c joins the readers of the ports it is not yet waiting at (R121). The spec is silent on an instruction that
reads two ports while one holds a word: it joins the readers of both (log 43). -/
def joinReaders (c : Nat) (k : LCore) (ps : List Nat) : LCore :=
  { k with waiters := k.waiters ++ (ps.filter (fun p => !k.waiters.contains (p, c))).map (fun p => (p, c)) }

/-- Does the destination send a word (R42)? -/
def sendsPort : Option Nat → Bool
  | some d => decide (56 ≤ d)
  | none => false

/-! ### Before an instruction issues -/

/-- Does the destination of an offer of the current context lie among the registers that an instruction names? -/
def offerWritesTo (s : State) (n : Names) (o : Offer) : Bool :=
  o.lc == s.cur.1 && o.ctx == s.cur.2 && replyParked s o.y &&
    (if o.shape = .vector then (vectorCodes n.srcs ++ n.vregs).contains o.dst
    else (scalarCodes n.srcs ++ n.regs ++ n.dst.toList).contains o.dst)

/-- Does an instruction wait for the destination of an offer that is parked (R335)? -/
def sourceParked (s : State) (n : Names) : Bool :=
  s.mills.any (fun m => (m.2.queue ++ m.2.slots).any (offerWritesTo s n))

/-- The wait, not issued, for registers that an earlier instruction has still to write (R89, R335). -/
def sourceWait (s : State) (n : Names) : Nat := if sourceParked s n then parkedWait 0 else 0

/-- The checks and waits that every instruction shares: registers outside the allotment trap (R44, R46 step 3); sources
still to be written hold the instruction back (R89); an empty port makes the context wait (R120); a send waits for the
router (R123). Then k. -/
def issue (n : Names) (s : State) (k : State → Res) : Res :=
  let x := me s
  if allHeld x n = false then trap s causeIllegalReg
  else if anyPending x n then waitAt s (sourceWait s n)
  else
    let ps := portsOf n.srcs
    if ps.all (fun p => (portWord (myCore s) s.cur.2 p).isSome) = false then
      .next (modMe (modCore s s.cur.1 (fun c => joinReaders s.cur.2 c ps)) (fun y => { y with wait := 1 }))
    else if sendsPort n.dst && routerBusy s s.cur.1 s.cur.2 then waitAt s 0
    else k s

/-! ### Operand values -/

/-- lit(f) (R45, R49): the literal, widened by a pending extension when this is the field R49 selects. -/
def litVal (x : Ctx) (widen : Bool) (f : F6) : Word :=
  if widen && bit x.elit 63 then sext (x.elit.extractLsb' 0 24 ++ f) else sext f

/-- The constant bank of the current context's task (R87). The firmware's contexts have no task and no bank: the model's
choice is that they read 0 (log 43). -/
def constVal (s : State) (n : Nat) : Word :=
  match taskOf s (taskNum s.cur.1) with
  | some t => t.bank.getD n 0#64
  | none => 0#64

/-- opnd(k, f)<63:0> for a value operand (R45). -/
def opndVal (s : State) (widen : Bool) (o : Opnd) : Word :=
  match o with
  | .s f =>
    if f.toNat < 56 then sreg (me s) f.toNat
    else (portWord (myCore s) s.cur.2 (f.toNat - 56)).getD 0#64
  | .v f => BitVec.setWidth 64 (vreg (me s) f.toNat)
  | .c f => constVal s f.toNat
  | .lit f => litVal (me s) widen f

/-- Is the operand an inline literal? -/
def isLit : Opnd → Bool
  | .lit _ => true
  | _ => false

/-- B, widened when it is a literal (R49). -/
def valB (s : State) (b : Opnd) : Word := opndVal s true b

/-- A, widened when it is a literal and B is none (R49). -/
def valA (s : State) (a b : Opnd) : Word := opndVal s (!isLit b) a

/-- A scalar register operand. -/
def valS (s : State) (r : F6) : Word := sreg (me s) r.toNat

/-! ### Completing -/

/-- dest(d) ← w (R42): 0 discards, 1 to 55 write a register, 56 to 63 send a word to the logical core PSEL names. -/
def writeDest (s : State) (d : Nat) (w : Word) : State :=
  if d < 56 then modMe s (fun x => setSreg x d w)
  else { s with words := s.words ++ [⟨some s.cur, lcKey (taskNum s.cur.1) (bits (me s).psel 15 0), d - 56, w⟩] }

/-- Consume the port words an instruction read (R43). -/
def consumePorts (s : State) (srcs : List Opnd) : State :=
  modCore s s.cur.1 (fun k => (portsOf srcs).foldl (consumePort s.cur.2) k)

/-- Count the current context's instruction at its issue, once (R386): it is counted already when it has waited. -/
def countIssue (s : State) (code : Nat) : State :=
  if (me s).counted then s else countAt s s.cur.1 code 1

/-- The context moves past its instruction: PC, ELIT.V cleared (R49), no wait, nothing in progress, the instruction
counted, and a single step ends in a freeze (R313). -/
def advance (s : State) (pc : Word) : State :=
  let s2 := modMe (countIssue s 0x02) (fun x =>
    { x with pc := pc, elit := x.elit &&& 0x7FFFFFFFFFFFFFFF#64, wait := 0, stage := .idle, counted := false, age := 0 })
  if (me s2).stepping then freeze s2 s2.cur.1 s2.cur.2 causeBreak 2 false 0#64 [] else s2

/-- A V-class instruction is counted (R110, R386). -/
def countV (s : State) : State := countIssue s 0x03

/-- The address after an instruction of len bytes. -/
def pcAfter (s : State) (len : Nat) : Word := (me s).pc + word len

/-- An instruction with a scalar result completes (R42, R43, R49): ports consumed, result written, PC set. -/
def finishTo (n : Names) (s : State) (w : Word) (pc : Word) : Res :=
  let s1 := consumePorts s n.srcs
  let s2 := match n.dst with
    | some d => writeDest s1 d w
    | none => s1
  .next (advance s2 pc)

/-- As finishTo, going on at the next word. -/
def finish (n : Names) (len : Nat) (s : State) (w : Word) : Res := finishTo n s w (pcAfter s len)

/-- A taken transfer completes: the context's next instruction issues two cycles later (R378, 05 on the pipeline). -/
def jumpTo (n : Names) (s : State) (w : Word) (pc : Word) : Res := finishTo n (modMe s (fun x => { x with gap := 1 })) w pc

/-- A context's registers are changed and the instruction completes. -/
def finishCtx (n : Names) (len : Nat) (s : State) (f : Ctx → Ctx) : Res :=
  .next (advance (modMe (consumePorts s n.srcs) f) (pcAfter s len))

/-- The round-robin order with a context moved to its end (R111). -/
def moveLast {α : Type} [BEq α] (l : List α) (c : α) : List α := l.filter (fun x => x != c) ++ [c]

/-- A context moves to the end of the round-robin order of the physical core it is on (R111, R113). -/
def rotate (s : State) (e : Nat × Nat) : State :=
  match standsOn s e.1 with
  | some p => modPhys s p (fun q => { q with rr := moveLast (q.rr.filter (fun x => (coresOn s p).contains x.1)) e })
  | none => s

end Sys2Proof.Machine
end

