-- ==== Sys2Proof/Machine/Scalar.lean ====
section
/-! DEFINITION. Scalar arithmetic, logic, comparison and move instructions, TS, WHO, and the extension class
(spec/05_scalar.md R87 to R97, R105, R107; spec/03_encoding.md R47 to R54). -/

namespace Sys2Proof.Machine

/-! ### Shared shapes -/

/-- Bytes of a 32-bit word and of a compact form (R27). -/
def long : Nat := 4
def short : Nat := 2

/-- A compact form's scalar register (R30). -/
def c3 (r : F3) : Opnd := .s (r.setWidth 6)

/-- d, a, b: a value of two operands (R91). wide is false for a compact form, which discards an extension (R49). -/
def scalar2 (len : Nat) (wide : Bool) (f : Word → Word → Word) (d : Nat) (a b : Opnd) (s : State) : Res :=
  issue ⟨[a, b], some d, [], []⟩ s (fun t =>
    finish ⟨[a, b], some d, [], []⟩ len t (f (opndVal t (wide && !isLit b) a) (opndVal t wide b)))

/-- d, a: a value of one operand. -/
def scalar1 (len : Nat) (wide : Bool) (f : Word → Word) (d : Nat) (a : Opnd) (s : State) : Res :=
  issue ⟨[a], some d, [], []⟩ s (fun t => finish ⟨[a], some d, [], []⟩ len t (f (opndVal t wide a)))

/-- d: a value the state gives. -/
def scalar0 (f : State → Word) (d : Nat) (s : State) : Res :=
  issue ⟨[], some d, [], []⟩ s (fun t => finish ⟨[], some d, [], []⟩ long t (f t))

/-! ### What they compute (R92 to R96) -/

/-- A shift amount: the low six bits (R92). -/
def amount (b : Word) : Nat := b.toNat % 64

def opAdd (a b : Word) : Word := a + b
def opSub (a b : Word) : Word := a - b
def opAnd (a b : Word) : Word := a &&& b
def opOr (a b : Word) : Word := a ||| b
def opXor (a b : Word) : Word := a ^^^ b
def opShl (a b : Word) : Word := a <<< amount b
def opShr (a b : Word) : Word := a >>> amount b
def opSar (a b : Word) : Word := a.sshiftRight (amount b)
def opMul (a b : Word) : Word := a * b
def opMulh (a b : Word) : Word := wordOfInt (a.toInt * b.toInt / ((2 ^ 64 : Nat) : Int))
def opMulhn (a b : Word) : Word := word (a.toNat * b.toNat / 2 ^ 64)
/-- DIV: truncating; the overflow row of R93 is what wrapping gives. -/
def opDiv (a b : Word) : Word := if b = 0#64 then 0xFFFFFFFFFFFFFFFF#64 else wordOfInt (a.toInt.tdiv b.toInt)
def opDivn (a b : Word) : Word := if b = 0#64 then 0xFFFFFFFFFFFFFFFF#64 else word (a.toNat / b.toNat)
def opRem (a b : Word) : Word := if b = 0#64 then a else wordOfInt (a.toInt - b.toInt * a.toInt.tdiv b.toInt)
def opRemn (a b : Word) : Word := if b = 0#64 then a else word (a.toNat % b.toNat)
def opSeq (a b : Word) : Word := flagWord (decide (a = b))
def opSne (a b : Word) : Word := flagWord (decide (a ≠ b))
def opSlt (a b : Word) : Word := flagWord (decide (a.toInt < b.toInt))
def opSltn (a b : Word) : Word := flagWord (decide (a.toNat < b.toNat))
def opSle (a b : Word) : Word := flagWord (decide (a.toInt ≤ b.toInt))
def opSlen (a b : Word) : Word := flagWord (decide (a.toNat ≤ b.toNat))
def opMin (a b : Word) : Word := if a.toInt ≤ b.toInt then a else b
def opMax (a b : Word) : Word := if b.toInt ≤ a.toInt then a else b
def opMinn (a b : Word) : Word := if a.toNat ≤ b.toNat then a else b
def opMaxn (a b : Word) : Word := if b.toNat ≤ a.toNat then a else b
def opSext (a b : Word) : Word := wordOfInt (sx a.toNat (amount b + 1))
def opClz (a : Word) : Word := word (leadingZeros a)
def opCtz (a : Word) : Word := word (trailingZeros a)
def opPopc (a : Word) : Word := word (popCount a)
def opMov (a : Word) : Word := a

/-! ### The instructions -/

def execAdd (d : F6) (a b : Opnd) (s : State) : Res := scalar2 long true opAdd d.toNat a b s

def execSub (d : F6) (a b : Opnd) (s : State) : Res := scalar2 long true opSub d.toNat a b s

def execAnd (d : F6) (a b : Opnd) (s : State) : Res := scalar2 long true opAnd d.toNat a b s

def execOr (d : F6) (a b : Opnd) (s : State) : Res := scalar2 long true opOr d.toNat a b s

def execXor (d : F6) (a b : Opnd) (s : State) : Res := scalar2 long true opXor d.toNat a b s

def execShl (d : F6) (a b : Opnd) (s : State) : Res := scalar2 long true opShl d.toNat a b s

def execShr (d : F6) (a b : Opnd) (s : State) : Res := scalar2 long true opShr d.toNat a b s

def execSar (d : F6) (a b : Opnd) (s : State) : Res := scalar2 long true opSar d.toNat a b s

def execMul (d : F6) (a b : Opnd) (s : State) : Res := scalar2 long true opMul d.toNat a b s

def execMulh (d : F6) (a b : Opnd) (s : State) : Res := scalar2 long true opMulh d.toNat a b s

def execMulhn (d : F6) (a b : Opnd) (s : State) : Res := scalar2 long true opMulhn d.toNat a b s

def execDiv (d : F6) (a b : Opnd) (s : State) : Res := scalar2 long true opDiv d.toNat a b s

def execDivn (d : F6) (a b : Opnd) (s : State) : Res := scalar2 long true opDivn d.toNat a b s

def execRem (d : F6) (a b : Opnd) (s : State) : Res := scalar2 long true opRem d.toNat a b s

def execRemn (d : F6) (a b : Opnd) (s : State) : Res := scalar2 long true opRemn d.toNat a b s

def execSeq (d : F6) (a b : Opnd) (s : State) : Res := scalar2 long true opSeq d.toNat a b s

def execSne (d : F6) (a b : Opnd) (s : State) : Res := scalar2 long true opSne d.toNat a b s

def execSlt (d : F6) (a b : Opnd) (s : State) : Res := scalar2 long true opSlt d.toNat a b s

def execSltn (d : F6) (a b : Opnd) (s : State) : Res := scalar2 long true opSltn d.toNat a b s

def execSle (d : F6) (a b : Opnd) (s : State) : Res := scalar2 long true opSle d.toNat a b s

def execSlen (d : F6) (a b : Opnd) (s : State) : Res := scalar2 long true opSlen d.toNat a b s

def execMin (d : F6) (a b : Opnd) (s : State) : Res := scalar2 long true opMin d.toNat a b s

def execMax (d : F6) (a b : Opnd) (s : State) : Res := scalar2 long true opMax d.toNat a b s

def execMinn (d : F6) (a b : Opnd) (s : State) : Res := scalar2 long true opMinn d.toNat a b s

def execMaxn (d : F6) (a b : Opnd) (s : State) : Res := scalar2 long true opMaxn d.toNat a b s

def execSext (d : F6) (a b : Opnd) (s : State) : Res := scalar2 long true opSext d.toNat a b s

def execClz (d : F6) (a : Opnd) (s : State) : Res := scalar1 long true opClz d.toNat a s

def execCtz (d : F6) (a : Opnd) (s : State) : Res := scalar1 long true opCtz d.toNat a s

def execPopc (d : F6) (a : Opnd) (s : State) : Res := scalar1 long true opPopc d.toNat a s

def execBrev (d : F6) (a : Opnd) (s : State) : Res := scalar1 long true reverseBits d.toNat a s

def execBswap (d : F6) (a : Opnd) (s : State) : Res := scalar1 long true swapBytes d.toNat a s

def execMov (d : F6) (a : Opnd) (s : State) : Res := scalar1 long true opMov d.toNat a s

/-! ### Compact forms (R30, R104) -/

def execAddCompact (d a b : F3) (s : State) : Res := scalar2 short false opAdd d.toNat (c3 a) (c3 b) s

def execSubCompact (d a b : F3) (s : State) : Res := scalar2 short false opSub d.toNat (c3 a) (c3 b) s

def execAndCompact (d a b : F3) (s : State) : Res := scalar2 short false opAnd d.toNat (c3 a) (c3 b) s

def execOrCompact (d a b : F3) (s : State) : Res := scalar2 short false opOr d.toNat (c3 a) (c3 b) s

def execXorCompact (d a b : F3) (s : State) : Res := scalar2 short false opXor d.toNat (c3 a) (c3 b) s

def execShlCompact (d a b : F3) (s : State) : Res := scalar2 short false opShl d.toNat (c3 a) (c3 b) s

def execShrCompact (d a b : F3) (s : State) : Res := scalar2 short false opShr d.toNat (c3 a) (c3 b) s

def execSarCompact (d a b : F3) (s : State) : Res := scalar2 short false opSar d.toNat (c3 a) (c3 b) s

def execSeqCompact (d a b : F3) (s : State) : Res := scalar2 short false opSeq d.toNat (c3 a) (c3 b) s

def execSltCompact (d a b : F3) (s : State) : Res := scalar2 short false opSlt d.toNat (c3 a) (c3 b) s

def execMovCompact (d a : F3) (s : State) : Res := scalar1 short false opMov d.toNat (c3 a) s

def execAddImmCompact (d : F3) (l : F6) (s : State) : Res := scalar2 short false opAdd d.toNat (c3 d) (.lit l) s

def execAndImmCompact (d : F3) (l : F6) (s : State) : Res := scalar2 short false opAnd d.toNat (c3 d) (.lit l) s

def execShlImmCompact (d : F3) (l : F6) (s : State) : Res := scalar2 short false opShl d.toNat (c3 d) (.lit l) s

def execShrImmCompact (d : F3) (l : F6) (s : State) : Res := scalar2 short false opShr d.toNat (c3 d) (.lit l) s

def execSarImmCompact (d : F3) (l : F6) (s : State) : Res := scalar2 short false opSar d.toNat (c3 d) (.lit l) s

def execMovImmCompact (d : F3) (l : F6) (s : State) : Res := scalar1 short false opMov d.toNat (.lit l) s

/-! ### SEL, MOVY, EXT, NOP, TS, WHO, MOVX, EXT.L -/

/-- SEL (R97): the destination is read as the condition. -/
def execSel (d : F6) (a b : Opnd) (s : State) : Res :=
  issue ⟨[.s d, a, b], some d.toNat, [], []⟩ s (fun t =>
    finish ⟨[.s d, a, b], some d.toNat, [], []⟩ long t (if valS t d ≠ 0#64 then valA t a b else valB t b))

/-- MOVY (R187): waits for the reply that names the register. -/
def execMovy (d y : F6) (s : State) : Res :=
  issue ⟨[], some d.toNat, [], []⟩ s (fun t =>
    if (me t).ypend.contains y.toNat then waitReply t y.toNat
    else finish ⟨[], some d.toNat, [], []⟩ long t (yreg (me t) y.toNat))

/-- EXT (R51). -/
def execExt (n : F6) (a : Opnd) (s : State) : Res :=
  issue ⟨[a], none, [], []⟩ s (fun t =>
    match a with
    | .v f =>
      if vtagOf (me t) f.toNat ≠ .mask then trap t causeFormat
      else finishCtx ⟨[a], none, [], []⟩ long t (fun x => setEreg x n.toNat (BitVec.setWidth 64 (vreg x f.toNat)))
    | _ => finishCtx ⟨[a], none, [], []⟩ long t (fun x => setEreg x n.toNat (opndVal t true a)))

/-- MOVX (R52). -/
def execMovx (d n : F6) (s : State) : Res := scalar0 (fun t => ereg (me t) n.toNat) d.toNat s

/-- NOP (R53). -/
def execNop (s : State) : Res := finish ⟨[], none, [], []⟩ long s 0#64

/-- NOP in its compact encoding (R31, R53). -/
def execNopCompact (s : State) : Res := finish ⟨[], none, [], []⟩ short s 0#64

/-- EXT.L (R48): a pending extension, replacing any before it. -/
def execExtL (e : BitVec 24) (s : State) : Res :=
  .next (modMe (advance s (pcAfter s long)) (fun x => { x with elit := (1#1 ++ 0#39 ++ e) }))

/-- TS (R105): the package's count. R106 lets a core that no synchronisation orders differ from it by up to a tick each; the
model's choice is the exact count in every core (log 43). -/
def execTs (d : F6) (s : State) : Res := scalar0 (fun t => word t.ticks) d.toNat s

/-- The levels of the current task (R279). -/
def levelsOf (s : State) (task : Nat) : List Level :=
  match taskOf s task with
  | some t => t.levels
  | none => []

/-- A level of domain CTX (R279). -/
def isCtxLevel (l : Level) : Bool := l.domain == 5

/-- The crew size: the product of the extents of the levels whose domain is not CTX (R279). -/
def crewSize (ls : List Level) : Nat := (ls.filter (fun l => !isCtxLevel l)).foldl (fun n l => n * l.extent) 1

/-- The unit index of a logical core at level i (R107, R279): its digit in the mixed radix of the extents. -/
def unitIndex (ls : List Level) (lcn i : Nat) : Nat :=
  let below := ((ls.drop (i + 1)).filter (fun l => !isCtxLevel l)).foldl (fun n l => n * l.extent) 1
  match ls[i]? with
  | some l => lcn / below % l.extent
  | none => 0

/-- The item of the context's identity that WHO writes (R107, R287). The spec does not say what it is in a context of the
reeve firmware, which has no launch record: the model's choice is a crew of one with no levels (log 43). -/
def whoItem (s : State) (item : Nat) : Nat :=
  let ls := levelsOf s (taskNum s.cur.1)
  let n := crewSize ls
  let w := min n 16
  let lcn := lcnOf s.cur.1
  match item with
  | 0 => lcn
  | 1 => s.cur.2
  | 2 => n
  | 3 => lcn % w
  | 4 => lcn / w
  | 5 => w
  | 6 => ls.length
  | 7 => (match taskOf s (taskNum s.cur.1) with
      | some t => t.prio
      | none => 0)
  | _ =>
    if item < 16 then
      match ls[item - 8]? with
      | some l => if isCtxLevel l then s.cur.2 else unitIndex ls lcn (item - 8)
      | none => 0
    else
      match ls[item - 16]? with
      | some l => l.extent
      | none => 0

/-- WHO (R107). -/
def execWho (d item : F6) (s : State) : Res := scalar0 (fun t => word (whoItem t item.toNat)) d.toNat s

end Sys2Proof.Machine
end

