-- ==== Sys2Proof/Machine/Control.lean ====
section
/-! DEFINITION. Control transfer (spec/05_scalar.md R98 to R104). -/

namespace Sys2Proof.Machine

/-- The target of a branch: word address + 2 × sx(offset) (R34, R99, R104). -/
def target {w : Nat} (s : State) (off : BitVec w) : Word := (me s).pc + sext off * 2#64

/-- A conditional branch on a scalar register (R99). -/
def branch {w : Nat} (len : Nat) (taken : Word → Bool) (r : Opnd) (off : BitVec w) (s : State) : Res :=
  issue ⟨[r], none, [], []⟩ s (fun t =>
    if taken (opndVal t false r) then jumpTo ⟨[r], none, [], []⟩ t 0#64 (target t off)
    else finish ⟨[r], none, [], []⟩ len t 0#64)

def isZero (v : Word) : Bool := decide (v = 0#64)
def nonZero (v : Word) : Bool := decide (v ≠ 0#64)
def isNegative (v : Word) : Bool := decide (v.toInt < 0)
def notNegative (v : Word) : Bool := decide (0 ≤ v.toInt)
def isPositive (v : Word) : Bool := decide (0 < v.toInt)
def notPositive (v : Word) : Bool := decide (v.toInt ≤ 0)

/-- B (R99). -/
def execB (off : BitVec 16) (s : State) : Res := jumpTo ⟨[], none, [], []⟩ s 0#64 (target s off)
def execBCompact (l : F6) (s : State) : Res := jumpTo ⟨[], none, [], []⟩ s 0#64 (target s l)

def execBZ (r : F6) (off : BitVec 16) (s : State) : Res := branch long isZero (.s r) off s
def execBNz (r : F6) (off : BitVec 16) (s : State) : Res := branch long nonZero (.s r) off s
def execBLtz (r : F6) (off : BitVec 16) (s : State) : Res := branch long isNegative (.s r) off s
def execBGez (r : F6) (off : BitVec 16) (s : State) : Res := branch long notNegative (.s r) off s
def execBGtz (r : F6) (off : BitVec 16) (s : State) : Res := branch long isPositive (.s r) off s
def execBLez (r : F6) (off : BitVec 16) (s : State) : Res := branch long notPositive (.s r) off s
def execBZCompact (d : F3) (l : F6) (s : State) : Res := branch short isZero (c3 d) l s
def execBNzCompact (d : F3) (l : F6) (s : State) : Res := branch short nonZero (c3 d) l s

/-- CALL (R100). -/
def execCall (r : F6) (off : BitVec 16) (s : State) : Res :=
  issue ⟨[], some r.toNat, [], []⟩ s (fun t =>
    jumpTo ⟨[], some r.toNat, [], []⟩ t (pcAfter t long) (target t off))

/-- LOOP (R101): count down, branch while nonzero. -/
def countLoop {w : Nat} (len : Nat) (r : Nat) (off : BitVec w) (s : State) : Res :=
  issue ⟨[], some r, [r], []⟩ s (fun t =>
    let n := sreg (me t) r - 1#64
    if n ≠ 0#64 then jumpTo ⟨[], some r, [r], []⟩ t n (target t off) else finish ⟨[], some r, [r], []⟩ len t n)

def execLoop (r : F6) (off : BitVec 16) (s : State) : Res := countLoop long r.toNat off s
def execLoopCompact (d : F3) (l : F6) (s : State) : Res := countLoop short d.toNat l s

/-- JR (R102): an odd target traps and nothing is transferred or consumed (R28). -/
def execJr (a : Opnd) (s : State) : Res :=
  issue ⟨[a], none, [], []⟩ s (fun t =>
    let v := opndVal t false a
    if bit v 0 then trapAddr t causeMisaligned v.toNat else jumpTo ⟨[a], none, [], []⟩ t 0#64 v)

/-- CALLR (R102): the target is read before the link is written. -/
def execCallr (d : F6) (a : Opnd) (s : State) : Res :=
  issue ⟨[a], some d.toNat, [], []⟩ s (fun t =>
    let v := opndVal t false a
    if bit v 0 then trapAddr t causeMisaligned v.toNat
    else jumpTo ⟨[a], some d.toNat, [], []⟩ t (pcAfter t long) v)

end Sys2Proof.Machine
end

