-- ==== Sys2Proof/Machine/Translate.lean ====
section
/-! DEFINITION. Parked requests and heat (spec/17_memsys.md R335 to R339). -/

namespace Sys2Proof.Machine

/-! ### Heat (R338, R339) -/

/-- The number of a channel controller, or 512 for the CXL bridge; none for host memory (R338). -/
def controllerOf (a : Nat) : Option Nat :=
  match tierOf a with
  | 0 => some (frameStack a * 32 + Config.channelOf a % 32)
  | 1 => some 512
  | _ => none

/-- The seed of a controller's generator (R338). -/
def heatSeed (c : Nat) : Nat := 0xACE1 ^^^ (if c = 512 then 0x200 else c)

/-- The frame number of the heat tables (R339): stack frames, then pool frames from 2^25 on. -/
def heatFrame (a : Nat) : Option Nat :=
  match tierOf a with
  | 0 => some (a / 65536 % 2 ^ 25)
  | 1 => if a % 2 ^ 48 / 65536 < 2 ^ 24 then some (2 ^ 25 + a % 2 ^ 48 / 65536) else none
  | _ => none

/-- One step of a heat generator (R338). -/
def heatStep (g : Nat) : Nat :=
  let f := (g.testBit 15 ^^ g.testBit 14 ^^ g.testBit 12 ^^ g.testBit 3)
  g * 2 % 65536 + (if f then 1 else 0)

/-- The generators and the counters after a 128-byte read or write of the frame line at a (R338, R339). -/
def heatGens (s : State) (a : Nat) : Sparse Nat :=
  match controllerOf a with
  | none => s.gens
  | some c => setD (heatSeed c) s.gens c (heatStep (getD (heatSeed c) s.gens c))
def heatCounts (s : State) (a : Nat) : Sparse Nat :=
  match controllerOf a, heatFrame a with
  | some c, some f =>
    if heatStep (getD (heatSeed c) s.gens c) < 2 ^ (16 - bits s.heatk 3 0)
    then setD 0 s.heat f (min 255 (getD 0 s.heat f + 1)) else s.heat
  | _, _ => s.heat

/-- A 128-byte read or write of a frame line. -/
def heatAccess (s : State) (a : Nat) : State := { s with gens := heatGens s a, heat := heatCounts s a }

/-- A write reached the MSC or the frame: the frame's dirty bit (R339). -/
def heatWrite (s : State) (a : Nat) : State :=
  match heatFrame a with
  | some f => if s.heatDirty.contains f then s else { s with heatDirty := f :: s.heatDirty }
  | none => s

/-- The addresses of the table entries a walk reads (R332). -/
def walkReads (s : State) (va : Nat) : List (Nat × Nat × Nat) → Nat → List Nat
  | [], _ => []
  | (_, lo, n) :: rest, table =>
    let a := table + va / 2 ^ lo % 2 ^ n * 8
    let e := currentWord s rawPage a
    a :: (if bit e 63 && bits e 62 61 == 3 then walkReads s va rest (bits e 47 10 * 1024) else [])

/-- A read of a line that the MSC holds reaches no controller. -/
def heatRead (s : State) (a : Nat) : State :=
  if (mscOfFrame s a).isSome then s else heatAccess s (a / 128 * 128)

/-- A walk of the tables reads their lines (R338). -/
def heatWalk (s : State) (asid va : Nat) : State :=
  let root := bits s.asidbase 63 12 * 4096 + asid * 8
  (root :: (if rootTable s asid = 0 then [] else walkReads s va walkLevels (rootTable s asid))).foldl heatRead s

/-- What an access that the MSC does not serve costs before its line is read: a walk, when the TLBs of the line's home
stack do not hold its page (R330); nothing where no walk is made. -/
def heatMiss (s : State) (asid va : Nat) : State :=
  if !mapsPage va || (look s.tlb (tlbKey s asid va)).isSome then s else heatWalk s asid va

/-- What the translation of an address costs when no access follows (R330, R338): nothing for a line that the MSC holds,
else a walk where the TLBs do not hold its page. -/
def heatLookup (s : State) (asid va : Nat) : State :=
  if (look s.msc (lineKey asid va)).isSome then s else heatMiss s asid va

/-! ### Parking (R335, R336) -/

/-- Is a write of a context's release parked? -/
def writeParked (s : State) (lc c : Nat) : Bool :=
  s.records.any (fun m => m.waiters.any (fun w => match w.who with
    | .write l x _ => l == lc && x == c
    | _ => false))

/-- A failed request parks behind the record of its page, or with a new record (R335, R336); size is the page's. -/
def parkIn (s : State) (kind req asid va size frame : Nat) (entry : Word) (task : Nat) (r : Waiter) : State :=
  let same := fun (m : MemRecord) => m.kind == kind && m.asid == asid && m.va / size == va / size
  match s.records.findIdx? same with
  | some i =>
    { s with records := modifyAt s.records i (fun m =>
        if m.waiters.any (fun w => w.who == r.who) then m else { m with waiters := m.waiters ++ [r] }) }
  | none =>
    let m : MemRecord := ⟨none, kind, req, asid, homeStack s va asid, va, frame, s.ticks, entry, task, 0, [r]⟩
    { s with records := s.records ++ [m] }

/-- A failed translation parks, after the walk that failed (R338): the page that does not translate is one of 64 KiB. -/
def parkAs (s : State) (kind req asid va frame : Nat) (entry : Word) (task : Nat) (r : Waiter) : State :=
  parkIn (heatMiss s asid va) kind req asid va 65536 frame entry task r

/-- A write that finds no storage in its compressed page parks (R342). -/
def parkFull (s : State) (req asid va : Nat) (p : Page) (task : Nat) (r : Waiter) : State :=
  parkIn s 2 req asid va (pageSize p) (frameOf p va / 128 * 128) 0#64 task r

/-- A request parks under its own address. -/
def park (s : State) (kind req asid va frame : Nat) (entry : Word) (task : Nat) (r : Requester) : State :=
  parkAs s kind req asid va frame entry task ⟨r, va, []⟩

/-- A requester leaves every record. -/
def unpark (s : State) (r : Requester) : State :=
  { s with records := s.records.map (fun m => { m with waiters := m.waiters.filter (fun x => x.who != r) }) }

/-- Does a range hold an address (R280)? -/
def inRange (g : Range) (va : Nat) : Bool := decide (g.base ≤ va) && decide (va < g.base + g.len)

/-- Does a failed translation of an access made for the task end it (R285)? The task declares a STRICT range and the
address lies in no REPLAY range. -/
def leaseEnds (s : State) (task va : Nat) : Bool :=
  match taskOf s task with
  | some t => t.ranges.any (fun g => !g.replay) && !(t.ranges.any (fun g => g.replay && inRange g va))
  | none => false

/-- LEASE_VIOLATION becomes pending for every context of the crew but the faulting one (R285, R309). -/
def leaseCrew (s : State) (task : Nat) (but : Option (Nat × Nat)) : State :=
  (crewContexts s task).foldl (fun t x => if some x = but then t else pendCause t x.1 x.2 ⟨causeLease, 1, 0#64, []⟩) s

end Sys2Proof.Machine
end

