-- ==== Sys2Proof/Machine/Cache.lean ====
section
/-! DEFINITION. Objects and their granules, the caches, writes at the point of coherence, the undo log, holds that a
write ends, releases and acquires (spec/08_memory.md R165 to R167, spec/10_publication.md R202 to R206,
spec/17_memsys.md R330, R331, R341, R342, R348, R352). -/

namespace Sys2Proof.Machine

/-! ### Granules and objects -/

def tagData : Nat := 0
def tagReference : Nat := 1
def tagHeader : Nat := 2
def tagPoison : Nat := 3

/-- The tag of the granule at a frame address (R202). -/
def granTag (s : State) (a : Nat) : Nat := getD tagData s.gtags (a / 8)

/-- A granule is written with a tag: an uncorrectable error that it held is gone. -/
def setGranTag (s : State) (a t : Nat) : State :=
  { s with gtags := setD tagData s.gtags (a / 8) t, faulty := s.faulty.filter (· != a / 8) }

/-- Does a granule hold an uncorrectable error that its stack has not found yet (R158, R208)? It counts for every read
of the
granule, also for one that a cache serves: the model's choice (log 43). -/
def isFaulty (s : State) (a : Nat) : Bool := s.faulty.contains (a / 8)

/-- Is a read of a granule poisoned (R158): it is tagged poison, or holds an uncorrectable error? -/
def isPoison (s : State) (a : Nat) : Bool := granTag s a == tagPoison || isFaulty s a

/-- The states of an object (R204). -/
def objPrivate : Nat := 0
def objPublishing : Nat := 1
def objPublished : Nat := 2
def objFrozen : Nat := 3

/-- An object: its header's frame address and the header word (R204). -/
structure Obj where
  hdr : Nat
  head : Word

def Obj.len (o : Obj) : Nat := bits o.head 23 0
def Obj.owner (o : Obj) : Nat := bits o.head 43 24
def Obj.state (o : Obj) : Nat := bits o.head 45 44

/-- The object whose header stands at a frame address of a page. -/
def objAt (s : State) (p : Page) (a : Nat) : Obj := ⟨a, currentWord s p a⟩

/-- The object a granule lies in (R203): the last header of the page at or before it, when it reaches that far. -/
def objectOf (s : State) (p : Page) (a : Nat) : Option Obj :=
  let hs := s.gtags.filter (fun e => e.2 == tagHeader && decide (p.frame / 8 ≤ e.1) && decide (e.1 ≤ a / 8))
  match hs.getLast? with
  | some e =>
    let o := objAt s p (e.1 * 8)
    if a / 8 < e.1 + o.len then some o else none
  | none => none

/-- Does a core of a task hold a granule as PRIVATE or FROZEN (R165)? Another task's PRIVATE objects are filled into none of
its caches (R392). A free granule of an OBJECT page is of neither kind that R165 names: the model holds it as shared data
(log 14). -/
def privGranule (s : State) (p : Page) (task a : Nat) : Bool :=
  if p.attr = attrFrozen then true
  else if p.attr = attrObject then
    match objectOf s p a with
    | some o => o.state == objPrivate && o.owner == task
    | none => false
  else false

/-- The classes of a frame line's granules, for a core of a task. -/
def privMask (s : State) (p : Page) (task a : Nat) : BitVec 16 :=
  if p.attr = attrPlain then 0
  else BitVec.ofNat 16
    ((List.range 16).foldl (fun acc i => if privGranule s p task (a + 8 * i) then acc + 2 ^ i else acc) 0)

/-- The bytes of the granules a mask names. -/
def granBytes (m : BitVec 16) : BitVec 128 :=
  BitVec.ofNat 128 ((List.range 16).foldl (fun acc i => if inMask m i then acc + 255 * 256 ^ i else acc) 0)

/-! ### Lines -/

def fullMask : BitVec 128 := BitVec.allOnes 128

/-- A line that holds nothing. -/
def emptyLine (p : Page) : Line := ⟨0, 0, [], 0, p⟩

/-- All dirty bytes of a line. -/
def dirtyMask (l : Line) : BitVec 128 := l.dirty.foldl (fun m e => m ||| e.2) 0

/-- The bytes that neither a fill nor an acquire takes from a line: its dirty ones, and those of its PRIVATE and FROZEN
granules (R165, R166). -/
def keptBytes (l : Line) : BitVec 128 := l.valid &&& (dirtyMask l ||| granBytes l.priv)

/-- Fill the bytes v of a line under those it keeps (R165, R166). -/
def fillUnder (l : Line) (d : BitVec 1024) (v : BitVec 128) (priv : BitVec 16) (p : Page) : Line :=
  { l with data := mergeLine l.data d (v &&& ~~~keptBytes l), valid := l.valid ||| v
           priv := if keptBytes l = 0 then priv else l.priv ||| priv
           page := p }

/-- Drop the clean bytes of shared granules (R166). -/
def dropClean (l : Line) : Line := { l with valid := keptBytes l }

/-- Write bytes into a line as dirty bytes of a task (R165). -/
def storeLine (l : Line) (d : BitVec 1024) (m : BitVec 128) (task : Nat) (priv : BitVec 16) : Line :=
  { l with data := mergeLine l.data d m
           valid := l.valid ||| m
           dirty := (l.dirty.filterMap (fun e =>
              let k := e.2 &&& ~~~m
              if e.1 = task ∨ k = 0 then none else some (e.1, k))) |> fun rest =>
                put rest task (getD 0 l.dirty task ||| m)
           priv := l.priv ||| priv }

/-- Bytes m of a line are dirty no more. -/
def cleanLine (l : Line) (m : BitVec 128) : Line :=
  { l with dirty := l.dirty.filterMap (fun e =>
      let k := e.2 &&& ~~~m
      if k = 0 then none else some (e.1, k)) }

/-- The key of a line in a die's second-level cache. Dirty bytes that a core has evicted and that other cores see only once
the MSC has them lie there under a key of the core's own: those of PRIVATE objects (R216), and those that a release at PKG
or SYS is writing through (R259). -/
def l2Key (die key : Nat) : Nat := die * 2 ^ 60 + key
def l2Own (die lc key : Nat) : Nat := (lc + 1) * 2 ^ 64 + l2Key die key
def l2Owner (k : Nat) : Nat := k / 2 ^ 64
def l2Die (k : Nat) : Nat := k / 2 ^ 60 % 16
def l2Line (k : Nat) : Nat := k % 2 ^ 60

/-- The part of a line that is dirty in the bytes m. -/
def dirtyPart (l : Line) (m : BitVec 128) : Line :=
  { l with dirty := l.dirty.filterMap (fun e => if e.2 &&& m = 0 then none else some (e.1, e.2 &&& m)) }

/-- The dirty bytes of l put over those of x. -/
def addDirty (x l : Line) : Line := l.dirty.foldl (fun y e => storeLine y l.data e.2 e.1 l.priv) x

/-- The die of a logical core; a core that stands nowhere has none. -/
def coreDie (s : State) (lc : Nat) : Nat := dieOf (coreOf s lc).phys

/-! ### Holds and halves -/

/-- The reply register of a context as a number. -/
def ownerKey (lc c y : Nat) : Nat := (lc * 128 + c) * 8 + y

/-- The key of the line a hold lies on. -/
def holdKey (h : Hold) : Nat := lineKey h.asid h.addr

/-- End the holds that satisfy p at one mill, with a LOST reason (R186, R192). -/
def endHoldsAt (s : State) (m : Nat) (p : Nat → Hold → Bool) (reason : Nat) : State :=
  modMill s m (fun x =>
    let gone := x.holds.filter (fun e => p e.1 e.2)
    { x with holds := x.holds.filter (fun e => !p e.1 e.2)
             ended := gone.foldl (fun r e => put r (ownerKey e.2.lc e.2.ctx e.2.y) reason) x.ended })

/-- End the holds of a line at its home mill (R192), but for one entry that is settling. -/
def endLineHolds (s : State) (key reason : Nat) (but : Option Nat) : State :=
  endHoldsAt s (homeMill s (keyVa key) (keyAsid key)) (fun e h => holdKey h == key && some e != but) reason

/-- The halves of a line as the bridge tracks them. -/
def halfOf (s : State) (key : Nat) : HalfHeld := getD ⟨.i, .i, 0, 0⟩ s.halves key
def setHalf (s : State) (key : Nat) (h : HalfHeld) : State := { s with halves := setD ⟨.i, .i, 0, 0⟩ s.halves key h }

/-- Does the host's hold keep a device request for these bytes waiting (R352)? -/
def halfBlocks (s : State) (key : Nat) (m : BitVec 128) (write : Bool) : Bool :=
  let h := halfOf s key
  let meets := fun (x : Half2) (part : BitVec 128) =>
    (m &&& part) != 0 && (if write then x != .i else x == .e)
  meets h.h0 (spanMask 0 64) || meets h.h1 (spanMask 64 64)

/-! ### The point of coherence -/

/-- Bring a line into the MSC (R330): the state, and whether it was there. One that was not is translated and read from
its frame, under its page's key (R359). -/
def mscFill (s : State) (key : Nat) (p : Page) : State × Bool :=
  match look s.msc key with
  | some _ => (s, true)
  | none =>
    let a := frameOf p (keyVa key)
    (heatAccess { heatMiss s (keyAsid key) (keyVa key) with msc := put s.msc key ⟨pageLine s p a, p, false⟩ } a, false)

/-- The line at the point of coherence: the MSC's copy, else the frame's. -/
def pocLine (s : State) (key : Nat) (p : Page) : BitVec 1024 :=
  match look s.msc key with
  | some l => l.data
  | none => currentLine s p (frameOf p (keyVa key))

/-- The record of a compressed page (R341), one for each page, of 64 KiB or of 32 MiB. -/
def CmpPage.reset : CmpPage := ⟨none, 0, []⟩
def cmpKey (p : Page) : Nat := p.frame / 65536
def cmpOf (s : State) (p : Page) : CmpPage := getD CmpPage.reset s.cmpPages (cmpKey p)
def setCmp (s : State) (p : Page) (c : CmpPage) : State :=
  { s with cmpPages := setD CmpPage.reset s.cmpPages (cmpKey p) c }

/-- The partition that owns a page's key slot (R357). -/
def pagePart (s : State) (p : Page) : Option Part := (s.parts.find? (fun e => e.2.slots.contains p.key)).map (·.2)

/-- A generation after retirements: the pages of one that retires have been recompressed with the newest (R343). -/
def genAfter (moves : List (Nat × Nat)) (g : Nat) : Nat := moves.foldl (fun x m => if m.1 = x then m.2 else x) g

/-- The generation of a compressed page (R341, R343): that of its last write-back, or the one it was made with, as the
retirements of its partition since then have left it. -/
def cmpGenOf (s : State) (p : Page) : Nat :=
  let g := (cmpOf s p).gen.getD (Config.cmpGen (cmpKey p) % 4, 0)
  match pagePart s p with
  | some q => genAfter (q.moves.drop g.2) g.1
  | none => g.1

/-- The dictionary of a compressed page: that of its partition and of its generation (R341). A generation that has been
loaded into no engine has the empty one (log 40). -/
def pageBook (s : State) (p : Page) : List (BitVec 1024) :=
  match pagePart s p with
  | some q => getD [] q.books (cmpGenOf s p)
  | none => []

/-- Does a line's new contents fit its slot (R341, R342)? -/
def cmpFits (s : State) (p : Page) (a : Nat) (d : BitVec 1024) : Bool :=
  decide (Config.compressedSize (pageBook s p) d ≤ 32 * (Config.cmpSlot (a / 128) % 3 + 1))

/-- The overflow entries of a page. -/
def cmpEntries (s : State) (p : Page) : Nat := Config.cmpEntries (cmpKey p) (cmpOf s p).ver % 64

/-- Is there storage for a compressed line's new contents (R342)? -/
def cmpRoom (s : State) (p : Page) (a : Nat) (d : BitVec 1024) : Bool :=
  let c := cmpOf s p
  !p.cmp || cmpFits s p a d || c.taken.contains a || decide (c.taken.length < cmpEntries s p)

/-- Reserve it (R342). -/
def cmpReserve (s : State) (p : Page) (a : Nat) (d : BitVec 1024) : State :=
  if p.cmp then
    let c := cmpOf s p
    let taken := if cmpFits s p a d then c.taken.filter (· != a)
      else if c.taken.contains a then c.taken else a :: c.taken
    setCmp s p { c with taken := taken }
  else s

/-- A write-back compresses with the current generation (R343). -/
def cmpWriteBack (s : State) (p : Page) : State :=
  if p.cmp then
    match pagePart s p with
    | some q => if q.gens.isEmpty then s else setCmp s p { cmpOf s p with gen := some (q.newest, q.moves.length) }
    | none => s
  else s

/-- Write a dirty line back to its frame (R330). -/
def mscWriteBack (s : State) (key : Nat) : State :=
  match look s.msc key with
  | some l =>
    if l.dirty then
      let a := frameOf l.page (keyVa key)
      heatAccess (cmpWriteBack { writePage s l.page a l.data fullMask with
        msc := put s.msc key { l with dirty := false } } l.page) a
    else s
  | none => s

/-- Drop a line from the MSC, written back first; the holds on it end with EVICT (R192). -/
def mscDrop (s : State) (key : Nat) : State :=
  let s1 := endLineHolds (mscWriteBack s key) key 11 none
  { s1 with msc := erase s1.msc key }

/-- Has a line a hold of a priority offer (R192)? Such a line is not evicted. -/
def priorityHeld (s : State) (key : Nat) : Bool :=
  (millOf s (homeMill s (keyVa key) (keyAsid key))).holds.any (fun e => e.2.prio && holdKey e.2 == key)

/-- The MSC evicts a line. -/
def mscEvict (s : State) (key : Nat) : State := if priorityHeld s key then s else mscDrop s key

/-- Records an undo log can hold (R348). -/
def logLimit : Nat := 419430

/-- The tags of a frame line's sixteen granules. -/
def lineTags (s : State) (a : Nat) : List Nat := (List.range 16).map (fun i => granTag s (a + 8 * i))

/-- The granules of a frame line whose object satisfies f. -/
def lineGranules (s : State) (p : Page) (a : Nat) (f : Obj → Bool) : BitVec 16 :=
  BitVec.ofNat 16 ((List.range 16).foldl (fun acc i =>
    match objectOf s p (a + 8 * i) with
    | some o => if f o then acc + 2 ^ i else acc
    | none => acc) 0)

/-- The bytes of a frame line that a task's log keeps (R348): all of a line of a PLAIN page; of a line that meets a
PUBLISHED
or PUBLISHING object all but those of the task's PRIVATE objects; else none. -/
def logMask (s : State) (p : Page) (a task : Nat) : BitVec 128 :=
  if p.attr = attrPlain then fullMask
  else if lineGranules s p a (fun o => o.state == objPublishing || o.state == objPublished) = 0 then 0
  else ~~~granBytes (lineGranules s p a (fun o => o.state == objPrivate && o.owner == task))

/-- Bytes m of a line are written by a task: every other task's log forgets them (R348). -/
def logForget (s : State) (key a : Nat) (m : BitVec 128) (task : Nat) : State :=
  { s with tasks := s.tasks.map (fun e => if e.1 = task then e else
    (e.1, { e.2 with log := e.2.log.map (fun r =>
      if r.key = key ∨ r.frame = a then { r with mask := r.mask &&& ~~~m } else r) })) }

/-- The task's own log keeps the line as it was before its first write, and widens the mask (R348, R349). -/
def logKeep (s : State) (key : Nat) (p : Page) (m : BitVec 128) (task : Nat) : State :=
  let a := frameOf p (keyVa key)
  if m = 0 then s else
  modTask s task (fun t =>
    if !t.logged then t
    else match t.log.findIdx? (fun r => r.key == key) with
      | some i => { t with log := modifyAt t.log i (fun r => { r with mask := r.mask ||| m }) }
      | none =>
        if t.log.length + 1 > logLimit then { t with logged := false, log := [] }
        else { t with log := t.log ++ [⟨a, key, pocLine s key p, lineTags s a, m⟩] })

/-- A write of a task meets the undo logs (R348, R349). -/
def logWrite (s : State) (key : Nat) (p : Page) (m : BitVec 128) (task : Nat) : State :=
  let a := frameOf p (keyVa key)
  logKeep (logForget s key a m task) key p (m &&& logMask s p a task) task

/-- The granules that bytes overlap become data (R202). -/
def tagWrite (s : State) (a : Nat) (m : BitVec 128) : State :=
  (List.range 16).foldl (fun t i =>
    if m &&& spanMask (8 * i) 8 = 0 then t else setGranTag t (a + 8 * i) tagData) s

/-- Write bytes of a line to its frame, and to whatever MSC line holds the frame (R193, R331). -/
def frameWrite (s : State) (key : Nat) (p : Page) (d : BitVec 1024) (m : BitVec 128) : State :=
  let a := frameOf p (keyVa key)
  let t := heatAccess (writePage (heatMiss s (keyAsid key) (keyVa key)) p a d m) a
  { t with msc := t.msc.map (fun e => if frameOf e.2.page (keyVa e.1) = a
                                      then (e.1, { e.2 with data := mergeLine e.2.data d m }) else e) }

/-- Write bytes of a line into the MSC (R166). -/
def mscStore (s : State) (key : Nat) (p : Page) (d : BitVec 1024) (m : BitVec 128) : State :=
  let t := (mscFill s key p).1
  { t with msc := put t.msc key ⟨mergeLine (pocLine t key p) d m, p, true⟩ }

/-- A write reaches the point of coherence (R166, R192, R197, R331, R339, R342, R348): the undo log, the storage of a
compressed page, the line in the MSC, or its frame where the write goes through to it, the dirty bit, the tags, and the
holds it ends. -/
def pocWriteVia (through : Bool) (s : State) (key : Nat) (p : Page) (d : BitVec 1024) (m : BitVec 128) (task : Nat)
    (but : Option Nat) : State :=
  if m = 0 then s else
  let a := frameOf p (keyVa key)
  let s1 := cmpReserve (logWrite s key p m task) p a (mergeLine (pocLine s key p) d m)
  let s2 := if p.aliased || through then frameWrite s1 key p d m else mscStore s1 key p d m
  endLineHolds (tagWrite (heatWrite s2 a) a m) key 10 but

/-- A write reaches the MSC, or the frame of an ALIAS line. -/
def pocWrite (s : State) (key : Nat) (p : Page) (d : BitVec 1024) (m : BitVec 128) (task : Nat) (but : Option Nat) :
    State :=
  pocWriteVia false s key p d m task but

/-- May a write to the point of coherence land now (R342, R352)? -/
def pocReady (s : State) (key : Nat) (p : Page) (d : BitVec 1024) (m : BitVec 128) : Bool :=
  !halfBlocks s key m true && cmpRoom s p (frameOf p (keyVa key)) (mergeLine (pocLine s key p) d m)

/-! ### The caches of the core and the die -/

/-- The bytes of a line that a fill brings. R165 has every fill be of the whole line, and R352 has a request for bytes
of the other
half served at once while the host holds one half in E: the spec does not say what a fill then brings. The model's
choice is that
it brings the other half alone, and that a later touch fills the line again (log 43). -/
def fillMask (s : State) (key : Nat) : BitVec 128 :=
  let h := halfOf s key
  (if h.h0 = .e then 0 else spanMask 0 64) ||| (if h.h1 = .e then 0 else spanMask 64 64)

/-- A line that a core of the die is given: the second-level line, with the core's own evicted bytes over it. -/
def withOwn (s : State) (die lc key : Nat) (l : Line) : Line :=
  match look s.l2 (l2Own die lc key) with
  | some x => { l with data := mergeLine l.data x.data (dirtyMask x), valid := l.valid ||| dirtyMask x }
  | none => l

/-- The bytes of a line that lie in PRIVATE or PUBLISHING objects of tasks other than one: they are filled into no cache of
its cores (R392). -/
def hiddenBytes (s : State) (p : Page) (a task : Nat) : BitVec 128 :=
  if p.attr = attrPlain then 0
  else granBytes (lineGranules s p a (fun o => o.owner != task && (o.state == objPrivate || o.state == objPublishing)))

/-- A line without some bytes. -/
def withoutBytes (l : Line) (m : BitVec 128) : Line := { l with valid := l.valid &&& ~~~m }

/-- The line that serves a core's read of the bytes m through its die's second-level cache, filled from the MSC where it
lacks one of them or one of the bytes that a fill brings: a fill is of a whole line (R165), and no line that meets a
PRIVATE or
PUBLISHING object of another task is filled (R392): such a read takes its bytes from the MSC and leaves the cache as it
is. And
where the read was served: 1 the second-level cache, 2 an MSC hit, 3 an MSC miss (R386). -/
def l2Fetch (s : State) (die lc key : Nat) (m : BitVec 128) (p : Page) : State × Line × Nat :=
  let k := l2Key die key
  let l := (look s.l2 k).getD (emptyLine p)
  let a := frameOf p (keyVa key)
  let hidden := hiddenBytes s p a (taskNum lc)
  let w := withoutBytes (withOwn s die lc key l) hidden
  let whole := fillMask s key &&& ~~~hidden
  if (m ||| whole) &&& ~~~w.valid = 0 then (s, w, 1)
  else
    let r := mscFill s key p
    let f := fillUnder l (pocLine r.1 key p) whole (privMask r.1 p (taskNum lc) a) p
    let t := if hidden = 0 then { r.1 with l2 := put r.1.l2 k f } else r.1
    (t, withoutBytes (withOwn t die lc key f) hidden, if r.2 then 2 else 3)

/-- A first-level line of a logical core for a read of the bytes m, filled into the cache unless it meets another task's
PRIVATE
or PUBLISHING object (R165, R392): the state, the line, and where the read was served. -/
def l1Fill (s : State) (lc key : Nat) (m : BitVec 128) (p : Page) : State × Line × Nat :=
  let r := l2Fetch s (coreDie s lc) lc key m p
  let l := (look (coreOf r.1 lc).l1 key).getD (emptyLine p)
  let a := frameOf p (keyVa key)
  let f := fillUnder l r.2.1.data r.2.1.valid (privMask r.1 p (taskNum lc) a) p
  (if hiddenBytes s p a (taskNum lc) = 0 then modCore r.1 lc (fun c => { c with l1 := put c.l1 key f }) else r.1, f, r.2.2)

/-- Dirty bytes of a line go to a second-level line, where they stay dirty (R165, R166). -/
def toL2 (s : State) (k : Nat) (l : Line) (m : BitVec 128) : State :=
  let part := dirtyPart l m
  if part.dirty.isEmpty then s
  else { s with l2 := put s.l2 k (addDirty { (look s.l2 k).getD (emptyLine l.page) with page := l.page } part) }

/-- Dirty bytes of a line go to the MSC, each on its task's account. -/
def toPoc (s : State) (key : Nat) (l : Line) (m : BitVec 128) : State :=
  l.dirty.foldl (fun t e => pocWrite t key l.page l.data (e.2 &&& m) e.1 none) s

/-- Bytes of an MSC line reach the copy of a second-level cache that holds them. -/
def refreshL2 (s : State) (die key : Nat) (l : Line) (m : BitVec 128) : State :=
  match look s.l2 (l2Key die key) with
  | some x =>
    let k := m &&& x.valid &&& ~~~dirtyMask x
    { s with l2 := put s.l2 (l2Key die key) { x with data := mergeLine x.data l.data k } }
  | none => s

/-- The clean bytes that a line holds, as another line has them. -/
def refreshLine (x : Line) (d : BitVec 1024) : Line := { x with data := mergeLine x.data d (x.valid &&& ~~~dirtyMask x) }

/-- The bytes of a core's line that are on their way to the MSC (R259). -/
def onTheWay (s : State) (lc key : Nat) : BitVec 128 :=
  s.writes.foldl (fun m w =>
    if w.lc = lc ∧ w.key = key ∧ w.dest = .msc ∧ w.fromL2 = none ∧ w.refst = none then m ||| w.mask else m) 0

/-- A first-level line is evicted: its dirty bytes go to the second-level cache (R165), those of PRIVATE objects (R216) and
those on their way to the MSC (R259) under the core's own key. -/
def evictL1 (s : State) (lc key : Nat) : State :=
  match look (coreOf s lc).l1 key with
  | some l =>
    let die := coreDie s lc
    let own := granBytes l.priv ||| onTheWay s lc key
    let s1 := toL2 (toL2 s (l2Key die key) l (~~~own)) (l2Own die lc key) l own
    modCore s1 lc (fun c => { c with l1 := erase c.l1 key })
  | none => s

/-- The first-level cache of a logical core keeps at most cap lines: victims, any of them, are evicted (R11, R165). -/
def trimL1 (s : State) (lc cap : Nat) : State :=
  (List.range ((coreOf s lc).l1.length - cap)).foldl (fun t _ =>
    let ks := keys (coreOf t lc).l1
    evictL1 (takeFree t).2 lc (ks.getD ((takeFree t).1.toNat % ks.length) 0)) s

/-- The lines that 16 − w ways of 32 KiB hold (R11). -/
def waysLines (w : Nat) : Nat := (16 - w) * 256

/-- May a second-level line be evicted now? Its dirty bytes must translate and find the MSC ready. -/
def l2Evictable (s : State) (k : Nat) (l : Line) : Bool :=
  dirtyMask l == 0 || (match translate s (keyAsid (l2Line k)) (keyVa (l2Line k)) with
    | .ok p => pocReady s (l2Line k) p l.data (dirtyMask l)
    | .fail _ => false)

/-- A second-level line is evicted: its dirty bytes go to the MSC (R166), translated there (R330), and from there to the
die's copy of the line. -/
def evictL2 (s : State) (k : Nat) : State :=
  match look s.l2 k with
  | some l =>
    if dirtyMask l = 0 then { s with l2 := erase s.l2 k }
    else match translate s (keyAsid (l2Line k)) (keyVa (l2Line k)) with
      | .ok p =>
        if pocReady s (l2Line k) p l.data (dirtyMask l) then
          let s1 := toPoc s (l2Line k) { l with page := p } fullMask
          refreshL2 { s1 with l2 := erase s1.l2 k } (l2Die k) (l2Line k) l (dirtyMask l)
        else s
      | .fail _ => s
  | none => s

/-! ### Stash mappings (R170) -/

/-- A byte of the stash. -/
def stashByte (c : LCore) (o : Nat) : Byte := getD 0#8 c.stash o
def setStashByte (c : LCore) (o : Nat) (b : Byte) : LCore := { c with stash := setD 0#8 c.stash o b }

/-- n stash bytes from offset o on, as a number. -/
def stashNat (c : LCore) (o n : Nat) : Nat := bytesNat (fun i => stashByte c (o + i)) n

/-- Write n bytes of a number at stash offset o. -/
def setStashNat (c : LCore) (o n v : Nat) : LCore :=
  (List.range n).foldl (fun k i => setStashByte k (o + i) (BitVec.ofNat 8 (v / 256 ^ i))) c

/-- The mapping that holds a global address (R170). -/
def mappingOf (c : LCore) (va : Nat) : Option Mapping :=
  c.maps.find? (fun m => decide (m.addr ≤ va) && decide (va < m.addr + m.len))

/-- The dirty mask of the line at offset i of a mapping. -/
def mapDirty (m : Mapping) (i : Nat) : BitVec 128 :=
  BitVec.ofNat 128 ((m.dirty.filter (fun o => decide (m.off + i ≤ o) && decide (o < m.off + i + 128))).foldl
    (fun acc o => acc + 2 ^ (o - m.off - i)) 0)

/-- The offsets of a mapping's lines that hold dirty bytes. -/
def mapDirtyLines (m : Mapping) : List Nat := (m.dirty.map (fun o => (o - m.off) / 128 * 128)).dedup

/-! ### Acquire (R166) -/

/-- Scopes (R39). -/
def scopeCore : Nat := 0
def scopeYard : Nat := 1
def scopeDie : Nat := 2
def scopePkg : Nat := 3
def scopeSys : Nat := 4

/-- An acquire by a logical core: clean shared bytes of its lines and mappings are dropped, and from PKG on those of the
die's second-level cache (R166). -/
def acquire (s : State) (lc scope : Nat) : State :=
  if scope = scopeCore then s
  else
    let s1 := modCore s lc (fun c =>
      { c with l1 := c.l1.map (fun e => (e.1, dropClean e.2))
               maps := c.maps.map (fun m =>
                 { m with filled := m.filled.filter (fun i =>
                     match translate s (asidOf s lc) (m.addr + i) with
                     | .ok p => p.attr == attrFrozen
                     | .fail _ => false) }) })
    if scope < scopePkg then s1
    else { s1 with l2 := s1.l2.map (fun e => if l2Die e.1 = coreDie s lc then (e.1, dropClean e.2) else e) }

/-! ### Release (R166, R167) -/

/-- The dirty bytes that a release writes: none of PRIVATE objects or FROZEN pages (R165). -/
def releaseMask (l : Line) : BitVec 128 := dirtyMask l &&& ~~~granBytes l.priv

/-- The line of a mapping at offset i, as a cached line. -/
def mapLine (s : State) (lc : Nat) (m : Mapping) (i : Nat) (p : Page) : Line :=
  { data := BitVec.ofNat 1024 (stashNat (coreOf s lc) (m.off + i) 128), valid := mapDirty m i,
    dirty := [(taskNum lc, mapDirty m i)], priv := (if p.attr = attrFrozen then BitVec.allOnes 16 else 0), page := p }

/-- The bytes of a line that leave it: those a release writes, or every dirty byte at a retirement (R165). -/
def outMask (all : Bool) (l : Line) : BitVec 128 := if all then dirtyMask l else releaseMask l

/-- The writes of a mapping's dirty lines to a point of coherence. -/
def mapWrites (s : State) (lc c : Nat) (dest : WriteDest) (all : Bool) (m : Mapping) : List WriteReq :=
  (mapDirtyLines m).filterMap (fun i =>
    let p := match translate s (asidOf s lc) (m.addr + i) with
      | .ok p => p
      | .fail _ => default
    let out := outMask all (mapLine s lc m i p)
    if out = 0 then none else some ⟨lc, c, dest, none, lineKey (asidOf s lc) (m.addr + i), out, none⟩)

/-- The bytes of a second-level line that leave it with a core's release: those a release writes, and at a retirement the
core's own too. -/
def outL2 (lc : Nat) (all : Bool) (k : Nat) (l : Line) : BitVec 128 :=
  if all && l2Owner k == lc + 1 then dirtyMask l else releaseMask l

/-- The point that a release at a scope writes to (R166). -/
def scopeDest (scope : Nat) : WriteDest := if scope < scopePkg then .l2 else .msc

/-- The writes of a release at a scope (R166): nothing at CORE; at YARD and DIE the core's dirty bytes to the
second-level cache; from PKG on those of the die's second-level cache and the core's to the MSC. A retirement (all)
writes the core's PRIVATE bytes too. -/
def releaseWrites (s : State) (lc c scope : Nat) (all : Bool) : List WriteReq :=
  if scope = scopeCore then []
  else
    let dest := scopeDest scope
    let l1s := (coreOf s lc).l1.filterMap (fun e =>
      if outMask all e.2 = 0 then none else some ⟨lc, c, dest, none, e.1, outMask all e.2, none⟩)
    let mapped := (coreOf s lc).maps.flatMap (mapWrites s lc c dest all)
    let l2s := if scope < scopePkg then [] else s.l2.filterMap (fun e =>
      if l2Die e.1 = coreDie s lc ∧ outL2 lc all e.1 e.2 ≠ 0 then
        some ⟨lc, c, .msc, some e.1, l2Line e.1, outL2 lc all e.1 e.2, none⟩
      else none)
    l2s ++ l1s ++ mapped

/-! ### A write that lands (R166, R167) -/

/-- The dirty bytes of a write's first-level line and mapping as they now are, put over a line. -/
def coreDirty (s : State) (w : WriteReq) (x : Line) : Line :=
  let c := coreOf s w.lc
  let y := match look c.l1 w.key with
    | some l => addDirty x (dirtyPart l w.mask)
    | none => x
  match mappingOf c (keyVa w.key) with
  | some m => addDirty y (dirtyPart (mapLine s w.lc m (keyVa w.key - m.addr) x.page) w.mask)
  | none => y

/-- The dirty bytes of a second-level line as they now are, put over a line. -/
def cacheDirty (s : State) (k : Nat) (m : BitVec 128) (x : Line) : Line :=
  match look s.l2 k with
  | some l => addDirty x (dirtyPart l m)
  | none => x

/-- What a write carries when it lands: the bytes it names that are dirty still, where they now are. -/
def outLine (s : State) (w : WriteReq) (p : Page) : Line :=
  match w.fromL2, w.dest with
  | some k, _ => cacheDirty s k w.mask (emptyLine p)
  | none, .l2 => coreDirty s w (emptyLine p)
  | none, .msc =>
    let die := coreDie s w.lc
    coreDirty s w (cacheDirty s (l2Own die w.lc w.key) w.mask (cacheDirty s (l2Key die w.key) w.mask (emptyLine p)))

/-- The bytes m of a second-level line are dirty no more; a core's own line that holds no dirty byte is gone. -/
def cleanL2Line (s : State) (k : Nat) (m : BitVec 128) : State :=
  match look s.l2 k with
  | some x =>
    let y := cleanLine x m
    if l2Owner k ≠ 0 ∧ y.dirty = [] then { s with l2 := erase s.l2 k } else { s with l2 := put s.l2 k y }
  | none => s

/-- The bytes of a mapping that lie in a mask of one of its lines are dirty no more. -/
def cleanMap (c : LCore) (va : Nat) (m : BitVec 128) : LCore :=
  { c with maps := c.maps.map (fun x =>
      if x.addr ≤ va ∧ va < x.addr + x.len then
        let o := x.off + (va - x.addr)
        { x with dirty := x.dirty.filter (fun b => !(decide (o ≤ b) && decide (b < o + 128) && inMask m (b - o))) }
      else x) }

/-- The bytes of a core's first-level line and mapping are dirty no more. -/
def cleanCore (s : State) (lc key : Nat) (m : BitVec 128) : State :=
  modCore s lc (fun c =>
    let c1 := match look c.l1 key with
      | some x => { c with l1 := put c.l1 key (cleanLine x m) }
      | none => c
    cleanMap c1 (keyVa key) m)

/-- The bytes that a write carried are dirty no more where they came from. -/
def cleanSources (s : State) (w : WriteReq) : State :=
  match w.fromL2, w.dest with
  | some k, _ => cleanL2Line s k w.mask
  | none, .l2 => cleanCore s w.lc w.key w.mask
  | none, .msc =>
    let die := coreDie s w.lc
    cleanCore (cleanL2Line (cleanL2Line s (l2Key die w.key) w.mask) (l2Own die w.lc w.key) w.mask) w.lc w.key w.mask

/-- A write reaches the die's second-level cache. -/
def landL2 (s : State) (w : WriteReq) : State :=
  cleanSources (toL2 s (l2Key (coreDie s w.lc) w.key) (outLine s w default) fullMask) w

/-- A write reaches the MSC, and from there the die's copy of the line. Where its bytes are those of a store that was made
while their granules were free, and an object has been carved there since, the spec does not say what becomes of them: the
model's choice is that they land as any other bytes do, and their granules are data (R206, log 43). -/
def landMsc (s : State) (w : WriteReq) (p : Page) : State :=
  let l := outLine s w p
  let die := match w.fromL2 with
    | some k => l2Die k
    | none => coreDie s w.lc
  refreshL2 (cleanSources (toPoc s w.key l fullMask) w) die w.key l (dirtyMask l)

/-- May a write reach the MSC now (R342, R352)? -/
def landReady (s : State) (w : WriteReq) (p : Page) : Bool :=
  let l := outLine s w p
  dirtyMask l == 0 || pocReady s w.key p l.data (dirtyMask l)

/-- Does a write find no storage in its compressed page (R342)? -/
def landFull (s : State) (w : WriteReq) (p : Page) : Bool :=
  let l := outLine s w p
  dirtyMask l != 0 && !cmpRoom s p (frameOf p (keyVa w.key)) (mergeLine (pocLine s w.key p) l.data (dirtyMask l))

/-! ### Waiting for a release -/

/-- Has a context writes on their way? -/
def writesOut (s : State) (lc c : Nat) : Bool := s.writes.any (fun w => w.lc == lc && w.ctx == c)

/-- Are bytes of a logical core on their way to the other point of coherence than this one? While they are, the core
sends none
to this one: those that a release at PKG or SYS is writing through lie under the core's own key when they are evicted,
where a
release at YARD or DIE would miss them, and those on their way to the die's second-level cache would show there before
the MSC
has them (R258, R259). -/
def crossing (s : State) (lc : Nat) (dest : WriteDest) : Bool :=
  s.writes.any (fun w => w.lc == lc && w.dest != dest && w.fromL2.isNone && w.refst.isNone &&
    dirtyMask (outLine s w default) != 0)

/-- Have a context's earlier loads, offers and settles completed (R167)? -/
def accessesDone (x : Ctx) : Bool := x.loads.isEmpty && x.ypend.isEmpty

/-- Where a release stands: it must wait (with the state that waits), or it is done. -/
inductive Released where
  | waits (s : State)
  | done

/-- One look at a release of the current context (R167): it waits for the context's earlier accesses; sends its writes
once, when none of the core's bytes cross them; and is done when all of them are acknowledged. -/
def tryRelease (s : State) (scope : Nat) (all : Bool) : Released :=
  let x := me s
  if !accessesDone x || writesOut s s.cur.1 s.cur.2 then .waits s
  else if x.stage = .released then .done
  else if scope != scopeCore && crossing s s.cur.1 (scopeDest scope) then .waits s
  else
    let ws := releaseWrites s s.cur.1 s.cur.2 scope all
    if ws.isEmpty then .done
    else .waits (modMe { s with writes := s.writes ++ ws } (fun y => { y with stage := .released }))

/-- Release, then k; until then the context waits with a DSTAT.WAIT code, for its replies first. -/
def releaseThen (s : State) (scope code : Nat) (k : State → Res) : Res :=
  match tryRelease s scope false with
  | .done => k s
  | .waits t => waitBegun t (repliesWait t code)

end Sys2Proof.Machine
end

