-- ==== Sys2Proof/Machine/Access.lean ====
section
/-! DEFINITION. The checks of one access and the access itself (spec/08_memory.md R156 to R165, R170, R175;
spec/10_publication.md R206; spec/16_traps.md R317, R318). -/

namespace Sys2Proof.Machine

/-! ### The stash window and tiles (R157, R172) -/

def wayBytes : Nat := 32768

def tileOf (c : LCore) (t : Nat) : Tile := getD Tile.reset c.tiles t
def setTile (c : LCore) (t : Nat) (x : Tile) : LCore := { c with tiles := setD Tile.reset c.tiles t x }

/-- The first stash byte of a tile (R172). -/
def tileStart (t : Tile) : Nat := t.base * 64

/-- Do the bytes o to o + n − 1 meet the range of a tile? -/
def meetsTile (t : Tile) (o n : Nat) : Bool :=
  decide (t.size ≠ 0) && decide (o < tileStart t + t.size) && decide (tileStart t < o + n)

/-- Is a tile moving (R173)? -/
def moving (t : Tile) : Bool := t.state == .filling || t.state == .draining

/-- Must an access to stash bytes wait for a tile's state (R175)? -/
def tileWaits (c : LCore) (o n : Nat) (write : Bool) : Bool :=
  c.tiles.any (fun e =>
    let t := e.2
    meetsTile t o n && (if write then moving t
      else t.state == .filling && !decide (o + n ≤ tileStart t + t.wm)))

/-- Must an access wait behind a RESIZE (R169)? -/
def resizeWaits (c : LCore) (o n : Nat) : Bool :=
  match c.resizing with
  | some (_, lo, hi) => decide (o < hi * wayBytes) && decide (lo * wayBytes < o + n)
  | none => false

/-! ### Watchpoints (R317, R318) -/

def watchLoad : Nat := 0
def watchStore : Nat := 1
def watchOffer : Nat := 2

/-- The lowest byte of an access that one watch covers. -/
def watchOne (addr : Word) (ctl kind va n : Nat) : Option Nat :=
  let size := 8 * 2 ^ min (ctl / 8 % 16) 13
  let start := addr.toNat / 8 * 8 / size * size
  if ctl / 2 ^ kind % 2 = 1 ∧ start < va + n ∧ va < start + size then some (max start va) else none

/-- The watched byte of an access, the lower one when both watches match. A single step runs with watchpoints off. -/
def watched (x : Ctx) (kind va n : Nat) : Option Nat :=
  if x.stepping then none
  else match watchOne x.waddr0 (bits x.wctl 7 0) kind va n, watchOne x.waddr1 (bits x.wctl 15 8) kind va n with
    | some a, some b => some (min a b)
    | some a, none => some a
    | none, r => r

/-! ### The checks (R158, R206) -/

/-- The die whose debug window holds an address, and the offset in it, when the logical core is a reeve core that
serves the die (R307, R310, R311). -/
def debugWindow (s : State) (lc va : Nat) : Option (Nat × Nat) :=
  if !isReeve s lc then none
  else
    let base := bits (physOf s (coreOf s lc).phys).dbgbase 63 28 * 2 ^ 28
    let k := (va - base) / 2 ^ 28
    let die := (dieOf (coreOf s lc).phys + k) % 8
    if base ≠ 0 ∧ base ≤ va ∧ k < 8 ∧ (va - base) % 2 ^ 28 < 0xB000000 ∧ reeveOf s die = some lc then
      some (die, (va - base) % 2 ^ 28)
    else none

/-- What the checks of an access answer: the stash byte, the mapped stash byte, the page; a trap; a failed translation;
a wait. -/
inductive Verdict where
  | window (o : Nat)
  | mapped (o : Nat) (p : Page)
  | page (p : Page)
  | trap (cause addr : Nat) (detail : List Word)
  | parks (entry : Word)
  | waits
  deriving DecidableEq, Repr

/-- The virtual addresses of the granules an access touches. -/
def granulesOf (va n : Nat) : List Nat := (List.range ((va % 8 + n + 7) / 8)).map (fun i => va / 8 * 8 + 8 * i)

/-- Does a granule refuse plain writes: it is tagged header or reference, or lies in a FROZEN object (R206)? -/
def readOnlyGranule (s : State) (p : Page) (g : Nat) : Bool :=
  granTag s (frameOf p g) == tagHeader || granTag s (frameOf p g) == tagReference ||
    (p.attr != attrPlain && (match objectOf s p (frameOf p g) with
      | some o => o.state == objFrozen
      | none => false))

/-- The owner rule of one granule (R206): none when it is allowed. -/
def ownerRule (s : State) (task : Nat) (p : Page) (write : Bool) (g : Nat) : Option Verdict :=
  if p.attr = attrPlain then none
  else match objectOf s p (frameOf p g) with
    | none => none
    | some o =>
      if o.state = objPrivate then
        if o.owner = task then none else some (.trap causeEscape g [word o.owner])
      else if o.state = objPublishing then
        if o.owner = task then (if write then some .waits else none) else some (.trap causeEscape g [word o.owner])
      else none

/-- The first answer of a list of checks. -/
def firstSome {α β : Type} (f : α → Option β) : List α → Option β
  | [] => none
  | x :: xs => match f x with
    | some b => some b
    | none => firstSome f xs

/-- The checks of a page for an access of a task (R158 steps 3 to 5). Poison is what the granule's tag at the stack says:
a store that the core still holds dirty has not yet rewritten it (log 43). -/
def pageChecks (s : State) (task : Nat) (p : Page) (va n : Nat) (write special : Bool) : Option Verdict :=
  if (write && (!p.w || p.attr == attrFrozen)) || (special && p.aliased) then some (.trap causeProtect va [])
  else
    let gs := granulesOf va n
    match (if write then gs.find? (readOnlyGranule s p) else none) with
    | some g => some (.trap causeProtect (max g va) [])
    | none =>
      match firstSome (ownerRule s task p write) gs with
      | some v => some v
      | none =>
        match (if write then none else gs.find? (fun g => isPoison s (frameOf p g))) with
        | some g => some (.trap causePoison (max g va) [])
        | none => none

/-- Every check of one element of n bytes after step 4 of R46 (R158, R318), for a logical core's context. -/
def judge (s : State) (lc : Nat) (x : Ctx) (va n : Nat) (write vec : Bool) : Verdict :=
  let c := coreOf s lc
  if va % n ≠ 0 then .trap causeMisaligned va []
  else if inWindow va then
    let o := va - windowBase
    if c.ways * wayBytes < o + n then .trap causeProtect va []
    else if resizeWaits c o n || tileWaits c o n write then .waits
    else .window o
  else match watched x (if write then watchStore else watchLoad) va n with
    | some a => .trap causeWatch a []
    | none =>
      if !canonicalVa va || (debugWindow s lc va).isSome then .trap causeProtect va []
      else match translate s (asidOf s lc) va with
        | .fail e => .parks e
        | .ok p =>
          let mp := mappingOf c va
          match pageChecks s (taskNum lc) p va n write (vec || mp.isSome) with
          | some v => v
          | none =>
            match mp with
            | some m =>
              let o := m.off + (va - m.addr)
              if resizeWaits c o n then .waits else .mapped o p
            | none => .page p

/-! ### Loads and stores -/

/-- n bytes of a line from byte o on. -/
def lineNat (d : BitVec 1024) (o n : Nat) : Nat := d.toNat / 256 ^ o % 256 ^ n

/-- A number at byte o of a line. -/
def natLine (v o n : Nat) : BitVec 1024 := BitVec.ofNat 1024 (v % 256 ^ n * 256 ^ o)

/-- The bytes of an access when the core holds them (R165, R170): the stash, a filled line of a mapping, or a first-level
line. The first load of a line of a mapping fills it, whichever bytes it reads. -/
def readNow (s : State) (lc va n : Nat) (v : Verdict) : Option Nat :=
  let c := coreOf s lc
  match v with
  | .window o => some (stashNat c o n)
  | .mapped o _ =>
    match mappingOf c va with
    | some m =>
      if m.filled.contains ((o - m.off) / 128 * 128) then some (stashNat c o n) else none
    | none => none
  | .page p =>
    if p.aliased then none
    else match look c.l1 (lineKey (asidOf s lc) va) with
      | some l =>
        if spanMask (va % 128) n &&& ~~~l.valid = 0 then some (lineNat l.data (va % 128) n) else none
      | none => none
  | _ => none

/-- Change one of a logical core's mappings. -/
def setMap (c : LCore) (old new : Mapping) : LCore :=
  { c with maps := c.maps.map (fun x => if x = old then new else x) }

/-- The core with the line of a mapping that holds va filled under its dirty bytes (R170). -/
def mapFilled (c : LCore) (m : Mapping) (va : Nat) (d : BitVec 1024) : LCore :=
  let i := (va - m.addr) / 128 * 128
  let c1 := (List.range 128).foldl (fun k b =>
    if m.dirty.contains (m.off + i + b) then k else setStashByte k (m.off + i + b) (lineByte d b)) c
  setMap c1 m { m with filled := i :: m.filled }

/-- A read of n bytes at stash offset o through a mapping, whose line at va is filled unless it meets another task's
PRIVATE or
PUBLISHING object (R170, R392): the state, the bytes, and where the read was served. -/
def mapFill (s : State) (lc : Nat) (m : Mapping) (va o n : Nat) (p : Page) : State × Nat × Nat :=
  let key := lineKey (asidOf s lc) va
  let r := l2Fetch s (coreDie s lc) lc key fullMask p
  let c := mapFilled (coreOf r.1 lc) m va r.2.1.data
  (if hiddenBytes s p (frameOf p (keyVa key)) (taskNum lc) = 0 then setCore r.1 lc c else r.1, stashNat c o n, r.2.2)

/-- Perform one element of a load through the caches (R165, R170, R331): the state, the bytes, and where it was
served: 0 the core, 1 the second-level cache, 2 an MSC hit, 3 a fill of the MSC or a frame. -/
def performLoad (s : State) (lc va n : Nat) (p : Page) : State × Nat × Nat :=
  match mappingOf (coreOf s lc) va with
  | some m =>
    let o := m.off + (va - m.addr)
    match readNow s lc va n (.mapped o p) with
    | some v => (s, v, 0)
    | none => mapFill s lc m va o n p
  | none =>
    if p.aliased then
      (heatAccess (heatMiss s (asidOf s lc) va) (frameOf p va), lineNat (currentLine s p (frameOf p va)) (va % 128) n, 3)
    else match readNow s lc va n (.page p) with
      | some v => (s, v, 0)
      | none =>
        let r := l1Fill s lc (lineKey (asidOf s lc) va) (spanMask (va % 128) n) p
        (r.1, lineNat r.2.1.data (va % 128) n, r.2.2)

/-- Perform one element of a store (R165, R170, R331). -/
def performStore (s : State) (lc va n v : Nat) (w : Verdict) : State :=
  match w with
  | .window o => modCore s lc (fun c => setStashNat c o n v)
  | .mapped o _ =>
    modCore s lc (fun c =>
      match mappingOf c va with
      | some m =>
        setMap (setStashNat c o n v) m
          { m with dirty := (((List.range n).map (fun i => o + i)) ++ m.dirty).dedup }
      | none => c)
  | .page p =>
    let key := lineKey (asidOf s lc) va
    let d := natLine v (va % 128) n
    let m := spanMask (va % 128) n
    if p.aliased then pocWrite s key p d m (taskNum lc) none
    else
      let l := (look (coreOf s lc).l1 key).getD (emptyLine p)
      let gs := BitVec.ofNat 16 ((List.range 16).foldl (fun acc i =>
        if spanMask (8 * i) 8 &&& m ≠ 0 ∧ spanMask (8 * i) 8 &&& l.valid = 0 ∧ privGranule s p (taskNum lc) (frameOf p va / 128 * 128 + 8 * i)
        then acc + 2 ^ i else acc) 0)
      modCore s lc (fun c => { c with l1 := put c.l1 key (storeLine l d m (taskNum lc) gs) })
  | _ => s

/-- May a store land now? A store to an ALIAS page is performed at the frame (R331), where a host's hold or a full
overflow area may keep it waiting. -/
def storeReady (s : State) (lc va n v : Nat) (w : Verdict) : Bool :=
  match w with
  | .page p =>
    !p.aliased || pocReady s (lineKey (asidOf s lc) va) p (natLine v (va % 128) n) (spanMask (va % 128) n)
  | _ => true

/-- Does a store that may not land find no storage (R342)? -/
def storeFull (s : State) (lc va n v : Nat) (w : Verdict) : Option Page :=
  match w with
  | .page p =>
    let key := lineKey (asidOf s lc) va
    if p.aliased && !cmpRoom s p (frameOf p (keyVa key))
        (mergeLine (pocLine s key p) (natLine v (va % 128) n) (spanMask (va % 128) n)) then some p else none
  | _ => none

/-- Has a context an outstanding load of a line? -/
def loadBusy (x : Ctx) (va : Nat) : Bool := x.loads.any (fun l => l.addr / 128 == va / 128)

/-- Is an offer, or a settle, of a logical core to a line on its way, or an offer in its mill? The core's later loads of
the line are ordered after it (R199). -/
def offerOut (s : State) (lc va : Nat) : Bool :=
  let key := lineKey (asidOf s lc) va
  let mine := fun (o : Offer) => o.lc == lc && lineKey o.asid o.addr == key
  let q := millOf s (homeMill s va (asidOf s lc))
  q.queue.any mine || q.slots.any mine || s.flights.any (fun f => match f with
    | .offer o => mine o
    | .settle r => r.lc == lc && r.data.isSome && lineKey r.asid r.addr == key)

/-- Has a context of a logical core an outstanding load of a line? An offer of the core to the line is ordered after it
(R199). -/
def coreLoadBusy (s : State) (lc va : Nat) : Bool := (coreOf s lc).ctxs.any (fun x => loadBusy x.2 va)

/-- The bytes that a REFST concerns from its granule on (R209): those of the object that it carves or frees, or its
granule's. -/
def refstBytes (r : RefstReq) : Nat :=
  match r.kind with
  | .carve n => 8 * n
  | .free => 8 * bits r.word 23 0
  | .store => 8

/-- Does a REFST concern the line of an address? -/
def refstLine (r : RefstReq) (va : Nat) : Bool :=
  decide (r.addr / 128 ≤ va / 128) && decide (va / 128 * 128 < r.addr + refstBytes r)

/-- The REFSTs of a logical core on their way that concern the line of an address. -/
def refstsOut (s : State) (lc va : Nat) : List WriteReq :=
  s.writes.filter (fun w => w.lc == lc && (match w.refst with
    | some r => refstLine r va
    | none => false))

/-- Is one on its way? The core's later accesses to the line come after it (R258, R392). -/
def refstOut (s : State) (lc va : Nat) : Bool := !(refstsOut s lc va).isEmpty

/-- Is one of them parked? -/
def refstParked (s : State) (lc va : Nat) : Bool :=
  (refstsOut s lc va).any (fun w => isParked s (.refst w.lc w.ctx w.key))

/-- Must the current context's access to a line wait, so that program order holds on it (R89, R199, R258)? -/
def lineBusy (s : State) (va : Nat) : Bool :=
  loadBusy (me s) va || offerOut s s.cur.1 va || refstOut s s.cur.1 va

/-- Is an offer or a settle of a logical core to a line parked? -/
def offerParked (s : State) (lc va : Nat) : Bool :=
  s.records.any (fun m => m.asid == asidOf s lc && m.waiters.any (fun w => w.addr / 128 == va / 128 && (match w.who with
    | .offer l _ _ | .settle l _ _ => l == lc
    | _ => false)))

/-- An access that waits for the line (R335). -/
def lineWait (s : State) (va : Nat) : Nat :=
  if offerParked s s.cur.1 va || refstParked s s.cur.1 va then parkedWait 0 else 0

/-- A failed translation of an access of the current context (R159, R285, R335): LEASE_VIOLATION, or it parks; addr and
detail are what a freeze for it reports (R337). -/
def parkMineAs (s : State) (va : Nat) (entry : Word) (addr : Nat) (detail : List Word) : Res :=
  let lc := s.cur.1
  if leaseEnds s (taskNum lc) va then
    let s1 := leaseCrew (heatMiss s (asidOf s lc) va) (taskNum lc) (some s.cur)
    trapAt s1 causeLease 0 (word va) []
  else
    waitBegun (parkAs s 1 1 (asidOf s lc) va 0 entry (taskNum lc) ⟨.access lc s.cur.2, addr, detail⟩) 7

def parkMine (s : State) (va : Nat) (entry : Word) : Res := parkMineAs s va entry va []

/-- A write of the current context that finds no storage in its compressed page parks (R342). -/
def parkMineFull (s : State) (va : Nat) (p : Page) : Res :=
  let lc := s.cur.1
  waitBegun (parkFull s 1 (asidOf s lc) va p (taskNum lc) ⟨.access lc s.cur.2, va, []⟩) 7

/-- Does a precise cause at an address come of the checks that follow its translation (R158)? -/
def translatedTrap (s : State) (va cause : Nat) : Bool :=
  (cause == causeProtect || cause == causeEscape || cause == causePoison) && !inWindow va &&
    (debugWindow s s.cur.1 va).isNone

/-- An access of the current context that traps after its translation (R338). -/
def lookedUp (s : State) (va cause : Nat) : State :=
  if translatedTrap s va cause then heatLookup s (asidOf s s.cur.1) va else s

/-- What a verdict that lets nothing be accessed does; lane is given for elements of gathers and scatters (R309). -/
def refuse (s : State) (va : Nat) (lane : List Word) (v : Verdict) : Res :=
  match v with
  | .trap cause addr detail =>
    trapAt (lookedUp s va cause) cause 0 (word addr) (if cause = causeEscape then detail else lane)
  | .parks e => parkMineAs s va e va lane
  | _ => waitBegun s (lineWait s va)

/-- Does a verdict let the access go on? -/
def allowed : Verdict → Bool
  | .window _ | .mapped _ _ | .page _ => true
  | _ => false

/-- The page of a verdict. -/
def verdictPage : Verdict → Page
  | .mapped _ p | .page p => p
  | _ => default

end Sys2Proof.Machine
end

