-- ==== Sys2Proof/Machine/Tasks.lean ====
section
/-! DEFINITION. Sprint leases, the end of contexts and logical cores, and what the dispatcher keeps of tasks
(spec/15_sprint.md R293 to R298; spec/06_contexts.md R114 to R119; spec/14_launch.md R290, R291). -/

namespace Sys2Proof.Machine

/-! ### Leases -/

/-- MELT as SYSRD reads it (R292). -/
def meltWord (s : State) : Word := word (s.melt + if s.rfz then 2048 else 0)

/-- limit(p) (R294). -/
def leaseLimit (p : Nat) : Nat := if p < 500 then 1000000 else if p < 800 then 100000 else if p < 950 then 10000 else 0

/-- The first zero-grant condition of R295 that holds, by its WHY code. A tripped package counts as HOT (R304). -/
def zeroGrant (s : State) (row task : Nat) : Option Nat :=
  let r := rowOf s row
  if s.rfz then some 1
  else if leaseLimit s.melt = 0 ∧ s.melt ≤ 1000 then some 2
  else if s.melt = 1023 then some 3
  else if 3600 < s.power10us + 10 then some 4
  else if r.leaseLive ∧ r.leaseTask ≠ task then some 5
  else if r.hot ∨ s.trip then some 6
  else none

/-- Ask for a lease of a microseconds (R294, R295): the state, and the grant. -/
def leaseAsk (s : State) (row task a : Nat) : State × Nat :=
  if a = 0 then (s, 0)
  else match zeroGrant s row task with
    | some why => (modRow s row (fun r => { r with why := why }), 0)
    | none =>
      let g := min (min a 1000000) (leaseLimit s.melt)
      let r := rowOf s row
      if r.leaseLive then
        let e := max r.leaseEnd (s.ticks + g * usTicks)
        (setRow s row { r with leaseEnd := e }, (e - s.ticks) / usTicks)
      else
        (setRow s row { r with leaseLive := true, leaseTask := task, leaseEnd := s.ticks + g * usTicks,
                               railUp := true, railSince := s.ticks }, g)

/-- LEASE as SYSRD reads it (R293). -/
def leaseWord (s : State) (row : Nat) : Word :=
  let r := rowOf s row
  word ((if r.leaseLive then r.leaseTask * 2 ^ 44 + (r.leaseEnd - s.ticks) / usTicks % 2 ^ 20 * 2 ^ 20 + 2 ^ 19 else 0) +
    r.why * 2 ^ 16)

/-- The live contexts on the cores of a row. -/
def rowContexts (s : State) (row : Nat) : List (Nat × Nat) :=
  (s.cores.filter (fun k => match standsOn s k.1 with
      | some p => rowNum p == row
      | none => false)).flatMap (fun k => (k.2.ctxs.filter (fun x => x.2.live)).map (fun x => (k.1, x.1)))

/-- SPRINT_EXPIRED becomes pending for every live context of the row that has none pending (R298, R313). -/
def expireRow (s : State) (row : Nat) : State :=
  (rowContexts s row).foldl (fun t x =>
    if (ctxOf t x.1 x.2).pend.any (fun p => p.cause == causeSprint) then t
    else pendCause t x.1 x.2 ⟨causeSprint, 0, 0#64, [meltWord s]⟩) s

/-- An engine with no job running (R220). -/
def engineIdle (y : Yard) : Bool := !(y.jobs.any (fun j => j.running))

/-- The rail is lowered once both engines of the row have left the sprint clock (R297). -/
def lowerRail (s : State) (row : Nat) : State :=
  if (rowOf s row).leaseLive || (yardOf s (2 * row)).sprint || (yardOf s (2 * row + 1)).sprint then s
  else modRow s row (fun r => { r with railUp := false })

/-- An idle engine takes a change of its row's clock at once (R220, R239, R297). -/
def settleClock (s : State) (yard : Nat) : State :=
  let up := (rowOf s (yard / 2)).sprint
  if engineIdle (yardOf s yard) && (yardOf s yard).sprint != up then
    lowerRail (modYard s yard (fun y => { y with sprint := up })) (yard / 2)
  else s

/-- LEASE_END (R297): cores at 1.8 GHz, idle engines too, LEASE cleared, the refreeze interval begun above 600;
every end but an SPREL or a completion delivers SPRINT_EXPIRED (R296, R298). -/
def endLease (s : State) (row : Nat) (expired : Bool) : State :=
  if (rowOf s row).leaseLive then
    let s1 := modRow s row (fun r => { r with leaseLive := false, leaseTask := 0, leaseEnd := 0, sprint := false })
    let s2 := [2 * row, 2 * row + 1].foldl (fun t y =>
      modYard t y (fun q => if engineIdle q then { q with sprint := false } else q)) s1
    let s3 := if 600 < s2.melt then { s2 with rfz := true } else s2
    let s4 := lowerRail s3 row
    if expired then expireRow s4 row else s4
  else s

/-! ### The register pools (R114) -/

/-- Shared scalar and vector blocks that a logical core's contexts hold. -/
def sharedScalar (c : LCore) : Nat := c.ctxs.foldl (fun n x => if x.2.live then n + allotSB x.2 else n) 0
def sharedVector (c : LCore) : Nat := c.ctxs.foldl (fun n x => if x.2.live then n + allotVB x.2 else n) 0

/-- Shared blocks free for a logical core: of its physical core's pools, within the fold budget (R114, R115). -/
def freeScalar (s : State) (lc : Nat) : Nat :=
  let used := match standsOn s lc with
    | some p => (coresOn s p).foldl (fun n k => n + sharedScalar (coreOf s k)) 0
    | none => sharedScalar (coreOf s lc)
  if foldable s lc then min (45 - used) (22 - sharedScalar (coreOf s lc)) else 45 - used
def freeVector (s : State) (lc : Nat) : Nat :=
  let used := match standsOn s lc with
    | some p => (coresOn s p).foldl (fun n k => n + sharedVector (coreOf s k)) 0
    | none => sharedVector (coreOf s lc)
  if foldable s lc then min (48 - used) (24 - sharedVector (coreOf s lc)) else 48 - used

/-- The context with a new allotment: registers above it are gone, registers it gains read zero with tag RAW (R115,
R116). -/
def setAllot (x : Ctx) (vb sb : Nat) : Ctx :=
  { x with allot := mkAllot vb sb
           s := x.s.filter (fun e => decide (e.1 < 8 * (min sb (allotSB x) + 1)))
           v := x.v.filter (fun e => decide (e.1 < 4 * min vb (allotVB x)))
           vtag := x.vtag.filter (fun e => decide (e.1 < 4 * min vb (allotVB x))) }

/-! ### The start of a context (R54, R75, R83, R118, R185, R187, R287, R317, R321) -/

/-- A context that starts at pc with s1 = a. -/
def startedCtx (seed : Word) (lcn c : Nat) (pc a : Word) : Ctx :=
  { Ctx.reset with live := true, pc := pc, s := setD 0#64 [] 1 a, e := setD 0#64 [] 0 (BitVec.allOnes 64),
                   psel := word lcn, srg := srgSeed seed lcn c }

/-- The job seed of a logical core's task. -/
def seedOf (s : State) (lc : Nat) : Word :=
  match taskOf s (taskNum lc) with
  | some t => t.seed
  | none => 0#64

/-! ### Reply registers (R185) -/

/-- The reply register's word. -/
def replyWord (kind reason hold mill : Nat) : Word := word (mill * 2 ^ 16 + hold * 2 ^ 8 + reason * 4 + kind)

def kindExec : Nat := 0
def kindDecl : Nat := 1
def kindFault : Nat := 2
def kindLost : Nat := 3

/-- Does reply register y of a context, whose word is k, name a hold that lives (R185, R192)? -/
def namesHold (s : State) (lc c y : Nat) (k : Word) : Bool :=
  bits k 1 0 == kindDecl && (match look (millOf s (bits k 21 16)).holds (bits k 15 8) with
    | some h => h.lc == lc && h.ctx == c && h.y == y
    | none => false)

/-! ### The end of a context -/

/-- The reply registers of a context that name a hold say LOST, as an RLS leaves them (R119, R194). -/
def lostHolds (s : State) (lc c : Nat) : State :=
  modCtx s lc c (fun x => (List.range 4).foldl (fun z y =>
    if namesHold s lc c y (yreg x y) then setYreg z y (replyWord kindLost 0 0 0) else z) x)

/-- Every hold of a context ends as by RLS (R119 step 2, R192). -/
def endHoldsOf (s : State) (lc c : Nat) : State :=
  (List.range 64).foldl (fun t m => endHoldsAt t m (fun _ h => h.lc == lc && h.ctx == c) 0) (lostHolds s lc c)

/-- What s1 to s7 keep after a halt: not defined (R119), seven free values (log 5). -/
def leftover (n : Nat) : Sparse Word :=
  (List.range 7).foldl (fun m i => setD 0#64 m (i + 1) (Config.freeValue (n + i))) []

/-- The index that stands for a context that has ended: what it sent goes on, and answers to no context. -/
def noCtx : Nat := 99

/-- An offer, settle, walk, job or copy of an ended context answers to none (R237, R249, R250). -/
def orphanOffer (lc c : Nat) (o : Offer) : Offer := if o.lc = lc ∧ o.ctx = c then { o with ctx := noCtx } else o
def orphanReq (lc c : Nat) : MillReq → MillReq
  | .offer o => .offer (orphanOffer lc c o)
  | .settle r => .settle (if r.lc = lc ∧ r.ctx = c then { r with ctx := noCtx } else r)
def orphanTask (lc c : Nat) (t : Task) : Task :=
  { t with walks := t.walks.map (fun w => if w.lc = lc ∧ w.ctx = c then { w with ctx := noCtx } else w) }
def orphanYard (lc c : Nat) (y : Yard) : Yard :=
  { y with jobs := y.jobs.map (fun j => if j.lc = lc ∧ j.ctx = c then { j with orphan := true } else j)
           copies := y.copies.map (fun k => if k.lc = lc ∧ k.ctx = c then { k with orphan := true } else k) }

/-- What an ended context left on its way answers to none. -/
def orphanAll (s : State) (lc c : Nat) : State :=
  { s with
    flights := s.flights.map (orphanReq lc c)
    mills := s.mills.map (fun e => (e.1, { e.2 with queue := e.2.queue.map (orphanOffer lc c)
                                                    slots := e.2.slots.map (orphanOffer lc c) }))
    replies := s.replies.filter (fun r => !(r.lc == lc && r.ctx == c))
    pubs := s.pubs.map (fun p => if p.lc = lc ∧ p.ctx = c then { p with ctx := noCtx } else p)
    tasks := s.tasks.map (fun e => (e.1, if e.1 = taskNum lc then orphanTask lc c e.2 else e.2))
    yards := s.yards.map (fun e => (e.1, orphanYard lc c e.2))
    stopsDue := s.stopsDue.filter (fun d => !(d.lc == lc && d.ctx == c)) }

/-- The accumulators a job reads or writes, by name (R225). -/
def jobAccs : JobKind → List Nat
  | .mm _ acc opAcc op _ => if opAcc then [acc, op] else [acc]
  | .mxz acc => [acc]
  | .drain _ _ acc => [acc]

/-- A job that retires with no effect: a drain's tile is READY again. -/
def dropDrain (c : LCore) (j : Job) : LCore :=
  let c1 := { c with mxOut := c.mxOut.erase j.id }
  match j.kind with
  | .drain _ t _ => setTile c1 t { tileOf c1 t with state := .ready, wm := (tileOf c1 t).size }
  | _ => c1

/-- The jobs held behind a faulted accumulator of an ended context retire with no effect (R234). -/
def retireHeld (s : State) (lc c : Nat) : State :=
  let k := coreOf s lc
  let accs := (k.blocked.filter (fun b => b.1 == c)).map (·.2)
  let held := fun (j : Job) => j.lc == lc && !j.running && (jobAccs j.kind).any (fun n => accs.contains n)
  if accs.isEmpty then s
  else
    let y := yardNum (homePhys k)
    let gone := (yardOf s y).jobs.filter held
    let s1 := modYard s y (fun q => { q with jobs := q.jobs.filter (fun j => !held j) })
    modCore s1 lc (fun q => gone.foldl dropDrain { q with blocked := q.blocked.filter (fun b => b.1 != c) })

/-- A context has halted: not live, its shared blocks back in the pool (R119). -/
def haltCtx (s : State) (lc c : Nat) : State :=
  let s0 := unpark (unpark (unpark (orphanAll (retireHeld s lc c) lc c) (.access lc c)) (.fetch lc c)) (.launch lc c)
  let s1 := setCtx (dropWaiter s0 lc c) lc c { Ctx.reset with pc := (ctxOf s lc c).pc, s := leftover s.taken }
  rearm { s1 with taken := s.taken + 7 } lc c

/-- Are all helpers of a logical core halted (R119 step 3)? -/
def helpersDone (s : State) (lc : Nat) : Bool := (coreOf s lc).ctxs.all (fun x => x.1 == 0 || !x.2.live)

/-- Has a logical core jobs or copies outstanding, those of contexts that the reeve has ended too (R237, R249)? -/
def engineBusy (s : State) (lc : Nat) : Bool :=
  s.yards.any (fun y => y.2.jobs.any (fun j => j.lc == lc) || y.2.copies.any (fun k => k.lc == lc))

/-- Is a task with a record address of an address space entered and not yet placed (R291, R389)? -/
def awaitsPlacement (s : State) (asid record : Nat) : Bool :=
  s.tasks.any (fun e => e.2.record == record && e.2.asid == asid && (e.2.stage == .pending || e.2.stage == .ready))

/-- The tiles that lie wholly in the stash ways. -/
def keptTiles (c : LCore) : Sparse Tile := c.tiles.filter (fun e => decide (tileStart e.2 + e.2.size ≤ c.ways * wayBytes))

/-- A context of a logical core that has retired: it is not live, and its registers keep their values on the physical core
until a task is placed there (R119, R300), but for BARST.OUT, whose bits are dropped. -/
def restCtx (x : Ctx) : Ctx :=
  { x with live := false, frozen := false, cause := 0, sub := 0, deliv := false, wait := 0, pend := [], dctl := 0,
           stepping := false, age := 0, loads := [], spend := [], vpend := [], ypend := [], stage := .idle,
           counted := false, walkFaults := [], gap := 0, fence := false,
           barst := setBits x.barst 7 0 0 }

/-- The physical index of a logical core's context (R288). -/
def physIndex (half : Bool) (i : Nat) : Nat := if half then 5 + i else i

/-- The contexts of a logical core stay on its physical core. -/
def leaveRest (c : LCore) (r : Sparse Ctx) : Sparse Ctx :=
  c.ctxs.foldl (fun m e => setD Ctx.reset m (physIndex c.half e.1) (restCtx e.2)) r

/-- The core that has held the image of a lodged core begins its hold when the image has left it (R300). -/
def freeHost (s : State) (host : Option Nat) : State :=
  match host with
  | some n => modPhys s n (fun q => { q with idleSince := s.ticks })
  | none => s

/-- The elements of an accumulator (R221). -/
def accElems : Nat := 16384

/-- The contents of the accumulators that a logical core owns in a yard are lost, and the accumulators are free (R222):
a free
value stands for each element (log 5). -/
def loseAccs (s : State) (lc yard : Nat) : State :=
  let gone := ((yardOf s yard).owner.filter (fun e => e.2 == lc + 1)).map (·.1)
  let s1 := modYard s yard (fun y =>
    { y with owner := y.owner.filter (fun e => e.2 != lc + 1)
             acc := y.acc.filter (fun e => !gone.contains e.1)
             lost := gone.zipIdx.foldl (fun m e => put m e.1 (s.taken + accElems * e.2)) y.lost })
  { s1 with taken := s.taken + accElems * gone.length }

/-- The logical core retires (R119 step 5, R125, R222, R290, R291): its words are discarded and counted, its
accumulators freed and their contents lost, its ways kept for the task at record keep, or lost; its head counts as ended
for its halt group
(R323). Where both logical cores of one physical core retire by HALT.keep, the spec does not say whose ways survive: the
model's choice is those of the last (log 43). -/
def retireCore (s : State) (lc keep : Nat) : State :=
  let c := coreOf s lc
  let p := homePhys c
  let words := c.queues.foldl (fun n q => n + q.2.length) 0
  let s1 := modTask s (taskNum lc) (fun t => { t with dropped := t.dropped + words })
  let s2 := loseAccs s1 lc (yardNum p)
  let s3 := if (standsOn s lc).isNone then s2 else modPhys s2 p (fun q =>
    { q with idleSince := s.ticks
             rest := leaveRest c q.rest
             kept := if keep ≠ 0 ∧ awaitsPlacement s (asidOf s lc) keep then
                 some ⟨keep, asidOf s lc, lcnOf lc, c.ways, c.stash, keptTiles c, s.ticks⟩
               else q.kept })
  rearm (freeHost (setCore s3 lc { LCore.reset with retired := true, phys := p }) c.storedIn) lc 0

/-- A write's bytes land at the MSC, translated there (R330), when they can. -/
def flushOne (s : State) (w : WriteReq) : State :=
  match translate s (keyAsid w.key) (keyVa w.key) with
  | .ok p => landMsc s w p
  | .fail _ => s

/-- May a write's bytes land at the MSC? -/
def flushable (s : State) (w : WriteReq) : Bool :=
  match translate s (keyAsid w.key) (keyVa w.key) with
  | .ok p => landReady s w p
  | .fail _ => false

/-- Has a context met LEASE_VIOLATION already: it is frozen with it, or it waits for it? -/
def leaseTold (x : Ctx) : Bool := (x.frozen && x.cause == causeLease) || x.pend.any (fun p => p.cause == causeLease)

/-- A failed translation of what a context sent ends its task (R190, R285): the sender freezes where it stands, or, when it
is frozen or between an EXT.L and its consumer (R50), takes the cause later; the rest of the crew gets it delivered. A
sender that has met it already is not told again. The walk that failed has read its tables (R338). -/
def leaseSender (s : State) (lc c task va : Nat) : State :=
  let s0 := heatMiss s (asidOf s lc) va
  let s1 := leaseCrew s0 task (some (lc, c))
  let x := ctxOf s1 lc c
  if leaseTold (ctxOf s lc c) then s0
  else if x.live && !x.frozen && !bit x.elit 63 then freeze s1 lc c causeLease 0 false (word va) []
  else pendCause s1 lc c ⟨causeLease, 0, word va, []⟩

/-- Does the failed translation of a write end its task (R285)? The task declares a STRICT range, and the write carries
bytes that the task has written. -/
def writeLease (s : State) (w : WriteReq) : Bool :=
  (outLine s w default).dirty.any (fun e => e.1 == taskNum w.lc) && leaseEnds s (taskNum w.lc) (keyVa w.key)

/-- Does a write's line not translate? -/
def writeFails (s : State) (w : WriteReq) : Bool :=
  match translate s (keyAsid w.key) (keyVa w.key) with
  | .ok _ => false
  | .fail _ => true

/-- Writes land at the MSC one after another, as far as they can: the state, and the first that cannot. One whose failed
translation ends its task goes no further (R285). -/
def flushAll : State → List WriteReq → State × Option WriteReq
  | s, [] => (s, none)
  | s, w :: ws =>
    if flushable s w then flushAll (flushOne s w) ws
    else if writeFails s w && writeLease s w then
      flushAll (leaseSender s w.lc w.ctx (taskNum w.lc) (keyVa w.key)) ws
    else (s, some w)

/-- All dirty bytes of a logical core's lines and mappings, and those of its die's second-level cache, go to the MSC. -/
def flushCore (s : State) (lc : Nat) : State × Option WriteReq := flushAll s (releaseWrites s lc 0 scopeSys true)

/-- A write whose line does not translate, or that finds no storage, parks (R335, R342): its context shows so. -/
def writeParks (s : State) (w : WriteReq) (park : State → State) : State :=
  park (if (ctxOf s w.lc w.ctx).live && !(ctxOf s w.lc w.ctx).frozen then
    modCtx s w.lc w.ctx (fun x => { x with wait := 7 }) else s)

/-- A write that cannot land parks behind a record, and its context shows so (R335, R342); one that the host's hold keeps
waits. -/
def parkWrite (s : State) (w : WriteReq) : State :=
  let va := keyVa w.key
  let who : Waiter := ⟨.write w.lc w.ctx w.key, va, []⟩
  match translate s (keyAsid w.key) va with
  | .fail e => writeParks s w (fun t => parkAs t 1 1 (keyAsid w.key) va 0 e (taskNum w.lc) who)
  | .ok p =>
    if landFull s w p then writeParks s w (fun t => parkFull t 1 (keyAsid w.key) va p (taskNum w.lc) who) else s

/-! ### Barriers (R128, R129) -/

/-- The key of the barrier instance of a level that a logical core uses: the level, and the unit of the level before
it that the core lies in (R128). -/
def barrierKey (ls : List Level) (lcn level : Nat) : Nat :=
  let inside := match ls[level]? with
    | some l => if isCtxLevel l then lcn
      else lcn / ((ls.drop level).filter (fun x => !isCtxLevel x)).foldl (fun n x => n * x.extent) 1
    | none => 0
  level * 4096 + inside

/-- The expected count of a level's instances (R128). -/
def expectedCount (ls : List Level) (level : Nat) : Nat :=
  match ls[level]? with
  | some l => l.extent + l.carr
  | none => 0

/-- The instance a logical core uses at a level. -/
def barrierOf (s : State) (lc level : Nat) : Barrier :=
  match taskOf s (taskNum lc) with
  | some t => getD ⟨0, 0⟩ t.barriers (barrierKey t.levels (lcnOf lc) level)
  | none => ⟨0, 0⟩

/-- Count one arrival; the last one expected ends the phase (R129). -/
def arriveAt (s : State) (lc level : Nat) : State :=
  modTask s (taskNum lc) (fun t =>
    let k := barrierKey t.levels (lcnOf lc) level
    let b := getD ⟨0, 0⟩ t.barriers k
    let b' : Barrier := if expectedCount t.levels level ≤ b.count + 1 then ⟨0, b.phase + 1⟩ else ⟨b.count + 1, b.phase⟩
    { t with barriers := setD ⟨0, 0⟩ t.barriers k b' })

end Sys2Proof.Machine
end

