-- ==== Sys2Proof/Machine/Contexts.lean ====
section
/-! DEFINITION. Contexts, ports and barriers (spec/06_contexts.md R113 to R132). -/

namespace Sys2Proof.Machine

/-! ### GROW and SHRINK -/

/-- The grants of GROW (R115): scalar and vector blocks after it. -/
def growGrant (s : State) (a b : Word) : Nat × Nat :=
  let x := me s
  (max (allotSB x) (min (min a.toNat 6) (allotSB x + freeScalar s s.cur.1)),
   max (allotVB x) (min (min b.toNat 8) (allotVB x + freeVector s s.cur.1)))

/-- The allotment SHRINK leaves (R116). -/
def shrinkGrant (s : State) (a b : Word) : Nat × Nat :=
  let x := me s
  (min (allotSB x) (min a.toNat 6), min (allotVB x) (min b.toNat 8))

/-- Does a scalar code lie outside blocks 0 to sb? -/
def outside (d sb : Nat) : Bool := decide (d < 56) && decide (8 * (sb + 1) ≤ d)

/-- Set the allotment and write cat(gv, gs) (R115, R116). -/
def finishAllot (d : F6) (a b : Opnd) (g : Nat × Nat) (s : State) : Res :=
  finish ⟨[a, b], some d.toNat, [], []⟩ long (modMe s (fun x => setAllot x g.2 g.1)) (mkAllot g.2 g.1)

/-- GROW (R115): d is checked against the allotment the grant would give. -/
def execGrow (d : F6) (a b : Opnd) (s : State) : Res :=
  issue ⟨[a, b], none, [], []⟩ s (fun t =>
    let g := growGrant t (valA t a b) (valB t b)
    if outside d.toNat g.1 then trap t causeIllegalReg
    else if (me t).spend.contains d.toNat then waitAt t (sourceWait t ⟨[], some d.toNat, [], []⟩)
    else if sendsPort (some d.toNat) && routerBusy t t.cur.1 t.cur.2 then waitAt t 0
    else finishAllot d a b g t)

/-- Is something still to write a register that SHRINK releases (R116)? -/
def releasedPending (x : Ctx) (g : Nat × Nat) : Bool :=
  x.spend.any (fun r => decide (8 * (g.1 + 1) ≤ r)) || x.vpend.any (fun r => decide (4 * g.2 ≤ r))

/-- Those registers, as an instruction would name them. -/
def releasedNames (x : Ctx) (g : Nat × Nat) : Names :=
  ⟨[], none, x.spend.filter (fun r => decide (8 * (g.1 + 1) ≤ r)), x.vpend.filter (fun r => decide (4 * g.2 ≤ r))⟩

/-- SHRINK (R116): d must lie inside the allotment before it and after it; it waits for what has still to write a
released register. -/
def execShrink (d : F6) (a b : Opnd) (s : State) : Res :=
  issue ⟨[a, b], some d.toNat, [], []⟩ s (fun t =>
    let g := shrinkGrant t (valA t a b) (valB t b)
    if outside d.toNat g.1 then trap t causeIllegalReg
    else if releasedPending (me t) g then waitBegun t (sourceWait t (releasedNames (me t) g))
    else finishAllot d a b g t)

/-! ### START -/

/-- The target of START: a halfword offset, or an absolute address (R57, R118). -/
def startTarget (s : State) (o : Opnd) : Word :=
  if isLit o then (me s).pc + valB s o * 2#64 else valB s o

/-- START (R118). The registers it names are checked before the conditions of its class (R46). It waits while the helper
is live, and, so that the helper's events follow the head's (R257), for the head's accesses and REFSTs (log 43). -/
def execStart (h : F6) (a target : Opnd) (s : State) : Res :=
  let names : Names := ⟨[a, target], none, [], []⟩
  if allHeld (me s) names && (decide (s.cur.2 ≠ 0) || (foldable s s.cur.1 && decide (5 ≤ h.toNat))) then
    trap s causeIllegalInsn
  else issue names s (fun t =>
    let pc := startTarget t target
    if bit pc 0 then trapAddr t causeMisaligned pc.toNat
    else if (ctxOf t t.cur.1 h.toNat).live || !accessesDone (me t) || writesOut t t.cur.1 t.cur.2 then waitBegun t (repliesWait t 0)
    else
      let x := startedCtx (seedOf t t.cur.1) (lcnOf t.cur.1) h.toNat pc (valA t a target)
      finish names long (setCtx t t.cur.1 h.toNat x) 0#64)

/-! ### YIELD, PORTSEL, WAITP -/

/-- YIELD (R113). -/
def execYield (s : State) : Res := finish ⟨[], none, [], []⟩ long (rotate s s.cur) 0#64

/-- PORTSEL (R126). -/
def execPortsel (a : Opnd) (s : State) : Res :=
  issue ⟨[a], none, [], []⟩ s (fun t =>
    let v := valB t a
    if crewSize (levelsOf t (taskNum t.cur.1)) ≤ v.toNat then trap t causeProtect
    else finishCtx ⟨[a], none, [], []⟩ long t (fun x => { x with psel := word (v.toNat % 65536) }))

/-- The ports of a mask whose queue holds a word (R127). -/
def portsReady (c : LCore) (m : Nat) : Nat :=
  (List.range 8).foldl (fun w i => if m.testBit i && !(queueOf c i).isEmpty then w + 2 ^ i else w) 0

/-- WAITP (R127). -/
def execWaitp (d : F6) (a : Opnd) (s : State) : Res :=
  issue ⟨[a], some d.toNat, [], []⟩ s (fun t =>
    let m := (valB t a).toNat % 256
    let w := portsReady (myCore t) m
    if m ≠ 0 ∧ w = 0 then waitAt t 2 else finish ⟨[a], some d.toNat, [], []⟩ long t (word w))

/-! ### HALT -/

/-- Are a context's own accesses, sends, walks, jobs and copies complete (R119 step 1)? -/
def haltReady (s : State) (lc c : Nat) : Bool :=
  let walking := match taskOf s (taskNum lc) with
    | some t => t.walks.any (fun w => w.lc == lc && w.ctx == c)
    | none => false
  accessesDone (ctxOf s lc c) && !routerBusy s lc c && !writesOut s lc c && !walking &&
    !(s.pubs.any (fun p => p.lc == lc && p.ctx == c)) &&
    s.yards.all (fun y => !(y.2.jobs.any (fun j => j.lc == lc && j.ctx == c && !j.orphan)) &&
      !(y.2.copies.any (fun k => k.lc == lc && k.ctx == c && !k.orphan)))

/-- Report the oldest unreported walk fault of the current context (R212, R213). -/
def reportWalk (s : State) (f : WalkFault) : Res :=
  trapAt (modMe s (fun x => { x with walkFaults := x.walkFaults.filter (fun g => g != f) })) f.cause 1 (word f.granule)
    [word f.walk]

/-- The extension that a HALT consumes (R49). -/
def endExtension (x : Ctx) : Ctx := { x with elit := x.elit &&& 0x7FFFFFFFFFFFFFFF#64 }

/-- The last steps of a head (R119 steps 3 and 5): all helpers halted, a release at SYS of every dirty byte, and the
logical core retires; srcs is what the HALT reads. -/
def haltHead (keep : Nat) (srcs : List Opnd) (s : State) : Res :=
  if !helpersDone s s.cur.1 || engineBusy s s.cur.1 then waitStage s 6 (.halting 3)
  else match tryRelease s scopeSys true with
    | .waits t => waitAt t 6
    | .done => .next (retireCore (modMe (countIssue (consumePorts s srcs) 0x02) endExtension) s.cur.1 keep)

/-- The steps of HALT (R119), the successor's record address given. -/
def haltSteps (keep : Nat) (srcs : List Opnd) (s : State) : Res :=
  match (me s).stage with
  | .idle =>
    if !haltReady s s.cur.1 s.cur.2 then waitAt s (repliesWait s 6)
    else match (me s).walkFaults with
      | f :: _ => reportWalk s f
      | [] =>
        let s1 := endHoldsOf s s.cur.1 s.cur.2
        if s.cur.2 ≠ 0 then .next (haltCtx (countIssue s1 0x02) s.cur.1 s.cur.2)
        else haltHead keep srcs s1
  | _ => haltHead keep srcs s

/-- HALT (R119). -/
def execHalt (s : State) : Res := haltSteps 0 [] s

/-- HALT.keep (R119, R291). Its register is checked first (R46). -/
def execHaltKeep (a : Opnd) (s : State) : Res :=
  if allHeld (me s) ⟨[a], none, [], []⟩ && decide (s.cur.2 ≠ 0) then trap s causeIllegalInsn
  else issue ⟨[a], none, [], []⟩ s (fun t =>
    let v := (valB t a).toNat
    if v ≠ 0 ∧ v % 128 ≠ 0 then trapAddr t causeMisaligned v else haltSteps v [a] t)

/-! ### Barriers (R130) -/

/-- BARST.OUT of a level. -/
def barOut (x : Ctx) (l : Nat) : Bool := bit x.barst l

/-- Has the phase of the context's outstanding arrival ended? -/
def phaseEnded (s : State) (l : Nat) : Bool :=
  decide (getD 0 (me s).arrived l < (barrierOf s s.cur.1 l).phase)

/-- The scope of a level (R279). -/
def levelScope (s : State) (l : Nat) : Nat :=
  match (levelsOf s (taskNum s.cur.1))[l]? with
  | some v => v.scope
  | none => 0

/-- Record an arrival in BARST and count it (R130). -/
def recordArrival (s : State) (l : Nat) : State :=
  let ph := (barrierOf s s.cur.1 l).phase
  let x := me s
  let s1 := setMe s { x with barst := setBits (setBits x.barst l l 1) (8 + l) (8 + l) (ph % 2),
                             arrived := setD 0 x.arrived l ph }
  arriveAt s1 s.cur.1 l

/-- arrive(L), then k (R130), waiting with a DSTAT.WAIT code. -/
def arriveThen (l code : Nat) (s : State) (k : State → Res) : Res :=
  if barOut (me s) l && !phaseEnded s l then waitBegun s code
  else releaseThen s (levelScope s l) code (fun t => k (recordArrival t l))

/-- waitfor(L), and the instruction completes (R130). R109 gives BARST.OUT 1 while the arrival's phase has not ended, and
R130's pseudocode clears it only here: the model follows the pseudocode, so that a read of BARST between the phase's end
and the wait shows 1 (log 43). -/
def waitFor (l : Nat) (s : State) : Res :=
  if barOut (me s) l then
    if phaseEnded s l then
      let x := me s
      finish ⟨[], none, [], []⟩ long
        (acquire (setMe s { x with barst := setBits x.barst l l 0 }) s.cur.1 (levelScope s l)) 0#64
    else waitStage s 3 .idle
  else finish ⟨[], none, [], []⟩ long s 0#64

/-- Does the task declare the level? -/
def declares (s : State) (l : Nat) : Bool := decide (l < (levelsOf s (taskNum s.cur.1)).length)

/-- BARA (R130). -/
def execBara (level : F6) (s : State) : Res :=
  if declares s level.toNat then
    arriveThen level.toNat 0 s (fun t => finish ⟨[], none, [], []⟩ long t 0#64)
  else trap s causeIllegalInsn

/-- BARW (R130). -/
def execBarw (level : F6) (s : State) : Res :=
  if declares s level.toNat then waitFor level.toNat s else trap s causeIllegalInsn

/-- BAR (R130): arrives unless an arrival is outstanding, then waits. -/
def execBar (level : F6) (s : State) : Res :=
  if declares s level.toNat then
    if barOut (me s) level.toNat then waitFor level.toNat s
    else arriveThen level.toNat 3 s (waitFor level.toNat)
  else trap s causeIllegalInsn

end Sys2Proof.Machine
end

