-- ==== Sys2Proof/Machine/Lanes.lean ====
section
/-! DEFINITION. What the vector instructions compute on whole registers, given their operands, FMODE and the generator
(spec/07_vector.md). The checks of tags stand in the meanings. -/

namespace Sys2Proof.Machine

/-- elem(x, t, i) (R86). -/
def elem (x : Vec) (t : Tag) (i : Nat) : Nat := (x >>> (i * width t)).toNat % 2 ^ width t

/-- A register from its lanes, lane 0 first (R61). -/
def packLanes (w : Nat) : List Nat → Nat
  | [] => 0
  | x :: xs => x % 2 ^ w + 2 ^ w * packLanes w xs

/-- A register of tag t from its lanes. -/
def vecOf (t : Tag) (xs : List Nat) : Vec := BitVec.ofNat 512 (packLanes (width t) xs)

/-- The result of a vector instruction: the register, its tag, the generator and the flags. -/
structure VRes where
  data : Vec
  tag : Tag
  srg : Word
  flags : Flags
  deriving DecidableEq, Repr

/-- A result that rounds nothing. -/
def plainRes (srg : Word) (t : Tag) (d : Vec) : VRes := ⟨d, t, srg, noFlags⟩

/-- What has been computed of the lanes so far: lanes in reverse order, generator, flags. -/
structure LaneAcc where
  out : List Nat
  srg : Word
  flags : Flags
  deriving DecidableEq, Repr

/-- Lanes 0 to n − 1 in ascending order; each gives its code, its flags and the generator after it. -/
def runLanes (n : Nat) (srg : Word) (f : Nat → Word → Nat × Flags × Word) : LaneAcc :=
  (List.range n).foldl (fun acc i =>
    let r := f i acc.srg
    ⟨r.1 :: acc.out, r.2.2, orFlags acc.flags r.2.1⟩) ⟨[], srg, noFlags⟩

/-- The result register of computed lanes. -/
def lanesRes (t : Tag) (a : LaneAcc) : VRes := ⟨vecOf t a.out.reverse, t, a.srg, a.flags⟩

/-- Round one lane: the generator steps once when the mode is RSTO (R83). -/
def encStep (fm : Word) (rm : RoundMode) (t : Tag) (srg : Word) (v : Val) : Nat × Flags × Word :=
  if rm = .rsto then
    let e := enc fm v t rm (srgBits (srgNext srg))
    (e.1, e.2, srgNext srg)
  else
    let e := enc fm v t rm 0
    (e.1, e.2, srg)

/-- An integer lane as an integer (R86). -/
def laneInt (t : Tag) (x : Nat) : Int := if isSigned t then sx x (width t) else (x : Int)

/-- VADD, VSUB, VMUL (R140). -/
def vArith (fm srg : Word) (t : Tag) (opI : Int → Int → Int) (opV : RoundMode → Val → Val → Val × Flags)
    (a b : Vec) : VRes :=
  lanesRes t (runLanes (lanes t) srg (fun i g =>
    if isInt t then
      (lowBits (width t) (opI (laneInt t (elem a t i)) (laneInt t (elem b t i))), noFlags, g)
    else
      let x := val fm t (elem a t i)
      let y := val fm t (elem b t i)
      let v := opV (fmodeRM fm) x.1 y.1
      let e := encStep fm (fmodeRM fm) t g v.1
      (e.1, orFlags (orFlags x.2 y.2) (orFlags v.2 e.2.1), e.2.2)))

def addOp (rm : RoundMode) (x y : Val) : Val × Flags := addVal rm x y
def subOp (rm : RoundMode) (x y : Val) : Val × Flags := addVal rm x (negVal y)
def mulOp (_ : RoundMode) (x y : Val) : Val × Flags := mulVal x y

/-- One lane of VMIN or VMAX (R141). -/
def pickLane (fm : Word) (t : Tag) (wantMax : Bool) (x y : Nat) : Nat × Flags :=
  if isInt t then
    let i := laneInt t x
    let j := laneInt t y
    (if wantMax then (if i < j then y else x) else (if j < i then y else x), noFlags)
  else
    let v := val fm t x
    let w := val fm t y
    let e := enc fm (pickVal wantMax v.1 w.1) t (fmodeRM fm) 0
    (e.1, orFlags (orFlags v.2 w.2) e.2)

/-- VMIN and VMAX (R141). -/
def vPick (fm srg : Word) (t : Tag) (wantMax : Bool) (a b : Vec) : VRes :=
  lanesRes t (runLanes (lanes t) srg (fun i g =>
    let e := pickLane fm t wantMax (elem a t i) (elem b t i)
    (e.1, e.2, g)))

/-- The shifts (R143). -/
inductive ShiftKind where
  | left | right | arith
  deriving DecidableEq, Repr

/-- log2(width(t)). -/
def log2Width (t : Tag) : Nat := Nat.log2 (width t)

/-- One lane of a shift. -/
def shiftLane (k : ShiftKind) (t : Tag) (x amount : Nat) : Nat :=
  let n := amount % 2 ^ log2Width t
  match k with
  | .left => x * 2 ^ n % 2 ^ width t
  | .right => x / 2 ^ n
  | .arith => lowBits (width t) (sx x (width t) / ((2 ^ n : Nat) : Int))

/-- VSHL, VSHR, VSAR with an amount for each lane. -/
def vShift (srg : Word) (k : ShiftKind) (t : Tag) (a : Vec) (amount : Nat → Nat) : VRes :=
  lanesRes t (runLanes (lanes t) srg (fun i g => (shiftLane k t (elem a t i) (amount i), noFlags, g)))

/-- The relations of the compares (R144). -/
inductive Relation where
  | eq | lt | le
  deriving DecidableEq, Repr

/-- Does the relation hold between two values? -/
def relates (r : Relation) (x y : Val) : Bool :=
  match r with
  | .eq => eqVal x y
  | .lt => ltVal false x y
  | .le => ltVal false x y || eqVal x y

/-- VCEQ, VCLT, VCLE (R144): a MASK. -/
def vCompare (fm srg : Word) (r : Relation) (t : Tag) (a b : Vec) : VRes :=
  lanesRes .mask (runLanes (lanes t) srg (fun i g =>
    let x := val fm t (elem a t i)
    let y := val fm t (elem b t i)
    ((if relates r x.1 y.1 then 1 else 0), orFlags x.2 y.2, g)))

/-- The three fused operations (R145). -/
inductive FusedKind where
  | fma | fms | fnma
  deriving DecidableEq, Repr

/-- The exact value of one fused lane (R145). -/
def fusedVal (k : FusedKind) (rm : RoundMode) (x y z : Val) : Val × Flags :=
  match k with
  | .fma => fmaVal rm x y z
  | .fms => fmaVal rm x y (negVal z)
  | .fnma => fmaVal rm (negVal x) y z

def fusedInt (k : FusedKind) (x y z : Int) : Int :=
  match k with
  | .fma => x * y + z
  | .fms => x * y - z
  | .fnma => z - x * y

/-- One active lane of VFMA, VFMS, VFNMA. -/
def fusedLane (fm : Word) (k : FusedKind) (t : Tag) (g : Word) (x y z : Nat) : Nat × Flags × Word :=
  if isInt t then
    (lowBits (width t) (fusedInt k (laneInt t x) (laneInt t y) (laneInt t z)), noFlags, g)
  else
    let a := val fm t x
    let b := val fm t y
    let c := val fm t z
    let v := fusedVal k (fmodeRM fm) a.1 b.1 c.1
    let e := encStep fm (fmodeRM fm) t g v.1
    (e.1, orFlags (orFlags (orFlags a.2 b.2) c.2) (orFlags v.2 e.2.1), e.2.2)

/-- VFMA, VFMS, VFNMA under the lane mask e0 (R135, R145). -/
def vFused (fm srg e0 : Word) (k : FusedKind) (t : Tag) (a b d : Vec) : VRes :=
  lanesRes t (runLanes (lanes t) srg (fun i g =>
    if bit e0 i then fusedLane fm k t g (elem a t i) (elem b t i) (elem d t i)
    else (elem d t i, noFlags, g)))

/-- Are all of lanes 0 to lanes(t) − 1 active (R135)? -/
def allActive (e0 : Word) (t : Tag) : Bool := (List.range (lanes t)).all (fun i => bit e0 i)

/-- A lane-wise selection of codes under the mask, reading no value. -/
def vMasked (srg e0 : Word) (t : Tag) (src : Nat → Nat) (d : Vec) : VRes :=
  lanesRes t (runLanes (lanes t) srg (fun i g => (if bit e0 i then src i else elem d t i, noFlags, g)))

/-- One lane of VABS or VNEG (R148). -/
def signLane (fm : Word) (t : Tag) (negate : Bool) (x : Nat) : Nat × Flags :=
  if isInt t then
    let i := laneInt t x
    (lowBits (width t) (if negate then -i else if isSigned t && decide (i < 0) then -i else i), noFlags)
  else
    let v := val fm t x
    match v.1 with
    | .nan | .nar => (nanCode t, v.2)
    | .inf neg => (infCode t (if negate then !neg else false), v.2)
    | .fin neg q =>
      if q = 0 then (if t = .dm8 then 0 else signBit t (if negate then !neg else false), v.2)
      else
        let low := x % 2 ^ (width t - 1)
        ((if negate && !neg then 2 ^ (width t - 1) else 0) + low, v.2)

/-- VABS and VNEG under the lane mask (R148). -/
def vSign (fm srg e0 : Word) (t : Tag) (negate : Bool) (a d : Vec) : VRes :=
  lanesRes t (runLanes (lanes t) srg (fun i g =>
    if bit e0 i then
      let e := signLane fm t negate (elem a t i)
      (e.1, e.2, g)
    else (elem d t i, noFlags, g)))

/-- VBCST (R150). -/
def vBroadcast (srg : Word) (t : Tag) (a : Word) : VRes :=
  if t = .mask then plainRes srg .mask (BitVec.setWidth 512 a)
  else lanesRes t (runLanes (lanes t) srg (fun _ g => (a.toNat % 2 ^ width t, noFlags, g)))

/-- The bits that a register of a tag is written with: bits 511:64 of a MASK stay zero (R70, R142). -/
def tagBits (t : Tag) (v : Vec) : Vec := if t = .mask then BitVec.setWidth 512 (BitVec.setWidth 64 v) else v

/-- VRETAG (R151). -/
def vRetag (srg : Word) (t : Tag) (a : Vec) : VRes :=
  plainRes srg t (tagBits t a)

/-- VCVT (R152). -/
def vConvert (fm srg : Word) (rm : RoundMode) (s t : Tag) (a : Vec) : VRes :=
  let n := min (lanes s) (lanes t)
  lanesRes t (runLanes (lanes t) srg (fun i g =>
    if i < n then
      let x := val fm s (elem a s i)
      let e := encStep fm rm t g x.1
      (e.1, orFlags x.2 e.2.1, e.2.2)
    else (0, noFlags, g)))

/-- The reduction of lanes 0 to n − 1 (R153): op 0 add, 1 min, 2 max. -/
def reduceLanes (fm : Word) (op n : Nat) (t : Tag) (a : Vec) (g : Word) : Nat × Flags × Word :=
  let xs := (List.range n).map (fun i => elem a t i)
  if op = 0 then
    if isInt t then (lowBits (width t) ((xs.map (laneInt t)).foldl (· + ·) 0), noFlags, g)
    else
      let vs := xs.map (val fm t)
      let s := sumVal (fmodeRM fm) (vs.foldl (fun acc v => sumAdd acc v.1) sumStart)
      let e := encStep fm (fmodeRM fm) t g s.1
      (e.1, orFlags (vs.foldl (fun f v => orFlags f v.2) s.2) e.2.1, e.2.2)
  else
    match xs with
    | [] => (0, noFlags, g)
    | x :: rest =>
      if isInt t then
        (rest.foldl (fun best y => (pickLane fm t (op == 2) best y).1) x, noFlags, g)
      else
        let v := rest.foldl (fun best y => pickVal (op == 2) best (val fm t y).1) (val fm t x).1
        let e := enc fm v t (fmodeRM fm) 0
        (e.1, orFlags (xs.foldl (fun f y => orFlags f (val fm t y).2) noFlags) e.2, g)

/-- VRED (R153). -/
def vReduce (fm srg : Word) (op : Nat) (t : Tag) (a : Vec) : VRes :=
  let r := reduceLanes fm op (lanes t) t a srg
  ⟨vecOf t [r.1], t, r.2.2, r.2.1⟩

/-- VSCAN (R154). -/
def vScan (fm srg : Word) (op : Nat) (t : Tag) (a : Vec) : VRes :=
  lanesRes t (runLanes (lanes t) srg (fun i g => reduceLanes fm op (i + 1) t a g))

end Sys2Proof.Machine
end

