-- ==== Sys2Proof/Machine/Vector.lean ====
section
/-! DEFINITION. The vector instructions (spec/07_vector.md R133 to R155). -/

namespace Sys2Proof.Machine

/-! ### Shared shapes -/

/-- A vector source. -/
def vOp (f : F6) : Opnd := .v f

/-- A compact form's vector register (R30). -/
def v3 (r : F3) : F6 := r.setWidth 6

/-- The lanes of a core are ungated by a vector instruction (R155). -/
def ungate (s : State) : State :=
  match standsOn s s.cur.1 with
  | some p => modPhys s p (fun q => { q with gated := false, vIdle := 0 })
  | none => s

/-- The checks of a vector instruction: registers, then tags (R46 steps 3 and 4, R136). -/
def vIssue (n : Names) (ok : Ctx → Bool) (s : State) (k : State → Res) : Res :=
  if allHeld (me s) n && !anyPending (me s) n && !ok (me s) then trap s causeFormat else issue n s k

/-- A vector instruction completes: the register, its tag, the flags (R77) and the generator (R83). -/
def vFinish (n : Names) (len : Nat) (d : F6) (r : VRes) (s : State) : Res :=
  finishCtx n len (ungate (countV s)) (fun x =>
    { setVreg x d.toNat r.tag r.data with fmode := raise r.flags x.fmode, srg := r.srg })

/-- A vector instruction: what it names, the tags it accepts, and what it computes. -/
def vector (n : Names) (len : Nat) (d : F6) (ok : Ctx → Bool) (f : State → VRes) (s : State) : Res :=
  vIssue n ok s (fun t => vFinish n len d (f t) t)

/-- The names of d, a, b and of d, a. -/
def names3 (d a b : F6) : Names := ⟨[.v a, .v b], none, [], [d.toNat]⟩
def names2 (d a : F6) : Names := ⟨[.v a], none, [], [d.toNat]⟩

/-- The tag of A, and the tags that agree with it (R72). -/
def tagA (x : Ctx) (a : F6) : Tag := vtagOf x a.toNat
def sameTag (x : Ctx) (a b : F6) : Bool := tagA x a == tagA x b

/-- Two arithmetic operands of one tag (R137). -/
def arith2 (a b : F6) (x : Ctx) : Bool := isArith (tagA x a) && sameTag x a b
/-- Two operands of any one tag. -/
def any2 (a b : F6) (x : Ctx) : Bool := sameTag x a b
/-- An arithmetic operand. -/
def arith1 (a : F6) (x : Ctx) : Bool := isArith (tagA x a)
/-- The destination carries the result tag when an inactive lane keeps its bits (R135). -/
def keeps (d a : F6) (x : Ctx) : Bool := allActive (ereg x 0) (tagA x a) || sameTag x d a

/-- The vector operands. -/
def vA (s : State) (a : F6) : Vec := vreg (me s) a.toNat
def srgOf (s : State) : Word := (me s).srg
def e0Of (s : State) : Word := ereg (me s) 0

/-! ### Majors 0x18 to 0x1A -/

/-- VADD, VSUB, VMUL (R140). -/
def vArithI (len : Nat) (opI : Int → Int → Int) (opV : RoundMode → Val → Val → Val × Flags) (d a b : F6) : State → Res :=
  vector (names3 d a b) len d (arith2 a b) (fun t =>
    vArith (fm t) (srgOf t) (tagA (me t) a) opI opV (vA t a) (vA t b))

def execVadd (d a b : F6) (s : State) : Res := vArithI long (· + ·) addOp d a b s
def execVsub (d a b : F6) (s : State) : Res := vArithI long (· - ·) subOp d a b s
def execVmul (d a b : F6) (s : State) : Res := vArithI long (· * ·) mulOp d a b s
def execVaddCompact (d a b : F3) (s : State) : Res := vArithI short (· + ·) addOp (v3 d) (v3 a) (v3 b) s
def execVsubCompact (d a b : F3) (s : State) : Res := vArithI short (· - ·) subOp (v3 d) (v3 a) (v3 b) s
def execVmulCompact (d a b : F3) (s : State) : Res := vArithI short (· * ·) mulOp (v3 d) (v3 a) (v3 b) s

/-- VMIN and VMAX (R141). -/
def vPickI (wantMax : Bool) (d a b : F6) : State → Res :=
  vector (names3 d a b) long d (arith2 a b) (fun t =>
    vPick (fm t) (srgOf t) (tagA (me t) a) wantMax (vA t a) (vA t b))

def execVmin (d a b : F6) (s : State) : Res := vPickI false d a b s
def execVmax (d a b : F6) (s : State) : Res := vPickI true d a b s

/-- VAND, VOR, VXOR (R142). -/
def vLogicI (f : Vec → Vec → Vec) (d a b : F6) : State → Res :=
  vector (names3 d a b) long d (any2 a b) (fun t =>
    plainRes (srgOf t) (tagA (me t) a) (tagBits (tagA (me t) a) (f (vA t a) (vA t b))))

def execVand (d a b : F6) (s : State) : Res := vLogicI (· &&& ·) d a b s
def execVor (d a b : F6) (s : State) : Res := vLogicI (· ||| ·) d a b s
def execVxor (d a b : F6) (s : State) : Res := vLogicI (· ^^^ ·) d a b s

/-- The tags of a shift (R143). -/
def shiftTags (a : F6) (b : Opnd) (x : Ctx) : Bool :=
  isInt (tagA x a) && (match b with
    | .v f => sameTag x a f
    | _ => true)

/-- The amount of lane i (R143). -/
def shiftAmount (s : State) (t : Tag) (b : Opnd) (i : Nat) : Nat :=
  match b with
  | .v f => elem (vA s f) t i
  | _ => (valB s b).toNat

/-- VSHL, VSHR, VSAR (R143). -/
def vShiftI (k : ShiftKind) (d a : F6) (b : Opnd) : State → Res :=
  vector ⟨[.v a, b], none, [], [d.toNat]⟩ long d (shiftTags a b) (fun t =>
    vShift (srgOf t) k (tagA (me t) a) (vA t a) (shiftAmount t (tagA (me t) a) b))

def execVshl (d a : F6) (b : Opnd) (s : State) : Res := vShiftI .left d a b s
def execVshr (d a : F6) (b : Opnd) (s : State) : Res := vShiftI .right d a b s
def execVsar (d a : F6) (b : Opnd) (s : State) : Res := vShiftI .arith d a b s

/-- VCEQ, VCLT, VCLE (R144). -/
def vCompareI (r : Relation) (d a b : F6) : State → Res :=
  vector (names3 d a b) long d (arith2 a b) (fun t =>
    vCompare (fm t) (srgOf t) r (tagA (me t) a) (vA t a) (vA t b))

def execVceq (d a b : F6) (s : State) : Res := vCompareI .eq d a b s
def execVclt (d a b : F6) (s : State) : Res := vCompareI .lt d a b s
def execVcle (d a b : F6) (s : State) : Res := vCompareI .le d a b s

/-- VBCST (R150). -/
def execVbcst (d : F6) (a : Opnd) (tag : F6) (s : State) : Res :=
  vector ⟨[a], none, [], [d.toNat]⟩ long d (fun _ => true) (fun t =>
    vBroadcast (srgOf t) (tagOf tag.toNat) (opndVal t true a)) s

/-- VRED (R153). -/
def execVred (d a op : F6) (s : State) : Res :=
  vector (names2 d a) long d (arith1 a) (fun t => vReduce (fm t) (srgOf t) op.toNat (tagA (me t) a) (vA t a)) s

/-- VSCAN (R154). -/
def execVscan (d a op : F6) (s : State) : Res :=
  vector (names2 d a) long d (arith1 a) (fun t => vScan (fm t) (srgOf t) op.toNat (tagA (me t) a) (vA t a)) s

/-- VCVT with a mode of the function, or FMODE's (R152). -/
def vConvertI (mode : Option RoundMode) (d a tag : F6) : State → Res :=
  vector (names2 d a) long d (arith1 a) (fun t =>
    vConvert (fm t) (srgOf t) (mode.getD (fmodeRM (fm t))) (tagA (me t) a) (tagOf tag.toNat) (vA t a))

def execVcvt (d a tag : F6) (s : State) : Res := vConvertI none d a tag s
def execVcvtRne (d a tag : F6) (s : State) : Res := vConvertI (some .rne) d a tag s
def execVcvtRtz (d a tag : F6) (s : State) : Res := vConvertI (some .rtz) d a tag s
def execVcvtRdn (d a tag : F6) (s : State) : Res := vConvertI (some .rdn) d a tag s
def execVcvtRup (d a tag : F6) (s : State) : Res := vConvertI (some .rup) d a tag s
def execVcvtRsto (d a tag : F6) (s : State) : Res := vConvertI (some .rsto) d a tag s

/-- VRETAG (R151). -/
def execVretag (d a tag : F6) (s : State) : Res :=
  vector (names2 d a) long d (fun _ => true) (fun t => vRetag (srgOf t) (tagOf tag.toNat) (vA t a)) s

/-! ### Major 0x1B: under the lane mask e0 (R135) -/

/-- The tags of a fused operation: the addend carries the tag too (R145). -/
def fusedTags (d a b : F6) (x : Ctx) : Bool := arith2 a b x && sameTag x d a

/-- VFMA, VFMS, VFNMA (R145). -/
def vFusedI (len : Nat) (k : FusedKind) (d a b : F6) : State → Res :=
  vector (names3 d a b) len d (fusedTags d a b) (fun t =>
    vFused (fm t) (srgOf t) (e0Of t) k (tagA (me t) a) (vA t a) (vA t b) (vA t d))

def execVfma (d a b : F6) (s : State) : Res := vFusedI long .fma d a b s
def execVfms (d a b : F6) (s : State) : Res := vFusedI long .fms d a b s
def execVfnma (d a b : F6) (s : State) : Res := vFusedI long .fnma d a b s
def execVfmaCompact (d a b : F3) (s : State) : Res := vFusedI short .fma (v3 d) (v3 a) (v3 b) s

/-- VSEL (R146): e0 selects, every lane is written. -/
def execVsel (d a b : F6) (s : State) : Res :=
  vector (names3 d a b) long d (any2 a b) (fun t =>
    vMasked (srgOf t) (e0Of t) (tagA (me t) a) (elem (vA t a) (tagA (me t) a)) (vA t b)) s

/-- The index tag of VPERM (R147). -/
def indexTag (t : Tag) : Tag := if lanes t = 64 then .n8 else if lanes t = 32 then .n16 else .n32

/-- The tags of VPERM (R147). -/
def permTags (d a b : F6) (x : Ctx) : Bool :=
  tagA x a != .mask && tagA x b == indexTag (tagA x a) && keeps d a x

/-- VPERM (R147). -/
def execVperm (d a b : F6) (s : State) : Res :=
  vector (names3 d a b) long d (permTags d a b) (fun t =>
    let g := tagA (me t) a
    vMasked (srgOf t) (e0Of t) g (fun i => elem (vA t a) g (elem (vA t b) (indexTag g) i % lanes g)) (vA t d)) s

/-- The tags of VABS and VNEG (R135, R148). -/
def signTags (d a : F6) (x : Ctx) : Bool := arith1 a x && keeps d a x

/-- VABS and VNEG (R148). -/
def vSignI (negate : Bool) (d a : F6) : State → Res :=
  vector (names2 d a) long d (signTags d a) (fun t =>
    vSign (fm t) (srgOf t) (e0Of t) (tagA (me t) a) negate (vA t a) (vA t d))

def execVabs (d a : F6) (s : State) : Res := vSignI false d a s
def execVneg (d a : F6) (s : State) : Res := vSignI true d a s

/-- VMOV (R149). -/
def execVmov (d a : F6) (s : State) : Res :=
  vector (names2 d a) long d (keeps d a) (fun t =>
    vMasked (srgOf t) (e0Of t) (tagA (me t) a) (elem (vA t a) (tagA (me t) a)) (vA t d)) s

end Sys2Proof.Machine
end

