-- ==== Sys2Proof/Machine/Loads.lean ====
section
/-! DEFINITION. What the loads, stores, gathers and scatters share, and the return of an outstanding load
(spec/08_memory.md R156 to R167). -/

namespace Sys2Proof.Machine

/-! ### Issuing a load -/

/-- The value of loaded bytes in a scalar register (R161, R162). -/
def extendLoad (signed : Bool) (n v : Nat) : Word := if signed then wordOfInt (sx v (8 * n)) else word v

/-- The destination a load has still to write: none for s0, whose load is discarded (R160). -/
def pendScalar (x : Ctx) (d : Nat) : Ctx := if d = 0 then x else { x with spend := d :: x.spend }
def unpendScalar (x : Ctx) (d : Nat) : Ctx := { x with spend := x.spend.erase d }

/-- A load becomes outstanding. -/
def sendLoad (s : State) (l : Load) : State :=
  modMe s (fun x =>
    let y := { x with loads := x.loads ++ [l] }
    if l.vec then { y with vpend := l.dst :: y.vpend } else pendScalar y l.dst)

/-- An access of n bytes whose checks let it go on, or what they do instead (R158, R159). -/
def checkAccess (s : State) (va n : Nat) (write vec : Bool) (k : Verdict → Res) : Res :=
  if lineBusy s va && !inWindow va then waitAt s (lineWait s va)
  else
    let v := judge s s.cur.1 (me s) va n write vec
    if allowed v then k v else refuse s va [] v

/-- A scalar load of n bytes at va into d (R161, R162). -/
def loadScalar (names : Names) (len d va n : Nat) (signed : Bool) (s : State) : Res :=
  checkAccess s va n false false (fun v =>
    match readNow s s.cur.1 va n v with
    | some x => finishCtx names len s (fun c => setSreg c d (extendLoad signed n x))
    | none =>
      finishCtx names len (sendLoad s ⟨false, d, .raw, n, signed, va, verdictPage v, none, issueTick s⟩) id)

/-- A scalar store of the low n bytes of w at va (R161). -/
def storeScalar (names : Names) (len va n : Nat) (w : Word) (s : State) : Res :=
  checkAccess s va n true false (fun v =>
    if storeReady s s.cur.1 va n w.toNat v then
      finishCtx names len (performStore s s.cur.1 va n w.toNat v) id
    else match storeFull s s.cur.1 va n w.toNat v with
      | some p => parkMineFull s va p
      | none => waitBegun s 0)

/-- The bytes of a vector access of a tag (R156, R163). -/
def vecBytes (t : Tag) : Nat := if t = .mask then 8 else 64

/-- A vector load of tag t at va into vd (R163). -/
def loadVector (names : Names) (d : Nat) (t : Tag) (va : Nat) (s : State) : Res :=
  checkAccess s va (vecBytes t) false true (fun v =>
    match readNow s s.cur.1 va (vecBytes t) v with
    | some x => finishCtx names long (countV s) (fun c => setVreg c d t (BitVec.ofNat 512 x))
    | none =>
      finishCtx names long
        (sendLoad (countV s) ⟨true, d, t, vecBytes t, false, va, verdictPage v, none, issueTick s⟩) id)

/-- A vector store of vX at va (R163). -/
def storeVector (names : Names) (r va : Nat) (s : State) : Res :=
  let n := vecBytes (vtagOf (me s) r)
  checkAccess s va n true true (fun v =>
    finishCtx names long (performStore (countV s) s.cur.1 va n (vreg (me s) r).toNat v) id)

/-! ### Gathers and scatters (R164) -/

/-- The address of element i: base plus the signed or unsigned byte offset in lane i of vI. -/
def elementVa (x : Ctx) (base : Word) (vi i : Nat) : Nat :=
  (base + wordOfInt (laneInt (vtagOf x vi) (elem (vreg x vi) (vtagOf x vi) i))).toNat

/-- The tags an index register may carry. -/
def indexOk (x : Ctx) (vi : Nat) : Bool := vtagOf x vi == .i32 || vtagOf x vi == .n32

/-- The elements with the answers of their checks, in lane order. -/
def judgeElements (s : State) (vas : List Nat) (n : Nat) (write : Bool) : List (Nat × Nat × Verdict) :=
  vas.zipIdx.map (fun e => (e.2, e.1,
    if lineBusy s e.1 && !inWindow e.1 then .waits else judge s s.cur.1 (me s) e.1 n write true))

/-- Every element is checked before any is read or written; the first that fails decides (R158). -/
def checkElements (s : State) (vas : List Nat) (n : Nat) (write : Bool) (k : List (Nat × Nat × Verdict) → Res) : Res :=
  let js := judgeElements s vas n write
  match js.find? (fun j => !allowed j.2.2) with
  | some j => refuse s j.2.1 [word j.1] j.2.2
  | none => k js

/-- Lane i of a register takes a value. -/
def setLane (v : Vec) (w i x : Nat) : Vec :=
  (v &&& ~~~(BitVec.ofNat 512 ((2 ^ w - 1) * 2 ^ (w * i)))) ||| BitVec.ofNat 512 (x % 2 ^ w * 2 ^ (w * i))

/-- Lane i of a context's register takes a value. -/
def landLane (x : Ctx) (d w i v : Nat) : Ctx := { x with v := setD 0 x.v d (setLane (vreg x d) w i v) }

/-- One element of a gather: read at once when the core holds it, else outstanding. -/
def gatherOne (d n : Nat) (t : Tag) (s : State) (j : Nat × Nat × Verdict) : State :=
  match readNow s s.cur.1 j.2.1 n j.2.2 with
  | some v => modMe s (fun x => landLane x d (8 * n) j.1 v)
  | none => sendLoad s ⟨true, d, t, n, false, j.2.1, verdictPage j.2.2, some j.1, issueTick s⟩

/-- The gather (R164): lanes 16 and above are zero; elements are separate accesses with no order among them. -/
def gather (names : Names) (d : Nat) (t : Tag) (vas : List Nat) (s : State) : Res :=
  let n := width t / 8
  checkElements s vas n false (fun js =>
    finishCtx names long (js.foldl (gatherOne d n t) (modMe (countV s) (fun x => setVreg x d t 0))) id)

/-- The scatter (R164): elements in lane order, so that a higher lane's bytes remain. -/
def scatter (names : Names) (r : Nat) (vas : List Nat) (s : State) : Res :=
  let t := vtagOf (me s) r
  let n := width t / 8
  let data := vreg (me s) r
  checkElements s vas n true (fun js =>
    finishCtx names long
      (js.foldl (fun u j => performStore u s.cur.1 j.2.1 n (elem data t j.1) j.2.2) (countV s)) id)

/-- The sixteen element addresses of an index register. -/
def elementVas (x : Ctx) (base : Word) (vi : Nat) : List Nat := (List.range 16).map (elementVa x base vi)

/-! ### LOAD_REPLY (R89, R161, R306, R362, R386) -/

/-- What a reply counts: the level that served the load, and the ticks from issue to reply (R386). -/
def countLoad (s : State) (lc level latency : Nat) : State :=
  let one := fun (t : State) (b : Bool) (code : Nat) => if b then countAt t lc code 1 else t
  let s1 := one s (decide (1 ≤ level)) 0x04
  let s2 := one s1 (decide (2 ≤ level)) 0x05
  let s3 := one s2 (decide (level = 2)) 0x06
  let s4 := one s3 (decide (level = 3)) 0x07
  if 2 ≤ level then countAt s4 lc 0x0B latency else s4

/-- The loaded bytes land in the destination, unless the reeve has taken the register from the context (R312). -/
def landLoad (x : Ctx) (l : Load) (v : Nat) : Ctx :=
  if l.vec then
    let y := { x with vpend := x.vpend.erase l.dst }
    if vectorHeld x l.dst then
      match l.lane with
      | some i => landLane y l.dst (8 * l.size) i v
      | none => setVreg y l.dst l.tag (BitVec.ofNat 512 v)
    else y
  else
    let y := unpendScalar x l.dst
    if scalarHeld x l.dst then setSreg y l.dst (extendLoad l.signed l.size v) else y

/-- The bytes that must not lie in a half that the host holds in E when a load is performed (R352): a stash-mapped line
is filled whole. -/
def replyMask (s : State) (lc : Nat) (l : Load) : BitVec 128 :=
  if (mappingOf (coreOf s lc) l.addr).isSome then fullMask else spanMask (l.addr % 128) l.size

/-- May the reply to a load come now? The core stands somewhere (R200), and no half of the line is held by the host against
the read (R352). -/
def replyReady (s : State) (lc : Nat) (l : Load) : Bool :=
  (standsOn s lc).isSome && !halfBlocks s (lineKey (asidOf s lc) l.addr) (replyMask s lc l) false

/-- LOAD_REPLY: outstanding load idx of a context is performed and its data lands. -/
def execLoadReply (lc c idx : Nat) (s : State) : Res :=
  match (ctxOf s lc c).loads[idx]? with
  | some l =>
    if replyReady s lc l then
      let r := performLoad s lc l.addr l.size l.page
      .next (countLoad (modCtx r.1 lc c (fun x => landLoad { x with loads := x.loads.eraseIdx idx } l r.2.1)) lc
        r.2.2 (s.ticks - l.ticks))
    else .next s
  | none => .next s

end Sys2Proof.Machine
end

