-- ==== Sys2Proof/Machine/Offers.lean ====
section
/-! DEFINITION. Offers, mills, holds and settling (spec/09_offers.md R178 to R200). -/

namespace Sys2Proof.Machine

/-! ### What an offer computes (R184) -/

/-- The bytes of an access shape (R180). -/
def shapeBytes : Shape → Nat
  | .scalar => 8
  | .f32 => 4
  | .vector => 64

/-- What an operation answers: the new value, the value returned, whether it writes, the flags. -/
structure OfferRes where
  new : Vec
  ret : Vec
  writes : Bool
  flags : Flags
  deriving DecidableEq, Repr

/-- The 64-bit lane of a scalar offer. -/
def offer64 (op : OfferOp) (old b b2 : Int) : Int :=
  match op with
  | .add => old + b
  | .fma => b * b2 + old
  | .min => if b < old then b else old
  | .max => if old < b then b else old
  | _ => old

/-- One lane of tag t, with the random bits it travels with. -/
def offerLane (op : OfferOp) (fm : Word) (t : Tag) (r old b b2 : Nat) : Nat × Flags :=
  match op with
  | .min => pickLane fm t false old b
  | .max => pickLane fm t true old b
  | _ =>
    if isInt t then (lowBits (width t) (offer64 op (laneInt t old) (laneInt t b) (laneInt t b2)), noFlags)
    else
      let rm := fmodeRM fm
      let x := val fm t old
      let y := val fm t b
      let z := val fm t b2
      let v := match op with
        | .fma => fmaVal rm y.1 z.1 x.1
        | _ => addVal rm x.1 y.1
      let read := match op with
        | .fma => orFlags (orFlags x.2 y.2) z.2
        | _ => orFlags x.2 y.2
      let e := enc fm v.1 t rm r
      (e.1, orFlags read (orFlags v.2 e.2))

/-- The lanes of an offer of shape f32 or vector. -/
def shapeLanes (sh : Shape) (t : Tag) : Nat :=
  match sh with
  | .vector => lanes t
  | _ => 1

/-- offer_result (R184), over the bytes of the access. -/
def offerResult (o : Offer) (old : Vec) : OfferRes :=
  match o.op with
  | .xchg => ⟨o.b, old, true, noFlags⟩
  | .cas => if old = o.b then ⟨o.b2, old, true, noFlags⟩ else ⟨old, old, false, noFlags⟩
  | .and => ⟨old &&& o.b, old &&& o.b, true, noFlags⟩
  | .or => ⟨old ||| o.b, old ||| o.b, true, noFlags⟩
  | op =>
    if o.shape = .scalar then
      let at64 := fun (x : Vec) => (BitVec.setWidth 64 x).toInt
      let v := BitVec.setWidth 512 (wordOfInt (offer64 op (at64 old) (at64 o.b) (at64 o.b2)))
      ⟨v, v, true, noFlags⟩
    else
      let a := runLanes (shapeLanes o.shape o.tag) 0#64 (fun i g =>
        let e := offerLane op o.fm o.tag (o.r.getD i 0) (elem old o.tag i) (elem o.b o.tag i) (elem o.b2 o.tag i)
        (e.1, e.2, g))
      let v := vecOf o.tag a.out.reverse
      ⟨v, v, true, a.flags⟩

/-! ### Lines and holds -/

def offerKey (o : Offer) : Nat := lineKey o.asid o.addr

/-- The hold on a line, with its entry. -/
def holdOn (x : Mill) (key : Nat) : Option (Nat × Hold) := x.holds.find? (fun e => holdKey e.2 == key)

/-- The free entries of a hold table (R179). -/
def freeEntries (x : Mill) : List Nat := (List.range 255).filterMap (fun i =>
  if (look x.holds (i + 1)).isSome then none else some (i + 1))
def tableFull (x : Mill) : Bool := (freeEntries x).isEmpty

/-! ### Judging an offer (R188, R190, R191, R195) -/

/-- What the mill finds when it looks at an offer. -/
inductive OfferAnswer where
  | waits
  | parks (entry : Word)
  | lease
  | faults (reason : Nat)
  | declines (reason : Nat)
  | holds (reason : Nat) (p : Page)
  | executes (p : Page)
  | overflows (p : Page)
  deriving DecidableEq, Repr

/-- The first decline reason after HELD and QFULL that holds (R188). -/
def declineReason (s : State) (m : Nat) (o : Offer) (p : Page) : Option Nat :=
  let k := stackOf s (m / 4)
  let h := halfOf s (offerKey o)
  if k.throttled && millCycle s % 4 != 0 then some 5
  else if k.asleep then some 9
  else if tierOf p.frame ≠ 0 then some 2
  else if p.key ≠ 0 ∧ p.key % 16 ≠ m / 4 then some 6
  else if p.cmp && !(getD [] k.dicts (o.asid / 1024 - 1)).contains (cmpGenOf s p) then some 7
  else if h.h0 ≠ .i ∨ h.h1 ≠ .i then some 8
  else if o.tag = .dm8 ∧ o.shape ≠ .scalar ∧ (o.op = .add ∨ o.op = .fma) then some 3
  else none

/-- The bytes of an access at an address, in its line. -/
def accessMask (va n : Nat) : BitVec 128 := spanMask (va % 128) n

/-- The operand of an offer as it stands in memory. -/
def oldOperand (s : State) (o : Offer) (p : Page) : Vec :=
  BitVec.ofNat 512 (lineNat (pocLine s (offerKey o) p) (o.addr % 128) (shapeBytes o.shape))

/-- Does an offer to the line stand before this one (R179, R195, R197)? Without a hold on the line, the offers of the queue
and of the slots are taken by turn; an offer is never taken before an earlier one of its own context. -/
def takenBefore (s : State) (m : Nat) (o : Offer) : Bool :=
  let x := millOf s m
  let free := (holdOn x (offerKey o)).isNone
  (if o.prio then x.queue else x.slots).any (fun q =>
    offerKey q == offerKey o && ((free && decide (q.turn < o.turn)) || (!o.prio && q.lc == o.lc && q.ctx == o.ctx)))

/-- The answer once the page is known and allows the offer. A hold's raw operand is read with the bytes the host has
modified (R352). -/
def answerOnPage (s : State) (m : Nat) (o : Offer) (p : Page) : OfferAnswer :=
  let x := millOf s m
  match holdOn x (offerKey o) with
  | some h => if o.prio || h.2.prio then .waits else .declines 4
  | none =>
    if tableFull x && !o.prio then .declines 1
    else
      let n := shapeBytes o.shape
      match declineReason s m o p with
      | some r => if tableFull x || halfBlocks s (offerKey o) (accessMask o.addr n) false then .waits else .holds r p
      | none =>
        let res := offerResult o (oldOperand s o p)
        let d := mergeLine (pocLine s (offerKey o) p) (natLine res.new.toNat (o.addr % 128) n) (accessMask o.addr n)
        if res.writes && !cmpRoom s p (frameOf p (keyVa (offerKey o))) d then .overflows p else .executes p

/-- What the mill finds when it looks at an offer (R190, then R188). -/
def answerOffer (s : State) (m : Nat) (o : Offer) : OfferAnswer :=
  if isParked s (.offer o.lc o.ctx o.y) || takenBefore s m o then .waits
  else if !canonicalVa o.addr then .faults 33
  else match translate s o.asid o.addr with
    | .fail e => if leaseEnds s o.task o.addr then .lease else .parks e
    | .ok p =>
      let gs := granulesOf o.addr (shapeBytes o.shape)
      if !p.w || p.attr == attrFrozen || gs.any (readOnlyGranule s p) then .faults 33
      else match firstSome (ownerRule s o.task p true) gs with
        | some .waits => .waits
        | some _ => .faults 34
        | none =>
          if gs.any (fun g => isPoison s (frameOf p g)) then .faults 35 else answerOnPage s m o p

/-! ### Replies -/

/-- A reply to an offer that carries no data (R189). -/
def bareReply (o : Offer) (kind reason : Nat) : Reply :=
  { lc := o.lc, ctx := o.ctx, y := o.y, dst := o.dst, shape := o.shape, tag := o.tag, data := 0, writes := false,
    kind := kind, reason := reason, hold := 0, mill := 0, flags := noFlags, settle := false, release := false,
    addr := o.addr }

/-- A reply to a settle (R193), or to an RLS (R194). -/
def settleAnswer (r : Settle) (kind reason : Nat) : Reply :=
  { lc := r.lc, ctx := r.ctx, y := r.y, dst := 0, shape := r.shape, tag := .raw, data := 0, writes := false,
    kind := kind, reason := reason, hold := 0, mill := 0, flags := noFlags, settle := true,
    release := r.data.isNone, addr := r.addr }

def sendReply (s : State) (r : Reply) : State := { s with replies := s.replies ++ [r] }

/-! ### Taking an offer -/

/-- The operand is read from the MSC, or from the frame for an ALIAS line or an asleep slice (R188, R330, R331). -/
def readOperand (s : State) (m : Nat) (o : Offer) (p : Page) : State :=
  if p.aliased || (stackOf s (m / 4)).asleep then heatAccess (heatLookup s o.asid o.addr) (frameOf p o.addr)
  else (mscFill s (offerKey o) p).1

/-- The clean bytes of a filled line of a core's mapping, as the MSC has them. -/
def refreshStash (c : LCore) (va : Nat) (d : BitVec 1024) : LCore :=
  match mappingOf c va with
  | some m =>
    if m.filled.contains (va - m.addr) then
      (List.range 128).foldl (fun k b =>
        let o := m.off + (va - m.addr) + b
        if m.dirty.contains o then k else setStashByte k o (lineByte d b)) c
    else c
  | none => c

/-- The clean bytes of a line in a core's first-level cache and mapping. -/
def refreshL1 (c : LCore) (key : Nat) (d : BitVec 1024) : LCore :=
  let c1 := refreshStash c (keyVa key) d
  match look c1.l1 key with
  | some x => { c1 with l1 := put c1.l1 key (refreshLine x d) }
  | none => c1

/-- What an offer or a settle of a logical core has found and left at the MSC reaches the clean bytes of the line that the
core and its die's second-level cache hold, under what the die holds dirty, so that the core's later loads of the line see
it (R199, R258). -/
def refreshIssuer (s : State) (lc key : Nat) (p : Page) : State :=
  let die := coreDie s lc
  let d := pocLine s key p
  let l := withOwn s die lc key ((look s.l2 (l2Key die key)).getD (emptyLine p))
  let own := (look s.l2 (l2Own die lc key)).getD (emptyLine p)
  let s1 := refreshL2 s die key { emptyLine p with data := d } fullMask
  modCore s1 lc (fun c => refreshL1 c key (mergeLine d l.data (dirtyMask l ||| dirtyMask own)))

/-- The offer is declined with a hold (R179, R189, R192). -/
def installHold (s : State) (m : Nat) (o : Offer) (p : Page) (reason : Nat) : State :=
  let x := millOf s m
  let free := freeEntries x
  let e := free.getD (Config.freeEntry s.taken % free.length) 0
  let old := oldOperand s o p
  let h : Hold := ⟨o.lc, o.ctx, o.y, o.task, o.addr, o.asid, o.shape, o.prio, reason, millCycle s, p⟩
  let s1 := { readOperand s m o p with taken := s.taken + 1 }
  let s2 := modMill s1 m (fun q => { q with
    holds := put q.holds e h
    ended := erase q.ended (ownerKey o.lc o.ctx o.y)
    slots := q.slots.map (fun w => if offerKey w = offerKey o then { w with turn := 0 } else w) })
  sendReply (refreshIssuer s2 o.lc (offerKey o) p) { bareReply o kindDecl reason with data := old, writes := true, hold := e, mill := m }

/-- The offer is executed (R184, R189). -/
def executeOffer (s : State) (m : Nat) (o : Offer) (p : Page) : State :=
  let n := shapeBytes o.shape
  let res := offerResult o (oldOperand s o p)
  let s1 := readOperand s m o p
  let s2 := if res.writes then
      pocWrite s1 (offerKey o) p (natLine res.new.toNat (o.addr % 128) n) (accessMask o.addr n) o.task none
    else s1
  sendReply (refreshIssuer s2 o.lc (offerKey o) p) { bareReply o kindExec 0 with data := res.ret, writes := true, flags := res.flags }

/-- What the mill does with the offer it takes; drop removes it from where it waits. -/
def actOffer (s : State) (m : Nat) (o : Offer) (drop : State → State) : State :=
  match answerOffer s m o with
  | .waits => s
  | .parks e => park s 1 4 o.asid o.addr 0 e o.task (.offer o.lc o.ctx o.y)
  | .overflows p => parkFull s 4 o.asid o.addr p o.task ⟨.offer o.lc o.ctx o.y, o.addr, []⟩
  | .lease => leaseSender (drop s) o.lc o.ctx o.task o.addr
  | .faults r =>
    let s1 := sendReply (heatLookup (drop s) o.asid o.addr) (bareReply o kindFault r)
    if r = 35 then poisonMet s1 o.task else s1
  | .declines r => sendReply (heatLookup (drop s) o.asid o.addr) (bareReply o kindDecl r)
  | .holds r p => installHold (drop s) m o p r
  | .executes p => executeOffer (drop s) m o p

/-- The first offer of a list that need not wait and has no earlier offer of the list to its line before it. -/
def firstTakable (s : State) (m : Nat) (l : List Offer) : Option Nat :=
  (List.range l.length).find? (fun i =>
    match l[i]? with
    | some o => !((l.take i).any (fun q => offerKey q == offerKey o)) && answerOffer s m o != .waits
    | none => false)

/-- MILL_TAKE_OFFER (R188): the mill takes an offer of its queue, or of its priority slots. -/
def execMillTakeOffer (m : Nat) (prio : Bool) (s : State) : Res :=
  let x := millOf s m
  let l := if prio then x.slots else x.queue
  match firstTakable s m l with
  | some i =>
    match l[i]? with
    | some o => .next (actOffer s m o (fun t => modMill t m (fun q =>
        if prio then { q with slots := q.slots.eraseIdx i } else { q with queue := q.queue.eraseIdx i })))
    | none => .next s
  | none => .next s

/-! ### Arrivals -/

/-- The live hold that a settle or release names. -/
def namedHold (s : State) (r : Settle) : Option Hold :=
  match look (millOf s r.mill).holds r.hold with
  | some h => if h.lc = r.lc ∧ h.ctx = r.ctx ∧ h.y = r.y then some h else none
  | none => none

/-- The line of a request: a settle or a release goes to the line of the hold it ends, whatever address it carries
(R181, R197). -/
def reqKey (s : State) : MillReq → Nat
  | .offer o => offerKey o
  | .settle r => match namedHold s r with
    | some h => holdKey h
    | none => lineKey r.asid r.addr

/-- The reply register and the sender of a request. -/
def reqOwner : MillReq → Nat
  | .offer o => ownerKey o.lc o.ctx o.y
  | .settle r => ownerKey r.lc r.ctx r.y
def reqSender : MillReq → Nat × Nat
  | .offer o => (o.lc, o.ctx)
  | .settle r => (r.lc, r.ctx)

/-- No earlier request of the same context to the same line, or naming the same reply register, is on its way (R197). -/
def inTurn (s : State) (idx : Nat) (r : MillReq) : Bool :=
  !((s.flights.take idx).any (fun q =>
    reqSender q == reqSender r && (reqKey s q == reqKey s r || reqOwner q == reqOwner r)))

def landed (s : State) (idx : Nat) : State := { s with flights := s.flights.eraseIdx idx }

/-- Has a mill's queue accepted an offer in this mill cycle already? It accepts one in each (R179). -/
def acceptedNow (s : State) (m : Nat) : Bool := (millOf s m).accepted == some (millCycle s)

/-- OFFER_ARRIVAL (R179): the offer enters its home mill's queue, or is declined QFULL (R188). -/
def execOfferArrival (idx : Nat) (s : State) : Res :=
  match s.flights[idx]? with
  | some (.offer o) =>
    if o.prio || !inTurn s idx (.offer o) then .next s
    else
      let m := homeMill s o.addr o.asid
      if 32 ≤ (millOf s m).queue.length then .next (sendReply (landed s idx) (bareReply o kindDecl 1))
      else if acceptedNow s m then .next s
      else .next (modMill (landed s idx) m (fun q =>
        { q with arrivals := q.arrivals + 1, accepted := some (millCycle s)
                 queue := q.queue ++ [{ o with turn := q.arrivals + 1 }] }))
  | _ => .next s

/-- Is an ordinary offer of the same context to the same line still in the mill's queue? -/
def ownQueued (s : State) (m : Nat) (o : Offer) : Bool :=
  (millOf s m).queue.any (fun q => q.lc == o.lc && q.ctx == o.ctx && offerKey q == offerKey o)

/-- PRIORITY_OFFER_ARRIVAL (R195): the offer enters a priority slot, when one is free; behind a hold on its line it is the
one that is taken when the hold ends. -/
def execPriorityOfferArrival (idx : Nat) (s : State) : Res :=
  match s.flights[idx]? with
  | some (.offer o) =>
    let m := homeMill s o.addr o.asid
    if !o.prio || !inTurn s idx (.offer o) || ownQueued s m o || decide (4 ≤ (millOf s m).slots.length) then .next s
    else .next (modMill (landed s idx) m (fun q =>
      { q with arrivals := q.arrivals + 1
               slots := q.slots ++ [{ o with turn := if (holdOn q (offerKey o)).isSome then 0 else q.arrivals + 1 }] }))
  | _ => .next s

/-- Does an offer that would be taken first stand before a settle of its line (R179)? -/
def offerAhead (s : State) (m key : Nat) : Bool :=
  (millOf s m).queue.any (fun o => offerKey o == key && answerOffer s m o != .waits)

/-- Is an offer of the same context to a line in the mill's queue or slots (R197)? A settle or a release of the context's is
taken after it. -/
def ownOfferBefore (s : State) (m lc c key : Nat) : Bool :=
  let mine := fun (o : Offer) => o.lc == lc && o.ctx == c && offerKey o == key
  (millOf s m).queue.any mine || (millOf s m).slots.any mine

/-- Does the shape of b agree with the hold's (R193)? -/
def shapeAgrees (hold b : Shape) : Bool :=
  match hold with
  | .scalar => b == .scalar
  | .f32 => true
  | .vector => b == .vector

/-- Drop a hold, leaving word of how it ended (R186). -/
def dropHold (s : State) (m e reason : Nat) : State := endHoldsAt s m (fun k _ => k == e) reason

/-- Does a settle of a hold with this reason write through the bridge or to DRAM (R193): ABSENT or RETENTION? -/
def settlesThrough (reason : Nat) : Bool := reason == 2 || reason == 9

/-- Does the host's hold keep a settle waiting (R193, R352)? A STRADDLE hold's settle waits until the host holds no half. -/
def settleBlocked (s : State) (h : Hold) (key : Nat) (m : BitVec 128) : Bool :=
  halfBlocks s key (if h.reason = 8 then fullMask else m) true

/-- The settle writes and its hold ends (R193, R197). -/
def settleWrite (s : State) (r : Settle) (h : Hold) (b : Vec) (p : Page) : State :=
  let n := shapeBytes h.shape
  let s1 := pocWriteVia (settlesThrough h.reason) s (lineKey r.asid r.addr) p (natLine b.toNat (r.addr % 128) n)
    (accessMask r.addr n) r.task (some r.hold)
  sendReply (dropHold (refreshIssuer s1 r.lc (lineKey r.asid r.addr) p) r.mill r.hold 0) (settleAnswer r kindExec 0)

/-- A settle at its mill (R193). -/
def settleAt (s : State) (idx : Nat) (r : Settle) (b : Vec) : State :=
  match namedHold s r with
  | none => sendReply (landed s idx)
      (settleAnswer r kindLost (getD 0 (millOf s r.mill).ended (ownerKey r.lc r.ctx r.y)))
  | some h =>
    if r.addr ≠ h.addr ∨ shapeAgrees h.shape r.shape = false then
      sendReply (dropHold (landed s idx) r.mill r.hold 14) (settleAnswer r kindLost 14)
    else match translate s r.asid r.addr with
      | .fail e =>
        if leaseEnds s r.task r.addr then leaseSender (landed s idx) r.lc r.ctx r.task r.addr
        else park s 1 4 r.asid r.addr 0 e r.task (.settle r.lc r.ctx r.y)
      | .ok p =>
        let n := shapeBytes h.shape
        let d := natLine b.toNat (r.addr % 128) n
        let key := lineKey r.asid r.addr
        if settleBlocked s h key (accessMask r.addr n) then s
        else if !cmpRoom s p (frameOf p (keyVa key)) (mergeLine (pocLine s key p) d (accessMask r.addr n)) then
          parkFull s 4 r.asid r.addr p r.task ⟨.settle r.lc r.ctx r.y, r.addr, []⟩
        else settleWrite (landed s idx) r h b p

/-- May a settle or a release be taken: in its place among its context's requests and among the offers to its line
(R179, R197), and not parked? -/
def settleTurn (s : State) (idx : Nat) (r : Settle) : Bool :=
  let key := reqKey s (.settle r)
  inTurn s idx (.settle r) && !offerAhead s r.mill key && !ownOfferBefore s r.mill r.lc r.ctx key &&
    !isParked s (.settle r.lc r.ctx r.y)

/-- SETTLE_ARRIVAL (R193). -/
def execSettleArrival (idx : Nat) (s : State) : Res :=
  match s.flights[idx]? with
  | some (.settle r) =>
    match r.data with
    | some b => if settleTurn s idx r then .next (settleAt s idx r b) else .next s
    | none => .next s
  | _ => .next s

/-- The release of an RLS is answered with LOST, REASON 0 (R181, R194). -/
def answerRelease (s : State) (r : Settle) : State := if r.answered then sendReply s (settleAnswer r kindLost 0) else s

/-- A release at its mill (R194): the hold ends, whatever address the release carries. It is the hold's line that is
translated (log 43), and a release whose translation fails parks, or ends its task (R285, R335). -/
def releaseAt (s : State) (idx : Nat) (r : Settle) : State :=
  match namedHold s r with
  | none => answerRelease (landed s idx) r
  | some h =>
    match translate s h.asid h.addr with
    | .ok _ => answerRelease (dropHold (heatLookup (landed s idx) h.asid h.addr) r.mill r.hold 0) r
    | .fail e =>
      if leaseEnds s r.task h.addr then leaseSender (landed s idx) r.lc r.ctx r.task h.addr
      else park s 1 4 h.asid h.addr 0 e r.task (.settle r.lc r.ctx r.y)

/-- RELEASE_ARRIVAL (R194). -/
def execReleaseArrival (idx : Nat) (s : State) : Res :=
  match s.flights[idx]? with
  | some (.settle r) => if r.data = none ∧ settleTurn s idx r then .next (releaseAt s idx r) else .next s
  | _ => .next s

/-! ### Replies land (R189, R193, R200) -/

/-- count_lost (R193). -/
def countLost (x : Ctx) (a : Word) : Ctx :=
  let l := bits a 63 7
  if bits x.ofrst 63 7 = l then { x with ofrst := word (l * 128 + min (bits x.ofrst 1 0 + 1) 3) }
  else { x with ofrst := word (l * 128 + 1) }

/-- OFRST.CNT ← 0 (R189). -/
def clearLost (x : Ctx) : Ctx := { x with ofrst := setBits x.ofrst 1 0 0 }

/-- The destination of an offer takes the returned value (R189), unless the reeve has taken it from the context. -/
def landOffer (x : Ctx) (r : Reply) : Ctx :=
  match r.shape with
  | .vector =>
    let y := { x with vpend := x.vpend.erase r.dst }
    if r.writes && vectorHeld x r.dst then setVreg y r.dst r.tag r.data else y
  | .f32 =>
    let y := unpendScalar x r.dst
    if r.writes && scalarHeld x r.dst then setSreg y r.dst (word (r.data.toNat % 2 ^ 32)) else y
  | .scalar =>
    let y := unpendScalar x r.dst
    if r.writes && scalarHeld x r.dst then setSreg y r.dst (BitVec.setWidth 64 r.data) else y

/-- Is a reply a settle's LOST (R193)? That of an RLS counts for nothing (R194). -/
def lostSettle (r : Reply) : Bool := r.settle && !r.release && r.kind == kindLost

/-- A reply of either kind writes yN (R185), OFRST and the flags. -/
def landReply (x : Ctx) (r : Reply) : Ctx :=
  let y := { setYreg x r.y (replyWord r.kind r.reason r.hold r.mill) with
             ypend := x.ypend.erase r.y, fmode := raise r.flags x.fmode }
  let z := if r.settle then y else landOffer y r
  if r.kind = kindExec then clearLost z
  else if lostSettle r then countLost z (word r.addr) else z

/-- What a reply counts (R386). -/
def replyEvent (r : Reply) : Option Nat :=
  if r.settle then (if lostSettle r then some 0x0A else none)
  else if r.kind = kindExec then some 0x08
  else if r.kind = kindDecl then some 0x09 else none

/-- A reply lands when its core stands somewhere (R200). -/
def replyLands (settle : Bool) (idx : Nat) (s : State) : Res :=
  match s.replies[idx]? with
  | some r =>
    if r.settle = settle ∧ (standsOn s r.lc).isSome then
      let s1 := { s with replies := s.replies.eraseIdx idx }
      if (ctxOf s1 r.lc r.ctx).live then
        let s2 := modCtx s1 r.lc r.ctx (fun x => landReply x r)
        match replyEvent r with
        | some e => .next (countAt s2 r.lc e 1)
        | none => .next s2
      else .next s1
    else .next s
  | none => .next s

/-- OFFER_REPLY (R189). -/
def execOfferReply (idx : Nat) (s : State) : Res := replyLands false idx s

/-- SETTLE_REPLY (R193, R194). -/
def execSettleReply (idx : Nat) (s : State) : Res := replyLands true idx s

/-! ### Holds end by time and sleep (R192) -/

/-- The age limit of a hold, in mill cycles. -/
def ageLimit (h : Hold) : Nat := if h.prio then 4096 else 1024

/-- Has a hold reached its age limit? -/
def holdAged (s : State) (h : Hold) : Bool := decide (h.since + ageLimit h ≤ millCycle s)

/-- HOLD_AGE_EXPIRY (R192). -/
def execHoldAgeExpiry (m e : Nat) (s : State) : Res :=
  match look (millOf s m).holds e with
  | some h => if holdAged s h then .next (dropHold s m e 13) else .next s
  | none => .next s

/-- The mills of a stack. -/
def millsOf (k : Nat) : List Nat := [4 * k, 4 * k + 1, 4 * k + 2, 4 * k + 3]

/-- Does a priority hold live in a stack (R192)? -/
def prioHoldLives (s : State) (k : Nat) : Bool := (millsOf k).any (fun m => (millOf s m).holds.any (fun e => e.2.prio))

/-- SLICE_RETENTION_ENTRY (R192): every hold of the slice ends. -/
def execSliceRetentionEntry (k : Nat) (s : State) : Res :=
  if (stackOf s k).asleep || (stackOf s k).skipped || prioHoldLives s k then .next s
  else
    let s1 := (millsOf k).foldl (fun t m => endHoldsAt t m (fun _ _ => true) 12) s
    .next (modStack s1 k (fun q => { q with asleep := true }))

/-- SLICE_WAKE (R192): the holds installed with RETENTION end. -/
def execSliceWake (k : Nat) (s : State) : Res :=
  if !(stackOf s k).asleep || prioHoldLives s k then .next s
  else
    let s1 := (millsOf k).foldl (fun t m => endHoldsAt t m (fun _ h => h.reason == 9) 12) s
    .next (modStack s1 k (fun q => { q with asleep := false }))

/-! ### The instructions (R180 to R183, R193, R194) -/

/-- The second register of a pair (R57). -/
def pairOf : Opnd → Opnd
  | .s f => .s (f + 1)
  | .v f => .v (f + 1)
  | o => o

/-- Does an operation take a pair (R180)? -/
def takesPair : OfferOp → Bool
  | .fma | .cas => true
  | _ => false

/-- The operands of an offer. -/
def offerSrcs (op : OfferOp) (b : Opnd) : List Opnd := if takesPair op then [b, pairOf b] else [b]

/-- Is the operand a vector? -/
def isVectorOp : Opnd → Bool
  | .v _ => true
  | _ => false

/-- The registers an offer names. -/
def offerNames (op : OfferOp) (d a : F6) (b : Opnd) : Names :=
  if isVectorOp b then ⟨offerSrcs op b, none, [a.toNat], [d.toNat]⟩
  else ⟨offerSrcs op b, none, [a.toNat, d.toNat], []⟩

/-- The tags a vector offer accepts (R182, R184). -/
def offerTags (op : OfferOp) (b : Opnd) (x : Ctx) : Bool :=
  match b with
  | .v f =>
    let t := vtagOf x f.toNat
    (match op with
      | .add | .fma | .min | .max => isArith t
      | _ => t != .mask) && (!takesPair op || sameTag x f (f + 1))
  | _ => true

/-- The shape of an offer. -/
def offerShape (f32 : Bool) (b : Opnd) : Shape := if isVectorOp b then .vector else if f32 then .f32 else .scalar

/-- The value of an operand over the access. -/
def offerVal (s : State) (sh : Shape) (o : Opnd) : Vec :=
  match sh, o with
  | .vector, .v f => vreg (me s) f.toNat
  | .f32, _ => BitVec.setWidth 512 (BitVec.setWidth 32 (valB s o))
  | _, _ => BitVec.setWidth 512 (valB s o)

/-- The first check an access of this chapter fails at issue (R182, R193, R314, R318). R318 orders WATCH before the
checks that
need a translation and does not name the stash-mapped range: an offer or SETL that meets a watch there traps with WATCH,
and not
with PROTECT, by the model's choice (log 43). -/
def offerTrap (s : State) (va n align : Nat) : Option (Nat × Nat) :=
  if va % align ≠ 0 then some (causeMisaligned, va)
  else if inWindow va then some (causeProtect, va)
  else match watched (me s) watchOffer va n with
    | some a => some (causeWatch, a)
    | none =>
      if (mappingOf (myCore s) va).isSome || (debugWindow s s.cur.1 va).isSome then some (causeProtect, va) else none

/-- The random bits of each lane and the generator after them (R183). -/
def drawBits (fm g : Word) : Nat → List Nat × Word
  | 0 => ([], g)
  | n + 1 =>
    let r := drawBits fm g n
    if fmodeRM fm = .rsto then (r.1 ++ [srgBits (srgNext r.2)], srgNext r.2) else (r.1 ++ [0], r.2)

/-- Does an operation round (R184)? -/
def offerRounds (op : OfferOp) (sh : Shape) (t : Tag) : Bool :=
  sh != .scalar && isFloat t && (op == .add || op == .fma)

/-- The lines of a die's second-level cache that hold bytes of a line: the die's own, and those of its cores (R216). -/
def dieKeys (s : State) (die key : Nat) : List Nat := (keys s.l2).filter (fun k => l2Die k == die && l2Line k == key)

/-- A line leaves a core's first-level cache and its die's second-level cache (R183). -/
def dropLine (s : State) (lc key : Nat) : State :=
  let s1 := modCore s lc (fun c => { c with l1 := erase c.l1 key })
  { s1 with l2 := (dieKeys s1 (coreDie s lc) key).foldl erase s1.l2 }

/-- The writes to the MSC of every dirty byte of a line that a core and its die hold, the die's first. -/
def lineWrites (s : State) (lc ctx key : Nat) : List WriteReq :=
  ((dieKeys s (coreDie s lc) key).map (fun k => (⟨lc, ctx, .msc, some k, key, fullMask, none⟩ : WriteReq)) ++
    [(⟨lc, ctx, .msc, none, key, fullMask, none⟩ : WriteReq)]).filter (fun w => dirtyMask (outLine s w default) != 0)

/-- The current core's and its die's dirty bytes of a line go to the MSC and the line is dropped, then k (R183, R392). An
address that is not canonical names no line (R327). -/
def cleanThen (s : State) (va : Nat) (k : State → Res) : Res :=
  let key := lineKey (asidOf s s.cur.1) va
  if !canonicalVa va then k s
  else if lineWrites s s.cur.1 s.cur.2 key = [] then k (dropLine s s.cur.1 key)
  else match translate s (asidOf s s.cur.1) va with
    | .fail e => parkMine s va e
    | .ok p =>
      match flushAll s (lineWrites s s.cur.1 s.cur.2 key) with
      | (t, none) => k (dropLine t s.cur.1 key)
      | (t, some w) => if landFull t w p then parkMineFull t va p else waitBegun t 0

/-- Does a reply register's word name a hold that was declined to its context (R181, R194)? -/
def declHeld (k : Word) : Bool := bits k 1 0 == kindDecl && bits k 15 8 != 0

/-- The release of the hold that yN names (R181, R194). -/
def releaseOf (s : State) (y addr : Nat) (answered : Bool) : Settle :=
  let k := yreg (me s) y
  ⟨s.cur.1, s.cur.2, y, bits k 15 8, bits k 21 16, addr, asidOf s s.cur.1, taskNum s.cur.1, .scalar, none, answered⟩

/-- The release that an offer sends first when yN holds a declined offer's hold (R181). -/
def sendRelease (s : State) (y : Nat) (addr : Nat) : State :=
  if declHeld (yreg (me s) y) then
    modMe { s with flights := s.flights ++ [.settle (releaseOf s y addr false)] }
      (fun x => setYreg x y (replyWord kindLost 0 0 0))
  else s

/-- The release that RLS sends, and whose reply yN awaits (R181, R194). -/
def sendRls (s : State) (y : Nat) (addr : Nat) : State :=
  modMe { s with flights := s.flights ++ [.settle (releaseOf s y addr true)] } (fun x => { x with ypend := y :: x.ypend })

/-- The offer leaves the core (R183). -/
def sendOffer (op : OfferOp) (f32 : Bool) (d : F6) (y : F2) (va : Nat) (b : Opnd) (s : State) : State :=
  let sh := offerShape f32 b
  let x := me s
  let t : Tag := match b with
    | .v f => vtagOf x f.toNat
    | _ => if f32 then .fp32 else .raw
  let rs := if offerRounds op sh t then drawBits x.fmode x.srg (shapeLanes sh t) else ([], x.srg)
  let o : Offer :=
    { lc := s.cur.1, ctx := s.cur.2, y := y.toNat, dst := d.toNat, op := op, shape := sh, tag := t, addr := va,
      asid := asidOf s s.cur.1, task := taskNum s.cur.1, b := offerVal s sh b,
      b2 := (if takesPair op then offerVal s sh (pairOf b) else 0), fm := x.fmode, r := rs.1, turn := 0,
      prio := bits x.ofrst 1 0 == 3 && bits x.ofrst 63 7 == va / 128 }
  let s1 := sendRelease s y.toNat va
  modMe { s1 with flights := s1.flights ++ [.offer o] } (fun z =>
    let w := { z with srg := rs.2, ysg := setD 0#64 z.ysg y.toNat x.srg, ypend := y.toNat :: z.ypend }
    if sh = .vector then { w with vpend := d.toNat :: w.vpend } else pendScalar w d.toNat)

/-- An offer (R180 to R183). -/
def offer (op : OfferOp) (f32 : Bool) (d : F6) (y : F2) (a : F6) (b : Opnd) (s : State) : Res :=
  vIssue (offerNames op d a b) (offerTags op b) s (fun t =>
    let n := shapeBytes (offerShape f32 b)
    let va := (valS t a).toNat
    if (me t).ypend.contains y.toNat then waitAt t (replyWait t y.toNat 0)
    else match offerTrap t va n n with
      | some e => trapAddr t e.1 e.2
      | none =>
        if coreLoadBusy t t.cur.1 va then waitAt t 0
        else if refstOut t t.cur.1 va then waitAt t (lineWait t va)
        else cleanThen t va (fun u =>
          finishCtx (offerNames op d a b) long (sendOffer op f32 d y va b u) id))

def execOfrAdd (d : F6) (y : F2) (a : F6) (b : Opnd) (s : State) : Res := offer .add false d y a b s
def execOfrFma (d : F6) (y : F2) (a : F6) (b : Opnd) (s : State) : Res := offer .fma false d y a b s
def execOfrMin (d : F6) (y : F2) (a : F6) (b : Opnd) (s : State) : Res := offer .min false d y a b s
def execOfrMax (d : F6) (y : F2) (a : F6) (b : Opnd) (s : State) : Res := offer .max false d y a b s
def execOfrAnd (d : F6) (y : F2) (a : F6) (b : Opnd) (s : State) : Res := offer .and false d y a b s
def execOfrOr (d : F6) (y : F2) (a : F6) (b : Opnd) (s : State) : Res := offer .or false d y a b s
def execOfrXchg (d : F6) (y : F2) (a : F6) (b : Opnd) (s : State) : Res := offer .xchg false d y a b s
def execOfrCas (d : F6) (y : F2) (a : F6) (b : Opnd) (s : State) : Res := offer .cas false d y a b s
def execOfrAddF32 (d : F6) (y : F2) (a : F6) (b : Opnd) (s : State) : Res := offer .add true d y a b s
def execOfrFmaF32 (d : F6) (y : F2) (a : F6) (b : Opnd) (s : State) : Res := offer .fma true d y a b s
def execOfrMinF32 (d : F6) (y : F2) (a : F6) (b : Opnd) (s : State) : Res := offer .min true d y a b s
def execOfrMaxF32 (d : F6) (y : F2) (a : F6) (b : Opnd) (s : State) : Res := offer .max true d y a b s

/-- The bytes that a SETL touches for its watch (R317, R318): those of its operand, 64 of a vector at an address that is a
multiple of 64, 8 of a scalar at one of 8, and 4 else. R193's check of the address is MISALIGNED at 4 alone, the hold's
shape is
known only at its mill, and R318 does not say which bytes count: the model's choice (log 28). -/
def settleBytes (va : Nat) (b : Opnd) : Nat :=
  if isVectorOp b then (if va % 64 = 0 then 64 else 4) else if va % 8 = 0 then 8 else 4

/-- The settle leaves the core (R193). -/
def sendSettle (y : F2) (va : Nat) (b : Opnd) (s : State) : State :=
  let k := yreg (me s) y.toNat
  let sh : Shape := if isVectorOp b then .vector else .scalar
  let r : Settle := ⟨s.cur.1, s.cur.2, y.toNat, bits k 15 8, bits k 21 16, va, asidOf s s.cur.1, taskNum s.cur.1, sh,
    some (offerVal s sh b), true⟩
  modMe { s with flights := s.flights ++ [.settle r] } (fun x => { x with ypend := y.toNat :: x.ypend })

/-- A SETL that has no hold to settle reports LOST and sends no request (R193). -/
def lostAtOnce (y : F2) (va : Nat) (s : State) : State :=
  countAt (modMe s (fun x => countLost (setYreg x y.toNat (replyWord kindLost 0 0 0)) (word va))) s.cur.1 0x0A 1

/-- The bytes that a SETL would write: those of the hold it names, while that lives. -/
def settleSpan (s : State) (y : F2) (va : Nat) (b : Opnd) : BitVec 128 :=
  let k := yreg (me s) y.toNat
  accessMask va (match look (millOf s (bits k 21 16)).holds (bits k 15 8) with
    | some h => shapeBytes h.shape
    | none => settleBytes va b)

/-- Does the core or its die hold some of those bytes dirty? -/
def settleCleans (s : State) (y : F2) (va : Nat) (b : Opnd) : Bool :=
  (lineWrites s s.cur.1 s.cur.2 (lineKey (asidOf s s.cur.1) va)).any (fun w =>
    dirtyMask (outLine s w default) &&& settleSpan s y va b != 0)

/-- SETL (R193). The settle keeps its place among the writes of the held bytes (R198, R258): where the core or its die has
such a byte dirty, the line is cleaned and dropped as for an offer, which ends the hold (log 43). -/
def execSetl (y : F2) (a : F6) (b : Opnd) (s : State) : Res :=
  issue ⟨[b], none, [a.toNat], []⟩ s (fun t =>
    let va := (valS t a).toNat
    if (me t).ypend.contains y.toNat then waitReply t y.toNat
    else match offerTrap t va (settleBytes va b) 4 with
      | some e => trapAddr t e.1 e.2
      | none =>
        let k := yreg (me t) y.toNat
        let send := fun (u : State) => finishCtx ⟨[b], none, [a.toNat], []⟩ long (sendSettle y va b u) id
        if declHeld k then
          if loadBusy (me t) va then waitAt t 0
          else if refstOut t t.cur.1 va then waitAt t (lineWait t va)
          else if settleCleans t y va b then cleanThen t va send else send t
        else finishCtx ⟨[b], none, [a.toNat], []⟩ long (lostAtOnce y va t) id)

/-- RLS (R194, R317): where yN names a declined offer's hold it sends the release and awaits its reply (R181), which
writes LOST;
else it writes LOST at once. Its watch covers the four bytes at its address: the spec names no size, and this is the model's
choice (log 28). -/
def execRls (y : F2) (a : F6) (s : State) : Res :=
  let names : Names := ⟨[], none, [a.toNat], []⟩
  issue names s (fun t =>
    let va := (valS t a).toNat
    if (me t).ypend.contains y.toNat then waitReply t y.toNat
    else match (if inWindow va then none else watched (me t) watchOffer va 4) with
      | some e => trapAddr t causeWatch e
      | none =>
        if declHeld (yreg (me t) y.toNat) then finishCtx names long (sendRls t y.toNat va) id
        else finishCtx names long t (fun x => setYreg x y.toNat (replyWord kindLost 0 0 0)))

end Sys2Proof.Machine
end

