-- ==== Sys2Proof/Machine/Publish.lean ====
section
/-! DEFINITION. References, publication and walks (spec/10_publication.md R201 to R219), and the acknowledgement of a
write (spec/08_memory.md R166, R167). -/

namespace Sys2Proof.Machine

/-! ### Loads that acquire (R167, R207) -/

/-- A load of eight bytes that then acquires at a scope: the instruction waits for its load, acquires and completes. -/
def loadAcquire (names : Names) (d va scope : Nat) (check : State → (Verdict → Res) → Res) (s : State) : Res :=
  if (me s).stage = .sent then
    if loadBusy (me s) va then waitStage s 0 .sent else finishCtx names long (acquire s s.cur.1 scope) id
  else check s (fun v =>
    match readNow s s.cur.1 va 8 v with
    | some x => finishCtx names long (acquire s s.cur.1 scope) (fun c => setSreg c d (word x))
    | none => waitStage (sendLoad s ⟨false, d, .raw, 8, false, va, verdictPage v, none, issueTick s⟩) 0 .sent)

/-! ### REFLD (R208) -/

/-- The checks of REFLD once its address translates. -/
def refldPage (s : State) (va : Nat) (p : Page) : Verdict :=
  if granTag s (frameOf p va) ≠ tagReference then .trap causeProtect va []
  else match ownerRule s (taskNum s.cur.1) p false va with
    | some v => v
    | none =>
      if isPoison s (frameOf p va) then .trap causePoison va []
      else match mappingOf (myCore s) va with
        | some m => .mapped (m.off + (va - m.addr)) p
        | none => .page p

/-- The checks of REFLD (R208, R314, R318). -/
def judgeRefld (s : State) (va : Nat) : Verdict :=
  if va % 8 ≠ 0 then .trap causeMisaligned va []
  else if inWindow va then .trap causeProtect va []
  else match watched (me s) watchLoad va 8 with
    | some a => .trap causeWatch a []
    | none =>
      if !canonicalVa va || (debugWindow s s.cur.1 va).isSome then .trap causeProtect va []
      else match translate s (asidOf s s.cur.1) va with
        | .fail e => .parks e
        | .ok p => refldPage s va p

/-- The access of REFLD goes on, or what its checks do instead. -/
def checkRefld (s : State) (va : Nat) (k : Verdict → Res) : Res :=
  if lineBusy s va then waitAt s (lineWait s va)
  else
    let v := judgeRefld s va
    if allowed v then k v else refuse s va [] v

/-- The registers REFLD names. -/
def refldNames (d a : F6) : Names := ⟨[], none, [d.toNat, a.toNat], []⟩

/-- REFLD (R208). -/
def execRefld (d a : F6) (s : State) : Res :=
  issue (refldNames d a) s (fun t =>
    let va := (valS t a).toNat
    checkRefld t va (fun v =>
      match readNow t t.cur.1 va 8 v with
      | some x => finishCtx (refldNames d a) long t (fun c => setSreg c d.toNat (word x))
      | none =>
        finishCtx (refldNames d a) long
          (sendLoad t ⟨false, d.toNat, .raw, 8, false, va, verdictPage v, none, issueTick t⟩) id))

/-- REFLD.acq (R207). -/
def execRefldAcq (d a scope : F6) (s : State) : Res :=
  issue (refldNames d a) s (fun t =>
    let va := (valS t a).toNat
    loadAcquire (refldNames d a) d.toNat va scope.toNat (fun u k => checkRefld u va k) t)

/-! ### REFST (R209) -/

/-- What REFST finds it has to do. -/
inductive RefstPlan where
  | traps (cause addr : Nat) (detail : List Word)
  | parksG (entry : Word)
  | parksP (entry : Word)
  | waits
  | follows (ws : List WriteReq)
  | carves (page : Page) (n : Nat)
  | frees (page : Page) (o : Obj)
  | stores (page : Page)

/-- The REFSTs on their way, of any core, that concern one of n bytes from a frame address on: what they write decides
the checks
of another, which waits for them (R209, R392). -/
def refstsMeeting (s : State) (a n : Nat) : List WriteReq :=
  s.writes.filter (fun w => match w.refst with
    | some r => decide (frameOf r.page r.addr < a + n) && decide (a < frameOf r.page r.addr + refstBytes r)
    | none => false)

/-- A REFST that concerns n bytes from a frame address on follows those, and else does as planned. -/
def afterRefsts (s : State) (a n : Nat) (plan : RefstPlan) : RefstPlan :=
  match refstsMeeting s a n with
  | [] => plan
  | ws => .follows ws

/-- A PROTECT or ESCAPE of REFST: g, then p, then whether the check concerns p (R309). -/
def refstTrap (cause g p : Nat) (ofP : Bool) : RefstPlan := .traps cause g [word p, flagWord ofP]

/-- Is a granule free (R203)? -/
def isFree (s : State) (page : Page) (a : Nat) : Bool :=
  page.attr == attrObject && granTag s a == tagData && (objectOf s page a).isNone

/-- Are n granules from a frame address on free, the first being free? No granule of theirs has a tag but data. -/
def allFree (s : State) (a n : Nat) : Bool :=
  !(s.gtags.any (fun e => decide (a / 8 ≤ e.1) && decide (e.1 < a / 8 + n)))

/-- Has a context of another task an outstanding load that touches n granules from a frame address on? Such a load has been
decided, and the carving lands after it (R206, R392; log 43). -/
def otherLoads (s : State) (task a n : Nat) : Bool :=
  s.cores.any (fun k => taskNum k.1 != task && k.2.ctxs.any (fun x => x.2.loads.any (fun l =>
    decide (frameOf l.page l.addr < a + 8 * n) && decide (a < frameOf l.page l.addr + l.size))))

/-- Does a granule lie in a FROZEN object (R206)? -/
def inFrozen (s : State) (page : Page) (a : Nat) : Bool :=
  match objectOf s page a with
  | some o => o.state == objFrozen
  | none => false

/-- Does g lie in a PRIVATE object of the task? -/
def inPrivateOf (s : State) (task : Nat) (page : Page) (a : Nat) : Bool :=
  match objectOf s page a with
  | some o => o.state == objPrivate && o.owner == task
  | none => false

/-- Does the host's hold keep the read of an object's header waiting (R352)? -/
def headerHeld (s : State) (asid va : Nat) : Bool := halfBlocks s (lineKey asid va) (accessMask va 8) false

/-- An object's header is read at the MSC (R209, R214). -/
def headerRead (s : State) (asid va : Nat) : State :=
  match translate s asid va with
  | .ok p => (mscFill s (lineKey asid va) p).1
  | .fail _ => s

/-- The checks that concern p (R209). -/
def refstTarget (s : State) (task g p : Nat) (pageG : Page) : RefstPlan :=
  if p = 0 then .stores pageG
  else if !canonicalVa p || inWindow p || p % 8 != 0 then refstTrap causeProtect g p true
  else match translate s (asidOf s s.cur.1) p with
    | .fail e => .parksP e
    | .ok q =>
      if headerHeld s (asidOf s s.cur.1) p then .waits
      else afterRefsts s (frameOf q p) 8 (
      if granTag s (frameOf q p) ≠ tagHeader ∨ q.attr = attrPlain then refstTrap causeProtect g p true
      else
        let o := objAt s q (frameOf q p)
        if (o.state = objPrivate ∨ o.state = objPublishing) ∧ o.owner ≠ task then refstTrap causeEscape g p true
        else if o.owner = task ∧ inPrivateOf s task pageG (frameOf pageG g) = false then
          if o.state = objPublishing then .waits
          else if o.state = objPrivate then refstTrap causeEscape g p true
          else .stores pageG
        else .stores pageG)

/-- The checks of REFST on its granule, once g translates (R209). -/
def refstGranule (s : State) (task g p : Nat) (page : Page) : RefstPlan :=
  let a := frameOf page g
  if isFree s page a then
    let n := p % 2 ^ 24
    if n = 0 ∨ pageSize page < g % pageSize page + 8 * n ∨ allFree s a n = false then refstTrap causeProtect g p false
    else afterRefsts s a (8 * n) (.carves page n)
  else if granTag s a = tagHeader then
    let o := objAt s page a
    if p = 0 ∧ o.state = objPrivate ∧ o.owner = task then afterRefsts s a (8 * o.len) (.frees page o)
    else refstTrap causeProtect g p false
  else if granTag s a = tagPoison then .traps causePoison g []
  else if inFrozen s page a then refstTrap causeProtect g p false
  else match ownerRule s task page true g with
    | some (.trap _ _ _) => refstTrap causeEscape g p false
    | some _ => .waits
    | none => refstTarget s task g p page

/-- The checks of REFST once g translates (R209). -/
def refstPage (s : State) (task g p : Nat) (page : Page) : RefstPlan :=
  if page.attr = attrFrozen ∨ page.w = false then refstTrap causeProtect g p false
  else afterRefsts s (frameOf page g) 8 (refstGranule s task g p page)

/-- What REFST finds it has to do (R209, R314, R318). R318 puts WATCH before the checks that need a translation, and
R209 has
the stash-mapped range trap with PROTECT: which comes first where g meets both the spec does not say, and the model's
choice is
WATCH (log 43). -/
def refstPlan (s : State) (g p : Nat) : RefstPlan :=
  if g % 8 ≠ 0 then .traps causeMisaligned g []
  else if inWindow g then refstTrap causeProtect g p false
  else match watched (me s) watchStore g 8 with
    | some a => .traps causeWatch a []
    | none =>
      if (mappingOf (myCore s) g).isSome || !canonicalVa g || (debugWindow s s.cur.1 g).isSome then
        refstTrap causeProtect g p false
      else match translate s (asidOf s s.cur.1) g with
        | .fail e => .parksG e
        | .ok page => refstPage s (taskNum s.cur.1) g p page

/-- Eight bytes are written at the MSC with a granule tag, on a task's account. -/
def writeGranule (s : State) (task key va : Nat) (page : Page) (w : Word) (tag : Nat) : State :=
  setGranTag (pocWrite s key page (natLine w.toNat (va % 128) 8) (accessMask va 8) task none) (frameOf page va) tag

/-- May a granule be written at the MSC now (R342, R352)? -/
def granuleReady (s : State) (asid va : Nat) (page : Page) (w : Word) : Bool :=
  pocReady s (lineKey asid va) page (natLine w.toNat (va % 128) 8) (accessMask va 8)

/-- Does a granule's write find no storage in its compressed page (R342)? -/
def granuleFull (s : State) (asid va : Nat) (page : Page) (w : Word) : Bool :=
  !cmpRoom s page (frameOf page (keyVa (lineKey asid va)))
    (mergeLine (pocLine s (lineKey asid va) page) (natLine w.toNat (va % 128) 8) (accessMask va 8))

/-- The header of a carved object (R209). -/
def carvedHeader (task n p : Nat) : Word := word (p / 2 ^ 48 % 2 ^ 16 * 2 ^ 48 + task % 2 ^ 20 * 2 ^ 24 + n)

/-- Does a hold lie on a line of an object? -/
def holdInObject (s : State) (o : Obj) (h : Hold) : Bool :=
  match translate s h.asid h.addr with
  | .ok p =>
    let a := frameOf p h.addr / 128 * 128
    decide (o.hdr < a + 128) && decide (a < o.hdr + 8 * o.len)
  | .fail _ => false

/-- The bytes of a line at a frame address that lie in a range. -/
def rangeMask (a lo n : Nat) : BitVec 128 :=
  BitVec.ofNat 128 ((List.range 128).foldl (fun acc i => if lo ≤ a + i ∧ a + i < lo + n then acc + 2 ^ i else acc) 0)

/-- The bytes of a line that lie in an object. -/
def objectMask (o : Obj) (p : Page) (key : Nat) : BitVec 128 := rangeMask (frameOf p (keyVa key)) o.hdr (8 * o.len)

/-- The granules that bytes of a line touch. -/
def granMask (m : BitVec 128) : BitVec 16 :=
  BitVec.ofNat 16 ((List.range 16).foldl (fun acc i => if m &&& spanMask (8 * i) 8 = 0 then acc else acc + 2 ^ i) 0)

/-- Does a line hold bytes of an object as PRIVATE or FROZEN? -/
def holdsPrivate (o : Obj) (key : Nat) (l : Line) : Bool := (objectMask o l.page key &&& granBytes l.priv) != 0

/-- A second-level line whose object is freed: it holds no clean byte of the object any more, and the others as shared
data. -/
def freedLine (o : Obj) (key : Nat) (l : Line) : Line :=
  let m := objectMask o l.page key
  { l with valid := l.valid &&& ~~~(m &&& ~~~dirtyMask l), priv := l.priv &&& ~~~granMask m }

/-- The lines that cores hold of an object as PRIVATE are evicted when it is freed, and the second-level caches drop its
clean bytes: a line keeps its class until it is evicted (R216), and an object carved there later is read by the rules of its
own publication (R217). That this happens at the freeing is the model's choice (log 43). -/
def freeLines (s : State) (o : Obj) : State :=
  let held := s.cores.flatMap (fun k => (k.2.l1.filter (fun e => holdsPrivate o e.1 e.2)).map (fun e => (k.1, e.1)))
  let s1 := held.foldl (fun t e => evictL1 t e.1 e.2) s
  { s1 with l2 := s1.l2.map (fun e => (e.1, freedLine o (l2Line e.1) e.2)) }

/-- Every granule of an object becomes data, its bytes unchanged (R209): a write of its lines for their holds and their
frames' dirty bits (R192, R339, R392). -/
def freeObject (s : State) (o : Obj) : State :=
  let s1 := (List.range 64).foldl (fun t m => endHoldsAt t m (fun _ h => holdInObject s o h) 10) (freeLines s o)
  let s2 := (List.range ((o.hdr % 65536 + 8 * o.len + 65535) / 65536)).foldl (fun t i => heatWrite t (o.hdr + 65536 * i)) s1
  { s2 with gtags := s2.gtags.filter (fun e => !(decide (o.hdr / 8 ≤ e.1) && decide (e.1 < o.hdr / 8 + o.len))) }

/-- The registers REFST names. -/
def refstNames (x a : F6) : Names := ⟨[], none, [x.toNat, a.toNat], []⟩

/-- A REFST that traps has translated g, and read the header that p names when the check concerns p (R209, R338). -/
def refstLooked (s : State) (g p cause : Nat) (detail : List Word) : State :=
  let t := if (mappingOf (myCore s) g).isSome then s else lookedUp s g cause
  if detail.getD 1 0#64 = 1#64 ∧ p % 8 = 0 ∧ inWindow p = false then headerRead t (asidOf s s.cur.1) p else t

/-- The write of a REFST leaves for the MSC (R392). -/
def sendRefst (g : Nat) (page : Page) (w : Word) (kind : RefstKind) (s : State) : State :=
  { s with writes := s.writes ++
    [⟨s.cur.1, s.cur.2, .msc, none, lineKey (asidOf s s.cur.1) g, accessMask g 8, some ⟨g, page, w, kind⟩⟩] }

/-- A REFST whose checks let it go on (R209): its release, then its write goes to the MSC, and what it looks at is read. -/
def refstGoes (x a : F6) (scope : Option Nat) (g : Nat) (page : Page) (w : Word) (kind : RefstKind) (look : State → State)
    (s : State) : Res :=
  let send := fun (u : State) => finishCtx (refstNames x a) long (sendRefst g page w kind (look u)) id
  match scope with
  | some n => releaseThen s n 0 send
  | none => send s

/-- The header that a reference p names is read (R209). -/
def targetRead (p : Nat) (s : State) : State := if p = 0 then s else headerRead s (asidOf s s.cur.1) p

/-- The wait of a REFST for others: 7 while one of its own context is parked (R335). -/
def followWait (s : State) (ws : List WriteReq) : Nat :=
  if ws.any (fun w => w.lc == s.cur.1 && w.ctx == s.cur.2 && isParked s (.refst w.lc w.ctx w.key)) then parkedWait 0 else 0

/-- REFST, with the scope of a REFST.rel (R209): its checks, its release, and its write goes to the MSC; like any store
it is
then outstanding until the MSC has acknowledged it (R167, R392; log 13). -/
def refst (x a : F6) (scope : Option Nat) (s : State) : Res :=
  issue (refstNames x a) s (fun t =>
    let g := (valS t a).toNat
    let p := (valS t x).toNat
    if lineBusy t g then waitAt t (lineWait t g)
    else match refstPlan t g p with
      | .traps cause addr detail => trapAt (refstLooked t g p cause detail) cause 0 (word addr) detail
      | .parksG e => parkMineAs t g e g [word p, 0#64]
      | .parksP e => parkMineAs t p e g [word p, 1#64]
      | .waits => waitBegun t 0
      | .follows ws => waitBegun t (followWait t ws)
      | .carves page n => refstGoes x a scope g page (carvedHeader (taskNum t.cur.1) n p) (.carve n) id t
      | .frees page o => refstGoes x a scope g page o.head .free id t
      | .stores page => refstGoes x a scope g page (word p) .store (targetRead p) t)

/-- REFST (R209). -/
def execRefst (x a : F6) (s : State) : Res := refst x a none s

/-- REFST.rel (R207, R209). -/
def execRefstRel (x a scope : F6) (s : State) : Res := refst x a (some scope.toNat) s

/-! ### WRITE_ACKNOWLEDGEMENT (R166, R167, R392) -/

/-- Writes land one after another, each of them in a page; answered with the write that cannot land, if
any. -/
def landAll (p : Page) : State → List WriteReq → State × Option WriteReq
  | s, [] => (s, none)
  | s, w :: ws => if landReady s w p then landAll p (landMsc s w p) ws else (s, some w)

/-- The tag that a REFST writes (R209). -/
def refstTag : RefstKind → Nat
  | .carve _ => tagHeader
  | .free => tagData
  | .store => tagReference

/-- A carving is no write that its task's log keeps, for the object is a PRIVATE one of the task (R348): the log stands as
before it. -/
def keepLog (before after : State) (task : Nat) : State :=
  match taskOf before task with
  | some b => modTask after task (fun t => { t with log := b.log, logged := b.logged })
  | none => after

/-- The granule of a REFST is written at the MSC, with what follows the write (R209, R392). -/
def refstWrite (s : State) (w : WriteReq) (r : RefstReq) : State :=
  let t := writeGranule s (taskNum w.lc) w.key r.addr r.page r.word (refstTag r.kind)
  match r.kind with
  | .carve _ => keepLog s t (taskNum w.lc)
  | .free => freeObject t ⟨frameOf r.page r.addr, r.word⟩
  | .store => t

/-- Must a carving wait for the outstanding loads of other tasks (R206, R392; log 43)? -/
def carveWaits (s : State) (w : WriteReq) (r : RefstReq) : Bool :=
  match r.kind with
  | .carve n => otherLoads s (taskNum w.lc) (frameOf r.page r.addr) n
  | _ => false

/-- A REFST waits for the host's hold, or parks for storage (R342, R352). -/
def refstStays (s : State) (w : WriteReq) (r : RefstReq) (full : Bool) : State :=
  if full then parkFull s 1 (keyAsid w.key) r.addr r.page (taskNum w.lc) ⟨.refst w.lc w.ctx w.key, r.addr, []⟩ else s

/-- REFST idx reaches the MSC (R392): its core's and its die's dirty bytes of the line are written through and the line is
dropped, then the granule is written. Bytes that have landed before a write that waits stay landed. -/
def refstLands (s : State) (idx : Nat) (w : WriteReq) (r : RefstReq) : State :=
  if carveWaits s w r || isParked s (.refst w.lc w.ctx w.key) then s
  else match landAll r.page s (lineWrites s w.lc w.ctx w.key) with
    | (t, some q) => refstStays t w r (landFull t q r.page)
    | (t, none) =>
      let u := dropLine t w.lc w.key
      if granuleReady u (keyAsid w.key) r.addr r.page r.word then
        refstWrite { u with writes := u.writes.eraseIdx idx } w r
      else refstStays u w r (granuleFull u (keyAsid w.key) r.addr r.page r.word)

/-- No earlier write of the same line is still on its way. -/
def firstOfLine (s : State) (idx key : Nat) : Bool := !((s.writes.take idx).any (fun w => w.key == key))

/-- A release's write that is first of its line reaches its point of coherence. At the MSC it is translated (R330),
may end its
task or park (R285, R335), and waits for the host's hold and for storage (R342, R352). -/
def writeLands (s : State) (idx : Nat) (w : WriteReq) : State :=
  let sent := { s with writes := s.writes.eraseIdx idx }
  match w.dest with
  | .l2 => landL2 sent w
  | .msc =>
    if dirtyMask (outLine s w default) = 0 then sent
    else match translate s (keyAsid w.key) (keyVa w.key) with
      | .fail _ =>
        if writeLease s w then leaseSender sent w.lc w.ctx (taskNum w.lc) (keyVa w.key) else parkWrite s w
      | .ok p => if landReady s w p then landMsc sent w p else parkWrite s w

/-- WRITE_ACKNOWLEDGEMENT: write idx reaches its point of coherence and is acknowledged. -/
def execWriteAcknowledgement (idx : Nat) (s : State) : Res :=
  match s.writes[idx]? with
  | some w =>
    if !firstOfLine s idx w.key || isParked s (.write w.lc w.ctx w.key) then .next s
    else match w.refst with
      | some r => .next (refstLands s idx w r)
      | none => .next (writeLands s idx w)
  | none => .next s

/-! ### PUB and PUBW (R210 to R213) -/

/-- PUB (R210): the request goes to the dispatcher once the context's offers and REFSTs are done, and d waits for the
identifier. -/
def execPub (d a scope : F6) (s : State) : Res :=
  issue ⟨[], none, [d.toNat, a.toNat], []⟩ s (fun t =>
    let va := (valS t a).toNat
    if va % 8 ≠ 0 then trapAddr t causeMisaligned va
    else if inWindow va then trapAddr t causeProtect va
    else if !(me t).ypend.isEmpty || writesOut t t.cur.1 t.cur.2 then waitBegun t (repliesWait t 0)
    else
      let r : PubReq := ⟨t.cur.1, t.cur.2, d.toNat, va, scope.toNat, taskNum t.cur.1⟩
      finishCtx ⟨[], none, [d.toNat, a.toNat], []⟩ long { t with pubs := t.pubs ++ [r] }
        (fun x => pendScalar x d.toNat))

/-- Is walk w of a task outstanding (R211)? -/
def walkOutstanding (s : State) (task w : Nat) : Bool :=
  match taskOf s task with
  | some t => t.walks.any (fun x => x.id == w)
  | none => false

/-- PUBW (R212). -/
def execPubw (a : F6) (s : State) : Res :=
  issue ⟨[], none, [a.toNat], []⟩ s (fun t =>
    let w := (valS t a).toNat % 65536
    if walkOutstanding t (taskNum t.cur.1) w then waitBegun t 0
    else match (me t).walkFaults.find? (fun f => f.walk == w) with
      | some f => reportWalk t f
      | none => finishCtx ⟨[], none, [a.toNat], []⟩ long t id)

/-- WALK_ID_ASSIGN (R210, R211): the dispatcher numbers the walk, hands it to the walker and answers. A context of the reeve
firmware has no task, and R210 names no walk for its PUB: the model's choice is that the request is dropped, and d waits for
an identifier that never comes (log 43). -/
def execWalkIdAssign (idx : Nat) (s : State) : Res :=
  match s.pubs[idx]? with
  | some r =>
    match taskOf s r.task with
    | some t =>
      if 64 ≤ t.walks.length ∨ (s.pubs.take idx).any (fun q => q.lc == r.lc && q.ctx == r.ctx) then .next s
      else
        let w : Walk := ⟨t.nextWalk, r.addr, r.scope, r.lc, r.ctx, false, [], none⟩
        let s1 := modTask { s with pubs := s.pubs.eraseIdx idx } r.task (fun q =>
          { q with nextWalk := (q.nextWalk + 1) % 65536, walks := q.walks ++ [w] })
        if (ctxOf s1 r.lc r.ctx).live then
          .next (modCtx s1 r.lc r.ctx (fun x => setSreg (unpendScalar x r.dst) r.dst (word t.nextWalk)))
        else .next s1
    | none => .next { s with pubs := s.pubs.eraseIdx idx }
  | none => .next s

/-! ### Walks (R214 to R216) -/

/-- Change the first walk of a task, the one that runs. -/
def modWalk (s : State) (task : Nat) (f : Walk → Walk) : State :=
  modTask s task (fun t => { t with walks := modifyAt t.walks 0 f })

/-- A header word with another STATE and SCOPE (R204). -/
def headerState (h : Word) (state scope : Nat) : Word := setBits (setBits h 45 44 state) 47 46 scope

/-- A header with another STATE and SCOPE. -/
def headerWord (s : State) (p : Page) (va state scope : Nat) : Word :=
  headerState (currentWord s p (frameOf p va)) state scope

/-- The walker writes an object's header (R205): the task's log keeps every such change (R348). -/
def writeHeader (s : State) (t : Task) (va : Nat) (p : Page) (state scope : Nat) : State :=
  let w := headerWord s p va state scope
  let key := lineKey t.asid va
  let m := accessMask va 8
  setGranTag (pocWrite (logKeep s key p m t.num) key p (natLine w.toNat (va % 128) 8) m t.num none) (frameOf p va) tagHeader

/-- The SCOPE code of a publication: 0 YARD to 3 SYS (R204). -/
def scopeCode (scope : Nat) : Nat := scope - 1

/-- The bytes of a line at va that lie in len granules from o on. -/
def objectBytes (va o len : Nat) : BitVec 128 :=
  BitVec.ofNat 128 ((List.range 16).foldl (fun acc i =>
    if o ≤ va + 8 * i ∧ va + 8 * i < o + 8 * len then acc + 255 * 256 ^ i else acc) 0)

/-- The granules of a line at va that lie in an object. -/
def objectGranules (va o len : Nat) : BitVec 16 :=
  BitVec.ofNat 16 ((List.range 16).foldl (fun acc i =>
    if o ≤ va + 8 * i ∧ va + 8 * i < o + 8 * len then acc + 2 ^ i else acc) 0)

/-- A line whose object is reclassed, its written bytes clean (R214, R216). -/
def reclass (l : Line) (va o len : Nat) : Line :=
  let x := cleanLine l (objectBytes va o len)
  { x with priv := x.priv &&& ~~~objectGranules va o len }

/-- The cached lines that hold bytes of an object: second-level lines of every die, then first-level lines of the
task's crew. -/
def objectL2 (s : State) (asid o len : Nat) : List (Nat × Line) :=
  s.l2.filter (fun e => keyAsid (l2Line e.1) == asid && objectBytes (keyVa (l2Line e.1)) o len != 0)
def objectL1 (s : State) (t : Task) (o len : Nat) : List (Nat × Nat × Line) :=
  (s.cores.filter (fun k => taskNum k.1 == t.num)).flatMap (fun k =>
    (k.2.l1.filter (fun e => keyAsid e.1 == t.asid && objectBytes (keyVa e.1) o len != 0)).map (fun e => (k.1, e)))

/-- The writes that clean an object (R214): those of the die's own lines, then those of the crew's cores, each of the
object's bytes only. -/
def objectWrites (s : State) (t : Task) (o len : Nat) : List WriteReq :=
  (objectL2 s t.asid o len).map (fun e =>
      ⟨l2Owner e.1 - 1, 0, .msc, some e.1, l2Line e.1, dirtyMask e.2 &&& objectBytes (keyVa (l2Line e.1)) o len,
        none⟩) ++
    (objectL1 s t o len).map (fun e => ⟨e.1, 0, .msc, none, e.2.1, objectBytes (keyVa e.2.1) o len, none⟩)

/-- A second-level line whose object is reclassed: the clean bytes it holds of the object are dropped, so that an older copy
in another die is served to no acquirer (R217). -/
def reclassL2 (l : Line) (va o len : Nat) : Line := withoutBytes (reclass l va o len) (objectBytes va o len)

/-- The lines of an object are reclassed (R214, R216). -/
def reclassAll (s : State) (t : Task) (o len : Nat) : State :=
  let s2 : State := { s with l2 := s.l2.map (fun e =>
    (e.1, if keyAsid (l2Line e.1) = t.asid then reclassL2 e.2 (keyVa (l2Line e.1)) o len else e.2)) }
  { s2 with cores := s2.cores.map (fun k =>
    (k.1, if taskNum k.1 = t.num then
        { k.2 with l1 := k.2.l1.map (fun e =>
            (e.1, if keyAsid e.1 = t.asid then reclass e.2 (keyVa e.1) o len else e.2)) }
      else k.2)) }

/-- A step of the walk waits for a write: for the host's hold, or parked for storage (R342). -/
def walkWaits (s : State) (t : Task) (va : Nat) (p : Page) (full : Bool) : State :=
  if full then parkFull s 5 t.asid va p t.num ⟨.walk t.num, va, []⟩ else s

/-- The walk completes (R215). -/
def walkDone (s : State) (task : Nat) : State := modTask s task (fun t => { t with walks := t.walks.drop 1 })

/-- A step whose translation fails (R214, R285): the task ends and the walk is abandoned, or the step parks. The
spec does not say what becomes of the objects on the path of a walk abandoned so: they stay PUBLISHING (log 43). -/
def walkParks (s : State) (t : Task) (va : Nat) (e : Word) : State :=
  if leaseEnds s t.num va then walkDone (leaseCrew (heatMiss s t.asid va) t.num none) t.num
  else park s 1 5 t.asid va 0 e t.num (.walk t.num)

/-- The header of an object on a walk's path is written, where it is mapped. -/
def pathHeader (t : Task) (state scope : Nat) (s : State) (f : WalkFrame) : State :=
  match translate s t.asid f.obj with
  | .ok p => writeHeader s t f.obj p state scope
  | .fail _ => s

/-- The walk has ended in a fault (R215): objects on its path return to PRIVATE, and the result waits for its context. -/
def walkFails (s : State) (t : Task) (w : Walk) (cause granule : Nat) : State :=
  let s1 := w.path.foldl (pathHeader t objPrivate 0) s
  let s2 := walkDone s1 t.num
  let s3 := if (ctxOf s2 w.lc w.ctx).live then
      modCtx s2 w.lc w.ctx (fun x => { x with walkFaults := x.walkFaults ++ [⟨w.id, cause, granule⟩] })
    else s2
  if cause = causePoison then poisonMet s3 t.num else s3

/-- Can the header of an object on a walk's path be written back as PRIVATE now? One that is not mapped stands in the way
until the reeve has answered UNMAPPED. -/
def pathReady (s : State) (t : Task) (w : Walk) (f : WalkFrame) : Bool :=
  match translate s t.asid f.obj with
  | .ok p => granuleReady s t.asid f.obj p (headerWord s p f.obj objPrivate 0)
  | .fail _ => w.ending.isSome

/-- The walk ends in a fault, once the headers of its path can be written. -/
def walkFault (s : State) (t : Task) (w : Walk) (cause granule : Nat) : State :=
  match w.path.find? (fun f => !pathReady s t w f) with
  | some f =>
    match translate s t.asid f.obj with
    | .ok p => walkWaits s t f.obj p (granuleFull s t.asid f.obj p (headerWord s p f.obj objPrivate 0))
    | .fail e => walkParks s t f.obj e
  | none => walkFails s t w cause granule

/-- The path moves past the reference that was followed. -/
def advancePath (path : List WalkFrame) : List WalkFrame := modifyAt path 0 (fun f => { f with next := f.next + 8 })

/-- clean(o) (R214): the dirty bytes of the object on top of the path are written through, its lines are reclassed, and the
walk goes on to its first granule. Bytes that have landed before a write that waits stay landed. -/
def walkClean (s : State) (t : Task) (o len : Nat) (p : Page) : State :=
  match landAll p s (objectWrites s t o len) with
  | (u, none) => modWalk (reclassAll u t o len) t.num (fun x => { x with path := modifyAt x.path 0 (fun f => { f with next := o + 8 }) })
  | (u, some r) => walkWaits u t (keyVa r.key) p (landFull u r p)

/-- visit(o) arrives at an object (R214): it becomes PUBLISHING and stands on top of the path, which goes on past the
reference that led there; then it is cleaned. It waits for the REFSTs on their way that concern the object (log 13).
Until it is
clean, the next granule of its place is its header. -/
def walkArrive (s : State) (t : Task) (w : Walk) (o : Nat) (p : Page) : State :=
  if 4096 ≤ w.path.length then walkFault s t w causeProtect o
  else
    let len := (objAt s p (frameOf p o)).len
    let h := headerWord s p o objPublishing 0
    if !(refstsMeeting s (frameOf p o) (8 * len)).isEmpty then s
    else if granuleReady s t.asid o p h then
      walkClean (modWalk (writeHeader s t o p objPublishing 0) t.num (fun x =>
        { x with path := ⟨o, len, o⟩ :: advancePath x.path })) t o len p
    else walkWaits s t o p (granuleFull s t.asid o p h)

/-- start(root) once the header is read (R214). -/
def walkRoot (s : State) (t : Task) (w : Walk) (p : Page) : State :=
  let a := frameOf p w.root
  let o := objAt s p a
  if isPoison s a then walkFault s t w causePoison w.root
  else if granTag s a ≠ tagHeader then walkFault s t w causeProtect w.root
  else if o.state = objPublished ∨ o.state = objFrozen then walkDone s t.num
  else if o.owner ≠ t.num then walkFault s t w causeEscape w.root
  else walkArrive s t w w.root p

/-- start(root) (R214). -/
def walkBegin (s : State) (t : Task) (w : Walk) : State :=
  if !canonicalVa w.root then walkFault s t w causeProtect w.root
  else match translate s t.asid w.root with
    | .fail e => walkParks s t w.root e
    | .ok p =>
      if headerHeld s t.asid w.root then s else walkRoot (headerRead s t.asid w.root) t w p

/-- Walks of other tasks that run in a stack's walker (R211): those that it has taken up. -/
def walksRunning (s : State) (stack : Nat) : Nat :=
  (s.tasks.filter (fun e => match e.2.walks.head? with
    | some w => w.started && homeStack s w.root e.2.asid == stack
    | none => false)).length

/-- A walk that the reeve's UNMAPPED has ended does nothing but end (R337). -/
def walkOr (s : State) (t : Task) (w : Walk) (step : State) : State :=
  match w.ending with
  | some (cause, granule) => walkFault s t w cause granule
  | none => step

/-- A walk that its walker takes up runs from now on. -/
def takeUp (w : Walk) : Walk := { w with started := true }

/-- WALK_START (R211, R214): the walker of its root's home stack takes up the task's next walk when it has room, and
makes the
walk's first step, which may have to be tried again. -/
def execWalkStart (task : Nat) (s : State) : Res :=
  match taskOf s task with
  | some t =>
    match t.walks.head? with
    | some w =>
      if !w.path.isEmpty || isParked s (.walk task) ||
          (!w.started && decide (8 ≤ walksRunning s (homeStack s w.root t.asid))) then .next s
      else
        let s1 := modWalk s task takeUp
        .next (walkOr s1 t (takeUp w) (walkBegin s1 t (takeUp w)))
    | none => .next s
  | none => .next s

/-- The walk leaves the object on top of its path (R214), whose header is translated anew (R334). -/
def walkLeave (s : State) (t : Task) (w : Walk) (f : WalkFrame) : State :=
  match translate s t.asid f.obj with
  | .fail e => walkParks s t f.obj e
  | .ok p =>
    let h := headerWord s p f.obj objPublished (scopeCode w.scope)
    if granuleReady s t.asid f.obj p h then
      let s1 := writeHeader s t f.obj p objPublished (scopeCode w.scope)
      if w.path.length ≤ 1 then walkDone s1 t.num else modWalk s1 t.num (fun x => { x with path := x.path.drop 1 })
    else walkWaits s t f.obj p (granuleFull s t.asid f.obj p h)

/-- The walk goes on to the next granule of the object on top of its path. -/
def walkNext (s : State) (t : Task) : State :=
  modWalk s t.num (fun x => { x with path := advancePath x.path })

/-- The walker has read the header that a reference p in granule g names (R214). -/
def walkTarget (s : State) (t : Task) (w : Walk) (g p : Nat) (q : Page) : State :=
  let a := frameOf q p
  let o := objAt s q a
  if isPoison s a then walkFault s t w causePoison p
  else if granTag s a ≠ tagHeader then walkFault s t w causeProtect g
  else if o.owner = t.num ∧ o.state = objPrivate then walkArrive s t w p q
  else if o.owner ≠ t.num ∧ (o.state = objPrivate ∨ o.state = objPublishing) then walkFault s t w causeEscape g
  else walkNext s t

/-- The walker follows a reference p found in granule g (R214). -/
def walkFollow (s : State) (t : Task) (w : Walk) (g p : Nat) : State :=
  if !canonicalVa p || p % 8 != 0 || inWindow p then walkFault s t w causeProtect g
  else match translate s t.asid p with
    | .fail e => walkParks s t p e
    | .ok q => if headerHeld s t.asid p then s else walkTarget (headerRead s t.asid p) t w g p q

/-- The walker reads the next granule of the object on top of the path (R214). -/
def walkRead (s : State) (t : Task) (w : Walk) (f : WalkFrame) : State :=
  let g := f.next
  match translate s t.asid g with
  | .fail e => walkParks s t g e
  | .ok p =>
    let a := frameOf p g
    let key := lineKey t.asid g
    if halfBlocks s key (accessMask g 8) false then s
    else
      let s1 := (mscFill s key p).1
      if isPoison s1 a then walkFault s1 t w causePoison g
      else if granTag s1 a = tagReference ∧ currentWord s1 p a ≠ 0#64 then
        walkFollow s1 t w g (currentWord s1 p a).toNat
      else walkNext s1 t

/-- The object on top of the path is cleaned, its header's page translated anew (R334). -/
def walkGoesClean (s : State) (t : Task) (f : WalkFrame) : State :=
  match translate s t.asid f.obj with
  | .fail e => walkParks s t f.obj e
  | .ok p => walkClean s t f.obj f.len p

/-- WALK_STEP (R214): the walker reads a granule, arrives at an object, cleans it or leaves one. -/
def execWalkStep (task : Nat) (s : State) : Res :=
  match taskOf s task with
  | some t =>
    match t.walks.head? with
    | some w =>
      match w.path.head? with
      | some f =>
        if isParked s (.walk task) then .next s
        else if f.next = f.obj then .next (walkOr s t w (walkGoesClean s t f))
        else if f.obj + 8 * f.len ≤ f.next then .next (walkOr s t w (walkLeave s t w f))
        else .next (walkOr s t w (walkRead s t w f))
      | none => .next s
    | none => .next s
  | none => .next s

end Sys2Proof.Machine
end

