-- ==== Sys2Proof/Machine/Matrix.lean ====
section
/-! DEFINITION. The matrix engine: enqueuing, running and completing jobs (spec/11_matrix.md R220 to R239). -/

namespace Sys2Proof.Machine

/-! ### Accumulators -/

/-- Does a logical core own aN (R222)? -/
def ownsAcc (c : LCore) (n : Nat) : Bool := bit c.mxacc n

/-- The physical accumulator that serves aN (R222). -/
def accPhys (c : LCore) (n : Nat) : Nat := bits c.mxacc (3 * n + 10) (3 * n + 8)

/-- The elements of aN of a logical core. -/
def accOf (s : State) (lc n : Nat) : Sparse (BitVec 32) :=
  getD [] (yardOf s (yardNum (coreOf s lc).phys)).acc (accPhys (coreOf s lc) n)

/-- Write aN of a logical core. -/
def setAcc (s : State) (lc n : Nat) (m : Sparse (BitVec 32)) : State :=
  modYard s (yardNum (coreOf s lc).phys) (fun y => { y with acc := setD [] y.acc (accPhys (coreOf s lc) n) m })

/-! ### The jobs -/

/-- The tiles a job names. -/
def jobTiles : JobKind → List Nat
  | .mm _ _ opAcc op tb => if opAcc then [tb] else [op, tb]
  | .mxz _ => []
  | .drain _ t _ => [t]

/-- Do two jobs touch one accumulator? -/
def jobsMeet (a b : Job) : Bool := a.lc == b.lc && (jobAccs a.kind).any (fun n => (jobAccs b.kind).contains n)

/-- Is a job held behind a faulted accumulator (R234)? -/
def jobHeld (s : State) (j : Job) : Bool :=
  (coreOf s j.lc).blocked.any (fun b => (jobAccs j.kind).contains b.2)

/-- A job is no longer outstanding (R224). -/
def dropJob (s : State) (yard idx : Nat) (j : Job) : State :=
  let s1 := settleClock (modYard s yard (fun y => { y with jobs := y.jobs.eraseIdx idx })) yard
  modCore s1 j.lc (fun c => { c with mxOut := c.mxOut.erase j.id })

/-- A drain tile becomes READY with WM = SIZE (R173). -/
def tileReady (s : State) (lc t : Nat) : State :=
  modCore s lc (fun c => setTile c t { tileOf c t with state := .ready, wm := (tileOf c t).size })

/-- pending(j) of R236. -/
def jobPending (c : LCore) (j : Nat) : Bool :=
  let dist := (c.mxNext + 65536 - j % 65536) % 65536
  decide (dist ≠ 0) && decide (dist ≤ 32768) &&
    c.mxOut.any (fun i => decide (dist ≤ (c.mxNext + 65536 - i) % 65536))

/-! ### Enqueuing (R223, R224, R227, R232) -/

/-- How far a core stands behind the core that a queue of its yard accepted last (R223). -/
def turnOf (last p : Nat) : Nat := (p % 8 + 15 - last) % 8

/-- What the checks of R232 after the registers answer: a trap, a wait for a tile, or nothing. -/
inductive JobCheck where
  | trap (cause : Nat)
  | waits
  | ok
  deriving DecidableEq, Repr

/-- TILE_STATE, or a wait, for the tiles named (R174). -/
def tilesCheck (c : LCore) (ts : List Nat) (next : JobCheck) : JobCheck :=
  if ts.any (fun t => (tileOf c t).state == .empty) then .trap causeTile
  else if ts.any (fun t => moving (tileOf c t)) then .waits
  else next

/-- The tags a B operand may carry (R226). -/
def factorTag (t : Tag) : Bool := t == .i8 || t == .dm8 || t == .fp16 || t == .bf16

/-- The checks of MXMM (R232). -/
def mmCheck (c : LCore) (opAcc : Bool) (op tb : Nat) : JobCheck :=
  let b := tileOf c tb
  let w := width b.tag / 8
  if !factorTag b.tag || (!opAcc && (tileOf c op).tag != b.tag) then .trap causeFormat
  else tilesCheck c (if opAcc then [tb] else [op, tb])
    (if b.size % (2048 * w) ≠ 0 ∨ (opAcc = false ∧ (tileOf c op).size ≠ b.size) ∨ (opAcc = true ∧ b.size ≠ accElems * w)
     then .trap causeProtect else .ok)

/-- The checks of MXDR (R232). -/
def drainCheck (c : LCore) (t : Tag) (tile : Nat) : JobCheck :=
  if (tileOf c tile).tag != t then .trap causeFormat
  else tilesCheck c [tile] (if (tileOf c tile).size ≠ accElems * (width t / 8) then .trap causeProtect else .ok)

/-- The checks of a job. -/
def jobCheck (c : LCore) : JobKind → JobCheck
  | .mm _ _ opAcc op tb => mmCheck c opAcc op tb
  | .mxz _ => .ok
  | .drain t tile _ => drainCheck c t tile

/-- The generator after n steps. -/
def srgAfter (n : Nat) (g : Word) : Word := (List.range n).foldl (fun x _ => srgNext x) g

/-- Does the job step the generator at enqueue (R227, R230, R231)? -/
def jobSteps (k : JobKind) (fmode : Word) : Bool :=
  fmodeRM fmode == .rsto && (match k with
    | .mm _ _ opAcc _ _ => opAcc
    | .mxz _ => false
    | .drain _ _ _ => true)

/-- The stash bytes of a tile. -/
def tileBytes (c : LCore) (t : Tile) : Sparse Byte :=
  c.stash.filter (fun e => decide (tileStart t ≤ e.1) && decide (e.1 < tileStart t + t.size))

/-- The stash bytes a job reads, as they stand (R238). -/
def jobReads (c : LCore) (k : JobKind) : Sparse Byte :=
  match k with
  | .mm _ _ opAcc op tb =>
    c.stash.filter (fun e => (if opAcc then [tb] else [op, tb]).any (fun t => meetsTile (tileOf c t) e.1 1))
  | _ => []

/-- The job as it stands at its enqueue. -/
def newJob (s : State) (k : JobKind) : Job :=
  let c := myCore s
  let x := me s
  { lc := s.cur.1, ctx := s.cur.2, id := c.mxNext, kind := k, fm := x.fmode, srg := x.srg,
    tileA := (match k with
      | .mm _ _ opAcc op _ => if opAcc then Tile.reset else tileOf c op
      | .mxz _ => Tile.reset
      | .drain _ t _ => tileOf c t)
    tileB := (match k with
      | .mm _ _ _ _ tb => tileOf c tb
      | _ => Tile.reset)
    snap := jobReads c k, running := false, orphan := false }

/-- A drain's tile is FILLING from enqueue on, with WM 0 (R231). -/
def startDrain (c : LCore) (k : JobKind) : LCore :=
  match k with
  | .drain _ t _ => setTile c t { tileOf c t with state := .filling, wm := 0 }
  | _ => c

/-- The queue accepts the job (R223, R224, R227, R231). -/
def acceptJob (s : State) (yard : Nat) (k : JobKind) : State :=
  let j := newJob s k
  let s1 := modYard s yard (fun y => { y with jobs := y.jobs ++ [j], jobTurn := (myCore s).phys % 8 })
  let s2 := modCore s1 s.cur.1 (fun c =>
    startDrain { c with mxNext := (c.mxNext + 1) % 65536, mxOut := c.mxOut ++ [c.mxNext] } k)
  if jobSteps k (me s).fmode then modMe s2 (fun x => { x with srg := srgAfter accElems x.srg }) else s2

/-- The queue of a yard is full (R223). -/
def queueFull (y : Yard) : Bool := decide (16 ≤ y.jobs.length)

/-- Do the tiles of a job lie in ways that a waiting RESIZE removes or adds (R169, R237)? -/
def jobBehindResize (c : LCore) (k : JobKind) : Bool :=
  (jobTiles k).any (fun t => (tileOf c t).size != 0 && resizeWaits c (tileStart (tileOf c t)) (tileOf c t).size)

/-- An instruction that enqueues a job: registers and accumulators, the queue, the checks, a waiting RESIZE, and the
identifier in d (R169, R223, R224, R232). While it is held back its context is not ready: nothing has issued. -/
def enqueueJob (d : F6) (k : JobKind) (s : State) : Res :=
  if (jobAccs k).all (ownsAcc (myCore s)) = false then trap s causeIllegalReg
  else issue ⟨[], some d.toNat, [], []⟩ s (fun t =>
    let yard := yardNum (myCore t).phys
    if queueFull (yardOf t yard) then waitAt t 0
    else match jobCheck (myCore t) k with
      | .trap cause => trap t cause
      | .waits => waitAt t 0
      | .ok =>
        if jobBehindResize (myCore t) k then waitAt t 0
        else finish ⟨[], some d.toNat, [], []⟩ long (countV (acceptJob t yard k)) (word (myCore t).mxNext))

/-- The op of MXMM: a tile, or an accumulator (R226). -/
def opOf (o : Opnd) : Bool × Nat :=
  match o with
  | .c f => (true, f.toNat)
  | .s f | .v f | .lit f => (false, f.toNat)

/-- MXMM (R226, R227). -/
def execMxmm (d : F6) (acc : F3) (op : Opnd) (t : F6) (s : State) : Res :=
  enqueueJob d (.mm false acc.toNat (opOf op).1 (opOf op).2 t.toNat) s

/-- MXMM.dup (R226, R235). -/
def execMxmmDup (d : F6) (acc : F3) (op : Opnd) (t : F6) (s : State) : Res :=
  enqueueJob d (.mm true acc.toNat (opOf op).1 (opOf op).2 t.toNat) s

/-- MXZ (R230). -/
def execMxz (d acc : F6) (s : State) : Res := enqueueJob d (.mxz acc.toNat) s

/-- The MXDR forms (R231). -/
def execMxdrFp32 (d t acc : F6) (s : State) : Res := enqueueJob d (.drain .fp32 t.toNat acc.toNat) s
def execMxdrBf16 (d t acc : F6) (s : State) : Res := enqueueJob d (.drain .bf16 t.toNat acc.toNat) s
def execMxdrFp16 (d t acc : F6) (s : State) : Res := enqueueJob d (.drain .fp16 t.toNat acc.toNat) s
def execMxdrDm8 (d t acc : F6) (s : State) : Res := enqueueJob d (.drain .dm8 t.toNat acc.toNat) s
def execMxdrI8 (d t acc : F6) (s : State) : Res := enqueueJob d (.drain .i8 t.toNat acc.toNat) s

/-- WAITJ (R236), of the V class (R110). -/
def execWaitj (a : Opnd) (s : State) : Res :=
  issue ⟨[a], none, [], []⟩ s (fun t =>
    if jobPending (myCore t) (valB t a).toNat then waitAt t 5
    else finish ⟨[a], none, [], []⟩ long (countV t) 0#64)

/-- POLLJ (R236), of the V class (R110). -/
def execPollj (d : F6) (a : Opnd) (s : State) : Res :=
  issue ⟨[a], some d.toNat, [], []⟩ s (fun t =>
    finish ⟨[a], some d.toNat, [], []⟩ long (countV t) (flagWord (jobPending (myCore t) (valB t a).toNat)))

/-! ### What a job computes (R227, R228, R231) -/

/-- The random value of element i under RSTO, else 0 (R227). -/
def jobRandom (j : Job) (i : Nat) : Nat :=
  if fmodeRM j.fm = .rsto then srgBits (srgAfter (i + 1) j.srg) else 0

/-- A code with its flags, and a value with its flags. -/
abbrev Coded := Nat × Flags
abbrev Valued := Val × Flags

/-- An FP32 element through the down-converter into a format (R227, R231). -/
def convertAcc (j : Job) (t : Tag) (a : Sparse (BitVec 32)) (i : Nat) : Coded :=
  let v := val j.fm .fp32 (getD 0#32 a i).toNat
  let r := enc j.fm v.1 t (fmodeRM j.fm) (jobRandom j i)
  (r.1, orFlags v.2 r.2)

/-- Element i of a tile in a job's snapshot. -/
def snapElem (j : Job) (t : Tile) (i : Nat) : Nat :=
  let w := width t.tag / 8
  ofBytes ((List.range w).map (fun b => getD 0#8 j.snap (tileStart t + i * w + b)))

/-- A(m, k) (R227). -/
def factorA (j : Job) (opAcc : Bool) (a : Sparse (BitVec 32)) (kk m k : Nat) : Valued :=
  let t := j.tileB.tag
  if opAcc then
    let x := convertAcc j t a (m * 128 + k)
    let v := val j.fm t x.1
    (v.1, orFlags x.2 v.2)
  else val j.fm t (snapElem j j.tileA (m * kk + k))

/-- B(k, n) (R226). -/
def factorB (j : Job) (kk k n : Nat) : Valued := val j.fm j.tileB.tag (snapElem j j.tileB (n * kk + k))

/-- An exact product; an integer zero has no sign (R228). -/
def product (t : Tag) (x y : Val) : Valued :=
  match mulVal x y with
  | (.fin n q, f) => (if isInt t then .fin (decide (q < 0)) q else .fin n q, f)
  | r => r

/-- The sum of a group of sixteen products, rounded to FP32 by RNE (R227). -/
def groupSum (j : Job) (a b : Nat → Valued) (g : Nat) : Coded :=
  let r := (List.range 16).foldl (fun (acc : Sum × Flags) i =>
    let x := a (16 * g + i)
    let y := b (16 * g + i)
    let p := product j.tileB.tag x.1 y.1
    (sumAdd acc.1 p.1, orFlags acc.2 (orFlags (orFlags x.2 y.2) p.2))) (sumStart, noFlags)
  let s := sumVal .rne r.1
  let q := enc j.fm s.1 .fp32 .rne 0
  (q.1, orFlags r.2 (orFlags s.2 q.2))

/-- One element of the product: the groups in ascending K (R227, R228). -/
def mmElem (j : Job) (old : BitVec 32) (kk : Nat) (a b : Nat → Valued) : Coded :=
  let start := val j.fm .fp32 old.toNat
  let r := (List.range (kk / 16)).foldl (fun (acc : Valued) g =>
    let q := groupSum j a b g
    let v := val j.fm .fp32 q.1
    let sum := addVal .rne acc.1 v.1
    let e := enc j.fm sum.1 .fp32 .rne 0
    let n := val j.fm .fp32 e.1
    (n.1, orFlags acc.2 (orFlags (orFlags q.2 v.2) (orFlags (orFlags sum.2 e.2) n.2)))) start
  let e := enc j.fm r.1 .fp32 .rne 0
  (e.1, orFlags r.2 e.2)

/-- K of an MXMM job (R226). -/
def jobK (j : Job) : Nat := j.tileB.size / (128 * (width j.tileB.tag / 8))

/-- The elements that are not +0, as an accumulator holds them. -/
def accFrom (rs : List (Nat × Coded)) : Sparse (BitVec 32) :=
  rs.filterMap (fun e => if BitVec.ofNat 32 e.2.1 = 0#32 then none else some (e.1, BitVec.ofNat 32 e.2.1))

/-- The flags of all elements. -/
def flagsFrom (rs : List (Nat × Coded)) : Flags := rs.foldl (fun f e => orFlags f e.2.2) noFlags

/-- The elements of aN after an MXMM job, with their flags. -/
def mmElems (s : State) (j : Job) (acc : Nat) (opAcc : Bool) (op : Nat) : List (Nat × Coded) :=
  let kk := jobK j
  let old := accOf s j.lc acc
  let src := if opAcc then accOf s j.lc op else []
  (List.range accElems).map (fun i =>
    (i, mmElem j (getD 0#32 old i) kk (factorA j opAcc src kk (i / 128)) (fun k => factorB j kk k (i % 128))))

/-- The elements a drain writes, with their flags (R231). -/
def drainElems (s : State) (j : Job) (t : Tag) (acc : Nat) : List (Nat × Coded) :=
  (List.range accElems).map (fun i => (i, convertAcc j t (accOf s j.lc acc) i))

/-- The bytes of a drain reach its tile. -/
def drainInto (c : LCore) (t : Tile) (w : Nat) (rs : List (Nat × Coded)) : LCore :=
  rs.foldl (fun k e => setStashNat k (tileStart t + e.1 * w) w e.2.1) c

/-! ### The engine's steps -/

/-- The tiles a job reads, as they stood at its enqueue, and their bytes in the stash now. -/
def readTiles (j : Job) : List Tile :=
  match j.kind with
  | .mm _ _ opAcc _ _ => if opAcc then [j.tileB] else [j.tileA, j.tileB]
  | _ => []
def tilesNow (s : State) (j : Job) : Sparse Byte :=
  (coreOf s j.lc).stash.filter (fun e => (readTiles j).any (fun t => meetsTile t e.1 1))

/-- The bytes of an element that a job reads. -/
def elemBytes (j : Job) : Nat := max 1 (width j.tileB.tag / 8)

/-- What a job will have read of a changed byte: the value before or the value after, element by element; a free bit chooses
(R238, log 5). -/
def mixByte (n : Nat) (old new : Byte) : Byte := if old = new then old else if bit (Config.freeValue n) 0 then old else new

/-- A job meets the stash as it stands now; n is where its free bits begin. -/
def mixSnap (s : State) (n : Nat) (j : Job) : Job :=
  let now := tilesNow s j
  { j with snap := ((keys j.snap ++ keys now).dedup).foldl (fun m o =>
      setD 0#8 m o (mixByte (n + o / elemBytes j) (getD 0#8 j.snap o) (getD 0#8 now o))) j.snap }

/-- Free values for the bytes of a stash have been used. -/
def spendFree (s : State) (n : Nat) : State := { s with taken := s.taken + n }

/-- The bytes of a stash. -/
def stashBytes : Nat := 458752

/-- The stash has changed under an outstanding job: what it reads may be what was there before or what is there now. It is
looked at after every turn, so that a byte changed twice may be read with each of its values (R238). -/
def mixJobs (s : State) : State :=
  if s.yards.all (fun y => y.2.jobs.all (fun j => tilesNow s j == j.snap)) then s
  else
    let at_ := fun (y i : Nat) => s.taken + (16 * y + i) * stashBytes
    spendFree { s with yards := s.yards.map (fun y =>
      (y.1, { y.2 with jobs := y.2.jobs.zipIdx.map (fun e => mixSnap s (at_ y.1 e.2) e.1) })) } (4096 * stashBytes)

/-- May job idx of a yard's queue start: not running, not held, no earlier job on its accumulators (R225, R234), and the
engine not on a sprint clock whose lease has ended (R239)? -/
def jobMayStart (s : State) (yard idx : Nat) (j : Job) : Bool :=
  !j.running && !jobHeld s j && ((rowOf s (yard / 2)).sprint || !(yardOf s yard).sprint) && !(((yardOf s yard).jobs.take idx).any (fun e => jobsMeet e j))

/-- MX_JOB_START (R225). -/
def execMxJobStart (yard idx : Nat) (s : State) : Res :=
  match (yardOf s yard).jobs[idx]? with
  | some j =>
    if jobMayStart s yard idx j then
      .next (modYard s yard (fun y => { y with jobs := setAt y.jobs idx { j with running := true } }))
    else .next s
  | none => .next s

/-- The flags of a job reach FMODE of its context, unless the context has ended (R229, R237). -/
def jobFlags (s : State) (j : Job) (f : Flags) : State :=
  if j.orphan then s else modCtx s j.lc j.ctx (fun x => { x with fmode := raise f x.fmode })

/-- A job completes without a fault: accumulator or tile written, flags, identifier (R225, R227, R229 to R231). -/
def completeJob (s : State) (yard idx : Nat) (j : Job) : State :=
  match j.kind with
  | .mm _ acc opAcc op _ =>
    let rs := mmElems s j acc opAcc op
    dropJob (jobFlags (setAcc s j.lc acc (accFrom rs)) j (flagsFrom rs)) yard idx j
  | .mxz acc => dropJob (setAcc s j.lc acc []) yard idx j
  | .drain t tile acc =>
    let rs := drainElems s j t acc
    let s1 := modCore s j.lc (fun c => drainInto c j.tileA (width t / 8) rs)
    dropJob (jobFlags (tileReady s1 j.lc tile) j (flagsFrom rs)) yard idx j

/-- Word 5 of the packet of a faulted job (R309). A drain has no destination accumulator and no op: the model's choice is aB
and op number 0 (log 43). -/
def jobDetail (j : Job) : Word :=
  match j.kind with
  | .mm _ acc opAcc op tb =>
    word (j.id + acc * 2 ^ 16 + op * 2 ^ 19 + (if opAcc then 2 ^ 25 else 0) + tb * 2 ^ 26)
  | .mxz acc => word (j.id + acc * 2 ^ 16)
  | .drain _ tile acc => word (j.id + acc * 2 ^ 16 + tile * 2 ^ 26)

/-- A packet for record only, of a context that has ended (R250). -/
def recordPacket (s : State) (lc c cause sub : Nat) (addr : Word) (detail : List Word) : State :=
  { s with packets := s.packets ++ [⟨lc, c, packetWords s lc c cause sub true addr detail⟩] }

/-- The bytes of a faulted drain's tile are open (R234). -/
def openTile (s : State) (lc : Nat) (t : Tile) : State :=
  let m := (List.range t.size).foldl (fun c b =>
    setStashByte c (tileStart t + b) (BitVec.ofNat 8 (Config.freeValue (s.taken + b)).toNat)) (coreOf s lc)
  spendFree (setCore s lc m) t.size

/-- A job ends in a fault (R234, R250): nothing is written but a drain tile's bytes, which are open; later jobs on the
accumulator are held, for a drain those on aB (log 43); the fault becomes pending for the context, or is reported for
record. The element is the first at which the fault arose, which the operands do not tell: a free value (log 5). -/
def faultJob (s : State) (yard idx : Nat) (j : Job) (cause sub : Nat) : State :=
  let s1 := match j.kind with
    | .drain _ tile _ => tileReady (openTile s j.lc j.tileA) j.lc tile
    | _ => s
  let f := takeFree (dropJob s1 yard idx j)
  let detail := [jobDetail j, word (f.1.toNat % accElems / 128 * 256 + f.1.toNat % 128)]
  let s2 := if j.orphan then recordPacket f.2 j.lc j.ctx cause sub 0#64 detail
    else pendCause (modCore f.2 j.lc (fun c =>
      { c with blocked := c.blocked ++ ((jobAccs j.kind).take 1).map (fun a => (j.ctx, a)) }))
      j.lc j.ctx ⟨cause, sub, 0#64, detail⟩
  if cause = causePoison then poisonMet s2 (taskNum j.lc) else s2

/-- May a job meet this error (R233, R235)? A mismatch is a duplicate job's; a job that reads nothing meets none. -/
def errorFits (k : JobKind) (e : JobError) : Bool :=
  match e, k with
  | .none, _ => true
  | .mismatch, .mm dup _ _ _ _ => dup
  | .mismatch, _ => false
  | .poison, .mxz _ => false
  | .poison, _ => true

/-- MX_JOB_COMPLETE: job idx of a yard's queue completes, or ends in a fault that the engine found. -/
def execMxJobComplete (yard idx : Nat) (err : JobError) (s : State) : Res :=
  match (yardOf s yard).jobs[idx]? with
  | some j =>
    if j.running && errorFits j.kind err then
      .next (match err with
        | .none => completeJob s yard idx j
        | .mismatch => faultJob s yard idx j causeMxMismatch 0
        | .poison => faultJob s yard idx j causePoison 1)
    else .next s
  | none => .next s

/-! ### The engine's clock (R220, R239, R297) -/

/-- ENGINE_SPRINT_CLOCK: at a boundary the engine takes the sprint clock of its row. -/
def execEngineSprintClock (yard : Nat) (s : State) : Res :=
  if (rowOf s (yard / 2)).sprint then .next (modYard s yard (fun y => { y with sprint := true })) else .next s

/-- ENGINE_CLOCK_DROP: at a boundary after the lease's end the engine leaves the sprint clock; the rail is lowered once
both engines of the row have. -/
def execEngineClockDrop (yard : Nat) (s : State) : Res :=
  if (yardOf s yard).sprint && !(rowOf s (yard / 2)).sprint then
    .next (lowerRail (modYard s yard (fun y => { y with sprint := false })) (yard / 2))
  else .next s

end Sys2Proof.Machine
end

