-- ==== Sys2Proof/Machine/Stash.lean ====
section
/-! DEFINITION. Stash ways, stash mappings and the tile table (spec/08_memory.md R168 to R177). -/

namespace Sys2Proof.Machine

/-! ### RESIZE (R169) -/

/-- Do n bytes from o on meet the ways lo to hi − 1? -/
def meetsWays (o n lo hi : Nat) : Bool := decide (n ≠ 0) && decide (o < hi * wayBytes) && decide (lo * wayBytes < o + n)

/-- Does a tile lie in the ways? -/
def tileInWays (t : Tile) (lo hi : Nat) : Bool := meetsWays (tileStart t) t.size lo hi

/-- Does a job's access cover one of the ways (R237)? -/
def jobInWays (j : Job) (lo hi : Nat) : Bool := tileInWays j.tileA lo hi || tileInWays j.tileB lo hi

/-- Has a context an outstanding load through a mapping that lies in the ways? -/
def loadInWays (c : LCore) (x : Ctx) (lo hi : Nat) : Bool :=
  x.loads.any (fun l => match mappingOf c l.addr with
    | some m => meetsWays m.off m.len lo hi
    | none => false)

/-- What RESIZE waits for (R169, R237). -/
def resizeBusy (s : State) (lc lo hi : Nat) (shrinks : Bool) : Bool :=
  let c := coreOf s lc
  c.tiles.any (fun e => moving e.2 && tileInWays e.2 lo hi) ||
    c.ctxs.any (fun e => loadInWays c e.2 lo hi) ||
    (shrinks && (yardOf s (yardNum c.phys)).jobs.any (fun j => j.lc == lc && jobInWays j lo hi))

/-- The mappings with a byte in the ways. -/
def mapsInWays (c : LCore) (lo hi : Nat) : List Mapping := c.maps.filter (fun m => meetsWays m.off m.len lo hi)

/-- The ways most a RESIZE gives (R168, R169). -/
def mostWays (s : State) : Nat := if foldable s s.cur.1 then 7 else 14

/-- The stash after RESIZE (R169). -/
def resized (c : LCore) (n : Nat) : LCore :=
  { c with
    ways := n
    stash := c.stash.filter (fun e => decide (e.1 < min n c.ways * wayBytes))
    maps := c.maps.filter (fun m => !meetsWays m.off m.len n c.ways)
    tiles := c.tiles.filter (fun e => !tileInWays e.2 n c.ways)
    resizing := none }

/-- The writes that bring every dirty byte of a mapping's lines to the MSC: those of the mapping, and those that the die's
second-level cache holds (R171). -/
def unmapWrites (s : State) (lc c : Nat) (m : Mapping) : List WriteReq :=
  (List.range (m.len / 128)).filterMap (fun i =>
    let w : WriteReq := ⟨lc, c, .msc, none, lineKey (asidOf s lc) (m.addr + 128 * i), fullMask, none⟩
    if dirtyMask (outLine s w default) = 0 then none else some w)

/-- RESIZE is under way: accesses of other contexts to the ways wait behind it. -/
def startResize (s : State) (lo hi : Nat) : State :=
  modCore s s.cur.1 (fun c => { c with resizing := some (s.cur.2, lo, hi) })

/-- Another context's RESIZE is under way. -/
def otherResize (s : State) : Bool := (myCore s).resizing.isSome && !resizes (myCore s) s.cur.2

/-- RESIZE (R169). On growth the cache gives up the ways it loses. -/
def execResize (d : F6) (a : Opnd) (s : State) : Res :=
  issue ⟨[a], some d.toNat, [], []⟩ s (fun t =>
    let n := min (valB t a).toNat (mostWays t)
    let w := (myCore t).ways
    if otherResize t then waitBegun t 0
    else if resizeBusy t t.cur.1 (min n w) (max n w) (decide (n < w)) || writesOut t t.cur.1 t.cur.2 then
      waitStage (startResize t (min n w) (max n w)) 0 .sent
    else
      let ws := (mapsInWays (myCore t) n w).flatMap (unmapWrites t t.cur.1 t.cur.2)
      if ws.isEmpty then
        finish ⟨[a], some d.toNat, [], []⟩ long
          (modCore (trimL1 t t.cur.1 (waysLines n)) t.cur.1 (fun c => resized c n)) (word n)
      else waitStage (startResize { t with writes := t.writes ++ ws } (min n w) (max n w)) 0 .sent)

/-! ### SMAP and SUNMAP (R170, R171) -/

/-- Do two ranges overlap? -/
def overlaps (a n b m : Nat) : Bool := decide (a < b + m) && decide (b < a + n)

/-- The pages' first addresses of a range, the range's own first address among them. -/
def pagesOf (a n : Nat) : List Nat :=
  (List.range ((a % 65536 + n + 65535) / 65536)).map (fun i => max a (a / 65536 * 65536 + i * 65536))

/-- What a page check of SMAP answers. -/
inductive PageCheck where
  | fine
  | denied
  | parks (entry : Word)
  deriving DecidableEq, Repr

/-- May a page be mapped into the stash (R170)? -/
def mappable (s : State) (va : Nat) : PageCheck :=
  if !canonicalVa va || (debugWindow s s.cur.1 va).isSome then .denied
  else match translate s (asidOf s s.cur.1) va with
    | .ok p => if p.aliased || p.attr == attrObject then .denied else .fine
    | .fail e => .parks e

/-- The first page of a range that is not fine. -/
def firstBad (s : State) (a n : Nat) : Option (Nat × PageCheck) :=
  (pagesOf a n).findSome? (fun va => if mappable s va = .fine then none else some (va, mappable s va))

/-- The stash side of the PROTECT conditions of SMAP (R170). -/
def stashDenies (c : LCore) (vo n : Nat) : Bool :=
  let o := vo - windowBase
  !inWindow vo || decide (c.ways * wayBytes < o + n) || c.maps.any (fun m => overlaps m.off m.len o n) ||
    c.tiles.any (fun e => meetsTile e.2 o n) || decide (16 ≤ c.maps.length)

/-- The global side: another mapping, or the stash window (R170). -/
def globalDenies (c : LCore) (va n : Nat) : Bool :=
  c.maps.any (fun m => overlaps m.addr m.len va n) || decide (windowBase < va + n)

/-- A core's own lines of a range leave its first-level cache, which the mapping takes the place of; their dirty bytes go
to the second-level cache, from which the mapping fills. R170 does not say what becomes of such lines at SMAP: that they are
evicted is the model's choice (log 43). -/
def dropRange (s : State) (lc va n : Nat) : State :=
  let lo := lineKey (asidOf s lc) va
  ((keys (coreOf s lc).l1).filter (fun k => decide (lo ≤ k) && decide (k < lo + n / 128))).foldl
    (fun t k => evictL1 t lc k) s

/-- The translations of a range's pages cost their walks (R338). -/
def heatPages (s : State) (a n : Nat) : State := (pagesOf a n).foldl (fun t x => heatLookup t (asidOf t t.cur.1) x) s

/-- SMAP (R170). A page whose translation fails replays it as a load does (R159): in a task with a STRICT range that
ends the
task, though R285 does not name SMAP's check among the accesses (log 43). -/
def execSmap (o a : F6) (b : Opnd) (s : State) : Res :=
  let names : Names := ⟨[.s o, .s a, b], none, [], []⟩
  issue names s (fun t =>
    let vo := (valS t o).toNat
    let va := (valS t a).toNat
    let n := (valB t b).toNat
    if vo % 128 ≠ 0 then trapAddr t causeMisaligned vo
    else if va % 128 ≠ 0 ∨ n % 128 ≠ 0 ∨ n = 0 then trapAddr t causeMisaligned va
    else if stashDenies (myCore t) vo n then trapAddr t causeProtect vo
    else if globalDenies (myCore t) va n then trapAddr t causeProtect va
    else match firstBad t va n with
      | some (x, .parks e) => parkMine t x e
      | some (x, _) => trapAddr (heatLookup t (asidOf t t.cur.1) x) causeProtect x
      | none =>
        finish names long (modCore (dropRange (heatPages t va n) t.cur.1 va n) t.cur.1 (fun c =>
          { c with maps := c.maps ++ [⟨vo - windowBase, va, n, [], []⟩] })) 0#64)

/-- The mapping that begins at a window address. -/
def mapAt (c : LCore) (vo : Nat) : Option Mapping :=
  c.maps.find? (fun m => inWindow vo && m.off == vo - windowBase)

/-- SUNMAP (R171), a release at PKG of the mapping's lines: it waits for the context's earlier accesses (R167), their dirty
bytes reach the MSC, then the entry is freed. -/
def execSunmap (o : F6) (s : State) : Res :=
  let names : Names := ⟨[.s o], none, [], []⟩
  issue names s (fun t =>
    match mapAt (myCore t) (valS t o).toNat with
    | none => trapAddr t causeProtect (valS t o).toNat
    | some m =>
      if !accessesDone (me t) || writesOut t t.cur.1 t.cur.2 then waitBegun t (repliesWait t 0)
      else
        let ws := unmapWrites t t.cur.1 t.cur.2 m
        if ws.isEmpty then
          finish names long (modCore t t.cur.1 (fun c => { c with maps := c.maps.filter (fun k => k.off != m.off) })) 0#64
        else waitStage { t with writes := t.writes ++ ws } 0 .sent)

/-! ### Tiles (R172, R176, R177) -/

/-- The number of a tile's state (R172). -/
def TileState.code : TileState → Nat
  | .empty => 0
  | .filling => 1
  | .ready => 2
  | .draining => 3

/-- A tile-table entry as a word (R172). -/
def tileWord (t : Tile) : Word :=
  word (t.wm % 2 ^ 20 * 2 ^ 44 + t.size % 2 ^ 20 * 2 ^ 24 + t.base % 2 ^ 13 * 2 ^ 11 + t.tag.code * 128 + t.state.code)

/-- Why TDEF traps with PROTECT (R176). -/
def tdefDenies (c : LCore) (t va n : Nat) : Bool :=
  let o := va - windowBase
  !inWindow va || decide (o % 64 ≠ 0) || decide (n = 0) || decide (c.ways * wayBytes < o + n) ||
    c.tiles.any (fun e => e.1 != t && meetsTile e.2 o n) || c.maps.any (fun m => overlaps m.off m.len o n)

/-- TDEF with a tag (R176). -/
def tdef (tag : Tag) (t a : F6) (b : Opnd) (s : State) : Res :=
  let names : Names := ⟨[.s a, b], none, [], []⟩
  issue names s (fun u =>
    let va := (valS u a).toNat
    let n := (valB u b).toNat
    if moving (tileOf (myCore u) t.toNat) then trap u causeTile
    else if tdefDenies (myCore u) t.toNat va n then trapAddr u causeProtect va
    else finish names long (modCore u u.cur.1 (fun c =>
      setTile c t.toNat ⟨n, n, (va - windowBase) / 64, tag, .ready⟩)) 0#64)

def execTdefRaw (t a : F6) (b : Opnd) (s : State) : Res := tdef .raw t a b s
def execTdefI8 (t a : F6) (b : Opnd) (s : State) : Res := tdef .i8 t a b s
def execTdefI16 (t a : F6) (b : Opnd) (s : State) : Res := tdef .i16 t a b s
def execTdefI32 (t a : F6) (b : Opnd) (s : State) : Res := tdef .i32 t a b s
def execTdefN8 (t a : F6) (b : Opnd) (s : State) : Res := tdef .n8 t a b s
def execTdefN16 (t a : F6) (b : Opnd) (s : State) : Res := tdef .n16 t a b s
def execTdefN32 (t a : F6) (b : Opnd) (s : State) : Res := tdef .n32 t a b s
def execTdefFp16 (t a : F6) (b : Opnd) (s : State) : Res := tdef .fp16 t a b s
def execTdefBf16 (t a : F6) (b : Opnd) (s : State) : Res := tdef .bf16 t a b s
def execTdefFp32 (t a : F6) (b : Opnd) (s : State) : Res := tdef .fp32 t a b s
def execTdefDm8 (t a : F6) (b : Opnd) (s : State) : Res := tdef .dm8 t a b s
def execTdefMask (t a : F6) (b : Opnd) (s : State) : Res := tdef .mask t a b s

/-- TSTAT (R177). -/
def execTstat (d t : F6) (s : State) : Res :=
  issue ⟨[], some d.toNat, [], []⟩ s (fun u =>
    finish ⟨[], some d.toNat, [], []⟩ long u (tileWord (tileOf (myCore u) t.toNat)))

/-- TWAIT (R177). -/
def execTwait (t : F6) (s : State) : Res :=
  if moving (tileOf (myCore s) t.toNat) then waitAt s 4 else finish ⟨[], none, [], []⟩ long s 0#64

/-- TFREE (R177). -/
def execTfree (t : F6) (s : State) : Res :=
  if moving (tileOf (myCore s) t.toNat) then trap s causeTile
  else finish ⟨[], none, [], []⟩ long (modCore s s.cur.1 (fun c => setTile c t.toNat Tile.reset)) 0#64

end Sys2Proof.Machine
end

