-- ==== Sys2Proof/Machine/Copy.lean ====
section
/-! DEFINITION. The copy unit: pushing, running, completing and abandoning requests (spec/12_copy.md R240 to R251). -/

namespace Sys2Proof.Machine

/-! ### The words of a request (R240) -/

def copyOp (w : Word) : Nat := bits w 1 0
def copyTile (w : Word) : Nat := bits w 7 2
def copyTransposes (w : Word) : Bool := bit w 9
/-- The element width in bits that EW names. -/
def copyWidth (w : Word) : Nat := 4 * 2 ^ bits w 11 10
def copyArrives (w : Word) : Bool := bit w 12
def copyLevel (w : Word) : Nat := bits w 15 13
/-- TENSOR.IN and TENSOR.OUT. -/
def copyTensor (w : Word) : Bool := decide (2 ≤ copyOp w)
/-- IN requests write the tile. -/
def copyIn (w : Word) : Bool := copyOp w % 2 == 0

/-- Word i of a request. -/
def Copy.word (k : Copy) (i : Nat) : Word := k.words.getD i 0#64
def Copy.ctl (k : Copy) : Word := k.word 0
def Copy.tile (k : Copy) : Nat := copyTile k.ctl

/-! ### Pushing (R241 to R243) -/

/-- The checks of R242 after the registers: the first that fails. -/
def pushCheck (s : State) (ws : List Word) : Option Nat :=
  let ctl := ws.getD 0 0#64
  let addr := (ws.getD 1 0#64).toNat
  let count := (ws.getD 2 0#64).toNat
  let t := tileOf (myCore s) (copyTile ctl)
  if copyTensor ctl && t.tag != .raw && (width t.tag != copyWidth ctl || bits ctl 11 10 == 0) then some causeFormat
  else if t.state == .empty then some causeTile
  else if addr % (if copyTensor ctl then 8 else 32) ≠ 0 then some causeMisaligned
  else if ctl.toNat / 65536 ≠ 0 ∨ bit ctl 8 ∨ ws.getD 3 0#64 ≠ 0#64 ∨ (copyTransposes ctl ∧ ¬ copyTensor ctl) ∨
      (copyTensor ctl ∧ count ≠ 0) ∨ t.size < count ∨ inWindow addr ∨
      (copyArrives ctl ∧ ¬ declares s (copyLevel ctl)) then some causeProtect
  else none

/-- A packet's address for a push that traps (R309). Where PROTECT comes of a reserved field or word, of TR, COUNT or LEVEL,
no byte fails and R309 names no address: the model's choice is word 1 of the request (log 43). -/
def pushAddr (cause : Nat) (ws : List Word) : Word :=
  if cause = causeMisaligned ∨ cause = causeProtect then ws.getD 1 0#64 else 0#64

/-- The tile moves to FILLING or DRAINING at acceptance (R173). -/
def startCopy (c : LCore) (ctl : Word) : LCore :=
  let t := tileOf c (copyTile ctl)
  setTile c (copyTile ctl) (if copyIn ctl then { t with state := .filling, wm := 0 } else { t with state := .draining })

/-- An arrival is counted in the phase current at completion (R131, R246). -/
def copyArrival (s : State) (lc : Nat) (ctl : Word) : State :=
  if copyArrives ctl then arriveAt s lc (copyLevel ctl) else s

/-- The tile of a request that completes: READY, and after a copy in with WM = SIZE; a copy out leaves WM unchanged.
R246 has WM
become SIZE at every completion and cites R173 for it, whose row for a copy out has it unchanged: the model follows
R173's row
(log 43). -/
def copiedTile (s : State) (k : Copy) : State :=
  if copyIn k.ctl then tileReady s k.lc k.tile
  else modCore s k.lc (fun c => setTile c k.tile { tileOf c k.tile with state := .ready })

/-- A request completes: tile, arrival and identifier in one step (R246). -/
def finishCopy (s : State) (k : Copy) : State :=
  let s1 := copyArrival (copiedTile s k) k.lc k.ctl
  modCore s1 k.lc (fun c => { c with mxOut := c.mxOut.erase k.id })

/-- The request as accepted. -/
def newCopy (s : State) (ws : List Word) : Copy :=
  ⟨s.cur.1, s.cur.2, (myCore s).mxNext, ws, none, 0, [], none, none, false⟩

/-- The FIFO accepts a request (R243). A bulk copy of no bytes completes at once (R247). -/
def acceptCopy (s : State) (yard : Nat) (ws : List Word) : State :=
  let k := newCopy s ws
  let s1 := modYard s yard (fun y => { y with copyTurn := (myCore s).phys % 8 })
  let s2 := modCore s1 s.cur.1 (fun c =>
    startCopy { c with mxNext := (c.mxNext + 1) % 65536, mxOut := c.mxOut ++ [c.mxNext] } k.ctl)
  if !copyTensor k.ctl && k.word 2 == 0#64 then finishCopy s2 k
  else modYard s2 yard (fun y => { y with copies := y.copies ++ [k] })

/-- The four registers of a push. -/
def pushRegs (a : F6) : List Nat := [a.toNat, a.toNat + 1, a.toNat + 2, a.toNat + 3]

/-- The four words of a push. -/
def pushWords (s : State) (a : F6) : List Word := (pushRegs a).map (sreg (me s))

/-- The FIFO of a yard is full (R243). -/
def fifoFull (y : Yard) : Bool := decide (32 ≤ y.copies.length)

/-- A push: busy answers when the FIFO is full or the tile is moving; it waits behind a RESIZE of the tile's ways (R169). -/
def push (names : Names) (a : F6) (busy : State → Res) (done : State → Res) (s : State) : Res :=
  issue names s (fun t =>
    let ws := pushWords t a
    let yard := yardNum (myCore t).phys
    match pushCheck t ws with
    | some cause => trapAt t cause 0 (pushAddr cause ws) []
    | none =>
      let tile := tileOf (myCore t) (copyTile (ws.getD 0 0#64))
      if moving tile || fifoFull (yardOf t yard) then busy t
      else if resizeWaits (myCore t) (tileStart tile) tile.size then waitAt t 0
      else done (countV (acceptCopy t yard ws)))

/-- CPY (R241, R243). While it is held back its context is not ready: nothing has issued. -/
def execCpy (a : F6) (s : State) : Res :=
  let names : Names := ⟨[], none, pushRegs a, []⟩
  push names a (fun t => waitAt t 0) (fun t => finish names long t 0#64) s

/-- CPYT (R241, R243). -/
def execCpyt (d a : F6) (s : State) : Res :=
  let names : Names := ⟨[], some d.toNat, pushRegs a, []⟩
  push names a (fun t => finish names long (countV t) (BitVec.allOnes 64)) (fun t => finish names long t 0#64) s

/-! ### Accesses at the MSC, as the engines make them (R251) -/

/-- n bytes of a line at the MSC. -/
def mscRead (s : State) (asid va n : Nat) (p : Page) : State × Nat :=
  if p.aliased then
    (heatAccess (heatMiss s asid va) (frameOf p va), lineNat (currentLine s p (frameOf p va)) (va % 128) n)
  else
    let r := mscFill s (lineKey asid va) p
    (r.1, lineNat (pocLine r.1 (lineKey asid va) p) (va % 128) n)

/-- Write n bytes of a line at the MSC on a task's account. -/
def mscWrite (s : State) (asid va n v : Nat) (p : Page) (task : Nat) : State :=
  pocWrite s (lineKey asid va) p (natLine v (va % 128) n) (spanMask (va % 128) n) task none

/-- May it land now? -/
def mscReady (s : State) (asid va n v : Nat) (p : Page) : Bool :=
  pocReady s (lineKey asid va) p (natLine v (va % 128) n) (spanMask (va % 128) n)

/-! ### Faults of a copy (R248, R250) -/

/-- The tile becomes EMPTY, the identifier completes, no arrival is counted (R248). -/
def abandonCopy (s : State) (k : Copy) : State :=
  let s1 := modYard s (yardNum (coreOf s k.lc).phys) (fun y =>
    { y with copies := y.copies.filter (fun j => !(j.lc == k.lc && j.id == k.id)) })
  modCore (unpark s1 (.copy k.lc k.id)) k.lc (fun c =>
    { setTile c k.tile Tile.reset with mxOut := c.mxOut.erase k.id })

/-- Change one request in its yard. -/
def setCopy (s : State) (k : Copy) : State :=
  modYard s (yardNum (coreOf s k.lc).phys) (fun y =>
    { y with copies := y.copies.map (fun j => if j.lc = k.lc ∧ j.id = k.id then k else j) })

/-- A copy stops with COPY_FAULT; with no context left to freeze it is abandoned and reported for record. Then, if it met a
POISON, its task learns of it (R350): the context that pushed the copy takes the COPY_FAULT. -/
def faultCopy (s : State) (k : Copy) (sub addr : Nat) : State :=
  let s1 := if k.orphan then abandonCopy (recordPacket s k.lc k.ctx causeCopy sub (word addr) (copyDetail k)) k
    else pendCause (setCopy s { k with fault := some (sub, addr) }) k.lc k.ctx
      ⟨causeCopy, sub, word addr, copyDetail k⟩
  if sub = 4 then poisonMet s1 (taskNum k.lc) else s1

/-- A failed translation: it parks, or ends the task and the copy (R248, R285). -/
def parkCopy (s : State) (k : Copy) (va : Nat) (entry : Word) : State :=
  let task := taskNum k.lc
  if leaseEnds s task va then
    abandonCopy (leaseCrew (heatMiss s (asidOf s k.lc) va) task none) k
  else park (setCopy s k) 1 3 (asidOf s k.lc) va 0 entry task (.copy k.lc k.id)

/-- The sub-code of a check that fails (R248). -/
def copySub (cause : Nat) : Nat := if cause = causeEscape then 3 else if cause = causePoison then 4 else 2

/-- The checks of one access of a copy, then k (R206, R248). The address at which a copy stops is its first failing
byte: for a
bulk copy that lies in the 8-byte granule that fails, while the offset in the packet is that of the 32-byte granule that
was to
move. R248 does not say how fine either is: the model's choice (log 43). -/
def copyAccess (s : State) (k : Copy) (va n : Nat) (write : Bool) (go : Page → State) : State :=
  if inWindow va || !canonicalVa va || (debugWindow s k.lc va).isSome then faultCopy s k 2 va
  else match translate s (asidOf s k.lc) va with
    | .fail e => parkCopy s k va e
    | .ok p =>
      match pageChecks s (taskNum k.lc) p va n write false with
      | some (.trap cause a _) => faultCopy (heatLookup s (asidOf s k.lc) va) k (copySub cause) (max a va)
      | some _ => s
      | none => go p

/-! ### Tensor descriptors (R244, R245) -/

/-- The extent and the stride of a descriptor word. -/
def descDim (w : Word) : Nat × Int := (bits w 63 40, sx w.toNat 40)

/-- The number of elements. -/
def Desc.total (d : Desc) : Nat := d.dims.foldl (fun n e => n * e.1) 1

/-- The extent of a dimension. -/
def Desc.ext (d : Desc) (j : Nat) : Nat := (d.dims.getD j (1, 0)).1

/-- The conditions of R245 on the words read. -/
def descOk (t : Tile) (ctl : Word) (d : Desc) : Bool :=
  let w := copyWidth ctl
  let unit := (w + 7) / 8
  (d.dims.getD 0 (0, 0)).2 == 0 && !(copyTransposes ctl && d.dims.length == 1) &&
    decide (d.total * w ≤ t.size * 8) &&
    !(w == 4 && (d.ext 0 % 2 == 1 || (copyTransposes ctl && d.ext 1 % 2 == 1))) &&
    d.base % unit == 0 && d.dims.all (fun e => e.2 % (unit : Int) == 0)

/-- The next word of a descriptor: word i of a request, with those before it. -/
def descWord (s : State) (k : Copy) (i : Nat) (go : State → Word → State) : State :=
  let va := ((k.word 1).toNat + 8 * i) % 2 ^ 64
  if inWindow va then faultCopy s k 1 va
  else copyAccess s k va 8 false (fun p =>
    if halfBlocks s (lineKey (asidOf s k.lc) va) (spanMask (va % 128) 8) false then s
    else
      let r := mscRead s (asidOf s k.lc) va 8 p
      go r.1 (word r.2))

/-- The words of the dimensions from j on, n of them. -/
def descDims (k : Copy) (base : Nat) : Nat → Nat → List (Nat × Int) → State → (State → Desc → State) → State
  | 0, _, acc, s, go => go s ⟨base, acc⟩
  | n + 1, j, acc, s, go => descWord s k (2 + j) (fun t w => descDims k base n (j + 1) (acc ++ [descDim w]) t go)

/-- Read the whole descriptor (R244, R245). For a descriptor whose content is invalid, R248's address at which the copy
stopped
is ADDR, word 1 of the request: the model's choice, for the spec does not name it (log 43). -/
def readDesc (s : State) (k : Copy) (go : State → Desc → State) : State :=
  descWord s k 0 (fun t w =>
    let n := bits w 3 0
    if n = 0 ∨ 14 < n ∨ w.toNat / 16 ≠ 0 then faultCopy t k 1 (k.word 1).toNat
    else descWord t k 1 (fun u b => descDims k b.toNat n 0 [] u go))

/-- The request at a place of a yard's FIFO, when it may go on: not parked, not stopped. -/
def runningCopy (s : State) (yard idx : Nat) : Option Copy :=
  match (yardOf s yard).copies[idx]? with
  | some k => if k.fault.isNone && !isParked s (.copy k.lc k.id) then some k else none
  | none => none

/-- COPY_DESCRIPTOR_READ (R245, R247). A descriptor that breaks R245 is reported at ADDR (log 43). -/
def execCopyDescriptorRead (yard idx : Nat) (s : State) : Res :=
  match runningCopy s yard idx with
  | some k =>
    if copyTensor k.ctl && k.desc.isNone then
      .next (readDesc s k (fun t d =>
        if !descOk (tileOf (coreOf t k.lc) k.tile) k.ctl d then faultCopy t k 1 (k.word 1).toNat
        else if d.total = 0 then
          finishCopy (modYard t yard (fun y => { y with copies := y.copies.eraseIdx idx })) k
        else setCopy t { k with desc := some d }))
    else .next s
  | none => .next s

/-! ### Landings (R245 to R247) -/

/-- The indices of the element at a tile position, dimension by dimension, for extents in tile order. -/
def positionIndices : List Nat → Nat → List Nat
  | [], _ => []
  | e :: es, q => q % e :: positionIndices es (q / e)

/-- Exchange the first two entries. -/
def swapFirst {α : Type} : List α → List α
  | a :: b :: r => b :: a :: r
  | r => r

/-- The indices i(j) of the element at a tile position, with or without TR. -/
def elementIndices (ctl : Word) (d : Desc) (q : Nat) : List Nat :=
  let es := d.dims.map (·.1)
  if copyTransposes ctl then swapFirst (positionIndices (swapFirst es) q) else positionIndices es q

/-- The address of an element (R244). -/
def elementAddr (ctl : Word) (d : Desc) (is : List Nat) : Nat :=
  let off := (is.zip d.dims).foldl (fun (a : Int) e => a + (e.1 : Int) * e.2.2) 0
  (wordOfInt ((d.base : Int) + off + ((is.getD 0 0 * copyWidth ctl / 8 : Nat) : Int))).toNat

/-- The bits of an element in its bytes: half a byte is the low one when its index is even. -/
def getPart (w i v : Nat) : Nat := if w = 4 then v / 16 ^ (i % 2) % 16 else v
def setPart (w i old v : Nat) : Nat :=
  if w = 4 then (if i % 2 = 0 then old / 16 * 16 + v else old % 16 + v * 16) else v

/-- A position has moved: the frontier goes past every position that has, in steps of a unit. -/
def sweep (unit : Nat) : Nat → Nat → List Nat → Nat × List Nat
  | 0, pos, l => (pos, l)
  | n + 1, pos, l => if l.contains pos then sweep unit n (pos + unit) (l.erase pos) else (pos, l)

/-- The request after position q has moved. -/
def moved (k : Copy) (unit q : Nat) : Copy :=
  let r := sweep unit (k.landed.length + 1) k.pos (q :: k.landed)
  { k with pos := r.1, landed := r.2, trying := none }

/-- The position that moves next: one that has been tried (R248); in ascending order for a linear copy (R246); else any
that has not moved, in no order (R251): v chooses. -/
def landingPos (k : Copy) (unit total v : Nat) : Nat :=
  match k.trying with
  | some q => q
  | none =>
    let q := k.pos + v % ((total - k.pos + unit - 1) / unit) * unit
    if (copyIn k.ctl && !copyTensor k.ctl) || k.landed.contains q then k.pos else q

/-- A write of a copy that may not land waits for the host's hold, or parks for storage (R342, R352). -/
def copyWaits (s : State) (k : Copy) (va n : Nat) (p : Page) : State :=
  if halfBlocks s (lineKey (asidOf s k.lc) va) (spanMask (va % 128) n) true then s
  else parkFull (setCopy s k) 3 (asidOf s k.lc) va p (taskNum k.lc) ⟨.copy k.lc k.id, va, []⟩

/-- The element at position q of a tensor copy moves. -/
def moveElement (s : State) (k : Copy) (d : Desc) (q : Nat) : State :=
  let c := coreOf s k.lc
  let w := copyWidth k.ctl
  let n := (w + 7) / 8
  let is := elementIndices k.ctl d q
  let va := elementAddr k.ctl d is
  let o := tileStart (tileOf c k.tile) + q * w / 8
  copyAccess s { k with trying := some q } va n (!copyIn k.ctl) (fun p =>
    let asid := asidOf s k.lc
    if copyIn k.ctl then
      if halfBlocks s (lineKey asid va) (spanMask (va % 128) n) false then s
      else
        let r := mscRead s asid va n p
        let v := getPart w (is.getD 0 0) r.2
        setCopy (modCore r.1 k.lc (fun x => setStashNat x o n (setPart w q (stashNat x o n) v))) (moved k 1 q)
    else
      let r := mscRead s asid va n p
      let v := setPart w (is.getD 0 0) r.2 (getPart w q (stashNat c o n))
      if mscReady r.1 asid va n v p then setCopy (mscWrite r.1 asid va n v p (taskNum k.lc)) (moved k 1 q)
      else copyWaits s { k with trying := some q } va n p)

/-- The granule of 32 bytes from byte q on of a bulk copy moves, the last one masked (R247). The watermark of the tile
follows the bytes that have landed without a gap (R173). -/
def moveGranule (s : State) (k : Copy) (q : Nat) : State :=
  let c := coreOf s k.lc
  let count := (k.word 2).toNat
  let n := min 32 (count - q)
  let va := ((k.word 1).toNat + q) % 2 ^ 64
  let o := tileStart (tileOf c k.tile) + q
  copyAccess s { k with trying := some q } va n (!copyIn k.ctl) (fun p =>
    let asid := asidOf s k.lc
    if copyIn k.ctl then
      if halfBlocks s (lineKey asid va) (spanMask (va % 128) n) false then s
      else
        let r := mscRead s asid va n p
        let k1 := moved k 32 q
        let s1 := modCore r.1 k.lc (fun x =>
          let y := setStashNat x o n r.2
          setTile y k.tile { tileOf y k.tile with wm := min k1.pos count })
        setCopy s1 k1
    else
      let v := stashNat c o n
      if mscReady s asid va n v p then setCopy (mscWrite s asid va n v p (taskNum k.lc)) (moved k 32 q)
      else copyWaits s { k with trying := some q } va n p)

/-- Has everything moved? -/
def copyDone (k : Copy) : Bool :=
  if copyTensor k.ctl then
    match k.desc with
    | some d => decide (d.total ≤ k.pos)
    | none => false
  else decide ((k.word 2).toNat ≤ k.pos)

/-- COPY_LANDING: a granule or an element of request idx that has not moved moves; they have no order (R251). -/
def execCopyLanding (yard idx : Nat) (s : State) : Res :=
  match runningCopy s yard idx with
  | some k =>
    if copyDone k then .next s
    else
      let v := (takeFree s).1.toNat
      let t := (takeFree s).2
      if copyTensor k.ctl then
        match k.desc with
        | some d => .next (moveElement t k d (landingPos k 1 d.total v))
        | none => .next s
      else .next (moveGranule t k (landingPos k 32 (k.word 2).toNat v))
  | none => .next s

/-- COPY_COMPLETE (R246). -/
def execCopyComplete (yard idx : Nat) (s : State) : Res :=
  match runningCopy s yard idx with
  | some k =>
    if copyDone k then .next (finishCopy (modYard s yard (fun y => { y with copies := y.copies.eraseIdx idx })) k)
    else .next s
  | none => .next s

/-- COPY_ABANDON: the reeve abandons a copy that has stopped with a fault its frozen context was told of (R248). -/
def execCopyAbandon (yard idx : Nat) (s : State) : Res :=
  match (yardOf s yard).copies[idx]? with
  | some k =>
    let x := ctxOf s k.lc k.ctx
    if k.fault.isSome && x.frozen && x.pend.all (fun p => p.cause != causeCopy || p.detail != copyDetail k) then
      .next (abandonCopy s k)
    else .next s
  | none => .next s

end Sys2Proof.Machine
end

