-- ==== Sys2Proof/Machine/Launch.lean ====
section
/-! DEFINITION. Launch records, LAUNCH, and the dispatcher: entering, readying and placing tasks, and completing them
(spec/14_launch.md R278 to R291). -/

namespace Sys2Proof.Machine

/-! ### Reading words at the MSC -/

/-- Words read at the MSC, or the place where the read stands. -/
inductive WordsRead where
  | got (ws : List Word)
  | fails (va : Nat) (entry : Word)
  | waits
  deriving DecidableEq, Repr

/-- Read n words of an address space from va on (R283, R285). -/
def readWords (asid : Nat) : Nat → Nat → List Word → State → State × WordsRead
  | 0, _, acc, s => (s, .got acc)
  | n + 1, va, acc, s =>
    match translate s asid va with
    | .fail e => (s, .fails va e)
    | .ok p =>
      if halfBlocks s (lineKey asid va) (spanMask (va % 128) 8) false then (s, .waits)
      else
        let r := mscRead s asid va 8 p
        readWords asid n ((va + 8) % 2 ^ 64) (acc ++ [word r.2]) r.1

/-! ### Launch records (R278 to R281) -/

/-- Word i of a record. -/
def recWord (ws : List Word) (i : Nat) : Word := ws.getD i 0#64
def recLevels (ws : List Word) : Nat := bits (recWord ws 3) 7 4
def recRanges (ws : List Word) : Nat := bits (recWord ws 3) 12 8
def recFold (ws : List Word) : Bool := bit (recWord ws 3) 3

/-- A level word (R279). -/
def levelOf (w : Word) : Level := ⟨bits w 2 0, bits w 6 4, bits w 31 8, bits w 47 32⟩

/-- A range entry (R280). -/
def rangeOf (base w : Word) : Range := ⟨base.toNat, bits w 39 0, bit w 63⟩

/-- The levels and the ranges of a record. -/
def levelList (ws : List Word) : List Level := (List.range (recLevels ws)).map (fun i => levelOf (recWord ws (8 + i)))
def rangeList (ws : List Word) : List Range :=
  (List.range (recRanges ws)).map (fun i => rangeOf (recWord ws (16 + 2 * i)) (recWord ws (17 + 2 * i)))

/-- The number of physical cores in a unit of a domain (R10, R279). -/
def domainCores : Nat → Nat
  | 0 => 2048
  | 1 => 256
  | 2 => 16
  | 3 => 8
  | _ => 1

/-- The capacity table of R281: units of a domain in one unit of the domain before it; 0 where the nesting does not
exist. A level in the crew counts units of the package. -/
def nestCap (first : Bool) (prev d : Nat) : Nat :=
  if d = 5 then (if prev = 4 ∧ first = false then 11 else 0)
  else if first then domainCores 0 / domainCores d
  else if prev < d then domainCores prev / domainCores d else 0

/-- The levels nest within their capacities; a CTX level is the last (R281). -/
def levelsOk (fold : Bool) : Bool → Nat → List Level → Bool
  | _, _, [] => true
  | first, prev, l :: ls =>
    decide (l.domain ≤ 5) && decide (l.scope ≤ 4) && (l.domain != 5 || ls.isEmpty) && decide (1 ≤ l.extent) &&
      decide (l.extent ≤ nestCap first prev l.domain) && !(l.domain == 5 && fold && decide (5 < l.extent)) &&
      levelsOk fold false l.domain ls

/-- The reserved bits of the level words are 0, and so are the words of levels not declared (R278, R279; log 43). -/
def levelWordsOk (ws : List Word) : Bool :=
  (List.range 8).all (fun i =>
    let w := recWord ws (8 + i)
    if i < recLevels ws then bits w 63 48 == 0 && !bit w 7 && !bit w 3 else w == 0#64)

/-- The range entries are well formed and do not overlap (R280, R281). -/
def rangesOk (ws : List Word) : Bool :=
  (List.range (recRanges ws)).all (fun i => bits (recWord ws (17 + 2 * i)) 62 40 == 0) &&
    (rangeList ws).all (fun r => r.base % 65536 == 0 && r.len % 65536 == 0 && r.len != 0) &&
    (List.range (recRanges ws)).all (fun i => (List.range (recRanges ws)).all (fun j =>
      match (rangeList ws)[i]?, (rangeList ws)[j]? with
      | some a, some b => i == j || !overlaps a.base a.len b.base b.len
      | _, _ => true))

/-- Is a record valid (R281)? SPLIT without EXPL, and a word of a level not declared, must be 0 by R278: a record that has
another is refused with the reserved bits of R281's list, which does not name them (log 43). -/
def recordOk (ws : List Word) : Bool :=
  let a := recWord ws 4
  bits (recWord ws 3) 47 13 == 0 && bits a 63 25 == 0 && (bit a 24 || bits a 23 0 == 0) &&
    (recWord ws 0).toNat % 2 == 0 && (recWord ws 1).toNat % 8 == 0 && (recWord ws 5).toNat % 64 == 0 &&
    (recWord ws 6).toNat % 128 == 0 && (recWord ws 7).toNat % 128 == 0 &&
    decide (1 ≤ recLevels ws) && decide (recLevels ws ≤ 8) && decide (recRanges ws ≤ 16) && levelWordsOk ws &&
    levelsOk (recFold ws) true 0 (levelList ws) && rangesOk ws

/-! ### Entering a task (R203, R283, R290) -/

/-- The tasks not yet placed. -/
def poolSize (s : State) : Nat := (s.tasks.filter (fun e => e.2.stage == .pending || e.2.stage == .ready)).length

/-- Is a task with the record address of an address space entered and not completed (R283)? One address of two address
spaces names two records (R389). -/
def entered (s : State) (asid ra : Nat) : Bool := s.tasks.any (fun e => e.2.record == ra && e.2.asid == asid)

/-- The key of a record address of an address space. -/
def recordKey (asid ra : Nat) : Nat := asid * 2 ^ 64 + ra

/-- A task number that no task holds (R203): which one is open, a free value (log 5). -/
def newNumber (s : State) : Nat :=
  let n := 1 + (Config.freeValue s.taken).toNat % (2 ^ 20 - 1)
  if (look s.tasks n).isNone then n
  else ((List.range (s.tasks.length + 1)).find? (fun i => (look s.tasks (i + 1)).isNone)).getD 0 + 1

/-- A task as its record gives it. -/
def newTask (s : State) (num ra asid part vf used : Nat) (ws : List Word) : Task :=
  let ctl := recWord ws 3
  { num := num, record := ra, asid := asid, part := part, vf := vf, entry := (recWord ws 0).toNat,
    const := (recWord ws 1).toNat, seed := recWord ws 2, pred := bits ctl 63 48 - used, prio := bits ctl 2 0,
    fold := recFold ws, expl := bit (recWord ws 4) 24, split := bits (recWord ws 4) 23 0,
    compl := (recWord ws 5).toNat, succ0 := (recWord ws 6).toNat, succ1 := (recWord ws 7).toNat,
    levels := levelList ws, ranges := rangeList ws, stage := .pending, level := bits ctl 2 0, since := s.ticks, seq := 0,
    bank := [], tstart := none, dropped := 0, rollbacks := 0, cause := 0, nextWalk := 0, walks := [], barriers := [],
    begun := false, log := [], logged := true, rolling := false }

/-- Enter a record (R283): min(credits, PRED) credits of its address are used (R290). -/
def enterTask (s : State) (ra asid part vf : Nat) (ws : List Word) : State × Word :=
  let num := newNumber s
  let held := getD 0 s.credits (recordKey asid ra)
  let used := min held (bits (recWord ws 3) 63 48)
  let t := newTask s num ra asid part vf used ws
  ({ s with
    tasks := put s.tasks num t
    credits := setD 0 s.credits (recordKey asid ra) (held - used)
    taken := s.taken + 1 }, word num)

/-- The answers of R283 that enter nothing. -/
def answerBusy : Word := wordOfInt (-1)
def answerEntered : Word := wordOfInt (-2)
def answerInvalid : Word := wordOfInt (-3)

/-- What the dispatcher does with a record address: an answer, a read that parks, or a wait. -/
inductive Entered where
  | answer (w : Word)
  | fails (va : Nat) (entry : Word)
  | waits
  deriving DecidableEq, Repr

/-- The dispatcher takes a record address (R283): the header first, then the ranges it names. -/
def takeRecord (s : State) (ra asid part vf : Nat) : State × Entered :=
  if 4096 ≤ poolSize s then (s, .answer answerBusy)
  else if entered s asid ra then (s, .answer answerEntered)
  else match readWords asid 16 ra [] s with
    | (t, .fails va e) => (t, .fails va e)
    | (t, .waits) => (t, .waits)
    | (t, .got hs) =>
      if 16 < recRanges hs then (t, .answer answerInvalid)
      else match readWords asid (2 * recRanges hs) (ra + 128) hs t with
        | (u, .fails va e) => (u, .fails va e)
        | (u, .waits) => (u, .waits)
        | (u, .got ws) =>
          if recordOk ws then
            let r := enterTask u ra asid part vf ws
            (r.1, .answer r.2)
          else (u, .answer answerInvalid)

/-! ### LAUNCH (R283) -/

/-- The partition and virtual function for which a logical core's task runs (R357). The firmware's contexts have no task:
what they launch belongs to no partition (log 43), so that no yard and no key slot is its own and it is never placed. -/
def partOfCore (s : State) (lc : Nat) : Nat × Nat :=
  match taskOf s (taskNum lc) with
  | some t => (t.part, t.vf)
  | none => (noPart, 0)

/-- The request to the dispatcher, after the release. -/
def askDispatcher (names : Names) (ra : Nat) (s : State) : Res :=
  let asid := asidOf s s.cur.1
  let o := partOfCore s s.cur.1
  match takeRecord s ra asid o.1 o.2 with
  | (t, .answer w) => finish names long t w
  | (t, .fails va e) => waitBegun (park t 1 6 asid va 0 e (taskNum s.cur.1) (.launch s.cur.1 s.cur.2)) 7
  | (t, .waits) => waitBegun t 0

/-- LAUNCH (R283). A read resolved as unmapped answers −3 (R337). -/
def execLaunch (d : F6) (a : Opnd) (s : State) : Res :=
  let names : Names := ⟨[a], some d.toNat, [], []⟩
  issue names s (fun t =>
    let ra := (valB t a).toNat
    if ra % 128 ≠ 0 then trapAddr t causeMisaligned ra
    else if inWindow ra || !canonicalVa ra || (debugWindow t t.cur.1 ra).isSome then trapAddr t causeProtect ra
    else match (me t).stage with
      | .answered w => finish names long t w
      | _ => releaseThen t scopeSys 0 (askDispatcher names ra))

/-! ### HOST_QUEUE_ENTRY (R284, R354) -/

/-- The entries a reply ring holds. -/
def ringSize (base : Word) : Nat := 2 ^ (min (bits base 3 0) 11 + 4)

/-- Write bytes to the frames at an address, and to the MSC lines that hold them. -/
def pokeFrame (s : State) (a : Nat) (bs : List Byte) : State :=
  bs.zipIdx.foldl (fun t e =>
    let x := a + e.2
    let t1 := setMemByte t x e.1
    { t1 with msc := t1.msc.map (fun l =>
        if frameOf l.2.page (keyVa l.1) = x / 128 * 128
        then (l.1, { l.2 with data := mergeLine l.2.data (natLine e.1.toNat (x % 128) 1) (spanMask (x % 128) 1) }) else l) }) s

/-- The frame address of a byte of host memory (R332). -/
def hostFrame (a : Nat) : Nat := 2 * 2 ^ 48 + a

/-- A reply entry: the record address and the answer, then MSI-X vector 0 (R354). -/
def writeReply (s : State) (vf ra : Nat) (answer : Word) : State :=
  let v := vfOf s vf
  let n := ringSize v.rrbase
  let a := bits v.rrbase 63 12 * 4096 + v.rrtail % n * 16
  let s1 := pokeFrame s (hostFrame a) (toBytes 8 ra ++ toBytes 8 answer.toNat)
  let s2 := modVf s1 vf (fun x => { x with queue := x.queue.drop 1, rrtail := (x.rrtail + 1) % 2 ^ 32, answers := 0 })
  { s2 with msix := s2.msix ++ [(vf, 0)] }

/-- Does a partition own a virtual function (R357)? -/
def assigned (v : VFunc) : Bool := decide (v.part < noPart)

/-- HOST_QUEUE_ENTRY: the oldest entry of a queue is taken as a LAUNCH (R284); a full reply ring keeps it waiting. So does a
function that no partition owns: a root task runs in its function's partition (R357), and which it would be then the spec
does not say (log 43). A record address in the stash window, or one that is not canonical, is translated by no table: the
LAUNCH of R283 would trap, and a host entry has no context that could; the model's choice is that it parks as any address
that does not translate (log 43). -/
def execHostQueueEntry (vf : Nat) (s : State) : Res :=
  let v := vfOf s vf
  match v.queue with
  | [] => .next s
  | ra :: _ =>
    if s.modPower ≠ .active ∨ assigned v = false ∨ isParked s (.hostEntry vf) ∨
        ringSize v.rrbase ≤ (v.rrtail + 2 ^ 32 - v.rrhead) % 2 ^ 32 then .next s
    else if v.answers = 1 then .next (writeReply s vf ra answerInvalid)
    else match takeRecord s ra v.asid v.part vf with
      | (t, .answer w) => .next (writeReply t vf ra w)
      | (t, .fails va e) => .next (park t 1 6 v.asid va 0 e 0 (.hostEntry vf))
      | (t, .waits) => .next t

/-! ### Ready tasks (R285, R286) -/

/-- A page of a range is resident in the stacks. -/
def resident (s : State) (asid va : Nat) : Bool :=
  match translate s asid va with
  | .ok p => tierOf p.frame == 0
  | .fail _ => false

/-- Every page of the ranges is resident (R285). -/
def rangesResident (s : State) (t : Task) : Bool :=
  t.ranges.all (fun r => (List.range (r.len / 65536)).all (fun i => resident s t.asid (r.base + i * 65536)))

/-- A task enters the tail of a ready queue (R286). -/
def queueTask (s : State) (task level : Nat) : State :=
  modTask { s with readySeq := s.readySeq + 1 } task (fun x =>
    { x with stage := .ready, level := level, since := s.ticks, seq := s.readySeq })

/-- TASK_READY: PRED has reached 0 and every range is under a residency lease. -/
def execTaskReady (task : Nat) (s : State) : Res :=
  match taskOf s task with
  | some t =>
    if t.stage = .pending ∧ t.pred = 0 ∧ rangesResident s t = true then .next (queueTask s task t.prio) else .next s
  | none => .next s

/-- 1 ms and 4 ms in reference ticks. -/
def msTicks : Nat := 1800000

/-- A ready task has waited 1 ms at its level. -/
def ageDue (s : State) (t : Task) : Bool := t.stage == .ready && decide (t.level < 7) && decide (t.since + msTicks ≤ s.ticks)

/-- PRIORITY_AGEING: it moves to the tail of the next higher queue. -/
def execPriorityAgeing (task : Nat) (s : State) : Res :=
  match taskOf s task with
  | some t =>
    if ageDue s t then .next (queueTask s task (t.level + 1)) else .next s
  | none => .next s

/-- A ready task has waited 4 ms at level 7. -/
def starves (s : State) (t : Task) : Bool := t.stage == .ready && t.level == 7 && decide (t.since + 4 * msTicks ≤ s.ticks)

/-! ### Where a crew fits (R222, R287, R291, R357) -/

/-- Is a physical core free for any crew (R397)? -/
def coreFree (s : State) (p : Nat) : Bool :=
  (coresOn s p).isEmpty && (physOf s p).kept.isNone && !(physOf s p).skipped

/-- The retained ways of a core are for a logical core of the task's crew. -/
def keptFor (s : State) (t : Task) (p : Nat) : Option Nat :=
  match (physOf s p).kept with
  | some k =>
    if k.record = t.record ∧ k.asid = t.asid ∧ k.lcn < crewSize t.levels ∧ (coresOn s p).isEmpty then some k.lcn else none
  | none => none

/-- May a core of the task's partition take one of its logical cores? A core with retained ways is no free core, but for the
logical core that is pinned there (R291). -/
def coreUsable (s : State) (t : Task) (pins : List (Nat × Nat)) (p : Nat) : Bool :=
  (coreFree s p || pins.any (fun e => e.2 == p)) && (partOf s t.part).yards.contains (yardNum p)

/-- The physical accumulators no logical core owns (R222). -/
def freeAccs (y : Yard) : List Nat := (List.range 8).filter (fun a => (look y.owner a).isNone)

/-- The names that the core at a position owns, when c cores of the crew share the yard (R222, R278). -/
def accNames (t : Task) (c pos : Nat) : List Nat :=
  (List.range 8).filter (fun n =>
    if t.expl then decide (t.split / 8 ^ n % 8 = pos)
    else
      let first := pos * (8 / c) + min pos (8 % c)
      decide (first ≤ n) && decide (n < first + 8 / c + (if pos < 8 % c then 1 else 0)))

/-- Has the yard's engine a free accumulator for every name that c cores of the crew own there? -/
def accsFit (s : State) (t : Task) (y c : Nat) : Bool :=
  c == 0 || decide (((List.range c).flatMap (accNames t c)).length ≤ (freeAccs (yardOf s y)).length)

/-- The cores of a yard. -/
def yardCores (y : Nat) : List Nat := (List.range 8).map (fun i => 8 * y + i)

/-- How many logical cores of the crew a yard can take. -/
def yardRoom (s : State) (t : Task) (pins : List (Nat × Nat)) (y : Nat) : Nat :=
  let n := ((yardCores y).filter (coreUsable s t pins)).length
  ((List.range (n + 1)).filter (accsFit s t y)).foldl max 0

/-- The first cores of the units of a domain in a region of physical cores. -/
def unitsIn (d base size : Nat) : List Nat :=
  (List.range (size / domainCores d)).map (fun i => base + i * domainCores d)

/-- The physical cores pinned for the logical cores lo to lo + n − 1. -/
def pinsIn (pins : List (Nat × Nat)) (lo n : Nat) : List Nat :=
  (pins.filter (fun e => decide (lo ≤ e.1) && decide (e.1 < lo + n))).map (·.2)

/-- Do the pins of one logical unit lie in one physical unit, and the pins of different ones in different units? -/
def pinsAgree (d : Nat) (groups : List (List Nat)) : Bool :=
  let units := groups.map (fun g => (g.map (fun p => p / domainCores d)).dedup)
  units.all (fun u => decide (u.length ≤ 1)) && (units.filter (fun u => !u.isEmpty)).Nodup

/-- Does a region hold the units of the levels, the pinned logical cores on their cores? lo is the first logical core
number of the enclosing unit. -/
def fitsIn (s : State) (t : Task) (pins : List (Nat × Nat)) : List Level → Nat → Nat → Nat → Bool
  | [], lo, base, size =>
    match pinsIn pins lo 1 with
    | p :: _ => decide (base ≤ p) && decide (p < base + size) && decide (1 ≤ yardRoom s t pins (yardNum p))
    | [] => (unitsIn 3 base (max 8 size)).any (fun c => decide (1 ≤ yardRoom s t pins (yardNum c)))
  | l :: ls, lo, base, size =>
    let stride := ls.foldl (fun n x => n * x.extent) 1
    let groups := (List.range l.extent).map (fun i => pinsIn pins (lo + i * stride) stride)
    let pinned := (List.range l.extent).filter (fun i => !(groups.getD i []).isEmpty)
    pinsAgree l.domain groups &&
      (if l.domain = 4 then
        let ys := (unitsIn 3 base (max 8 size)).map yardNum
        decide (l.extent ≤ (ys.map (yardRoom s t pins)).sum) &&
          ys.all (fun y => decide (((pinsIn pins lo l.extent).filter (fun p => yardNum p == y)).length ≤ yardRoom s t pins y))
      else
        let unitOf := fun i => (groups.getD i []).headD 0 / domainCores l.domain * domainCores l.domain
        let taken := pinned.map unitOf
        let open_ := (unitsIn l.domain base size).filter (fun u => !taken.contains u)
        pinned.all (fun i => fitsIn s t pins ls (lo + i * stride) (unitOf i) (domainCores l.domain)) &&
          decide (l.extent ≤ pinned.length +
            (open_.filter (fun u => fitsIn s t [] ls 0 u (domainCores l.domain))).length))

/-- The levels that place cores. -/
def coreLevels (t : Task) : List Level := t.levels.filter (fun l => !isCtxLevel l)

/-- The cores that hold ways retained for the task, with the logical core number each is for (R291). -/
def taskPins (s : State) (t : Task) : List (Nat × Nat) :=
  (keys s.phys).filterMap (fun p => (keptFor s t p).map (fun l => (l, p)))

/-- Does the task fit with every retained core in its place? -/
def fitsPinned (s : State) (t : Task) : Bool := fitsIn s t (taskPins s t) (coreLevels t) 0 0 2048

/-- Does the task fit at all? -/
def fits (s : State) (t : Task) : Bool := fitsPinned s t || fitsIn s t [] (coreLevels t) 0 0 2048

/-- May the dispatcher place a task of this virtual function (R361, R388)? It must be the running function of its
partition. -/
def mayRun (s : State) (t : Task) : Bool :=
  s.security == .verified && s.modPower == .active &&
    (partOf s t.part).running == some t.vf

/-- Does task u come before task t in the ready pool (R286)? -/
def before (u t : Task) : Bool := decide (t.level < u.level) || (t.level == u.level && decide (u.seq < t.seq))

/-- STARVATION_HOLD: no other task is placed until that one is. Of several tasks that starve the one that stands first
in the
pool holds the dispatcher: the spec does not say which of two that reach 4 ms in the same tick does (log 43). -/
def execStarvationHold (task : Nat) (s : State) : Res :=
  match taskOf s task with
  | some t =>
    if starves s t && s.starved.isNone && s.tasks.all (fun e => e.1 == task || !starves s e.2 || !before e.2 t) then
      .next { s with starved := some task }
    else .next s
  | none => .next s

/-- Is it this task's turn: no task before it fits, and no other task holds the dispatcher (R286)? -/
def placeTurn (s : State) (t : Task) : Bool :=
  (match s.starved with
    | some x => x == t.num
    | none => true) &&
  s.tasks.all (fun e => e.2.num == t.num || e.2.stage != .ready || !before e.2 t || !mayRun s e.2 || !fits s e.2)

/-- The unit indices of a logical core at the levels that place cores, outermost first (R279). -/
def unitPath (ls : List Level) (lcn : Nat) : List Nat := (List.range ls.length).map (fun i => unitIndex ls lcn i)

/-- Does each unit of each level lie on its own physical unit, inside the enclosing one (R287)? -/
def unitsOk (ls : List Level) (cores : List Nat) : Bool :=
  (List.range ls.length).all (fun i =>
    let d := (ls.getD i ⟨4, 0, 1, 0⟩).domain
    (List.range cores.length).all (fun a => (List.range cores.length).all (fun b =>
      let same := (unitPath ls a).take (i + 1) == (unitPath ls b).take (i + 1)
      let inside := (unitPath ls a).take i == (unitPath ls b).take i
      let p := cores.getD a 0 / domainCores d
      let q := cores.getD b 0 / domainCores d
      if same then p == q else (!inside || p != q))))

/-- Are the cores chosen a placement of the crew (R222, R287, R291, R357)? Where not every retained core can be met at once,
none is: which of them are given up the spec leaves open (log 43). -/
def placementOk (s : State) (t : Task) (cores : List Nat) : Bool :=
  let pins := if fitsPinned s t then taskPins s t else []
  cores.length == crewSize t.levels && cores.Nodup && cores.all (coreUsable s t pins) && unitsOk (coreLevels t) cores &&
    (cores.map yardNum).dedup.all (fun y => accsFit s t y ((cores.filter (fun p => yardNum p == y)).length)) &&
    pins.all (fun e => cores.getD e.1 2048 == e.2)

/-! ### Placing (R287, R299 to R301) -/

/-- A wake request for a core (R300, R301). -/
def wakeCore (s : State) (p : Nat) : State :=
  match (physOf s p).power with
  | .off => modRow (modPhys s p (fun q => { q with power := .queued s.ticks })) (rowNum p)
      (fun r => { r with inrush := r.inrush ++ [p] })
  | _ => s

/-- A logical core arrives on a core that holds no other: divider 1 (R299), nothing left of a core that had retired there
(R300), a round-robin order that begins with the lowest index (R111, log 43), and a wake request. -/
def arriveOn (s : State) (p : Nat) : State :=
  let s1 := if (coresOn s p).isEmpty then
      modPhys s p (fun q => { q with clkdiv := 0#64, divCount := 0, rest := [], rr := [] }) else s
  wakeCore s1 p

/-- An accumulator name of a logical core is served by a free physical accumulator, which one is open (R222, log 5),
holding the given elements; none of them is lost any more. -/
def serveAcc (s : State) (lc y : Nat) (content : Sparse (BitVec 32)) (n : Nat) : State :=
  let fs := freeAccs (yardOf s y)
  let a := fs.getD ((Config.freeValue s.taken).toNat % fs.length) 0
  let s1 := modYard { s with taken := s.taken + 1 } y (fun q =>
    { q with owner := put q.owner a (lc + 1), acc := setD [] q.acc a content, lost := erase q.lost a })
  modCore s1 lc (fun c => { c with mxacc := setBits (setBits c.mxacc n n 1) (3 * n + 10) (3 * n + 8) a })

/-- The position of a logical core within its yard, and the crew's cores in that yard (R222). -/
def yardPlace (cores : List Nat) (n : Nat) : Nat × Nat :=
  let y := yardNum (cores.getD n 0)
  (((cores.take n).filter (fun p => yardNum p == y)).length, (cores.filter (fun p => yardNum p == y)).length)

/-- A logical core with the ways retained for it (R291): a foldable task's core holds seven ways at most (R168), and of more
retained ways those above are lost (log 43). -/
def withKept (fold : Bool) (k : Kept) (c : LCore) : LCore :=
  let w := if fold then min k.ways 7 else k.ways
  { c with ways := w, stash := k.stash.filter (fun e => decide (e.1 < w * wayBytes))
           tiles := k.tiles.filter (fun e => decide (tileStart e.2 + e.2.size ≤ w * wayBytes)) }

/-- The logical core as it starts on a physical core (R287, R291). -/
def placedCore (s : State) (t : Task) (n p : Nat) : LCore :=
  let base := { LCore.reset with
    lstate := 1, phys := p, ctxs := setD Ctx.reset [] 0 (startedCtx t.seed n 0 (word t.entry) (word t.record)) }
  match (physOf s p).kept with
  | some k => if k.record = t.record ∧ k.asid = t.asid ∧ k.lcn = n then withKept t.fold k base else base
  | none => base

/-- Place logical core n of a task. -/
def placeCore (t : Task) (cores : List Nat) (s : State) (n : Nat) : State :=
  let p := cores.getD n 0
  let lc := lcKey t.num n
  let s1 := setCore (arriveOn s p) lc (placedCore s t n p)
  let pos := yardPlace cores n
  (accNames t pos.2 pos.1).foldl (fun u a => serveAcc u lc (yardNum p) [] a) s1

/-- Retained ways for a task that has been placed are gone from every core (R291). -/
def dropKept (s : State) (asid record : Nat) : State :=
  { s with phys := updWhere s.phys (fun _ => true) (fun q => some (match q.kept with
      | some k => if k.record = record ∧ k.asid = asid then { q with kept := none, idleSince := s.ticks } else q
      | none => q)) }

/-- Is every core of a task's crew powered? -/
def crewPowered (s : State) (task : Nat) : Bool :=
  s.cores.all (fun e => taskNum e.1 != task || (match standsOn s e.1 with
    | some p => (physOf s p).power == .on
    | none => true))

/-- Heads start together once every core of the crew is powered (R287). The start of a head is an acquire at SYS (R256). -/
def beginCrew (s : State) (task : Nat) : State :=
  if crewPowered s task then
    ((keys s.cores).filter (fun lc => taskNum lc == task)).foldl (fun u lc => acquire u lc scopeSys)
      (modTask s task (fun t => { t with begun := true }))
  else s

/-- The crew is placed. -/
def placeCrew (s : State) (t : Task) (cores : List Nat) (bank : List Word) : State :=
  let s1 := (List.range cores.length).foldl (placeCore t cores) s
  let s2 := modTask (dropKept s1 t.asid t.record) t.num (fun x =>
    { x with stage := .placed, bank := bank, tstart := some (x.tstart.getD s.ticks), barriers := [], begun := false })
  beginCrew { s2 with starved := if s2.starved = some t.num then none else s2.starved } t.num

/-- PLACE_TASK: the dispatcher places a ready task on the cores it chose, once it has read the constant bank (R278,
R285, R287). Neither R281 nor R333 says what becomes of a CONST or COMPL that lies in the stash window, which is no
address of
global memory (R157): the model's choice is that the dispatcher's access parks, as at an address that does not translate
(log
43). -/
def execPlaceTask (task : Nat) (cores : List Nat) (s : State) : Res :=
  match taskOf s task with
  | some t =>
    if t.stage ≠ .ready ∨ isParked s (.bank task) ∨ mayRun s t = false ∨ placeTurn s t = false ∨
        placementOk s t cores = false then .next s
    else if t.const = 0 then .next (placeCrew s t cores [])
    else match readWords t.asid 64 t.const [] s with
      | (u, .got ws) => .next (placeCrew u t cores ws)
      | (u, .fails va e) => .next (park u 1 6 t.asid va 0 e task (.bank task))
      | (u, .waits) => .next u
  | none => .next s

/-! ### Completion (R282, R290) -/

/-- Have all logical cores of a task retired, or has it ended without a crew? -/
def taskOver (s : State) (t : Task) : Bool :=
  t.stage == .done ||
    (t.stage == .placed && !t.rolling && (List.range (crewSize t.levels)).all (fun n => (coreOf s (lcKey t.num n)).retired))

/-- Has everything that acts for the task come to rest? -/
def taskQuiet (s : State) (t : Task) : Bool :=
  t.walks.isEmpty && s.pubs.all (fun p => p.task != t.num) &&
    s.flights.all (fun f => match f with
      | .offer o => o.task != t.num
      | .settle r => r.task != t.num) &&
    s.mills.all (fun e => e.2.queue.all (fun o => o.task != t.num) && e.2.slots.all (fun o => o.task != t.num)) &&
    s.writes.all (fun w => taskNum w.lc != t.num)

/-- The eight words of the completion record (R282). TSTART of a task that has never been placed is 0: R282 names no other
(log 43). -/
def complWords (s : State) (t : Task) : List Word :=
  [word (t.cause % 256), word t.num, word (t.tstart.getD 0), word s.ticks, word t.dropped, word t.rollbacks, 0#64, 0#64]

/-- The number that the words of a record stand for. -/
def wordsNat (ws : List Word) : Nat := ofBytes (ws.flatMap (fun w => toBytes 8 w.toNat))

/-- A credit is kept for a record (R290). -/
def keepCredit (s : State) (key : Nat) : State :=
  { s with credits := setD 0 s.credits key (min 65535 (getD 0 s.credits key + 1)) }

/-- PRED of the pending task at a record address of the address space is decremented, or a credit is kept (R290). A pending
task whose PRED is 0 already takes no decrement: the credit is kept for a later entry (log 43). -/
def creditSuccessor (s : State) (asid ra : Nat) : State :=
  if ra = 0 then s
  else match s.tasks.find? (fun e => e.2.record == ra && e.2.asid == asid && e.2.stage == .pending) with
    | some e =>
      if e.2.pred = 0 then keepCredit s (recordKey asid ra) else modTask s e.1 (fun t => { t with pred := t.pred - 1 })
    | none => keepCredit s (recordKey asid ra)

/-- Every sprint lease of a task ends, as SPREL ends it (R290, R296). -/
def endTaskLeases (s : State) (task : Nat) : State :=
  (keys s.rows).foldl (fun t r => if (rowOf t r).leaseTask = task then endLease t r false else t) s

/-- A header word as the stack that stores it holds it. -/
def storedWord (s : State) (a : Nat) : Word :=
  (match mscOfFrame s a with
    | some l => l.data
    | none => frameLine s (a / 128 * 128)).extractLsb' (8 * (a % 128)) 64

/-- The objects a task owns in a state. -/
def ownedObjects (s : State) (task state : Nat) : List Obj :=
  (s.gtags.filter (fun e => e.2 == tagHeader)).filterMap (fun e =>
    let o : Obj := ⟨e.1 * 8, storedWord s (e.1 * 8)⟩
    if o.owner = task ∧ o.state = state then some o else none)

/-- The dispatcher forgets a task and its logical cores. -/
def forgetTask (s : State) (task : Nat) : State :=
  { s with
    tasks := erase s.tasks task
    cores := s.cores.filter (fun e => taskNum e.1 != task)
    words := s.words.filter (fun w => taskNum w.dest != task)
    starved := if s.starved = some task then none else s.starved }

/-- The steps of R290 after the completion record. -/
def completeTask (s : State) (t : Task) : State :=
  let s1 := if t.cause = 0 then creditSuccessor (creditSuccessor s t.asid t.succ0) t.asid t.succ1 else s
  let s2 := endTaskLeases s1 t.num
  forgetTask ((ownedObjects s2 t.num objPrivate).foldl freeObject s2) t.num

/-- TASK_COMPLETE (R290): the completion record is written; a failed translation parks it (R282). It is written whatever the
page's permission or class, a point on which the spec is silent (log 43). -/
def execTaskComplete (task : Nat) (s : State) : Res :=
  match taskOf s task with
  | some t =>
    if !taskOver s t || !taskQuiet s t || isParked s (.completion task) then .next s
    else if t.compl = 0 then .next (completeTask s t)
    else match translate s t.asid t.compl with
      | .fail e => .next (park s 1 6 t.asid t.compl 0 e task (.completion task))
      | .ok p =>
        let v := wordsNat (complWords s t)
        if mscReady s t.asid t.compl 64 v p then .next (completeTask (mscWrite s t.asid t.compl 64 v p 0) t)
        else if halfBlocks s (lineKey t.asid t.compl) (spanMask (t.compl % 128) 64) true then .next s
        else .next (parkFull s 6 t.asid t.compl p task ⟨.completion task, t.compl, []⟩)
  | none => .next s

/-- The time of retention is over (R291). Whether a task waits for the ways is asked when the HALT completes. -/
def keptOver (s : State) (p : Nat) : Bool :=
  match (physOf s p).kept with
  | some k => decide (k.since + 10 * msTicks ≤ s.ticks)
  | none => false

/-- STASH_RETENTION_LAPSE (R291). -/
def execStashRetentionLapse (p : Nat) (s : State) : Res :=
  if keptOver s p then .next (modPhys s p (fun q => { q with kept := none, idleSince := s.ticks })) else .next s

end Sys2Proof.Machine
end

