-- ==== Sys2Proof/Machine/Moves.lean ====
section
/-! DEFINITION. Which contexts may run, resuming a context, the moves of logical cores, and the running function of a
partition
(spec/14_launch.md R289, R397; spec/13_ordering.md R255; spec/16_traps.md R313, R325; spec/22_prog_counters.md R388). -/

namespace Sys2Proof.Machine

/-! ### Resuming (R313, R350) -/

/-- A context is resumed, or made to execute one instruction: a FENCE.acq PKG comes before its next instruction. -/
def resumeCtx (s : State) (lc c : Nat) (step : Bool) : State :=
  modCtx (thaw s lc c) lc c (fun x => { x with stepping := step, dctl := 0, fence := true })

/-- The task of a logical core is rolling back: requests to its contexts are dropped (R350). -/
def rollingBack (s : State) (lc : Nat) : Bool :=
  match taskOf s (taskNum lc) with
  | some t => t.rolling
  | none => false

/-- Has a context a packet that is not yet written (R308)? -/
def packetWaits (s : State) (lc c : Nat) : Bool := s.packets.any (fun p => p.lc == lc && p.ctx == c)

/-- The RESUME or STEP that a context held acts, when its logical core is restored (R314) and its packet has been written
(R308). -/
def actHeld (s : State) (lc c : Nat) : State :=
  let x := ctxOf s lc c
  if x.live ∧ x.frozen ∧ (x.dctl = 1 ∨ x.dctl = 2) ∧ packetWaits s lc c = false then
    if rollingBack s lc then modCtx s lc c (fun y => { y with dctl := 0 }) else resumeCtx s lc c (x.dctl == 2)
  else s

/-! ### Who may run -/

/-- Has the crew of a logical core begun (R287)? The reeve firmware's cores belong to no task. -/
def crewBegun (s : State) (lc : Nat) : Bool :=
  match taskOf s (taskNum lc) with
  | some t => t.begun
  | none => taskNum lc == 0

/-- Does a logical core stand on a powered core (R288, R300)? -/
def corePowered (s : State) (lc : Nat) : Bool :=
  match standsOn s lc with
  | some p => (physOf s p).power == .on
  | none => false

/-- Has a context sent a word that its router holds for a logical core that has retired (R123)? -/
def heldForRetired (s : State) (lc c : Nat) : Bool :=
  s.words.any (fun w => w.sender == some (lc, c) && (coreOf s w.dest).retired)

/-- Is a context parked: its access, its fetch, its LAUNCH, or a write of its release (R159, R335)? -/
def parkedCtx (s : State) (lc c : Nat) : Bool :=
  isParked s (.access lc c) || isParked s (.fetch lc c) || isParked s (.launch lc c) || writeParked s lc c

/-- May a context take a turn: it is live and not frozen, its core is powered, its crew has begun and is not rolling
back (R350), but for a consumer that a pending cause waits for (R50), it is not parked, and no word of its waits for a
logical core that has retired? -/
def runnable (s : State) (lc c : Nat) : Bool :=
  let x := ctxOf s lc c
  x.live && !x.frozen && corePowered s lc && crewBegun s lc && (!rollingBack s lc || !x.pend.isEmpty) && !parkedCtx s lc c &&
    !heldForRetired s lc c

/-! ### The conditions every move meets (R124, R168, R237, R255) -/

/-- Does a context stand between instructions, or at a word that it begins again after a move: an interruptible wait, or a
parked request (R103, R255, R335)? -/
def atBoundary (s : State) (lc : Nat) (e : Nat × Ctx) : Bool :=
  decide (e.2.stage = .idle) || interruptible e.2 || parkedCtx s lc e.1

/-- May a context move now (R103, R255)? It stands at a boundary, its loads have completed, and so have its offers and
settles, but for those that are parked, which are replayed to its new place (R335). -/
def ctxMovable (s : State) (lc : Nat) (e : Nat × Ctx) : Bool :=
  !e.2.live || (atBoundary s lc e && e.2.loads.isEmpty &&
    e.2.ypend.all (fun y => isParked s (.offer lc e.1 y) || isParked s (.settle lc e.1 y)))

/-- Has a logical core a job outstanding? -/
def hasJobs (s : State) (lc : Nat) : Bool := s.yards.any (fun y => y.2.jobs.any (fun j => j.lc == lc))

/-- May a logical core move now? -/
def moveReady (s : State) (lc : Nat) : Bool :=
  let c := coreOf s lc
  c.ctxs.all (ctxMovable s lc) && c.tiles.all (fun t => !moving t.2) && !hasJobs s lc &&
    c.resizing.isNone && s.writes.all (fun w => w.lc != lc)

/-- The first-level cache of a logical core that moves holds no line any more. -/
def emptyL1 (s : State) (lc : Nat) : State :=
  modCore s lc (fun c => { c with l1 := [], maps := c.maps.map (fun m => { m with dirty := [] }) })

/-- The fence of a move (R255), then the move: every dirty byte of the core reaches the MSC, its contexts acquire at PKG,
and the first-level cache is empty. A write that cannot land parks, and the move waits. -/
def fenceThen (s : State) (lc : Nat) (k : State → State) : State :=
  match flushCore s lc with
  | (t, none) => k (emptyL1 (acquire t lc scopePkg) lc)
  | (t, some w) => parkWrite t w

/-- The accumulator names a logical core owns (R222). -/
def ownedNames (c : LCore) : List Nat := (List.range 8).filter (ownsAcc c)

/-- Has the engine of yard y a free accumulator for every name of a core whose accumulators lie in another yard? -/
def accRoom (s : State) (lc y : Nat) : Bool :=
  yardNum (homePhys (coreOf s lc)) == y ||
    decide ((ownedNames (coreOf s lc)).length ≤ (freeAccs (yardOf s y)).length)

/-- The accumulators of a logical core are copied from one yard into free accumulators of another and freed there
(R237, R397). -/
def moveAccs (s : State) (lc a b : Nat) : State :=
  if a = b then s
  else
    let c := coreOf s lc
    let contents := (ownedNames c).map (fun n => (n, getD [] (yardOf s a).acc (accPhys c n)))
    let s1 := modYard s a (fun y => { y with owner := y.owner.filter (fun e => e.2 != lc + 1) })
    contents.foldl (fun t e => serveAcc t lc b e.2 e.1) s1

/-- A physical core that its last logical core has left is idle from now on. -/
def leaveCore (s : State) (p : Nat) : State :=
  if (coresOn s p).isEmpty then modPhys s p (fun q => { q with idleSince := s.ticks }) else s

/-- The free cores of a die in the yards of a logical core's partition. -/
def freeCores (s : State) (lc die : Nat) : List Nat :=
  let ys := (partOf s (partOfCore s lc).1).yards
  ((List.range 256).map (fun i => die * 256 + i)).filter (fun p => coreFree s p && ys.contains (yardNum p))

/-- A logical core moves to a physical core that holds no other (R289, R299). -/
def moveTo (s : State) (lc p : Nat) : State :=
  let c := coreOf s lc
  let a := yardNum (homePhys c)
  let s1 := moveAccs (arriveOn s p) lc a (yardNum p)
  let s2 := modCore s1 lc (fun k => { k with phys := p, left := 0, storedIn := none, lstate := 1, half := false })
  if c.lstate = 4 then freeHost s2 c.storedIn else leaveCore s2 c.phys

/-! ### Thermal migration -/

/-- Is the sensor of a core over its limit (R304)? -/
def sensorAbove (s : State) (n : Sensor) : Bool :=
  match s.sensors.find? (fun e => e.1 == n) with
  | some e => e.2.above
  | none => false

/-- THERMAL_MIGRATION (R289): a logical core on a core over its limit moves to a cool idle core of the die. -/
def execThermalMigration (lc p : Nat) (s : State) : Res :=
  match standsOn s lc with
  | some q =>
    if sensorAbove s (.core q) && !sensorAbove s (.core p) && dieOf p == dieOf q && (freeCores s lc (dieOf q)).contains p &&
        accRoom s lc (yardNum p) && moveReady s lc then
      .next (fenceThen s lc (fun t => moveTo t lc p))
    else .next s
  | none => .next s

/-! ### Spatial pre-emption and unfolding -/

/-- How many logical cores of a task are folded. -/
def foldedCount (s : State) (task : Nat) : Nat :=
  (s.cores.filter (fun e => taskNum e.1 == task && e.2.lstate == 3)).length

/-- Does a ready task of higher level not fit (R289)? -/
def pressed (s : State) (t : Task) : Bool :=
  s.tasks.any (fun e => e.2.stage == .ready && decide (t.level < e.2.level) && mayRun s e.2 && !fits s e.2)

/-- May a queue be halved: does every queue of a logical core hold at most 8 words (R124)? -/
def queuesSmall (c : LCore) : Bool := c.queues.all (fun q => decide (q.2.length ≤ 8))

/-- May logical core lc fold onto logical core v of its crew? Both are placed, alone on their cores, on one die, and v's
core retains no ways: no logical core moves onto one that does (R291). -/
def foldsOnto (s : State) (lc v : Nat) : Bool :=
  let a := coreOf s lc
  let b := coreOf s v
  lc != v && taskNum lc == taskNum v && a.lstate == 1 && b.lstate == 1 && dieOf a.phys == dieOf b.phys &&
    (coresOn s a.phys).length == 1 && (coresOn s b.phys).length == 1 && (physOf s b.phys).kept.isNone &&
    queuesSmall a && queuesSmall b && accRoom s lc (yardNum b.phys)

/-- Is v in lc's yard, when some surviving core there could take it? -/
def yardPreferred (s : State) (lc v : Nat) : Bool :=
  let y := yardNum (coreOf s lc).phys
  yardNum (coreOf s v).phys == y ||
    !((keys s.cores).any (fun u => foldsOnto s lc u && yardNum (coreOf s u).phys == y))

/-- A logical core folds onto another's physical core, as its second one (R289, R299). -/
def foldOnto (s : State) (lc v : Nat) : State :=
  let p := (coreOf s v).phys
  let q := (coreOf s lc).phys
  let s1 := moveAccs (wakeCore s p) lc (yardNum q) (yardNum p)
  leaveCore (modCore s1 lc (fun k => { k with phys := p, lstate := 3, half := true })) q

/-- SPATIAL_PREEMPTION (R289): the dispatcher vacates a core of a foldable crew for a ready task of higher level. -/
def execSpatialPreemption (lc v : Nat) (s : State) : Res :=
  match taskOf s (taskNum lc) with
  | some t =>
    if t.fold && pressed s t && foldsOnto s lc v && yardPreferred s lc v && moveReady s lc && moveReady s v &&
        decide (2 * (foldedCount s t.num + 1) ≤ crewSize t.levels) then
      .next (fenceThen s lc (fun u => foldOnto u lc v))
    else .next s
  | none => .next s

/-- UNFOLD (R289): a folded logical core takes a free core of the die. -/
def execUnfold (lc p : Nat) (s : State) : Res :=
  let c := coreOf s lc
  if c.lstate == 3 && dieOf p == dieOf c.phys && (freeCores s lc (dieOf c.phys)).contains p && accRoom s lc (yardNum p) &&
      moveReady s lc then
    .next (fenceThen s lc (fun t => moveTo t lc p))
  else .next s

/-! ### Lodging and restoration -/

/-- Is a lodging slot of a die free (R288)? -/
def slotFree (s : State) (die slot : Nat) : Bool :=
  s.cores.all (fun e => !(e.2.lstate == 4 && e.2.phys == die * 256 + slot))

/-- Are all live contexts of a logical core frozen, as the world switch leaves them (R358, R388)? -/
def allFrozen (c : LCore) : Bool := c.ctxs.all (fun x => !x.2.live || x.2.frozen)

/-- Does a core advertise free register or stash space (R289): a shared block, or a way that no logical core on it holds? -/
def advertises (s : State) (p : Nat) : Bool :=
  let on := coresOn s p
  !(physOf s p).skipped &&
    (decide (on.foldl (fun n k => n + sharedScalar (coreOf s k)) 0 < 45) ||
      decide (on.foldl (fun n k => n + sharedVector (coreOf s k)) 0 < 48) ||
      decide (on.foldl (fun n k => n + (coreOf s k).ways) 0 < 14))

/-- The cores of the die that could hold the image of a core that is lodged. -/
def neighbours (s : State) (q : Nat) : List Nat :=
  ((List.range 256).map (fun i => dieOf q * 256 + i)).filter (fun n => n != q && advertises s n)

/-- The core that takes the image: one that is powered, if any (log 43). -/
def lodgeHost (s : State) (q : Nat) : Option Nat :=
  match (neighbours s q).find? (fun n => (physOf s n).power == .on) with
  | some n => some n
  | none => (neighbours s q).head?

/-- A logical core leaves for its lodging slot, its image in the space of core n. -/
def lodge (s : State) (lc q slot n : Nat) : State :=
  leaveCore (modCore s lc (fun k =>
    { k with left := q, storedIn := some n, phys := dieOf q * 256 + slot, lstate := 4, half := false })) q

/-- LODGING (R289, R388): a core is cleared while its die has no idle core for it, or in a world switch. The core that
takes the image is woken first (R300). -/
def execLodging (lc slot : Nat) (s : State) : Res :=
  match standsOn s lc with
  | some q =>
    if slotFree s (dieOf q) slot && ((freeCores s lc (dieOf q)).isEmpty || allFrozen (coreOf s lc)) && moveReady s lc then
      match lodgeHost s q with
      | some n =>
        if (physOf s n).power = .on then .next (fenceThen s lc (fun t => lodge t lc q slot n)) else .next (wakeCore s n)
      | none => .next s
    else .next s
  | none => .next s

/-- The core a lodged logical core is restored to (R397). -/
def restoreTarget (s : State) (lc : Nat) : Option Nat :=
  let c := coreOf s lc
  if coreFree s c.left then some c.left
  else match (yardCores (yardNum c.left)).find? (coreFree s) with
    | some p => some p
    | none => (freeCores s lc (dieOf c.left)).find? (fun p => accRoom s lc (yardNum p))

/-- LODGE_RESTORE (R397): a request its contexts held acts then (R314). -/
def execLodgeRestore (lc p : Nat) (s : State) : Res :=
  if (coreOf s lc).lstate = 4 ∧ restoreTarget s lc = some p then
    .next ((List.range 11).foldl (fun t c => actHeld t lc c) (moveTo s lc p))
  else .next s

/-! ### The running function (R388) -/

/-- RUNNING_FUNCTION_CHANGE: the reeve reports the last step of a world switch, and the partition's running function
changes with
that report. In STANDBY no reeve is powered that could report it (R361). -/
def execRunningFunctionChange (part vf : Nat) (s : State) : Res :=
  if s.modPower ≠ .standby ∧ (vfOf s vf).part = part then .next (modPart s part (fun p => { p with running := some vf }))
  else .next s

end Sys2Proof.Machine
end

