-- ==== Sys2Proof/Machine/Power.lean ====
section
/-! DEFINITION. Sprint leases, the heat store, power switches, droop and temperature thresholds
(spec/15_sprint.md R292 to R304; spec/21_prog_droop.md R377 to R379; spec/07_vector.md R155). -/

namespace Sys2Proof.Machine

/-! ### SPRINT and SPREL (R294 to R296) -/

/-- The row of the current context's core. -/
def myRow (s : State) : Nat := rowNum (myCore s).phys

/-- SPRINT (R294). -/
def execSprint (d : F6) (a : Opnd) (s : State) : Res :=
  issue ⟨[a], some d.toNat, [], []⟩ s (fun t =>
    let r := leaseAsk t (myRow t) (taskNum t.cur.1) (valB t a).toNat
    finish ⟨[a], some d.toNat, [], []⟩ long r.1 (word r.2))

/-- The row's lease is the caller's task's (R296). -/
def leaseIsMine (s : State) : Bool :=
  (rowOf s (myRow s)).leaseLive && (rowOf s (myRow s)).leaseTask == taskNum s.cur.1

/-- SPREL (R296). -/
def execSprel (s : State) : Res :=
  finish ⟨[], none, [], []⟩ long (if leaseIsMine s then endLease s (myRow s) false else s) 0#64

/-! ### The lease's time and the rail (R294, R297) -/

/-- LEASE_EXPIRY (R297): the time of the row's lease has run out. -/
def execLeaseExpiry (row : Nat) (s : State) : Res :=
  if (rowOf s row).leaseLive && decide ((rowOf s row).leaseEnd ≤ s.ticks) then .next (endLease s row true) else .next s

/-- The engines of a row that are idle take the row's sprint clock at once (R220). -/
def idleEnginesSprint (s : State) (row : Nat) : State :=
  [2 * row, 2 * row + 1].foldl settleClock s

/-- ROW_CLOCK_RAISE (R294): the rail has settled and the row clock rises. -/
def execRowClockRaise (row : Nat) (s : State) : Res :=
  let r := rowOf s row
  if r.leaseLive && r.railUp && !r.sprint then
    .next (idleEnginesSprint (modRow s row (fun q => { q with sprint := true })) row)
  else .next s

/-! ### The heat store (R292, R297) -/

/-- Every live lease ends. -/
def endAllLeases (s : State) : State := (keys s.rows).foldl (fun t r => endLease t r true) s

/-- Is the update of PERMILLE due, one millisecond after the last one (R292)? In STANDBY the store's sensors are not powered
(R361). -/
def meltDue (s : State) : Bool := s.modPower != .standby && decide (s.meltAt + msTicks ≤ s.ticks)

/-- MELT_UPDATE (R292), once every millisecond: a reading of 1,000 or of a faulty sensor ends every lease; one of 300 or
less
ends the refreeze interval. -/
def execMeltUpdate (permille : Nat) (s : State) : Res :=
  if meltDue s then
    let s1 := { s with melt := permille, meltAt := s.ticks, rfz := s.rfz && decide (300 < permille) }
    .next (if 1000 ≤ permille then endAllLeases s1 else s1)
  else .next s

/-! ### Temperature thresholds (R304) -/

/-- The threshold of a sensor, in tenths of a degree. -/
def threshold : Sensor → Nat
  | .core _ => 1050
  | .row _ => 1000
  | .base _ => 950
  | .trip _ => 1150

/-- Is a sensor over its threshold at a temperature? One that is over releases 3 degrees below. -/
def overAt (n : Sensor) (above : Bool) (tenths : Nat) : Bool :=
  if above then decide (threshold n < tenths + 30) else decide (threshold n ≤ tenths)

/-- A sensor that is not over and has made no transition. -/
def Sense.reset : Sense := ⟨false, none, none⟩

/-- What is known of a sensor's threshold. -/
def senseOf (s : State) (n : Sensor) : Sense :=
  match s.sensors.find? (fun e => e.1 == n) with
  | some e => e.2
  | none => Sense.reset
def setSense (s : State) (n : Sensor) (x : Sense) : State :=
  { s with sensors := (if x = Sense.reset then [] else [(n, x)]) ++ s.sensors.filter (fun e => e.1 != n) }

/-- Is some sensor over the package trip? -/
def anyTrip (s : State) : Bool := s.sensors.any (fun e => e.2.above && (match e.1 with
  | .trip _ => true
  | _ => false))

/-- The action of a threshold once its sensor has gone over it or released. -/
def senseAction (s : State) (n : Sensor) (above : Bool) : State :=
  match n with
  | .core _ => s
  | .row r =>
    let s1 := modRow s r (fun q => { q with hot := above })
    if above then endLease s1 r true else s1
  | .base k => modStack s k (fun q => { q with throttled := above })
  | .trip _ =>
    let s1 := { s with trip := anyTrip s }
    if above then endAllLeases s1 else s1

/-- A sensor makes its transition. -/
def transit (s : State) (n : Sensor) (above : Bool) : State :=
  senseAction (setSense s n ⟨above, some s.ticks, none⟩) n above

/-- Is a sensor in the dwell that follows its last transition? -/
def dwelling (s : State) (x : Sense) : Bool :=
  match x.since with
  | some t => decide (s.ticks < t + msTicks)
  | none => false

/-- TEMP_THRESHOLD_CROSSING: a sensor reads a temperature, in tenths of a degree; a crossing is acted on at once, or kept
for the end of the dwell. A reading on the side where the sensor already is leaves nothing pending. -/
def execTempThresholdCrossing (n : Sensor) (tenths : Nat) (s : State) : Res :=
  let x := senseOf s n
  let above := overAt n x.above tenths
  if above = x.above then .next (if x.pending.isNone then s else setSense s n { x with pending := none })
  else if dwelling s x then .next (setSense s n { x with pending := some above })
  else .next (transit s n above)

/-- DWELL_END: a crossing still pending is acted on. -/
def execDwellEnd (n : Sensor) (s : State) : Res :=
  let x := senseOf s n
  if x.since.isNone || dwelling s x then .next s
  else match x.pending with
    | some above => .next (transit s n above)
    | none => .next (setSense s n { x with since := none })

/-! ### Power switches (R300, R301) -/

/-- The break-even hold, an in-rush slot, and the time an admitted core takes, in ticks. -/
def holdTicks : Nat := 3600
def slotTicks : Nat := 45
def readyTicks : Nat := 315

/-- A core with nothing to keep, no image of a lodged core among it, has been idle for the hold. -/
def idleOver (s : State) (p : Nat) : Bool :=
  let q := physOf s p
  q.power == .on && (coresOn s p).isEmpty && q.kept.isNone && decide (q.idleSince + holdTicks ≤ s.ticks) &&
    s.cores.all (fun e => e.2.storedIn != some p)

/-- CORE_POWER_DOWN (R300). -/
def execCorePowerDown (p : Nat) (s : State) : Res :=
  if idleOver s p then .next (modPhys s p (fun q => { q with power := .off })) else .next s

/-- POWER_UP_ADMIT (R301): the arbiter admits the oldest request, one every 25 ns. -/
def execPowerUpAdmit (row : Nat) (s : State) : Res :=
  let r := rowOf s row
  match r.inrush with
  | p :: ps =>
    if r.inrushNext ≤ s.ticks then
      .next (modPhys (setRow s row { r with inrush := ps, inrushNext := s.ticks + slotTicks }) p
        (fun q => { q with power := .waking s.ticks }))
    else .next s
  | [] => .next s

/-- CORE_READY (R301): an admitted core is powered; a crew whose cores are all powered starts (R287). -/
def execCoreReady (p : Nat) (s : State) : Res :=
  match (physOf s p).power with
  | .waking _ =>
    let s1 := modPhys s p (fun q => { q with power := .on, idleSince := s.ticks })
    .next ((coresOn s1 p).foldl (fun t lc => beginCrew t (taskNum lc)) s1)
  | _ => .next s

/-- LANE_GATE (R155): the lanes gate after 256 cycles without a vector instruction. -/
def execLaneGate (p : Nat) (s : State) : Res :=
  if 256 ≤ (physOf s p).vIdle then .next (modPhys s p (fun q => { q with gated := true })) else .next s

/-! ### Droop (R302, R303, R377 to R379) -/

def rowTH (r : Row) : Nat := bits r.drth 7 0
/-- The pulses of a yard in any 1 µs window, and the width of a pulse in ns. -/
def rowDuty (r : Row) : Nat := min (bits r.cinj 15 8) 16
def rowPW (r : Row) : Nat := min (bits r.cinj 4 0) 20

/-- Is a sample of this depth, in mV, below (R377)? A threshold of 0 disables the detector. -/
def sampleBelow (r : Row) (depth : Nat) : Bool := rowTH r != 0 && decide (2 * rowTH r ≤ depth)

/-- The cores of a row start a halved period afresh (R378). -/
def freshHalves (s : State) (row : Nat) : State :=
  (List.range 16).foldl (fun t i => modPhys t (16 * row + i) (fun q => { q with halfPhase := false })) s

/-- DROOP_ALARM: the row rail is sampled at the end of a cycle (R377). Samples of stretched cycles are masked; an unmasked
sample that crosses the threshold raises the alarm, and the sequence starts with the next cycle. -/
def execDroopAlarm (row depth : Nat) (s : State) : Res :=
  let r := rowOf s row
  let b := sampleBelow r depth
  if r.droop = .stretched then .next (setRow s row { r with railBelow := b })
  else if b && !r.below then
    .next (setRow s row { r with
      alarms := (r.alarms + 1) % 2 ^ 32, droop := .stretched, droopLeft := 6, below := true, railBelow := true })
  else .next (setRow s row { r with below := b, railBelow := b })

/-- STRETCH_END (R303): the stretched cycles are over, and 64 halved ones follow, afresh (R378). -/
def execStretchEnd (row : Nat) (s : State) : Res :=
  let r := rowOf s row
  if r.droop = .stretched ∧ r.droopLeft = 0 then
    .next (freshHalves (setRow s row { r with droop := .halved, droopLeft := 64 }) row)
  else .next s

/-- HALVED_END (R303). -/
def execHalvedEnd (row : Nat) (s : State) : Res :=
  let r := rowOf s row
  if r.droop = .halved ∧ r.droopLeft = 0 then .next (setRow s row { r with droop := .calm }) else .next s

/-! ### The row clock (R377, R378, R380): times in fortieths of a reference tick -/

/-- The length of the present cycle: a tick, or three quarters of one in a sprint; half as much again when stretched. -/
def cycleLen (r : Row) : Nat :=
  let n := if r.sprint then 30 else 40
  if r.droop = .stretched then n + n / 2 else n

/-- When the present cycle of a row ends. A row whose clock no one has followed goes on from the reference clock. -/
def cycleEnd (s : State) (r : Row) : Nat := max (r.cycleAt + cycleLen r) (40 * s.ticks)

/-- When the present cycle of a row began. -/
def rowNow (s : State) (r : Row) : Nat := max r.cycleAt (40 * s.ticks)

/-- A microsecond, and a nanosecond. -/
def usLen : Nat := 40 * usTicks
def nsLen : Nat := 72

/-- The pulses of a yard that began in the microsecond before a moment (R379). -/
def recentPulses (y : Yard) (now : Nat) : List Nat := y.pulses.filter (fun t => decide (now < t + usLen))

/-- The earliest moment at which a yard may begin its next pulse (R379): in the present cycle, after its last pulse, and
within the budget of the microsecond. -/
def pulseMoment (r : Row) (y : Yard) : Nat :=
  let ready := max r.cycleAt y.pulseFree
  let n := y.pulses.length
  if n < rowDuty r then ready else max ready (y.pulses.getD (n - rowDuty r) 0 + usLen)

/-- May a yard begin a pulse in the present cycle (R303, R379)? -/
def pulseAllowed (s : State) (yard : Nat) : Bool :=
  let r := rowOf s (yard / 2)
  let y := yardOf s yard
  r.droop != .calm && r.railBelow && y.pulseEnd.isNone && !r.leaseLive && rowPW r != 0 && rowDuty r != 0 &&
    decide (pulseMoment r y < cycleEnd s r)

/-- INJECTION_PULSE_START (R379): the pulse lasts PW ns by the reference clock. -/
def execInjectionPulseStart (yard : Nat) (s : State) : Res :=
  let r := rowOf s (yard / 2)
  let at_ := pulseMoment r (yardOf s yard)
  if pulseAllowed s yard then
    .next (modYard s yard (fun y =>
      { y with pulses := recentPulses y at_ ++ [at_], pulseEnd := some (at_ + rowPW r * nsLen) }))
  else .next s

/-- Does a yard's pulse end in the present cycle? -/
def pulseEnding (s : State) (yard : Nat) : Bool :=
  match (yardOf s yard).pulseEnd with
  | some t => decide (t < cycleEnd s (rowOf s (yard / 2)))
  | none => false

/-- INJECTION_PULSE_END (R379): a pulse is never cut short. -/
def execInjectionPulseEnd (yard : Nat) (s : State) : Res :=
  if pulseEnding s yard then
    .next (modYard s yard (fun y => { y with pulseEnd := none, pulseFree := y.pulseEnd.getD 0 }))
  else .next s

/-- Must the present cycle of a row end before the next reference tick? -/
def cycleDue (s : State) (row : Nat) : Bool := decide (cycleEnd s (rowOf s row) < 40 * (s.ticks + 1))

/-- Does a halt-group stop go to a member that stands in the row (R322)? -/
def stopsIn (s : State) (row : Nat) (d : StopDue) : Bool :=
  match standsOn s d.lc with
  | some p => rowNum p == row
  | none => false

/-- Has a stop of a member in the row reached the last of its cycles (R322)? -/
def stopAtEnd (s : State) (row : Nat) : Bool := s.stopsDue.any (fun d => stopsIn s row d && d.left == 0)

/-- Can the present cycle of a row end now: within this tick, its pulses begun and ended, and no stop in the last of its
cycles? -/
def cycleReady (s : State) (row : Nat) : Bool :=
  cycleDue s row && !stopAtEnd s row && [2 * row, 2 * row + 1].all (fun y => !pulseEnding s y && !pulseAllowed s y)

/-- Has a core cycles of its own to count: it is powered, and holds a logical core, or its lanes are not yet gated
(R155)? -/
def coreWorks (s : State) (p : Nat) : Bool :=
  (physOf s p).power == .on && (!(coresOn s p).isEmpty || !(physOf s p).gated)

/-- The cores of a row that count cycles. -/
def workingCores (s : State) (row : Nat) : List Nat :=
  ((List.range 16).map (fun i => 16 * row + i)).filter (coreWorks s)

/-- Does a row do anything: a sequence, a pulse, or a core that counts cycles? -/
def rowActive (s : State) (row : Nat) : Bool :=
  (rowOf s row).droop != .calm || (yardOf s (2 * row)).pulseEnd.isSome || (yardOf s (2 * row + 1)).pulseEnd.isSome ||
    !(workingCores s row).isEmpty

/-- The rows whose clock the reference clock waits for. -/
def activeRows (s : State) : List Nat :=
  (keys s.rows ++ (keys s.phys).map rowNum).dedup.filter (rowActive s)

/-- The divider of a core (R299), 8 in every row while the package is tripped (R304). -/
def coreDivider (s : State) (p : Nat) : Nat :=
  if s.trip then 8 else [1, 2, 3, 4, 6, 8].getD (bits (physOf s p).clkdiv 2 0) 1

/-- What follows an event in the same turn. -/
def thenDo (r : Res) (f : State → State) : Res :=
  match r with
  | .next t => .next (f t)
  | other => other

/-- A row cycle ends with a sample of the rail. -/
def turnRowCycle (row depth : Nat) (s : State) : Res :=
  if row < 128 ∧ cycleReady s row = true then
    thenDo (execDroopAlarm row depth (modRow s row (fun r => { r with cycleAt := cycleEnd s r })))
      (fun t => { t with agenda := .rowNext row :: t.agenda })
  else .next s

/-- Does a core's own cycle begin with the row's next cycle? -/
def coreCycleDue (s : State) (p : Nat) : Bool := decide (coreDivider s p ≤ (physOf s p).divCount + 1)

/-- A cycle of the row brings the stops of its members nearer (R322). -/
def countStops (s : State) (row : Nat) : State :=
  { s with stopsDue := s.stopsDue.map (fun d => if stopsIn s row d then { d with left := d.left - 1 } else d) }

/-- The next row cycle begins: the sequence goes on, and the cores whose own cycle begins issue. -/
def beginCycle (row : Nat) (s : State) : State :=
  let s1 := (workingCores s row).foldl (fun t p =>
    modPhys t p (fun q => { q with divCount := if coreCycleDue t p then 0 else q.divCount + 1 })) s
  let s2 := countStops (modRow s1 row (fun r => { r with droopLeft := r.droopLeft - 1 })) row
  { s2 with agenda := .rowIssue row :: s2.agenda }

/-- The cores of a row whose own cycle has just begun. -/
def dueCores (s : State) (row : Nat) : List Nat := (workingCores s row).filter (fun p => (physOf s p).divCount == 0)

/-- What follows a row cycle: a step of the sequence may be over; the next cycle begins. -/
def turnRowNext (row : Nat) (s : State) : Res :=
  let r := rowOf s row
  let ended := if r.droopLeft ≠ 0 then .next s
    else if r.droop = .stretched then execStretchEnd row s
    else if r.droop = .halved then execHalvedEnd row s
    else .next s
  thenDo ended (beginCycle row)

end Sys2Proof.Machine
end

