-- ==== Sys2Proof/Machine/MemSys.lean ====
section
/-! DEFINITION. Memory records and their resolution, TLB invalidation, harvests, channel rates, dictionaries, repair,
rollback and back-invalidation (spec/17_memsys.md R326, R334 to R352). -/

namespace Sys2Proof.Machine

/-- A write of a register by the reeve: in STANDBY nothing that could make it or hold it is powered (R361). -/
def unlessStandby (s : State) (t : State) : Res := .next (if s.modPower = .standby then s else t)

/-! ### Rings that a die writes (R308, R336) -/

/-- The address space of the reeve firmware (R327). -/
def reeveAsid : Nat := 0

/-- Write n bytes of a line as a release at DIE: they reach the die's second-level cache (R166). -/
def dieWrite (s : State) (die asid va n v : Nat) (p : Page) : State :=
  let key := lineKey asid va
  let d := natLine v (va % 128) n
  let m := spanMask (va % 128) n
  if p.aliased then pocWrite s key p d m 0 none
  else
    let k := l2Key die key
    let old := (look s.l2 k).getD (emptyLine p)
    { s with l2 := put s.l2 k (storeLine { old with page := p } d m 0 0) }

/-- HEAD and TAIL of a pointer register, and whether a ring of a size is full. R310 and R336 have a ring full when TAIL
− HEAD
equals its size; of a greater difference, which a HEAD past TAIL or a lower ORDER gives, the spec says nothing, and the
model's
choice is that such a ring is full too (log 43). -/
def ptrHead (w : Word) : Nat := bits w 63 32
def ptrTail (w : Word) : Nat := bits w 31 0
def ringFull (base ptr : Word) : Bool := decide (ringSize base ≤ (ptrTail ptr + 2 ^ 32 - ptrHead ptr) % 2 ^ 32)
def bumpTail (w : Word) : Word := setBits w 31 0 (ptrTail w + 1)

/-- The base address of a ring. -/
def ringBase (w : Word) : Nat := bits w 63 12 * 4096

/-- A frame address as a page-table entry holds it (R332, R336). -/
def entryFrame (a : Nat) : Nat := a / 2 ^ 48 * 2 ^ 54 + a % 2 ^ 48 / 65536 * 65536

/-- The eight words of a memory record (R336). -/
def recordWords (m : MemRecord) : List Word :=
  [word (m.asid * 2 ^ 48 + m.stack * 2 ^ 40 + m.req * 2 ^ 8 + m.kind), word m.va,
   word (if m.kind = 1 then 0 else entryFrame m.frame), word m.ticks, (if m.kind = 1 then m.entry else 0#64),
   word (m.task % 2 ^ 20), word m.bank, 0#64]

/-- Kinds of memory records (R336). -/
def kindTranslation : Nat := 1
def kindFull : Nat := 2
def kindRetire : Nat := 3
def kindDegraded : Nat := 4

/-- MEMORY_RECORD_WRITE (R336): a waiting record is written to the ring, and its index goes to queue 6 of the reeve of
die 0. Records that park nothing need no resolution (R337). -/
def execMemoryRecordWrite (idx : Nat) (s : State) : Res :=
  match s.records[idx]?, reeveOf s 0 with
  | some m, some lc =>
    if m.index.isSome || bits s.mrqbase 63 12 == 0 || ringFull s.mrqbase s.mrqptr then .next s
    else
      let tail := ptrTail s.mrqptr
      let va := ringBase s.mrqbase + tail % ringSize s.mrqbase * 64
      match translate s reeveAsid va with
      | .fail _ => .next (heatMiss s reeveAsid va)
      | .ok p =>
        let s1 := dieWrite s (coreDie s lc) reeveAsid va 64 (wordsNat (recordWords m)) p
        let s2 : State := { s1 with
          mrqptr := bumpTail s.mrqptr
          records := if m.kind = kindRetire ∨ m.kind = kindDegraded then s1.records.eraseIdx idx
            else modifyAt s1.records idx (fun r => { r with index := some tail }) }
        .next (postWord s2 lc 6 (word tail))
  | _, _ => .next s

/-! ### Resolution (R337) -/

/-- The outstanding record of an index. -/
def recordAt (s : State) (i : Nat) : Option MemRecord := s.records.find? (fun m => m.index == some i)
def dropRecord (s : State) (i : Nat) : State := { s with records := s.records.filter (fun m => m.index != some i) }

/-- MRSOLVE after a write (R326). -/
def mrsolveWord (act rec : Nat) : Word := word (act * 2 ^ 32 + rec % 2 ^ 32)

/-- The overflow area of a page whose record is replayed is as the reeve has left it (R342). -/
def enlarged (s : State) (m : MemRecord) : State :=
  if m.kind = kindFull then
    match translate s m.asid m.va with
    | .ok p => setCmp s p { cmpOf s p with ver := (cmpOf s p).ver + 1 }
    | .fail _ => s
  else s

/-- A context whose write is parked no more does not show so (R313). -/
def writeFreed (s : State) (w : Waiter) : State :=
  match w.who with
  | .write lc c _ => modCtx s lc c (fun x => { x with wait := if x.wait = 7 then 0 else x.wait })
  | _ => s

/-- REPLAY: what is parked behind the record tries again. -/
def replayRecord (s : State) (i : Nat) : State :=
  match recordAt s i with
  | some m => m.waiters.foldl writeFreed (enlarged (dropRecord s i) m)
  | none => s

/-- A parked access or fetch: the context freezes precisely with PROTECT. -/
def unmapContext (s : State) (lc c : Nat) (w : Waiter) : State :=
  if (ctxOf s lc c).live && !(ctxOf s lc c).frozen then freeze s lc c causeProtect 0 false (word w.addr) w.detail else s

/-- A parked write of a release: it goes no further, and its context freezes as for an access. Where the write is a move's
and the context stands between an EXT.L and its consumer, it takes the cause after the consumer (R50). -/
def unmapWrite (s : State) (lc c key : Nat) (w : Waiter) : State :=
  let s1 : State := { s with writes := s.writes.filter (fun q => !(q.lc == lc && q.ctx == c && q.key == key && q.refst.isNone)) }
  let s2 := writeFreed s1 w
  let x := ctxOf s2 lc c
  if bit x.elit 63 && decide (x.stage = .idle) && !x.frozen then
    pendCause s2 lc c ⟨causeProtect, 0, word w.addr, w.detail⟩
  else unmapContext s2 lc c w

/-- A parked offer: FAULT, XLATE (R190). -/
def unmapOffer (s : State) (lc c y : Nat) : State :=
  let mine := fun (o : Offer) => o.lc == lc && o.ctx == c && o.y == y
  match (s.mills.flatMap (fun e => e.2.queue ++ e.2.slots)).find? mine with
  | some o =>
    sendReply { s with mills := s.mills.map (fun e => (e.1, { e.2 with
      queue := e.2.queue.filter (fun q => !mine q), slots := e.2.slots.filter (fun q => !mine q) })) }
      (bareReply o kindFault 32)
  | none => s

/-- A parked settle or release: LOST, REASON 0, and its hold ends. For the release that an offer sent its register says
so already
(R181). -/
def unmapSettle (s : State) (lc c y : Nat) : State :=
  let mine := fun (q : MillReq) => match q with
    | .settle r => r.lc == lc && r.ctx == c && r.y == y
    | .offer _ => false
  match s.flights.find? mine with
  | some (.settle r) =>
    let s1 := match namedHold s r with
      | some _ => dropHold s r.mill r.hold 0
      | none => s
    let s2 := { s1 with flights := s1.flights.filter (fun q => !mine q) }
    if r.answered then sendReply s2 (settleAnswer r kindLost 0) else s2
  | _ => s

/-- The granule at which a walk stands: its root before its first visit, the header of the object on top of its path while
that is cleaned or left, else the object's next granule. -/
def walkGranule (w : Walk) : Nat :=
  match w.path.head? with
  | some f => if f.obj + 8 * f.len ≤ f.next then f.obj else f.next
  | none => w.root

/-- A parked walk ends with PROTECT at its granule (R215), now or once the headers of its path can be written. -/
def unmapWalk (s : State) (task : Nat) : State :=
  match taskOf s task with
  | some t =>
    match t.walks.head? with
    | some w =>
      let e := w.ending.getD (causeProtect, walkGranule w)
      let w1 := { w with ending := some e }
      walkFault (modWalk s task (fun _ => w1)) t w1 e.1 e.2
    | none => s
  | none => s

/-- A parked copy: COPY_FAULT, XLATE (R248). -/
def unmapCopy (s : State) (lc id addr : Nat) : State :=
  match (yardOf s (yardNum (coreOf s lc).phys)).copies.find? (fun k => k.lc == lc && k.id == id) with
  | some k => faultCopy s k 5 addr
  | none => s

/-- UNMAPPED for one parked request (R337). Its table has no row for a write of a fault packet, whose REQ is 7: the
model's choice
is that the record goes and the write is tried again (log 43). The last four park for storage alone, for which UNMAPPED
acts as
REPLAY. -/
def unmapWaiter (s : State) (w : Waiter) : State :=
  match w.who with
  | .access lc c => unmapContext s lc c w
  | .fetch lc c => unmapContext s lc c w
  | .write lc c key => unmapWrite s lc c key w
  | .copy lc id => unmapCopy s lc id w.addr
  | .offer lc c y => unmapOffer s lc c y
  | .settle lc c y => unmapSettle s lc c y
  | .walk t => unmapWalk s t
  | .launch lc c => modCtx s lc c (fun x => { x with stage := .answered answerInvalid })
  | .hostEntry vf => modVf s vf (fun v => { v with answers := 1 })
  | .bank t => modTask s t (fun x => { x with cause := causeProtect, stage := .done })
  | .completion t => modTask s t (fun x => { x with compl := 0 })
  | .packet _ | .refst _ _ _ | .harvest | .bridge _ | .link _ | .rollback _ => s

/-- UNMAPPED; for a full overflow area it acts as REPLAY. -/
def unmapRecord (s : State) (i : Nat) : State :=
  match recordAt s i with
  | some m => if m.kind = kindFull then replayRecord s i else m.waiters.foldl unmapWaiter (dropRecord s i)
  | none => s

/-- MRSOLVE_REPLAY: a write of MRSOLVE with ACT 1. -/
def execMrsolveReplay (rec : Nat) (s : State) : Res :=
  unlessStandby s (replayRecord { s with mrsolve := mrsolveWord 1 rec } (rec % 2 ^ 32))

/-- MRSOLVE_UNMAPPED: a write of MRSOLVE with ACT 2. -/
def execMrsolveUnmapped (rec : Nat) (s : State) : Res :=
  unlessStandby s (unmapRecord { s with mrsolve := mrsolveWord 2 rec } (rec % 2 ^ 32))

/-! ### TLB invalidation (R334) -/

def tlbFlush (w : Word) : Bool := bit w 63
def tlbAll (w : Word) : Bool := bit w 62
def tlbBusy (w : Word) : Bool := bit w 61
def invVa (w : Word) : Nat := bits w 47 16 * 65536
def invAsid (w : Word) : Nat := bits w 15 0

/-- A write of TLBINV: ignored while BUSY, else the invalidation runs. -/
def tlbinvWrite (s : State) (v : Word) : State :=
  if tlbBusy s.tlbinv then s
  else { s with tlbinv := (v &&& 0xC000FFFFFFFFFFFF#64) ||| 0x2000000000000000#64 }

/-- TLBINV_PAGE: an invalidation of one page begins. -/
def execTlbinvPage (v : Word) (s : State) : Res := unlessStandby s (tlbinvWrite s (setBits v 62 62 0))

/-- TLBINV_ASID: an invalidation of a whole address space begins. -/
def execTlbinvAsid (v : Word) (s : State) : Res := unlessStandby s (tlbinvWrite s (setBits v 62 62 1))

/-- Does the invalidation cover an address of an address space, translated by a page? -/
def tlbCovers (w : Word) (asid va : Nat) (p : Page) : Bool :=
  asid == invAsid w && (tlbAll w || va % 2 ^ 48 / pageSize p == invVa w / pageSize p)

/-- Is a load or a REFST still outstanding that was checked with a covered translation? -/
def tlbLoadOut (s : State) (w : Word) : Bool :=
  s.writes.any (fun q => match q.refst with
    | some r => tlbCovers w (keyAsid q.key) r.addr r.page
    | none => false) ||
  s.cores.any (fun k => asidOf s k.1 == invAsid w && k.2.ctxs.any (fun x =>
    x.2.loads.any (fun l => tlbCovers w (asidOf s k.1) l.addr l.page)))

/-- A line's tag after an invalidation without FLUSH: the permissions are read anew; a page no longer mapped is
dropped. -/
def retagLine (s : State) (key : Nat) : State :=
  match look s.msc key with
  | some l =>
    match translate { s with msc := erase s.msc key } (keyAsid key) (keyVa key) with
    | .ok p => { s with msc := put s.msc key { l with page := { l.page with w := p.w, x := p.x } } }
    | .fail _ => mscDrop s key
  | none => s

/-- The page of a hold's line: as the MSC holds the line, or as its address translated when the hold was installed. -/
def holdPage (s : State) (h : Hold) : Page :=
  match look s.msc (holdKey h) with
  | some l => l.page
  | none => h.page

/-- The holds on pages that are flushed end with EVICT (R192), those on lines that no MSC slice holds among them (R331). -/
def flushHolds (s : State) (f : Hold → Page → Bool) : State :=
  (List.range 64).foldl (fun t m => endHoldsAt t m (fun _ h => f h (holdPage s h)) 11) s

/-- TLBINV_DONE (R334): the cached translations are gone, and with FLUSH the page's MSC lines and the holds on it. -/
def execTlbinvDone (s : State) : Res :=
  let w := s.tlbinv
  if tlbBusy w && !tlbLoadOut s w then
    let s1 := { s with tlbinv := setBits w 61 61 0
                       tlb := s.tlb.filter (fun e => !tlbCovers w (tlbAsid e.1) (tlbVa e.1) e.2) }
    let ks := (s1.msc.filter (fun e => tlbCovers w (keyAsid e.1) (keyVa e.1) e.2.page)).map (·.1)
    let s2 := if tlbFlush w then flushHolds s (fun h p => tlbCovers w h.asid h.addr p) else s
    .next (ks.foldl (fun t k => if tlbFlush w then mscDrop t k else retagLine t k)
      { s1 with mills := s2.mills })
  else .next s

/-! ### Heat harvests (R340) -/

def hvCount (w : Word) : Nat := bits w 23 0

/-- A write of HVCMD: ignored while COUNT is not 0. -/
def hvcmdWrite (s : State) (v : Word) : State :=
  if hvCount s.hvcmd ≠ 0 then s else { s with hvcmd := v &&& 0x80FFFFFFFFFFFFFF#64, hvDone := 0 }

/-- HVCMD_HARVEST. -/
def execHvcmdHarvest (v : Word) (s : State) : Res := unlessStandby s (hvcmdWrite s v)

/-- The number in the heat tables of the next frame to harvest; none where the frame has no counter (R339): for such a
frame, of
which R340 does not speak, the harvest writes 0, the model's choice (log 43). -/
def hvFrame (s : State) : Option Nat :=
  let i := bits s.hvcmd 55 24 + s.hvDone
  if bit s.hvcmd 63 then (if i < 2 ^ 24 then some (2 ^ 25 + i) else none) else (if i < 2 ^ 25 then some i else none)

/-- HARVEST_FRAME (R340): the counter and the dirty bit of the next frame are written, halved and cleared in one step.
R335 does
not name the harvest among the requests that park for a failed translation: the model's choice is that one whose buffer
does not
translate waits, with no record, and tries again (log 43). -/
def execHarvestFrame (s : State) : Res :=
  if hvCount s.hvcmd = 0 ∨ isParked s .harvest then .next s
  else
    let va := (s.hvbuf.toNat / 128 * 128 + 2 * s.hvDone) % 2 ^ 64
    match translate s reeveAsid va with
    | .fail _ => .next (heatMiss s reeveAsid va)
    | .ok p =>
      let f := hvFrame s
      let c := match f with
        | some n => getD 0 s.heat n
        | none => 0
      let d := match f with
        | some n => s.heatDirty.contains n
        | none => false
      let v := c + (if d then 256 else 0)
      if mscReady s reeveAsid va 2 v p then
        let s1 := match f with
          | some n => { s with heat := setD 0 s.heat n (c / 2), heatDirty := s.heatDirty.filter (· != n) }
          | none => s
        let s2 := mscWrite s1 reeveAsid va 2 v p 0
        .next { s2 with hvcmd := setBits s.hvcmd 23 0 (hvCount s.hvcmd - 1), hvDone := s.hvDone + 1 }
      else if halfBlocks s (lineKey reeveAsid va) (spanMask (va % 128) 2) true then .next s
      else .next (parkFull s 0 reeveAsid va p 0 ⟨.harvest, va, []⟩)

/-! ### Channel rates (R345) -/

def chStack (w : Word) : Nat := bits w 15 12
def chChan (w : Word) : Nat := bits w 11 7
def chRate (w : Word) : Nat := bits w 1 0

/-- A write of CHRATE: it selects a channel, and a rate from 0 to 2 that is not in effect begins a switch. -/
def chrateWrite (s : State) (v : Word) : State :=
  let s1 := { s with chrate := v &&& 0xFF80#64 }
  if chRate v = 3 then s1
  else modStack s1 (chStack v) (fun k =>
    { k with switching := if getD 0 k.rates (chChan v) = chRate v then erase k.switching (chChan v)
                          else put k.switching (chChan v) (chRate v) })

/-- CHRATE_SWITCH: a write with a rate. -/
def execChrateSwitch (v : Word) (s : State) : Res := unlessStandby s (chrateWrite s v)

/-- CHRATE_SELECT: a write of rate 3. -/
def execChrateSelect (v : Word) (s : State) : Res := unlessStandby s (chrateWrite s (setBits v 1 0 3))

/-- CHRATE_SWITCH_DONE: the stack's first switching channel runs at its new rate. -/
def execChrateSwitchDone (k : Nat) (s : State) : Res :=
  match (stackOf s k).switching with
  | (c, r) :: rest => .next (modStack s k (fun x => { x with rates := setD 0 x.rates c r, switching := rest }))
  | [] => .next s

/-- CHRATE as it is read (R326). -/
def chrateRead (s : State) : Word :=
  let k := stackOf s (chStack s.chrate)
  let c := chChan s.chrate
  word (s.chrate.toNat + (if (look k.switching c).isSome then 64 else 0) + getD 0 k.rates c)

/-! ### Dictionaries (R343) -/

def dictPart (w : Word) : Nat := bits w 9 4

/-- ADDR lies in the reeve's mapped memory. -/
def dictMapped (s : State) (v : Word) : Bool :=
  match translate s reeveAsid (ringBase v) with
  | .ok _ => true
  | .fail _ => false

/-- The 32 lines of the 4 KiB dictionary at ADDR, as they are at the point of coherence when its load begins (R343, log
40). -/
def dictBook (s : State) (v : Word) : List (BitVec 1024) :=
  match translate s reeveAsid (ringBase v) with
  | .ok p => (List.range 32).map (fun i => pocLine s (lineKey reeveAsid (ringBase v + 128 * i)) p)
  | .fail _ => []

/-- Their reads cost an access for each line that the MSC does not hold (R338). -/
def dictReads (s : State) (v : Word) : State :=
  match translate s reeveAsid (ringBase v) with
  | .ok p => (List.range 32).foldl (fun u i => heatRead u (frameOf p (ringBase v + 128 * i))) s
  | .fail _ => s

/-- The generation a load gets: with no generation live, the spec names none (log 5). -/
def nextGen (s : State) (p : Part) : Nat :=
  match p.gens.getLast? with
  | some g => (g + 1) % 4
  | none => (Config.freeValue s.taken).toNat % 4

/-- DICTLD with the fields of a write, and with GEN and ST. -/
def dictldWord (v : Word) (gen st : Nat) : Word := (v &&& 0xFFFFFFFFFFFFF3F0#64) ||| word (gen * 4 + st)

/-- A load begins: the dictionary is read, and goes to the engines of all stacks. -/
def dictStart (s : State) (v : Word) : State :=
  let part := dictPart v
  let g := nextGen s (partOf s part)
  modPart { dictReads s v with
    dictld := dictldWord v g 1, dictLoads := s.dictLoads ++ [⟨part, g, List.range 16⟩], taken := s.taken + 1 } part
    (fun q => { q with gens := q.gens ++ [g], books := setD [] q.books g (dictBook s v) })

/-- A write of DICTLD (R343): INVALID, BUSY, or a load begins, beside those that run (log 40). Where ADDR has been
looked up, that
cost its walk (R338). -/
def dictldWrite (s : State) (v : Word) : State :=
  let old := bits s.dictld 3 2
  if 47 < dictPart v then { s with dictld := dictldWord v old 3 }
  else
    let t := heatLookup s reeveAsid (ringBase v)
    if dictMapped s v = false then { t with dictld := dictldWord v old 3 }
    else if 2 ≤ (partOf s (dictPart v)).gens.length then { t with dictld := dictldWord v old 2 }
    else dictStart t v

/-- DICTLD_LOAD. -/
def execDictldLoad (v : Word) (s : State) : Res := unlessStandby s (dictldWrite s v)

/-- A load is complete: its generation is current, and ST is 0 where DICTLD still shows that load. -/
def dictCurrent (s : State) (l : DictLoad) : State :=
  let mine := bits s.dictld 1 0 == 1 && dictPart s.dictld == l.part && bits s.dictld 3 2 == l.gen
  modPart { s with dictld := if mine then setBits s.dictld 1 0 0 else s.dictld } l.part (fun q => { q with newest := l.gen })

/-- DICTLD_DONE: the dictionary of the oldest load that stack k's engine lacks has reached it; after the last stack it is
current. -/
def execDictldDone (k : Nat) (s : State) : Res :=
  match s.dictLoads.findIdx? (fun l => l.left.contains k) with
  | some i =>
    match s.dictLoads[i]? with
    | some l =>
      let m := { l with left := l.left.erase k }
      let s1 := modStack s k (fun x => { x with dicts := setD [] x.dicts l.part (getD [] x.dicts l.part ++ [l.gen]) })
      .next (if m.left.isEmpty then dictCurrent { s1 with dictLoads := s.dictLoads.eraseIdx i } m
        else { s1 with dictLoads := s.dictLoads.set i m })
    | none => .next s
  | none => .next s

/-- GENERATION_RETIRE: the scrubber has recompressed the pages of an older generation with the current one, and it is
live no
more (R343). -/
def execGenerationRetire (part gen : Nat) (s : State) : Res :=
  let p := partOf s part
  if p.gens.contains gen && gen != p.newest && s.dictLoads.all (fun l => l.part != part) then
    let s1 := modPart s part (fun q =>
      { q with gens := q.gens.erase gen, books := erase q.books gen, moves := q.moves ++ [(gen, q.newest)] })
    .next ((List.range 16).foldl (fun t k => modStack t k (fun x =>
      { x with dicts := setD [] x.dicts part ((getD [] x.dicts part).erase gen) })) s1)
  else .next s

/-! ### Repair (R346, R347) -/

/-- The channel and bank of a frame address. -/
def bankKey (pa : Nat) : Nat := Config.channelOf pa % 32 * 256 + Config.bankOf pa % 256

/-- Resources in each bank (R346). -/
def granuleSpares : Nat := 256
def lineSpares : Nat := 32
def rowSpares : Nat := 8

/-- The smallest resource left that covers a fault: 0 a granule, 1 a line, 2 a row. -/
def fitSpare (k : Stack) (b : Nat) (need : RepairNeed) : Option Nat :=
  let rank := match need with
    | .granule => 0
    | .line => 1
    | .row => 2
  if rank = 0 ∧ getD 0 k.spareGranules b < granuleSpares then some 0
  else if rank ≤ 1 ∧ getD 0 k.spareLines b < lineSpares then some 1
  else if getD 0 k.spareRows b < rowSpares then some 2
  else none

/-- One more is used. -/
def useSpare (k : Stack) (b n : Nat) : Stack :=
  if n = 0 then { k with spareGranules := setD 0 k.spareGranules b (getD 0 k.spareGranules b + 1) }
  else if n = 1 then { k with spareLines := setD 0 k.spareLines b (getD 0 k.spareLines b + 1) }
  else { k with spareRows := setD 0 k.spareRows b (getD 0 k.spareRows b + 1) }

/-- A record of the repair logic. -/
def repairRecord (s : State) (kind pa bank : Nat) : State :=
  { s with records := s.records ++ [⟨none, kind, 0, 0, frameStack pa, 0, pa, s.ticks, 0#64, 0, bank, []⟩] }

/-- No resource is left (R347). -/
def retireGranule (s : State) (pa : Nat) : State :=
  let b := bankKey pa
  let s1 := repairRecord s kindRetire pa 0
  let s2 := if (stackOf s1 (frameStack pa)).degraded.contains b then s1
    else modStack (repairRecord s1 kindDegraded pa b) (frameStack pa) (fun k => { k with degraded := b :: k.degraded })
  setGranTag s2 pa tagPoison

/-- Does an address lie in a frame of a stack? -/
def stackFrame (pa : Nat) : Bool := pa / 2 ^ 41 == 0 && decide (pa % 2 ^ 37 < 96 * 2 ^ 30)

/-- DRAM_REPAIR: a failing granule of a stack frame is repaired, or retired; one that is lost, or holds an uncorrectable
error,
keeps the poison tag until it is written. A row is copied to its spare. In STANDBY the base dies are off and the DRAM
refreshes itself (R361). -/
def execDramRepair (pa : Nat) (need : RepairNeed) (lost : Bool) (s : State) : Res :=
  if s.modPower = .standby ∨ stackFrame pa = false then .next s
  else match fitSpare (stackOf s (frameStack pa)) (bankKey pa) need with
    | some n =>
      let s1 := modStack s (frameStack pa) (fun k => useSpare k (bankKey pa) n)
      let s2 := if n = 2 then { s1 with rowCopies := s1.rowCopies ++ [pa] } else s1
      .next (if lost || isFaulty s pa then setGranTag s2 pa tagPoison else s2)
    | none => .next (retireGranule s pa)

/-- ROW_COPY_COMPLETE (R346): reads are served from the spare from now on, with the same values. -/
def execRowCopyComplete (idx : Nat) (s : State) : Res := .next { s with rowCopies := s.rowCopies.eraseIdx idx }

/-! ### Rollback (R349, R350) -/

/-- The bytes of a record's mask return to the point of coherence of a line and its frame (R350): a write like any other
for the dirty bit and for holds (R192, R339). -/
def restoreAt (s : State) (r : LogRec) (p : Page) : State :=
  let a := frameOf p (keyVa r.key)
  let s1 := cmpReserve s p a (mergeLine (pocLine s r.key p) r.data r.mask)
  let s2 := if p.aliased then frameWrite s1 r.key p r.data r.mask else mscStore s1 r.key p r.data r.mask
  (List.range 16).foldl (fun t i =>
    if r.mask &&& spanMask (8 * i) 8 = 0 then t else setGranTag t (a + 8 * i) (r.tags.getD i 0))
    (endLineHolds (heatWrite s2 a) r.key 10 none)

/-- A record of the undo log is restored, where its line now lies (R348, R350); a line that is mapped no more, where it
lay. -/
def restoreRecord (s : State) (r : LogRec) : State :=
  if r.mask = 0 then s
  else match translate s (keyAsid r.key) (keyVa r.key) with
    | .ok p => restoreAt s r p
    | .fail _ => restoreAt s r { rawPage with frame := r.frame - keyVa r.key % 65536, aliased := true }

/-- The first record of a log that finds no storage in its compressed page, if any (R342). -/
def logFull : State → List LogRec → Option (LogRec × Page)
  | _, [] => none
  | s, r :: rs =>
    match translate s (keyAsid r.key) (keyVa r.key) with
    | .ok p =>
      if cmpRoom s p (frameOf p (keyVa r.key)) (mergeLine (pocLine s r.key p) r.data r.mask) then
        logFull (restoreRecord s r) rs
      else some (r, p)
    | .fail _ => logFull (restoreRecord s r) rs

/-- An MSC line without the bytes of an object, which are zero. -/
def clearedLine (o : Obj) (e : Nat × MscLine) : MscLine :=
  { e.2 with data := mergeLine e.2.data 0 (objectMask o e.2.page e.1), dirty := true }

/-- The MSC lines that hold bytes of an object. -/
def objectMsc (s : State) (o : Obj) : List (Nat × MscLine) := s.msc.filter (fun e => objectMask o e.2.page e.1 != 0)

/-- The bytes of an object in an MSC line become zero, with storage reserved for the line (R342). -/
def clearLine (o : Obj) (s : State) (e : Nat × MscLine) : State :=
  let l := clearedLine o e
  let s1 := cmpReserve s l.page (frameOf l.page (keyVa e.1)) l.data
  { s1 with msc := put s1.msc e.1 l }

/-- An object is discarded (R219): its granules become free, with tag data and bytes zero, as a write of its lines. -/
def discardObject (s : State) (o : Obj) : State :=
  let s1 := (objectMsc s o).foldl (clearLine o) s
  freeObject { s1 with
    faulty := s1.faulty.filter (fun k => !(decide (o.hdr / 8 ≤ k) && decide (k < o.hdr / 8 + o.len)))
    mem := s1.mem.filter (fun e => !(decide (o.hdr ≤ e.1) && decide (e.1 < o.hdr + 8 * o.len))) } o

/-- Does the host hold a byte of an object (R352)? -/
def objectHeld (s : State) (asid : Nat) (o : Obj) : Bool :=
  s.halves.any (fun e => keyAsid e.1 == asid && (match translate s asid (keyVa e.1) with
    | .ok p => halfBlocks s e.1 (objectMask o p e.1) true
    | .fail _ => false))

/-- The first MSC line of some objects that finds no storage in its compressed page, if any (R342). -/
def objectsFull (s : State) : List Obj → Option (Nat × Page)
  | [] => none
  | o :: os =>
    match (objectMsc s o).find? (fun e =>
        !cmpRoom s e.2.page (frameOf e.2.page (keyVa e.1)) (clearedLine o e).data) with
    | some e => some (e.1, e.2.page)
    | none => objectsFull (discardObject s o) os

/-- The dirty bytes of a task in the second-level caches, and the lines that its crew's first-level caches hold, are
dropped. -/
def dropDirty (s : State) (task : Nat) : State :=
  { s with
    l2 := s.l2.map (fun e =>
      let m := getD 0 e.2.dirty task
      (e.1, { cleanLine e.2 m with valid := e.2.valid &&& ~~~m }))
    cores := s.cores.map (fun k => (k.1, if taskNum k.1 = task then { k.2 with l1 := [] } else k.2)) }

/-- Jobs, copies, walks, requests and words of a task are abandoned. -/
def abandonTask (s : State) (task : Nat) : State :=
  let mine := fun (lc : Nat) => taskNum lc == task
  let s1 := { s with
    yards := s.yards.map (fun y => (y.1, { y.2 with jobs := y.2.jobs.filter (fun j => !mine j.lc)
                                                    copies := y.2.copies.filter (fun k => !mine k.lc) }))
    pubs := s.pubs.filter (fun p => p.task != task)
    replies := s.replies.filter (fun r => !mine r.lc)
    words := s.words.filter (fun w => !mine w.dest)
    stopsDue := s.stopsDue.filter (fun d => !mine d.lc)
    records := s.records.map (fun m => { m with waiters := m.waiters.filter (fun w => match w.who with
      | .access lc _ | .fetch lc _ | .copy lc _ | .launch lc _ => !mine lc
      | .walk t => t != task
      | _ => true) }) }
  modTask ((keys s1.yards).foldl settleClock s1) task (fun t => { t with walks := [] })

/-- Words of the task that the routers still hold are discarded and counted (R125, R350). -/
def heldWords (s : State) (task : Nat) : Nat := (s.words.filter (fun w => taskNum w.dest == task)).length

/-- The logical cores of a task in the package. -/
def taskCores (s : State) (task : Nat) : List Nat := (keys s.cores).filter (fun lc => taskNum lc == task)

/-- Every logical core of the task retires without a stash handed on. -/
def retireCrew (s : State) (task : Nat) : State :=
  (taskCores s task).foldl (fun t lc =>
    let t1 := (keys (coreOf t lc).ctxs).foldl (fun u c => rearm u lc c) t
    if (coreOf t1 lc).retired then t1 else retireCore t1 lc 0) s

/-- What the task still has on its way is parked or not begun, and is abandoned (R350). -/
def dropRequests (s : State) (task : Nat) : State :=
  let other := fun (o : Offer) => o.task != task
  { s with
    flights := s.flights.filter (fun f => match f with
      | .offer o => o.task != task
      | .settle r => r.task != task)
    mills := s.mills.map (fun e => (e.1, { e.2 with queue := e.2.queue.filter other, slots := e.2.slots.filter other }))
    writes := s.writes.filter (fun w => taskNum w.lc != task)
    records := s.records.map (fun m => { m with waiters := m.waiters.filter (fun w => match w.who with
      | .offer lc _ _ | .settle lc _ _ | .write lc _ _ | .refst lc _ _ => taskNum lc != task
      | _ => true) }) }

/-- The task as it is relaunched (R350). Whether its walk identifiers go on or begin anew R211, R219 and R350 do not
say: the model's
choice is that they begin at 0 (log 43). -/
def relaunched (s : State) (t : Task) : Task :=
  { t with stage := .ready, level := t.prio, since := s.ticks, seq := s.readySeq, bank := [], rollbacks := t.rollbacks + 1,
           nextWalk := 0, walks := [], barriers := [], begun := false, log := [], logged := true, rolling := false }

/-- Step 4 of R350: the dirty bytes of the task are gone, and its log is restored. -/
def restoreLog (s : State) (t : Task) : State := t.log.foldl restoreRecord (dropDirty s t.num)

/-- The objects that step 5 of R350 discards. -/
def doomedObjects (s : State) (task : Nat) : List Obj := ownedObjects s task objPrivate ++ ownedObjects s task objPublishing

/-- May the log be restored and the objects be discarded now: does the host hold no byte of them (R352)? -/
def logReady (s : State) (t : Task) : Bool :=
  t.log.all (fun r => !halfBlocks s r.key r.mask true) &&
    (doomedObjects (restoreLog s t) t.num).all (fun o => !objectHeld s t.asid o)

/-- The first line that a rollback writes and that finds no storage, if any (R342). -/
def rollbackFull (s : State) (t : Task) : Option (Nat × Page) :=
  match logFull (dropDirty s t.num) t.log with
  | some e => some (e.1.key, e.2)
  | none => objectsFull (restoreLog s t) (doomedObjects (restoreLog s t) t.num)

/-- A packet for record of a context that the POISON of its task has not frozen: its instruction waits for what may
never come,
so that it reaches no boundary, and it ends there with its core (R50, R103, R350; log 37). -/
def recordStuck (s : State) (e : Nat × Nat) : State :=
  let x := ctxOf s e.1 e.2
  if x.frozen then s
  else match x.pend.find? isPoisonCause with
    | some p => recordPacket s e.1 e.2 p.cause p.sub p.addr p.detail
    | none => recordPacket s e.1 e.2 causePoison 0 0#64 []

/-- The seven steps of R350. -/
def rollBack (s : State) (t : Task) : State :=
  let s1 := (crewContexts s t.num).foldl recordStuck s
  let held := heldWords s1 t.num
  let s2 := dropRequests (abandonTask s1 t.num) t.num
  let s3 := (List.range 64).foldl (fun u m => endHoldsAt u m (fun _ h => h.task == t.num) 0) s2
  let s4 := restoreLog s3 t
  let s5 := (doomedObjects s4 t.num).foldl discardObject s4
  let s6 := retireCrew s5 t.num
  modTask { s6 with readySeq := s6.readySeq + 1 } t.num (fun x => relaunched s6 { x with dropped := x.dropped + held })

/-- The engine writes under way for the task are done: no job of its runs (R350). What it has sent and what is parked
has not
begun at the MSC, and is abandoned. -/
def engineWritesDone (s : State) (task : Nat) : Bool :=
  s.yards.all (fun y => y.2.jobs.all (fun j => !(j.running && taskNum j.lc == task)))

/-- Will a context that a POISON of its task has not frozen yet come to its next boundary (R50, R103) of itself? It may
take its
turn, and it waits for nothing, or for its own loads, writes or replies, or it is past a release or a request. One that
waits
for another context, for the reeve or for an engine may wait for ever. -/
def boundaryDue (s : State) (e : Nat × Nat) : Bool :=
  let x := ctxOf s e.1 e.2
  !x.frozen && runnable s e.1 e.2 &&
    ((x.wait == 0 && !x.counted && !routerBusy s e.1 e.2) || !x.loads.isEmpty || writesOut s e.1 e.2 ||
      x.ypend.any (fun y => !(isParked s (.offer e.1 e.2 y) || isParked s (.settle e.1 e.2 y))) ||
      decide (x.stage = .released) || (decide (x.stage = .sent) && !resizes (coreOf s e.1) e.2))

/-- Will some context of the crew? -/
def crewDue (s : State) (task : Nat) : Bool := (crewContexts s task).any (boundaryDue s)

/-- ROLLBACK: a task that met a POISON is rolled back; one that cannot be, or has been three times, ends: its contexts
freeze and its CAUSE is 0x08 (R349, R350). A write that finds no storage parks (R342). -/
def execRollback (task : Nat) (s : State) : Res :=
  match taskOf s task with
  | some t =>
    if !t.rolling then .next s
    else if !t.logged || decide (3 ≤ t.rollbacks) then
      .next (modTask (freezeCrew s task) task (fun x => { x with rolling := false, cause := causePoison }))
    else if isParked s (.rollback task) || crewDue s task || !engineWritesDone s task || !logReady s t then .next s
    else match rollbackFull s t with
      | some e => .next (parkFull s 6 (keyAsid e.1) (keyVa e.1) e.2 task ⟨.rollback task, keyVa e.1, []⟩)
      | none => .next (rollBack s t)
  | none => .next s

/-! ### Back-invalidation (R352) -/

/-- The bytes of a half. -/
def halfMask (half : Nat) : BitVec 128 := spanMask (64 * (half % 2)) 64

def halfState (h : HalfHeld) (half : Nat) : Half2 := if half % 2 = 0 then h.h0 else h.h1
def setHalfState (h : HalfHeld) (half : Nat) (x : Half2) : HalfHeld :=
  if half % 2 = 0 then { h with h0 := x } else { h with h1 := x }

/-- The host has given up a half: what it had modified there is written back. -/
def dropHalf (s : State) (key half : Nat) (x : Half2) : State :=
  let h := halfOf s key
  let m := halfMask half
  setHalf s key (setHalfState { h with hostData := h.hostData &&& ~~~byteBits m, hostMask := h.hostMask &&& ~~~m } half x)

/-- The hold of a STRADDLE settle that waits for this back-invalidation: the write-back does not end it, unless the host has
modified the held bytes themselves (R193, R198). -/
def straddleSettle (s : State) (key : Nat) (m : BitVec 128) : Option Nat :=
  s.flights.findSome? (fun f => match f with
    | .settle r => match namedHold s r with
      | some h => if r.data.isSome ∧ h.reason = 8 ∧ holdKey h = key ∧ m &&& accessMask h.addr (shapeBytes h.shape) = 0 then
          some r.hold else none
      | none => none
    | .offer _ => none)

/-- BACK_INVALIDATE: BISnpData leaves the host S, BISnpInv leaves it I; modified bytes are written back first. -/
def execBackInvalidate (key half : Nat) (data : Bool) (s : State) : Res :=
  let h := halfOf s key
  let next : Half2 := if data && halfState h half != .i then .s else .i
  let m := h.hostMask &&& halfMask half
  if isParked s (.bridge key) then .next s
  else if halfState h half = .e ∧ m ≠ 0 then
    match translate s (keyAsid key) (keyVa key) with
    | .fail _ => .next (heatMiss s (keyAsid key) (keyVa key))
    | .ok p =>
      if cmpRoom s p (frameOf p (keyVa key)) (mergeLine (pocLine s key p) h.hostData m) then
        .next (dropHalf (pocWrite s key p h.hostData m 0 (straddleSettle s key m)) key half next)
      else .next (parkFull s 0 (keyAsid key) (keyVa key) p 0 ⟨.bridge key, keyVa key, []⟩)
  else .next (dropHalf s key half next)

end Sys2Proof.Machine
end

