-- ==== Sys2Proof/Machine/Host.lean ====
section
/-! DEFINITION. Module reset, the host's accesses, keys, attestation, power states, the Renair counters and the
reference clock (spec/18_host.md R353 to R366; spec/22_prog_counters.md R386). -/

namespace Sys2Proof.Machine

/-! ### Module reset (R366) -/

/-- Outcomes of a boot step (R366). -/
def bootOk : Nat := 0
def bootSkipped : Nat := 1
def bootReplaced : Nat := 2
def bootFatal : Nat := 3

/-- The journal of a step: OK once, or one entry for each unit that failed. -/
def journalStep (s : State) (step outcome : Nat) (units : List Nat) : State :=
  { s with journal := s.journal ++ (if units.isEmpty then [⟨step, bootOk, 0, s.ticks⟩]
                                    else units.map (fun u => ⟨step, outcome, u, s.ticks⟩)) }

/-- Step 1: channels trained at their rates, or skipped with their banks DEGRADED. -/
def bootChannels (s : State) (b : BootInput) : State :=
  let s1 := b.rates.foldl (fun t e => modStack t (e.1 / 32) (fun k => { k with rates := setD 0 k.rates (e.1 % 32) e.2 })) s
  let s2 := b.badChannels.foldl (fun t c => modStack t (c / 32) (fun k =>
    { k with degraded := (List.range 256).map (fun i => c % 32 * 256 + i) ++ k.degraded })) s1
  let replaced := (b.rates.filter (fun e => e.2 != 0)).map (·.1)
  let s3 := journalStep s2 1 bootSkipped b.badChannels
  if replaced.isEmpty then s3
  else { s3 with journal := s3.journal.filter (fun e => !(e.step == 1 && e.outcome == bootOk)) ++
      replaced.map (fun u => ⟨1, bootReplaced, u, s.ticks⟩) }

/-- Steps 2 to 5: slices, cores, key slots and links. -/
def bootUnits (s : State) (b : BootInput) : State :=
  let s1 := b.badSlices.foldl (fun t k => modStack t k (fun x => { x with skipped := true })) s
  let s2 := b.badCores.foldl (fun t p => modPhys t p (fun x => { x with skipped := true })) s1
  journalStep (journalStep (journalStep (journalStep s2 2 bootSkipped b.badSlices) 3 bootSkipped b.badCores)
    4 bootSkipped b.badSlots) 5 bootSkipped b.badPorts

/-- The dies whose chosen reeve core starts (R307). -/
def reevesUp (b : BootInput) : List Nat :=
  (List.range 8).filter (fun d => !b.badReeves.contains d && !b.badCores.contains (b.reeves.getD d 0))

/-- The die whose reeve serves die d: the first in ascending order modulo 8 whose reeve started. -/
def servingDie (up : List Nat) (d : Nat) : Option Nat :=
  ((List.range 8).map (fun i => (d + i) % 8)).find? (fun e => up.contains e)

/-- The firmware's head on the reeve core of a die: task 0, the die as its logical core number. It has no launch record, and
the spec gives it no job seed: the model's choice is the seed 0 (R83, log 43). -/
def startReeve (b : BootInput) (s : State) (d : Nat) : State :=
  let p := b.reeves.getD d 0
  let s1 := modPhys s p (fun x => { x with power := .on })
  setCore s1 (lcKey 0 d) { LCore.reset with
    lstate := 1, phys := p, ctxs := setD Ctx.reset [] 0 (startedCtx 0#64 d 0 b.entry 0#64) }

/-- Step 6: the reeves start. A die whose reeve does not is served by another's; with none, boot ends in STANDBY. -/
def bootReeves (s : State) (b : BootInput) : State :=
  let up := reevesUp b
  let down := (List.range 8).filter (fun d => !up.contains d)
  if up.isEmpty then
    { s with journal := s.journal ++ [⟨6, bootFatal, 0, s.ticks⟩], modPower := .standby }
  else
    let s1 := journalStep (up.foldl (startReeve b) s) 6 bootReplaced down
    { s1 with reeves := (List.range 8).filterMap (fun d => (servingDie up d).map (fun e => (d, lcKey 0 e))) }

/-- What the firmware has set up by the end of boot (R326, R357): memory, the root table, functions, yards, slots. -/
def bootFirmware (s : State) (b : BootInput) : State :=
  let s1 := { b.image.foldl (fun t e => setMemByte t e.1 e.2) s with asidbase := b.asidBase &&& 0xFFFFFFFFFFFFF000#64 }
  let s2 := b.vfs.foldl (fun t e => modVf t e.1 (fun v => { v with part := e.2.1, asid := e.2.2 })) s1
  let s3 := b.yards.foldl (fun t e => modPart t e.2 (fun p => { p with yards := p.yards ++ [e.1] })) s2
  (b.slots.filter (fun e => !b.badSlots.contains e.1)).foldl (fun t e =>
    modPart t e.2 (fun p => { p with slots := p.slots ++ [e.1] })) s3

/-- The module at the beginning of boot: every register at its reset value. What outlives a reset stays: the host's own
memory, and the key indices used, which lie in fuses (R360). -/
def bootStart (s : State) (b : BootInput) : State :=
  { State.reset with
    mem := s.mem.filter (fun c => decide (2 * 2 ^ 48 ≤ c.1)), quoteIndex := s.quoteIndex, melt := b.melt, rfz := b.rfz
    cur := s.cur, agenda := s.agenda, draws := s.draws, taken := s.taken }

/-- MODULE_RESET (R366). Without a firmware whose signature checks, no reeve runs and nothing is assigned (R361). -/
def execModuleReset (b : BootInput) (s : State) : Res :=
  let s0 := bootStart s b
  let s1 := { s0 with
    journal := [⟨0, if b.firmwareOk then bootOk else bootFatal, 0, s0.ticks⟩]
    security := if b.firmwareOk then .verified else .unverified }
  let s2 := bootUnits (bootChannels s1 b) b
  .next (if b.firmwareOk then bootReeves (bootFirmware s2 b) b else s2)

/-! ### The command queue (R354, R361) -/

/-- Did some link of a range of ports train (R366)? Ports 0 and 1 are the CXL ports, 2 to 13 the Renair ports (log 43). -/
def linkUp (s : State) (lo n : Nat) : Bool :=
  (List.range n).any (fun i => !(s.journal.any (fun e => e.step == 5 && e.outcome == bootSkipped && e.unit == lo + i)))
def cxlUp (s : State) : Bool := linkUp s 0 2
def renairUp (s : State) : Bool := linkUp s 2 12

/-- An IDLE module wakes: its reeve cores are powered again. -/
def wakeModule (s : State) : State :=
  if s.modPower = .idle then
    s.reeves.foldl (fun t e => match standsOn t e.2 with
      | some p => wakeCore t p
      | none => t) { s with modPower := .active }
  else s

/-- HQDB_WRITE (R354): the address enters the queue of 16, or REF is set. In STANDBY the register page is not served. -/
def execHqdbWrite (vf : Nat) (value : Word) (s : State) : Res :=
  let a := value &&& 0xFFFFFFFFFFFFFF80#64
  if s.modPower = .standby ∨ cxlUp s = false then .next s
  else if 16 ≤ (vfOf s vf).queue.length then .next (modVf s vf (fun v => { v with ref := true }))
  else .next (wakeModule (modVf s vf (fun v => { v with queue := v.queue ++ [a.toNat], hqdb := a })))

/-- HQSTAT as it is read (R354). -/
def hqstat (v : VFunc) : Word := word ((if v.ref then 256 else 0) + v.queue.length)

/-! ### The host window (R351, R352, R355) -/

/-- The address space and the address of a byte of a window, when its page is valid: the table gives bits 47:16, and the
others are those of a canonical address (R327, R351). -/
def windowByte (s : State) (vf a : Nat) : Option (Nat × Nat) :=
  let w := getD 0#64 (vfOf s vf).window (a / 65536)
  if a / 65536 < 65536 ∧ bit w 63 = true then some (bits w 15 0, canonVa (bits w 47 16 * 65536 + a % 65536))
  else none

/-- The byte the host sees: what it has modified itself, else the point of coherence. -/
def hostByte (s : State) (asid va : Nat) (p : Page) : Byte :=
  let h := halfOf s (lineKey asid va)
  if inMask h.hostMask (va % 128) then lineByte h.hostData (va % 128)
  else lineByte (pocLine s (lineKey asid va) p) (va % 128)

/-- One byte of a host read: the host holds the half at least in S. -/
def hostRead (s : State) (asid va : Nat) (p : Page) : State × Byte :=
  let key := lineKey asid va
  let half := va % 128 / 64
  let h := halfOf s key
  let s1 := if p.aliased then s else (mscFill s key p).1
  (if halfState h half = .i then setHalf s1 key (setHalfState h half .s) else s1, hostByte s asid va p)

/-- One byte of a host write: the host holds the half in E and has modified the byte. -/
def hostWrite (s : State) (asid va : Nat) (b : Byte) : State :=
  let key := lineKey asid va
  let m := spanMask (va % 128) 1
  let h := halfOf s key
  setHalf s key (setHalfState { h with hostData := mergeLine h.hostData (natLine b.toNat (va % 128) 1) m
                                       hostMask := h.hostMask ||| m } (va % 128 / 64) .e)

/-- The bytes of an access with their translations: none for an invalid page; some none while one does not translate. -/
def hostBytes (s : State) (a : HostAccess) : Option (Option (List (Nat × Nat × Page × Byte))) :=
  let places := a.bytes.zipIdx.map (fun e => (windowByte s a.vf (a.addr + e.2), e.1))
  if places.any (fun e => e.1.isNone) then none
  else
    let ts := places.filterMap (fun e => match e.1 with
      | some (asid, va) => match translate s asid va with
        | .ok p => some (asid, va, p, e.2)
        | .fail _ => none
      | none => none)
    some (if ts.length = places.length then some ts else none)

/-- The first byte of an access that does not translate has cost a walk (R338). -/
def hostMiss (s : State) (a : HostAccess) : State :=
  match (a.bytes.zipIdx.filterMap (fun e => windowByte s a.vf (a.addr + e.2))).find?
      (fun x => match translate s x.1 x.2 with
        | .ok _ => false
        | .fail _ => true) with
  | some x => heatMiss s x.1 x.2
  | none => s

/-- HOST_WINDOW_ACCESS (R355): unsupported request on an invalid page; else the host reads, or takes the bytes to
modify. -/
def execHostWindowAccess (a : HostAccess) (s : State) : Res :=
  if cxlUp s = false then .next s
  else if s.modPower = .standby then .next { s with hostErrors := s.hostErrors ++ [(a.vf, a.addr)] }
  else match hostBytes s a with
    | none => .next { s with hostErrors := s.hostErrors ++ [(a.vf, a.addr)] }
    | some none => .next (hostMiss s a)
    | some (some bs) =>
      if a.write then .next (bs.foldl (fun t e => hostWrite t e.1 e.2.1 e.2.2.2) s)
      else
        let r := bs.foldl (fun (acc : State × List Byte) e =>
          let x := hostRead acc.1 e.1 e.2.1 e.2.2.1
          (x.1, acc.2 ++ [x.2])) (s, [])
        .next { r.1 with hostReads := s.hostReads ++ [(a.vf, r.2)] }

/-! ### Keys, attestation, debug access (R359 to R361) -/

/-- Every MSC line whose page satisfies f is written back and dropped, and every hold on such a page ends (R192). -/
def dropLines (s : State) (f : Page → Bool) : State :=
  ((s.msc.filter (fun e => f e.2.page)).map (·.1)).foldl mscDrop (flushHolds s (fun _ p => f p))

/-- KEY_SLOT_WRITE (R359): a key enters a slot of the function's partition. With the debug access PORT, slots hold only
debug keys (R361). -/
def execKeySlotWrite (vf slot : Nat) (key : SlotKey) (s : State) : Res :=
  if s.security = .verified ∧ slot ≠ 0 ∧ (s.debug = .window ∨ key.isDebug = true) ∧
      (partOf s (vfOf s vf).part).slots.contains slot = true then
    let s1 := dropLines s (fun p => p.key == slot)
    .next { s1 with keySlots := put s1.keySlots slot key.value }
  else .next s

/-- Key indices of the attestation key (R360). -/
def quoteKeys : Nat := 65536

/-- ATTESTATION_QUOTE (R360): signed with the next index, or NO_KEYS. -/
def execAttestationQuote (vf nonce : Nat) (s : State) : Res :=
  if s.security = .unverified then .next s
  else
    let q : Quote := ⟨vf, nonce % 2 ^ 256, none, s.journal.map Config.digest, s.security, s.debug, 0⟩
    if quoteKeys ≤ s.quoteIndex then .next { s with quotes := s.quotes ++ [q] }
    else
      let signed := { q with index := some s.quoteIndex }
      .next { s with quoteIndex := s.quoteIndex + 1
                     quotes := s.quotes ++ [{ signed with signature := Config.signature s.quoteIndex signed }] }

/-- A task is ended by the unlock: its dirty bytes are written, its cores retire; its CAUSE is not stated (log 5). -/
def endTask (s : State) (task : Nat) : State :=
  let s1 := (taskCores s task).foldl (fun t lc => (flushCore t lc).1) s
  let s2 := retireCrew (abandonTask s1 task) task
  let f := takeFree ((List.range 64).foldl (fun u m => endHoldsAt u m (fun _ h => h.task == task) 0) s2)
  modTask f.2 task (fun t =>
    { t with stage := .done, cause := f.1.toNat % 15 + 1, rolling := false })

/-- DEBUG_UNLOCK (R361): every key slot is zeroed and every task ended before the debug access is PORT. -/
def execDebugUnlock (granted : Bool) (s : State) : Res :=
  if granted then
    let s1 := dropLines s (fun p => p.key != 0)
    let s2 := (keys s1.tasks).foldl endTask { s1 with keySlots := [] }
    .next { s2 with debug := .port }
  else .next s

/-! ### Power states (R361) -/

/-- Nothing is left for the module to do: no task is ready or placed, no queue entry waits, no slice is kept awake. -/
def nothingToDo (s : State) : Bool :=
  s.tasks.all (fun e => e.2.stage == .pending) && s.vfs.all (fun v => v.2.queue.isEmpty) &&
    (List.range 16).all (fun k => !prioHoldLives s k) &&
    s.cores.all (fun e => taskNum e.1 == 0 || e.2.lstate == 0)

/-- IDLE_ENTRY (R361): every core is powered down, and every slice enters retention (R192). Retained ways are no core's
and stay until R291 ends them (log 23). -/
def execIdleEntry (s : State) : Res :=
  if s.security = .verified ∧ s.modPower = .active ∧ nothingToDo s = true then
    let s1 := { s with phys := s.phys.map (fun e => (e.1, { e.2 with power := .off }))
                       rows := s.rows.map (fun e => (e.1, { e.2 with inrush := [] })) }
    let s2 := (List.range 64).foldl (fun t m => endHoldsAt t m (fun _ _ => true) 12) s1
    let s3 := (goodStacks s2).foldl (fun t k => modStack t k (fun q => { q with asleep := true })) s2
    .next { s3 with modPower := .idle }
  else .next s

/-! ### Renair flits (R363, R386) -/

/-- n events of a code on every core of a die, with owner partition 0, virtual function 0. -/
def countFlits (s : State) (die code n : Nat) : State :=
  ((keys s.phys).filter (fun p => dieOf p == die)).foldl (fun t p =>
    (List.range n).foldl (fun u _ => countEvent u p code 1 (some (0, 0))) t) s

/-- The page of a byte that the link engine writes: it lies in the stacks. -/
def stackPage (s : State) (asid va : Nat) : Option Page :=
  match translate s asid va with
  | .ok p => if tierOf p.frame = 0 then some p else none
  | .fail _ => none

/-- How far the writes of received data have come: all of it is written, or a byte waits: for the host's hold, for its page
to lie in the stacks, or for storage (R342). -/
inductive Linked where
  | done (s : State)
  | waits
  | misses (va : Nat)
  | full (va : Nat) (p : Page)

/-- The bytes of received data reach the point of coherence one after another. -/
def linkWrite (asid : Nat) : State → List (Nat × Byte) → Linked
  | s, [] => .done s
  | s, (va, b) :: rest =>
    match stackPage s asid va with
    | none => .misses va
    | some p =>
      let key := lineKey asid va
      let d := natLine b.toNat (va % 128) 1
      let m := spanMask (va % 128) 1
      if pocReady s key p d m then linkWrite asid (pocWrite s key p d m 0 none) rest
      else if halfBlocks s key m true then .waits
      else .full va p

/-- The places of received data and their bytes. -/
def linkBytes (f : Received) : List (Nat × Byte) := f.bytes.zipIdx.map (fun e => ((f.addr + e.2) % 2 ^ 64, e.1))

/-- Is the Renair engine of a die at work: a link is up, and the module is not in STANDBY (R361)? -/
def renairRuns (s : State) : Bool := renairUp s && s.modPower != .standby

/-- RENAIR_RECEIVE (R356, R386): flits arrive, and the link engine writes the data they carry into stack pages, as a release
at SYS. Data that finds no storage in a compressed page parks (R342). -/
def execRenairReceive (die : Nat) (flits : Received) (s : State) : Res :=
  if !renairRuns s || isParked s (.link die) then .next s
  else match linkWrite flits.asid s (linkBytes flits) with
    | .done t => .next (countFlits t die 0x11 flits.count)
    | .waits => .next s
    | .misses va => .next (heatLookup s flits.asid va)
    | .full va p => .next (parkFull s 0 flits.asid va p 0 ⟨.link die, va, []⟩)

/-- RENAIR_SEND (R356, R386): flits leave. -/
def execRenairSend (die flits : Nat) (s : State) : Res :=
  if renairRuns s then .next (countFlits s die 0x10 flits) else .next s

/-! ### The reference clock (R105, R386) -/

/-- The owner of a core's events that belong to no instruction (R363). -/
def coreOwner (s : State) (p : Nat) : Option (Nat × Nat) :=
  match coresOn s p with
  | lc :: _ => ownerTag s (taskNum lc)
  | [] => none

/-- Row steps that are due (R294, R297, R301). -/
def rowDue (s : State) (r : Row) : Bool :=
  (r.leaseLive && decide (r.leaseEnd ≤ s.ticks)) ||
    (r.leaseLive && r.railUp && !r.sprint && decide (r.railSince + 2 * usTicks ≤ s.ticks)) ||
    (!r.inrush.isEmpty && decide (r.inrushNext ≤ s.ticks))

/-- Core steps that are due (R155, R291, R300, R301). -/
def coreDue (s : State) (p : Nat) (q : PCore) : Bool :=
  (decide (256 ≤ q.vIdle) && !q.gated) || idleOver s p || keptOver s p || (match q.power with
    | .waking t => decide (t + readyTicks ≤ s.ticks)
    | _ => false)

/-- Task steps that are due (R286). -/
def taskDue (s : State) (t : Task) : Bool := ageDue s t || (starves s t && s.starved.isNone)

/-- A halt-group stop reaches its member within 40 cycles of its row (R322), which the row counts. For a member that
stands in
no row whose clock runs they are 40 cycles of the nominal clock, a tick each. -/
def stopOverdue (s : State) (d : StopDue) : Bool :=
  let counted := match standsOn s d.lc with
    | some p => coreWorks s p
    | none => false
  !counted && decide (d.since + stopCycles ≤ s.ticks)

/-- Is some step due that must come before the next tick? -/
def overdue (s : State) : Bool :=
  s.rows.any (fun e => rowDue s e.2) || (activeRows s).any (cycleDue s) || s.phys.any (fun e => coreDue s e.1 e.2) ||
    s.tasks.any (fun e => taskDue s e.2) || s.stopsDue.any (stopOverdue s) ||
    s.mills.any (fun e => e.2.holds.any (fun h => holdAged s h.2)) ||
    s.sensors.any (fun e => e.2.pending.isSome && !dwelling s e.2) || meltDue s

/-- REFERENCE_TICK (R105, R386): the reference counter advances, once every step due has been made, and every counter
that selects event 0x01 may count it. -/
def execReferenceTick (s : State) : Res :=
  if overdue s then .next s
  else .next ((keys s.phys).foldl (fun t p => countEvent t p 0x01 1 (coreOwner t p))
    { s with ticks := (s.ticks + 1) % 2 ^ 64 })

end Sys2Proof.Machine
end

