-- ==== Sys2Proof/Machine/Registers.lean ====
section
/-! DEFINITION. The system registers: SYSRD and SYSWR, and the writes that the register page of a virtual function and the
reeve make (spec/00_scope.md R4; spec/16_traps.md R310, R315, R317 to R321; spec/17_memsys.md R326; spec/18_host.md R354,
R362 to R365; spec/22_prog_counters.md R385, R386). -/

namespace Sys2Proof.Machine

/-! ### Context registers 0x008 to 0x017 -/

/-- A context register as it is read. -/
def ctxReg (x : Ctx) (n : Nat) : Word :=
  match n with
  | 0x008 => x.ofrst
  | 0x009 => x.barst
  | 0x00A => x.allot
  | 0x00B => x.psel
  | 0x00C => x.prio
  | 0x00D => x.srg
  | 0x00E => x.fmode
  | 0x00F => x.elit
  | 0x014 => x.waddr0
  | 0x015 => x.waddr1
  | 0x016 => x.wctl
  | 0x017 => x.haltg
  | _ => if 0x010 ≤ n ∧ n ≤ 0x013 then getD 0#64 x.ysg (n - 0x010) else 0#64

/-- The RW bits of ELIT (R47). -/
def elitMask : Word := 0x8000000000FFFFFF#64

/-- A write under the access codes (R4): the RW and W1C fields. -/
def writeCtxReg (x : Ctx) (n : Nat) (v : Word) : Ctx :=
  match n with
  | 0x00C => { x with prio := v &&& 3#64 }
  | 0x00D => { x with srg := writeSrg v }
  | 0x00E => { x with fmode := writeFmode x.fmode v }
  | 0x00F => { x with elit := v &&& elitMask }
  | 0x014 => { x with waddr0 := v &&& 0xFFFFFFFFFFFFFFF8#64 }
  | 0x015 => { x with waddr1 := v &&& 0xFFFFFFFFFFFFFFF8#64 }
  | 0x016 => { x with wctl := v &&& 0x7F7F#64 }
  | _ => x

/-! ### Core, row and counter registers -/

/-- MXJOB.LOW (R224). -/
def jobLow (c : LCore) : Nat := c.mxOut.headD c.mxNext

/-- A core register that belongs to the logical core: STASH, MXACC, MXJOB (R168, R222, R224). -/
def coreReg (c : LCore) (n : Nat) : Word :=
  match n with
  | 0x100 => word (c.maps.length * 256 + c.ways)
  | 0x101 => c.mxacc
  | 0x102 => word (jobLow c * 65536 + c.mxNext)
  | _ => 0#64

/-- CLKDIV after a write (R299). -/
def writeClkdiv (old v : Word) : Word := if bits v 2 0 < 6 then v &&& 7#64 else old

/-- DROOP (R302). -/
def droopWord (s : State) (row : Nat) : Word :=
  let r := rowOf s row
  let used := max (recentPulses (yardOf s (2 * row)) (rowNow s r)).length
    (recentPulses (yardOf s (2 * row + 1)) (rowNow s r)).length
  word (r.alarms % 2 ^ 32 * 2 ^ 32 + used % 256 * 256 + (if r.droop = .halved then 2 else 0) +
    (if r.droop = .stretched then 1 else 0))

/-- A row register as SYSRD reads it (R292, R293, R302). -/
def rowReg (s : State) (row n : Nat) : Word :=
  match n with
  | 0x300 => meltWord s
  | 0x301 => leaseWord s row
  | 0x302 => (rowOf s row).drth
  | 0x303 => droopWord s row
  | 0x304 => (rowOf s row).cinj
  | _ => 0#64

/-- A write of a row register's RW fields. -/
def writeRowReg (s : State) (row n : Nat) (v : Word) : State :=
  match n with
  | 0x302 => modRow s row (fun r => { r with drth := v &&& 0xFF#64 })
  | 0x304 => modRow s row (fun r => { r with cinj := v &&& 0xFF1F#64 })
  | _ => s

/-- Does a number name a counter register (R362)? -/
def isCounter (n : Nat) : Bool :=
  (decide (0x400 ≤ n) && decide (n ≤ 0x403)) || (decide (0x408 ≤ n) && decide (n ≤ 0x40B)) || n == 0x410 || n == 0x411

/-- A counter register or CTAG of a physical core. -/
def cntReg (q : PCore) (n : Nat) : Word :=
  if 0x400 ≤ n ∧ n ≤ 0x403 then getD 0#64 q.cnt (n - 0x400)
  else if 0x408 ≤ n ∧ n ≤ 0x40B then getD 0#64 q.csel (n - 0x408)
  else if n = 0x410 then q.covf
  else if n = 0x411 then q.chbnd
  else if n = 0x80D then q.ctag else 0#64

/-- A write of one: COVF is W1C to SYSWR and RW to the window (R385). No write makes an overflow signal. -/
def writeCntReg (q : PCore) (n : Nat) (v : Word) (window : Bool) : PCore :=
  if 0x400 ≤ n ∧ n ≤ 0x403 then { q with cnt := setD 0#64 q.cnt (n - 0x400) (v &&& 0xFFFFFFFFFFFF#64) }
  else if 0x408 ≤ n ∧ n ≤ 0x40B then { q with csel := setD 0#64 q.csel (n - 0x408) (v &&& 0xF0FF#64) }
  else if n = 0x410 then { q with covf := if window then v &&& 0xF#64 else q.covf &&& ~~~v }
  else if n = 0x411 then { q with chbnd := v &&& 0xFFFFFFFFFFFF#64 }
  else if n = 0x80D then { q with ctag := v &&& 0xFF3F#64 } else q

/-! ### Reeve registers (R310, R326) -/

/-- A ring base: BASE and ORDER. -/
def ringBaseMask : Word := 0xFFFFFFFFFFFFF00F#64

/-- A ring pointer after a write: HEAD only. -/
def writeHead (old v : Word) : Word := setBits old 63 32 (bits v 63 32)

/-- FPQBASE, FPQPTR and DBGBASE of a core. -/
def reeveReg (q : PCore) (n : Nat) : Word :=
  match n with
  | 0x800 => q.fpqbase
  | 0x801 => q.fpqptr
  | 0x802 => q.dbgbase
  | _ => 0#64
def writeReeveReg (q : PCore) (n : Nat) (v : Word) : PCore :=
  match n with
  | 0x800 => { q with fpqbase := v &&& ringBaseMask }
  | 0x801 => { q with fpqptr := writeHead q.fpqptr v }
  | 0x802 => { q with dbgbase := v &&& 0xFFFFFFFFF0000000#64 }
  | _ => q

/-- A package register as it is read (R326). -/
def packageReg (s : State) (n : Nat) : Word :=
  match n with
  | 0x803 => s.mrqbase
  | 0x804 => s.mrqptr
  | 0x805 => s.mrsolve
  | 0x806 => s.asidbase
  | 0x807 => s.tlbinv
  | 0x808 => s.heatk
  | 0x809 => s.hvcmd
  | 0x80A => s.hvbuf
  | 0x80B => chrateRead s
  | 0x80C => s.dictld
  | _ => 0#64

/-- A write of MRSOLVE (R326, R337). -/
def mrsolveWrite (s : State) (v : Word) : State :=
  let s1 := { s with mrsolve := v &&& 0x3FFFFFFFF#64 }
  match bits v 33 32 with
  | 1 => replayRecord s1 (bits v 31 0)
  | 2 => unmapRecord s1 (bits v 31 0)
  | _ => s1

/-- A write of a package register starts the action its table names (R326). -/
def writePackageReg (s : State) (n : Nat) (v : Word) : State :=
  match n with
  | 0x803 => { s with mrqbase := v &&& ringBaseMask }
  | 0x804 => { s with mrqptr := writeHead s.mrqptr v }
  | 0x805 => mrsolveWrite s v
  | 0x806 => { s with asidbase := v &&& 0xFFFFFFFFFFFFF000#64 }
  | 0x807 => tlbinvWrite s v
  | 0x808 => { s with heatk := v &&& 0xF#64 }
  | 0x809 => hvcmdWrite s v
  | 0x80A => { s with hvbuf := v &&& 0xFFFFFFFFFFFFFF80#64 }
  | 0x80B => chrateWrite s v
  | 0x80C => dictldWrite s v
  | _ => s

/-! ### What a program may reach (R320, R365) -/

/-- Does a number name a register? -/
def regNamed (n : Nat) : Bool :=
  (decide (0x008 ≤ n) && decide (n ≤ 0x017)) || (decide (0x100 ≤ n) && decide (n ≤ 0x103)) ||
    (decide (0x300 ≤ n) && decide (n ≤ 0x304)) || isCounter n || (decide (0x800 ≤ n) && decide (n ≤ 0x80D))

/-- Does the current task hold all 16 cores of its row? -/
def holdsRow (s : State) : Bool :=
  (List.range 16).all (fun i =>
    (coresOn s (16 * myRow s + i)).any (fun lc => taskNum lc == taskNum s.cur.1))

/-- Does CTAG of the own core name the current task's owner (R365)? -/
def ownsCounters (s : State) : Bool :=
  match ownerTag s (taskNum s.cur.1) with
  | some (p, v) =>
    let t := (physOf s (myCore s).phys).ctag
    bits t 5 0 == p && bits t 14 8 == v
  | none => false

/-- The trap of an access to a register, if any (R320, R365). -/
def regTrap (s : State) (n : Nat) (write : Bool) : Option Nat :=
  if regNamed n = false then some causeIllegalInsn
  else if 0x800 ≤ n ∧ isReeve s s.cur.1 = false then some causeProtect
  else if write = true ∧ 0x300 ≤ n ∧ n ≤ 0x304 ∧ holdsRow s = false then some causeProtect
  else if write = true ∧ isCounter n = true ∧ ownsCounters s = false then some causeProtect
  else none

/-- A register as the current context reads it. -/
def readReg (s : State) (n : Nat) : Word :=
  let q := physOf s (myCore s).phys
  if n < 0x100 then ctxReg (me s) n
  else if n = 0x103 then q.clkdiv
  else if n < 0x200 then coreReg (myCore s) n
  else if n < 0x400 then rowReg s (myRow s) n
  else if n < 0x800 then (if ownsCounters s then cntReg q n else 0#64)
  else if n = 0x80D then q.ctag
  else if n < 0x803 then reeveReg q n
  else packageReg s n

/-- A write by the current context. -/
def writeReg (s : State) (n : Nat) (v : Word) : State :=
  let p := (myCore s).phys
  if n < 0x100 then modMe s (fun x => writeCtxReg x n v)
  else if n = 0x103 then modPhys s p (fun q => { q with clkdiv := writeClkdiv q.clkdiv v })
  else if n < 0x200 then s
  else if n < 0x400 then writeRowReg s (myRow s) n v
  else if n < 0x800 ∨ n = 0x80D then modPhys s p (fun q => writeCntReg q n v false)
  else if n < 0x803 then modPhys s p (fun q => writeReeveReg q n v)
  else writePackageReg s n v

/-! ### SYSRD and SYSWR (R319) -/

/-- The register number: lit, widened by a pending extension (R45, R49). -/
def regNum (x : Ctx) (reg : F6) : Nat := (litVal x true reg).toNat

/-- SYSRD: FMODE waits for the context's earlier vector instructions, and for an outstanding offer with a vector destination
too, whose reply raises flags: R77 does not name it (log 43). -/
def execSysrd (d reg : F6) (s : State) : Res :=
  let names : Names := ⟨[], some d.toNat, [], []⟩
  issue names s (fun t =>
    match regTrap t (regNum (me t) reg) false with
    | some cause => trap t cause
    | none =>
      if regNum (me t) reg = 0x00E ∧ (me t).vpend ≠ [] then
        waitAt t (sourceWait t ⟨[], none, [], (me t).vpend⟩)
      else finish names long t (readReg t (regNum (me t) reg)))

/-- What a SYSWR leaves in ELIT: what it wrote there, but for an extension that it has itself consumed (R47, R49). -/
def elitAfter (n : Nat) (v old : Word) (x : Ctx) : Ctx :=
  if n = 0x00F then { x with elit := if bit old 63 then v &&& 0xFFFFFF#64 else v &&& elitMask } else x

/-- SYSWR. -/
def execSyswr (reg : F6) (a : Opnd) (s : State) : Res :=
  let names : Names := ⟨[a], none, [], []⟩
  issue names s (fun t =>
    let n := regNum (me t) reg
    let v := opndVal t false a
    match regTrap t n true with
    | some cause => trap t cause
    | none =>
      .next (modMe (advance (writeReg (consumePorts t [a]) n v) (pcAfter t long))
        (elitAfter n v (me t).elit)))

/-! ### TRAP, BRK, reserved words (R56, R316) -/

/-- TRAP. -/
def execTrap (n : F6) (s : State) : Res := trapAt s causeTrap n.toNat 0#64 []

/-- BRK. -/
def execBrk (s : State) : Res := trap s causeBreak

/-- RESERVED_WORD: the current context has fetched a reserved word, which the packet shows as the word at PC (R308). -/
def execReservedWord (_ : BitVec 32) (s : State) : Res := trap s causeIllegalInsn

end Sys2Proof.Machine
end

