-- ==== Sys2Proof/Machine/Debug.lean ====
section
/-! DEFINITION. Fault packets, delivered causes, halt-group stops, port words, and the debug window
(spec/16_traps.md R305 to R315, R322 to R325; spec/06_contexts.md R120 to R125; spec/22_prog_counters.md R385). -/

namespace Sys2Proof.Machine

/-! ### Delivered causes (R50, R305, R306) -/

/-- DELIVERED_TRAP: a context whose core stands takes its oldest pending cause. -/
def execDeliveredTrap (lc c : Nat) (s : State) : Res :=
  if (standsOn s lc).isSome && deliverable (ctxOf s lc c) then .next (deliver s lc c) else .next s

/-! ### Halt-group stops (R322) -/

/-- The trigger's PHYS and CTX in the packet's word 6 (R309). -/
def stopDetail (d : StopDue) : List Word := [word d.group, word (d.trigPhys % 2 ^ 11 + d.trigCtx % 16 * 2 ^ 11)]

/-- HALT_GROUP_STOP: the stop becomes pending; a frozen member keeps it so. -/
def execHaltGroupStop (lc c : Nat) (s : State) : Res :=
  match s.stopsDue.find? (fun d => d.lc == lc && d.ctx == c) with
  | some d => .next (pendCause { s with stopsDue := s.stopsDue.erase d } lc c ⟨causeBreak, 1, 0#64, stopDetail d⟩)
  | none => .next s

/-! ### Fault packets (R307, R308) -/

/-- The die a packet comes from: PHYS<10:8> of its word 0. -/
def packetDie (p : Packet) : Nat := bits (p.words.headD 0#64) 32 30

/-- The reeve core that a packet goes to: the die's, or for a context of a reeve core the first other one in order.
Where one
reeve core serves every die there is no other, and the spec does not say where its own trap goes: the model's choice is that
the packet waits in the die (log 43). -/
def packetReeve (s : State) (p : Packet) : Option Nat :=
  let d := packetDie p
  if isReeve s p.lc then
    ((List.range 7).filterMap (fun i => reeveOf s ((d + i + 1) % 8))).find? (fun r => r != p.lc)
  else reeveOf s d

/-- The number of the 128 bytes of a packet. -/
def packetBytes : Nat := 128

/-! ### Port words (R120 to R124) -/

/-- The words a queue of a logical core holds (R120, R124). -/
def queueCapacity (s : State) (lc : Nat) : Nat :=
  match standsOn s lc with
  | some p => if (coresOn s p).length ≤ 1 then 16 else 8
  | none => 16

/-- Has the logical core a place for words: placed, moving, folded or lodged (R123, R289)? -/
def takesWords (c : LCore) : Bool := c.lstate != 0 && !c.retired

/-- No earlier word from the same sender to the same queue is on its way (R122). -/
def firstToQueue (s : State) (idx : Nat) (w : PortWord) : Bool :=
  !((s.words.take idx).any (fun v => v.sender == w.sender && v.dest == w.dest && v.port == w.port))

/-- PORT_WORD_DELIVERY: a word enters its queue, or is held (R123). -/
def execPortWordDelivery (idx : Nat) (s : State) : Res :=
  match s.words[idx]? with
  | some w =>
    let c := coreOf s w.dest
    if takesWords c && firstToQueue s idx w && decide ((queueOf c w.port).length < queueCapacity s w.dest) then
      .next (setCore { s with words := s.words.eraseIdx idx } w.dest
        { c with queues := setD [] c.queues w.port (queueOf c w.port ++ [w.value]) })
    else .next s
  | none => .next s

/-! ### Ending a context (R119, R237, R249, R250, R313) -/

/-- A copy of the context that has stopped with a fault is abandoned; a fault not yet delivered is reported for
record. -/
def endCopy (lc c : Nat) (x : Ctx) (s : State) (k : Copy) : State :=
  match k.fault with
  | some (sub, addr) =>
    let told := x.pend.all (fun p => p.cause != causeCopy || p.detail != copyDetail k)
    abandonCopy (if told then s else recordPacket s lc c causeCopy sub (word addr) (copyDetail k)) k
  | none => s
def endCopies (s : State) (lc c : Nat) : State :=
  ((yardOf s (yardNum (coreOf s lc).phys)).copies.filter (fun k => k.lc == lc && k.ctx == c)).foldl
    (endCopy lc c (ctxOf s lc c)) s

/-- Faults of jobs that the context has not been told of are reported for record. -/
def recordJobs (s : State) (lc c : Nat) : State :=
  ((ctxOf s lc c).pend.filter (fun p => p.cause == causeMxMismatch || (p.cause == causePoison && p.sub == 1))).foldl
    (fun t p => recordPacket t lc c p.cause p.sub p.addr p.detail) s

/-- What a head that is being ended left on its way answers to none. -/
def dropHead (s : State) (lc : Nat) : State :=
  let s1 := orphanAll (retireHeld s lc 0) lc 0
  dropWaiter (unpark (unpark (unpark s1 (.access lc 0)) (.fetch lc 0)) (.launch lc 0)) lc 0

/-- A head whose END has begun. -/
def ending (x : Ctx) : Bool := x.dctl == 3 && decide (x.stage = .halting 2)

/-- A head that is being ended retires its logical core once its helpers have halted and its jobs and copies have
completed (R119 steps 3 and 5); a write of its last release that cannot land parks. -/
def finishEnd (s : State) (lc : Nat) : State :=
  if ending (ctxOf s lc 0) = true ∧ helpersDone s lc = true ∧ engineBusy s lc = false then
    match flushCore s lc with
    | (t, none) => retireCore t lc 0
    | (t, some w) => parkWrite t w
  else s

/-- DCTL END: the task's CAUSE is the first cause of a context ended so (R282). -/
def endCtx (s : State) (lc c : Nat) : State :=
  let cause := (ctxOf s lc c).cause
  let s1 := modTask s (taskNum lc) (fun t => { t with cause := if t.cause = 0 then cause else t.cause })
  let s2 := endHoldsOf (recordJobs (endCopies s1 lc c) lc c) lc c
  if c ≠ 0 then haltCtx s2 lc c
  else finishEnd (modCtx (dropHead s2 lc) lc 0 (fun x => { x with dctl := 3, stage := .halting 2, pend := [] })) lc

/-! ### DCTL (R313, R314, R350) -/

/-- A STOP that has not yet been taken. -/
def isStopRequest (p : Pending) : Bool := p.cause == causeBreak && p.sub == 3

/-- A write of DCTL.OP. OP 1 to 3 act only on a frozen context, and OP 4 on a live one that is not; while a task rolls
back every request is dropped; OP 1 to 3 wait until the context's packet is written (R308), and RESUME and STEP for a lodged
core. -/
def dctlWrite (s : State) (lc c op : Nat) : State :=
  let x := ctxOf s lc c
  if rollingBack s lc || x.dctl = 3 then s
  else if op = 4 then
    if x.live && !x.frozen && !x.pend.any isStopRequest then
      pendCause s lc c ⟨causeBreak, 3, 0#64, []⟩
    else s
  else if !(x.live && x.frozen) || op = 0 || 4 < op then s
  else if packetWaits s lc c then modCtx s lc c (fun y => { y with dctl := op })
  else if op = 1 ∨ op = 2 then
    if (standsOn s lc).isSome then resumeCtx s lc c (op == 2) else modCtx s lc c (fun y => { y with dctl := op })
  else endCtx s lc c

/-! ### FAULT_PACKET_WRITE (R308) -/

/-- The request that a frozen context held until its packet was written acts (R308, R313); that of a lodged one waits for
its logical core (R314), and while the task rolls back a request is dropped (R350). -/
def actRequest (s : State) (lc c : Nat) : State :=
  let x := ctxOf s lc c
  if !x.live || !x.frozen || x.dctl = 0 || x.stage ≠ .idle || packetWaits s lc c then s
  else if rollingBack s lc then modCtx s lc c (fun y => { y with dctl := 0 })
  else if x.dctl = 3 then endCtx s lc c
  else if (standsOn s lc).isSome then actHeld s lc c
  else s

/-- FAULT_PACKET_WRITE: the oldest packet of a die enters the ring. It waits while no ring is set or the ring is full, and
parks while its address does not translate. -/
def execFaultPacketWrite (die : Nat) (s : State) : Res :=
  match s.packets.find? (fun p => packetDie p == die) with
  | none => .next s
  | some p =>
    match packetReeve s p with
    | none => .next s
    | some r =>
      let q := physOf s (coreOf s r).phys
      if bits q.fpqbase 63 12 == 0 || ringFull q.fpqbase q.fpqptr || isParked s (.packet die) then .next s
      else
        let tail := ptrTail q.fpqptr
        let va := ringBase q.fpqbase + tail % ringSize q.fpqbase * packetBytes
        match translate s reeveAsid va with
        | .fail e => .next (park s 1 7 reeveAsid va 0 e 0 (.packet die))
        | .ok pg =>
          let s1 := dieWrite { s with packets := s.packets.erase p } (coreDie s r) reeveAsid va packetBytes
            (wordsNat p.words) pg
          let s2 := postWord (modPhys s1 (coreOf s r).phys (fun x => { x with fpqptr := bumpTail x.fpqptr })) r 7 (word tail)
          .next (actRequest s2 p.lc p.ctx)

/-- DCTL as it is read: the request until the action is done; a STEP is done when its instruction has been executed, a
STOP when its cause has been taken. -/
def dctlRead (x : Ctx) : Word :=
  if x.dctl ≠ 0 then word x.dctl
  else if x.stepping then 2#64
  else if x.live && x.pend.any isStopRequest then 4#64 else 0#64

/-- DCTL_RESUME. -/
def execDctlResume (lc c : Nat) (s : State) : Res := .next (dctlWrite s lc c 1)
/-- DCTL_STEP. -/
def execDctlStep (lc c : Nat) (s : State) : Res := .next (dctlWrite s lc c 2)
/-- DCTL_END: the request, or the last steps of one already made. -/
def execDctlEnd (lc c : Nat) (s : State) : Res :=
  if ending (ctxOf s lc c) then .next (finishEnd s lc) else .next (dctlWrite s lc c 3)
/-- DCTL_STOP. -/
def execDctlStop (lc c : Nat) (s : State) : Res := .next (dctlWrite s lc c 4)

/-! ### DSTAT (R313) -/

/-- A pending halt-group stop, and a pending SPRINT_EXPIRED. -/
def isStop (p : Pending) : Bool := p.cause == causeBreak && p.sub == 1
def isExpiry (p : Pending) : Bool := p.cause == causeSprint

/-- DSTAT.WAIT: 7 while the request that the context waits for is parked (R335). -/
def shownWait (x : Ctx) : Nat := if 16 ≤ x.wait then 7 else x.wait % 16

/-- DSTAT as it is read. -/
def dstat (x : Ctx) : Word :=
  word (shownWait x * 2 ^ 20 + (if x.pend.any isStop then 2 ^ 19 else 0) + (if x.pend.any isExpiry then 2 ^ 18 else 0) +
    (if x.frozen then 2 ^ 17 else 0) + (if x.live then 2 ^ 16 else 0) + x.sub % 256 * 2 ^ 8 + x.cause % 256)

/-- A write of DSTAT: PSTOP and PEXP are cleared by 1. -/
def writeDstat (x : Ctx) (v : Word) : Ctx :=
  { x with pend := x.pend.filter (fun p => !((bit v 19 && isStop p) || (bit v 18 && isExpiry p))) }

/-! ### Context registers through the window (R312) -/

/-- The phase of the outstanding arrival that BARST.PH names at a level. -/
def arrivalPhase (s : State) (lc l : Nat) (v : Word) : Nat :=
  let ph := (barrierOf s lc l).phase
  if (ph % 2 == 1) == bit v (8 + l) then ph else if ph = 0 then 1 else ph - 1

/-- BARST as the reeve edits it. -/
def editBarst (s : State) (lc : Nat) (x : Ctx) (v : Word) : Ctx :=
  { x with barst := v &&& 0xFFFF#64
           arrived := (List.range 8).foldl (fun m l => if bit v l then setD 0 m l (arrivalPhase s lc l v) else m) x.arrived }

/-- A window write to ALLOT. -/
def editAllot (s : State) (lc : Nat) (x : Ctx) (v : Word) : Ctx :=
  let sb := bits v 3 0
  let vb := bits v 7 4
  if sb ≤ 6 ∧ vb ≤ 8 ∧ sb ≤ allotSB x + freeScalar s lc ∧ vb ≤ allotVB x + freeVector s lc then setAllot x vb sb else x

/-- A window write to a context register of a frozen context: RO fields are writable here. -/
def editCtxReg (s : State) (lc : Nat) (x : Ctx) (n : Nat) (v : Word) : Ctx :=
  match n with
  | 0x008 => { x with ofrst := v &&& 0xFFFFFFFFFFFFFF83#64 }
  | 0x009 => editBarst s lc x v
  | 0x00A => editAllot s lc x v
  | 0x00B => { x with psel := v &&& 0xFFFF#64 }
  | 0x017 => { x with haltg := v &&& 0x33F#64 }
  | _ =>
    if 0x010 ≤ n ∧ n ≤ 0x013 then { x with ysg := setD 0#64 x.ysg (n - 0x010) v }
    else writeCtxReg x n v

/-- Change a context that is frozen; a write to one that is not is ignored (R314). The events that write a register by
itself leave it in STANDBY, where the debug window is off (R361). -/
def editFrozen (s : State) (lc c : Nat) (f : Ctx → Ctx) : State :=
  if (ctxOf s lc c).live && (ctxOf s lc c).frozen then modCtx s lc c f else s

/-- ALLOT_WRITE (R312). -/
def execAllotWrite (lc c : Nat) (v : Word) (s : State) : Res :=
  unlessStandby s (editFrozen s lc c (fun x => editAllot s lc x v))

/-- PC with bit 0 cleared. -/
def evenPc (v : Word) : Word := v &&& 0xFFFFFFFFFFFFFFFE#64

/-- PC_WRITE (R312). -/
def execPcWrite (lc c : Nat) (v : Word) (s : State) : Res :=
  unlessStandby s (editFrozen s lc c (fun x => { x with pc := evenPc v }))

/-- FMODE_WRITE (R74, R75): the reeve's write of FMODE. -/
def execFmodeWrite (lc c : Nat) (v : Word) (s : State) : Res :=
  unlessStandby s (editFrozen s lc c (fun x => { x with fmode := writeFmode x.fmode v }))

/-- SRG_WRITE (R82): the reeve's write of SRG. -/
def execSrgWrite (lc c : Nat) (v : Word) (s : State) : Res :=
  unlessStandby s (editFrozen s lc c (fun x => { x with srg := writeSrg v }))

/-! ### Core, counter and row registers through the window (R314, R315, R385) -/

/-- Is a context of a logical core live and not frozen? -/
def coreRuns (s : State) (lc : Nat) : Bool := (coreOf s lc).ctxs.any (fun x => x.2.live && !x.2.frozen)
/-- Is one of any logical core on a physical core? -/
def physRuns (s : State) (p : Nat) : Bool := (coresOn s p).any (coreRuns s)

/-- A window write to CLKDIV, a counter register or CTAG. -/
def editPhys (s : State) (p : Nat) (f : PCore → PCore) : State := if physRuns s p then s else modPhys s p f

/-- CLKDIV_WRITE (R299): the reeve's write of CLKDIV. In STANDBY the window is off (R361). -/
def execClkdivWrite (p : Nat) (v : Word) (s : State) : Res :=
  unlessStandby s (editPhys s p (fun q => { q with clkdiv := writeClkdiv q.clkdiv v }))

/-- Has a task a live context in a row? -/
def liveInRow (s : State) (task row : Nat) : Bool := (rowContexts s row).any (fun x => taskNum x.1 == task)

/-- A window write to LEASE (R315). -/
def renewLease (s : State) (row : Nat) (v : Word) : State :=
  if bits v 39 20 = 0 then s
  else if liveInRow s (bits v 63 44) row then (leaseAsk s row (bits v 63 44) (bits v 39 20)).1
  else modRow s row (fun r => { r with why := 5 })

/-- LEASE_RENEW (R315). -/
def execLeaseRenew (row : Nat) (v : Word) (s : State) : Res := unlessStandby s (renewLease s row v)

/-- A window write to a row register (R315). -/
def editRowReg (s : State) (row n : Nat) (v : Word) : State :=
  if n = 0x301 then renewLease s row v else writeRowReg s row n v

/-! ### The register page and the window table of a virtual function (R354, R355) -/

/-- A write at register n of a page, n its offset over 8; from 65,536 on, word n of the window table. HQDB is the row
HQDB_WRITE. -/
def writeVf (v : VFunc) (n : Nat) (w : Word) : VFunc :=
  if 65536 ≤ n then { v with window := setD 0#64 v.window (n - 65536) (w &&& 0x8000FFFFFFFFFFFF#64) }
  else match n with
    | 1 => { v with ref := v.ref && !bit w 8 }
    | 2 => { v with rrbase := w &&& ringBaseMask }
    | 3 => { v with rrhead := bits w 63 32 }
    | _ => v

/-- REGISTER_WRITE (R4): a register without a row of its own, under the access codes. Nothing that holds a register is
powered in STANDBY (R361). -/
def execRegisterWrite (r : RegAddr) (v : Word) (s : State) : Res :=
  unlessStandby s (match r with
    | .context lc c n => editFrozen s lc c (fun x => editCtxReg s lc x n v)
    | .logical _ _ => s
    | .physical p n =>
      if 0x800 ≤ n ∧ n ≤ 0x802 then modPhys s p (fun q => writeReeveReg q n v)
      else editPhys s p (fun q => writeCntReg q n v true)
    | .row r n => editRowReg s r n v
    | .package n => writePackageReg s n v
    | .vf f n => if f < 96 ∧ n < 131072 then modVf s f (fun x => writeVf x n v) else s)

/-! ### What an offset of the window shows (R311, R312, R325, R385) -/

/-- The place an 8-byte word of the window stands for; rest is a context of a logical core that has retired on a physical
core (R119), and the three kept places are the ways that HALT.keep has left there (R291). -/
inductive Place where
  | nothing
  | context (lc ctx off : Nat)
  | tile (lc i : Nat)
  | logical (lc n : Nat)
  | physical (p n : Nat)
  | row (row n : Nat)
  | lpct (lc : Nat)
  | queueWord (lc q i : Nat)
  | queueCount (lc q : Nat)
  | stash (lc off : Nat)
  | acc (yard n i : Nat)
  | rest (phys i off : Nat)
  | keptTile (phys i : Nat)
  | keptWays (phys : Nat)
  | keptStash (phys off : Nat)
  deriving DecidableEq, Repr

/-- The logical core of a context slot and its index: a second logical core is on contexts 5 to 9 (R288). -/
def slotCtx (first half : Option Nat) (c : Nat) : Option (Nat × Nat) :=
  match half with
  | some h => if 5 ≤ c ∧ c ≤ 9 then some (h, c - 5) else if c < 5 then first.map (fun f => (f, c)) else none
  | none => if c ≤ 10 then first.map (fun f => (f, c)) else none

/-- A place of a logical core, when there is one, else another. -/
def atCore (lc : Option Nat) (other : Place) (f : Nat → Place) : Place :=
  match lc with
  | some l => f l
  | none => other

/-- A place of a physical core, when the area is one's. -/
def atPhys (phys : Option Nat) (f : Nat → Place) : Place :=
  match phys with
  | some p => f p
  | none => .nothing

/-- Context index c of an area: of the logical core that has it, else what a retired one has left. -/
def contextPlace (phys first half : Option Nat) (c off : Nat) : Place :=
  match slotCtx first half c with
  | some (lc, i) => .context lc i off
  | none => if c ≤ 10 then atPhys phys (fun p => .rest p c off) else .nothing

/-- Offsets 0x0000 to 0xBFFF of a core's area. Of an offset that R311 and R312 name nowhere, and of a queue's word past
its count,
the spec says nothing: the model's choice is that it reads 0 and a write is ignored (log 43). -/
def areaPlace (phys first half : Option Nat) (r : Nat) : Place :=
  let main := first.orElse (fun _ => half)
  if r < 0xB000 then contextPlace phys first half (r / 0x1000) (r % 0x1000)
  else if r < 0xB200 then
    atCore main (atPhys phys (fun p => .keptTile p ((r - 0xB000) / 8))) (fun lc => .tile lc ((r - 0xB000) / 8))
  else if r < 0xB218 then
    atCore main (if r = 0xB200 then atPhys phys .keptWays else .nothing) (fun lc => .logical lc (0x100 + (r - 0xB200) / 8))
  else if r = 0xB218 then atPhys phys (fun p => .physical p 0x103)
  else if r = 0xB300 then atCore main .nothing .lpct
  else if 0xB400 ≤ r ∧ r < 0xB800 then
    atCore main .nothing (fun lc => .queueWord lc ((r - 0xB400) / 128) ((r - 0xB400) % 128 / 8))
  else if 0xB800 ≤ r ∧ r < 0xB890 then atPhys phys (fun p => .physical p (0x400 + (r - 0xB800) / 8))
  else if r = 0xB900 then atPhys phys (fun p => .physical p 0x80D)
  else if 0xBA00 ≤ r ∧ r < 0xBA40 then atCore main .nothing (fun lc => .queueCount lc ((r - 0xBA00) / 8))
  else if 0xBC00 ≤ r ∧ r < 0xBC28 then atPhys phys (fun p => .row (rowNum p) (0x300 + (r - 0xBC00) / 8))
  else .nothing

/-- The first and the second logical core of a physical core. -/
def firstOn (s : State) (p : Nat) : Option Nat := (coresOn s p).find? (fun lc => !(coreOf s lc).half)
def halfOn (s : State) (p : Nat) : Option Nat := (coresOn s p).find? (fun lc => (coreOf s lc).half)

/-- The stash of a physical core; a second logical core has its ways after the first one's seven (log 41). Ways that
HALT.keep has left lie where the core that left them had them. -/
def stashPlace (s : State) (p o : Nat) : Place :=
  let high := o - 7 * wayBytes
  match firstOn s p, halfOn s p with
  | some f, some h => if 7 * wayBytes ≤ o then .stash h high else .stash f o
  | none, some h => if 7 * wayBytes ≤ o then .stash h high else .keptStash p o
  | some f, none => if 7 * wayBytes ≤ o ∧ (physOf s p).kept.isSome = true then .keptStash p high else .stash f o
  | none, none => .keptStash p o

/-- The logical core in a lodging slot of a die (R288). -/
def lodgedIn (s : State) (die slot : Nat) : Option Nat :=
  (keys s.cores).find? (fun lc => (coreOf s lc).lstate == 4 && (coreOf s lc).phys == die * 256 + slot)

/-- The place of an offset of a die's window, a multiple of 8. -/
def placeOf (s : State) (die off : Nat) : Place :=
  if off < 0x1000000 then
    let p := die * 256 + off / 0x10000
    areaPlace (some p) (firstOn s p) (halfOn s p) (off % 0x10000)
  else if off < 0x9000000 then stashPlace s (die * 256 + (off - 0x1000000) / 0x80000) (off % 0x80000)
  else if off < 0xA000000 then .acc (die * 32 + (off - 0x9000000) / 0x80000) (off / 0x10000 % 8) (off % 0x10000 / 4)
  else areaPlace none (lodgedIn s die ((off - 0xA000000) / 0x10000)) none (off % 0x10000)

/-! ### Reading a word of the window -/

/-- The tag bytes of eight vector registers from r on. -/
def tagBytes (x : Ctx) (r : Nat) : Word :=
  word (ofBytes ((List.range 8).map (fun i =>
    if vectorHeld x (r + i) then BitVec.ofNat 8 (vtagOf x (r + i)).code else 0#8)))

/-- A word of a context area (R312). -/
def readCtxArea (x : Ctx) (o : Nat) : Word :=
  if o < 0x1C0 then (if scalarHeld x (o / 8) then sreg x (o / 8) else 0#64)
  else if o < 0x200 then ereg x ((o - 0x1C0) / 8)
  else if o < 0xA00 then
    let r := (o - 0x200) / 64
    if vectorHeld x r then (vreg x r).extractLsb' (o % 64 * 8) 64 else 0#64
  else if o < 0xA20 then tagBytes x (o - 0xA00)
  else if o = 0xA20 then x.pc
  else if 0xA40 ≤ o ∧ o < 0xAC0 then ctxReg x (8 + (o - 0xA40) / 8)
  else if 0xAC0 ≤ o ∧ o < 0xAE0 then yreg x ((o - 0xAC0) / 8)
  else if o = 0xAE0 then dstat x
  else if o = 0xAE8 then dctlRead x
  else 0#64

/-- An LPCT entry (R288). -/
def lpctWord (s : State) (lc : Nat) : Word :=
  let c := coreOf s lc
  word (taskNum lc % 2 ^ 20 * 2 ^ 44 + lcnOf lc * 2 ^ 33 + c.lstate % 8 * 2 ^ 13 + (if c.half then 2 ^ 12 else 0) +
    c.phys % 2 ^ 11)

/-- The free value that stands for element i of a physical accumulator whose contents were lost (R222, log 5); 0 for
another. What
such an element holds is kept as its difference from that value. -/
def lostElem (y : Yard) (n i : Nat) : BitVec 32 :=
  match look y.lost n with
  | some k => (Config.freeValue (k + i)).setWidth 32
  | none => 0#32

/-- Element i of a physical accumulator. -/
def accElem (y : Yard) (n i : Nat) : BitVec 32 := getD 0#32 (getD [] y.acc n) i ^^^ lostElem y n i
def setAccElem (y : Yard) (n i : Nat) (v : BitVec 32) : Yard :=
  { y with acc := setD [] y.acc n (setD 0#32 (getD [] y.acc n) i (v ^^^ lostElem y n i)) }

/-- Elements i and i + 1 of a physical accumulator. -/
def accWord (s : State) (yard n i : Nat) : Word := accElem (yardOf s yard) n (i + 1) ++ accElem (yardOf s yard) n i

/-- Whose logical core is lodged, an accumulator is reached only after its restoration (R325). What an access answers
until then
the spec does not say: the model's choice is that it reads 0 and a write is ignored (log 41). -/
def accLodged (s : State) (yard n : Nat) : Bool :=
  match getD 0 (yardOf s yard).owner n with
  | 0 => false
  | l + 1 => (coreOf s l).lstate == 4

/-- Change the ways that HALT.keep has left on a physical core. -/
def modKept (s : State) (p : Nat) (f : Kept → Kept) : State := modPhys s p (fun q => { q with kept := q.kept.map f })

/-- The word at a place. Of the stash bytes of a core's window that lie beyond its logical core's stash, or beyond
retained ways,
R311 says nothing: the model's choice is that they read 0 and a write is ignored (log 43). -/
def readPlace (s : State) (p : Place) : Word :=
  match p with
  | .nothing => 0#64
  | .context lc c o => readCtxArea (ctxOf s lc c) o
  | .tile lc i => tileWord (tileOf (coreOf s lc) i)
  | .logical lc n => coreReg (coreOf s lc) n
  | .physical q n => if n = 0x103 then (physOf s q).clkdiv else cntReg (physOf s q) n
  | .row r n => rowReg s r n
  | .lpct lc => lpctWord s lc
  | .queueWord lc q i => (queueOf (coreOf s lc) q).getD i 0#64
  | .queueCount lc q => word (queueOf (coreOf s lc) q).length
  | .stash lc o => if o + 8 ≤ (coreOf s lc).ways * wayBytes then word (stashNat (coreOf s lc) o 8) else 0#64
  | .acc y n i => if accLodged s y n then 0#64 else accWord s y n i
  | .rest p i o => readCtxArea (getD Ctx.reset (physOf s p).rest i) o
  | .keptTile p i =>
    match (physOf s p).kept with
    | some k => tileWord (getD Tile.reset k.tiles i)
    | none => 0#64
  | .keptWays p =>
    match (physOf s p).kept with
    | some k => word k.ways
    | none => 0#64
  | .keptStash p o =>
    match (physOf s p).kept with
    | some k => if o + 8 ≤ k.ways * wayBytes then word (bytesNat (fun i => getD 0#8 k.stash (o + i)) 8) else 0#64
    | none => 0#64

/-! ### Writing a word of the window -/

/-- The tags of eight registers from r on, but for codes that no register holds (R69). -/
def writeTags (x : Ctx) (r : Nat) (v : Word) : Ctx :=
  (List.range 8).foldl (fun y i =>
    let code := bits v (8 * i + 3) (8 * i)
    if vectorHeld x (r + i) && decide (code < 12) then { y with vtag := setD .raw y.vtag (r + i) (tagOf code) } else y) x

/-- Word j of a vector register. The spec does not say whether a write to bits 511:64 of a MASK register clears them, nor
whether a write of tag MASK does: the model's choice is that the bits stay as written (log 43). -/
def setVecWord (x : Ctx) (r j : Nat) (v : Word) : Ctx :=
  { x with v := setD 0 x.v r (setLane (vreg x r) 64 j v.toNat) }

/-- A write to the registers of a frozen context (R312). -/
def editCtxArea (s : State) (lc : Nat) (x : Ctx) (o : Nat) (v : Word) : Ctx :=
  if o < 0x1C0 then (if scalarHeld x (o / 8) then setSreg x (o / 8) v else x)
  else if o < 0x200 then setEreg x ((o - 0x1C0) / 8) v
  else if o < 0xA00 then
    let r := (o - 0x200) / 64
    if vectorHeld x r then setVecWord x r (o % 64 / 8) v else x
  else if o < 0xA20 then writeTags x (o - 0xA00) v
  else if o = 0xA20 then { x with pc := evenPc v }
  else if 0xA40 ≤ o ∧ o < 0xAC0 then editCtxReg s lc x (8 + (o - 0xA40) / 8) v
  else if 0xAC0 ≤ o ∧ o < 0xAE0 then setYreg x ((o - 0xAC0) / 8) (v &&& 0x3FFFFF#64)
  else if o = 0xAE0 then writeDstat x v
  else x

/-- Does a window write clear a halt-group stop that is pending? The member is then no longer one that the trip stops
(R323; log 43). -/
def clearsStop (x : Ctx) (o : Nat) (v : Word) : Bool := o == 0xAE0 && bit v 19 && x.live && x.frozen && x.pend.any isStop

/-- A write of a context area. -/
def writeCtxArea (s : State) (lc c o : Nat) (v : Word) : State :=
  if o = 0xAE8 then dctlWrite s lc c (bits v 2 0)
  else
    let t := editFrozen s lc c (fun x => editCtxArea s lc x o v)
    if clearsStop (ctxOf s lc c) o v then rearm t lc c else t

/-- The state of a tile by its code (R172). -/
def tileStateOf (n : Nat) : TileState :=
  match n with
  | 0 => .empty
  | 1 => .filling
  | 2 => .ready
  | _ => .draining

/-- A tile-table entry from its word (R172); a tag code that no tile holds leaves the tag. -/
def tileFrom (old : Tile) (v : Word) : Tile :=
  { wm := bits v 63 44, size := bits v 43 24, base := bits v 23 11,
    tag := (if bits v 10 7 < 12 then tagOf (bits v 10 7) else old.tag), state := tileStateOf (bits v 1 0) }

/-- Is a job that touches a physical accumulator outstanding (R314)? -/
def accBusy (s : State) (yard n : Nat) : Bool :=
  (yardOf s yard).jobs.any (fun j => (jobAccs j.kind).any (fun a => accPhys (coreOf s j.lc) a == n))

/-- A word written at a place. Places that only show something ignore it. -/
def writePlace (s : State) (p : Place) (v : Word) : State :=
  match p with
  | .context lc c o => writeCtxArea s lc c o v
  | .tile lc i =>
    if coreRuns s lc then s else modCore s lc (fun c => setTile c i (tileFrom (tileOf c i) v))
  | .physical q n =>
    editPhys s q (fun x => if n = 0x103 then { x with clkdiv := writeClkdiv x.clkdiv v } else writeCntReg x n v true)
  | .row r n => editRowReg s r n v
  | .stash lc o =>
    if coreRuns s lc || decide ((coreOf s lc).ways * wayBytes < o + 8) then s
    else modCore s lc (fun c => setStashNat c o 8 v.toNat)
  | .acc y n i =>
    if accBusy s y n || accLodged s y n then s
    else modYard s y (fun q => setAccElem (setAccElem q n i (v.extractLsb' 0 32)) n (i + 1) (v.extractLsb' 32 32))
  | .keptTile p i => modKept s p (fun k => { k with tiles := setD Tile.reset k.tiles i (tileFrom (getD Tile.reset k.tiles i) v) })
  | .keptStash p o =>
    modKept s p (fun k => if o + 8 ≤ k.ways * wayBytes then
        { k with stash := (List.range 8).foldl (fun m i => setD 0#8 m (o + i) (BitVec.ofNat 8 (v.toNat / 256 ^ i))) k.stash }
      else k)
  | .nothing | .logical _ _ | .lpct _ | .queueWord _ _ _ | .queueCount _ _ | .rest _ _ _ | .keptWays _ => s

/-! ### Accesses of the window (R314) -/

/-- n bytes of the window, eight at a time. -/
def windowRead (s : State) (die off n : Nat) : Nat :=
  wordsNat ((List.range (n / 8)).map (fun i => readPlace s (placeOf s die (off + 8 * i))))

/-- n bytes written, eight at a time, in ascending order. -/
def windowWrite (s : State) (die off n v : Nat) : State :=
  (List.range (n / 8)).foldl (fun t i => writePlace t (placeOf t die (off + 8 * i)) (word (v / 2 ^ (64 * i)))) s

end Sys2Proof.Machine
end

