-- ==== Sys2Proof/Machine/LoadStore.lean ====
section
/-! DEFINITION. The loads, stores, gathers, scatters and fences (spec/08_memory.md R156 to R167), and the accesses of the
debug window (spec/16_traps.md R314). -/

namespace Sys2Proof.Machine

/-! ### Scalar forms (R161, R162) -/

/-- A compact form's scalar register (R30). -/
def s3 (r : F3) : F6 := r.setWidth 6

/-- The registers a load or store names. -/
def memNames (d a : F6) : Names := ⟨[], none, [d.toNat, a.toNat], []⟩

/-- ea of the M format (R161). -/
def eaM (s : State) (base : F6) (off : BitVec 12) (n : Nat) : Nat := (valS s base + sext off * word n).toNat

/-- ea of LD.bz, LD.hz and LD.wz (R162). -/
def eaZ (s : State) (a k : F6) (n : Nat) : Nat := (valS s a + litVal (me s) true k * word n).toNat

/-- ea of the compact CM forms: an unsigned offset (R30). -/
def eaC (s : State) (base off : F3) (n : Nat) : Nat := (valS s (s3 base) + word (off.toNat * n)).toNat

/-- The place in the debug window of an aligned access that no watch meets (R314, R318). -/
def viaWindow (s : State) (va n kind : Nat) : Option (Nat × Nat) :=
  if va % n = 0 ∧ watched (me s) kind va n = none then debugWindow s s.cur.1 va else none

/-- A scalar load of a register's size, of the debug window or of memory. -/
def loadAny (names : Names) (len d va n : Nat) (signed : Bool) (s : State) : Res :=
  match (if n = 8 then viaWindow s va 8 watchLoad else none) with
  | some w => finishCtx names len s (fun c => setSreg c d (word (windowRead s w.1 w.2 8)))
  | none => loadScalar names len d va n signed s

/-- A scalar store. -/
def storeAny (names : Names) (len va n : Nat) (v : Word) (s : State) : Res :=
  match (if n = 8 then viaWindow s va 8 watchStore else none) with
  | some w => finishCtx names len (windowWrite s w.1 w.2 8 v.toNat) id
  | none => storeScalar names len va n v s

/-- The M-format load and store (R161). -/
def loadM (d base : F6) (off : BitVec 12) (n : Nat) (s : State) : Res :=
  issue (memNames d base) s (fun t => loadAny (memNames d base) long d.toNat (eaM t base off n) n true t)
def storeM (x base : F6) (off : BitVec 12) (n : Nat) (s : State) : Res :=
  issue (memNames x base) s (fun t => storeAny (memNames x base) long (eaM t base off n) n (valS t x) t)

/-- The zero-extending load (R162). -/
def loadZ (d a k : F6) (n : Nat) (s : State) : Res :=
  issue (memNames d a) s (fun t => loadAny (memNames d a) long d.toNat (eaZ t a k n) n false t)

/-- The compact load and store (R30). -/
def loadC (d base off : F3) (n : Nat) (s : State) : Res :=
  issue (memNames (s3 d) (s3 base)) s (fun t =>
    loadAny (memNames (s3 d) (s3 base)) short (s3 d).toNat (eaC t base off n) n true t)
def storeC (x base off : F3) (n : Nat) (s : State) : Res :=
  issue (memNames (s3 x) (s3 base)) s (fun t =>
    storeAny (memNames (s3 x) (s3 base)) short (eaC t base off n) n (valS t (s3 x)) t)


/-- LD.b (R161). -/
def execLdB (d base : F6) (off : BitVec 12) (s : State) : Res := loadM d base off 1 s

/-- LD.h (R161). -/
def execLdH (d base : F6) (off : BitVec 12) (s : State) : Res := loadM d base off 2 s

/-- LD.w (R161). -/
def execLdW (d base : F6) (off : BitVec 12) (s : State) : Res := loadM d base off 4 s

/-- LD (R161). -/
def execLd (d base : F6) (off : BitVec 12) (s : State) : Res := loadM d base off 8 s

/-- ST.b (R161). -/
def execStB (x base : F6) (off : BitVec 12) (s : State) : Res := storeM x base off 1 s

/-- ST.h (R161). -/
def execStH (x base : F6) (off : BitVec 12) (s : State) : Res := storeM x base off 2 s

/-- ST.w (R161). -/
def execStW (x base : F6) (off : BitVec 12) (s : State) : Res := storeM x base off 4 s

/-- ST (R161). -/
def execSt (x base : F6) (off : BitVec 12) (s : State) : Res := storeM x base off 8 s

/-- LD.bz (R162). -/
def execLdBz (d a k : F6) (s : State) : Res := loadZ d a k 1 s

/-- LD.hz (R162). -/
def execLdHz (d a k : F6) (s : State) : Res := loadZ d a k 2 s

/-- LD.wz (R162). -/
def execLdWz (d a k : F6) (s : State) : Res := loadZ d a k 4 s

/-- Compact LD (R30). -/
def execLdCompact (d base off : F3) (s : State) : Res := loadC d base off 8 s

/-- Compact ST (R30). -/
def execStCompact (d base off : F3) (s : State) : Res := storeC d base off 8 s

/-- Compact LD.w (R30). -/
def execLdWCompact (d base off : F3) (s : State) : Res := loadC d base off 4 s

/-- Compact ST.w (R30). -/
def execStWCompact (d base off : F3) (s : State) : Res := storeC d base off 4 s


/-! ### Acquire, release and fences (R167) -/

/-- LD.acq. It is no form of LD, so the debug window refuses it (R314). -/
def execLdAcq (d a scope : F6) (s : State) : Res :=
  issue (memNames d a) s (fun t =>
    loadAcquire (memNames d a) d.toNat (valS t a).toNat scope.toNat
      (fun u k => checkAccess u (valS u a).toNat 8 false false k) t)

/-- The write-through of the eight bytes that a release store has just written (R259): none at CORE, to the stash window
or to an ALIAS page, where they are already at their point of coherence, nor to a PRIVATE object (R165). -/
def throughWrites (s : State) (scope va : Nat) (v : Verdict) : List WriteReq :=
  let key := lineKey (asidOf s s.cur.1) va
  let req := fun (m : BitVec 128) =>
    if scope = scopeCore ∨ m = 0 then []
    else [⟨s.cur.1, s.cur.2, scopeDest scope, none, key, m, none⟩]
  match v with
  | .page p =>
    if p.aliased then []
    else req (spanMask (va % 128) 8 &&& ~~~granBytes ((look (myCore s).l1 key).getD (emptyLine p)).priv)
  | .mapped _ _ => req (spanMask (va % 128) 8)
  | _ => []

/-- The store of a release, once the release is done and no bytes of the core cross its own: its bytes go through to the
point of
coherence of the scope before it completes (R259). -/
def storeThrough (names : Names) (scope va : Nat) (w : Word) (s : State) : Res :=
  checkAccess s va 8 true false (fun v =>
    if scope != scopeCore && crossing s s.cur.1 (scopeDest scope) then waitBegun s 0
    else if storeReady s s.cur.1 va 8 w.toNat v then
      let t := performStore s s.cur.1 va 8 w.toNat v
      match throughWrites t scope va v with
      | [] => finishCtx names long t id
      | ws => waitStage { t with writes := t.writes ++ ws } 0 .sent
    else match storeFull s s.cur.1 va 8 w.toNat v with
      | some p => parkMineFull s va p
      | none => waitBegun s 0)

/-- ST.rel: the checks of the store come before the release (R46). -/
def execStRel (x a scope : F6) (s : State) : Res :=
  issue (memNames x a) s (fun t =>
    let va := (valS t a).toNat
    if (me t).stage = .sent then
      if writesOut t t.cur.1 t.cur.2 then waitBegun t 0 else finishCtx (memNames x a) long t id
    else checkAccess t va 8 true false (fun _ =>
      releaseThen t scope.toNat 0 (fun u => storeThrough (memNames x a) scope.toNat va (valS u x) u)))

/-- No names. -/
def noNames : Names := ⟨[], none, [], []⟩

/-- Acquire, once the context's earlier reads have completed. -/
def acquireThen (s : State) (scope : Nat) : Res :=
  if accessesDone (me s) then finishCtx noNames long (acquire s s.cur.1 scope) id else waitBegun s (repliesWait s 0)

/-- FENCE. -/
def execFence (scope : F6) (s : State) : Res := releaseThen s scope.toNat 0 (fun t => acquireThen t scope.toNat)

/-- FENCE.acq. -/
def execFenceAcq (scope : F6) (s : State) : Res := acquireThen s scope.toNat

/-- FENCE.rel. -/
def execFenceRel (scope : F6) (s : State) : Res :=
  releaseThen s scope.toNat 0 (fun t => finishCtx noNames long t id)

/-! ### Vector forms (R163, R164) -/

/-- The registers a vector load or store names; B is the literal, or the index register of a gather or scatter. -/
def vmemNames (d a : F6) (b : Opnd) : Names := ⟨[], none, [a.toNat], d.toNat :: vectorCodes [b]⟩

/-- ea of a vector access (R163). -/
def eaV (s : State) (a : F6) (b : Opnd) : Nat := (valS s a + valB s b * 64#64).toNat

/-- A vector load of one register, of the debug window or of memory. -/
def loadVecAny (names : Names) (d : Nat) (t : Tag) (va : Nat) (s : State) : Res :=
  match viaWindow s va (vecBytes t) watchLoad with
  | some w => finishCtx names long (countV s) (fun c => setVreg c d t (BitVec.ofNat 512 (windowRead s w.1 w.2 (vecBytes t))))
  | none => loadVector names d t va s

/-- A vector store of one register. -/
def storeVecAny (names : Names) (r va : Nat) (s : State) : Res :=
  let n := vecBytes (vtagOf (me s) r)
  match viaWindow s va n watchStore with
  | some w => finishCtx names long (windowWrite (countV s) w.1 w.2 n (vreg (me s) r).toNat) id
  | none => storeVector names r va s

/-- VLD.tag, and the gather (R163, R164). -/
def vld (t : Tag) (d a : F6) (b : Opnd) (s : State) : Res :=
  match b with
  | .v f =>
    vIssue (vmemNames d a b) (fun x => indexOk x f.toNat) s (fun u =>
      gather (vmemNames d a b) d.toNat t (elementVas (me u) (valS u a) f.toNat) u)
  | _ => issue (vmemNames d a b) s (fun u => loadVecAny (vmemNames d a b) d.toNat t (eaV u a b) u)

/-- VLD.raw (R163, R164). -/
def execVldRaw (d a : F6) (b : Opnd) (s : State) : Res := vld .raw d a b s

/-- VLD.i8 (R163, R164). -/
def execVldI8 (d a : F6) (b : Opnd) (s : State) : Res := vld .i8 d a b s

/-- VLD.i16 (R163, R164). -/
def execVldI16 (d a : F6) (b : Opnd) (s : State) : Res := vld .i16 d a b s

/-- VLD.i32 (R163, R164). -/
def execVldI32 (d a : F6) (b : Opnd) (s : State) : Res := vld .i32 d a b s

/-- VLD.n8 (R163, R164). -/
def execVldN8 (d a : F6) (b : Opnd) (s : State) : Res := vld .n8 d a b s

/-- VLD.n16 (R163, R164). -/
def execVldN16 (d a : F6) (b : Opnd) (s : State) : Res := vld .n16 d a b s

/-- VLD.n32 (R163, R164). -/
def execVldN32 (d a : F6) (b : Opnd) (s : State) : Res := vld .n32 d a b s

/-- VLD.fp16 (R163, R164). -/
def execVldFp16 (d a : F6) (b : Opnd) (s : State) : Res := vld .fp16 d a b s

/-- VLD.bf16 (R163, R164). -/
def execVldBf16 (d a : F6) (b : Opnd) (s : State) : Res := vld .bf16 d a b s

/-- VLD.fp32 (R163, R164). -/
def execVldFp32 (d a : F6) (b : Opnd) (s : State) : Res := vld .fp32 d a b s

/-- VLD.dm8 (R163, R164). -/
def execVldDm8 (d a : F6) (b : Opnd) (s : State) : Res := vld .dm8 d a b s

/-- VLD.mask (R163). -/
def execVldMask (d a k : F6) (s : State) : Res :=
  issue (vmemNames d a (.lit k)) s (fun u => loadVecAny (vmemNames d a (.lit k)) d.toNat .mask (eaV u a (.lit k)) u)

/-- VST, and the scatter (R163, R164). -/
def execVst (x a : F6) (b : Opnd) (s : State) : Res :=
  match b with
  | .v f =>
    vIssue (vmemNames x a b) (fun y => indexOk y f.toNat && vtagOf y x.toNat != .mask) s (fun u =>
      scatter (vmemNames x a b) x.toNat (elementVas (me u) (valS u a) f.toNat) u)
  | _ => issue (vmemNames x a b) s (fun u => storeVecAny (vmemNames x a b) x.toNat (eaV u a b) u)

end Sys2Proof.Machine
end

