-- ==== Sys2Proof/Machine/Dispatch.lean ====
section
/-! DEFINITION. The dispatch: one arm per row of the opcode table, each one call of that row's meaning. -/

namespace Sys2Proof.Machine

def exec (i : Instr) (s : State) : Host.Outcome State Fault Refusal :=
  match i with
  | .add d a b => Sys2Proof.Machine.execAdd d a b s
  | .sub d a b => Sys2Proof.Machine.execSub d a b s
  | .and d a b => Sys2Proof.Machine.execAnd d a b s
  | .or d a b => Sys2Proof.Machine.execOr d a b s
  | .xor d a b => Sys2Proof.Machine.execXor d a b s
  | .shl d a b => Sys2Proof.Machine.execShl d a b s
  | .shr d a b => Sys2Proof.Machine.execShr d a b s
  | .sar d a b => Sys2Proof.Machine.execSar d a b s
  | .mul d a b => Sys2Proof.Machine.execMul d a b s
  | .mulh d a b => Sys2Proof.Machine.execMulh d a b s
  | .mulhn d a b => Sys2Proof.Machine.execMulhn d a b s
  | .div d a b => Sys2Proof.Machine.execDiv d a b s
  | .divn d a b => Sys2Proof.Machine.execDivn d a b s
  | .rem d a b => Sys2Proof.Machine.execRem d a b s
  | .remn d a b => Sys2Proof.Machine.execRemn d a b s
  | .seq d a b => Sys2Proof.Machine.execSeq d a b s
  | .sne d a b => Sys2Proof.Machine.execSne d a b s
  | .slt d a b => Sys2Proof.Machine.execSlt d a b s
  | .sltn d a b => Sys2Proof.Machine.execSltn d a b s
  | .sle d a b => Sys2Proof.Machine.execSle d a b s
  | .slen d a b => Sys2Proof.Machine.execSlen d a b s
  | .min d a b => Sys2Proof.Machine.execMin d a b s
  | .max d a b => Sys2Proof.Machine.execMax d a b s
  | .clz d a => Sys2Proof.Machine.execClz d a s
  | .ctz d a => Sys2Proof.Machine.execCtz d a s
  | .popc d a => Sys2Proof.Machine.execPopc d a s
  | .brev d a => Sys2Proof.Machine.execBrev d a s
  | .bswap d a => Sys2Proof.Machine.execBswap d a s
  | .mov d a => Sys2Proof.Machine.execMov d a s
  | .movy d y => Sys2Proof.Machine.execMovy d y s
  | .sext d a b => Sys2Proof.Machine.execSext d a b s
  | .sel d a b => Sys2Proof.Machine.execSel d a b s
  | .minn d a b => Sys2Proof.Machine.execMinn d a b s
  | .maxn d a b => Sys2Proof.Machine.execMaxn d a b s
  | .ext n a => Sys2Proof.Machine.execExt n a s
  | .nop => Sys2Proof.Machine.execNop s
  | .nopCompact => Sys2Proof.Machine.execNopCompact s
  | .ts d => Sys2Proof.Machine.execTs d s
  | .who d item => Sys2Proof.Machine.execWho d item s
  | .movx d n => Sys2Proof.Machine.execMovx d n s
  | .extL e => Sys2Proof.Machine.execExtL e s
  | .ldB d base off => Sys2Proof.Machine.execLdB d base off s
  | .ldH d base off => Sys2Proof.Machine.execLdH d base off s
  | .ldW d base off => Sys2Proof.Machine.execLdW d base off s
  | .ld d base off => Sys2Proof.Machine.execLd d base off s
  | .stB d base off => Sys2Proof.Machine.execStB d base off s
  | .stH d base off => Sys2Proof.Machine.execStH d base off s
  | .stW d base off => Sys2Proof.Machine.execStW d base off s
  | .st d base off => Sys2Proof.Machine.execSt d base off s
  | .ldAcq d a scope => Sys2Proof.Machine.execLdAcq d a scope s
  | .stRel x a scope => Sys2Proof.Machine.execStRel x a scope s
  | .fence scope => Sys2Proof.Machine.execFence scope s
  | .fenceAcq scope => Sys2Proof.Machine.execFenceAcq scope s
  | .fenceRel scope => Sys2Proof.Machine.execFenceRel scope s
  | .ldBz d a k => Sys2Proof.Machine.execLdBz d a k s
  | .ldHz d a k => Sys2Proof.Machine.execLdHz d a k s
  | .ldWz d a k => Sys2Proof.Machine.execLdWz d a k s
  | .vldRaw d a b => Sys2Proof.Machine.execVldRaw d a b s
  | .vldI8 d a b => Sys2Proof.Machine.execVldI8 d a b s
  | .vldI16 d a b => Sys2Proof.Machine.execVldI16 d a b s
  | .vldI32 d a b => Sys2Proof.Machine.execVldI32 d a b s
  | .vldN8 d a b => Sys2Proof.Machine.execVldN8 d a b s
  | .vldN16 d a b => Sys2Proof.Machine.execVldN16 d a b s
  | .vldN32 d a b => Sys2Proof.Machine.execVldN32 d a b s
  | .vldFp16 d a b => Sys2Proof.Machine.execVldFp16 d a b s
  | .vldBf16 d a b => Sys2Proof.Machine.execVldBf16 d a b s
  | .vldFp32 d a b => Sys2Proof.Machine.execVldFp32 d a b s
  | .vldDm8 d a b => Sys2Proof.Machine.execVldDm8 d a b s
  | .vldMask d a k => Sys2Proof.Machine.execVldMask d a k s
  | .vst x a b => Sys2Proof.Machine.execVst x a b s
  | .tstat d t => Sys2Proof.Machine.execTstat d t s
  | .twait t => Sys2Proof.Machine.execTwait t s
  | .tfree t => Sys2Proof.Machine.execTfree t s
  | .resize d a => Sys2Proof.Machine.execResize d a s
  | .smap o a b => Sys2Proof.Machine.execSmap o a b s
  | .sunmap o => Sys2Proof.Machine.execSunmap o s
  | .tdefRaw t a b => Sys2Proof.Machine.execTdefRaw t a b s
  | .tdefI8 t a b => Sys2Proof.Machine.execTdefI8 t a b s
  | .tdefI16 t a b => Sys2Proof.Machine.execTdefI16 t a b s
  | .tdefI32 t a b => Sys2Proof.Machine.execTdefI32 t a b s
  | .tdefN8 t a b => Sys2Proof.Machine.execTdefN8 t a b s
  | .tdefN16 t a b => Sys2Proof.Machine.execTdefN16 t a b s
  | .tdefN32 t a b => Sys2Proof.Machine.execTdefN32 t a b s
  | .tdefFp16 t a b => Sys2Proof.Machine.execTdefFp16 t a b s
  | .tdefBf16 t a b => Sys2Proof.Machine.execTdefBf16 t a b s
  | .tdefFp32 t a b => Sys2Proof.Machine.execTdefFp32 t a b s
  | .tdefDm8 t a b => Sys2Proof.Machine.execTdefDm8 t a b s
  | .tdefMask t a b => Sys2Proof.Machine.execTdefMask t a b s
  | .b off => Sys2Proof.Machine.execB off s
  | .bZ r off => Sys2Proof.Machine.execBZ r off s
  | .bNz r off => Sys2Proof.Machine.execBNz r off s
  | .bLtz r off => Sys2Proof.Machine.execBLtz r off s
  | .bGez r off => Sys2Proof.Machine.execBGez r off s
  | .bGtz r off => Sys2Proof.Machine.execBGtz r off s
  | .bLez r off => Sys2Proof.Machine.execBLez r off s
  | .call r off => Sys2Proof.Machine.execCall r off s
  | .loop r off => Sys2Proof.Machine.execLoop r off s
  | .jr a => Sys2Proof.Machine.execJr a s
  | .callr d a => Sys2Proof.Machine.execCallr d a s
  | .grow d a b => Sys2Proof.Machine.execGrow d a b s
  | .shrink d a b => Sys2Proof.Machine.execShrink d a b s
  | .start h a target => Sys2Proof.Machine.execStart h a target s
  | .halt => Sys2Proof.Machine.execHalt s
  | .haltKeep a => Sys2Proof.Machine.execHaltKeep a s
  | .yield => Sys2Proof.Machine.execYield s
  | .waitp d a => Sys2Proof.Machine.execWaitp d a s
  | .portsel a => Sys2Proof.Machine.execPortsel a s
  | .bar level => Sys2Proof.Machine.execBar level s
  | .bara level => Sys2Proof.Machine.execBara level s
  | .barw level => Sys2Proof.Machine.execBarw level s
  | .launch d a => Sys2Proof.Machine.execLaunch d a s
  | .sprint d a => Sys2Proof.Machine.execSprint d a s
  | .sprel => Sys2Proof.Machine.execSprel s
  | .sysrd d reg => Sys2Proof.Machine.execSysrd d reg s
  | .syswr reg a => Sys2Proof.Machine.execSyswr reg a s
  | .cpy a => Sys2Proof.Machine.execCpy a s
  | .cpyt d a => Sys2Proof.Machine.execCpyt d a s
  | .trap n => Sys2Proof.Machine.execTrap n s
  | .brk => Sys2Proof.Machine.execBrk s
  | .ofrAdd d y a b => Sys2Proof.Machine.execOfrAdd d y a b s
  | .ofrFma d y a b => Sys2Proof.Machine.execOfrFma d y a b s
  | .ofrMin d y a b => Sys2Proof.Machine.execOfrMin d y a b s
  | .ofrMax d y a b => Sys2Proof.Machine.execOfrMax d y a b s
  | .ofrAnd d y a b => Sys2Proof.Machine.execOfrAnd d y a b s
  | .ofrOr d y a b => Sys2Proof.Machine.execOfrOr d y a b s
  | .ofrXchg d y a b => Sys2Proof.Machine.execOfrXchg d y a b s
  | .ofrCas d y a b => Sys2Proof.Machine.execOfrCas d y a b s
  | .ofrAddF32 d y a b => Sys2Proof.Machine.execOfrAddF32 d y a b s
  | .ofrFmaF32 d y a b => Sys2Proof.Machine.execOfrFmaF32 d y a b s
  | .ofrMinF32 d y a b => Sys2Proof.Machine.execOfrMinF32 d y a b s
  | .ofrMaxF32 d y a b => Sys2Proof.Machine.execOfrMaxF32 d y a b s
  | .setl y a b => Sys2Proof.Machine.execSetl y a b s
  | .rls y a => Sys2Proof.Machine.execRls y a s
  | .pub d a scope => Sys2Proof.Machine.execPub d a scope s
  | .pubw a => Sys2Proof.Machine.execPubw a s
  | .refld d a => Sys2Proof.Machine.execRefld d a s
  | .refldAcq d a scope => Sys2Proof.Machine.execRefldAcq d a scope s
  | .refst x a => Sys2Proof.Machine.execRefst x a s
  | .refstRel x a scope => Sys2Proof.Machine.execRefstRel x a scope s
  | .vadd d a b => Sys2Proof.Machine.execVadd d a b s
  | .vsub d a b => Sys2Proof.Machine.execVsub d a b s
  | .vmul d a b => Sys2Proof.Machine.execVmul d a b s
  | .vmin d a b => Sys2Proof.Machine.execVmin d a b s
  | .vmax d a b => Sys2Proof.Machine.execVmax d a b s
  | .vand d a b => Sys2Proof.Machine.execVand d a b s
  | .vor d a b => Sys2Proof.Machine.execVor d a b s
  | .vxor d a b => Sys2Proof.Machine.execVxor d a b s
  | .vshl d a b => Sys2Proof.Machine.execVshl d a b s
  | .vshr d a b => Sys2Proof.Machine.execVshr d a b s
  | .vsar d a b => Sys2Proof.Machine.execVsar d a b s
  | .vceq d a b => Sys2Proof.Machine.execVceq d a b s
  | .vclt d a b => Sys2Proof.Machine.execVclt d a b s
  | .vcle d a b => Sys2Proof.Machine.execVcle d a b s
  | .vbcst d a tag => Sys2Proof.Machine.execVbcst d a tag s
  | .vred d a op => Sys2Proof.Machine.execVred d a op s
  | .vcvt d a tag => Sys2Proof.Machine.execVcvt d a tag s
  | .vcvtRne d a tag => Sys2Proof.Machine.execVcvtRne d a tag s
  | .vcvtRtz d a tag => Sys2Proof.Machine.execVcvtRtz d a tag s
  | .vcvtRdn d a tag => Sys2Proof.Machine.execVcvtRdn d a tag s
  | .vcvtRup d a tag => Sys2Proof.Machine.execVcvtRup d a tag s
  | .vcvtRsto d a tag => Sys2Proof.Machine.execVcvtRsto d a tag s
  | .vretag d a tag => Sys2Proof.Machine.execVretag d a tag s
  | .vscan d a op => Sys2Proof.Machine.execVscan d a op s
  | .vfma d a b => Sys2Proof.Machine.execVfma d a b s
  | .vfms d a b => Sys2Proof.Machine.execVfms d a b s
  | .vfnma d a b => Sys2Proof.Machine.execVfnma d a b s
  | .vsel d a b => Sys2Proof.Machine.execVsel d a b s
  | .vperm d a b => Sys2Proof.Machine.execVperm d a b s
  | .vabs d a => Sys2Proof.Machine.execVabs d a s
  | .vneg d a => Sys2Proof.Machine.execVneg d a s
  | .vmov d a => Sys2Proof.Machine.execVmov d a s
  | .mxmm d acc op t => Sys2Proof.Machine.execMxmm d acc op t s
  | .mxmmDup d acc op t => Sys2Proof.Machine.execMxmmDup d acc op t s
  | .mxz d acc => Sys2Proof.Machine.execMxz d acc s
  | .waitj a => Sys2Proof.Machine.execWaitj a s
  | .pollj d a => Sys2Proof.Machine.execPollj d a s
  | .mxdrFp32 d t acc => Sys2Proof.Machine.execMxdrFp32 d t acc s
  | .mxdrBf16 d t acc => Sys2Proof.Machine.execMxdrBf16 d t acc s
  | .mxdrFp16 d t acc => Sys2Proof.Machine.execMxdrFp16 d t acc s
  | .mxdrDm8 d t acc => Sys2Proof.Machine.execMxdrDm8 d t acc s
  | .mxdrI8 d t acc => Sys2Proof.Machine.execMxdrI8 d t acc s
  | .addCompact d a b => Sys2Proof.Machine.execAddCompact d a b s
  | .subCompact d a b => Sys2Proof.Machine.execSubCompact d a b s
  | .andCompact d a b => Sys2Proof.Machine.execAndCompact d a b s
  | .orCompact d a b => Sys2Proof.Machine.execOrCompact d a b s
  | .xorCompact d a b => Sys2Proof.Machine.execXorCompact d a b s
  | .shlCompact d a b => Sys2Proof.Machine.execShlCompact d a b s
  | .shrCompact d a b => Sys2Proof.Machine.execShrCompact d a b s
  | .sarCompact d a b => Sys2Proof.Machine.execSarCompact d a b s
  | .movCompact d a => Sys2Proof.Machine.execMovCompact d a s
  | .seqCompact d a b => Sys2Proof.Machine.execSeqCompact d a b s
  | .sltCompact d a b => Sys2Proof.Machine.execSltCompact d a b s
  | .vaddCompact d a b => Sys2Proof.Machine.execVaddCompact d a b s
  | .vsubCompact d a b => Sys2Proof.Machine.execVsubCompact d a b s
  | .vmulCompact d a b => Sys2Proof.Machine.execVmulCompact d a b s
  | .vfmaCompact d a b => Sys2Proof.Machine.execVfmaCompact d a b s
  | .addImmCompact d l => Sys2Proof.Machine.execAddImmCompact d l s
  | .andImmCompact d l => Sys2Proof.Machine.execAndImmCompact d l s
  | .shlImmCompact d l => Sys2Proof.Machine.execShlImmCompact d l s
  | .shrImmCompact d l => Sys2Proof.Machine.execShrImmCompact d l s
  | .sarImmCompact d l => Sys2Proof.Machine.execSarImmCompact d l s
  | .movImmCompact d l => Sys2Proof.Machine.execMovImmCompact d l s
  | .bZCompact d l => Sys2Proof.Machine.execBZCompact d l s
  | .bNzCompact d l => Sys2Proof.Machine.execBNzCompact d l s
  | .bCompact l => Sys2Proof.Machine.execBCompact l s
  | .loopCompact d l => Sys2Proof.Machine.execLoopCompact d l s
  | .ldCompact d base off => Sys2Proof.Machine.execLdCompact d base off s
  | .stCompact d base off => Sys2Proof.Machine.execStCompact d base off s
  | .ldWCompact d base off => Sys2Proof.Machine.execLdWCompact d base off s
  | .stWCompact d base off => Sys2Proof.Machine.execStWCompact d base off s
  | .moduleReset boot => Sys2Proof.Machine.execModuleReset boot s
  | .loadReply lc ctx idx => Sys2Proof.Machine.execLoadReply lc ctx idx s
  | .memoryRecordWrite idx => Sys2Proof.Machine.execMemoryRecordWrite idx s
  | .faultPacketWrite die => Sys2Proof.Machine.execFaultPacketWrite die s
  | .deliveredTrap lc ctx => Sys2Proof.Machine.execDeliveredTrap lc ctx s
  | .portWordDelivery idx => Sys2Proof.Machine.execPortWordDelivery idx s
  | .offerArrival idx => Sys2Proof.Machine.execOfferArrival idx s
  | .priorityOfferArrival idx => Sys2Proof.Machine.execPriorityOfferArrival idx s
  | .millTakeOffer mill prio => Sys2Proof.Machine.execMillTakeOffer mill prio s
  | .offerReply idx => Sys2Proof.Machine.execOfferReply idx s
  | .settleArrival idx => Sys2Proof.Machine.execSettleArrival idx s
  | .settleReply idx => Sys2Proof.Machine.execSettleReply idx s
  | .releaseArrival idx => Sys2Proof.Machine.execReleaseArrival idx s
  | .holdAgeExpiry mill entry => Sys2Proof.Machine.execHoldAgeExpiry mill entry s
  | .sliceRetentionEntry stack => Sys2Proof.Machine.execSliceRetentionEntry stack s
  | .sliceWake stack => Sys2Proof.Machine.execSliceWake stack s
  | .walkIdAssign idx => Sys2Proof.Machine.execWalkIdAssign idx s
  | .walkStart task => Sys2Proof.Machine.execWalkStart task s
  | .walkStep task => Sys2Proof.Machine.execWalkStep task s
  | .mxJobStart yard idx => Sys2Proof.Machine.execMxJobStart yard idx s
  | .mxJobComplete yard idx err => Sys2Proof.Machine.execMxJobComplete yard idx err s
  | .engineSprintClock yard => Sys2Proof.Machine.execEngineSprintClock yard s
  | .engineClockDrop yard => Sys2Proof.Machine.execEngineClockDrop yard s
  | .copyDescriptorRead yard idx => Sys2Proof.Machine.execCopyDescriptorRead yard idx s
  | .copyLanding yard idx => Sys2Proof.Machine.execCopyLanding yard idx s
  | .copyComplete yard idx => Sys2Proof.Machine.execCopyComplete yard idx s
  | .copyAbandon yard idx => Sys2Proof.Machine.execCopyAbandon yard idx s
  | .placeTask task cores => Sys2Proof.Machine.execPlaceTask task cores s
  | .taskReady task => Sys2Proof.Machine.execTaskReady task s
  | .priorityAgeing task => Sys2Proof.Machine.execPriorityAgeing task s
  | .starvationHold task => Sys2Proof.Machine.execStarvationHold task s
  | .taskComplete task => Sys2Proof.Machine.execTaskComplete task s
  | .stashRetentionLapse phys => Sys2Proof.Machine.execStashRetentionLapse phys s
  | .hqdbWrite vf value => Sys2Proof.Machine.execHqdbWrite vf value s
  | .hostQueueEntry vf => Sys2Proof.Machine.execHostQueueEntry vf s
  | .hostWindowAccess acc => Sys2Proof.Machine.execHostWindowAccess acc s
  | .backInvalidate key half data => Sys2Proof.Machine.execBackInvalidate key half data s
  | .renairReceive die flits => Sys2Proof.Machine.execRenairReceive die flits s
  | .mrsolveReplay rec => Sys2Proof.Machine.execMrsolveReplay rec s
  | .mrsolveUnmapped rec => Sys2Proof.Machine.execMrsolveUnmapped rec s
  | .tlbinvPage value => Sys2Proof.Machine.execTlbinvPage value s
  | .tlbinvAsid value => Sys2Proof.Machine.execTlbinvAsid value s
  | .tlbinvDone => Sys2Proof.Machine.execTlbinvDone s
  | .hvcmdHarvest value => Sys2Proof.Machine.execHvcmdHarvest value s
  | .harvestFrame => Sys2Proof.Machine.execHarvestFrame s
  | .chrateSwitch value => Sys2Proof.Machine.execChrateSwitch value s
  | .chrateSelect value => Sys2Proof.Machine.execChrateSelect value s
  | .chrateSwitchDone stack => Sys2Proof.Machine.execChrateSwitchDone stack s
  | .dictldLoad value => Sys2Proof.Machine.execDictldLoad value s
  | .dictldDone stack => Sys2Proof.Machine.execDictldDone stack s
  | .generationRetire part gen => Sys2Proof.Machine.execGenerationRetire part gen s
  | .dramRepair pa need lost => Sys2Proof.Machine.execDramRepair pa need lost s
  | .rowCopyComplete idx => Sys2Proof.Machine.execRowCopyComplete idx s
  | .rollback task => Sys2Proof.Machine.execRollback task s
  | .tempThresholdCrossing sensor tenths => Sys2Proof.Machine.execTempThresholdCrossing sensor tenths s
  | .dwellEnd sensor => Sys2Proof.Machine.execDwellEnd sensor s
  | .thermalMigration lc phys => Sys2Proof.Machine.execThermalMigration lc phys s
  | .spatialPreemption lc survivor => Sys2Proof.Machine.execSpatialPreemption lc survivor s
  | .unfold lc phys => Sys2Proof.Machine.execUnfold lc phys s
  | .lodging lc slot => Sys2Proof.Machine.execLodging lc slot s
  | .lodgeRestore lc phys => Sys2Proof.Machine.execLodgeRestore lc phys s
  | .runningFunctionChange part vf => Sys2Proof.Machine.execRunningFunctionChange part vf s
  | .corePowerDown phys => Sys2Proof.Machine.execCorePowerDown phys s
  | .powerUpAdmit row => Sys2Proof.Machine.execPowerUpAdmit row s
  | .coreReady phys => Sys2Proof.Machine.execCoreReady phys s
  | .laneGate phys => Sys2Proof.Machine.execLaneGate phys s
  | .droopAlarm row depth => Sys2Proof.Machine.execDroopAlarm row depth s
  | .stretchEnd row => Sys2Proof.Machine.execStretchEnd row s
  | .halvedEnd row => Sys2Proof.Machine.execHalvedEnd row s
  | .injectionPulseStart yard => Sys2Proof.Machine.execInjectionPulseStart yard s
  | .injectionPulseEnd yard => Sys2Proof.Machine.execInjectionPulseEnd yard s
  | .rowClockRaise row => Sys2Proof.Machine.execRowClockRaise row s
  | .leaseExpiry row => Sys2Proof.Machine.execLeaseExpiry row s
  | .meltUpdate permille => Sys2Proof.Machine.execMeltUpdate permille s
  | .haltGroupStop lc ctx => Sys2Proof.Machine.execHaltGroupStop lc ctx s
  | .dctlResume lc ctx => Sys2Proof.Machine.execDctlResume lc ctx s
  | .dctlStep lc ctx => Sys2Proof.Machine.execDctlStep lc ctx s
  | .dctlEnd lc ctx => Sys2Proof.Machine.execDctlEnd lc ctx s
  | .dctlStop lc ctx => Sys2Proof.Machine.execDctlStop lc ctx s
  | .leaseRenew row value => Sys2Proof.Machine.execLeaseRenew row value s
  | .allotWrite lc ctx value => Sys2Proof.Machine.execAllotWrite lc ctx value s
  | .pcWrite lc ctx value => Sys2Proof.Machine.execPcWrite lc ctx value s
  | .clkdivWrite phys value => Sys2Proof.Machine.execClkdivWrite phys value s
  | .fmodeWrite lc ctx value => Sys2Proof.Machine.execFmodeWrite lc ctx value s
  | .srgWrite lc ctx value => Sys2Proof.Machine.execSrgWrite lc ctx value s
  | .registerWrite reg value => Sys2Proof.Machine.execRegisterWrite reg value s
  | .keySlotWrite vf slot key => Sys2Proof.Machine.execKeySlotWrite vf slot key s
  | .attestationQuote vf nonce => Sys2Proof.Machine.execAttestationQuote vf nonce s
  | .debugUnlock granted => Sys2Proof.Machine.execDebugUnlock granted s
  | .reservedWord w => Sys2Proof.Machine.execReservedWord w s
  | .writeAcknowledgement idx => Sys2Proof.Machine.execWriteAcknowledgement idx s
  | .referenceTick => Sys2Proof.Machine.execReferenceTick s
  | .renairSend die flits => Sys2Proof.Machine.execRenairSend die flits s
  | .idleEntry => Sys2Proof.Machine.execIdleEntry s

end Sys2Proof.Machine
end

