-- ==== Sys2Proof/WellFormed.lean ====
section
/-! DEFINITION. Well-formed instructions: the ranges and operand kinds that R38 to R41, R57 and the class chapters
give. An instruction word whose fields fall outside them is reserved (R56). -/

namespace Sys2Proof

/-- A scalar register code that is no port (R38, R41). -/
def isReg (r : F6) : Bool := decide (r < 56#6)

/-- A vector register code (R38). -/
def isVecReg (r : F6) : Bool := decide (r < 32#6)

/-- A value operand: scalar or port, constant, or literal (R40). -/
def isVal : Opnd → Bool
  | .s _ => true
  | .v _ => false
  | .c _ => true
  | .lit _ => true

/-- A vector operand in range (R38). -/
def isVec : Opnd → Bool
  | .v f => isVecReg f
  | _ => false

/-- A value operand of a field that takes no port (R41, R160). -/
def isPlain : Opnd → Bool
  | .s f => isReg f
  | .v _ => false
  | .c _ => true
  | .lit _ => true

/-- The offset or index of VLD and VST: a literal or a vector (R163, R164). -/
def isIndex : Opnd → Bool
  | .lit _ => true
  | .v f => isVecReg f
  | _ => false

/-- A jump target of JR and CALLR: scalar, port or constant (R102). -/
def isTarget : Opnd → Bool
  | .s _ => true
  | .c _ => true
  | _ => false

/-- The operand of an offer or settle: scalar, constant, literal or vector, no port (R41, R180, R193). -/
def isOfferSrc (o : Opnd) : Bool := isPlain o || isVec o

/-- The first register of a pair of 64-bit offers (R57): scalar 1 to 54 or vector 0 to 30. -/
def isPair : Opnd → Bool
  | .s f => decide (0#6 < f) && decide (f < 55#6)
  | .v f => decide (f < 31#6)
  | _ => false

/-- The first register of a pair of .f32 offers (R57). -/
def isScalarPair : Opnd → Bool
  | .s f => decide (0#6 < f) && decide (f < 55#6)
  | _ => false

/-- The destination of an offer (R35): a vector register when the operand is a vector. -/
def offerDest (d : F6) : Opnd → Bool
  | .v _ => isVecReg d
  | _ => isReg d

/-- The first factor of MXMM: a tile or an accumulator (R226). -/
def isFactor : Opnd → Bool
  | .lit _ => true
  | .c f => decide (f < 8#6)
  | _ => false

/-- A scope name (R39). -/
def isScope (n : F6) : Bool := decide (n < 5#6)

/-- The sensor exists (R304). -/
def Sensor.wf : Sensor → Bool
  | .core n => decide (n < 2048)
  | .row n => decide (n < 128)
  | .base n => decide (n < 16)
  | .trip n => decide (n < 2064)

/-- The unit exists. -/
def RegAddr.wf : RegAddr → Bool
  | .context _ c _ => decide (c < 11)
  | .logical _ _ => true
  | .physical p _ => decide (p < 2048)
  | .row r _ => decide (r < 128)
  | .package _ => true
  | .vf v _ => decide (v < 96)

/-- A host access names an existing virtual function and moves at least one byte. -/
def HostAccess.wf (a : HostAccess) : Bool := decide (a.vf < 96) && !a.bytes.isEmpty

/-- All numbers of a list lie below n. -/
def allBelow (n : Nat) (l : List Nat) : Bool := l.all (fun c => decide (c < n))

/-- A melt fraction that the sensors report (R292). -/
def meltFraction (p : Nat) : Bool := decide (p < 1001) || p == 1023

/-- The boot inputs name existing units: cores of their own dies, partitions below 48, virtual functions below 96 with
address spaces of their partitions (R357), one of the three rates, and only the firmware owns slot 0. -/
def BootInput.wf (b : BootInput) : Bool :=
  allBelow 512 b.badChannels && b.rates.all (fun e => decide (e.1 < 512) && decide (e.2 < 3)) && allBelow 16 b.badSlices &&
    allBelow 2048 b.badCores && allBelow 8192 b.badSlots && allBelow 14 b.badPorts && b.reeves.length == 8 &&
    b.reeves.zipIdx.all (fun e => e.1 / 256 == e.2) && allBelow 8 b.badReeves && b.entry.toNat % 2 == 0 &&
    b.vfs.all (fun e => decide (e.1 < 96) && decide (e.2.1 < 48) && e.2.2 / 1024 == e.2.1 + 1 && decide (e.2.2 < 65536)) &&
    b.yards.all (fun e => decide (e.1 < 256) && decide (e.2 < 48)) &&
    b.slots.all (fun e => decide (0 < e.1) && decide (e.1 < 8192) && decide (e.2 < 48)) && meltFraction b.melt

/-- Every field of the instruction lies in the range the spec gives it. -/
def wellFormed : Instr → Bool

  | .add _ a b => isVal a && isVal b
  | .sub _ a b => isVal a && isVal b
  | .and _ a b => isVal a && isVal b
  | .or _ a b => isVal a && isVal b
  | .xor _ a b => isVal a && isVal b
  | .shl _ a b => isVal a && isVal b
  | .shr _ a b => isVal a && isVal b
  | .sar _ a b => isVal a && isVal b
  | .mul _ a b => isVal a && isVal b
  | .mulh _ a b => isVal a && isVal b
  | .mulhn _ a b => isVal a && isVal b
  | .div _ a b => isVal a && isVal b
  | .divn _ a b => isVal a && isVal b
  | .rem _ a b => isVal a && isVal b
  | .remn _ a b => isVal a && isVal b
  | .seq _ a b => isVal a && isVal b
  | .sne _ a b => isVal a && isVal b
  | .slt _ a b => isVal a && isVal b
  | .sltn _ a b => isVal a && isVal b
  | .sle _ a b => isVal a && isVal b
  | .slen _ a b => isVal a && isVal b
  | .min _ a b => isVal a && isVal b
  | .max _ a b => isVal a && isVal b
  | .clz _ a => isVal a
  | .ctz _ a => isVal a
  | .popc _ a => isVal a
  | .brev _ a => isVal a
  | .bswap _ a => isVal a
  | .mov _ a => isVal a
  | .movy _ y => y < 4#6
  | .sext _ a b => isVal a && isVal b
  | .sel d a b => 0#6 < d && isReg d && isVal a && isVal b
  | .minn _ a b => isVal a && isVal b
  | .maxn _ a b => isVal a && isVal b
  | .ext n a => n < 8#6 && (isVal a || isVec a)
  | .nop => true
  | .nopCompact => true
  | .ts _ => true
  | .who _ item => item < 24#6
  | .movx _ n => n < 8#6
  | .extL _ => true
  | .ldB d base _ => isReg d && isReg base
  | .ldH d base _ => isReg d && isReg base
  | .ldW d base _ => isReg d && isReg base
  | .ld d base _ => isReg d && isReg base
  | .stB d base _ => isReg d && isReg base
  | .stH d base _ => isReg d && isReg base
  | .stW d base _ => isReg d && isReg base
  | .st d base _ => isReg d && isReg base
  | .ldAcq d a scope => isReg d && isReg a && isScope scope
  | .stRel x a scope => isReg x && isReg a && isScope scope
  | .fence scope => isScope scope
  | .fenceAcq scope => isScope scope
  | .fenceRel scope => isScope scope
  | .ldBz d a _ => isReg d && isReg a
  | .ldHz d a _ => isReg d && isReg a
  | .ldWz d a _ => isReg d && isReg a
  | .vldRaw d a b => isVecReg d && isReg a && isIndex b
  | .vldI8 d a b => isVecReg d && isReg a && isIndex b
  | .vldI16 d a b => isVecReg d && isReg a && isIndex b
  | .vldI32 d a b => isVecReg d && isReg a && isIndex b
  | .vldN8 d a b => isVecReg d && isReg a && isIndex b
  | .vldN16 d a b => isVecReg d && isReg a && isIndex b
  | .vldN32 d a b => isVecReg d && isReg a && isIndex b
  | .vldFp16 d a b => isVecReg d && isReg a && isIndex b
  | .vldBf16 d a b => isVecReg d && isReg a && isIndex b
  | .vldFp32 d a b => isVecReg d && isReg a && isIndex b
  | .vldDm8 d a b => isVecReg d && isReg a && isIndex b
  | .vldMask d a _ => isVecReg d && isReg a
  | .vst x a b => isVecReg x && isReg a && isIndex b
  | .tstat d _ => isReg d
  | .twait _ => true
  | .tfree _ => true
  | .resize d a => isReg d && isPlain a
  | .smap o a b => isReg o && isReg a && isPlain b
  | .sunmap o => isReg o
  | .tdefRaw _ a b => isReg a && isPlain b
  | .tdefI8 _ a b => isReg a && isPlain b
  | .tdefI16 _ a b => isReg a && isPlain b
  | .tdefI32 _ a b => isReg a && isPlain b
  | .tdefN8 _ a b => isReg a && isPlain b
  | .tdefN16 _ a b => isReg a && isPlain b
  | .tdefN32 _ a b => isReg a && isPlain b
  | .tdefFp16 _ a b => isReg a && isPlain b
  | .tdefBf16 _ a b => isReg a && isPlain b
  | .tdefFp32 _ a b => isReg a && isPlain b
  | .tdefDm8 _ a b => isReg a && isPlain b
  | .tdefMask _ a b => isReg a && isPlain b
  | .b _ => true
  | .bZ r _ => isReg r
  | .bNz r _ => isReg r
  | .bLtz r _ => isReg r
  | .bGez r _ => isReg r
  | .bGtz r _ => isReg r
  | .bLez r _ => isReg r
  | .call r _ => isReg r
  | .loop r _ => 0#6 < r && isReg r
  | .jr a => isTarget a
  | .callr _ a => isTarget a
  | .grow _ a b => isVal a && isVal b
  | .shrink _ a b => isVal a && isVal b
  | .start h a target => 0#6 < h && h < 11#6 && isVal a && isVal target
  | .halt => true
  | .haltKeep a => isVal a
  | .yield => true
  | .waitp _ a => isVal a
  | .portsel a => isVal a
  | .bar level => level < 8#6
  | .bara level => level < 8#6
  | .barw level => level < 8#6
  | .launch _ a => isVal a
  | .sprint _ a => isVal a
  | .sprel => true
  | .sysrd _ _ => true
  | .syswr _ a => isVal a
  | .cpy a => a < 53#6
  | .cpyt _ a => a < 53#6
  | .trap _ => true
  | .brk => true
  | .ofrAdd d _ a b => isOfferSrc b && offerDest d b && isReg a
  | .ofrFma d _ a b => isPair b && offerDest d b && isReg a
  | .ofrMin d _ a b => isOfferSrc b && offerDest d b && isReg a
  | .ofrMax d _ a b => isOfferSrc b && offerDest d b && isReg a
  | .ofrAnd d _ a b => isOfferSrc b && offerDest d b && isReg a
  | .ofrOr d _ a b => isOfferSrc b && offerDest d b && isReg a
  | .ofrXchg d _ a b => isOfferSrc b && offerDest d b && isReg a
  | .ofrCas d _ a b => isPair b && offerDest d b && isReg a
  | .ofrAddF32 d _ a b => isPlain b && isReg d && isReg a
  | .ofrFmaF32 d _ a b => isScalarPair b && isReg d && isReg a
  | .ofrMinF32 d _ a b => isPlain b && isReg d && isReg a
  | .ofrMaxF32 d _ a b => isPlain b && isReg d && isReg a
  | .setl _ a b => isOfferSrc b && isReg a
  | .rls _ a => isReg a
  | .pub d a scope => isReg d && isReg a && 0#6 < scope && isScope scope
  | .pubw a => isReg a
  | .refld d a => isReg d && isReg a
  | .refldAcq d a scope => isReg d && isReg a && isScope scope
  | .refst x a => isReg x && isReg a
  | .refstRel x a scope => isReg x && isReg a && isScope scope
  | .vadd d a b => isVecReg d && isVecReg a && isVecReg b
  | .vsub d a b => isVecReg d && isVecReg a && isVecReg b
  | .vmul d a b => isVecReg d && isVecReg a && isVecReg b
  | .vmin d a b => isVecReg d && isVecReg a && isVecReg b
  | .vmax d a b => isVecReg d && isVecReg a && isVecReg b
  | .vand d a b => isVecReg d && isVecReg a && isVecReg b
  | .vor d a b => isVecReg d && isVecReg a && isVecReg b
  | .vxor d a b => isVecReg d && isVecReg a && isVecReg b
  -- R136: no vector instruction consumes a port word. The model's choice is that port codes are reserved in the amount
  -- of a shift and in the source of VBCST, though R41 admits them in A and B of the R format (log 43).
  | .vshl d a b => isVecReg d && isVecReg a && (isPlain b || isVec b)
  | .vshr d a b => isVecReg d && isVecReg a && (isPlain b || isVec b)
  | .vsar d a b => isVecReg d && isVecReg a && (isPlain b || isVec b)
  | .vceq d a b => isVecReg d && isVecReg a && isVecReg b
  | .vclt d a b => isVecReg d && isVecReg a && isVecReg b
  | .vcle d a b => isVecReg d && isVecReg a && isVecReg b
  | .vbcst d a tag => isVecReg d && isPlain a && tag < 12#6
  | .vred d a op => isVecReg d && isVecReg a && op < 3#6
  | .vcvt d a tag => isVecReg d && isVecReg a && 0#6 < tag && tag < 11#6
  | .vcvtRne d a tag => isVecReg d && isVecReg a && 0#6 < tag && tag < 11#6
  | .vcvtRtz d a tag => isVecReg d && isVecReg a && 0#6 < tag && tag < 11#6
  | .vcvtRdn d a tag => isVecReg d && isVecReg a && 0#6 < tag && tag < 11#6
  | .vcvtRup d a tag => isVecReg d && isVecReg a && 0#6 < tag && tag < 11#6
  | .vcvtRsto d a tag => isVecReg d && isVecReg a && 0#6 < tag && tag < 11#6
  | .vretag d a tag => isVecReg d && isVecReg a && tag < 12#6
  | .vscan d a op => isVecReg d && isVecReg a && op < 3#6
  | .vfma d a b => isVecReg d && isVecReg a && isVecReg b
  | .vfms d a b => isVecReg d && isVecReg a && isVecReg b
  | .vfnma d a b => isVecReg d && isVecReg a && isVecReg b
  | .vsel d a b => isVecReg d && isVecReg a && isVecReg b
  | .vperm d a b => isVecReg d && isVecReg a && isVecReg b
  | .vabs d a => isVecReg d && isVecReg a
  | .vneg d a => isVecReg d && isVecReg a
  | .vmov d a => isVecReg d && isVecReg a
  | .mxmm _ _ op _ => isFactor op
  | .mxmmDup _ _ op _ => isFactor op
  | .mxz _ acc => acc < 8#6
  | .waitj a => isVal a
  | .pollj _ a => isVal a
  | .mxdrFp32 _ _ acc => acc < 8#6
  | .mxdrBf16 _ _ acc => acc < 8#6
  | .mxdrFp16 _ _ acc => acc < 8#6
  | .mxdrDm8 _ _ acc => acc < 8#6
  | .mxdrI8 _ _ acc => acc < 8#6
  | .addCompact _ _ _ => true
  | .subCompact _ _ _ => true
  | .andCompact _ _ _ => true
  | .orCompact _ _ _ => true
  | .xorCompact _ _ _ => true
  | .shlCompact _ _ _ => true
  | .shrCompact _ _ _ => true
  | .sarCompact _ _ _ => true
  | .movCompact _ _ => true
  | .seqCompact _ _ _ => true
  | .sltCompact _ _ _ => true
  | .vaddCompact _ _ _ => true
  | .vsubCompact _ _ _ => true
  | .vmulCompact _ _ _ => true
  | .vfmaCompact _ _ _ => true
  | .addImmCompact d l => !(d == 0#3 && l == 0#6)
  | .andImmCompact _ _ => true
  | .shlImmCompact _ l => l < 32#6
  | .shrImmCompact _ l => l < 32#6
  | .sarImmCompact _ l => l < 32#6
  | .movImmCompact _ _ => true
  | .bZCompact _ _ => true
  | .bNzCompact _ _ => true
  | .bCompact _ => true
  | .loopCompact d _ => 0#3 < d
  | .ldCompact _ _ _ => true
  | .stCompact _ _ _ => true
  | .ldWCompact _ _ _ => true
  | .stWCompact _ _ _ => true
  | .moduleReset boot => boot.wf
  | .loadReply _ ctx _ => ctx < 11
  | .memoryRecordWrite _ => true
  | .faultPacketWrite die => die < 8
  | .deliveredTrap _ ctx => ctx < 11
  | .portWordDelivery _ => true
  | .offerArrival _ => true
  | .priorityOfferArrival _ => true
  | .millTakeOffer mill _ => mill < 64
  | .offerReply _ => true
  | .settleArrival _ => true
  | .settleReply _ => true
  | .releaseArrival _ => true
  | .holdAgeExpiry mill _ => mill < 64
  | .sliceRetentionEntry stack => stack < 16
  | .sliceWake stack => stack < 16
  | .walkIdAssign _ => true
  | .walkStart _ => true
  | .walkStep _ => true
  | .mxJobStart yard _ => yard < 256
  | .mxJobComplete yard _ _ => yard < 256
  | .engineSprintClock yard => yard < 256
  | .engineClockDrop yard => yard < 256
  | .copyDescriptorRead yard _ => yard < 256
  | .copyLanding yard _ => yard < 256
  | .copyComplete yard _ => yard < 256
  | .copyAbandon yard _ => yard < 256
  | .placeTask _ cores => cores.all (fun c => decide (c < 2048))
  | .taskReady _ => true
  | .priorityAgeing _ => true
  | .starvationHold _ => true
  | .taskComplete _ => true
  | .stashRetentionLapse phys => phys < 2048
  | .hqdbWrite vf _ => vf < 96
  | .hostQueueEntry vf => vf < 96
  | .hostWindowAccess acc => acc.wf
  | .backInvalidate _ half _ => half < 2
  | .renairReceive die flits => die < 8 && flits.asid < 65536
  | .mrsolveReplay _ => true
  | .mrsolveUnmapped _ => true
  | .tlbinvPage _ => true
  | .tlbinvAsid _ => true
  | .tlbinvDone => true
  | .hvcmdHarvest _ => true
  | .harvestFrame => true
  | .chrateSwitch _ => true
  | .chrateSelect _ => true
  | .chrateSwitchDone stack => stack < 16
  | .dictldLoad _ => true
  | .dictldDone stack => stack < 16
  | .generationRetire part _ => part < 48
  | .dramRepair _ _ _ => true
  | .rowCopyComplete _ => true
  | .rollback _ => true
  | .tempThresholdCrossing sensor _ => sensor.wf
  | .dwellEnd sensor => sensor.wf
  | .thermalMigration _ phys => phys < 2048
  | .spatialPreemption _ _ => true
  | .unfold _ phys => phys < 2048
  | .lodging _ slot => slot < 256
  | .lodgeRestore _ phys => phys < 2048
  | .runningFunctionChange part vf => part < 48 && vf < 96
  | .corePowerDown phys => phys < 2048
  | .powerUpAdmit row => row < 128
  | .coreReady phys => phys < 2048
  | .laneGate phys => phys < 2048
  | .droopAlarm row _ => row < 128
  | .stretchEnd row => row < 128
  | .halvedEnd row => row < 128
  | .injectionPulseStart yard => yard < 256
  | .injectionPulseEnd yard => yard < 256
  | .rowClockRaise row => row < 128
  | .leaseExpiry row => row < 128
  | .meltUpdate permille => meltFraction permille
  | .haltGroupStop _ ctx => ctx < 11
  | .dctlResume _ ctx => ctx < 11
  | .dctlStep _ ctx => ctx < 11
  | .dctlEnd _ ctx => ctx < 11
  | .dctlStop _ ctx => ctx < 11
  | .leaseRenew row _ => row < 128
  | .allotWrite _ ctx _ => ctx < 11
  | .pcWrite _ ctx _ => ctx < 11
  | .clkdivWrite phys _ => phys < 2048
  | .fmodeWrite _ ctx _ => ctx < 11
  | .srgWrite _ ctx _ => ctx < 11
  | .registerWrite reg _ => reg.wf
  | .keySlotWrite vf slot _ => vf < 96 && slot < 8192
  | .attestationQuote vf _ => vf < 96
  | .debugUnlock _ => true
  | .reservedWord _ => true
  | .writeAcknowledgement _ => true
  | .referenceTick => true
  | .renairSend die _ => die < 8
  | .idleEntry => true

end Sys2Proof
end

