-- ==== Sys2Proof/Decode.lean ====
section
/-! DEFINITION. The decoder, total on any bytes and refusing by name, and after it the encoder. Formats R29 to R37,
opcode map R55, placement of operands R57. -/

namespace Sys2Proof

/-- Why bytes are no instruction: too few of them, a cell that R55 or R30 leaves unassigned, a field the form does not
use that is nonzero or has the wrong kind, a field out of range. All but the first make the word reserved (R56). -/
inductive DecodeError where
  | truncated
  | unassigned
  | unusedField
  | outOfRange
  deriving DecidableEq, Repr

/-! ### The fields of a word -/

def fieldMajor (w : BitVec 32) : BitVec 5 := w.extractLsb' 2 5
def fieldD (w : BitVec 32) : F6 := w.extractLsb' 7 6
def fieldKA (w : BitVec 32) : F2 := w.extractLsb' 13 2
def fieldFA (w : BitVec 32) : F6 := w.extractLsb' 15 6
def fieldKB (w : BitVec 32) : F2 := w.extractLsb' 21 2
def fieldFB (w : BitVec 32) : F6 := w.extractLsb' 23 6
def fieldFn (w : BitVec 32) : F3 := w.extractLsb' 29 3
def fieldY (w : BitVec 32) : F2 := w.extractLsb' 13 2
def fieldAddr (w : BitVec 32) : F6 := w.extractLsb' 15 6
def fieldTop (w : BitVec 32) : BitVec 1 := w.extractLsb' 31 1
def fieldOff (w : BitVec 32) : BitVec 12 := w.extractLsb' 19 12
def fieldBase (w : BitVec 32) : F6 := w.extractLsb' 13 6
def fieldJOff (w : BitVec 32) : BitVec 16 := w.extractLsb' 16 16
def fieldJ (w : BitVec 32) : F6 := w.extractLsb' 10 6
def fieldCond (w : BitVec 32) : F3 := w.extractLsb' 7 3
def fieldE (w : BitVec 32) : BitVec 24 := w.extractLsb' 8 24
def fieldL7 (w : BitVec 32) : BitVec 1 := w.extractLsb' 7 1
def fieldCop (h : Half) : BitVec 5 := h.extractLsb' 2 5
def fieldC1 (h : Half) : F3 := h.extractLsb' 7 3
def fieldC2 (h : Half) : F3 := h.extractLsb' 10 3
def fieldC3 (h : Half) : F3 := h.extractLsb' 13 3
def fieldCL (h : Half) : F6 := h.extractLsb' 10 6

/-- An operand from its kind and field (R38). -/
def mkOpnd (k : F2) (f : F6) : Opnd :=
  match k.toNat with
  | 0 => .s f
  | 1 => .v f
  | 2 => .c f
  | _ => .lit f

def fieldA (w : BitVec 32) : Opnd := mkOpnd (fieldKA w) (fieldFA w)
def fieldB (w : BitVec 32) : Opnd := mkOpnd (fieldKB w) (fieldFB w)

/-- The operand of a field that the form does not use (R41). -/
def noOpnd : Opnd := .s 0#6

/-! ### The forms (R57): which of the fields d, A and B a form names -/

def form0 (i : Instr) (d : F6) (a b : Opnd) : Except DecodeError Instr :=
  if d = 0#6 ∧ a = noOpnd ∧ b = noOpnd then .ok i else .error .unusedField

def form1 (k : F6 → Instr) (d : F6) (a b : Opnd) : Except DecodeError Instr :=
  if a = noOpnd ∧ b = noOpnd then .ok (k d) else .error .unusedField

def form2 (k : F6 → Opnd → Instr) (d : F6) (a b : Opnd) : Except DecodeError Instr :=
  if b = noOpnd then .ok (k d a) else .error .unusedField

def form3 (k : F6 → Opnd → Opnd → Instr) (d : F6) (a b : Opnd) : Except DecodeError Instr := .ok (k d a b)

/-- d, and a name in A. -/
def formName (k : F6 → F6 → Instr) (d : F6) (a b : Opnd) : Except DecodeError Instr :=
  match a with
  | .lit n => if b = noOpnd then .ok (k d n) else .error .unusedField
  | _ => .error .unusedField

/-- d, a scalar in A, a literal or name in B. -/
def formSN (k : F6 → F6 → F6 → Instr) (d : F6) (a b : Opnd) : Except DecodeError Instr :=
  match a, b with
  | .s f, .lit n => .ok (k d f n)
  | _, _ => .error .unusedField

/-- A name in B alone. -/
def formB (k : F6 → Instr) (d : F6) (a b : Opnd) : Except DecodeError Instr :=
  match b with
  | .lit n => if d = 0#6 ∧ a = noOpnd then .ok (k n) else .error .unusedField
  | _ => .error .unusedField

/-- A name in A alone. -/
def formA (k : F6 → Instr) (d : F6) (a b : Opnd) : Except DecodeError Instr :=
  match a with
  | .lit n => if d = 0#6 ∧ b = noOpnd then .ok (k n) else .error .unusedField
  | _ => .error .unusedField

/-- A scalar in A alone. -/
def formSA (k : F6 → Instr) (d : F6) (a b : Opnd) : Except DecodeError Instr :=
  match a with
  | .s f => if d = 0#6 ∧ b = noOpnd then .ok (k f) else .error .unusedField
  | _ => .error .unusedField

/-- An operand in A alone. -/
def formOA (k : Opnd → Instr) (d : F6) (a b : Opnd) : Except DecodeError Instr :=
  if d = 0#6 ∧ b = noOpnd then .ok (k a) else .error .unusedField

/-- d, and a scalar in A. -/
def formS2 (k : F6 → F6 → Instr) (d : F6) (a b : Opnd) : Except DecodeError Instr :=
  match a with
  | .s f => if b = noOpnd then .ok (k d f) else .error .unusedField
  | _ => .error .unusedField

/-- d, a scalar in A, an operand in B. -/
def formS3 (k : F6 → F6 → Opnd → Instr) (d : F6) (a b : Opnd) : Except DecodeError Instr :=
  match a with
  | .s f => .ok (k d f b)
  | _ => .error .unusedField

/-- A name in B and an operand in A, d unused (SYSWR). -/
def formNB (k : F6 → Opnd → Instr) (d : F6) (a b : Opnd) : Except DecodeError Instr :=
  match b with
  | .lit n => if d = 0#6 then .ok (k n a) else .error .unusedField
  | _ => .error .unusedField

/-- d, and vectors in A and B. -/
def formVV (k : F6 → F6 → F6 → Instr) (d : F6) (a b : Opnd) : Except DecodeError Instr :=
  match a, b with
  | .v f, .v g => .ok (k d f g)
  | _, _ => .error .unusedField

/-- d, a vector in A, an operand in B. -/
def formVO (k : F6 → F6 → Opnd → Instr) (d : F6) (a b : Opnd) : Except DecodeError Instr :=
  match a with
  | .v f => .ok (k d f b)
  | _ => .error .unusedField

/-- d, an operand in A, a name in B. -/
def formON (k : F6 → Opnd → F6 → Instr) (d : F6) (a b : Opnd) : Except DecodeError Instr :=
  match b with
  | .lit n => .ok (k d a n)
  | _ => .error .unusedField

/-- d, a vector in A, a name in B. -/
def formVN (k : F6 → F6 → F6 → Instr) (d : F6) (a b : Opnd) : Except DecodeError Instr :=
  match a, b with
  | .v f, .lit n => .ok (k d f n)
  | _, _ => .error .unusedField

/-- d, and a vector in A. -/
def formV2 (k : F6 → F6 → Instr) (d : F6) (a b : Opnd) : Except DecodeError Instr :=
  match a with
  | .v f => if b = noOpnd then .ok (k d f) else .error .unusedField
  | _ => .error .unusedField

/-- d, and names in A and B. -/
def formNN (k : F6 → F6 → F6 → Instr) (d : F6) (a b : Opnd) : Except DecodeError Instr :=
  match a, b with
  | .lit m, .lit n => .ok (k d m n)
  | _, _ => .error .unusedField

/-- d, the accumulator in the function field, an operand in A, a tile in B. -/
def formMx (k : F6 → F3 → Opnd → F6 → Instr) (fn : F3) (d : F6) (a b : Opnd) : Except DecodeError Instr :=
  match b with
  | .lit n => .ok (k d fn a n)
  | _ => .error .unusedField

/-- An offer: d, y index, address, operand. -/
def offer (k : F6 → F2 → F6 → Opnd → Instr) (d : F6) (y : F2) (a : F6) (b : Opnd) : Except DecodeError Instr :=
  .ok (k d y a b)

def settle (k : F2 → F6 → Opnd → Instr) (d : F6) (y : F2) (a : F6) (b : Opnd) : Except DecodeError Instr :=
  if d = 0#6 then .ok (k y a b) else .error .unusedField

def release (k : F2 → F6 → Instr) (d : F6) (y : F2) (a : F6) (b : Opnd) : Except DecodeError Instr :=
  if d = 0#6 ∧ b = noOpnd then .ok (k y a) else .error .unusedField

/-- d, the address, a scope in B, y index 0. -/
def formOScope (k : F6 → F6 → F6 → Instr) (d : F6) (y : F2) (a : F6) (b : Opnd) : Except DecodeError Instr :=
  match b with
  | .lit n => if y = 0#2 then .ok (k d a n) else .error .unusedField
  | _ => .error .unusedField

/-- The address alone. -/
def formOAddr (k : F6 → Instr) (d : F6) (y : F2) (a : F6) (b : Opnd) : Except DecodeError Instr :=
  if d = 0#6 ∧ y = 0#2 ∧ b = noOpnd then .ok (k a) else .error .unusedField

/-- d and the address. -/
def formOD (k : F6 → F6 → Instr) (d : F6) (y : F2) (a : F6) (b : Opnd) : Except DecodeError Instr :=
  if y = 0#2 ∧ b = noOpnd then .ok (k d a) else .error .unusedField

/-! ### The opcode map (R55)

Bits 14:13 of an O-format word are the y index. -/

/-- Major 0x00 (R55, R57). -/
def decodeMajor00 (w : BitVec 32) : Except DecodeError Instr :=
  match (fieldFn w).toNat with
  | 0 => form3 .add (fieldD w) (fieldA w) (fieldB w)
  | 1 => form3 .sub (fieldD w) (fieldA w) (fieldB w)
  | 2 => form3 .and (fieldD w) (fieldA w) (fieldB w)
  | 3 => form3 .or (fieldD w) (fieldA w) (fieldB w)
  | 4 => form3 .xor (fieldD w) (fieldA w) (fieldB w)
  | 5 => form3 .shl (fieldD w) (fieldA w) (fieldB w)
  | 6 => form3 .shr (fieldD w) (fieldA w) (fieldB w)
  | _ => form3 .sar (fieldD w) (fieldA w) (fieldB w)

/-- Major 0x01 (R55, R57). -/
def decodeMajor01 (w : BitVec 32) : Except DecodeError Instr :=
  match (fieldFn w).toNat with
  | 0 => form3 .mul (fieldD w) (fieldA w) (fieldB w)
  | 1 => form3 .mulh (fieldD w) (fieldA w) (fieldB w)
  | 2 => form3 .mulhn (fieldD w) (fieldA w) (fieldB w)
  | 3 => form3 .div (fieldD w) (fieldA w) (fieldB w)
  | 4 => form3 .divn (fieldD w) (fieldA w) (fieldB w)
  | 5 => form3 .rem (fieldD w) (fieldA w) (fieldB w)
  | 6 => form3 .remn (fieldD w) (fieldA w) (fieldB w)
  | _ => .error .unassigned

/-- Major 0x02 (R55, R57). -/
def decodeMajor02 (w : BitVec 32) : Except DecodeError Instr :=
  match (fieldFn w).toNat with
  | 0 => form3 .seq (fieldD w) (fieldA w) (fieldB w)
  | 1 => form3 .sne (fieldD w) (fieldA w) (fieldB w)
  | 2 => form3 .slt (fieldD w) (fieldA w) (fieldB w)
  | 3 => form3 .sltn (fieldD w) (fieldA w) (fieldB w)
  | 4 => form3 .sle (fieldD w) (fieldA w) (fieldB w)
  | 5 => form3 .slen (fieldD w) (fieldA w) (fieldB w)
  | 6 => form3 .min (fieldD w) (fieldA w) (fieldB w)
  | _ => form3 .max (fieldD w) (fieldA w) (fieldB w)

/-- Major 0x03 (R55, R57). -/
def decodeMajor03 (w : BitVec 32) : Except DecodeError Instr :=
  match (fieldFn w).toNat with
  | 0 => form2 .clz (fieldD w) (fieldA w) (fieldB w)
  | 1 => form2 .ctz (fieldD w) (fieldA w) (fieldB w)
  | 2 => form2 .popc (fieldD w) (fieldA w) (fieldB w)
  | 3 => form2 .brev (fieldD w) (fieldA w) (fieldB w)
  | 4 => form2 .bswap (fieldD w) (fieldA w) (fieldB w)
  | 5 => form2 .mov (fieldD w) (fieldA w) (fieldB w)
  | 6 => formName .movy (fieldD w) (fieldA w) (fieldB w)
  | _ => form3 .sext (fieldD w) (fieldA w) (fieldB w)

/-- Major 0x04 (R55, R57). -/
def decodeMajor04 (w : BitVec 32) : Except DecodeError Instr :=
  match (fieldFn w).toNat with
  | 0 => form3 .sel (fieldD w) (fieldA w) (fieldB w)
  | 1 => form3 .minn (fieldD w) (fieldA w) (fieldB w)
  | 2 => form3 .maxn (fieldD w) (fieldA w) (fieldB w)
  | 3 => form2 .ext (fieldD w) (fieldA w) (fieldB w)
  | 4 => form0 .nop (fieldD w) (fieldA w) (fieldB w)
  | 5 => form1 .ts (fieldD w) (fieldA w) (fieldB w)
  | 6 => formName .who (fieldD w) (fieldA w) (fieldB w)
  | _ => formName .movx (fieldD w) (fieldA w) (fieldB w)

/-- Major 0x05 (R33, R55). -/
def decodeMajor05 (w : BitVec 32) : Except DecodeError Instr :=
  if fieldTop w = 0#1 then .ok (.ldB (fieldD w) (fieldBase w) (fieldOff w))
  else .ok (.ldH (fieldD w) (fieldBase w) (fieldOff w))

/-- Major 0x06 (R33, R55). -/
def decodeMajor06 (w : BitVec 32) : Except DecodeError Instr :=
  if fieldTop w = 0#1 then .ok (.ldW (fieldD w) (fieldBase w) (fieldOff w))
  else .ok (.ld (fieldD w) (fieldBase w) (fieldOff w))

/-- Major 0x07 (R33, R55). -/
def decodeMajor07 (w : BitVec 32) : Except DecodeError Instr :=
  if fieldTop w = 0#1 then .ok (.stB (fieldD w) (fieldBase w) (fieldOff w))
  else .ok (.stH (fieldD w) (fieldBase w) (fieldOff w))

/-- Major 0x08 (R33, R55). -/
def decodeMajor08 (w : BitVec 32) : Except DecodeError Instr :=
  if fieldTop w = 0#1 then .ok (.stW (fieldD w) (fieldBase w) (fieldOff w))
  else .ok (.st (fieldD w) (fieldBase w) (fieldOff w))

/-- Major 0x09 (R55, R57). -/
def decodeMajor09 (w : BitVec 32) : Except DecodeError Instr :=
  match (fieldFn w).toNat with
  | 0 => formSN .ldAcq (fieldD w) (fieldA w) (fieldB w)
  | 1 => formSN .stRel (fieldD w) (fieldA w) (fieldB w)
  | 2 => formB .fence (fieldD w) (fieldA w) (fieldB w)
  | 3 => formB .fenceAcq (fieldD w) (fieldA w) (fieldB w)
  | 4 => formB .fenceRel (fieldD w) (fieldA w) (fieldB w)
  | 5 => formSN .ldBz (fieldD w) (fieldA w) (fieldB w)
  | 6 => formSN .ldHz (fieldD w) (fieldA w) (fieldB w)
  | _ => formSN .ldWz (fieldD w) (fieldA w) (fieldB w)

/-- Major 0x0a (R55, R57). -/
def decodeMajor0A (w : BitVec 32) : Except DecodeError Instr :=
  match (fieldFn w).toNat with
  | 0 => formS3 .vldRaw (fieldD w) (fieldA w) (fieldB w)
  | 1 => formS3 .vldI8 (fieldD w) (fieldA w) (fieldB w)
  | 2 => formS3 .vldI16 (fieldD w) (fieldA w) (fieldB w)
  | 3 => formS3 .vldI32 (fieldD w) (fieldA w) (fieldB w)
  | 4 => formS3 .vldN8 (fieldD w) (fieldA w) (fieldB w)
  | 5 => formS3 .vldN16 (fieldD w) (fieldA w) (fieldB w)
  | 6 => formS3 .vldN32 (fieldD w) (fieldA w) (fieldB w)
  | _ => formS3 .vldFp16 (fieldD w) (fieldA w) (fieldB w)

/-- Major 0x0b (R55, R57). -/
def decodeMajor0B (w : BitVec 32) : Except DecodeError Instr :=
  match (fieldFn w).toNat with
  | 0 => formS3 .vldBf16 (fieldD w) (fieldA w) (fieldB w)
  | 1 => formS3 .vldFp32 (fieldD w) (fieldA w) (fieldB w)
  | 2 => formS3 .vldDm8 (fieldD w) (fieldA w) (fieldB w)
  | 3 => formSN .vldMask (fieldD w) (fieldA w) (fieldB w)
  | _ => .error .unassigned

/-- Major 0x0c (R55, R57). -/
def decodeMajor0C (w : BitVec 32) : Except DecodeError Instr :=
  match (fieldFn w).toNat with
  | 0 => formS3 .vst (fieldD w) (fieldA w) (fieldB w)
  | 1 => formName .tstat (fieldD w) (fieldA w) (fieldB w)
  | 2 => formA .twait (fieldD w) (fieldA w) (fieldB w)
  | 3 => formA .tfree (fieldD w) (fieldA w) (fieldB w)
  | 4 => form2 .resize (fieldD w) (fieldA w) (fieldB w)
  | 5 => formS3 .smap (fieldD w) (fieldA w) (fieldB w)
  | 6 => formSA .sunmap (fieldD w) (fieldA w) (fieldB w)
  | _ => .error .unassigned

/-- Major 0x0d (R55, R57). -/
def decodeMajor0D (w : BitVec 32) : Except DecodeError Instr :=
  match (fieldFn w).toNat with
  | 0 => formS3 .tdefRaw (fieldD w) (fieldA w) (fieldB w)
  | 1 => formS3 .tdefI8 (fieldD w) (fieldA w) (fieldB w)
  | 2 => formS3 .tdefI16 (fieldD w) (fieldA w) (fieldB w)
  | 3 => formS3 .tdefI32 (fieldD w) (fieldA w) (fieldB w)
  | 4 => formS3 .tdefN8 (fieldD w) (fieldA w) (fieldB w)
  | 5 => formS3 .tdefN16 (fieldD w) (fieldA w) (fieldB w)
  | 6 => formS3 .tdefN32 (fieldD w) (fieldA w) (fieldB w)
  | _ => formS3 .tdefFp16 (fieldD w) (fieldA w) (fieldB w)

/-- Major 0x0e (R55, R57). -/
def decodeMajor0E (w : BitVec 32) : Except DecodeError Instr :=
  match (fieldFn w).toNat with
  | 0 => formS3 .tdefBf16 (fieldD w) (fieldA w) (fieldB w)
  | 1 => formS3 .tdefFp32 (fieldD w) (fieldA w) (fieldB w)
  | 2 => formS3 .tdefDm8 (fieldD w) (fieldA w) (fieldB w)
  | 3 => formS3 .tdefMask (fieldD w) (fieldA w) (fieldB w)
  | _ => .error .unassigned

/-- Major 0x0f (R34, R55). -/
def decodeMajor0F (w : BitVec 32) : Except DecodeError Instr :=
  match (fieldCond w).toNat with
  | 0 => if fieldJ w = 0#6 then .ok (.b (fieldJOff w)) else .error .unusedField
  | 1 => .ok (.bZ (fieldJ w) (fieldJOff w))
  | 2 => .ok (.bNz (fieldJ w) (fieldJOff w))
  | 3 => .ok (.bLtz (fieldJ w) (fieldJOff w))
  | 4 => .ok (.bGez (fieldJ w) (fieldJOff w))
  | 5 => .ok (.bGtz (fieldJ w) (fieldJOff w))
  | 6 => .ok (.bLez (fieldJ w) (fieldJOff w))
  | _ => .error .unassigned

/-- Major 0x10 (R34, R55). -/
def decodeMajor10 (w : BitVec 32) : Except DecodeError Instr :=
  match (fieldCond w).toNat with
  | 0 => .ok (.call (fieldJ w) (fieldJOff w))
  | 1 => .ok (.loop (fieldJ w) (fieldJOff w))
  | _ => .error .unassigned

/-- Major 0x11 (R55, R57). -/
def decodeMajor11 (w : BitVec 32) : Except DecodeError Instr :=
  match (fieldFn w).toNat with
  | 0 => formOA .jr (fieldD w) (fieldA w) (fieldB w)
  | 1 => form2 .callr (fieldD w) (fieldA w) (fieldB w)
  | _ => .error .unassigned

/-- Major 0x12 (R55, R57). -/
def decodeMajor12 (w : BitVec 32) : Except DecodeError Instr :=
  match (fieldFn w).toNat with
  | 0 => form3 .grow (fieldD w) (fieldA w) (fieldB w)
  | 1 => form3 .shrink (fieldD w) (fieldA w) (fieldB w)
  | 2 => form3 .start (fieldD w) (fieldA w) (fieldB w)
  | 3 => form0 .halt (fieldD w) (fieldA w) (fieldB w)
  | 4 => formOA .haltKeep (fieldD w) (fieldA w) (fieldB w)
  | 5 => form0 .yield (fieldD w) (fieldA w) (fieldB w)
  | 6 => form2 .waitp (fieldD w) (fieldA w) (fieldB w)
  | _ => formOA .portsel (fieldD w) (fieldA w) (fieldB w)

/-- Major 0x13 (R55, R57). -/
def decodeMajor13 (w : BitVec 32) : Except DecodeError Instr :=
  match (fieldFn w).toNat with
  | 0 => formA .bar (fieldD w) (fieldA w) (fieldB w)
  | 1 => formA .bara (fieldD w) (fieldA w) (fieldB w)
  | 2 => formA .barw (fieldD w) (fieldA w) (fieldB w)
  | 3 => form2 .launch (fieldD w) (fieldA w) (fieldB w)
  | 4 => form2 .sprint (fieldD w) (fieldA w) (fieldB w)
  | 5 => form0 .sprel (fieldD w) (fieldA w) (fieldB w)
  | 6 => formName .sysrd (fieldD w) (fieldA w) (fieldB w)
  | _ => formNB .syswr (fieldD w) (fieldA w) (fieldB w)

/-- Major 0x14 (R55, R57). -/
def decodeMajor14 (w : BitVec 32) : Except DecodeError Instr :=
  match (fieldFn w).toNat with
  | 0 => formSA .cpy (fieldD w) (fieldA w) (fieldB w)
  | 1 => formS2 .cpyt (fieldD w) (fieldA w) (fieldB w)
  | 2 => formA .trap (fieldD w) (fieldA w) (fieldB w)
  | 3 => form0 .brk (fieldD w) (fieldA w) (fieldB w)
  | _ => .error .unassigned

/-- Major 0x15 (R35, R55). -/
def decodeMajor15 (w : BitVec 32) : Except DecodeError Instr :=
  match (fieldFn w).toNat with
  | 0 => offer .ofrAdd (fieldD w) (fieldY w) (fieldAddr w) (fieldB w)
  | 1 => offer .ofrFma (fieldD w) (fieldY w) (fieldAddr w) (fieldB w)
  | 2 => offer .ofrMin (fieldD w) (fieldY w) (fieldAddr w) (fieldB w)
  | 3 => offer .ofrMax (fieldD w) (fieldY w) (fieldAddr w) (fieldB w)
  | 4 => offer .ofrAnd (fieldD w) (fieldY w) (fieldAddr w) (fieldB w)
  | 5 => offer .ofrOr (fieldD w) (fieldY w) (fieldAddr w) (fieldB w)
  | 6 => offer .ofrXchg (fieldD w) (fieldY w) (fieldAddr w) (fieldB w)
  | _ => offer .ofrCas (fieldD w) (fieldY w) (fieldAddr w) (fieldB w)

/-- Major 0x16 (R35, R55). -/
def decodeMajor16 (w : BitVec 32) : Except DecodeError Instr :=
  match (fieldFn w).toNat with
  | 0 => offer .ofrAddF32 (fieldD w) (fieldY w) (fieldAddr w) (fieldB w)
  | 1 => offer .ofrFmaF32 (fieldD w) (fieldY w) (fieldAddr w) (fieldB w)
  | 2 => offer .ofrMinF32 (fieldD w) (fieldY w) (fieldAddr w) (fieldB w)
  | 3 => offer .ofrMaxF32 (fieldD w) (fieldY w) (fieldAddr w) (fieldB w)
  | _ => .error .unassigned

/-- Major 0x17 (R35, R55). -/
def decodeMajor17 (w : BitVec 32) : Except DecodeError Instr :=
  match (fieldFn w).toNat with
  | 0 => settle .setl (fieldD w) (fieldY w) (fieldAddr w) (fieldB w)
  | 1 => release .rls (fieldD w) (fieldY w) (fieldAddr w) (fieldB w)
  | 2 => formOScope .pub (fieldD w) (fieldY w) (fieldAddr w) (fieldB w)
  | 3 => formOAddr .pubw (fieldD w) (fieldY w) (fieldAddr w) (fieldB w)
  | 4 => formOD .refld (fieldD w) (fieldY w) (fieldAddr w) (fieldB w)
  | 5 => formOScope .refldAcq (fieldD w) (fieldY w) (fieldAddr w) (fieldB w)
  | 6 => formOD .refst (fieldD w) (fieldY w) (fieldAddr w) (fieldB w)
  | _ => formOScope .refstRel (fieldD w) (fieldY w) (fieldAddr w) (fieldB w)

/-- Major 0x18 (R55, R57). -/
def decodeMajor18 (w : BitVec 32) : Except DecodeError Instr :=
  match (fieldFn w).toNat with
  | 0 => formVV .vadd (fieldD w) (fieldA w) (fieldB w)
  | 1 => formVV .vsub (fieldD w) (fieldA w) (fieldB w)
  | 2 => formVV .vmul (fieldD w) (fieldA w) (fieldB w)
  | 3 => formVV .vmin (fieldD w) (fieldA w) (fieldB w)
  | 4 => formVV .vmax (fieldD w) (fieldA w) (fieldB w)
  | 5 => formVV .vand (fieldD w) (fieldA w) (fieldB w)
  | 6 => formVV .vor (fieldD w) (fieldA w) (fieldB w)
  | _ => formVV .vxor (fieldD w) (fieldA w) (fieldB w)

/-- Major 0x19 (R55, R57). -/
def decodeMajor19 (w : BitVec 32) : Except DecodeError Instr :=
  match (fieldFn w).toNat with
  | 0 => formVO .vshl (fieldD w) (fieldA w) (fieldB w)
  | 1 => formVO .vshr (fieldD w) (fieldA w) (fieldB w)
  | 2 => formVO .vsar (fieldD w) (fieldA w) (fieldB w)
  | 3 => formVV .vceq (fieldD w) (fieldA w) (fieldB w)
  | 4 => formVV .vclt (fieldD w) (fieldA w) (fieldB w)
  | 5 => formVV .vcle (fieldD w) (fieldA w) (fieldB w)
  | 6 => formON .vbcst (fieldD w) (fieldA w) (fieldB w)
  | _ => formVN .vred (fieldD w) (fieldA w) (fieldB w)

/-- Major 0x1a (R55, R57). -/
def decodeMajor1A (w : BitVec 32) : Except DecodeError Instr :=
  match (fieldFn w).toNat with
  | 0 => formVN .vcvt (fieldD w) (fieldA w) (fieldB w)
  | 1 => formVN .vcvtRne (fieldD w) (fieldA w) (fieldB w)
  | 2 => formVN .vcvtRtz (fieldD w) (fieldA w) (fieldB w)
  | 3 => formVN .vcvtRdn (fieldD w) (fieldA w) (fieldB w)
  | 4 => formVN .vcvtRup (fieldD w) (fieldA w) (fieldB w)
  | 5 => formVN .vcvtRsto (fieldD w) (fieldA w) (fieldB w)
  | 6 => formVN .vretag (fieldD w) (fieldA w) (fieldB w)
  | _ => formVN .vscan (fieldD w) (fieldA w) (fieldB w)

/-- Major 0x1b (R55, R57). -/
def decodeMajor1B (w : BitVec 32) : Except DecodeError Instr :=
  match (fieldFn w).toNat with
  | 0 => formVV .vfma (fieldD w) (fieldA w) (fieldB w)
  | 1 => formVV .vfms (fieldD w) (fieldA w) (fieldB w)
  | 2 => formVV .vfnma (fieldD w) (fieldA w) (fieldB w)
  | 3 => formVV .vsel (fieldD w) (fieldA w) (fieldB w)
  | 4 => formVV .vperm (fieldD w) (fieldA w) (fieldB w)
  | 5 => formV2 .vabs (fieldD w) (fieldA w) (fieldB w)
  | 6 => formV2 .vneg (fieldD w) (fieldA w) (fieldB w)
  | _ => formV2 .vmov (fieldD w) (fieldA w) (fieldB w)

/-- Major 0x1c: the function field names the accumulator (R55, R226). -/
def decodeMajor1C (w : BitVec 32) : Except DecodeError Instr :=
  formMx .mxmm (fieldFn w) (fieldD w) (fieldA w) (fieldB w)

/-- Major 0x1d: the function field names the accumulator (R55, R226). -/
def decodeMajor1D (w : BitVec 32) : Except DecodeError Instr :=
  formMx .mxmmDup (fieldFn w) (fieldD w) (fieldA w) (fieldB w)

/-- Major 0x1e (R55, R57). -/
def decodeMajor1E (w : BitVec 32) : Except DecodeError Instr :=
  match (fieldFn w).toNat with
  | 0 => formName .mxz (fieldD w) (fieldA w) (fieldB w)
  | 1 => formOA .waitj (fieldD w) (fieldA w) (fieldB w)
  | 2 => form2 .pollj (fieldD w) (fieldA w) (fieldB w)
  | 3 => formNN .mxdrFp32 (fieldD w) (fieldA w) (fieldB w)
  | 4 => formNN .mxdrBf16 (fieldD w) (fieldA w) (fieldB w)
  | 5 => formNN .mxdrFp16 (fieldD w) (fieldA w) (fieldB w)
  | 6 => formNN .mxdrDm8 (fieldD w) (fieldA w) (fieldB w)
  | _ => formNN .mxdrI8 (fieldD w) (fieldA w) (fieldB w)

/-- The 32-bit word w, its fields read and its operands not yet checked for range (R32, R55). -/
def decodeFields (w : BitVec 32) : Except DecodeError Instr :=
  match (fieldMajor w).toNat with
  | 0x00 => decodeMajor00 w
  | 0x01 => decodeMajor01 w
  | 0x02 => decodeMajor02 w
  | 0x03 => decodeMajor03 w
  | 0x04 => decodeMajor04 w
  | 0x05 => decodeMajor05 w
  | 0x06 => decodeMajor06 w
  | 0x07 => decodeMajor07 w
  | 0x08 => decodeMajor08 w
  | 0x09 => decodeMajor09 w
  | 0x0a => decodeMajor0A w
  | 0x0b => decodeMajor0B w
  | 0x0c => decodeMajor0C w
  | 0x0d => decodeMajor0D w
  | 0x0e => decodeMajor0E w
  | 0x0f => decodeMajor0F w
  | 0x10 => decodeMajor10 w
  | 0x11 => decodeMajor11 w
  | 0x12 => decodeMajor12 w
  | 0x13 => decodeMajor13 w
  | 0x14 => decodeMajor14 w
  | 0x15 => decodeMajor15 w
  | 0x16 => decodeMajor16 w
  | 0x17 => decodeMajor17 w
  | 0x18 => decodeMajor18 w
  | 0x19 => decodeMajor19 w
  | 0x1a => decodeMajor1A w
  | 0x1b => decodeMajor1B w
  | 0x1c => decodeMajor1C w
  | 0x1d => decodeMajor1D w
  | 0x1e => decodeMajor1E w
  | _ => if fieldL7 w = 0#1 then .ok (.extL (fieldE w)) else .error .unusedField

/-- A compact form of layout CR (R29, R30). -/
def decodeCR (h : Half) : Except DecodeError Instr :=
  match (fieldCop h).toNat with
  | 1 => .ok (.addCompact (fieldC1 h) (fieldC2 h) (fieldC3 h))
  | 2 => .ok (.subCompact (fieldC1 h) (fieldC2 h) (fieldC3 h))
  | 3 => .ok (.andCompact (fieldC1 h) (fieldC2 h) (fieldC3 h))
  | 4 => .ok (.orCompact (fieldC1 h) (fieldC2 h) (fieldC3 h))
  | 5 => .ok (.xorCompact (fieldC1 h) (fieldC2 h) (fieldC3 h))
  | 6 => .ok (.shlCompact (fieldC1 h) (fieldC2 h) (fieldC3 h))
  | 7 => .ok (.shrCompact (fieldC1 h) (fieldC2 h) (fieldC3 h))
  | 8 => .ok (.sarCompact (fieldC1 h) (fieldC2 h) (fieldC3 h))
  | 9 => if fieldC3 h = 0#3 then .ok (.movCompact (fieldC1 h) (fieldC2 h)) else .error .unusedField
  | 10 => .ok (.seqCompact (fieldC1 h) (fieldC2 h) (fieldC3 h))
  | 11 => .ok (.sltCompact (fieldC1 h) (fieldC2 h) (fieldC3 h))
  | 12 => .ok (.vaddCompact (fieldC1 h) (fieldC2 h) (fieldC3 h))
  | 13 => .ok (.vsubCompact (fieldC1 h) (fieldC2 h) (fieldC3 h))
  | 14 => .ok (.vmulCompact (fieldC1 h) (fieldC2 h) (fieldC3 h))
  | 15 => .ok (.vfmaCompact (fieldC1 h) (fieldC2 h) (fieldC3 h))
  | _ => .error .unassigned

/-- A compact form of layout CI (R29, R30). -/
def decodeCI (h : Half) : Except DecodeError Instr :=
  match (fieldCop h).toNat with
  | 0 => .ok (.addImmCompact (fieldC1 h) (fieldCL h))
  | 1 => .ok (.andImmCompact (fieldC1 h) (fieldCL h))
  | 2 => .ok (.shlImmCompact (fieldC1 h) (fieldCL h))
  | 3 => .ok (.shrImmCompact (fieldC1 h) (fieldCL h))
  | 4 => .ok (.sarImmCompact (fieldC1 h) (fieldCL h))
  | 5 => .ok (.movImmCompact (fieldC1 h) (fieldCL h))
  | 6 => .ok (.bZCompact (fieldC1 h) (fieldCL h))
  | 7 => .ok (.bNzCompact (fieldC1 h) (fieldCL h))
  | 8 => if fieldC1 h = 0#3 then .ok (.bCompact (fieldCL h)) else .error .unusedField
  | 9 => .ok (.loopCompact (fieldC1 h) (fieldCL h))
  | _ => .error .unassigned

/-- A compact form of layout CM (R29, R30). -/
def decodeCM (h : Half) : Except DecodeError Instr :=
  match (fieldCop h).toNat with
  | 0 => .ok (.ldCompact (fieldC1 h) (fieldC2 h) (fieldC3 h))
  | 1 => .ok (.stCompact (fieldC1 h) (fieldC2 h) (fieldC3 h))
  | 2 => .ok (.ldWCompact (fieldC1 h) (fieldC2 h) (fieldC3 h))
  | 3 => .ok (.stWCompact (fieldC1 h) (fieldC2 h) (fieldC3 h))
  | _ => .error .unassigned

/-- Refuse an instruction with a field out of range (R56). -/
def checked (i : Instr) : Except DecodeError Instr :=
  if wellFormed i then .ok i else .error .outOfRange

/-- The instruction of a 32-bit word (R32). -/
def decode32 (w : BitVec 32) : Except DecodeError Instr :=
  match decodeFields w with
  | .ok i => checked i
  | .error e => .error e

/-- The instruction of a compact halfword (R29). The halfword 0x0001 is NOP (R31, R53). -/
def decode16 (h : Half) : Except DecodeError Instr :=
  if h = 0x0001#16 then .ok .nopCompact else
  match (match (h.extractLsb' 0 2).toNat with
    | 0 => decodeCR h
    | 1 => decodeCI h
    | _ => decodeCM h) with
  | .ok i => checked i
  | .error e => .error e

/-- Does this first halfword begin a 32-bit word (R27)? -/
def isLong (h : Half) : Bool := h.extractLsb' 0 2 == 3#2

/-- Read one instruction from the front of a list of bytes, little-endian (R27): the instruction and the bytes that
follow it. -/
def decode : List Byte → Except DecodeError (Instr × List Byte)
  | b0 :: b1 :: rest =>
    if isLong (b1 ++ b0) then
      match rest with
      | b2 :: b3 :: rest' =>
        match decode32 (b3 ++ b2 ++ b1 ++ b0) with
        | .ok i => .ok (i, rest')
        | .error e => .error e
      | _ => .error .truncated
    else
      match decode16 (b1 ++ b0) with
      | .ok i => .ok (i, rest)
      | .error e => .error e
  | _ => .error .truncated

/-! ### The encoder -/

/-- The kind code of an operand (R38). -/
def Opnd.kind : Opnd → F2
  | .s _ => 0#2
  | .v _ => 1#2
  | .c _ => 2#2
  | .lit _ => 3#2

/-- The field of an operand. -/
def Opnd.field : Opnd → F6
  | .s f => f
  | .v f => f
  | .c f => f
  | .lit f => f

/-- R and X formats (R32). -/
def packR (fn : F3) (b a : Opnd) (d : F6) (major : BitVec 5) : BitVec 32 :=
  fn ++ b.field ++ b.kind ++ a.field ++ a.kind ++ d ++ major ++ 3#2

/-- O format (R32). -/
def packO (fn : F3) (b : Opnd) (addr : F6) (y : F2) (d : F6) (major : BitVec 5) : BitVec 32 :=
  fn ++ b.field ++ b.kind ++ addr ++ y ++ d ++ major ++ 3#2

/-- M format (R33). -/
def packM (top : BitVec 1) (off : BitVec 12) (base d : F6) (major : BitVec 5) : BitVec 32 :=
  top ++ off ++ base ++ d ++ major ++ 3#2

/-- J format (R34). -/
def packJ (off : BitVec 16) (r : F6) (cond : F3) (major : BitVec 5) : BitVec 32 :=
  off ++ r ++ cond ++ major ++ 3#2

/-- L format (R37, R48). -/
def packL (e : BitVec 24) : BitVec 32 := e ++ 0#1 ++ 0x1F#5 ++ 3#2

def packCR (b a d : F3) (cop : BitVec 5) : Half := b ++ a ++ d ++ cop ++ 0#2
def packCI (l : F6) (d : F3) (cop : BitVec 5) : Half := l ++ d ++ cop ++ 1#2
def packCM (off base d : F3) (cop : BitVec 5) : Half := off ++ base ++ d ++ cop ++ 2#2

/-- The bytes of a word, lowest address first (R2, R27). -/
def w32 (w : BitVec 32) : List Byte :=
  [w.extractLsb' 0 8, w.extractLsb' 8 8, w.extractLsb' 16 8, w.extractLsb' 24 8]

def w16 (h : Half) : List Byte := [h.extractLsb' 0 8, h.extractLsb' 8 8]

/-- The bytes of an instruction as it stands in memory; an event has none. -/
def encode : Instr → List Byte
  | .add d a b => w32 (packR 0 b a d 0x00)
  | .sub d a b => w32 (packR 1 b a d 0x00)
  | .and d a b => w32 (packR 2 b a d 0x00)
  | .or d a b => w32 (packR 3 b a d 0x00)
  | .xor d a b => w32 (packR 4 b a d 0x00)
  | .shl d a b => w32 (packR 5 b a d 0x00)
  | .shr d a b => w32 (packR 6 b a d 0x00)
  | .sar d a b => w32 (packR 7 b a d 0x00)
  | .mul d a b => w32 (packR 0 b a d 0x01)
  | .mulh d a b => w32 (packR 1 b a d 0x01)
  | .mulhn d a b => w32 (packR 2 b a d 0x01)
  | .div d a b => w32 (packR 3 b a d 0x01)
  | .divn d a b => w32 (packR 4 b a d 0x01)
  | .rem d a b => w32 (packR 5 b a d 0x01)
  | .remn d a b => w32 (packR 6 b a d 0x01)
  | .seq d a b => w32 (packR 0 b a d 0x02)
  | .sne d a b => w32 (packR 1 b a d 0x02)
  | .slt d a b => w32 (packR 2 b a d 0x02)
  | .sltn d a b => w32 (packR 3 b a d 0x02)
  | .sle d a b => w32 (packR 4 b a d 0x02)
  | .slen d a b => w32 (packR 5 b a d 0x02)
  | .min d a b => w32 (packR 6 b a d 0x02)
  | .max d a b => w32 (packR 7 b a d 0x02)
  | .clz d a => w32 (packR 0 (.s 0) a d 0x03)
  | .ctz d a => w32 (packR 1 (.s 0) a d 0x03)
  | .popc d a => w32 (packR 2 (.s 0) a d 0x03)
  | .brev d a => w32 (packR 3 (.s 0) a d 0x03)
  | .bswap d a => w32 (packR 4 (.s 0) a d 0x03)
  | .mov d a => w32 (packR 5 (.s 0) a d 0x03)
  | .movy d y => w32 (packR 6 (.s 0) (.lit y) d 0x03)
  | .sext d a b => w32 (packR 7 b a d 0x03)
  | .sel d a b => w32 (packR 0 b a d 0x04)
  | .minn d a b => w32 (packR 1 b a d 0x04)
  | .maxn d a b => w32 (packR 2 b a d 0x04)
  | .ext n a => w32 (packR 3 (.s 0) a n 0x04)
  | .nop => w32 (packR 4 (.s 0) (.s 0) 0 0x04)
  | .nopCompact => w16 0x0001#16
  | .ts d => w32 (packR 5 (.s 0) (.s 0) d 0x04)
  | .who d item => w32 (packR 6 (.s 0) (.lit item) d 0x04)
  | .movx d n => w32 (packR 7 (.s 0) (.lit n) d 0x04)
  | .extL e => w32 (packL e)
  | .ldB d base off => w32 (packM 0 off base d 0x05)
  | .ldH d base off => w32 (packM 1 off base d 0x05)
  | .ldW d base off => w32 (packM 0 off base d 0x06)
  | .ld d base off => w32 (packM 1 off base d 0x06)
  | .stB d base off => w32 (packM 0 off base d 0x07)
  | .stH d base off => w32 (packM 1 off base d 0x07)
  | .stW d base off => w32 (packM 0 off base d 0x08)
  | .st d base off => w32 (packM 1 off base d 0x08)
  | .ldAcq d a scope => w32 (packR 0 (.lit scope) (.s a) d 0x09)
  | .stRel x a scope => w32 (packR 1 (.lit scope) (.s a) x 0x09)
  | .fence scope => w32 (packR 2 (.lit scope) (.s 0) 0 0x09)
  | .fenceAcq scope => w32 (packR 3 (.lit scope) (.s 0) 0 0x09)
  | .fenceRel scope => w32 (packR 4 (.lit scope) (.s 0) 0 0x09)
  | .ldBz d a k => w32 (packR 5 (.lit k) (.s a) d 0x09)
  | .ldHz d a k => w32 (packR 6 (.lit k) (.s a) d 0x09)
  | .ldWz d a k => w32 (packR 7 (.lit k) (.s a) d 0x09)
  | .vldRaw d a b => w32 (packR 0 b (.s a) d 0x0a)
  | .vldI8 d a b => w32 (packR 1 b (.s a) d 0x0a)
  | .vldI16 d a b => w32 (packR 2 b (.s a) d 0x0a)
  | .vldI32 d a b => w32 (packR 3 b (.s a) d 0x0a)
  | .vldN8 d a b => w32 (packR 4 b (.s a) d 0x0a)
  | .vldN16 d a b => w32 (packR 5 b (.s a) d 0x0a)
  | .vldN32 d a b => w32 (packR 6 b (.s a) d 0x0a)
  | .vldFp16 d a b => w32 (packR 7 b (.s a) d 0x0a)
  | .vldBf16 d a b => w32 (packR 0 b (.s a) d 0x0b)
  | .vldFp32 d a b => w32 (packR 1 b (.s a) d 0x0b)
  | .vldDm8 d a b => w32 (packR 2 b (.s a) d 0x0b)
  | .vldMask d a k => w32 (packR 3 (.lit k) (.s a) d 0x0b)
  | .vst x a b => w32 (packR 0 b (.s a) x 0x0c)
  | .tstat d t => w32 (packR 1 (.s 0) (.lit t) d 0x0c)
  | .twait t => w32 (packR 2 (.s 0) (.lit t) 0 0x0c)
  | .tfree t => w32 (packR 3 (.s 0) (.lit t) 0 0x0c)
  | .resize d a => w32 (packR 4 (.s 0) a d 0x0c)
  | .smap o a b => w32 (packR 5 b (.s a) o 0x0c)
  | .sunmap o => w32 (packR 6 (.s 0) (.s o) 0 0x0c)
  | .tdefRaw t a b => w32 (packR 0 b (.s a) t 0x0d)
  | .tdefI8 t a b => w32 (packR 1 b (.s a) t 0x0d)
  | .tdefI16 t a b => w32 (packR 2 b (.s a) t 0x0d)
  | .tdefI32 t a b => w32 (packR 3 b (.s a) t 0x0d)
  | .tdefN8 t a b => w32 (packR 4 b (.s a) t 0x0d)
  | .tdefN16 t a b => w32 (packR 5 b (.s a) t 0x0d)
  | .tdefN32 t a b => w32 (packR 6 b (.s a) t 0x0d)
  | .tdefFp16 t a b => w32 (packR 7 b (.s a) t 0x0d)
  | .tdefBf16 t a b => w32 (packR 0 b (.s a) t 0x0e)
  | .tdefFp32 t a b => w32 (packR 1 b (.s a) t 0x0e)
  | .tdefDm8 t a b => w32 (packR 2 b (.s a) t 0x0e)
  | .tdefMask t a b => w32 (packR 3 b (.s a) t 0x0e)
  | .b off => w32 (packJ off 0 0 0x0f)
  | .bZ r off => w32 (packJ off r 1 0x0f)
  | .bNz r off => w32 (packJ off r 2 0x0f)
  | .bLtz r off => w32 (packJ off r 3 0x0f)
  | .bGez r off => w32 (packJ off r 4 0x0f)
  | .bGtz r off => w32 (packJ off r 5 0x0f)
  | .bLez r off => w32 (packJ off r 6 0x0f)
  | .call r off => w32 (packJ off r 0 0x10)
  | .loop r off => w32 (packJ off r 1 0x10)
  | .jr a => w32 (packR 0 (.s 0) a 0 0x11)
  | .callr d a => w32 (packR 1 (.s 0) a d 0x11)
  | .grow d a b => w32 (packR 0 b a d 0x12)
  | .shrink d a b => w32 (packR 1 b a d 0x12)
  | .start h a target => w32 (packR 2 target a h 0x12)
  | .halt => w32 (packR 3 (.s 0) (.s 0) 0 0x12)
  | .haltKeep a => w32 (packR 4 (.s 0) a 0 0x12)
  | .yield => w32 (packR 5 (.s 0) (.s 0) 0 0x12)
  | .waitp d a => w32 (packR 6 (.s 0) a d 0x12)
  | .portsel a => w32 (packR 7 (.s 0) a 0 0x12)
  | .bar level => w32 (packR 0 (.s 0) (.lit level) 0 0x13)
  | .bara level => w32 (packR 1 (.s 0) (.lit level) 0 0x13)
  | .barw level => w32 (packR 2 (.s 0) (.lit level) 0 0x13)
  | .launch d a => w32 (packR 3 (.s 0) a d 0x13)
  | .sprint d a => w32 (packR 4 (.s 0) a d 0x13)
  | .sprel => w32 (packR 5 (.s 0) (.s 0) 0 0x13)
  | .sysrd d reg => w32 (packR 6 (.s 0) (.lit reg) d 0x13)
  | .syswr reg a => w32 (packR 7 (.lit reg) a 0 0x13)
  | .cpy a => w32 (packR 0 (.s 0) (.s a) 0 0x14)
  | .cpyt d a => w32 (packR 1 (.s 0) (.s a) d 0x14)
  | .trap n => w32 (packR 2 (.s 0) (.lit n) 0 0x14)
  | .brk => w32 (packR 3 (.s 0) (.s 0) 0 0x14)
  | .ofrAdd d y a b => w32 (packO 0 b a y d 0x15)
  | .ofrFma d y a b => w32 (packO 1 b a y d 0x15)
  | .ofrMin d y a b => w32 (packO 2 b a y d 0x15)
  | .ofrMax d y a b => w32 (packO 3 b a y d 0x15)
  | .ofrAnd d y a b => w32 (packO 4 b a y d 0x15)
  | .ofrOr d y a b => w32 (packO 5 b a y d 0x15)
  | .ofrXchg d y a b => w32 (packO 6 b a y d 0x15)
  | .ofrCas d y a b => w32 (packO 7 b a y d 0x15)
  | .ofrAddF32 d y a b => w32 (packO 0 b a y d 0x16)
  | .ofrFmaF32 d y a b => w32 (packO 1 b a y d 0x16)
  | .ofrMinF32 d y a b => w32 (packO 2 b a y d 0x16)
  | .ofrMaxF32 d y a b => w32 (packO 3 b a y d 0x16)
  | .setl y a b => w32 (packO 0 b a y 0 0x17)
  | .rls y a => w32 (packO 1 (.s 0) a y 0 0x17)
  | .pub d a scope => w32 (packO 2 (.lit scope) a 0 d 0x17)
  | .pubw a => w32 (packO 3 (.s 0) a 0 0 0x17)
  | .refld d a => w32 (packO 4 (.s 0) a 0 d 0x17)
  | .refldAcq d a scope => w32 (packO 5 (.lit scope) a 0 d 0x17)
  | .refst x a => w32 (packO 6 (.s 0) a 0 x 0x17)
  | .refstRel x a scope => w32 (packO 7 (.lit scope) a 0 x 0x17)
  | .vadd d a b => w32 (packR 0 (.v b) (.v a) d 0x18)
  | .vsub d a b => w32 (packR 1 (.v b) (.v a) d 0x18)
  | .vmul d a b => w32 (packR 2 (.v b) (.v a) d 0x18)
  | .vmin d a b => w32 (packR 3 (.v b) (.v a) d 0x18)
  | .vmax d a b => w32 (packR 4 (.v b) (.v a) d 0x18)
  | .vand d a b => w32 (packR 5 (.v b) (.v a) d 0x18)
  | .vor d a b => w32 (packR 6 (.v b) (.v a) d 0x18)
  | .vxor d a b => w32 (packR 7 (.v b) (.v a) d 0x18)
  | .vshl d a b => w32 (packR 0 b (.v a) d 0x19)
  | .vshr d a b => w32 (packR 1 b (.v a) d 0x19)
  | .vsar d a b => w32 (packR 2 b (.v a) d 0x19)
  | .vceq d a b => w32 (packR 3 (.v b) (.v a) d 0x19)
  | .vclt d a b => w32 (packR 4 (.v b) (.v a) d 0x19)
  | .vcle d a b => w32 (packR 5 (.v b) (.v a) d 0x19)
  | .vbcst d a tag => w32 (packR 6 (.lit tag) a d 0x19)
  | .vred d a op => w32 (packR 7 (.lit op) (.v a) d 0x19)
  | .vcvt d a tag => w32 (packR 0 (.lit tag) (.v a) d 0x1a)
  | .vcvtRne d a tag => w32 (packR 1 (.lit tag) (.v a) d 0x1a)
  | .vcvtRtz d a tag => w32 (packR 2 (.lit tag) (.v a) d 0x1a)
  | .vcvtRdn d a tag => w32 (packR 3 (.lit tag) (.v a) d 0x1a)
  | .vcvtRup d a tag => w32 (packR 4 (.lit tag) (.v a) d 0x1a)
  | .vcvtRsto d a tag => w32 (packR 5 (.lit tag) (.v a) d 0x1a)
  | .vretag d a tag => w32 (packR 6 (.lit tag) (.v a) d 0x1a)
  | .vscan d a op => w32 (packR 7 (.lit op) (.v a) d 0x1a)
  | .vfma d a b => w32 (packR 0 (.v b) (.v a) d 0x1b)
  | .vfms d a b => w32 (packR 1 (.v b) (.v a) d 0x1b)
  | .vfnma d a b => w32 (packR 2 (.v b) (.v a) d 0x1b)
  | .vsel d a b => w32 (packR 3 (.v b) (.v a) d 0x1b)
  | .vperm d a b => w32 (packR 4 (.v b) (.v a) d 0x1b)
  | .vabs d a => w32 (packR 5 (.s 0) (.v a) d 0x1b)
  | .vneg d a => w32 (packR 6 (.s 0) (.v a) d 0x1b)
  | .vmov d a => w32 (packR 7 (.s 0) (.v a) d 0x1b)
  | .mxmm d acc op t => w32 (packR acc (.lit t) op d 0x1c)
  | .mxmmDup d acc op t => w32 (packR acc (.lit t) op d 0x1d)
  | .mxz d acc => w32 (packR 0 (.s 0) (.lit acc) d 0x1e)
  | .waitj a => w32 (packR 1 (.s 0) a 0 0x1e)
  | .pollj d a => w32 (packR 2 (.s 0) a d 0x1e)
  | .mxdrFp32 d t acc => w32 (packR 3 (.lit acc) (.lit t) d 0x1e)
  | .mxdrBf16 d t acc => w32 (packR 4 (.lit acc) (.lit t) d 0x1e)
  | .mxdrFp16 d t acc => w32 (packR 5 (.lit acc) (.lit t) d 0x1e)
  | .mxdrDm8 d t acc => w32 (packR 6 (.lit acc) (.lit t) d 0x1e)
  | .mxdrI8 d t acc => w32 (packR 7 (.lit acc) (.lit t) d 0x1e)
  | .addCompact d a b => w16 (packCR b a d 1)
  | .subCompact d a b => w16 (packCR b a d 2)
  | .andCompact d a b => w16 (packCR b a d 3)
  | .orCompact d a b => w16 (packCR b a d 4)
  | .xorCompact d a b => w16 (packCR b a d 5)
  | .shlCompact d a b => w16 (packCR b a d 6)
  | .shrCompact d a b => w16 (packCR b a d 7)
  | .sarCompact d a b => w16 (packCR b a d 8)
  | .movCompact d a => w16 (packCR 0 a d 9)
  | .seqCompact d a b => w16 (packCR b a d 10)
  | .sltCompact d a b => w16 (packCR b a d 11)
  | .vaddCompact d a b => w16 (packCR b a d 12)
  | .vsubCompact d a b => w16 (packCR b a d 13)
  | .vmulCompact d a b => w16 (packCR b a d 14)
  | .vfmaCompact d a b => w16 (packCR b a d 15)
  | .addImmCompact d l => w16 (packCI l d 0)
  | .andImmCompact d l => w16 (packCI l d 1)
  | .shlImmCompact d l => w16 (packCI l d 2)
  | .shrImmCompact d l => w16 (packCI l d 3)
  | .sarImmCompact d l => w16 (packCI l d 4)
  | .movImmCompact d l => w16 (packCI l d 5)
  | .bZCompact d l => w16 (packCI l d 6)
  | .bNzCompact d l => w16 (packCI l d 7)
  | .bCompact l => w16 (packCI l 0 8)
  | .loopCompact d l => w16 (packCI l d 9)
  | .ldCompact d base off => w16 (packCM off base d 0)
  | .stCompact d base off => w16 (packCM off base d 1)
  | .ldWCompact d base off => w16 (packCM off base d 2)
  | .stWCompact d base off => w16 (packCM off base d 3)
  | .moduleReset _ => []
  | .loadReply _ _ _ => []
  | .memoryRecordWrite _ => []
  | .faultPacketWrite _ => []
  | .deliveredTrap _ _ => []
  | .portWordDelivery _ => []
  | .offerArrival _ => []
  | .priorityOfferArrival _ => []
  | .millTakeOffer _ _ => []
  | .offerReply _ => []
  | .settleArrival _ => []
  | .settleReply _ => []
  | .releaseArrival _ => []
  | .holdAgeExpiry _ _ => []
  | .sliceRetentionEntry _ => []
  | .sliceWake _ => []
  | .walkIdAssign _ => []
  | .walkStart _ => []
  | .walkStep _ => []
  | .mxJobStart _ _ => []
  | .mxJobComplete _ _ _ => []
  | .engineSprintClock _ => []
  | .engineClockDrop _ => []
  | .copyDescriptorRead _ _ => []
  | .copyLanding _ _ => []
  | .copyComplete _ _ => []
  | .copyAbandon _ _ => []
  | .placeTask _ _ => []
  | .taskReady _ => []
  | .priorityAgeing _ => []
  | .starvationHold _ => []
  | .taskComplete _ => []
  | .stashRetentionLapse _ => []
  | .hqdbWrite _ _ => []
  | .hostQueueEntry _ => []
  | .hostWindowAccess _ => []
  | .backInvalidate _ _ _ => []
  | .renairReceive _ _ => []
  | .mrsolveReplay _ => []
  | .mrsolveUnmapped _ => []
  | .tlbinvPage _ => []
  | .tlbinvAsid _ => []
  | .tlbinvDone => []
  | .hvcmdHarvest _ => []
  | .harvestFrame => []
  | .chrateSwitch _ => []
  | .chrateSelect _ => []
  | .chrateSwitchDone _ => []
  | .dictldLoad _ => []
  | .dictldDone _ => []
  | .generationRetire _ _ => []
  | .dramRepair _ _ _ => []
  | .rowCopyComplete _ => []
  | .rollback _ => []
  | .tempThresholdCrossing _ _ => []
  | .dwellEnd _ => []
  | .thermalMigration _ _ => []
  | .spatialPreemption _ _ => []
  | .unfold _ _ => []
  | .lodging _ _ => []
  | .lodgeRestore _ _ => []
  | .runningFunctionChange _ _ => []
  | .corePowerDown _ => []
  | .powerUpAdmit _ => []
  | .coreReady _ => []
  | .laneGate _ => []
  | .droopAlarm _ _ => []
  | .stretchEnd _ => []
  | .halvedEnd _ => []
  | .injectionPulseStart _ => []
  | .injectionPulseEnd _ => []
  | .rowClockRaise _ => []
  | .leaseExpiry _ => []
  | .meltUpdate _ => []
  | .haltGroupStop _ _ => []
  | .dctlResume _ _ => []
  | .dctlStep _ _ => []
  | .dctlEnd _ _ => []
  | .dctlStop _ _ => []
  | .leaseRenew _ _ => []
  | .allotWrite _ _ _ => []
  | .pcWrite _ _ _ => []
  | .clkdivWrite _ _ => []
  | .fmodeWrite _ _ _ => []
  | .srgWrite _ _ _ => []
  | .registerWrite _ _ => []
  | .keySlotWrite _ _ _ => []
  | .attestationQuote _ _ => []
  | .debugUnlock _ => []
  | .reservedWord _ => []
  | .writeAcknowledgement _ => []
  | .referenceTick => []
  | .renairSend _ _ => []
  | .idleEntry => []

/-! ### The table's numbering of bits -/

/-- The bytes of an instruction whose bits the opcode table numbers w: nbits of them, then zeros up to the longest
instruction. -/
def tableBytes (nbits w : Nat) : List Byte := w32 (BitVec.ofNat 32 (w % 2 ^ nbits))

/-- The instruction the decoder reads from an instruction whose bits are w. -/
def decodeTableWord (nbits w : Nat) : Option Instr :=
  match decode (tableBytes nbits w) with
  | .ok (i, _) => some i
  | .error _ => none

end Sys2Proof
end

