-- ==== Sys2Proof/Machine/Fetch.lean ====
section
/-! DEFINITION. Fetching an instruction word (spec/03_encoding.md R27, R46;
spec/17_memsys.md R332, R333, R335). -/

namespace Sys2Proof.Machine

/-! ### Fetch -/

/-- What a fetch answers: a value, a trap, a failed translation of an address, or that the host's hold keeps it waiting
(R352). -/
inductive Fetched (α : Type) where
  | got (x : α)
  | traps (cause : Nat)
  | parks (va : Nat) (entry : Word)
  | waits

/-- One halfword at the point of coherence (R27, R333). -/
def fetchHalf (s : State) (lc va : Nat) : Fetched Half :=
  if inWindow va || !canonicalVa va || (debugWindow s lc va).isSome then .traps causeProtect
  else match translate s (asidOf s lc) va with
    | .fail e => .parks va e
    | .ok p =>
      if !p.x then .traps causeProtect
      else if isPoison s (frameOf p (va / 8 * 8)) then .traps causePoison
      else if halfBlocks s (lineKey (asidOf s lc) va) (spanMask (va % 128) 2) false then .waits
      else .got ((currentLine s p (frameOf p va)).extractLsb' (8 * (va % 128)) 16)

/-- The bytes of the word at an address: both halfwords are fetched before it is decoded (R27). -/
def fetchWord (s : State) (lc va : Nat) : Fetched (List Byte) :=
  match fetchHalf s lc va with
  | .traps c => .traps c
  | .parks a e => .parks a e
  | .waits => .waits
  | .got h =>
    if isLong h then
      match fetchHalf s lc ((va + 2) % 2 ^ 64) with
      | .traps c => .traps c
      | .parks a e => .parks a e
      | .waits => .waits
      | .got g => .got (w16 h ++ w16 g)
    else .got (w16 h)

/-- A fetch reads its line at the point of coherence: the MSC brings it in, but for a line of an ALIAS page (R330, R331,
R338). -/
def fetchLine (s : State) (lc va : Nat) : State :=
  match translate s (asidOf s lc) va with
  | .ok p => if p.aliased then heatRead (heatMiss s (asidOf s lc) va) (frameOf p va)
    else (mscFill s (lineKey (asidOf s lc) va) p).1
  | .fail _ => s

/-- The lines that the fetch of a word of n bytes reads. -/
def fetchLines (s : State) (lc va n : Nat) : State :=
  let t := fetchLine s lc va
  if n = 4 then fetchLine t lc ((va + 2) % 2 ^ 64) else t

/-- A fetch that traps has translated its address (R338). -/
def fetchLooked (s : State) (lc va : Nat) : State :=
  if inWindow va || (debugWindow s lc va).isSome then s else heatLookup s (asidOf s lc) va

/-- The word that bytes stand for, a compact form zero-extended (R308). -/
def insnOf (bs : List Byte) : BitVec 32 := BitVec.ofNat 32 (ofBytes bs)

/-- A fetch that fails: the fault is at the address of the word (R27), and a failed translation always parks (R285). -/
def fetchFails (s : State) (lc c va : Nat) (entry : Word) : Res :=
  waitAt (parkAs s 1 2 (asidOf s lc) va 0 entry (taskNum lc) ⟨.fetch lc c, (ctxOf s lc c).pc.toNat, []⟩) 7

/-- Is the word at a context's PC one of a kind? -/
def nextIs (kind : Nat → Bool) (s : State) (lc c : Nat) : Bool :=
  match fetchWord s lc (ctxOf s lc c).pc.toNat with
  | .got bs => kind (ofBytes bs)
  | _ => false

/-- Is it of the V class? -/
def nextIsV (s : State) (lc c : Nat) : Bool := nextIs isVClass s lc c

end Sys2Proof.Machine
end

