-- ==== Sys2Proof/Machine/Turns.lean ====
section
/-! DEFINITION. The turns of the schedule: a context's next instruction, the issue logic of a core (R110 to R113, R155,
R378), the machine's events, evictions (logs 3 and 6). -/

namespace Sys2Proof.Machine

/-! ### A context's next instruction -/

/-- The bytes at PC are an instruction's: it is executed; else the word is reserved (R56). -/
def runBytes (bs : List Byte) (s : State) : Res :=
  match decode bs with
  | .ok (i, _) => exec i s
  | .error _ => execReservedWord (insnOf bs) s

/-- The word at a context's PC is fetched and executed. -/
def runWord (lc c : Nat) (s : State) : Res :=
  match fetchWord s lc (ctxOf s lc c).pc.toNat with
  | .got bs => runBytes bs (fetchLines s lc (ctxOf s lc c).pc.toNat bs.length)
  | .waits => waitAt s 0
  | .traps cause => trapAt (fetchLooked s lc (ctxOf s lc c).pc.toNat) cause 0 (ctxOf s lc c).pc []
  | .parks va e => fetchFails s lc c va e

/-- The turn of a context: a pending delivered cause is taken at the boundary (R305), else the FENCE.acq of a resume comes
first, once the context's loads and replies are there (R313), and the word at PC is fetched and executed. -/
def turnContext (lc c : Nat) (s : State) : Res :=
  if runnable s lc c then
    let s1 := { s with cur := (lc, c) }
    let x := ctxOf s lc c
    if deliverable x then execDeliveredTrap lc c s1
    else if !x.fence then runWord lc c s1
    else if accessesDone x then runWord lc c (modCtx (acquire s1 lc scopePkg) lc c (fun y => { y with fence := false }))
    else waitAt s1 (repliesWait s1 0)
  else .next s

/-! ### The issue logic of a core -/

/-- A context with an age. -/
def setAge (s : State) (lc c n : Nat) : State := modCtx s lc c (fun x => { x with age := n })

/-- Has a context that was given age 1 issued since? An instruction that completes returns the age to 0. -/
def hasIssued (s : State) (lc c : Nat) : Bool := (ctxOf s lc c).age == 0 || (ctxOf s lc c).frozen

/-- Is a context ready (R110): would its instruction issue now? One that takes a delivered cause instead needs no slot. -/
def isReady (s : State) (lc c : Nat) : Bool :=
  runnable s lc c && !deliverable (ctxOf s lc c) && (match turnContext lc c (setAge s lc c 1) with
    | .next t => hasIssued t lc c
    | _ => false)

/-- A look at a context that waits: it takes a delivered cause, or what its wait does goes on, but it issues nothing. -/
def turnPoll (lc c : Nat) (s : State) : Res :=
  if deliverable (ctxOf s lc c) then turnContext lc c s
  else match turnContext lc c (setAge s lc c 1) with
    | .next t => .next (if hasIssued t lc c then s else setAge t lc c 0)
    | r => r

/-- The place of a context on its physical core (R288). -/
def hwIndex (s : State) (e : Nat × Nat) : Nat := physIndex (coreOf s e.1).half e.2

/-- Contexts of a physical core in ascending order of their places. -/
def byIndex (s : State) (l : List (Nat × Nat)) : List (Nat × Nat) :=
  (List.range 11).flatMap (fun i => l.filter (fun e => hwIndex s e == i))

/-- The live contexts of a logical core. -/
def liveOf (s : State) (lc : Nat) : List (Nat × Nat) :=
  ((coreOf s lc).ctxs.filter (fun x => x.2.live)).map (fun x => (lc, x.1))

/-- The live contexts of a physical core in its round-robin order (R111): those that have not yet issued on it come first,
by index. So do the contexts of a core that moves or folds there, and a helper that is started again keeps the place of its
earlier life: the spec does not say where they come (log 43). -/
def contextsOn (s : State) (p : Nat) : List (Nat × Nat) :=
  let all := byIndex s ((coresOn s p).flatMap (liveOf s))
  let rr := (physOf s p).rr
  all.filter (fun e => !rr.contains e) ++ rr.filter (fun e => all.contains e)

/-- The age from which a context is urgent (R111). -/
def urgentAge : Nat := 48

/-- The order in which ready contexts take the issue slots (R111): urgent ones by index, the rest by priority. -/
def issueOrder (s : State) (ready : List (Nat × Nat)) : List (Nat × Nat) :=
  let urgent := fun (e : Nat × Nat) => decide (urgentAge ≤ (ctxOf s e.1 e.2).age)
  byIndex s (ready.filter urgent) ++
    ([3, 2, 1, 0].flatMap (fun q => ready.filter (fun e => !urgent e && bits (ctxOf s e.1 e.2).prio 1 0 == q)))

/-- The picks of a cycle (R111): two, at most one of the V class; one while issue is halved (R378). -/
def picks (s : State) (halved : Bool) (order : List (Nat × Nat)) : List (Nat × Nat) :=
  match order with
  | [] => []
  | e :: rest =>
    if halved then [e]
    else match rest.find? (fun f => !(nextIsV s e.1 e.2 && nextIsV s f.1 f.2)) with
      | some f => [e, f]
      | none => [e]

/-- The age of a context after a cycle (R111); a cycle of halved issue adds nothing (R112). -/
def ageAll (halved : Bool) (ready picked : List (Nat × Nat)) (s : State) (e : Nat × Nat) : State :=
  setAge s e.1 e.2 (if ready.contains e && !picked.contains e then (ctxOf s e.1 e.2).age + (if halved then 0 else 1) else 0)

/-- Is a context in the cycle that it stays without an issue after a taken branch (R378, R382)? -/
def inGap (s : State) (e : Nat × Nat) : Bool := (ctxOf s e.1 e.2).gap != 0

/-- The contexts of a core that could act in a cycle. -/
def activeOn (s : State) (p : Nat) : List (Nat × Nat) :=
  (contextsOn s p).filter (fun e => runnable s e.1 e.2 && !inGap s e)

/-- Those whose instruction has issued and waits, and those that are ready (R110). -/
def begunOn (s : State) (p : Nat) : List (Nat × Nat) := (activeOn s p).filter (fun e => (ctxOf s e.1 e.2).counted)
def readyOn (s : State) (p : Nat) : List (Nat × Nat) :=
  (activeOn s p).filter (fun e => !(ctxOf s e.1 e.2).counted && isReady s e.1 e.2)

/-- Is issue halved on a core (R378)? -/
def halvedOn (s : State) (p : Nat) : Bool := (rowOf s (rowNum p)).droop == .halved

/-- The picks of a core's present cycle; in halved issue every second cycle issues nothing (R378). -/
def pickedOn (s : State) (p : Nat) : List (Nat × Nat) :=
  if halvedOn s p && (physOf s p).halfPhase then [] else picks s (halvedOn s p) (issueOrder s (readyOn s p))

/-- The turn of a context in a cycle: one that issues, or has issued and waits, runs; one that has not issued is looked
at. -/
def cycleTurn (runs : List (Nat × Nat)) (e : Nat × Nat) : Turn :=
  if runs.contains e then .context e.1 e.2 else .poll e.1 e.2

/-- Is a word one of SYSWR? -/
def isSyswrWord (w : Nat) : Bool := w % 4 == 3 && w / 4 % 32 == 0x13 && w / 2 ^ 29 == 7

/-- The picked contexts whose instruction is a SYSWR act before the others: the events of a cycle are added to what it
writes
to a counter (R386). -/
def syswrFirst (s : State) (picked l : List (Nat × Nat)) : List (Nat × Nat) :=
  let first := l.filter (fun e => picked.contains e && nextIs isSyswrWord s e.1 e.2)
  first ++ l.filter (fun e => !first.contains e)

/-- The ports that a context reads in its turn: those whose word it takes, and those where it waits for one. -/
def portsRead (s : State) (e : Nat × Nat) : List Nat :=
  match turnContext e.1 e.2 s with
  | .next t => (List.range 8).filter (fun p => (coreOf t e.1).waiters.contains (p, e.2) ||
      decide ((queueOf (coreOf t e.1) p).length < (queueOf (coreOf s e.1) p).length))
  | _ => []

/-- A context joins the readers of the ports that it reads in its turn. -/
def enterReaders (s : State) (e : Nat × Nat) : State :=
  modCore s e.1 (fun c => joinReaders e.2 c (portsRead s e))

/-- Readers whose turns come in one cycle take their words in order of context index (R121): where a SYSWR acts before the
others, all of them join the readers first. -/
def queueReaders (picked turns : List (Nat × Nat)) (s : State) : State :=
  if picked.any (fun e => nextIs isSyswrWord s e.1 e.2) then turns.foldl enterReaders s else s

/-- A cycle of a context's gap has passed. -/
def closeGap (s : State) (e : Nat × Nat) : State := modCtx s e.1 e.2 (fun x => { x with gap := x.gap - 1 })

/-- One cycle of a core's issue logic. What has issued and waits goes on in every cycle. Instructions of one cycle take
effect
in order of context index (R113, R121, R169), but for a SYSWR. -/
def turnCycle (p : Nat) (s : State) : State :=
  let picked := pickedOn s p
  let ready := readyOn s p
  let s1 := (contextsOn s p).foldl (fun t e => closeGap (ageAll (halvedOn s p) ready picked t e) e) s
  let s2 := modPhys (picked.foldl rotate s1) p (fun q =>
    { q with vIdle := q.vIdle + 1, halfPhase := halvedOn s p && !q.halfPhase })
  let turns := byIndex s ((activeOn s p).filter (fun e => picked.contains e || !ready.contains e))
  let s3 := queueReaders picked turns s2
  { s3 with agenda := (syswrFirst s picked turns).map (cycleTurn (picked ++ begunOn s p)) ++ s3.agenda }

/-! ### The cores of a row (R223, R243) -/

/-- Is a word an instruction that enqueues a matrix job, or one that pushes a copy? -/
def isJobWord (w : Nat) : Bool :=
  let major := w / 4 % 32
  let fn := w / 2 ^ 29
  w % 4 == 3 && (major == 0x1C || major == 0x1D || (major == 0x1E && fn != 1 && fn != 2))
def isCopyWord (w : Nat) : Bool := w % 4 == 3 && w / 4 % 32 == 0x14 && decide (w / 2 ^ 29 ≤ 1)

/-- Does a core present a request of a kind in its present cycle? -/
def presentsOn (kind : Nat → Bool) (s : State) (p : Nat) : Bool := (pickedOn s p).any (fun e => nextIs kind s e.1 e.2)

/-- The cores of a yard in the rotation that begins after the one accepted last (R223). -/
def byTurn (last : Nat) (ps : List Nat) : List Nat := (List.range 8).flatMap (fun i => ps.filter (fun p => turnOf last p == i))

/-- The order in which the cores of a yard issue in one cycle: those that present a job in the rotation of the queue, those
that push a copy in that of the FIFO, then the others (log 33). -/
def yardOrder (s : State) (yard : Nat) (ps : List Nat) : List Nat :=
  let jobs := ps.filter (presentsOn isJobWord s)
  let pushes := ps.filter (fun p => !jobs.contains p && presentsOn isCopyWord s p)
  byTurn (yardOf s yard).jobTurn jobs ++ byTurn (yardOf s yard).copyTurn pushes ++
    ps.filter (fun p => !jobs.contains p && !pushes.contains p)

/-- The cores of a row whose own cycle has begun issue. -/
def turnRowIssue (row : Nat) (s : State) : State :=
  let due := dueCores s row
  let order := [2 * row, 2 * row + 1].flatMap (fun y => yardOrder s y (due.filter (fun p => yardNum p == y)))
  { s with agenda := order.map .cycle ++ s.agenda }

/-! ### Events, evictions, translations -/

/-- An event happens; one whose numbers name no unit of the module cannot. -/
def turnEvent (i : Instr) (s : State) : Res :=
  if i.isEvent && wellFormed i then exec i s else .fault .noSuchUnit

/-- A walker of a stack caches the translation of a page in the stack's TLBs (R330, R334, R338). -/
def fillTlb (key : Nat) (s : State) : State :=
  match walkFrom s (tlbAsid key) (tlbVa key) with
  | .ok p => if key / 2 ^ 48 < 16 ∧ mapsPage (tlbVa key) = true then { heatWalk s (tlbAsid key) (tlbVa key) with tlb := put s.tlb key p } else s
  | .fail _ => s

/-- One turn. -/
def runTurn (t : Turn) (s : State) : Res :=
  match t with
  | .context lc c => turnContext lc c s
  | .poll lc c => turnPoll lc c s
  | .event i => turnEvent i s
  | .cycle p => .next (turnCycle p s)
  | .rowIssue row => .next (turnRowIssue row s)
  | .evictL1 lc line => .next (evictL1 s lc line)
  | .evictL2 key => .next (evictL2 s key)
  | .rowCycle row depth => turnRowCycle row depth s
  | .rowNext row => turnRowNext row s
  | .evictMsc key => .next (mscEvict s key)
  | .fillTlb key => .next (fillTlb key s)
  | .dropTlb key => .next { s with tlb := erase s.tlb key }
  | .watts w => .next { s with power10us := w }
  | .fault pa => .next (if stackFrame pa then { s with faulty := (pa / 8 :: s.faulty).dedup } else s)

/-- Is an event a register write that software makes? Such a write happens inside the reeve's store or a SYSWR; only an
END that waits goes on by itself. -/
def softwareWrite (s : State) (i : Instr) : Bool :=
  match i with
  | .dctlEnd lc c => (ctxOf s lc c).dctl != 3
  | .dctlResume _ _ | .dctlStep _ _ | .dctlStop _ _ | .allotWrite _ _ _ | .pcWrite _ _ _ | .fmodeWrite _ _ _
  | .srgWrite _ _ _ | .clkdivWrite _ _ | .leaseRenew _ _ | .registerWrite _ _ | .mrsolveReplay _ | .mrsolveUnmapped _
  | .tlbinvPage _ | .tlbinvAsid _ | .hvcmdHarvest _ | .chrateSwitch _ | .chrateSelect _ | .dictldLoad _
  | .reservedWord _ => true
  | _ => false

/-- Is an event part of a row's clock cycle? -/
def clockStep (i : Instr) : Bool :=
  match i with
  | .droopAlarm _ _ | .stretchEnd _ | .halvedEnd _ => true
  | _ => false

/-- May the schedule draw a turn by itself? A core's cycles come with its row's, and its contexts' turns with its own. -/
def drawable (s : State) (t : Turn) : Bool :=
  match t with
  | .context _ _ | .poll _ _ | .cycle _ | .rowNext _ | .rowIssue _ => false
  | .event i => i.isEvent && wellFormed i && !softwareWrite s i && !clockStep i
  | _ => true

/-! ### What the caches hold (R10, R11, R13) -/

/-- While a cache holds more lines than it has room for, victims, any of those that may go, are evicted. -/
def trimBy {α : Type} (held : State → Nat) (victims : State → List α) (cap : Nat) (evict : State → α → State)
    (s : State) : State :=
  (List.range (held s - cap)).foldl (fun t _ =>
    match (victims t)[(takeFree t).1.toNat % (victims t).length]? with
    | some v => evict (takeFree t).2 v
    | none => t) s

/-- The first-level lines on a physical core, and the ways that are stash there. -/
def linesOn (p : Nat) (s : State) : List (Nat × Nat) :=
  (coresOn s p).flatMap (fun lc => (keys (coreOf s lc).l1).map (fun k => (lc, k)))
def stashWays (s : State) (p : Nat) : Nat :=
  ((coresOn s p).map (fun lc => (coreOf s lc).ways)).sum + (match (physOf s p).kept with
    | some k => k.ways
    | none => 0)

/-- 512 KiB of a core less its stash ways (R11). -/
def trimCore (s : State) (p : Nat) : State :=
  trimBy (fun t => (linesOn p t).length) (linesOn p) (waysLines (stashWays s p)) (fun t e => evictL1 t e.1 e.2) s

/-- The lines of 256 MiB; those that a die's second-level cache holds, and those of them that may be evicted (R10). -/
def l2Lines : Nat := 2097152
def dieHeld (die : Nat) (s : State) : Nat := (s.l2.filter (fun e => l2Die e.1 == die)).length
def dieVictims (die : Nat) (s : State) : List Nat :=
  (s.l2.filter (fun e => l2Die e.1 == die && l2Evictable s e.1 e.2)).map (·.1)

/-- The lines of 384 MiB; those that a stack's slice holds, and those of them that may be evicted (R13, R192). -/
def mscLines : Nat := 3145728
def sliceKeys (k : Nat) (s : State) : List Nat := (keys s.msc).filter (fun e => homeStack s (keyVa e) (keyAsid e) == k)
def sliceHeld (k : Nat) (s : State) : Nat := (sliceKeys k s).length
def sliceVictims (k : Nat) (s : State) : List Nat := (sliceKeys k s).filter (fun e => !priorityHeld s e)

/-- The caches give up lines until they are within their capacities, as far as they can. -/
def trimCaches (s : State) : State :=
  let s1 := (keys s.phys).foldl trimCore s
  let s2 := if s1.l2.length ≤ l2Lines then s1
    else (List.range 8).foldl (fun t d => trimBy (dieHeld d) (dieVictims d) l2Lines evictL2 t) s1
  if s2.msc.length ≤ mscLines then s2
  else (List.range 16).foldl (fun t k => trimBy (sliceHeld k) (sliceVictims k) mscLines mscEvict t) s2

/-- Does a cache hold more lines than it has room for, and more than before? -/
def overfull (before after : State) : Bool :=
  (decide (l2Lines < after.l2.length) && (List.range 8).any (fun d =>
    decide (l2Lines < dieHeld d after) && decide (dieHeld d before < dieHeld d after))) ||
  (decide (mscLines < after.msc.length) && (List.range 16).any (fun k =>
    decide (mscLines < sliceHeld k after) && decide (sliceHeld k before < sliceHeld k after)))

/-- What follows a turn: the caches stay within their capacities, and outstanding jobs meet what has changed in the stash
(R238). -/
def afterTurn (s : State) : State := mixJobs (trimCaches s)

/-- A turn is taken. One that needs a line for which a cache has no room, since none of its lines may go, does not
happen: it
is as if it had waited. -/
def takeTurn (t : Turn) (s : State) : Res :=
  match runTurn t s with
  | .next u => .next (if overfull s (afterTurn u) then s else afterTurn u)
  | other => other

/-- The next turn of the agenda, or one that the schedule draws (log 3). -/
def runAgenda (s : State) : Res :=
  match s.agenda with
  | t :: rest => takeTurn t { s with agenda := rest }
  | [] =>
    let t := Config.freeTurn s.draws
    let s1 := { s with draws := s.draws + 1 }
    if drawable s1 t then takeTurn t s1 else .next s1

/-! ### Placing one instruction (log 4) -/

/-- The code page that a placed instruction runs from: address 0x10000 of an address space, in frame 0x10000. -/
def codePage : Page :=
  { frame := 65536, large := false, attr := attrPlain, aliased := false, cmp := false, w := false, x := true, key := 0 }
def codeVa : Nat := 65536

/-- A task of one core whose crew has begun. -/
def soloTask : Task :=
  { num := 1, record := 0, asid := 1024, part := 0, vf := 0, entry := codeVa, const := 0, seed := 0#64, pred := 0,
    prio := 0, fold := false, expl := false, split := 0, compl := 0, succ0 := 0, succ1 := 0,
    levels := [⟨4, 0, 1, 0⟩], ranges := [], stage := .placed, level := 0, since := 0, seq := 0, bank := [], tstart := some 0,
    dropped := 0, rollbacks := 0, cause := 0, nextWalk := 0, walks := [], barriers := [], begun := true, log := [],
    logged := true, rolling := false }

/-- Its logical core, on physical core 0, with its head at the code page. -/
def soloCore : LCore :=
  { LCore.reset with lstate := 1, ctxs := setD Ctx.reset [] 0 (startedCtx 0#64 0 0 (word codeVa) 0#64) }

/-- The bytes of an instruction in frame memory. -/
def placeBytes (bs : List Byte) (s : State) : State :=
  bs.zipIdx.foldl (fun t e => setMemByte t (codeVa + e.2) e.1) s

/-- A state whose next turn is the head of a placed task, its code page mapped and holding the bytes. -/
def placeCode (bs : List Byte) (s : State) : State :=
  let s1 := setPhys (setCore { s with tasks := put s.tasks 1 soloTask } (lcKey 1 0) soloCore) 0
    { physOf s 0 with power := .on }
  let s2 := placeBytes bs (cachePage s1 soloTask.asid codeVa codePage)
  { s2 with msc := [], gtags := erase s2.gtags (codeVa / 8), records := [], agenda := [.context (lcKey 1 0) 0] }

end Sys2Proof.Machine
end

