-- ==== Sys2Proof/Machine/Step.lean ====
section
/-! DEFINITION. One step of the module, and placing an instruction where it fetches next. -/

namespace Sys2Proof.Machine

/-- One step: the next turn of the agenda, or one that the schedule draws (log 3). -/
def step (s : State) : Host.Outcome State Fault Refusal := runAgenda s

/-- The state whose next step fetches and runs the instruction of the opcode table's bits w (log 4). -/
def State.withFetchWord (s : State) (nbits w : Nat) : State := placeCode (tableBytes nbits w) s

end Sys2Proof.Machine
end

