-- ==== Sys2Proof/Safety.lean ====
section
/-! DEFINITION. The terms in which statements speak: when an instruction may issue, what a byte of memory reads as, what
an instruction leaves alone, how it completes; the invariants of a run and what a safe run is. -/

namespace Sys2Proof.Machine

/-! ### When an instruction issues (R44, R89, R120, R123) -/

/-- The registers named lie inside the allotment, none is still to be written, every port read holds a word for the
context, and the router is free when the instruction sends. -/
structure Issues (n : Names) (s : State) : Prop where
  held : allHeld (me s) n = true
  settled : anyPending (me s) n = false
  arrived : ∀ p ∈ portsOf n.srcs, (portWord (myCore s) s.cur.2 p).isSome = true
  router : (sendsPort n.dst && routerBusy s s.cur.1 s.cur.2) = false

/-- A release of the current context at a scope has nothing left to wait for (R166, R167): its earlier accesses have
completed, none of its writes is on its way, and it has sent them all or has none to send. -/
structure ReleaseComplete (s : State) (scope : Nat) (all : Bool) : Prop where
  done : accessesDone (me s) = true
  landed : writesOut s s.cur.1 s.cur.2 = false
  sent : (me s).stage = .released ∨ (releaseWrites s s.cur.1 s.cur.2 scope all = [] ∧
    (scope = scopeCore ∨ crossing s s.cur.1 (scopeDest scope) = false))

/-! ### One byte of memory (R157, R165, R166, R170, R330, R331) -/

/-- The stash byte an address stands for: a byte of the window, or of a mapping of the core. -/
def stashPlaceOf (c : LCore) (va : Nat) : Option Nat :=
  if inWindow va then some (va - windowBase)
  else match mappingOf c va with
    | some m => some (m.off + (va - m.addr))
    | none => none

/-- A byte of the point of coherence at a frame address of a page. -/
def frameByte (s : State) (p : Page) (a : Nat) : Byte := lineByte (currentLine s p a) (a % 128)

/-- A line that the die's second-level cache serves a core: its own evicted bytes over the die's, without the bytes of
other tasks' PRIVATE objects (R216, R392). -/
def dieLine (s : State) (lc key : Nat) (p : Page) : Line :=
  let die := coreDie s lc
  withoutBytes (withOwn s die lc key ((look s.l2 (l2Key die key)).getD (emptyLine p)))
    (hiddenBytes s p (frameOf p (keyVa key)) (taskNum lc))

/-- A byte below a core's first-level cache: the die's second-level cache, else the point of coherence. -/
def byteBelow (s : State) (lc va : Nat) (p : Page) : Byte :=
  let key := lineKey (asidOf s lc) va
  let l := dieLine s lc key p
  lineByte (if inMask l.valid (va % 128) then l.data else pocLine s key p) (va % 128)

/-- What a logical core reads at a virtual address; none where nothing is mapped. -/
def byteView (s : State) (lc va : Nat) : Option Byte :=
  let c := coreOf s lc
  if inWindow va then
    if va - windowBase < c.ways * wayBytes then some (stashByte c (va - windowBase)) else none
  else match translate s (asidOf s lc) va with
    | .fail _ => none
    | .ok p =>
      match mappingOf c va with
      | some m =>
        let o := m.off + (va - m.addr)
        if m.filled.contains ((o - m.off) / 128 * 128) || m.dirty.contains o then some (stashByte c o)
        else some (byteBelow s lc va p)
      | none =>
        if p.aliased then some (frameByte s p (frameOf p va))
        else match look c.l1 (lineKey (asidOf s lc) va) with
          | some l => if inMask l.valid (va % 128) then some (lineByte l.data (va % 128)) else some (byteBelow s lc va p)
          | none => some (byteBelow s lc va p)

/-! ### What stays -/

/-- Every context but the current one is the same. -/
def SameOthers (s t : State) : Prop := ∀ lc c, (lc, c) ≠ s.cur → ctxOf t lc c = ctxOf s lc c

/-- Every byte that any logical core can read is the same. -/
def SameMemory (s t : State) : Prop := ∀ lc va, byteView t lc va = byteView s lc va

/-- STASH, MXACC, MXJOB and the tile table of every logical core are the same. -/
def SameCores (s t : State) : Prop :=
  (∀ lc n, coreReg (coreOf t lc) n = coreReg (coreOf s lc) n) ∧
    ∀ lc i, tileOf (coreOf t lc) i = tileOf (coreOf s lc) i

/-- The registers of a physical core that no event counts in. -/
def unitRegs (q : PCore) : Word × Sparse Word × Word × Word × Word × Word × Word :=
  (q.clkdiv, q.csel, q.chbnd, q.ctag, q.fpqbase, q.fpqptr, q.dbgbase)

/-- CLKDIV, CSEL, CHBND, CTAG and the reeve registers of every physical core are the same. -/
def SameUnits (s t : State) : Prop := ∀ p, unitRegs (physOf t p) = unitRegs (physOf s p)

/-- The row and the package registers, the heat store, the yards and the tasks are the same. -/
def SameModule (s t : State) : Prop :=
  t.rows = s.rows ∧ (∀ n, packageReg t n = packageReg s n) ∧ t.melt = s.melt ∧ t.rfz = s.rfz ∧ t.yards = s.yards ∧
    t.tasks = s.tasks ∧ t.ticks = s.ticks

/-- All of these. -/
structure AllKept (s t : State) : Prop where
  others : SameOthers s t
  memory : SameMemory s t
  cores : SameCores s t
  units : SameUnits s t
  rest : SameModule s t

/-! ### How an instruction completes (R28, R42, R43, R49, R313) -/

/-- The context past its instruction: PC, ELIT.V cleared, no wait. -/
def pastInsn (x : Ctx) (pc : Word) : Ctx :=
  { x with pc := pc, elit := x.elit &&& 0x7FFFFFFFFFFFFFFF#64, wait := 0, stage := .idle, counted := false, age := 0 }

/-- A context that single-steps freezes with BREAK, sub-code 2, once its instruction has completed (R313). -/
def stepEnd (x : Ctx) : Ctx :=
  if x.stepping then
    { x with frozen := true, cause := causeBreak, sub := 2, deliv := false, wait := 0, stage := .idle, counted := false,
             stepping := false }
  else x

/-- The words that contexts have sent and that their routers still hold. -/
def sentWords (s : State) : List PortWord := s.words.filter (fun w => w.sender.isSome)

/-- The word that a destination of 56 to 63 sends, to the logical core PSEL names. -/
def sends (s : State) (d : Option Nat) (w : Word) : List PortWord :=
  match d with
  | some k => if k < 56 then [] else [⟨some s.cur, lcKey (taskNum s.cur.1) (bits (me s).psel 15 0), k - 56, w⟩]
  | none => []

/-- The scalar register file with a result in it: destination 0 discards, 56 to 63 are no registers. -/
def withResult (x : Ctx) (d : Option Nat) (w : Word) : Ctx :=
  match d with
  | some k => if k < 56 then setSreg x k w else x
  | none => x

/-- The queues of the current core, the words read by the instruction consumed; every other core's as before. -/
def Consumed (s t : State) (srcs : List Opnd) : Prop :=
  ∀ lc p, queueOf (coreOf t lc) p =
    if lc = s.cur.1 ∧ p ∈ portsOf srcs then (queueOf (coreOf s lc) p).tail
    else queueOf (coreOf s lc) p

/-- An instruction that names n has completed from s in t: it changed its context by f and no other register, sent the
word w when its destination is a port, consumed what it read, and went on at pc. -/
structure Completed (n : Names) (s t : State) (f : Ctx → Ctx) (w pc : Word) : Prop where
  cur : t.cur = s.cur
  context : me t = stepEnd (pastInsn (f (me s)) pc)
  words : sentWords t = sentWords s ++ sends s n.dst w
  queues : Consumed s t n.srcs

/-- A scalar result w has been written and nothing else has changed. -/
def Wrote (n : Names) (s t : State) (w pc : Word) : Prop :=
  Completed n s t (fun x => withResult x n.dst w) w pc ∧ AllKept s t

/-- As Wrote, by a transfer: a taken one leaves its context the cycle without an issue that follows a taken branch (R378). -/
def Transferred (n : Names) (s t : State) (taken : Bool) (w pc : Word) : Prop :=
  Completed n s t (fun x => { withResult x n.dst w with gap := if taken then 1 else x.gap }) w pc ∧ AllKept s t

/-- The context has been changed by f and nothing else has. -/
def Changed (n : Names) (s t : State) (f : Ctx → Ctx) (pc : Word) : Prop :=
  Completed ⟨n.srcs, none, n.regs, n.vregs⟩ s t f 0#64 pc ∧ AllKept s t

/-! ### A trap (R46, R305, R306, R308) -/

/-- The context as a precise freeze leaves it. -/
def frozenAt (x : Ctx) (cause sub : Nat) : Ctx :=
  { x with frozen := true, cause := cause, sub := sub, deliv := false, wait := 0, stage := .idle, counted := false,
           stepping := false }

/-- The queues of every logical core are the same. -/
def SameQueues (s t : State) : Prop := ∀ lc, (coreOf t lc).queues = (coreOf s lc).queues

/-- The current context has taken a precise cause: it is frozen where it stood with every register as it was, its packet
waits in the die, no port word has been consumed or sent, and nothing else has changed. -/
structure Trapped (s t : State) (cause sub : Nat) (addr : Word) (detail : List Word) : Prop where
  cur : t.cur = s.cur
  context : me t = frozenAt (me s) cause sub
  packets : t.packets = s.packets ++
    [⟨s.cur.1, s.cur.2, packetWords s s.cur.1 s.cur.2 cause sub false addr detail⟩]
  words : sentWords t = sentWords s
  queues : SameQueues s t
  kept : AllKept s t

/-! ### Waiting (R305, R313, R386) -/

/-- The context of an instruction that has issued and waits at its word: it counts once, and its first issue is the time its
latency is counted from (R362). -/
def waitingCtx (x : Ctx) (code : Nat) (st : Stage) (ticks : Nat) : Ctx :=
  { x with wait := code, stage := st, counted := true, age := if x.counted then x.age else 0,
           issuedAt := if x.counted then x.issuedAt else ticks }

/-- The stage of an instruction that has begun. -/
def begunStage (x : Ctx) : Stage := if x.stage = .idle then .begun else x.stage

/-- The current context has issued its instruction and waits with a DSTAT.WAIT code; no register, port word or byte of
memory has changed. -/
structure Waits (s t : State) (code : Nat) (st : Stage) : Prop where
  cur : t.cur = s.cur
  context : me t = waitingCtx (me s) code st s.ticks
  words : sentWords t = sentWords s
  queues : SameQueues s t
  kept : AllKept s t

/-- The next instruction of the current context is held back and has not issued (R110, R223, R243): its unit has no place for
it, or a source, a reply among them, is not there. The context stands at the word, showing a DSTAT.WAIT code, and nothing
else has changed. -/
structure HeldBack (s t : State) (code : Nat) : Prop where
  cur : t.cur = s.cur
  context : me t = { me s with wait := code }
  words : t.words = s.words
  queues : SameQueues s t
  kept : AllKept s t

/-! ### Invariants and safe runs -/

/-- Memory is in its canonical form. -/
def MemoryInv (s : State) : Prop := Memory.wf s.mem = true

/-- A turn that names only units of the module. -/
def turnOk : Turn → Bool
  | .event i => i.isEvent && wellFormed i
  | _ => true

/-- The next turn of the agenda, if there is one, names only units of the module. -/
def AgendaOk (s : State) : Prop := ∀ t, s.agenda.head? = some t → turnOk t = true

/-- A step that goes on. -/
def GoesOn (r : Res) : Prop := ∃ t, r = .next t

end Sys2Proof.Machine
end

