-- ==== Sys2Proof/Certificates/Slice0/Obligations.lean ====
section
/-! DEFINITION. The statements for the provers, from the numbered rules of the spec. -/

open Sys2Proof Sys2Proof.Machine

/-! ### Tables of instructions of one shape, each row with its code and its effect as the spec's tables give them -/

namespace Sys2Proof.Machine

/-- An instruction d, a, b: major opcode, function, constructor, effect on the operand values. -/
structure Row2 where
  major : BitVec 5
  fn : F3
  instr : F6 → Opnd → Opnd → Instr
  effect : Word → Word → Word

/-- R92, R93, R94, R96. -/
def scalarTable : List Row2 := [
  ⟨0x00, 0, .add, fun a b => a + b⟩,
  ⟨0x00, 1, .sub, fun a b => a - b⟩,
  ⟨0x00, 2, .and, fun a b => a &&& b⟩,
  ⟨0x00, 3, .or, fun a b => a ||| b⟩,
  ⟨0x00, 4, .xor, fun a b => a ^^^ b⟩,
  ⟨0x00, 5, .shl, fun a b => BitVec.ofNat 64 (a.toNat * 2 ^ (b.toNat % 64))⟩,
  ⟨0x00, 6, .shr, fun a b => BitVec.ofNat 64 (a.toNat / 2 ^ (b.toNat % 64))⟩,
  ⟨0x00, 7, .sar, fun a b => BitVec.ofInt 64 (a.toInt / 2 ^ (b.toNat % 64))⟩,
  ⟨0x01, 0, .mul, fun a b => BitVec.ofNat 64 (a.toNat * b.toNat)⟩,
  ⟨0x01, 1, .mulh, fun a b => (BitVec.signExtend 128 a * BitVec.signExtend 128 b).extractLsb' 64 64⟩,
  ⟨0x01, 2, .mulhn, fun a b => (BitVec.setWidth 128 a * BitVec.setWidth 128 b).extractLsb' 64 64⟩,
  ⟨0x01, 3, .div, fun a b =>
    if b = 0#64 then 0xFFFFFFFFFFFFFFFF#64
    else if a.toInt = -2 ^ 63 ∧ b.toInt = -1 then 0x8000000000000000#64 else BitVec.ofInt 64 (a.toInt.tdiv b.toInt)⟩,
  ⟨0x01, 4, .divn, fun a b => if b = 0#64 then 0xFFFFFFFFFFFFFFFF#64 else a / b⟩,
  ⟨0x01, 5, .rem, fun a b =>
    if b = 0#64 then a else if a.toInt = -2 ^ 63 ∧ b.toInt = -1 then 0#64
    else BitVec.ofInt 64 (a.toInt - b.toInt * a.toInt.tdiv b.toInt)⟩,
  ⟨0x01, 6, .remn, fun a b => if b = 0#64 then a else a - b * (a / b)⟩,
  ⟨0x02, 0, .seq, fun a b => if a = b then 1#64 else 0#64⟩,
  ⟨0x02, 1, .sne, fun a b => if a ≠ b then 1#64 else 0#64⟩,
  ⟨0x02, 2, .slt, fun a b => if a.toInt < b.toInt then 1#64 else 0#64⟩,
  ⟨0x02, 3, .sltn, fun a b => if a < b then 1#64 else 0#64⟩,
  ⟨0x02, 4, .sle, fun a b => if a.toInt ≤ b.toInt then 1#64 else 0#64⟩,
  ⟨0x02, 5, .slen, fun a b => if a ≤ b then 1#64 else 0#64⟩,
  ⟨0x02, 6, .min, fun a b => if a.toInt ≤ b.toInt then a else b⟩,
  ⟨0x02, 7, .max, fun a b => if a.toInt ≥ b.toInt then a else b⟩,
  ⟨0x04, 1, .minn, fun a b => if a ≤ b then a else b⟩,
  ⟨0x04, 2, .maxn, fun a b => if a ≥ b then a else b⟩,
  ⟨0x03, 7, .sext, fun a b => BitVec.signExtend 64 (a.extractLsb' 0 (b.toNat % 64 + 1))⟩]

/-- An instruction d, a: function of major 0x03, constructor, and the relation of its result to its operand value. -/
structure Row1 where
  fn : F3
  instr : F6 → Opnd → Instr
  effect : Word → Word → Prop

/-- R95. -/
def bitTable : List Row1 := [
  ⟨0, .clz, fun a w => ∃ n : Nat, w = BitVec.ofNat 64 n ∧ n ≤ 64 ∧ (∀ i, i < n → a.getLsbD (63 - i) = false) ∧
    (n < 64 → a.getLsbD (63 - n) = true)⟩,
  ⟨1, .ctz, fun a w => ∃ n : Nat, w = BitVec.ofNat 64 n ∧ n ≤ 64 ∧ (∀ i, i < n → a.getLsbD i = false) ∧
    (n < 64 → a.getLsbD n = true)⟩,
  ⟨2, .popc, fun a w => w = BitVec.ofNat 64 ((List.range 64).countP (fun i => a.getLsbD i))⟩,
  ⟨3, .brev, fun a w => ∀ i, i < 64 → w.getLsbD i = a.getLsbD (63 - i)⟩,
  ⟨4, .bswap, fun a w => ∀ i, i < 8 → w.extractLsb' (8 * i) 8 = a.extractLsb' (56 - 8 * i) 8⟩,
  ⟨5, .mov, fun a w => w = a⟩]

end Sys2Proof.Machine

/-- R92, R93, R94, R96: each two-operand scalar instruction, in every form, completes when it may issue; it writes the
result its table gives, discards it for s0 or sends it through a port, and changes nothing else but the program counter
and the pending extension. -/
def Obligations.ScalarTwoOperandResults : Prop :=
  ∀ e ∈ scalarTable, ∀ (d : F6) (a b : Opnd) (s : State),
    encode (e.instr d a b) = w32 (packR e.fn b a d e.major) ∧
    (Issues ⟨[a, b], some d.toNat, [], []⟩ s →
      ∃ t, exec (e.instr d a b) s = .next t ∧
        Wrote ⟨[a, b], some d.toNat, [], []⟩ s t (e.effect (valA s a b) (valB s b)) ((me s).pc + 4))

/-- R95: each one-operand bit instruction completes with the word its table gives. -/
def Obligations.ScalarBitResults : Prop :=
  ∀ e ∈ bitTable, ∀ (d : F6) (a : Opnd) (s : State),
    encode (e.instr d a) = w32 (packR e.fn (.s 0) a d 0x03) ∧
    (Issues ⟨[a], some d.toNat, [], []⟩ s →
      ∃ t w, exec (e.instr d a) s = .next t ∧ e.effect (opndVal s true a) w ∧
        Wrote ⟨[a], some d.toNat, [], []⟩ s t w ((me s).pc + 4))

namespace Sys2Proof.Machine

/-- A compact form of two registers: cop, constructor, effect (R30, R104). -/
structure RowC where
  cop : BitVec 5
  instr : F3 → F3 → F3 → Instr
  effect : Word → Word → Word

/-- R29, R30, R92, R94: the compact forms of layout CR with two scalar sources. -/
def compactTable : List RowC := [
  ⟨1, .addCompact, fun a b => a + b⟩,
  ⟨2, .subCompact, fun a b => a - b⟩,
  ⟨3, .andCompact, fun a b => a &&& b⟩,
  ⟨4, .orCompact, fun a b => a ||| b⟩,
  ⟨5, .xorCompact, fun a b => a ^^^ b⟩,
  ⟨6, .shlCompact, fun a b => BitVec.ofNat 64 (a.toNat * 2 ^ (b.toNat % 64))⟩,
  ⟨7, .shrCompact, fun a b => BitVec.ofNat 64 (a.toNat / 2 ^ (b.toNat % 64))⟩,
  ⟨8, .sarCompact, fun a b => BitVec.ofInt 64 (a.toInt / 2 ^ (b.toNat % 64))⟩,
  ⟨10, .seqCompact, fun a b => if a = b then 1#64 else 0#64⟩,
  ⟨11, .sltCompact, fun a b => if a.toInt < b.toInt then 1#64 else 0#64⟩]

/-- A compact form of a register and a literal: cop, constructor, effect on the register and the literal's six bits. -/
structure RowI where
  cop : BitVec 5
  instr : F3 → F6 → Instr
  effect : Word → F6 → Word

/-- R29, R30, R92: the compact forms of layout CI that change a scalar register by a literal. -/
def literalTable : List RowI := [
  ⟨0, .addImmCompact, fun a l => a + BitVec.signExtend 64 l⟩,
  ⟨1, .andImmCompact, fun a l => a &&& BitVec.signExtend 64 l⟩,
  ⟨2, .shlImmCompact, fun a l => BitVec.ofNat 64 (a.toNat * 2 ^ l.toNat)⟩,
  ⟨3, .shrImmCompact, fun a l => BitVec.ofNat 64 (a.toNat / 2 ^ l.toNat)⟩,
  ⟨4, .sarImmCompact, fun a l => BitVec.ofInt 64 (a.toInt / 2 ^ l.toNat)⟩]

/-- A branch on a scalar register: condition, constructor, when it is taken (R99). -/
structure RowB where
  cond : F3
  instr : F6 → BitVec 16 → Instr
  taken : Word → Bool

/-- R99. -/
def branchTable : List RowB := [
  ⟨1, .bZ, fun v => v == 0⟩,
  ⟨2, .bNz, fun v => v != 0⟩,
  ⟨3, .bLtz, fun v => decide (v.toInt < 0)⟩,
  ⟨4, .bGez, fun v => decide (v.toInt ≥ 0)⟩,
  ⟨5, .bGtz, fun v => decide (v.toInt > 0)⟩,
  ⟨6, .bLez, fun v => decide (v.toInt ≤ 0)⟩]

/-- (word address + 2 × sx(offset))<63:0> (R34, R99). -/
def branchTo {w : Nat} (s : State) (off : BitVec w) : Word := BitVec.ofInt 64 ((me s).pc.toNat + 2 * off.toInt)

end Sys2Proof.Machine

/-- R30, R104: each compact form of a two-operand scalar instruction completes with the effect of the long form on s0 to
s7, and goes on two bytes later. -/
def Obligations.CompactTwoOperandResults : Prop :=
  ∀ e ∈ compactTable, ∀ (d a b : F3) (s : State),
    encode (e.instr d a b) = w16 (packCR b a d e.cop) ∧
    (Issues ⟨[c3 a, c3 b], some d.toNat, [], []⟩ s →
      ∃ t, exec (e.instr d a b) s = .next t ∧
        Wrote ⟨[c3 a, c3 b], some d.toNat, [], []⟩ s t (e.effect (sreg (me s) a.toNat) (sreg (me s) b.toNat)) ((me s).pc + 2))

/-- R30, R49, R104: the compact forms with a literal, and MOV, complete; the literal is never widened. A shift's literal is
0 to 31. -/
def Obligations.CompactLiteralResults : Prop :=
  (∀ e ∈ literalTable, ∀ (d : F3) (l : F6) (s : State), wellFormed (e.instr d l) = true →
    Issues ⟨[c3 d, .lit l], some d.toNat, [], []⟩ s →
      encode (e.instr d l) = w16 (packCI l d e.cop) ∧
      ∃ t, exec (e.instr d l) s = .next t ∧
        Wrote ⟨[c3 d, .lit l], some d.toNat, [], []⟩ s t (e.effect (sreg (me s) d.toNat) l) ((me s).pc + 2)) ∧
  (∀ (d a : F3) (s : State), Issues ⟨[c3 a], some d.toNat, [], []⟩ s →
    ∃ t, exec (.movCompact d a) s = .next t ∧
      Wrote ⟨[c3 a], some d.toNat, [], []⟩ s t (sreg (me s) a.toNat) ((me s).pc + 2)) ∧
  (∀ (d : F3) (l : F6) (s : State), Issues ⟨[.lit l], some d.toNat, [], []⟩ s →
    ∃ t, exec (.movImmCompact d l) s = .next t ∧
      Wrote ⟨[.lit l], some d.toNat, [], []⟩ s t (BitVec.signExtend 64 l) ((me s).pc + 2))

/-- R45, R49: the value of an operand: a register, the word at the front of a port for the context, a constant, or a
literal; the extension that is pending widens B's literal, else A's, and no other field. -/
def Obligations.OperandValues : Prop :=
  (∀ (s : State) (f : F6) (w : Bool), f.toNat < 56 →
    opndVal s w (.s f) = if f = 0 then 0#64 else getD 0#64 (me s).s f.toNat) ∧
  (∀ (s : State) (f : F6) (w : Bool) (v : Word), 56 ≤ f.toNat → portWord (myCore s) s.cur.2 (f.toNat - 56) = some v →
    opndVal s w (.s f) = v) ∧
  (∀ (s : State) (f : F6) (w : Bool) (t : Task), taskOf s (taskNum s.cur.1) = some t →
    opndVal s w (.c f) = t.bank.getD f.toNat 0#64) ∧
  (∀ (s : State) (f : F6), bit (me s).elit 63 = false →
    ∀ w, opndVal s w (.lit f) = BitVec.signExtend 64 f) ∧
  (∀ (s : State) (f g : F6) (a : Opnd), bit (me s).elit 63 = true → isLit a = false →
    valB s (.lit f) = BitVec.signExtend 64 ((me s).elit.extractLsb' 0 24 ++ f) ∧
    valA s (.lit g) (.lit f) = BitVec.signExtend 64 g ∧
    valA s (.lit g) a = BitVec.signExtend 64 ((me s).elit.extractLsb' 0 24 ++ g))

/-- R97: SEL writes A where its destination was not zero and B where it was; the condition is read before the write. -/
def Obligations.SelectByOwnDestination : Prop :=
  ∀ (d : F6) (a b : Opnd) (s : State), wellFormed (.sel d a b) = true →
    Issues ⟨[.s d, a, b], some d.toNat, [], []⟩ s →
    ∃ t, exec (.sel d a b) s = .next t ∧
      Wrote ⟨[.s d, a, b], some d.toNat, [], []⟩ s t
        (if getD 0#64 (me s).s d.toNat ≠ 0 then valA s a b else valB s b) ((me s).pc + 4)

/-- R53: NOP, long and compact, has no effect other than consuming a pending extension: the program counter moves on and
ELIT.V is cleared. Its words are 0x0001 and 0x8000_0013. -/
def Obligations.NopOnlyConsumesExtension : Prop :=
  encode .nop = w32 0x80000013#32 ∧ encode .nopCompact = w16 0x0001#16 ∧ ∀ s : State,
    (∃ t, exec .nop s = .next t ∧ Changed ⟨[], none, [], []⟩ s t id ((me s).pc + 4)) ∧
    (∃ t, exec .nopCompact s = .next t ∧ Changed ⟨[], none, [], []⟩ s t id ((me s).pc + 2))

/-- R48, R51, R52: EXT.L sets a pending extension that replaces any before it; EXT loads e[n] from a scalar operand or
from the low 64 bits of a MASK register, and traps with FORMAT for another tag; MOVX copies e[n]. -/
def Obligations.ExtensionRegisters : Prop :=
  (∀ (e : BitVec 24) (s : State), ∃ t, exec (.extL e) s = .next t ∧ AllKept s t ∧ t.cur = s.cur ∧
    me t = { stepEnd (pastInsn (me s) ((me s).pc + 4)) with elit := 1#1 ++ 0#39 ++ e } ∧
    sentWords t = sentWords s ∧ SameQueues s t) ∧
  (∀ (n : F6) (a : Opnd) (s : State), isVal a = true → Issues ⟨[a], none, [], []⟩ s →
    ∃ t, exec (.ext n a) s = .next t ∧
      Changed ⟨[a], none, [], []⟩ s t (fun x => { x with e := setD 0#64 x.e n.toNat (opndVal s true a) }) ((me s).pc + 4)) ∧
  (∀ (n f : F6) (s : State), vtagOf (me s) f.toNat = .mask → Issues ⟨[.v f], none, [], []⟩ s →
    ∃ t, exec (.ext n (.v f)) s = .next t ∧
      Changed ⟨[.v f], none, [], []⟩ s t
        (fun x => { x with e := setD 0#64 x.e n.toNat ((vreg x f.toNat).extractLsb' 0 64) }) ((me s).pc + 4)) ∧
  (∀ (n f : F6) (s : State), vtagOf (me s) f.toNat ≠ .mask → Issues ⟨[.v f], none, [], []⟩ s →
    ∃ t, exec (.ext n (.v f)) s = .next t ∧ Trapped s t causeFormat 0 0#64 []) ∧
  (∀ (d n : F6) (s : State), encode (.movx d n) = w32 (packR 7 (.s 0) (.lit n) d 0x04) ∧
    (Issues ⟨[], some d.toNat, [], []⟩ s → ∃ t, exec (.movx d n) s = .next t ∧
      Wrote ⟨[], some d.toNat, [], []⟩ s t (getD 0#64 (me s).e n.toNat) ((me s).pc + 4)))

/-- R105, R107, R187: TS writes the reference count (exactly, by log 43); WHO an item of the context's identity, each of
them
pinned to the value that R107's table gives it, the unit indices as the digits of the core's number in the mixed radix
of the
extents (R279) and the mesh as R287 lays it out; MOVY the reply register, waiting with DSTAT.WAIT 8, or 7 while the
offer is parked (R335), while a reply to it is outstanding. -/
def Obligations.TimestampIdentityReply : Prop :=
  (∀ (d : F6) (s : State), Issues ⟨[], some d.toNat, [], []⟩ s →
    ∃ t, exec (.ts d) s = .next t ∧ Wrote ⟨[], some d.toNat, [], []⟩ s t (BitVec.ofNat 64 s.ticks) ((me s).pc + 4)) ∧
  (∀ (d item : F6) (s : State), Issues ⟨[], some d.toNat, [], []⟩ s →
    ∃ t, exec (.who d item) s = .next t ∧
      Wrote ⟨[], some d.toNat, [], []⟩ s t (BitVec.ofNat 64 (whoItem s item.toNat)) ((me s).pc + 4)) ∧
  (∀ (s : State) (t : Task), taskOf s (taskNum s.cur.1) = some t →
    whoItem s 0 = lcnOf s.cur.1 ∧ whoItem s 1 = s.cur.2 ∧ whoItem s 2 = crewSize t.levels ∧
    whoItem s 5 = min (crewSize t.levels) 16 ∧ whoItem s 3 = whoItem s 0 % whoItem s 5 ∧
    whoItem s 4 * whoItem s 5 + whoItem s 3 = whoItem s 0 ∧ whoItem s 6 = t.levels.length ∧ whoItem s 7 = t.prio ∧
    (∀ i, i < 8 → whoItem s (16 + i) = (match t.levels[i]? with
      | some l => l.extent
      | none => 0)) ∧
    (∀ i l, i < 8 → t.levels[i]? = some l → l.domain = 5 → whoItem s (8 + i) = s.cur.2) ∧
    (∀ i, t.levels.length ≤ i → i < 8 → whoItem s (8 + i) = 0) ∧
    (t.levels.length ≤ 8 → (∀ l ∈ t.levels, 0 < l.extent) → lcnOf s.cur.1 < crewSize t.levels →
      (∀ i l, t.levels[i]? = some l → l.domain ≠ 5 → whoItem s (8 + i) < l.extent) ∧
      (List.range t.levels.length).foldl (fun n i => match t.levels[i]? with
        | some l => if l.domain = 5 then n else n * l.extent + whoItem s (8 + i)
        | none => n) 0 = lcnOf s.cur.1)) ∧
  (∀ (d y : F6) (s : State), y.toNat ∉ (me s).ypend → Issues ⟨[], some d.toNat, [], []⟩ s →
    ∃ t, exec (.movy d y) s = .next t ∧
      Wrote ⟨[], some d.toNat, [], []⟩ s t (getD 0#64 (me s).y y.toNat) ((me s).pc + 4)) ∧
  (∀ (d y : F6) (s : State), y.toNat ∈ (me s).ypend → Issues ⟨[], some d.toNat, [], []⟩ s →
    ∃ t, exec (.movy d y) s = .next t ∧ HeldBack s t (replyWait s y.toNat 8))

/-- R99, R104: a branch goes to word address + 2 × offset when it is taken, else to the next word, and writes nothing; a
taken one leaves its context a cycle without an issue (05 on the pipeline, R378). -/
def Obligations.BranchesGoWhereTheySay : Prop :=
  (∀ (off : BitVec 16) (s : State), ∃ t, exec (.b off) s = .next t ∧
    Transferred ⟨[], none, [], []⟩ s t true 0#64 (branchTo s off)) ∧
  (∀ (l : F6) (s : State), ∃ t, exec (.bCompact l) s = .next t ∧
    Transferred ⟨[], none, [], []⟩ s t true 0#64 (branchTo s l)) ∧
  (∀ e ∈ branchTable, ∀ (r : F6) (off : BitVec 16) (s : State), wellFormed (e.instr r off) = true →
    Issues ⟨[.s r], none, [], []⟩ s → ∃ t, exec (e.instr r off) s = .next t ∧
      Transferred ⟨[.s r], none, [], []⟩ s t (e.taken (sreg (me s) r.toNat)) 0#64
        (if e.taken (sreg (me s) r.toNat) then branchTo s off else (me s).pc + 4)) ∧
  (∀ (r : F3) (l : F6) (s : State), Issues ⟨[c3 r], none, [], []⟩ s →
    (∃ t, exec (.bZCompact r l) s = .next t ∧
      Transferred ⟨[c3 r], none, [], []⟩ s t (decide (sreg (me s) r.toNat = 0)) 0#64
        (if sreg (me s) r.toNat = 0 then branchTo s l else (me s).pc + 2)) ∧
    (∃ t, exec (.bNzCompact r l) s = .next t ∧
      Transferred ⟨[c3 r], none, [], []⟩ s t (decide (sreg (me s) r.toNat ≠ 0)) 0#64
        (if sreg (me s) r.toNat ≠ 0 then branchTo s l else (me s).pc + 2)))

/-- R100, R101, R102: CALL and CALLR leave the address after them as the link, LOOP counts down and branches while the
count is not zero, JR and CALLR go to a register's value, read before the link is written. -/
def Obligations.CallsLoopsAndJumps : Prop :=
  (∀ (r : F6) (off : BitVec 16) (s : State), Issues ⟨[], some r.toNat, [], []⟩ s →
    ∃ t, exec (.call r off) s = .next t ∧
      Transferred ⟨[], some r.toNat, [], []⟩ s t true ((me s).pc + 4) (branchTo s off)) ∧
  (∀ (r : F6) (off : BitVec 16) (s : State), Issues ⟨[], some r.toNat, [r.toNat], []⟩ s →
    ∃ t, exec (.loop r off) s = .next t ∧
      Transferred ⟨[], some r.toNat, [r.toNat], []⟩ s t (decide (sreg (me s) r.toNat ≠ 1)) (sreg (me s) r.toNat - 1)
        (if sreg (me s) r.toNat - 1 ≠ 0 then branchTo s off else (me s).pc + 4)) ∧
  (∀ (r : F3) (l : F6) (s : State), Issues ⟨[], some r.toNat, [r.toNat], []⟩ s →
    ∃ t, exec (.loopCompact r l) s = .next t ∧
      Transferred ⟨[], some r.toNat, [r.toNat], []⟩ s t (decide (sreg (me s) r.toNat ≠ 1)) (sreg (me s) r.toNat - 1)
        (if sreg (me s) r.toNat - 1 ≠ 0 then branchTo s l else (me s).pc + 2)) ∧
  (∀ (a : Opnd) (s : State), bit (opndVal s false a) 0 = false → Issues ⟨[a], none, [], []⟩ s →
    ∃ t, exec (.jr a) s = .next t ∧ Transferred ⟨[a], none, [], []⟩ s t true 0#64 (opndVal s false a)) ∧
  (∀ (d : F6) (a : Opnd) (s : State), bit (opndVal s false a) 0 = false → Issues ⟨[a], some d.toNat, [], []⟩ s →
    ∃ t, exec (.callr d a) s = .next t ∧
      Transferred ⟨[a], some d.toNat, [], []⟩ s t true ((me s).pc + 4) (opndVal s false a))

/-- R28, R102: an odd target of JR or CALLR traps with MISALIGNED and the target as ADDR: the program counter stays at the
instruction, no link is written and no port word consumed. -/
def Obligations.OddTargetTraps : Prop :=
  (∀ (a : Opnd) (s : State), bit (opndVal s false a) 0 = true → Issues ⟨[a], none, [], []⟩ s →
    ∃ t, exec (.jr a) s = .next t ∧ Trapped s t causeMisaligned 0 (opndVal s false a) []) ∧
  (∀ (d : F6) (a : Opnd) (s : State), bit (opndVal s false a) 0 = true → Issues ⟨[a], some d.toNat, [], []⟩ s →
    ∃ t, exec (.callr d a) s = .next t ∧ Trapped s t causeMisaligned 0 (opndVal s false a) [])

namespace Sys2Proof.Machine

/-- A vector instruction: what it names, its length in bytes, its destination, the tags it accepts, its result. -/
structure VecRow where
  names : Names
  len : Nat
  d : F6
  ok : Ctx → Bool
  res : State → VRes

/-- d, a, b of one arithmetic tag: VADD, VSUB, VMUL (R137, R140). -/
def arithRow (len : Nat) (opI : Int → Int → Int) (opV : RoundMode → Val → Val → Val × Flags) (d a b : F6) : VecRow :=
  ⟨⟨[.v a, .v b], none, [], [d.toNat]⟩, len, d,
    fun x => isArith (vtagOf x a.toNat) && vtagOf x a.toNat == vtagOf x b.toNat,
    fun s => vArith (me s).fmode (me s).srg (vtagOf (me s) a.toNat) opI opV (vreg (me s) a.toNat) (vreg (me s) b.toNat)⟩

/-- VFMA, VFMS, VFNMA: the addend in d carries the tag too (R145). -/
def fusedRow (len : Nat) (k : FusedKind) (d a b : F6) : VecRow :=
  ⟨⟨[.v a, .v b], none, [], [d.toNat]⟩, len, d,
    fun x => isArith (vtagOf x a.toNat) && vtagOf x a.toNat == vtagOf x b.toNat && vtagOf x d.toNat == vtagOf x a.toNat,
    fun s => vFused (me s).fmode (me s).srg (ereg (me s) 0) k (vtagOf (me s) a.toNat) (vreg (me s) a.toNat)
      (vreg (me s) b.toNat) (vreg (me s) d.toNat)⟩

/-- Two vectors of any one tag, bit by bit (R142); bits 511:64 of a MASK are written zero (R70). -/
def logicRow (f : Vec → Vec → Vec) (d a b : F6) : VecRow :=
  ⟨⟨[.v a, .v b], none, [], [d.toNat]⟩, 4, d, fun x => vtagOf x a.toNat == vtagOf x b.toNat,
    fun s => ⟨if vtagOf (me s) a.toNat = .mask then
        BitVec.setWidth 512 ((f (vreg (me s) a.toNat) (vreg (me s) b.toNat)).extractLsb' 0 64)
      else f (vreg (me s) a.toNat) (vreg (me s) b.toNat), vtagOf (me s) a.toNat, (me s).srg, noFlags⟩⟩

/-- The shifts: the amount is a lane of B, or the value of B (R143). -/
def shiftRow (k : ShiftKind) (d a : F6) (b : Opnd) : VecRow :=
  ⟨⟨[.v a, b], none, [], [d.toNat]⟩, 4, d,
    fun x => isInt (vtagOf x a.toNat) && (match b with
      | .v f => vtagOf x a.toNat == vtagOf x f.toNat
      | _ => true),
    fun s => vShift (me s).srg k (vtagOf (me s) a.toNat) (vreg (me s) a.toNat) (fun i => match b with
      | .v f => elem (vreg (me s) f.toNat) (vtagOf (me s) a.toNat) i
      | _ => (valB s b).toNat)⟩

/-- The comparisons: a MASK (R144). -/
def compareRow (r : Relation) (d a b : F6) : VecRow :=
  ⟨⟨[.v a, .v b], none, [], [d.toNat]⟩, 4, d,
    fun x => isArith (vtagOf x a.toNat) && vtagOf x a.toNat == vtagOf x b.toNat,
    fun s => vCompare (me s).fmode (me s).srg r (vtagOf (me s) a.toNat) (vreg (me s) a.toNat) (vreg (me s) b.toNat)⟩

/-- VMIN and VMAX (R141). -/
def pickRow (wantMax : Bool) (d a b : F6) : VecRow :=
  ⟨⟨[.v a, .v b], none, [], [d.toNat]⟩, 4, d,
    fun x => isArith (vtagOf x a.toNat) && vtagOf x a.toNat == vtagOf x b.toNat,
    fun s => vPick (me s).fmode (me s).srg (vtagOf (me s) a.toNat) wantMax (vreg (me s) a.toNat) (vreg (me s) b.toNat)⟩

/-- One vector of an arithmetic tag (R152, R153, R154). -/
def oneRow (d a : F6) (f : Word → Word → Tag → Vec → VRes) : VecRow :=
  ⟨⟨[.v a], none, [], [d.toNat]⟩, 4, d, fun x => isArith (vtagOf x a.toNat),
    fun s => f (me s).fmode (me s).srg (vtagOf (me s) a.toNat) (vreg (me s) a.toNat)⟩

/-- Does every lane write, or does the destination carry the result's tag (R135)? -/
def keepsTag (x : Ctx) (d a : F6) : Bool :=
  (List.range (lanes (vtagOf x a.toNat))).all (fun i => bit (ereg x 0) i) || vtagOf x d.toNat == vtagOf x a.toNat

/-- The rows of R140 to R154. -/
def vectorRow : Instr → Option VecRow
  | .vadd d a b => some (arithRow 4 (· + ·) addOp d a b)
  | .vsub d a b => some (arithRow 4 (· - ·) subOp d a b)
  | .vmul d a b => some (arithRow 4 (· * ·) mulOp d a b)
  | .vaddCompact d a b => some (arithRow 2 (· + ·) addOp (d.setWidth 6) (a.setWidth 6) (b.setWidth 6))
  | .vsubCompact d a b => some (arithRow 2 (· - ·) subOp (d.setWidth 6) (a.setWidth 6) (b.setWidth 6))
  | .vmulCompact d a b => some (arithRow 2 (· * ·) mulOp (d.setWidth 6) (a.setWidth 6) (b.setWidth 6))
  | .vmin d a b => some (pickRow false d a b)
  | .vmax d a b => some (pickRow true d a b)
  | .vand d a b => some (logicRow (· &&& ·) d a b)
  | .vor d a b => some (logicRow (· ||| ·) d a b)
  | .vxor d a b => some (logicRow (· ^^^ ·) d a b)
  | .vshl d a b => some (shiftRow .left d a b)
  | .vshr d a b => some (shiftRow .right d a b)
  | .vsar d a b => some (shiftRow .arith d a b)
  | .vceq d a b => some (compareRow .eq d a b)
  | .vclt d a b => some (compareRow .lt d a b)
  | .vcle d a b => some (compareRow .le d a b)
  | .vbcst d a tag => some ⟨⟨[a], none, [], [d.toNat]⟩, 4, d, fun _ => true,
      fun s => vBroadcast (me s).srg (tagOf tag.toNat) (opndVal s true a)⟩
  | .vred d a op => some (oneRow d a (fun fm g t v => vReduce fm g op.toNat t v))
  | .vscan d a op => some (oneRow d a (fun fm g t v => vScan fm g op.toNat t v))
  | .vcvt d a tag => some (oneRow d a (fun fm g t v => vConvert fm g (fmodeRM fm) t (tagOf tag.toNat) v))
  | .vcvtRne d a tag => some (oneRow d a (fun fm g t v => vConvert fm g .rne t (tagOf tag.toNat) v))
  | .vcvtRtz d a tag => some (oneRow d a (fun fm g t v => vConvert fm g .rtz t (tagOf tag.toNat) v))
  | .vcvtRdn d a tag => some (oneRow d a (fun fm g t v => vConvert fm g .rdn t (tagOf tag.toNat) v))
  | .vcvtRup d a tag => some (oneRow d a (fun fm g t v => vConvert fm g .rup t (tagOf tag.toNat) v))
  | .vcvtRsto d a tag => some (oneRow d a (fun fm g t v => vConvert fm g .rsto t (tagOf tag.toNat) v))
  | .vretag d a tag => some ⟨⟨[.v a], none, [], [d.toNat]⟩, 4, d, fun _ => true,
      fun s => vRetag (me s).srg (tagOf tag.toNat) (vreg (me s) a.toNat)⟩
  | .vfma d a b => some (fusedRow 4 .fma d a b)
  | .vfms d a b => some (fusedRow 4 .fms d a b)
  | .vfnma d a b => some (fusedRow 4 .fnma d a b)
  | .vfmaCompact d a b => some (fusedRow 2 .fma (d.setWidth 6) (a.setWidth 6) (b.setWidth 6))
  | .vsel d a b => some ⟨⟨[.v a, .v b], none, [], [d.toNat]⟩, 4, d, fun x => vtagOf x a.toNat == vtagOf x b.toNat,
      fun s => vMasked (me s).srg (ereg (me s) 0) (vtagOf (me s) a.toNat)
        (fun i => elem (vreg (me s) a.toNat) (vtagOf (me s) a.toNat) i) (vreg (me s) b.toNat)⟩
  | .vperm d a b => some ⟨⟨[.v a, .v b], none, [], [d.toNat]⟩, 4, d,
      fun x => vtagOf x a.toNat != .mask && vtagOf x b.toNat == indexTag (vtagOf x a.toNat) && keepsTag x d a,
      fun s => vMasked (me s).srg (ereg (me s) 0) (vtagOf (me s) a.toNat)
        (fun i => elem (vreg (me s) a.toNat) (vtagOf (me s) a.toNat)
          (elem (vreg (me s) b.toNat) (indexTag (vtagOf (me s) a.toNat)) i % lanes (vtagOf (me s) a.toNat)))
        (vreg (me s) d.toNat)⟩
  | .vabs d a => some ⟨⟨[.v a], none, [], [d.toNat]⟩, 4, d, fun x => isArith (vtagOf x a.toNat) && keepsTag x d a,
      fun s => vSign (me s).fmode (me s).srg (ereg (me s) 0) (vtagOf (me s) a.toNat) false (vreg (me s) a.toNat)
        (vreg (me s) d.toNat)⟩
  | .vneg d a => some ⟨⟨[.v a], none, [], [d.toNat]⟩, 4, d, fun x => isArith (vtagOf x a.toNat) && keepsTag x d a,
      fun s => vSign (me s).fmode (me s).srg (ereg (me s) 0) (vtagOf (me s) a.toNat) true (vreg (me s) a.toNat)
        (vreg (me s) d.toNat)⟩
  | .vmov d a => some ⟨⟨[.v a], none, [], [d.toNat]⟩, 4, d, fun x => keepsTag x d a,
      fun s => vMasked (me s).srg (ereg (me s) 0) (vtagOf (me s) a.toNat)
        (fun i => elem (vreg (me s) a.toNat) (vtagOf (me s) a.toNat) i) (vreg (me s) d.toNat)⟩
  | _ => none

/-- A load of one register: what it names, its length, its destination, its size, how it extends, its address. -/
structure LoadRow where
  names : Names
  len : Nat
  d : Nat
  n : Nat
  signed : Bool
  va : State → Nat

/-- The rows of R30, R161 and R162. -/
def loadRow : Instr → Option LoadRow
  | .ldB d b o => some ⟨memNames d b, 4, d.toNat, 1, true, fun s => eaM s b o 1⟩
  | .ldH d b o => some ⟨memNames d b, 4, d.toNat, 2, true, fun s => eaM s b o 2⟩
  | .ldW d b o => some ⟨memNames d b, 4, d.toNat, 4, true, fun s => eaM s b o 4⟩
  | .ld d b o => some ⟨memNames d b, 4, d.toNat, 8, true, fun s => eaM s b o 8⟩
  | .ldBz d a k => some ⟨memNames d a, 4, d.toNat, 1, false, fun s => eaZ s a k 1⟩
  | .ldHz d a k => some ⟨memNames d a, 4, d.toNat, 2, false, fun s => eaZ s a k 2⟩
  | .ldWz d a k => some ⟨memNames d a, 4, d.toNat, 4, false, fun s => eaZ s a k 4⟩
  | .ldCompact d b o => some ⟨memNames (s3 d) (s3 b), 2, (s3 d).toNat, 8, true, fun s => eaC s b o 8⟩
  | .ldWCompact d b o => some ⟨memNames (s3 d) (s3 b), 2, (s3 d).toNat, 4, true, fun s => eaC s b o 4⟩
  | _ => none

/-- A store of one register: what it names, its length, its size, its address and the value. -/
structure StoreRow where
  names : Names
  len : Nat
  n : Nat
  va : State → Nat
  value : State → Word

/-- The rows of R30 and R161. -/
def storeRow : Instr → Option StoreRow
  | .stB x b o => some ⟨memNames x b, 4, 1, fun s => eaM s b o 1, fun s => valS s x⟩
  | .stH x b o => some ⟨memNames x b, 4, 2, fun s => eaM s b o 2, fun s => valS s x⟩
  | .stW x b o => some ⟨memNames x b, 4, 4, fun s => eaM s b o 4, fun s => valS s x⟩
  | .st x b o => some ⟨memNames x b, 4, 8, fun s => eaM s b o 8, fun s => valS s x⟩
  | .stCompact x b o => some ⟨memNames (s3 x) (s3 b), 2, 8, fun s => eaC s b o 8, fun s => valS s (s3 x)⟩
  | .stWCompact x b o => some ⟨memNames (s3 x) (s3 b), 2, 4, fun s => eaC s b o 4, fun s => valS s (s3 x)⟩
  | _ => none

/-- A vector load of one register: its tag, its destination, what it names, its address. -/
structure VecLoadRow where
  tag : Tag
  d : F6
  names : Names
  va : State → Nat

/-- The vector load of a tag at base plus a literal (R163); an index register makes it a gather. -/
def vecLoad (t : Tag) (d a : F6) : Opnd → Option VecLoadRow
  | .v _ => none
  | b => some ⟨t, d, vmemNames d a b, fun s => eaV s a b⟩

/-- The rows of R163. -/
def vecLoadRow : Instr → Option VecLoadRow
  | .vldRaw d a b => vecLoad .raw d a b
  | .vldI8 d a b => vecLoad .i8 d a b
  | .vldI16 d a b => vecLoad .i16 d a b
  | .vldI32 d a b => vecLoad .i32 d a b
  | .vldN8 d a b => vecLoad .n8 d a b
  | .vldN16 d a b => vecLoad .n16 d a b
  | .vldN32 d a b => vecLoad .n32 d a b
  | .vldFp16 d a b => vecLoad .fp16 d a b
  | .vldBf16 d a b => vecLoad .bf16 d a b
  | .vldFp32 d a b => vecLoad .fp32 d a b
  | .vldDm8 d a b => vecLoad .dm8 d a b
  | .vldMask d a k => some ⟨.mask, d, vmemNames d a (.lit k), fun s => eaV s a (.lit k)⟩
  | _ => none

/-- The tag, the registers and the index register of a gather (R164). -/
def gatherRow : Instr → Option (Tag × F6 × F6 × F6)
  | .vldRaw d a (.v f) => some (.raw, d, a, f)
  | .vldI8 d a (.v f) => some (.i8, d, a, f)
  | .vldI16 d a (.v f) => some (.i16, d, a, f)
  | .vldI32 d a (.v f) => some (.i32, d, a, f)
  | .vldN8 d a (.v f) => some (.n8, d, a, f)
  | .vldN16 d a (.v f) => some (.n16, d, a, f)
  | .vldN32 d a (.v f) => some (.n32, d, a, f)
  | .vldFp16 d a (.v f) => some (.fp16, d, a, f)
  | .vldBf16 d a (.v f) => some (.bf16, d, a, f)
  | .vldFp32 d a (.v f) => some (.fp32, d, a, f)
  | .vldDm8 d a (.v f) => some (.dm8, d, a, f)
  | _ => none

end Sys2Proof.Machine

/-- R44, R46: an instruction that names a register outside the allotment traps with ILLEGAL_REG before anything else:
the scalar instructions of two and of one operand, the vector instructions, the loads, stores, gathers and scatters.
Registers s0 to s7 always lie inside. -/
def Obligations.UnallottedRegisterTraps : Prop :=
  ∀ s : State,
    (∀ e ∈ scalarTable, ∀ (d : F6) (a b : Opnd), allHeld (me s) ⟨[a, b], some d.toNat, [], []⟩ = false →
      ∃ t, exec (e.instr d a b) s = .next t ∧ Trapped s t causeIllegalReg 0 0#64 []) ∧
    (∀ e ∈ bitTable, ∀ (d : F6) (a : Opnd), allHeld (me s) ⟨[a], some d.toNat, [], []⟩ = false →
      ∃ t, exec (e.instr d a) s = .next t ∧ Trapped s t causeIllegalReg 0 0#64 []) ∧
    (∀ (i : Instr) (r : VecRow), vectorRow i = some r → allHeld (me s) r.names = false →
      ∃ t, exec i s = .next t ∧ Trapped s t causeIllegalReg 0 0#64 []) ∧
    (∀ (i : Instr) (r : LoadRow), loadRow i = some r → allHeld (me s) r.names = false →
      ∃ t, exec i s = .next t ∧ Trapped s t causeIllegalReg 0 0#64 []) ∧
    (∀ (i : Instr) (r : StoreRow), storeRow i = some r → allHeld (me s) r.names = false →
      ∃ t, exec i s = .next t ∧ Trapped s t causeIllegalReg 0 0#64 []) ∧
    (∀ (i : Instr) (r : VecLoadRow), vecLoadRow i = some r → allHeld (me s) r.names = false →
      ∃ t, exec i s = .next t ∧ Trapped s t causeIllegalReg 0 0#64 []) ∧
    (∀ (i : Instr) (t : Tag) (d a f : F6), gatherRow i = some (t, d, a, f) →
      allHeld (me s) (vmemNames d a (.v f)) = false →
      ∃ u, exec i s = .next u ∧ Trapped s u causeIllegalReg 0 0#64 []) ∧
    (∀ (x a : F6) (b : Opnd), allHeld (me s) (vmemNames x a b) = false →
      ∃ t, exec (.vst x a b) s = .next t ∧ Trapped s t causeIllegalReg 0 0#64 []) ∧
    (∀ n, n < 8 → scalarHeld (me s) n = true)

namespace Sys2Proof.Machine

/-- The current context of s waits in t at the ports ps, those it was not yet waiting at behind every reader that waits
there, with DSTAT.WAIT 1; no register has changed, no word has been consumed or sent, nothing else has changed. -/
structure AwaitsPorts (s t : State) (ps : List Nat) : Prop where
  cur : t.cur = s.cur
  context : me t = { me s with wait := 1 }
  waiters : (myCore t).waiters = (myCore s).waiters ++
    (ps.filter (fun q => decide ((q, s.cur.2) ∉ (myCore s).waiters))).map (fun q => (q, s.cur.2))
  others : ∀ lc, lc ≠ s.cur.1 → (coreOf t lc).waiters = (coreOf s lc).waiters
  queues : SameQueues s t
  words : t.words = s.words
  kept : AllKept s t

end Sys2Proof.Machine

/-- R120, R121: a read of a port that holds no word for the context makes it wait at its instruction with DSTAT.WAIT 1,
behind the readers already waiting; it changes no register and consumes nothing. It is stated of every scalar instruction
of two and of one operand. A context that reads one port joins its readers once, at their end. It reads the oldest word
of the
port (R122), when no reader that has waited longer stands before it. MODEL'S CHOICE (log 43; R121 is silent): a context that
reads two ports, one of them empty, joins the readers of both, and is passed over at the other until its word is there. -/
def Obligations.EmptyPortWaits : Prop :=
  (∀ e ∈ scalarTable, ∀ (d : F6) (a b : Opnd) (s : State) (p : Nat), p ∈ portsOf [a, b] →
    portWord (myCore s) s.cur.2 p = none → allHeld (me s) ⟨[a, b], some d.toNat, [], []⟩ = true →
    anyPending (me s) ⟨[a, b], some d.toNat, [], []⟩ = false →
    ∃ t, exec (e.instr d a b) s = .next t ∧ AwaitsPorts s t (portsOf [a, b])) ∧
  (∀ e ∈ bitTable, ∀ (d f : F6) (s : State), 56 ≤ f.toNat → portWord (myCore s) s.cur.2 (f.toNat - 56) = none →
    allHeld (me s) ⟨[.s f], some d.toNat, [], []⟩ = true → anyPending (me s) ⟨[.s f], some d.toNat, [], []⟩ = false →
    ∃ t, exec (e.instr d (.s f)) s = .next t ∧ AwaitsPorts s t [f.toNat - 56] ∧
      ((f.toNat - 56, s.cur.2) ∉ (myCore s).waiters →
        (myCore t).waiters = (myCore s).waiters ++ [(f.toNat - 56, s.cur.2)]) ∧
      ((f.toNat - 56, s.cur.2) ∈ (myCore s).waiters → (myCore t).waiters = (myCore s).waiters)) ∧
  (∀ (k : LCore) (c p : Nat) (ahead behind : List (Nat × Nat)), k.waiters = ahead ++ (p, c) :: behind →
    (p, c) ∉ ahead → portWord k c p =
      if ∃ w ∈ ahead, w.1 = p ∧ ∀ r ∈ k.waiters, r.2 = w.2 → queueOf k r.1 ≠ [] then none else (queueOf k p).head?)

/-- R114, R115, R116: GROW raises the allotment as far as the pools permit and SHRINK lowers it, once nothing is still to
write a register that it releases; each writes the blocks then held. Registers held before and after keep their values;
those newly held or released read zero, and vectors have
tag RAW. -/
def Obligations.GrowAndShrink : Prop :=
  (∀ (d : F6) (a b : Opnd) (s : State) (gs gv : Nat),
    gs = max (allotSB (me s)) (min (min (valA s a b).toNat 6) (allotSB (me s) + freeScalar s s.cur.1)) →
    gv = max (allotVB (me s)) (min (min (valB s b).toNat 8) (allotVB (me s) + freeVector s s.cur.1)) →
    Issues ⟨[a, b], none, [], []⟩ s → (d.toNat < 8 * (gs + 1) ∨ 56 ≤ d.toNat) → d.toNat ∉ (me s).spend →
    (sendsPort (some d.toNat) && routerBusy s s.cur.1 s.cur.2) = false →
    ∃ t, exec (.grow d a b) s = .next t ∧
      Wrote ⟨[a, b], some d.toNat, [], []⟩ (modMe s (fun x => setAllot x gv gs)) t (mkAllot gv gs) ((me s).pc + 4)) ∧
  (∀ (d : F6) (a b : Opnd) (s : State) (gs gv : Nat),
    gs = min (allotSB (me s)) (min (valA s a b).toNat 6) → gv = min (allotVB (me s)) (min (valB s b).toNat 8) →
    Issues ⟨[a, b], some d.toNat, [], []⟩ s → (d.toNat < 8 * (gs + 1) ∨ 56 ≤ d.toNat) →
    ((∀ r ∈ (me s).spend, r < 8 * (gs + 1)) → (∀ r ∈ (me s).vpend, r < 4 * gv) →
      ∃ t, exec (.shrink d a b) s = .next t ∧
        Wrote ⟨[a, b], some d.toNat, [], []⟩ (modMe s (fun x => setAllot x gv gs)) t (mkAllot gv gs) ((me s).pc + 4)) ∧
    ((∃ r ∈ (me s).spend, 8 * (gs + 1) ≤ r) ∨ (∃ r ∈ (me s).vpend, 4 * gv ≤ r) →
      ∃ t, exec (.shrink d a b) s = .next t ∧
        Waits s t (sourceWait s (releasedNames (me s) (gs, gv))) (begunStage (me s)))) ∧
  (∀ (x : Ctx) (gs gv n : Nat), gs < 16 → gv < 16 →
    allotSB (setAllot x gv gs) = gs ∧ allotVB (setAllot x gv gs) = gv ∧
    (n < 8 * (allotSB x + 1) → n < 8 * (gs + 1) → sreg (setAllot x gv gs) n = sreg x n) ∧
    (8 * (allotSB x + 1) ≤ n ∨ 8 * (gs + 1) ≤ n → sreg (setAllot x gv gs) n = 0#64) ∧
    (n < 4 * allotVB x → n < 4 * gv → vreg (setAllot x gv gs) n = vreg x n ∧ vtagOf (setAllot x gv gs) n = vtagOf x n) ∧
    (4 * allotVB x ≤ n ∨ 4 * gv ≤ n → vreg (setAllot x gv gs) n = 0 ∧ vtagOf (setAllot x gv gs) n = .raw))

/-- R115, R116: a destination outside the blocks that GROW would grant or SHRINK would leave traps with ILLEGAL_REG, and
nothing is granted or released. -/
def Obligations.GrantTrapsOutside : Prop :=
  (∀ (d : F6) (a b : Opnd) (s : State),
    8 * (max (allotSB (me s)) (min (min (valA s a b).toNat 6) (allotSB (me s) + freeScalar s s.cur.1)) + 1) ≤ d.toNat →
    d.toNat < 56 → Issues ⟨[a, b], none, [], []⟩ s →
    ∃ t, exec (.grow d a b) s = .next t ∧ Trapped s t causeIllegalReg 0 0#64 []) ∧
  (∀ (d : F6) (a b : Opnd) (s : State), d.toNat < 56 →
    allHeld (me s) ⟨[a, b], some d.toNat, [], []⟩ = false ∨
      (Issues ⟨[a, b], some d.toNat, [], []⟩ s ∧
        8 * (min (allotSB (me s)) (min (valA s a b).toNat 6) + 1) ≤ d.toNat) →
    ∃ t, exec (.shrink d a b) s = .next t ∧ Trapped s t causeIllegalReg 0 0#64 [])

/-- R118: the head, its loads, offers, settles and REFSTs complete (log 43), starts a helper that is not live: it
becomes live at
the target with s1 = a, its other scalars, its reply registers and FMODE zero, allotment, priority and barrier state zero,
e0 all ones, PSEL its own core, and SRG seeded from the job seed, the logical core and its index (R54, R75, R83); nothing
else changes. Once the registers named are held, a helper, or h of 5 or more in a foldable task, traps with ILLEGAL_INSN;
then an odd target with MISALIGNED; a live helper makes the head wait. -/
def Obligations.StartOfHelper : Prop :=
  (∀ (h : F6) (a target : Opnd) (s : State) (pc : Word), s.cur.2 = 0 → ¬(foldable s s.cur.1 = true ∧ 5 ≤ h.toNat) →
    wellFormed (.start h a target) = true → Issues ⟨[a, target], none, [], []⟩ s →
    pc = (match target with
      | .lit _ => (me s).pc + valB s target * 2
      | _ => valB s target) →
    (bit pc 0 = false → (ctxOf s s.cur.1 h.toNat).live = false → (me s).loads = [] → (me s).ypend = [] →
      writesOut s s.cur.1 s.cur.2 = false →
      ∃ t x, exec (.start h a target) s = .next t ∧
        Changed ⟨[a, target], none, [], []⟩ (setCtx s s.cur.1 h.toNat x) t id ((me s).pc + 4) ∧
        x.live = true ∧ x.frozen = false ∧ x.pc = pc ∧ sreg x 1 = valA s a target ∧
        (∀ n, n ≠ 1 → sreg x n = 0#64) ∧ x.allot = 0#64 ∧ x.prio = 0#64 ∧ x.barst = 0#64 ∧
        ereg x 0 = 0xFFFFFFFFFFFFFFFF#64 ∧ (∀ n, n ≠ 0 → ereg x n = 0#64) ∧ x.elit = 0#64 ∧
        bits x.psel 15 0 = lcnOf s.cur.1 ∧ x.fmode = 0#64 ∧ (∀ n, yreg x n = 0#64) ∧
        (∀ task seed, taskOf s (taskNum s.cur.1) = some task →
          seed = task.seed ^^^ (BitVec.ofNat 64 (lcnOf s.cur.1) * 0x9E3779B97F4A7C15#64) ^^^ BitVec.ofNat 64 h.toNat →
          x.srg = if seed = 0#64 then 0x2545F4914F6CDD1D#64 else seed)) ∧
    (bit pc 0 = true → ∃ t, exec (.start h a target) s = .next t ∧ Trapped s t causeMisaligned 0 pc []) ∧
    (bit pc 0 = false → (ctxOf s s.cur.1 h.toNat).live = true →
      ∃ t, exec (.start h a target) s = .next t ∧ Waits s t (repliesWait s 0) (begunStage (me s)))) ∧
  (∀ (h : F6) (a target : Opnd) (s : State), allHeld (me s) ⟨[a, target], none, [], []⟩ = true →
    s.cur.2 ≠ 0 ∨ (foldable s s.cur.1 = true ∧ 5 ≤ h.toNat) →
    ∃ t, exec (.start h a target) s = .next t ∧ Trapped s t causeIllegalInsn 0 0#64 []) ∧
  (∀ (h : F6) (a target : Opnd) (s : State), allHeld (me s) ⟨[a, target], none, [], []⟩ = false →
    ∃ t, exec (.start h a target) s = .next t ∧ Trapped s t causeIllegalReg 0 0#64 [])

/-- R111, R113, R126, R127: YIELD completes and its context moves to the end of the round-robin order of the physical core
it stands on, which keeps the others' order; PORTSEL sets PSEL.LCN, or traps with PROTECT for a core outside the crew;
WAITP writes the ports of its mask that hold a word, or 0 for an empty mask, and sleeps with DSTAT.WAIT 2 while none
does. -/
def Obligations.YieldPortselWaitp : Prop :=
  (∀ s : State, ∃ t, exec .yield s = .next t ∧ Changed ⟨[], none, [], []⟩ s t id ((me s).pc + 4) ∧
    (∀ p, standsOn s s.cur.1 = some p →
      (∃ before, (physOf t p).rr = before ++ [s.cur] ∧ s.cur ∉ before ∧
        before = (physOf s p).rr.filter (fun e => decide (standsOn s e.1 = some p) && decide (e ≠ s.cur))) ∧
      (∀ q, q ≠ p → (physOf t q).rr = (physOf s q).rr))) ∧
  (∀ (a : Opnd) (s : State), Issues ⟨[a], none, [], []⟩ s →
    ((valB s a).toNat < crewSize (levelsOf s (taskNum s.cur.1)) →
      ∃ t, exec (.portsel a) s = .next t ∧
        Changed ⟨[a], none, [], []⟩ s t (fun x => { x with psel := BitVec.ofNat 64 ((valB s a).toNat % 65536) })
          ((me s).pc + 4)) ∧
    (crewSize (levelsOf s (taskNum s.cur.1)) ≤ (valB s a).toNat →
      ∃ t, exec (.portsel a) s = .next t ∧ Trapped s t causeProtect 0 0#64 [])) ∧
  (∀ (d : F6) (a : Opnd) (s : State) (w : Word), Issues ⟨[a], some d.toNat, [], []⟩ s →
    (∀ i, w.getLsbD i = (decide (i < 8) && (valB s a).getLsbD i && !(queueOf (myCore s) i).isEmpty)) →
    (w ≠ 0#64 ∨ (valB s a).toNat % 256 = 0 →
      ∃ t, exec (.waitp d a) s = .next t ∧ Wrote ⟨[a], some d.toNat, [], []⟩ s t w ((me s).pc + 4)) ∧
    (w = 0#64 → (valB s a).toNat % 256 ≠ 0 →
      ∃ t, exec (.waitp d a) s = .next t ∧ Waits s t 2 (me s).stage))

/-- R119: a helper's HALT, once its own accesses, sends, walks, jobs and copies are complete and no fault of its walks is
unreported, ends its holds and the context: it is not live, holds nothing above block 0 and owns no barrier arrival; no
other context and no byte of memory changes. Until they are complete any context's HALT waits with DSTAT.WAIT 6, or 7
while a reply that it waits for is parked (R335). -/
def Obligations.HelperHaltEndsContext : Prop :=
  (∀ s : State, s.cur.2 ≠ 0 → (me s).stage = .idle → haltReady s s.cur.1 s.cur.2 = true → (me s).walkFaults = [] →
    ∃ t, exec .halt s = .next t ∧ t.cur = s.cur ∧ (me t).live = false ∧ (me t).allot = 0#64 ∧ (me t).barst = 0#64 ∧
      (me t).pc = (me s).pc ∧ (∀ n, 8 ≤ n → sreg (me t) n = 0#64) ∧
      (∀ m, m < 64 → ∀ e ∈ (millOf t m).holds, ¬(e.2.lc = s.cur.1 ∧ e.2.ctx = s.cur.2)) ∧
      SameOthers s t ∧ SameMemory s t ∧ SameUnits s t) ∧
  (∀ s : State, (me s).stage = .idle → haltReady s s.cur.1 s.cur.2 = false →
    ∃ t, exec .halt s = .next t ∧ Waits s t (repliesWait s 6) .idle)

namespace Sys2Proof.Machine

/-- What a logical core that retires leaves: it holds no context, word, way, tile, mapping or accumulator any more, the
words of its queues are counted as dropped, the contents of its accumulators are lost (a free value stands for each element,
log 5), its head's registers keep their values on the physical core it stood on until a task is placed there, but for
BARST.OUT,
which is dropped, and the reply registers of its holds, which say LOST as after an RLS; and no other logical core has
changed. -/
structure Retired (s t : State) (task : Task) : Prop where
  core : coreOf t s.cur.1 = { LCore.reset with retired := true, phys := homePhys (myCore s) }
  others : ∀ lc, lc ≠ s.cur.1 → coreOf t lc = coreOf s lc
  dropped : (taskOf t (taskNum s.cur.1)).map (·.dropped) =
    some (task.dropped + ((myCore s).queues.map (fun q => q.2.length)).sum)
  freed : ∀ e ∈ (yardOf t (yardNum (homePhys (myCore s)))).owner, e.2 ≠ s.cur.1 + 1
  lost : ∀ e ∈ (yardOf s (yardNum (homePhys (myCore s)))).owner, e.2 = s.cur.1 + 1 →
    ∃ k, ∀ i, accElem (yardOf t (yardNum (homePhys (myCore s)))) e.1 i = BitVec.setWidth 32 (Config.freeValue (k + i))
  registers : ∀ p, standsOn s s.cur.1 = some p → (me s).live = true → (keys (myCore s).ctxs).Nodup →
    let x := getD Ctx.reset (physOf t p).rest (if (myCore s).half then 5 else 0)
    x.live = false ∧ x.s = (me s).s ∧ x.v = (me s).v ∧ x.vtag = (me s).vtag ∧ x.e = (me s).e ∧
      (∀ n, n < 4 → yreg x n =
        if namesHold s s.cur.1 s.cur.2 n (yreg (me s) n) then BitVec.ofNat 64 kindLost else yreg (me s) n) ∧
      (∀ i, x.barst.getLsbD i = (decide (8 ≤ i) && (me s).barst.getLsbD i)) ∧
      x.allot = (me s).allot ∧ x.fmode = (me s).fmode ∧ x.srg = (me s).srg ∧ x.ysg = (me s).ysg ∧ x.pc = (me s).pc ∧
      x.elit = (me s).elit &&& 0x7FFFFFFFFFFFFFFF#64

end Sys2Proof.Machine

/-- R49, R119, R125, R222, R290: the head's HALT, once its helpers have halted, its engine and copy requests are done and no
byte of its core is dirty, retires the logical core: it holds no context, word, way, tile or accumulator any more, the
accumulators' contents are lost, its holds have ended as by RLS and its words are counted as dropped; its head's
registers keep their values on its physical core (R371, R376, R384, R396), a
pending extension consumed; no other logical core changes. Until the helpers have halted the head waits with DSTAT.WAIT
6. -/
def Obligations.HeadHaltRetiresCore : Prop :=
  (∀ (s : State) (task : Task), s.cur.2 = 0 → (me s).stage = .idle → haltReady s s.cur.1 0 = true →
    (me s).walkFaults = [] → taskOf s (taskNum s.cur.1) = some task → helpersDone s s.cur.1 = true →
    engineBusy s s.cur.1 = false → ReleaseComplete s scopeSys true →
    ∃ t, exec .halt s = .next t ∧ Retired s t task ∧ t.mem = s.mem ∧ t.msc = s.msc ∧ t.l2 = s.l2) ∧
  (∀ s : State, s.cur.2 = 0 → (me s).stage = .idle → haltReady s s.cur.1 0 = true → (me s).walkFaults = [] →
    helpersDone s s.cur.1 = false →
    ∃ t, exec .halt s = .next t ∧ Waits s t 6 (.halting 3))

/-- R46, R119, R291: HALT.keep retires the head as HALT does, and the core keeps its stash ways, bytes and tiles for the
task entered with the record address in its address space (R389); address 0 keeps nothing. Once its register is held, it
traps with ILLEGAL_INSN in a
helper, and with an address that is not 0 and not a multiple of 128 it traps with MISALIGNED. -/
def Obligations.HaltKeepRetainsWays : Prop :=
  (∀ (a : Opnd) (s : State), s.cur.2 ≠ 0 → allHeld (me s) ⟨[a], none, [], []⟩ = true →
    ∃ t, exec (.haltKeep a) s = .next t ∧ Trapped s t causeIllegalInsn 0 0#64 []) ∧
  (∀ (a : Opnd) (s : State), allHeld (me s) ⟨[a], none, [], []⟩ = false →
    ∃ t, exec (.haltKeep a) s = .next t ∧ Trapped s t causeIllegalReg 0 0#64 []) ∧
  (∀ (a : Opnd) (s : State), s.cur.2 = 0 → Issues ⟨[a], none, [], []⟩ s → (valB s a).toNat ≠ 0 →
    (valB s a).toNat % 128 ≠ 0 →
    ∃ t, exec (.haltKeep a) s = .next t ∧ Trapped s t causeMisaligned 0 (valB s a) []) ∧
  (∀ (a : Opnd) (s : State) (task : Task) (p : Nat), s.cur.2 = 0 → Issues ⟨[a], none, [], []⟩ s →
    (valB s a).toNat % 128 = 0 → (me s).stage = .idle → haltReady s s.cur.1 0 = true →
    (me s).walkFaults = [] → taskOf s (taskNum s.cur.1) = some task → helpersDone s s.cur.1 = true →
    engineBusy s s.cur.1 = false → ReleaseComplete s scopeSys true → standsOn s s.cur.1 = some p →
    ∃ t, exec (.haltKeep a) s = .next t ∧ Retired (consumePorts s [a]) t task ∧ (physOf t p).idleSince = s.ticks ∧
      (physOf t p).kept = (if (valB s a).toNat ≠ 0 ∧ awaitsPlacement s (asidOf s s.cur.1) (valB s a).toNat = true then
        some ⟨(valB s a).toNat, asidOf s s.cur.1, lcnOf s.cur.1, (myCore s).ways, (myCore s).stash, keptTiles (myCore s), s.ticks⟩
      else (physOf s p).kept))

namespace Sys2Proof.Machine

/-- arrive(L) of R130 has been made by the current context of s in r: the phase's parity stands in BARST, one arrival is
counted, and the last one expected ends the phase (R129); nothing else has changed. -/
structure Arrived (s r : State) (l : Nat) : Prop where
  out : bit (me r).barst l = true
  phase : bit (me r).barst (8 + l) = decide ((barrierOf s s.cur.1 l).phase % 2 = 1)
  count : barrierOf r s.cur.1 l =
    if expectedCount (levelsOf s (taskNum s.cur.1)) l ≤ (barrierOf s s.cur.1 l).count + 1 then
      ⟨0, (barrierOf s s.cur.1 l).phase + 1⟩
    else ⟨(barrierOf s s.cur.1 l).count + 1, (barrierOf s s.cur.1 l).phase⟩
  own : me r = { me s with barst := (me r).barst, arrived := (me r).arrived }
  others : SameOthers s r
  memory : SameMemory s r
  units : SameUnits s r
  cur : r.cur = s.cur

/-- The context after waitfor(L) of R130 has ended: BARST.OUT is cleared and it has acquired at the level's scope. -/
def waited (s : State) (l : Nat) : State :=
  acquire (setMe s { me s with barst := setBits (me s).barst l l 0 }) s.cur.1 (levelScope s l)

end Sys2Proof.Machine

/-- R129, R130: BARA with no arrival outstanding, or one whose phase has ended, and with its release complete, arrives and
completes; while its arrival is outstanding it waits, and is no boundary (R305). MODEL'S CHOICE (log 43, R130 followed
against
R109's field): OUT stays 1 after an arrival that ends its phase, so that BARA runs with OUT = 1 and an ended phase. -/
def Obligations.BarrierArrive : Prop :=
  (∀ (level : F6) (s : State) (task : Task), taskOf s (taskNum s.cur.1) = some task →
    level.toNat < task.levels.length → level.toNat < 8 → (barOut (me s) level.toNat = false ∨ phaseEnded s level.toNat = true) →
    ReleaseComplete s (levelScope s level.toNat) false →
    ∃ r t, Arrived s r level.toNat ∧ exec (.bara level) s = .next t ∧ Changed ⟨[], none, [], []⟩ r t id ((me s).pc + 4)) ∧
  (∀ (level : F6) (s : State), level.toNat < (levelsOf s (taskNum s.cur.1)).length →
    barOut (me s) level.toNat = true → phaseEnded s level.toNat = false →
    ∃ t, exec (.bara level) s = .next t ∧ Waits s t 0 (begunStage (me s)))

/-- R129, R130: BARW and BAR. BAR, BARA and BARW of a level that the task does not declare raise ILLEGAL_INSN. BARW with
no arrival outstanding completes at once with no effect; with one whose phase has ended it clears OUT and acquires; else
it waits with DSTAT.WAIT 3. BAR does as BARW while an arrival is outstanding; else it arrives, and where its arrival is
the last expected it goes on through the end of the phase. MODEL'S CHOICE (log 43, R130 followed against R109's field):
OUT is
still 1 where the phase has ended and none has waited, so that BARW then clears it and acquires, and BAR does as BARW. -/
def Obligations.BarrierWait : Prop :=
  (∀ (level : F6) (s : State), (levelsOf s (taskNum s.cur.1)).length ≤ level.toNat →
    (∃ t, exec (.bar level) s = .next t ∧ Trapped s t causeIllegalInsn 0 0#64 []) ∧
    (∃ t, exec (.bara level) s = .next t ∧ Trapped s t causeIllegalInsn 0 0#64 []) ∧
    (∃ t, exec (.barw level) s = .next t ∧ Trapped s t causeIllegalInsn 0 0#64 [])) ∧
  (∀ (level : F6) (s : State), level.toNat < (levelsOf s (taskNum s.cur.1)).length →
    barOut (me s) level.toNat = false →
    ∃ t, exec (.barw level) s = .next t ∧ Changed ⟨[], none, [], []⟩ s t id ((me s).pc + 4)) ∧
  (∀ (level : F6) (s : State), level.toNat < (levelsOf s (taskNum s.cur.1)).length →
    barOut (me s) level.toNat = true → phaseEnded s level.toNat = true →
    (∃ t, exec (.barw level) s = .next t ∧
      Changed ⟨[], none, [], []⟩ (waited s level.toNat) t id ((me s).pc + 4)) ∧
    exec (.bar level) s = exec (.barw level) s) ∧
  (∀ (level : F6) (s : State), level.toNat < (levelsOf s (taskNum s.cur.1)).length →
    barOut (me s) level.toNat = true → phaseEnded s level.toNat = false →
    (∃ t, exec (.barw level) s = .next t ∧ Waits s t 3 .idle) ∧
    exec (.bar level) s = exec (.barw level) s) ∧
  (∀ (level : F6) (s : State) (task : Task), taskOf s (taskNum s.cur.1) = some task →
    level.toNat < task.levels.length → level.toNat < 8 → barOut (me s) level.toNat = false →
    ReleaseComplete s (levelScope s level.toNat) false →
    expectedCount task.levels level.toNat ≤ (barrierOf s s.cur.1 level.toNat).count + 1 →
    ∃ r t, Arrived s r level.toNat ∧ exec (.bar level) s = .next t ∧
      Changed ⟨[], none, [], []⟩ (waited r level.toNat) t id ((me s).pc + 4))

/-- R4, R47, R74, R82, R109, R168, R185, R194, R222, R224, R292, R302, R310, R319, R326: SYSRD of a register that the
context may read writes its value and changes nothing else; that of FMODE waits while a vector load is outstanding, or the
vector that an offer's reply is to write, with DSTAT.WAIT 7 while that offer is parked (R335). What the
registers named here read as: all but MXJOB, LEASE, DROOP and CHRATE, which show the state of units. -/
def Obligations.SystemRegisterReads : Prop :=
  (∀ (d reg : F6) (s : State), Issues ⟨[], some d.toNat, [], []⟩ s → regTrap s (regNum (me s) reg) false = none →
    (regNum (me s) reg = 0x00E → (me s).vpend = []) →
    ∃ t, exec (.sysrd d reg) s = .next t ∧
      Wrote ⟨[], some d.toNat, [], []⟩ s t (readReg s (regNum (me s) reg)) ((me s).pc + 4)) ∧
  (∀ (d reg : F6) (s : State), Issues ⟨[], some d.toNat, [], []⟩ s → regTrap s (regNum (me s) reg) false = none →
    regNum (me s) reg = 0x00E → (me s).vpend ≠ [] →
    ∃ t, exec (.sysrd d reg) s = .next t ∧ HeldBack s t (sourceWait s ⟨[], none, [], (me s).vpend⟩)) ∧
  (∀ s : State, readReg s 0x008 = (me s).ofrst ∧ readReg s 0x009 = (me s).barst ∧ readReg s 0x00A = (me s).allot ∧
    readReg s 0x00B = (me s).psel ∧ readReg s 0x00C = (me s).prio ∧ readReg s 0x00D = (me s).srg ∧
    readReg s 0x00E = (me s).fmode ∧ readReg s 0x00F = (me s).elit ∧ readReg s 0x014 = (me s).waddr0 ∧
    readReg s 0x015 = (me s).waddr1 ∧ readReg s 0x016 = (me s).wctl ∧ readReg s 0x017 = (me s).haltg ∧
    (∀ i, i < 4 → readReg s (0x010 + i) = getD 0#64 (me s).ysg i) ∧
    bits (readReg s 0x100) 7 0 = (myCore s).ways % 256 ∧ readReg s 0x101 = (myCore s).mxacc ∧
    readReg s 0x103 = (physOf s (myCore s).phys).clkdiv ∧
    (s.melt < 1024 → bits (readReg s 0x300) 9 0 = s.melt ∧ bit (readReg s 0x300) 11 = s.rfz) ∧
    readReg s 0x302 = (rowOf s (myRow s)).drth ∧ readReg s 0x304 = (rowOf s (myRow s)).cinj ∧
    readReg s 0x800 = (physOf s (myCore s).phys).fpqbase ∧ readReg s 0x801 = (physOf s (myCore s).phys).fpqptr ∧
    readReg s 0x802 = (physOf s (myCore s).phys).dbgbase ∧ readReg s 0x803 = s.mrqbase ∧ readReg s 0x804 = s.mrqptr ∧
    readReg s 0x805 = s.mrsolve ∧ readReg s 0x806 = s.asidbase ∧ readReg s 0x807 = s.tlbinv ∧ readReg s 0x808 = s.heatk ∧
    readReg s 0x809 = s.hvcmd ∧ readReg s 0x80A = s.hvbuf ∧ readReg s 0x80C = s.dictld ∧
    readReg s 0x80D = (physOf s (myCore s).phys).ctag ∧
    (∀ i, i < 4 → readReg s (0x400 + i) = (if ownsCounters s then getD 0#64 (physOf s (myCore s).phys).cnt i else 0#64) ∧
      readReg s (0x408 + i) = (if ownsCounters s then getD 0#64 (physOf s (myCore s).phys).csel i else 0#64)) ∧
    (∀ r ∈ [((0x410 : Nat), (physOf s (myCore s).phys).covf), (0x411, (physOf s (myCore s).phys).chbnd)],
      readReg s r.1 = if ownsCounters s then r.2 else 0#64))

/-- R4, R47, R74, R82, R109, R299, R302, R310, R317, R319, R321, R326: SYSWR of a register that the context may write
changes
that register by the access codes of its fields, and nothing else; RO and RS fields ignore the write, HALTG is the reeve's,
FMODE's flags are W1C and its RM keeps its value for 5 to 7, SRG never becomes 0, CLKDIV ignores divisors above 5; the ring
bases and DBGBASE keep their fields, a ring pointer takes HEAD alone; MRSOLVE replays or unmaps the record it names, and the
writes of TLBINV, HVCMD, CHRATE and DICTLD start their actions (MemorySystemEvents). -/
def Obligations.SystemRegisterWrites : Prop :=
  (∀ (reg : F6) (a : Opnd) (s : State), Issues ⟨[a], none, [], []⟩ s → regTrap s (regNum (me s) reg) true = none →
    regNum (me s) reg ≠ 0x00F →
    ∃ t, exec (.syswr reg a) s = .next t ∧
      Changed ⟨[], none, [], []⟩ (writeReg (consumePorts s [a]) (regNum (me s) reg) (opndVal s false a)) t id
        ((me s).pc + 4)) ∧
  (∀ (reg : F6) (a : Opnd) (s : State), Issues ⟨[a], none, [], []⟩ s → regNum (me s) reg = 0x00F →
    bit (me s).elit 63 = false →
    ∃ t, exec (.syswr reg a) s = .next t ∧ AllKept s t ∧ (me t).elit = opndVal s false a &&& 0x8000000000FFFFFF#64 ∧
      { me t with elit := 0#64 } = { stepEnd (pastInsn (me s) ((me s).pc + 4)) with elit := 0#64 }) ∧
  (∀ (s : State) (v : Word),
    writeReg s 0x00C v = modMe s (fun x => { x with prio := v &&& 3#64 }) ∧
    writeReg s 0x00D v = modMe s (fun x => { x with srg := if v = 0#64 then srgDefault else v }) ∧
    writeReg s 0x00E v = modMe s (fun x => { x with fmode := writeFmode x.fmode v }) ∧
    writeReg s 0x014 v = modMe s (fun x => { x with waddr0 := v &&& 0xFFFFFFFFFFFFFFF8#64 }) ∧
    writeReg s 0x015 v = modMe s (fun x => { x with waddr1 := v &&& 0xFFFFFFFFFFFFFFF8#64 }) ∧
    writeReg s 0x016 v = modMe s (fun x => { x with wctl := v &&& 0x7F7F#64 }) ∧
    writeReg s 0x103 v = modPhys s (myCore s).phys (fun q =>
      { q with clkdiv := if bits v 2 0 < 6 then v &&& 7#64 else q.clkdiv }) ∧
    writeReg s 0x302 v = modRow s (myRow s) (fun r => { r with drth := v &&& 0xFF#64 }) ∧
    writeReg s 0x304 v = modRow s (myRow s) (fun r => { r with cinj := v &&& 0xFF1F#64 }) ∧
    (∀ n ∈ [0x100, 0x101, 0x102, 0x300, 0x301, 0x303], writeReg s n v = s) ∧
    (∀ n ∈ [0x008, 0x009, 0x00A, 0x00B, 0x010, 0x011, 0x012, 0x013, 0x017], writeReg s n v = modMe s (fun x => x)) ∧
    writeReg s 0x800 v = modPhys s (myCore s).phys (fun q => { q with fpqbase := v &&& 0xFFFFFFFFFFFFF00F#64 }) ∧
    writeReg s 0x801 v = modPhys s (myCore s).phys (fun q =>
      { q with fpqptr := (v &&& 0xFFFFFFFF00000000#64) ||| (q.fpqptr &&& 0xFFFFFFFF#64) }) ∧
    writeReg s 0x802 v = modPhys s (myCore s).phys (fun q => { q with dbgbase := v &&& 0xFFFFFFFFF0000000#64 }) ∧
    writeReg s 0x804 v = { s with mrqptr := (v &&& 0xFFFFFFFF00000000#64) ||| (s.mrqptr &&& 0xFFFFFFFF#64) } ∧
    (bits v 33 32 = 0 ∨ bits v 33 32 = 3 → writeReg s 0x805 v = { s with mrsolve := v &&& 0x3FFFFFFFF#64 }) ∧
    (bits v 33 32 = 1 →
      writeReg s 0x805 v = replayRecord { s with mrsolve := v &&& 0x3FFFFFFFF#64 } (v.toNat % 2 ^ 32)) ∧
    (bits v 33 32 = 2 →
      writeReg s 0x805 v = unmapRecord { s with mrsolve := v &&& 0x3FFFFFFFF#64 } (v.toNat % 2 ^ 32)) ∧
    writeReg s 0x807 v = tlbinvWrite s v ∧ writeReg s 0x809 v = hvcmdWrite s v ∧ writeReg s 0x80B v = chrateWrite s v ∧
    writeReg s 0x80C v = dictldWrite s v ∧
    writeReg s 0x803 v = { s with mrqbase := v &&& 0xFFFFFFFFFFFFF00F#64 } ∧
    writeReg s 0x806 v = { s with asidbase := v &&& 0xFFFFFFFFFFFFF000#64 } ∧
    writeReg s 0x808 v = { s with heatk := v &&& 0xF#64 } ∧
    writeReg s 0x80A v = { s with hvbuf := v &&& 0xFFFFFFFFFFFFFF80#64 } ∧
    writeReg s 0x80D v = modPhys s (myCore s).phys (fun q => { q with ctag := v &&& 0xFF3F#64 }) ∧
    (∀ i, i < 4 →
      writeReg s (0x400 + i) v = modPhys s (myCore s).phys (fun q =>
        { q with cnt := setD 0#64 q.cnt i (v &&& 0xFFFFFFFFFFFF#64) }) ∧
      writeReg s (0x408 + i) v = modPhys s (myCore s).phys (fun q =>
        { q with csel := setD 0#64 q.csel i (v &&& 0xF0FF#64) })) ∧
    writeReg s 0x410 v = modPhys s (myCore s).phys (fun q => { q with covf := q.covf &&& ~~~v }) ∧
    writeReg s 0x411 v = modPhys s (myCore s).phys (fun q => { q with chbnd := v &&& 0xFFFFFFFFFFFF#64 })) ∧
  (∀ (old v : Word), bits (writeFmode old v) 2 0 = (if bits v 2 0 < 5 then bits v 2 0 else bits old 2 0) ∧
    (∀ i, 3 ≤ i → i < 9 → bit (writeFmode old v) i = bit v i) ∧
    (∀ i, 16 ≤ i → i < 20 → bit (writeFmode old v) i = (bit old i && !bit v i)))

/-- R320, R365: a number that names no register traps with ILLEGAL_INSN in SYSRD and SYSWR; a number from 0x800 on traps
with PROTECT on a core that is no reeve core; a write of a row register traps with PROTECT unless the task holds the 16
cores of the row, and of a counter register unless CTAG names the task's owner. -/
def Obligations.SystemRegisterTraps : Prop :=
  (∀ (d reg : F6) (s : State), Issues ⟨[], some d.toNat, [], []⟩ s →
    (regNamed (regNum (me s) reg) = false →
      ∃ t, exec (.sysrd d reg) s = .next t ∧ Trapped s t causeIllegalInsn 0 0#64 []) ∧
    (regNamed (regNum (me s) reg) = true → 0x800 ≤ regNum (me s) reg → isReeve s s.cur.1 = false →
      ∃ t, exec (.sysrd d reg) s = .next t ∧ Trapped s t causeProtect 0 0#64 [])) ∧
  (∀ (reg : F6) (a : Opnd) (s : State), Issues ⟨[a], none, [], []⟩ s →
    (regNamed (regNum (me s) reg) = false →
      ∃ t, exec (.syswr reg a) s = .next t ∧ Trapped s t causeIllegalInsn 0 0#64 []) ∧
    (regNamed (regNum (me s) reg) = true →
      (0x800 ≤ regNum (me s) reg ∧ isReeve s s.cur.1 = false) ∨
        (0x300 ≤ regNum (me s) reg ∧ regNum (me s) reg ≤ 0x304 ∧ holdsRow s = false) ∨
        (isCounter (regNum (me s) reg) = true ∧ ownsCounters s = false) →
      ∃ t, exec (.syswr reg a) s = .next t ∧ Trapped s t causeProtect 0 0#64 [])) ∧
  (∀ n, (0x200 ≤ n ∧ n < 0x300) ∨ (0x500 ≤ n ∧ n < 0x800) ∨ 0x1000 ≤ n → regNamed n = false)

/-- R56, R305, R306, R308, R316: TRAP freezes its context with TRAP_INSN and its number as SUB, BRK with BREAK and SUB 0,
a reserved word with ILLEGAL_INSN; the program counter stays at the word, every register keeps its value, and the packet
with the word waits in the die. -/
def Obligations.TrapBreakReservedEntries : Prop :=
  (∀ (n : F6) (s : State), ∃ t, exec (.trap n) s = .next t ∧ Trapped s t 0x0B n.toNat 0#64 []) ∧
  (∀ s : State, ∃ t, exec .brk s = .next t ∧ Trapped s t 0x0C 0 0#64 []) ∧
  (∀ (w : BitVec 32) (s : State), ∃ t, exec (.reservedWord w) s = .next t ∧
    Trapped s t 0x01 0 0#64 [])

/-- R308: the packet of a freeze: its head names the task, the logical core, the physical core, the context, the sub-code
and the cause; then PC, the word at PC, a compact form zero-extended (0 in a delivered packet), the reference count and the
address. -/
def Obligations.FaultPacketWords : Prop :=
  ∀ (s : State) (lc c cause sub : Nat) (deliv : Bool) (addr : Word) (detail : List Word),
    (packetWords s lc c cause sub deliv addr detail).length = 16 ∧
    (packetWords s lc c cause sub deliv addr detail)[1]? = some (ctxOf s lc c).pc ∧
    (packetWords s lc c cause sub deliv addr detail)[2]? =
      some (if deliv then 0#64 else BitVec.ofNat 64 (insnAt s (asidOf s lc) (ctxOf s lc c).pc.toNat)) ∧
    (∀ (asid va : Nat) (h g : Half), halfAt s asid va = some h →
      (h.toNat % 4 ≠ 3 → insnAt s asid va = h.toNat) ∧
      (h.toNat % 4 = 3 → halfAt s asid ((va + 2) % 2 ^ 64) = some g → insnAt s asid va = h.toNat + g.toNat * 65536)) ∧
    (packetWords s lc c cause sub deliv addr detail)[3]? = some (BitVec.ofNat 64 s.ticks) ∧
    (packetWords s lc c cause sub deliv addr detail)[4]? = some addr ∧
    (∀ i, i < 11 → (packetWords s lc c cause sub deliv addr detail)[5 + i]? = some (detail.getD i 0#64)) ∧
    (taskNum lc < 2 ^ 20 → (coreOf s lc).phys < 2 ^ 11 → c < 16 → cause < 256 → sub < 256 →
      ∃ h, (packetWords s lc c cause sub deliv addr detail)[0]? = some h ∧ bits h 63 44 = taskNum lc ∧
        bits h 43 33 = lcnOf lc ∧ bits h 32 22 = (coreOf s lc).phys ∧ bits h 21 18 = c ∧ bit h 17 = deliv ∧
        bit h 16 = false ∧ bits h 15 8 = sub ∧ bits h 7 0 = cause)

/-- R77, R83, R133, R137: every vector instruction of R140 to R154, long and compact, whose operands carry tags it accepts
completes: it writes its destination register with the result and its tag, ORs the flags raised into FMODE, steps the
generator as its lanes do, and changes nothing else. -/
def Obligations.VectorInstructionsComplete : Prop :=
  ∀ (i : Instr) (r : VecRow) (s : State), vectorRow i = some r → Issues r.names s → r.ok (me s) = true →
    ∃ t, exec i s = .next t ∧
      Changed r.names s t (fun x =>
        { setVreg x r.d.toNat (r.res s).tag (r.res s).data with fmode := x.fmode ||| flagBits (r.res s).flags, srg := (r.res s).srg })
        ((me s).pc + BitVec.ofNat 64 r.len)

/-- R46, R72, R136: a vector instruction whose operands carry tags that it does not accept traps with FORMAT, once its
registers are held and settled, and writes nothing. -/
def Obligations.VectorTagMismatchTraps : Prop :=
  ∀ (i : Instr) (r : VecRow) (s : State), vectorRow i = some r → allHeld (me s) r.names = true →
    anyPending (me s) r.names = false → r.ok (me s) = false →
    ∃ t, exec i s = .next t ∧ Trapped s t causeFormat 0 0#64 []

namespace Sys2Proof.Machine

/-- The generator bits of the n-th rounding from generator g on: 0 but under RSTO (R83, R86). -/
def roundBits (rm : RoundMode) (g : Word) (n : Nat) : Nat := if rm = .rsto then ((srgNext^[n]) g).toNat % 2 ^ 24 else 0

/-- The value of lane i of a register, as FMODE reads it (R86). -/
def laneVal (fm : Word) (t : Tag) (a : Vec) (i : Nat) : Val := (val fm t (elem a t i)).1

/-- The code of a value in lane i of a result that has rounded k times before and in it. -/
def roundedTo (fm : Word) (t : Tag) (rm : RoundMode) (g : Word) (k : Nat) (v : Val) : Nat :=
  (enc fm v t rm (roundBits rm g k)).1

/-- The zero a sum of two finite values has: one sign where both are zeros of it, else by the rounding mode (R139). -/
def zeroOf (rm : RoundMode) (n : Bool) (p : Rat) (m : Bool) (q : Rat) : Val :=
  .fin (if p = 0 ∧ q = 0 ∧ n = m then n else decide (rm = .rdn)) 0

/-- A finite value that is not zero. -/
def nonzero (q : Rat) : Val := .fin (decide (q < 0)) q

/-- R138, R140, R141, R143 to R145, R148, R150: lane i of the integer results, x, y and z the codes of the operands'
lanes. -/
def IntegerLanes (fm g e0 : Word) (t : Tag) (a b d : Vec) (i : Nat) : Prop :=
  let x := elem a t i
  let y := elem b t i
  let z := elem d t i
  let w := width t
  elem (vArith fm g t (· + ·) addOp a b).data t i = (x + y) % 2 ^ w ∧
  elem (vArith fm g t (· - ·) subOp a b).data t i = (x + (2 ^ w - y)) % 2 ^ w ∧
  elem (vArith fm g t (· * ·) mulOp a b).data t i = x * y % 2 ^ w ∧
  elem (vPick fm g t true a b).data t i = (if laneInt t x < laneInt t y then y else x) ∧
  elem (vPick fm g t false a b).data t i = (if laneInt t y < laneInt t x then y else x) ∧
  elem (vShift g .left t a (fun j => elem b t j)).data t i = x * 2 ^ (y % w) % 2 ^ w ∧
  elem (vShift g .right t a (fun j => elem b t j)).data t i = x / 2 ^ (y % w) ∧
  elem (vShift g .arith t a (fun j => elem b t j)).data t i = ((BitVec.ofNat w x).sshiftRight (y % w)).toNat ∧
  elem (vFused fm g e0 .fma t a b d).data t i = (if bit e0 i then (x * y + z) % 2 ^ w else z) ∧
  elem (vFused fm g e0 .fms t a b d).data t i = (if bit e0 i then (x * y + (2 ^ w - z)) % 2 ^ w else z) ∧
  elem (vFused fm g e0 .fnma t a b d).data t i =
    (if bit e0 i then (z + (2 ^ w - x * y % 2 ^ w)) % 2 ^ w else z) ∧
  elem (vSign fm g e0 t false a d).data t i =
    (if bit e0 i then (if isSigned t && decide (2 ^ (w - 1) ≤ x) then 2 ^ w - x else x) else z) ∧
  elem (vSign fm g e0 t true a d).data t i = (if bit e0 i then (2 ^ w - x) % 2 ^ w else z) ∧
  elem (vMasked g e0 t (elem a t) d).data t i = (if bit e0 i then x else z) ∧
  elem (vBroadcast g t e0).data t i = e0.toNat % 2 ^ w ∧
  elem (vCompare fm g .eq t a b).data .mask i = (if x = y then 1 else 0) ∧
  elem (vCompare fm g .lt t a b).data .mask i = (if laneInt t x < laneInt t y then 1 else 0) ∧
  elem (vCompare fm g .le t a b).data .mask i = (if laneInt t x ≤ laneInt t y then 1 else 0) ∧
  (∀ r ∈ [vArith fm g t (· + ·) addOp a b, vArith fm g t (· - ·) subOp a b, vArith fm g t (· * ·) mulOp a b,
      vFused fm g e0 .fma t a b d, vFused fm g e0 .fms t a b d, vFused fm g e0 .fnma t a b d],
    r.flags = noFlags ∧ r.srg = g ∧ r.tag = t)

/-- R138 to R140, R144, R145: lane i of the float results of finite operands p, q and o: the exact result rounded once. -/
def FiniteLanes (fm g e0 : Word) (t : Tag) (a b d : Vec) (i : Nat) : Prop :=
  ∀ (n m l : Bool) (p q o : Rat), laneVal fm t a i = .fin n p → laneVal fm t b i = .fin m q →
    laneVal fm t d i = .fin l o →
    let rm := fmodeRM fm
    let code := roundedTo fm t rm g (i + 1)
    let fused := roundedTo fm t rm g ((List.range (i + 1)).countP (fun j => bit e0 j))
    let z := elem d t i
    (p + q ≠ 0 → elem (vArith fm g t (· + ·) addOp a b).data t i = code (nonzero (p + q))) ∧
    (p + q = 0 → elem (vArith fm g t (· + ·) addOp a b).data t i = code (zeroOf rm n p m q)) ∧
    (p - q ≠ 0 → elem (vArith fm g t (· - ·) subOp a b).data t i = code (nonzero (p - q))) ∧
    (p - q = 0 → elem (vArith fm g t (· - ·) subOp a b).data t i = code (zeroOf rm n p (!m) q)) ∧
    (p * q ≠ 0 → elem (vArith fm g t (· * ·) mulOp a b).data t i = code (nonzero (p * q))) ∧
    (p * q = 0 → elem (vArith fm g t (· * ·) mulOp a b).data t i = code (.fin (n != m) 0)) ∧
    (bit e0 i = true → p * q + o ≠ 0 → elem (vFused fm g e0 .fma t a b d).data t i = fused (nonzero (p * q + o))) ∧
    (bit e0 i = true → p * q - o ≠ 0 → elem (vFused fm g e0 .fms t a b d).data t i = fused (nonzero (p * q - o))) ∧
    (bit e0 i = true → o - p * q ≠ 0 → elem (vFused fm g e0 .fnma t a b d).data t i = fused (nonzero (o - p * q))) ∧
    (bit e0 i = false → ∀ k, elem (vFused fm g e0 k t a b d).data t i = z) ∧
    (p < q → elem (vPick fm g t false a b).data t i = (enc fm (.fin n p) t rm 0).1 ∧
      elem (vPick fm g t true a b).data t i = (enc fm (.fin m q) t rm 0).1) ∧
    elem (vCompare fm g .eq t a b).data .mask i = (if p = q then 1 else 0) ∧
    elem (vCompare fm g .lt t a b).data .mask i = (if p < q then 1 else 0) ∧
    elem (vCompare fm g .le t a b).data .mask i = (if p ≤ q then 1 else 0)

/-- R138, R141, R144, R148: a NaN or NaR in lane i of an operand gives the canonical NaN, or NaR, and no relation; the
infinities; what sign changes do. -/
def SpecialLanes (fm g e0 : Word) (t : Tag) (a b d : Vec) (i : Nat) : Prop :=
  let x := laneVal fm t a i
  let y := laneVal fm t b i
  let c := elem a t i
  (isNanVal x = true ∨ isNanVal y = true →
    (∀ r ∈ [vArith fm g t (· + ·) addOp a b, vArith fm g t (· - ·) subOp a b, vArith fm g t (· * ·) mulOp a b,
        vPick fm g t true a b, vPick fm g t false a b], elem r.data t i = nanCode t) ∧
    (∀ r, elem (vCompare fm g r t a b).data .mask i = 0)) ∧
  (∀ n m : Bool, x = .inf n → y = .inf m →
    (n = m → elem (vArith fm g t (· + ·) addOp a b).data t i = infCode t n) ∧
    (n ≠ m → elem (vArith fm g t (· + ·) addOp a b).data t i = nanCode t ∧
      (vArith fm g t (· + ·) addOp a b).flags.nv = true) ∧
    elem (vArith fm g t (· * ·) mulOp a b).data t i = infCode t (n != m)) ∧
  (∀ (n m : Bool) (q : Rat), x = .inf n → y = .fin m q →
    elem (vArith fm g t (· + ·) addOp a b).data t i = infCode t n ∧
    (q ≠ 0 → elem (vArith fm g t (· * ·) mulOp a b).data t i = infCode t (n != m)) ∧
    (q = 0 → elem (vArith fm g t (· * ·) mulOp a b).data t i = nanCode t ∧
      (vArith fm g t (· * ·) mulOp a b).flags.nv = true)) ∧
  (bit e0 i = true →
    (isNanVal x = true → ∀ negate, elem (vSign fm g e0 t negate a d).data t i = nanCode t) ∧
    ((∃ n, x = .inf n) ∨ (∃ n q, x = .fin n q ∧ q ≠ 0) →
      elem (vSign fm g e0 t false a d).data t i = c % 2 ^ (width t - 1) ∧
      elem (vSign fm g e0 t true a d).data t i = (c + 2 ^ (width t - 1)) % 2 ^ width t) ∧
    (∀ n, x = .fin n 0 → elem (vSign fm g e0 t false a d).data t i = 0 ∧
      elem (vSign fm g e0 t true a d).data t i = (if t = .dm8 ∨ n = true then 0 else 2 ^ (width t - 1)))) ∧
  (bit e0 i = false → ∀ negate, elem (vSign fm g e0 t negate a d).data t i = elem d t i)

/-- R152 to R154: lane i of VCVT, VRED and VSCAN: each converted lane rounded in its turn, sums exact and rounded once,
the least and the greatest lane. -/
def WholeRegisterLanes (fm g : Word) (t u : Tag) (rm : RoundMode) (a : Vec) (i : Nat) : Prop :=
  (i < lanes u → elem (vConvert fm g rm t u a).data u i =
    (if i < lanes t then roundedTo fm u rm g (i + 1) (laneVal fm t a i) else 0)) ∧
  (0 < i → ∀ op, i < lanes t → elem (vReduce fm g op t a).data t i = 0) ∧
  (isInt t = true →
    elem (vReduce fm g 0 t a).data t 0 = ((List.range (lanes t)).map (elem a t)).sum % 2 ^ width t ∧
    (i < lanes t → elem (vScan fm g 0 t a).data t i = ((List.range (i + 1)).map (elem a t)).sum % 2 ^ width t ∧
      (∃ j, j ≤ i ∧ elem (vScan fm g 1 t a).data t i = elem a t j ∧
        ∀ k, k ≤ i → laneInt t (elem a t j) ≤ laneInt t (elem a t k)) ∧
      (∃ j, j ≤ i ∧ elem (vScan fm g 2 t a).data t i = elem a t j ∧
        ∀ k, k ≤ i → laneInt t (elem a t k) ≤ laneInt t (elem a t j))) ∧
    (∀ op, op < 3 → elem (vReduce fm g op t a).data t 0 = elem (vScan fm g op t a).data t (lanes t - 1))) ∧
  (isFloat t = true → ∀ q : Nat → Rat, (∀ j, j < lanes t → ∃ n, laneVal fm t a j = .fin n (q j)) →
    (((List.range (lanes t)).map q).sum ≠ 0 → elem (vReduce fm g 0 t a).data t 0 =
      roundedTo fm t (fmodeRM fm) g 1 (nonzero ((List.range (lanes t)).map q).sum)) ∧
    (i < lanes t → ((List.range (i + 1)).map q).sum ≠ 0 → elem (vScan fm g 0 t a).data t i =
      roundedTo fm t (fmodeRM fm) g (i + 1) (nonzero ((List.range (i + 1)).map q).sum)) ∧
    (i < lanes t →
      (∃ j, j ≤ i ∧ elem (vScan fm g 1 t a).data t i = (enc fm (laneVal fm t a j) t (fmodeRM fm) 0).1 ∧
        ∀ k, k ≤ i → q j ≤ q k) ∧
      (∃ j, j ≤ i ∧ elem (vScan fm g 2 t a).data t i = (enc fm (laneVal fm t a j) t (fmodeRM fm) 0).1 ∧
        ∀ k, k ≤ i → q k ≤ q j)))

/-- R80: which of the neighbours lo and hi of a magnitude v the rounding takes: the one of greater magnitude? even says
that the code of lo ends in 0. -/
def takesUpper (rm : RoundMode) (r : Nat) (neg even : Bool) (lo v hi : Rat) : Prop :=
  match rm with
  | .rne => hi - v < v - lo ∨ (hi - v = v - lo ∧ even = false)
  | .rtz => False
  | .rdn => neg = true
  | .rup => neg = false
  | .rsto => if neg = true then (hi - v) / (hi - lo) * 2 ^ 24 ≤ r else r < (v - lo) / (hi - lo) * 2 ^ 24

/-- R66, R68, R79 to R81: a value strictly between the values of two neighbouring codes c and c + 1 of a float format, in
magnitude, is given one of them by the rounding mode; NX is set, and UF for a tiny value. Nothing is flushed. -/
def RoundsToNeighbour (fm : Word) (t : Tag) (rm : RoundMode) (r c : Nat) (neg : Bool) (v : Rat) : Prop :=
  ∀ lo hi : Rat, (val 0#64 t c).1 = .fin false lo → (val 0#64 t (c + 1)).1 = .fin false hi → lo < v → v < hi →
    (flushOut fm t = false ∨ tiny t ≤ v) →
    let s := if neg then 2 ^ (width t - 1) else 0
    let up := enc fm (nonzero (if neg then -v else v)) t rm r
    (takesUpper rm r neg (c % 2 == 0) lo v hi → up.1 = s + (c + 1)) ∧
    (¬ takesUpper rm r neg (c % 2 == 0) lo v hi → up.1 = if t = .dm8 ∧ c = 0 then 0 else s + c) ∧
    up.2 = ⟨false, false, decide (v < tiny t), true⟩

end Sys2Proof.Machine

/-- R66, R68, R79 to R81, R83, R135, R138 to R154: what lanes hold after vector instructions. Integer lanes: the exact
result modulo 2^width, the greater or smaller lane, the shift by the amount modulo the width, 1 or 0 of a comparison, under
the mask of e0. Float lanes: the exact result of the operands' values rounded once, with the lane's own generator bits
under RSTO; NaNs, infinities and zeros; sign changes; conversions, reductions and scans; VPERM and VRETAG; and which
neighbouring code a value that lies between two is rounded to. -/
def Obligations.IntegerLaneResults : Prop :=
  (∀ (fm g e0 : Word) (t : Tag) (a b d : Vec) (i : Nat), isInt t = true → i < lanes t → IntegerLanes fm g e0 t a b d i) ∧
  (∀ (fm g e0 : Word) (t : Tag) (a b d : Vec) (i : Nat), isFloat t = true → i < lanes t →
    FiniteLanes fm g e0 t a b d i ∧ SpecialLanes fm g e0 t a b d i) ∧
  (∀ (fm g : Word) (t u : Tag) (rm : RoundMode) (a : Vec) (i : Nat), isArith t = true → isArith u = true →
    WholeRegisterLanes fm g t u rm a i) ∧
  (∀ (d a b : F6) (s : State) (r : VecRow) (i : Nat), vectorRow (.vperm d a b) = some r → r.ok (me s) = true →
    i < lanes (vtagOf (me s) a.toNat) →
    let t := vtagOf (me s) a.toNat
    elem (r.res s).data t i = (if bit (ereg (me s) 0) i then
      elem (vreg (me s) a.toNat) t ((vreg (me s) b.toNat).toNat / 2 ^ (i * (512 / lanes t)) % lanes t)
    else elem (vreg (me s) d.toNat) t i)) ∧
  (∀ (g : Word) (t : Tag) (a : Vec), (vRetag g t a).tag = t ∧
    (vRetag g t a).data = if t = .mask then a &&& 0xFFFFFFFFFFFFFFFF#512 else a) ∧
  (∀ (fm : Word) (t : Tag) (rm : RoundMode) (r c : Nat) (neg : Bool) (v : Rat), isFloat t = true → r < 2 ^ 24 →
    c + 1 < (if t = .dm8 then 128 else infCode t false) → RoundsToNeighbour fm t rm r c neg v)

namespace Sys2Proof.Machine

/-- An access of n bytes at va passes every check (R158) and is answered v; no earlier load or offer of its core to its line
is outstanding (R89, R199). -/
def Passes (s : State) (va n : Nat) (write vec : Bool) (v : Verdict) : Prop :=
  (lineBusy s va && !inWindow va) = false ∧ judge s s.cur.1 (me s) va n write vec = v ∧ allowed v = true

/-- n bytes as a load leaves them in a scalar register: sign- or zero-extended (R161, R162). -/
def extended (signed : Bool) (n b : Nat) : Word :=
  if signed then (BitVec.ofNat (8 * n) b).signExtend 64 else (BitVec.ofNat (8 * n) b).setWidth 64

/-- The context with a load outstanding: its destination is still to be written, unless it is s0 (R89, R160). -/
def awaiting (x : Ctx) (l : Load) : Ctx :=
  if l.vec then { x with loads := x.loads ++ [l], vpend := l.dst :: x.vpend }
  else { x with loads := x.loads ++ [l], spend := if l.dst = 0 then x.spend else l.dst :: x.spend }

/-- V[d] cleared, and then the elements written to its lanes in turn (R164). -/
def gathered (x : Ctx) (d : Nat) (t : Tag) (xs : List Nat) : Ctx :=
  xs.zipIdx.foldl (fun y e => landLane y d (8 * (width t / 8)) e.2 e.1) (setVreg x d t 0)

/-- One element of a gather in lane j.1: written at once when the core holds it, else awaited (R89, R164). -/
def gatherLane (s : State) (d : Nat) (t : Tag) (x : Ctx) (j : Nat × Nat × Verdict) : Ctx :=
  match readNow s s.cur.1 j.2.1 (width t / 8) j.2.2 with
  | some b => landLane x d (8 * (width t / 8)) j.1 b
  | none => awaiting x ⟨true, d, t, width t / 8, false, j.2.1, verdictPage j.2.2, some j.1, issueTick s⟩

/-- Every address of a gather or scatter passes every check of its element; the elements with their lanes and answers. -/
def AllPass (s : State) (vas : List Nat) (n : Nat) (write : Bool) (js : List (Nat × Nat × Verdict)) : Prop :=
  js.map (fun j => (j.1, j.2.1)) = vas.zipIdx.map (fun e => (e.2, e.1)) ∧
    ∀ j ∈ js, Passes s j.2.1 n write true j.2.2

/-- The bytes of the stash a store meets, when it meets the stash. -/
def stashSpan (v : Verdict) (n o : Nat) : Prop :=
  match v with
  | .window k | .mapped k _ => k ≤ o ∧ o < k + n
  | _ => False

/-- Does a store of n bytes at va, answered v, write what its core reads at a? -/
def Stored (s : State) (va n : Nat) (v : Verdict) (a : Nat) : Prop :=
  match v with
  | .page _ => va ≤ a ∧ a < va + n
  | _ => ∃ o, stashPlaceOf (myCore s) a = some o ∧ stashSpan v n o

end Sys2Proof.Machine

/-- R30, R89, R160 to R162, R165: a scalar load whose registers are ready and whose access passes the checks writes its
destination at once when the core holds the bytes, signed or zero-extended; else its destination is awaited while the
context goes on. Eight bytes of the debug window are read at once (R310, R314). Nothing else changes. MODEL'S CHOICE
(log 10,
DEDUCED): a load is performed at its issue exactly when the core holds its bytes, and is outstanding else. Its latency
counts
from the instruction's issue, which for one that has parked lies before its replay (R362). -/
def Obligations.LoadsWriteOrAwait : Prop :=
  ∀ (i : Instr) (r : LoadRow) (s : State), loadRow i = some r → Issues r.names s →
    let va := r.va s
    let pc := (me s).pc + BitVec.ofNat 64 r.len
    (∀ v b, (r.n = 8 → viaWindow s va 8 watchLoad = none) → Passes s va r.n false false v →
      readNow s s.cur.1 va r.n v = some b →
      ∃ t, exec i s = .next t ∧ Changed r.names s t (fun x => setSreg x r.d (extended r.signed r.n b)) pc) ∧
    (∀ v, (r.n = 8 → viaWindow s va 8 watchLoad = none) → Passes s va r.n false false v →
      readNow s s.cur.1 va r.n v = none →
      ∃ t, exec i s = .next t ∧
        Changed r.names s t (awaiting · ⟨false, r.d, .raw, r.n, r.signed, va, verdictPage v, none, issueTick s⟩) pc) ∧
    (∀ w, r.n = 8 → viaWindow s va 8 watchLoad = some w →
      ∃ t, exec i s = .next t ∧ Changed r.names s t (fun x => setSreg x r.d (word (windowRead s w.1 w.2 8))) pc)

/-- R163: a vector load of 64 bytes, or 8 of a mask, does the same to V[d] and its tag. MODEL'S CHOICE (log 10,
DEDUCED): the
split into bytes that the core holds, written at once, and an outstanding load. -/
def Obligations.VectorLoadsWriteOrAwait : Prop :=
  ∀ (i : Instr) (r : VecLoadRow) (s : State), vecLoadRow i = some r → Issues r.names s →
    let va := r.va s
    let n := if r.tag = .mask then 8 else 64
    let pc := (me s).pc + 4#64
    (∀ v b, viaWindow s va n watchLoad = none → Passes s va n false true v → readNow s s.cur.1 va n v = some b →
      ∃ t, exec i s = .next t ∧ Changed r.names s t (fun x => setVreg x r.d.toNat r.tag (BitVec.ofNat 512 b)) pc) ∧
    (∀ v, viaWindow s va n watchLoad = none → Passes s va n false true v → readNow s s.cur.1 va n v = none →
      ∃ t, exec i s = .next t ∧
        Changed r.names s t (awaiting · ⟨true, r.d.toNat, r.tag, n, false, va, verdictPage v, none, issueTick s⟩) pc) ∧
    (∀ w, viaWindow s va n watchLoad = some w →
      ∃ t, exec i s = .next t ∧
        Changed r.names s t (fun x => setVreg x r.d.toNat r.tag (BitVec.ofNat 512 (windowRead s w.1 w.2 n))) pc)

/-- R164: a gather whose index register carries i32 or n32 and whose sixteen elements pass the checks writes those that the
core holds to their lanes and awaits the others, each a load of its own; lanes 16 and above are zero; nothing else changes.
Where the core holds all sixteen, lanes 0 to 15 hold them. MODEL'S CHOICE (logs 10 and 11, DEDUCED): held elements are
read in
the instruction's own step. -/
def Obligations.GatherReadsSixteenElements : Prop :=
  ∀ (i : Instr) (t : Tag) (d a f : F6) (s : State) (js : List (Nat × Nat × Verdict)),
    gatherRow i = some (t, d, a, f) → Issues (vmemNames d a (.v f)) s → indexOk (me s) f.toNat = true →
    AllPass s (elementVas (me s) (valS s a) f.toNat) (width t / 8) false js →
    (∃ u, exec i s = .next u ∧
      Changed (vmemNames d a (.v f)) s u (fun x => js.foldl (gatherLane s d.toNat t) (setVreg x d.toNat t 0))
        ((me s).pc + 4#64)) ∧
    (∀ xs : List Nat, js.map (fun j => readNow s s.cur.1 j.2.1 (width t / 8) j.2.2) = xs.map some →
      js.foldl (gatherLane s d.toNat t) (setVreg (me s) d.toNat t 0) = gathered (me s) d.toNat t xs ∧
      (∀ k, k < 16 → elem (vreg (gathered (me s) d.toNat t xs) d.toNat) t k = xs.getD k 0 % 2 ^ width t) ∧
      (∀ k, 16 ≤ k → k < lanes t → elem (vreg (gathered (me s) d.toNat t xs) d.toNat) t k = 0) ∧
      vtagOf (gathered (me s) d.toNat t xs) d.toNat = t)

/-- R161, R163, R164, R310, R314: a store whose registers are ready, whose access passes the checks and that may land at
once is performed, in memory, through a mapping or in the stash window; nothing else changes. Eight bytes, or the bytes of
a vector, go to the debug window where it lies. A scalar store that may not land yet waits, its registers as they were,
unless it finds no storage (R342). -/
def Obligations.StoresComplete : Prop :=
  (∀ (i : Instr) (r : StoreRow) (s : State), storeRow i = some r → Issues r.names s →
    let va := r.va s
    let pc := (me s).pc + BitVec.ofNat 64 r.len
    (∀ v, (r.n = 8 → viaWindow s va 8 watchStore = none) → Passes s va r.n true false v →
      storeReady s s.cur.1 va r.n (r.value s).toNat v = true →
      ∃ t, exec i s = .next t ∧
        Changed r.names (performStore s s.cur.1 va r.n (r.value s).toNat v) t id pc) ∧
    (∀ v, (r.n = 8 → viaWindow s va 8 watchStore = none) → Passes s va r.n true false v →
      storeReady s s.cur.1 va r.n (r.value s).toNat v = false → storeFull s s.cur.1 va r.n (r.value s).toNat v = none →
      ∃ t, exec i s = .next t ∧ Waits s t 0 (begunStage (me s))) ∧
    (∀ w, r.n = 8 → viaWindow s va 8 watchStore = some w →
      ∃ t, exec i s = .next t ∧ Changed r.names (windowWrite s w.1 w.2 8 (r.value s).toNat) t id
        ((me (windowWrite s w.1 w.2 8 (r.value s).toNat)).pc + BitVec.ofNat 64 r.len))) ∧
  (∀ (x a : F6) (b : Opnd) (s : State), Issues (vmemNames x a b) s → (∀ f, b ≠ .v f) →
    let va := eaV s a b
    let n := if vtagOf (me s) x.toNat = .mask then 8 else 64
    (∀ v, viaWindow s va n watchStore = none → Passes s va n true true v →
      ∃ t, exec (.vst x a b) s = .next t ∧
        Changed (vmemNames x a b) (performStore (countV s) s.cur.1 va n (vreg (me s) x.toNat).toNat v) t id
          ((me s).pc + 4#64)) ∧
    (∀ w, viaWindow s va n watchStore = some w →
      let u := windowWrite (countV s) w.1 w.2 n (vreg (me s) x.toNat).toNat
      ∃ t, exec (.vst x a b) s = .next t ∧ Changed (vmemNames x a b) u t id ((me u).pc + 4#64))) ∧
  (∀ (x a f : F6) (s : State) (js : List (Nat × Nat × Verdict)), Issues (vmemNames x a (.v f)) s →
    indexOk (me s) f.toNat = true → vtagOf (me s) x.toNat ≠ .mask →
    let tag := vtagOf (me s) x.toNat
    AllPass s (elementVas (me s) (valS s a) f.toNat) (width tag / 8) true js →
      ∃ t, exec (.vst x a (.v f)) s = .next t ∧
        Changed (vmemNames x a (.v f)) (js.foldl (fun u j => performStore u s.cur.1 j.2.1 (width tag / 8)
          (elem (vreg (me s) x.toNat) tag j.1) j.2.2) (countV s)) t id ((me s).pc + 4#64))

/-- R161, R165, R170: a store to the stash, through a mapping or to a page that is no ALIAS page leaves its bytes to be
read back by its core, through a mapping as dirty bytes that a fill of the line keeps, and every other byte that any
core reads, the registers of every context, and every unit but its
core as they were. -/
def Obligations.StoredBytesAndNoOthers : Prop :=
  ∀ (s : State) (va n x : Nat) (vec : Bool) (v : Verdict), n ∈ [1, 2, 4, 8, 64] → Passes s va n true vec v →
    (verdictPage v).aliased = false →
    let t := performStore s s.cur.1 va n x v
    ((∀ o p, v ≠ .mapped o p) → readNow t t.cur.1 va n v = some (x % 256 ^ n)) ∧
    (∀ o p, v = .mapped o p → stashNat (coreOf t s.cur.1) o n = x % 256 ^ n ∧
      ∃ m, mappingOf (coreOf t s.cur.1) va = some m ∧ ∀ i, i < n → o + i ∈ m.dirty) ∧
    (∀ a, canonicalVa a = true → ¬ Stored s va n v a → byteView t s.cur.1 a = byteView s s.cur.1 a) ∧
    (∀ lc a, lc ≠ s.cur.1 → byteView t lc a = byteView s lc a) ∧
    (∀ lc c, ctxOf t lc c = ctxOf s lc c) ∧ SameCores s t ∧ SameUnits s t ∧ SameModule s t

/-- R331, R332: a leaf entry names a frame of its page's alignment; a store to an ALIAS page is performed at the frame:
its bytes, and no others, change there as the page reads the frame, and no cache and no stash changes. -/
def Obligations.AliasStoresWriteTheFrame : Prop :=
  (∀ e lvl, leafOk e lvl = true → (leafPage e lvl).frame % 65536 = 0) ∧
  ∀ (s : State) (va n x : Nat) (p : Page), n ∈ [1, 2, 4, 8] → va % n = 0 → p.aliased = true → p.frame % 65536 = 0 →
    let t := performStore s s.cur.1 va n x (.page p)
    (∀ i, i < n → frameByte t p (frameOf p va + i) = BitVec.ofNat 8 (x / 256 ^ i)) ∧
    (∀ a, (a < frameOf p va ∨ frameOf p va + n ≤ a) → frameByte t p a = frameByte s p a) ∧
    t.l2 = s.l2 ∧ t.cores = s.cores ∧ SameUnits s t ∧ t.rows = s.rows ∧ t.yards = s.yards

namespace Sys2Proof.Machine

/-- The checks before those of the page pass (R158, R318): the address is aligned, canonical, in no window and unwatched,
and translates. -/
def Reaches (s : State) (lc : Nat) (x : Ctx) (va n : Nat) (write : Bool) (p : Page) : Prop :=
  va % n = 0 ∧ inWindow va = false ∧ watched x (if write then watchStore else watchLoad) va n = none ∧
    canonicalVa va = true ∧ debugWindow s lc va = none ∧ translate s (asidOf s lc) va = .ok p

/-- As Reaches, but the translation fails (R159); no earlier access of the core to the line is outstanding. -/
def Untranslated (s : State) (va n : Nat) (write : Bool) : Prop :=
  lineBusy s va = false ∧ va % n = 0 ∧ inWindow va = false ∧
    watched (me s) (if write then watchStore else watchLoad) va n = none ∧ canonicalVa va = true ∧
    debugWindow s s.cur.1 va = none ∧ ∃ e, translate s (asidOf s s.cur.1) va = .fail e

/-- A requester waits behind a record of the page of an address (R335, R336). -/
def ParkedAt (t : State) (asid va : Nat) (who : Requester) : Prop :=
  ∃ m ∈ t.records, m.kind = 1 ∧ m.asid = asid ∧ m.va / 65536 = va / 65536 ∧ ∃ w ∈ m.waiters, w.who = who

/-- What an access does whose translation fails (R159, R285, R335): it parks behind a record of the page, DSTAT.WAIT 7 and
nothing else changed; in a task that is STRICT there, its context takes LEASE_VIOLATION at the address and every other
context of the crew has it pending with sub-code 1. -/
structure Fails (s : State) (va : Nat) (r : Res) : Prop where
  parks : leaseEnds s (taskNum s.cur.1) va = false → ∃ t, r = .next t ∧ Waits s t 7 (begunStage (me s)) ∧
    ParkedAt t (asidOf s s.cur.1) va (.access s.cur.1 s.cur.2)
  ends : leaseEnds s (taskNum s.cur.1) va = true → ∃ t, r = .next t ∧ me t = frozenAt (me s) causeLease 0 ∧
    t.packets = s.packets ++
      [⟨s.cur.1, s.cur.2, packetWords s s.cur.1 s.cur.2 causeLease 0 false (BitVec.ofNat 64 va) []⟩] ∧
    (∀ lc c, taskNum lc = taskNum s.cur.1 → (ctxOf s lc c).live = true → (lc, c) ≠ s.cur →
      ∃ p ∈ (ctxOf t lc c).pend, p.cause = causeLease ∧ p.sub = 1) ∧ SameMemory s t

end Sys2Proof.Machine

/-- R158, R202, R206, R317, R318, R331: the causes of an access, in their order: MISALIGNED at an address that is no
multiple of its size; PROTECT past the stash's ways; WATCH at the watched byte; PROTECT at an address that is not
canonical; then the page: PROTECT for a store without W or to a FROZEN page, and for a vector or mapped access of an ALIAS
page; for accesses of up to eight bytes, PROTECT for a store to a header, to a reference or into a FROZEN object, ESCAPE
with the owner for an object that another task holds PRIVATE or is publishing, and POISON for a load of poison. A load or
store whose check traps takes that cause at that address before it reads or writes anything; POISON also starts its task's
rollback. An access whose translation fails parks with DSTAT.WAIT 7, or ends a task that declares a STRICT range, the
address
in no REPLAY range, with LEASE_VIOLATION (R159, R285, R335); a fetch always parks. MODEL'S CHOICE (log 43; R158, R202
silent):
poison is what the granule's tag at the frame says, or its uncorrectable error, whatever the core holds. -/
def Obligations.AccessChecksTrap : Prop :=
  (∀ (s : State) (lc : Nat) (x : Ctx) (va n : Nat) (write vec : Bool),
    (va % n ≠ 0 → judge s lc x va n write vec = .trap causeMisaligned va []) ∧
    (va % n = 0 → inWindow va = true → (coreOf s lc).ways * 32768 < va - windowBase + n →
      judge s lc x va n write vec = .trap causeProtect va []) ∧
    (∀ a, va % n = 0 → inWindow va = false → watched x (if write then watchStore else watchLoad) va n = some a →
      judge s lc x va n write vec = .trap causeWatch a []) ∧
    (va % n = 0 → inWindow va = false → watched x (if write then watchStore else watchLoad) va n = none →
      canonicalVa va = false → judge s lc x va n write vec = .trap causeProtect va []) ∧
    (∀ p, Reaches s lc x va n write p →
      (write = true ∧ (p.w = false ∨ p.attr = attrFrozen)) ∨
        ((vec = true ∨ (mappingOf (coreOf s lc) va).isSome = true) ∧ p.aliased = true) →
      judge s lc x va n write vec = .trap causeProtect va [])) ∧
  (∀ (s : State) (lc : Nat) (x : Ctx) (va n : Nat) (p : Page), n ∈ [1, 2, 4, 8] →
    (mappingOf (coreOf s lc) va = none ∨ p.aliased = false) →
    let g := va / 8 * 8
    let tag := granTag s (frameOf p g)
    let frozen := ∃ o, p.attr ≠ attrPlain ∧ objectOf s p (frameOf p g) = some o ∧ o.state = objFrozen
    let foreign := fun (o : Obj) => p.attr ≠ attrPlain ∧ objectOf s p (frameOf p g) = some o ∧
      (o.state = objPrivate ∨ o.state = objPublishing) ∧ o.owner ≠ taskNum lc
    (Reaches s lc x va n true p → p.w = true → p.attr ≠ attrFrozen → tag = tagHeader ∨ tag = tagReference ∨ frozen →
      judge s lc x va n true false = .trap causeProtect va []) ∧
    (∀ o, Reaches s lc x va n true p → p.w = true → p.attr ≠ attrFrozen → tag ≠ tagHeader → tag ≠ tagReference →
      foreign o → judge s lc x va n true false = .trap causeEscape g [word o.owner]) ∧
    (∀ o, Reaches s lc x va n false p → foreign o →
      judge s lc x va n false false = .trap causeEscape g [word o.owner]) ∧
    (Reaches s lc x va n false p → tag = tagPoison ∨ isFaulty s (frameOf p g) = true → (∀ o, ¬ foreign o) →
      judge s lc x va n false false = .trap causePoison va [])) ∧
  (∀ (i : Instr) (r : LoadRow) (s : State) (cause a : Nat) (l : List Word), loadRow i = some r → Issues r.names s →
    (lineBusy s (r.va s) && !inWindow (r.va s)) = false → viaWindow s (r.va s) r.n watchLoad = none →
    judge s s.cur.1 (me s) (r.va s) r.n false false = .trap cause a l →
    ∃ t, Trapped s t cause 0 (word a) (if cause = causeEscape then l else []) ∧
      exec i s = .next (if cause = causePoison then poisonMet t (taskNum s.cur.1) else t)) ∧
  (∀ (i : Instr) (r : StoreRow) (s : State) (cause a : Nat) (l : List Word), storeRow i = some r → Issues r.names s →
    (lineBusy s (r.va s) && !inWindow (r.va s)) = false → viaWindow s (r.va s) r.n watchStore = none →
    judge s s.cur.1 (me s) (r.va s) r.n true false = .trap cause a l → cause ≠ causePoison →
    ∃ t, exec i s = .next t ∧ Trapped s t cause 0 (word a) (if cause = causeEscape then l else [])) ∧
  (∀ (s : State) (task : Nat) (t : Task), taskOf s task = some t → t.stage = .placed →
    (taskOf (poisonMet s task) task).map (·.rolling) = some true) ∧
  (∀ (s : State) (task va : Nat) (t : Task), taskOf s task = some t →
    (leaseEnds s task va = true ↔ (∃ g ∈ t.ranges, g.replay = false) ∧
      ¬ ∃ g ∈ t.ranges, g.replay = true ∧ g.base ≤ va ∧ va < g.base + g.len)) ∧
  (∀ (i : Instr) (r : LoadRow) (s : State), loadRow i = some r → Issues r.names s →
    Untranslated s (r.va s) r.n false → Fails s (r.va s) (exec i s)) ∧
  (∀ (i : Instr) (r : StoreRow) (s : State), storeRow i = some r → Issues r.names s →
    Untranslated s (r.va s) r.n true → Fails s (r.va s) (exec i s)) ∧
  (∀ (i : Instr) (r : VecLoadRow) (s : State), vecLoadRow i = some r → Issues r.names s →
    Untranslated s (r.va s) (if r.tag = .mask then 8 else 64) false → Fails s (r.va s) (exec i s)) ∧
  (∀ (x a : F6) (b : Opnd) (s : State), Issues (vmemNames x a b) s → (∀ f, b ≠ .v f) →
    Untranslated s (eaV s a b) (if vtagOf (me s) x.toNat = .mask then 8 else 64) true →
    Fails s (eaV s a b) (exec (.vst x a b) s)) ∧
  (∀ (s : State) (lc c va : Nat) (e : Word), runnable s lc c = true → deliverable (ctxOf s lc c) = false →
    (ctxOf s lc c).fence = false → fetchWord { s with cur := (lc, c) } lc (ctxOf s lc c).pc.toNat = .parks va e →
    ∃ t, turnContext lc c s = .next t ∧ ctxOf t lc c = { ctxOf s lc c with wait := 7 } ∧
      ParkedAt t (asidOf s lc) va (.fetch lc c) ∧ SameMemory s t)

namespace Sys2Proof.Machine

/-- The tag that a form of TDEF gives its tile, the tile, the address and the size (R55, R176). -/
def tdefRow : Instr → Option (Tag × F6 × F6 × Opnd)
  | .tdefRaw t a b => some (.raw, t, a, b)
  | .tdefI8 t a b => some (.i8, t, a, b)
  | .tdefI16 t a b => some (.i16, t, a, b)
  | .tdefI32 t a b => some (.i32, t, a, b)
  | .tdefN8 t a b => some (.n8, t, a, b)
  | .tdefN16 t a b => some (.n16, t, a, b)
  | .tdefN32 t a b => some (.n32, t, a, b)
  | .tdefFp16 t a b => some (.fp16, t, a, b)
  | .tdefBf16 t a b => some (.bf16, t, a, b)
  | .tdefFp32 t a b => some (.fp32, t, a, b)
  | .tdefDm8 t a b => some (.dm8, t, a, b)
  | .tdefMask t a b => some (.mask, t, a, b)
  | _ => none

/-- What TDEF, TFREE and SMAP name. -/
def tdefNames (a : F6) (b : Opnd) : Names := ⟨[.s a, b], none, [], []⟩
def smapNames (o a : F6) (b : Opnd) : Names := ⟨[.s o, .s a, b], none, [], []⟩

/-- The ranges a … a + n − 1 and b … b + m − 1 have a byte in common. -/
def Meet (a n b m : Nat) : Prop := a < b + m ∧ b < a + n

/-- A tile's range meets the n bytes from o on. -/
def TileMeets (t : Tile) (o n : Nat) : Prop := t.size ≠ 0 ∧ Meet (t.base * 64) t.size o n

/-- The core with one more mapping; its own lines of the range have left its first-level cache. -/
def withMap (s : State) (m : Mapping) : State :=
  modCore (dropRange s s.cur.1 m.addr m.len) s.cur.1 (fun c => { c with maps := c.maps ++ [m] })

/-- The stash side of SMAP's conditions (R170): the range lies in the stash, on no mapping and no tile, and an entry is
free. -/
def StashFree (c : LCore) (vo n : Nat) : Prop :=
  inWindow vo = true ∧ vo - windowBase + n ≤ c.ways * 32768 ∧ c.maps.length < 16 ∧
    (∀ m ∈ c.maps, ¬ Meet m.off m.len (vo - windowBase) n) ∧ ∀ e ∈ c.tiles, ¬ TileMeets e.2 (vo - windowBase) n

/-- The global side: no mapping of the core and not the stash window. -/
def GlobalFree (c : LCore) (va n : Nat) : Prop := (∀ m ∈ c.maps, ¬ Meet m.addr m.len va n) ∧ va + n ≤ windowBase

/-- A page that SMAP may map, and one that it may not. -/
def PageMaps (s : State) (x : Nat) : Prop :=
  canonicalVa x = true ∧ debugWindow s s.cur.1 x = none ∧
    ∃ p, translate s (asidOf s s.cur.1) x = .ok p ∧ p.aliased = false ∧ p.attr ≠ attrObject
def PageDenies (s : State) (x : Nat) : Prop :=
  canonicalVa x = false ∨ debugWindow s s.cur.1 x ≠ none ∨
    ∃ p, translate s (asidOf s s.cur.1) x = .ok p ∧ (p.aliased = true ∨ p.attr = attrObject)

end Sys2Proof.Machine

/-- R166, R167, R258, R259: a fence whose release is complete completes; an acquire at YARD or beyond drops the clean
shared bytes of the core's lines, keeps of its mappings' clean lines those of FROZEN pages, and drops, from PKG on, the
clean shared bytes of the lines of the die's second-level cache; LD.acq reads its eight bytes and acquires, waiting for
them when the core does not hold them; ST.rel stores once its release is complete, sends its own bytes on to the point of
coherence of the scope and completes when they are acknowledged; a release with dirty bytes sends them once and waits at
its word; while bytes of the core are on their way to the other point of coherence it sends none. MODEL'S CHOICES: LD.acq is
performed at once on bytes that the core holds and awaited else (log 10, DEDUCED); a release sends each dirty line once and
completes on the acknowledgements, and waits for bytes that cross it (log 12, DEDUCED); which granules of a mapping's clean
lines an acquire keeps, those of FROZEN pages alone, is log 14's reading. -/
def Obligations.FencesAcquireAndRelease : Prop :=
  (∀ (scope : F6) (s : State), ReleaseComplete s scope.toNat false → ∃ t, exec (.fence scope) s = .next t ∧
    Changed noNames (acquire s s.cur.1 scope.toNat) t id ((me s).pc + 4#64)) ∧
  (∀ (scope : F6) (s : State), accessesDone (me s) = true → ∃ t, exec (.fenceAcq scope) s = .next t ∧
    Changed noNames (acquire s s.cur.1 scope.toNat) t id ((me s).pc + 4#64)) ∧
  (∀ (scope : F6) (s : State), ReleaseComplete s scope.toNat false → ∃ t, exec (.fenceRel scope) s = .next t ∧
    Changed noNames s t id ((me s).pc + 4#64)) ∧
  (∀ (scope : F6) (s : State), accessesDone (me s) = true → writesOut s s.cur.1 s.cur.2 = false →
    (me s).stage ≠ .released →
    (releaseWrites s s.cur.1 s.cur.2 scope.toNat false ≠ [] → crossing s s.cur.1 (scopeDest scope.toNat) = false →
      ∃ t, exec (.fenceRel scope) s = .next t ∧ Waits s t 0 .released ∧
        t.writes = s.writes ++ releaseWrites s s.cur.1 s.cur.2 scope.toNat false) ∧
    (scope.toNat ≠ 0 → crossing s s.cur.1 (scopeDest scope.toNat) = true →
      ∃ t, exec (.fenceRel scope) s = .next t ∧ Waits s t 0 (begunStage (me s)) ∧ t.writes = s.writes)) ∧
  (∀ (d a scope : F6) (s : State) (v : Verdict) (b : Nat), Issues (memNames d a) s → (me s).stage ≠ .sent →
    Passes s (valS s a).toNat 8 false false v → readNow s s.cur.1 (valS s a).toNat 8 v = some b →
    ∃ t, exec (.ldAcq d a scope) s = .next t ∧
      Changed (memNames d a) (acquire s s.cur.1 scope.toNat) t (fun x => setSreg x d.toNat (word b)) ((me s).pc + 4#64)) ∧
  (∀ (d a scope : F6) (s : State) (v : Verdict), Issues (memNames d a) s → (me s).stage ≠ .sent →
    Passes s (valS s a).toNat 8 false false v → readNow s s.cur.1 (valS s a).toNat 8 v = none →
    ∃ t, exec (.ldAcq d a scope) s = .next t ∧
      Waits (modMe s (awaiting · ⟨false, d.toNat, .raw, 8, false, (valS s a).toNat, verdictPage v, none, issueTick s⟩)) t 0
        .sent) ∧
  (∀ (d a scope : F6) (s : State), Issues (memNames d a) s → (me s).stage = .sent →
    (∀ l ∈ (me s).loads, l.addr / 128 ≠ (valS s a).toNat / 128) →
    ∃ t, exec (.ldAcq d a scope) s = .next t ∧
      Changed (memNames d a) (acquire s s.cur.1 scope.toNat) t id ((me s).pc + 4#64)) ∧
  (∀ (x a scope : F6) (s : State) (v : Verdict), Issues (memNames x a) s → (me s).stage ≠ .sent →
    Passes s (valS s a).toNat 8 true false v → ReleaseComplete s scope.toNat false →
    storeReady s s.cur.1 (valS s a).toNat 8 (valS s x).toNat v = true →
    let u := performStore s s.cur.1 (valS s a).toNat 8 (valS s x).toNat v
    let ws := throughWrites u scope.toNat (valS s a).toNat v
    let crosses := scope.toNat ≠ 0 ∧ crossing s s.cur.1 (scopeDest scope.toNat) = true
    (crosses → ∃ t, exec (.stRel x a scope) s = .next t ∧ Waits s t 0 (begunStage (me s)) ∧ t.writes = s.writes) ∧
    (¬ crosses → ws = [] →
      ∃ t, exec (.stRel x a scope) s = .next t ∧ Changed (memNames x a) u t id ((me s).pc + 4#64)) ∧
    (¬ crosses → ws ≠ [] → ∃ t, exec (.stRel x a scope) s = .next t ∧ Waits u t 0 .sent ∧ t.writes = s.writes ++ ws)) ∧
  (∀ (x a scope : F6) (s : State), Issues (memNames x a) s → (me s).stage = .sent →
    (writesOut s s.cur.1 s.cur.2 = false →
      ∃ t, exec (.stRel x a scope) s = .next t ∧ Changed (memNames x a) s t id ((me s).pc + 4#64)) ∧
    (writesOut s s.cur.1 s.cur.2 = true → ∃ t, exec (.stRel x a scope) s = .next t ∧ Waits s t 0 .sent)) ∧
  (∀ (s : State) (scope va : Nat) (v : Verdict) (p : Page),
    throughWrites s 0 va v = [] ∧ throughWrites s scope va (.window (va - windowBase)) = [] ∧
    (p.aliased = true → throughWrites s scope va (.page p) = []) ∧
    (p.aliased = false → 1 ≤ scope → va % 8 = 0 → granBytes ((look (myCore s).l1
        (lineKey (asidOf s s.cur.1) va)).getD (emptyLine p)).priv = 0 → throughWrites s scope va (.page p) =
      [⟨s.cur.1, s.cur.2, if scope < 3 then .l2 else .msc, none, lineKey (asidOf s s.cur.1) va, spanMask (va % 128) 8,
        none⟩])) ∧
  (∀ (s : State) (lc : Nat), acquire s lc 0 = s) ∧
  (∀ (s : State) (lc scope key : Nat) (l : Line), 1 ≤ scope → look (coreOf s lc).l1 key = some l →
    look (coreOf (acquire s lc scope) lc).l1 key = some { l with valid := l.valid &&& (dirtyMask l ||| granBytes l.priv) }) ∧
  (∀ (s : State) (lc scope : Nat), 1 ≤ scope → ∀ m ∈ (coreOf (acquire s lc scope) lc).maps, ∀ i ∈ m.filled,
    ∃ p, translate s (asidOf s lc) (m.addr + i) = .ok p ∧ p.attr = attrFrozen) ∧
  (∀ (s : State) (lc scope key : Nat) (l : Line), look s.l2 key = some l →
    look (acquire s lc scope).l2 key = some (if 3 ≤ scope ∧ l2Die key = coreDie s lc then
      { l with valid := l.valid &&& (dirtyMask l ||| granBytes l.priv) } else l))

/-- R168 to R171: RESIZE, once nothing in the ways it changes is moving, read or dirty, gives the stash min(a, 14) ways,
or min(a, 7) in a foldable task, and its destination that number; bytes of ways kept stay and all others read zero, no
mapping or tile has a byte in the ways removed, and the first-level cache keeps no more lines than the other ways hold;
else it waits, and while the mappings that it takes have dirty lines it sends their writes first. SMAP adds a mapping of
an aligned
range; MODEL'S CHOICE (log 43; 08 R170 is silent): the core's lines of the range leave its first-level cache then. It
traps with MISALIGNED,
or with PROTECT where the stash is not free, another mapping or the window overlaps the range, or a page is an ALIAS or
OBJECT page, not canonical or of the debug window. SUNMAP removes the mapping that begins at its address once its lines are
clean, sends their dirty bytes first, and traps with PROTECT when there is none. -/
def Obligations.StashWaysAndMappings : Prop :=
  (∀ (d : F6) (a : Opnd) (s : State), Issues ⟨[a], some d.toNat, [], []⟩ s → otherResize s = false →
    let n := min (valB s a).toNat (if foldable s s.cur.1 then 7 else 14)
    let w := (myCore s).ways
    let busy := resizeBusy s s.cur.1 (min n w) (max n w) (decide (n < w)) || writesOut s s.cur.1 s.cur.2
    (busy = false → (∀ m ∈ mapsInWays (myCore s) n w, unmapWrites s s.cur.1 s.cur.2 m = []) →
      ∃ t, exec (.resize d a) s = .next t ∧ (myCore t).maps = (myCore s).maps.filter (fun m => !meetsWays m.off m.len n w) ∧
        Wrote ⟨[a], some d.toNat, [], []⟩
          (modCore (trimL1 s s.cur.1 ((16 - n) * 256)) s.cur.1 (fun c => resized c n)) t (BitVec.ofNat 64 n)
          ((me s).pc + 4#64)) ∧
    (busy = false → (∃ m ∈ mapsInWays (myCore s) n w, unmapWrites s s.cur.1 s.cur.2 m ≠ []) →
      ∃ t, exec (.resize d a) s = .next t ∧ Waits s t 0 .sent ∧
        (myCore t).resizing = some (s.cur.2, min n w, max n w) ∧
        t.writes = s.writes ++ (mapsInWays (myCore s) n w).flatMap (unmapWrites s s.cur.1 s.cur.2)) ∧
    (busy = true → ∃ t, exec (.resize d a) s = .next t ∧ Waits s t 0 .sent ∧ t.writes = s.writes ∧
      (myCore t).resizing = some (s.cur.2, min n w, max n w))) ∧
  (∀ (c : LCore) (n o : Nat), (resized c n).ways = n ∧
    stashByte (resized c n) o = (if o < min n c.ways * 32768 then stashByte c o else 0#8) ∧
    (n < c.ways → (∀ m ∈ (resized c n).maps, m.len ≠ 0 → m.off + m.len ≤ n * 32768 ∨ c.ways * 32768 ≤ m.off) ∧
      ∀ e ∈ (resized c n).tiles, e.2.size ≠ 0 → e.2.base * 64 + e.2.size ≤ n * 32768 ∨ c.ways * 32768 ≤ e.2.base * 64)) ∧
  (∀ (s : State) (lc cap : Nat), (coreOf (trimL1 s lc cap) lc).l1.length ≤ cap ∧
    ((coreOf s lc).l1.length ≤ cap → trimL1 s lc cap = s)) ∧
  (∀ (o a : F6) (b : Opnd) (s : State), Issues (smapNames o a b) s →
    let vo := (valS s o).toNat
    let va := (valS s a).toNat
    let n := (valB s b).toNat
    (vo % 128 ≠ 0 → ∃ t, exec (.smap o a b) s = .next t ∧ Trapped s t causeMisaligned 0 (word vo) []) ∧
    (vo % 128 = 0 → (va % 128 ≠ 0 ∨ n % 128 ≠ 0 ∨ n = 0) →
      ∃ t, exec (.smap o a b) s = .next t ∧ Trapped s t causeMisaligned 0 (word va) []) ∧
    (vo % 128 = 0 → va % 128 = 0 → n % 128 = 0 → n ≠ 0 →
      (¬ StashFree (myCore s) vo n → ∃ t, exec (.smap o a b) s = .next t ∧ Trapped s t causeProtect 0 (word vo) []) ∧
      (StashFree (myCore s) vo n → ¬ GlobalFree (myCore s) va n →
        ∃ t, exec (.smap o a b) s = .next t ∧ Trapped s t causeProtect 0 (word va) []) ∧
      (∀ before x after, StashFree (myCore s) vo n → GlobalFree (myCore s) va n →
        pagesOf va n = before ++ x :: after → (∀ y ∈ before, PageMaps s y) → PageDenies s x →
        ∃ t, exec (.smap o a b) s = .next t ∧ Trapped s t causeProtect 0 (word x) []) ∧
      (StashFree (myCore s) vo n → GlobalFree (myCore s) va n → (∀ x ∈ pagesOf va n, PageMaps s x) →
        ∃ t, exec (.smap o a b) s = .next t ∧ (myCore t).maps = (myCore s).maps ++ [⟨vo - windowBase, va, n, [], []⟩] ∧
          Wrote (smapNames o a b) (withMap s ⟨vo - windowBase, va, n, [], []⟩) t 0#64 ((me s).pc + 4#64)))) ∧
  (∀ (s : State) (lc va n key : Nat),
    look (coreOf (dropRange s lc va n) lc).l1 key = if lineKey (asidOf s lc) va ≤ key ∧
      key < lineKey (asidOf s lc) va + n / 128 then none else look (coreOf s lc).l1 key) ∧
  (∀ (va n x : Nat), va % 128 = 0 → n ≠ 0 → va ≤ x → x < va + n → ∃ y ∈ pagesOf va n, y / 65536 = x / 65536) ∧
  (∀ (o : F6) (s : State), Issues ⟨[.s o], none, [], []⟩ s →
    (mapAt (myCore s) (valS s o).toNat = none →
      ∃ t, exec (.sunmap o) s = .next t ∧ Trapped s t causeProtect 0 (valS s o) []) ∧
    (∀ m, mapAt (myCore s) (valS s o).toNat = some m → accessesDone (me s) = true →
      writesOut s s.cur.1 s.cur.2 = false →
      (unmapWrites s s.cur.1 s.cur.2 m = [] →
        ∃ t, exec (.sunmap o) s = .next t ∧ (myCore t).maps = (myCore s).maps.filter (fun k => k.off != m.off) ∧
          Wrote ⟨[.s o], none, [], []⟩ (modCore s s.cur.1 (fun c =>
            { c with maps := c.maps.filter (fun k => k.off != m.off) })) t 0#64 ((me s).pc + 4#64)) ∧
      (unmapWrites s s.cur.1 s.cur.2 m ≠ [] →
        ∃ t, exec (.sunmap o) s = .next t ∧ Waits s t 0 .sent ∧
          t.writes = s.writes ++ unmapWrites s s.cur.1 s.cur.2 m)))

/-- R172, R176, R177: TDEF gives its entry the base, the size, its tag, READY and a full watermark; a moving tile traps
with TILE_STATE, a range outside the stash, misplaced, empty or overlapping with PROTECT. TSTAT gives the entry's word,
TWAIT completes unless the tile moves, and waits else; TFREE resets the entry, and traps with TILE_STATE while it moves. -/
def Obligations.TilesDefinedAndFreed : Prop :=
  (∀ (i : Instr) (tag : Tag) (k a : F6) (b : Opnd) (s : State), tdefRow i = some (tag, k, a, b) → Issues (tdefNames a b) s →
    let va := (valS s a).toNat
    let n := (valB s b).toNat
    let o := va - windowBase
    (moving (tileOf (myCore s) k.toNat) = true → ∃ t, exec i s = .next t ∧ Trapped s t causeTile 0 0#64 []) ∧
    (moving (tileOf (myCore s) k.toNat) = false →
      (inWindow va = false ∨ o % 64 ≠ 0 ∨ n = 0 ∨ (myCore s).ways * 32768 < o + n ∨
        (∃ e ∈ (myCore s).tiles, e.1 ≠ k.toNat ∧ TileMeets e.2 o n) ∨ (∃ m ∈ (myCore s).maps, Meet m.off m.len o n)) →
      ∃ t, exec i s = .next t ∧ Trapped s t causeProtect 0 (valS s a) []) ∧
    (moving (tileOf (myCore s) k.toNat) = false → inWindow va = true → o % 64 = 0 → n ≠ 0 →
      o + n ≤ (myCore s).ways * 32768 → (∀ e ∈ (myCore s).tiles, e.1 = k.toNat ∨ ¬ TileMeets e.2 o n) →
      (∀ m ∈ (myCore s).maps, ¬ Meet m.off m.len o n) →
      ∃ t, exec i s = .next t ∧
        Wrote (tdefNames a b) (modCore s s.cur.1 (fun c => setTile c k.toNat ⟨n, n, o / 64, tag, .ready⟩)) t 0#64
          ((me s).pc + 4#64))) ∧
  (∀ (d k : F6) (s : State), Issues ⟨[], some d.toNat, [], []⟩ s → ∃ t, exec (.tstat d k) s = .next t ∧
    Wrote ⟨[], some d.toNat, [], []⟩ s t (tileWord (tileOf (myCore s) k.toNat)) ((me s).pc + 4#64)) ∧
  (∀ (t : Tile), t.wm < 2 ^ 20 → t.size < 2 ^ 20 → t.base < 2 ^ 13 →
    bits (tileWord t) 63 44 = t.wm ∧ bits (tileWord t) 43 24 = t.size ∧ bits (tileWord t) 23 11 = t.base ∧
      bits (tileWord t) 10 7 = t.tag.code ∧ bits (tileWord t) 6 2 = 0 ∧ bits (tileWord t) 1 0 = t.state.code) ∧
  (∀ (k : F6) (s : State),
    (moving (tileOf (myCore s) k.toNat) = false →
      (∃ t, exec (.twait k) s = .next t ∧ Wrote noNames s t 0#64 ((me s).pc + 4#64)) ∧
      ∃ t, exec (.tfree k) s = .next t ∧
        Wrote noNames (modCore s s.cur.1 (fun c => setTile c k.toNat Tile.reset)) t 0#64 ((me s).pc + 4#64)) ∧
    (moving (tileOf (myCore s) k.toNat) = true →
      (∃ t, exec (.twait k) s = .next t ∧ Waits s t 4 (me s).stage) ∧
      ∃ t, exec (.tfree k) s = .next t ∧ Trapped s t causeTile 0 0#64 []))

namespace Sys2Proof.Machine

/-- The operation of a form, whether it is of fp32, and its operands (R180, R184). -/
def offerRow : Instr → Option (OfferOp × Bool × F6 × F2 × F6 × Opnd)
  | .ofrAdd d y a b => some (.add, false, d, y, a, b)
  | .ofrFma d y a b => some (.fma, false, d, y, a, b)
  | .ofrMin d y a b => some (.min, false, d, y, a, b)
  | .ofrMax d y a b => some (.max, false, d, y, a, b)
  | .ofrAnd d y a b => some (.and, false, d, y, a, b)
  | .ofrOr d y a b => some (.or, false, d, y, a, b)
  | .ofrXchg d y a b => some (.xchg, false, d, y, a, b)
  | .ofrCas d y a b => some (.cas, false, d, y, a, b)
  | .ofrAddF32 d y a b => some (.add, true, d, y, a, b)
  | .ofrFmaF32 d y a b => some (.fma, true, d, y, a, b)
  | .ofrMinF32 d y a b => some (.min, true, d, y, a, b)
  | .ofrMaxF32 d y a b => some (.max, true, d, y, a, b)
  | _ => none

/-- Does yN report a declined offer with a hold (R185)? -/
def holdsEntry (x : Ctx) (y : F2) : Bool := bits (yreg x y.toNat) 1 0 == 1 && bits (yreg x y.toNat) 15 8 != 0

/-- An access of n bytes at va, aligned to al, that no check of an offer or settle stops (R182, R193, R318). -/
structure OfferAddress (s : State) (va n al : Nat) : Prop where
  aligned : va % al = 0
  outside : inWindow va = false
  unwatched : watched (me s) watchOffer va n = none
  unmapped : mappingOf (myCore s) va = none
  memory : debugWindow s s.cur.1 va = none

/-- The context once an offer has left it: yN awaited, its generator kept in yN's copy, its destination awaited. -/
def offeredCtx (sh : Shape) (d : F6) (y : F2) (g : Word) (x : Ctx) : Ctx :=
  let z := if holdsEntry x y then setYreg x y.toNat (replyWord 3 0 0 0) else x
  let w := { z with srg := g, ysg := setD 0#64 z.ysg y.toNat x.srg, ypend := y.toNat :: z.ypend }
  if sh = .vector then { w with vpend := d.toNat :: w.vpend }
  else { w with spend := if d.toNat = 0 then w.spend else d.toNat :: w.spend }

/-- The random draws of an offer, and the generator after them (R183). -/
def offerDraws (op : OfferOp) (f32 : Bool) (b : Opnd) (x : Ctx) : List Nat × Word :=
  let t : Tag := match b with
    | .v f => vtagOf x f.toNat
    | _ => if f32 then .fp32 else .raw
  if offerRounds op (offerShape f32 b) t then drawBits x.fmode x.srg (shapeLanes (offerShape f32 b) t) else ([], x.srg)

/-- The state once a line has left the current core and its die: its dirty bytes, if there are any, written at the MSC,
where they can be written now (R183, R352, R392). An address that is not canonical names no line (R327). -/
def lineGone (s : State) (va : Nat) : Option State :=
  let key := lineKey (asidOf s s.cur.1) va
  if canonicalVa va = false then some s
  else if lineWrites s s.cur.1 s.cur.2 key = [] then some (dropLine s s.cur.1 key)
  else match translate s (asidOf s s.cur.1) va with
    | .ok _ => match flushAll s (lineWrites s s.cur.1 s.cur.2 key) with
      | (t, none) => some (dropLine t s.cur.1 key)
      | _ => none
    | .fail _ => none

/-- No second-level line of a die holds bytes of a line. -/
def NoneInDie (s : State) (die key : Nat) : Prop := ∀ k, l2Die k = die → l2Line k = key → look s.l2 k = none

/-- Lane i of what an offer of shape f32 or vector computes (R184): integers modulo 2^width; floats the exact result of
finite operands, rounded once with the random bits it travels with. -/
def OfferLanes (o : Offer) (old : Vec) (i : Nat) : Prop :=
  let r := offerResult o old
  let t := o.tag
  let x := elem old t i
  let y := elem o.b t i
  let z := elem o.b2 t i
  let code := fun (v : Val) (bits : Nat) => (enc o.fm v t (fmodeRM o.fm) bits).1
  (isInt t = true →
    (o.op = .add → elem r.new t i = (x + y) % 2 ^ width t) ∧
    (o.op = .fma → elem r.new t i = (y * z + x) % 2 ^ width t) ∧
    (o.op = .min → elem r.new t i = if laneInt t y < laneInt t x then y else x) ∧
    (o.op = .max → elem r.new t i = if laneInt t x < laneInt t y then y else x) ∧ r.flags = noFlags) ∧
  (isFloat t = true → ∀ (n m l : Bool) (p q u : Rat), laneVal o.fm t old i = .fin n p →
    laneVal o.fm t o.b i = .fin m q → laneVal o.fm t o.b2 i = .fin l u →
    (o.op = .add → p + q ≠ 0 → elem r.new t i = code (nonzero (p + q)) (o.r.getD i 0)) ∧
    (o.op = .fma → q * u + p ≠ 0 → elem r.new t i = code (nonzero (q * u + p)) (o.r.getD i 0)) ∧
    (o.op = .min → p < q → elem r.new t i = code (.fin n p) 0) ∧
    (o.op = .min → q < p → elem r.new t i = code (.fin m q) 0) ∧
    (o.op = .max → p < q → elem r.new t i = code (.fin m q) 0) ∧
    (o.op = .max → q < p → elem r.new t i = code (.fin n p) 0))

/-- The line of an address takes d in the bytes m (R166, R193, R331): in the MSC, or in its frame and in the MSC line
that holds it, if one does. -/
def LineTakes (s t : State) (key : Nat) (p : Page) (through : Bool) (d : BitVec 1024) (m : BitVec 128) : Prop :=
  let a := frameOf p (keyVa key)
  (p.aliased = false → through = false →
    pocLine t key p = mergeLine (pocLine (mscFill s key p).1 key p) d m ∧ t.mem = s.mem) ∧
  (p.aliased = true ∨ through = true → pageLine t p a = mergeLine (pageLine s p a) d m ∧
    ∀ l, look s.msc key = some l → frameOf l.page (keyVa key) = a →
      look t.msc key = some { l with data := mergeLine l.data d m })

/-- A granule lies in an object, in a page that has objects, that satisfies a condition (R203, R206). -/
def InObject (s : State) (p : Page) (g : Nat) (f : Obj → Prop) : Prop :=
  p.attr ≠ attrPlain ∧ ∃ o, objectOf s p (frameOf p g) = some o ∧ f o

/-- R188's conditions after HELD and QFULL in the table's order, with their codes. -/
def declineTable (s : State) (m : Nat) (o : Offer) (p : Page) : List (Nat × Bool) :=
  let k := stackOf s (m / 4)
  let h := halfOf s (offerKey o)
  [(5, k.throttled && millCycle s % 4 != 0), (9, k.asleep), (2, tierOf p.frame != 0),
    (6, p.key != 0 && p.key % 16 != m / 4),
    (7, p.cmp && !(getD [] k.dicts (o.asid / 1024 - 1)).contains (cmpGenOf s p)), (8, h.h0 != .i || h.h1 != .i),
    (3, o.tag == .dm8 && o.shape != .scalar && (o.op == .add || o.op == .fma))]

/-- What a mill finds of an offer whose page p is known (R188, R190, R191, R195): the faults in their order, the wait for a
publication of the own task, then the first reason of the table. -/
structure OfferJudged (s : State) (m : Nat) (o : Offer) (p : Page) : Prop where
  denied : ∀ g, (p.w = false ∨ p.attr = attrFrozen ∨ (g ∈ granulesOf o.addr (shapeBytes o.shape) ∧
      (granTag s (frameOf p g) = 1 ∨ granTag s (frameOf p g) = 2 ∨ InObject s p g (fun b => b.state = 3)))) →
    answerOffer s m o = .faults 33
  allowed : p.w = true → p.attr ≠ attrFrozen → (∀ g ∈ granulesOf o.addr (shapeBytes o.shape),
      granTag s (frameOf p g) ≠ 1 ∧ granTag s (frameOf p g) ≠ 2 ∧ ¬ InObject s p g (fun b => b.state = 3)) →
    let gs := granulesOf o.addr (shapeBytes o.shape)
    let foreign := fun g => InObject s p g (fun b => (b.state = 0 ∨ b.state = 1) ∧ b.owner ≠ o.task)
    let own := fun g => InObject s p g (fun b => b.state = 1 ∧ b.owner = o.task)
    ((∃ g ∈ gs, foreign g) → (∀ g ∈ gs, ¬ own g) → answerOffer s m o = .faults 34) ∧
    ((∃ g ∈ gs, own g) → (∀ g ∈ gs, ¬ foreign g) → answerOffer s m o = .waits) ∧
    ((∀ g ∈ gs, ¬ foreign g ∧ ¬ own g) →
      ((∃ g ∈ gs, granTag s (frameOf p g) = 3 ∨ isFaulty s (frameOf p g) = true) → answerOffer s m o = .faults 35) ∧
      ((∀ g ∈ gs, granTag s (frameOf p g) ≠ 3 ∧ isFaulty s (frameOf p g) = false) →
        (∀ e, holdOn (millOf s m) (offerKey o) = some e →
          answerOffer s m o = if o.prio || e.2.prio then .waits else .declines 4) ∧
        (holdOn (millOf s m) (offerKey o) = none →
          (tableFull (millOf s m) = true → o.prio = false → answerOffer s m o = .declines 1) ∧
          (tableFull (millOf s m) = false →
            (∀ r, (declineTable s m o p).find? (·.2) = some r →
              halfBlocks s (offerKey o) (accessMask o.addr (shapeBytes o.shape)) false = false →
              answerOffer s m o = .holds r.1 p) ∧
            ((declineTable s m o p).find? (·.2) = none → p.cmp = false → answerOffer s m o = .executes p)))))

/-- Every mill but m is the same. -/
def SameMills (s t : State) (m : Nat) : Prop := ∀ k, k ≠ m → millOf t k = millOf s k

end Sys2Proof.Machine

/-- R180 to R183, R193, R194: an offer whose registers are ready and whose address no check stops goes to its mill once
its line has left the caches, and the context goes on with yN and the destination awaited; it waits while the host's hold
keeps the line's dirty bytes from the MSC, or a REFST of its core to the line is on its way; a misaligned offer traps with
MISALIGNED, one of the stash window, of a range mapped into the stash or of the debug window with PROTECT, and so does
SETL. SETL
sends the settle of the hold yN reports, its line first leaving the caches where the core or its die has a held byte dirty
(log 43), or reports LOST at once when there is none; RLS sends the release of that hold and awaits its reply, or leaves
LOST at
once. Both wait while a reply to yN is outstanding, with DSTAT.WAIT 8, or 7 while its request is parked (R335). A line
that has left is in neither the core's nor its die's cache, and the MSC has what was
dirty. -/
def Obligations.OffersAndSettlesIssue : Prop :=
  (∀ (i : Instr) (op : OfferOp) (f32 : Bool) (d : F6) (y : F2) (a : F6) (b : Opnd) (s w : State),
    offerRow i = some (op, f32, d, y, a, b) → Issues (offerNames op d a b) s → offerTags op b (me s) = true →
    y.toNat ∉ (me s).ypend →
    let va := (valS s a).toNat
    let n := shapeBytes (offerShape f32 b)
    OfferAddress s va n n → coreLoadBusy s s.cur.1 va = false → refstOut s s.cur.1 va = false → lineGone s va = some w →
    (∃ t o, exec i s = .next t ∧
      Changed (offerNames op d a b) w t (offeredCtx (offerShape f32 b) d y (offerDraws op f32 b (me w)).2)
        ((me w).pc + 4#64) ∧
      t.flights = (sendRelease w y.toNat va).flights ++ [.offer o] ∧ o.lc = w.cur.1 ∧ o.ctx = w.cur.2 ∧
      o.y = y.toNat ∧ o.dst = d.toNat ∧ o.op = op ∧ o.shape = offerShape f32 b ∧ o.addr = va ∧
      o.asid = asidOf w w.cur.1 ∧ o.task = taskNum w.cur.1 ∧ o.b = offerVal w o.shape b ∧
      o.r = (offerDraws op f32 b (me w)).1)) ∧
  (∀ (i : Instr) (op : OfferOp) (f32 : Bool) (d : F6) (y : F2) (a : F6) (b : Opnd) (s : State),
    offerRow i = some (op, f32, d, y, a, b) → Issues (offerNames op d a b) s → offerTags op b (me s) = true →
    y.toNat ∉ (me s).ypend →
    let va := (valS s a).toNat
    let n := shapeBytes (offerShape f32 b)
    let ws := lineWrites s s.cur.1 s.cur.2 (lineKey (asidOf s s.cur.1) va)
    (va % n ≠ 0 → ∃ t, exec i s = .next t ∧ Trapped s t causeMisaligned 0 (valS s a) []) ∧
    (va % n = 0 → inWindow va = true → ∃ t, exec i s = .next t ∧ Trapped s t causeProtect 0 (valS s a) []) ∧
    (va % n = 0 → watched (me s) watchOffer va n = none →
      mappingOf (myCore s) va ≠ none ∨ debugWindow s s.cur.1 va ≠ none →
      ∃ t, exec i s = .next t ∧ Trapped s t causeProtect 0 (valS s a) []) ∧
    (OfferAddress s va n n → coreLoadBusy s s.cur.1 va = false → refstOut s s.cur.1 va = true →
      ∃ t, exec i s = .next t ∧ HeldBack s t (lineWait s va)) ∧
    (∀ p u x, OfferAddress s va n n → coreLoadBusy s s.cur.1 va = false → refstOut s s.cur.1 va = false → canonicalVa va = true → ws ≠ [] →
      translate s (asidOf s s.cur.1) va = .ok p → flushAll s ws = (u, some x) → landFull u x p = false →
      ∃ t, exec i s = .next t ∧ Waits u t 0 (begunStage (me u)))) ∧
  (∀ (s w : State) (va : Nat), canonicalVa va = true → lineGone s va = some w →
    let key := lineKey (asidOf s s.cur.1) va
    look (myCore w).l1 key = none ∧ NoneInDie w (coreDie s s.cur.1) key ∧
      ∀ x p, lineWrites s s.cur.1 s.cur.2 key = [x] → translate s (keyAsid key) (keyVa key) = .ok p → p.aliased = false →
        let l := outLine s x default
        pocLine w key p = mergeLine (pocLine (mscFill s key p).1 key p) l.data (dirtyMask l)) ∧
  (∀ (y : F2) (a : F6) (b : Opnd) (s : State), Issues ⟨[b], none, [a.toNat], []⟩ s → y.toNat ∉ (me s).ypend →
    let va := (valS s a).toNat
    OfferAddress s va (settleBytes va b) 4 →
    (∀ w, holdsEntry (me s) y = true → loadBusy (me s) va = false → refstOut s s.cur.1 va = false →
      (if settleCleans s y va b then lineGone s va else some s) = some w →
      ∃ t r, exec (.setl y a b) s = .next t ∧
      Changed ⟨[b], none, [a.toNat], []⟩ w t (fun x => { x with ypend := y.toNat :: x.ypend }) ((me w).pc + 4#64) ∧
      t.flights = w.flights ++ [.settle r] ∧ r.lc = s.cur.1 ∧ r.ctx = s.cur.2 ∧ r.y = y.toNat ∧
      r.hold = bits (yreg (me s) y.toNat) 15 8 ∧ r.mill = bits (yreg (me s) y.toNat) 21 16 ∧ r.addr = va ∧
      r.data = some (offerVal s r.shape b)) ∧
    (holdsEntry (me s) y = false → ∃ t, exec (.setl y a b) s = .next t ∧ t.flights = s.flights ∧
      Changed ⟨[b], none, [a.toNat], []⟩ s t (fun x => countLost (setYreg x y.toNat (replyWord 3 0 0 0)) (word va))
        ((me s).pc + 4#64))) ∧
  (∀ (y : F2) (a : F6) (b : Opnd) (s : State), Issues ⟨[b], none, [a.toNat], []⟩ s → y.toNat ∉ (me s).ypend →
    let va := (valS s a).toNat
    va % 4 = 0 → (inWindow va = true ∨ (watched (me s) watchOffer va (settleBytes va b) = none ∧
      (mappingOf (myCore s) va ≠ none ∨ debugWindow s s.cur.1 va ≠ none))) →
    ∃ t, exec (.setl y a b) s = .next t ∧ Trapped s t causeProtect 0 (valS s a) []) ∧
  (∀ (y : F2) (a : F6) (s : State), Issues ⟨[], none, [a.toNat], []⟩ s → y.toNat ∉ (me s).ypend →
    let va := (valS s a).toNat
    (inWindow va = true ∨ watched (me s) watchOffer va 4 = none) →
    (holdsEntry (me s) y = true → ∃ t r, exec (.rls y a) s = .next t ∧ t.flights = s.flights ++ [.settle r] ∧
      Changed ⟨[], none, [a.toNat], []⟩ s t (fun x => { x with ypend := y.toNat :: x.ypend }) ((me s).pc + 4#64) ∧
      r.lc = s.cur.1 ∧ r.ctx = s.cur.2 ∧ r.y = y.toNat ∧ r.hold = bits (yreg (me s) y.toNat) 15 8 ∧
      r.mill = bits (yreg (me s) y.toNat) 21 16 ∧ r.data = none ∧ r.answered = true) ∧
    (holdsEntry (me s) y = false → ∃ t, exec (.rls y a) s = .next t ∧ t.flights = s.flights ∧
      Changed ⟨[], none, [a.toNat], []⟩ s t (fun x => setYreg x y.toNat (replyWord 3 0 0 0)) ((me s).pc + 4#64))) ∧
  (∀ (y : F2) (a : F6) (b : Opnd) (s : State), y.toNat ∈ (me s).ypend →
    (Issues ⟨[b], none, [a.toNat], []⟩ s →
      ∃ t, exec (.setl y a b) s = .next t ∧ HeldBack s t (replyWait s y.toNat 8)) ∧
    (Issues ⟨[], none, [a.toNat], []⟩ s →
      ∃ t, exec (.rls y a) s = .next t ∧ HeldBack s t (replyWait s y.toNat 8)))

/-- R179, R184, R188, R189, R192 to R195: what the mills do. An offer that arrives in its turn enters its home mill's
queue, which takes one in a mill cycle, or is declined with QFULL when 32 wait there; a priority offer enters one of
four slots. A mill executes the
offer it takes, its line taking the operation's result, faults it, or declines it with a hold or without. What each
operation computes, scalar and by lanes. A settle that names a live hold at its address writes the line and ends it, and
is LOST else, MISMATCH and its hold ended where its address or shape differs; a release ends it, and that of an RLS is
answered
with LOST, which counts for nothing in OFRST; neither is taken before an earlier offer of its context to the line
(R197). A reply
writes yN, and lands the returned value of an offer. A hold ends at its age limit; a slice that sleeps ends every hold.
An offer that waits
behind no other is faulted as R190's conditions say in their order, then declined by the first reason of R188's table. After
an executed offer its core holds no older clean copy of the line (R199). -/
def Obligations.MillsAnswer : Prop :=
  (∀ (idx : Nat) (o : Offer) (s : State), s.flights[idx]? = some (.offer o) → inTurn s idx (.offer o) = true →
    let m := homeMill s o.addr o.asid
    (o.prio = false → (millOf s m).queue.length < 32 → (millOf s m).accepted ≠ some (millCycle s) →
      ∃ t, exec (.offerArrival idx) s = .next t ∧ (millOf t m).accepted = some (millCycle t) ∧
      t.flights = s.flights.eraseIdx idx ∧ (millOf t m).queue = (millOf s m).queue ++ [{ o with turn := (millOf s m).arrivals + 1 }] ∧ SameMills s t m ∧
      t.cores = s.cores) ∧
    (o.prio = false → (millOf s m).queue.length < 32 → (millOf s m).accepted = some (millCycle s) →
      exec (.offerArrival idx) s = .next s) ∧
    (o.prio = false → 32 ≤ (millOf s m).queue.length → ∃ t, exec (.offerArrival idx) s = .next t ∧
      t.flights = s.flights.eraseIdx idx ∧ t.mills = s.mills ∧ t.replies = s.replies ++ [bareReply o 1 1]) ∧
    (o.prio = true → (millOf s m).slots.length < 4 → ownQueued s m o = false →
      ∃ t n, exec (.priorityOfferArrival idx) s = .next t ∧
      t.flights = s.flights.eraseIdx idx ∧ (millOf t m).slots = (millOf s m).slots ++ [{ o with turn := n }] ∧
      SameMills s t m ∧ t.cores = s.cores ∧
      ((holdOn (millOf s m) (offerKey o)).isSome = true → n = 0) ∧
      (holdOn (millOf s m) (offerKey o) = none → n = (millOf s m).arrivals + 1))) ∧
  (∀ (m i : Nat) (prio : Bool) (o : Offer) (s : State),
    let l := if prio then (millOf s m).slots else (millOf s m).queue
    firstTakable s m l = some i → l[i]? = some o →
    let took := modMill s m (fun q => if prio then { q with slots := q.slots.eraseIdx i }
      else { q with queue := q.queue.eraseIdx i })
    (∀ p, answerOffer s m o = .executes p → ∃ t r, exec (.millTakeOffer m prio) s = .next t ∧
      t.replies = s.replies ++ [r] ∧ r.kind = 0 ∧ r.reason = 0 ∧ r.hold = 0 ∧ r.writes = true ∧
      r.data = (offerResult o (oldOperand took o p)).ret ∧ (∀ lc c, ctxOf t lc c = ctxOf s lc c) ∧
      (look s.l2 (l2Key (coreDie s o.lc) (offerKey o)) = none → look s.l2 (l2Own (coreDie s o.lc) o.lc (offerKey o)) = none →
        ∀ l, look (coreOf t o.lc).l1 (offerKey o) = some l → ∀ i, i < 128 → inMask l.valid i = true →
          inMask (dirtyMask l) i = false → lineByte l.data i = lineByte (pocLine t (offerKey o) p) i) ∧
      ((offerResult o (oldOperand took o p)).writes = true → LineTakes took t (offerKey o) p false
        (natLine (offerResult o (oldOperand took o p)).new.toNat (o.addr % 128) (shapeBytes o.shape))
        (accessMask o.addr (shapeBytes o.shape))) ∧
      ((offerResult o (oldOperand took o p)).writes = false →
        t.mem = s.mem ∧ pocLine t (offerKey o) p = pocLine (readOperand took m o p) (offerKey o) p)) ∧
    (∀ c, answerOffer s m o = .faults c → ∃ t, exec (.millTakeOffer m prio) s = .next t ∧ t.mills = took.mills ∧
      t.replies = s.replies ++ [bareReply o 2 c] ∧ t.mem = s.mem ∧ t.msc = s.msc ∧
      (c = 35 → ∀ q, taskOf s o.task = some q → q.stage = .placed →
        (taskOf t o.task).map (·.rolling) = some true)) ∧
    (∀ c, answerOffer s m o = .declines c → ∃ t, exec (.millTakeOffer m prio) s = .next t ∧ t.mills = took.mills ∧
      t.replies = s.replies ++ [bareReply o 1 c] ∧ t.mem = s.mem ∧ t.msc = s.msc ∧ t.cores = s.cores) ∧
    (∀ c p, answerOffer s m o = .holds c p → ∃ t r, exec (.millTakeOffer m prio) s = .next t ∧
      t.replies = s.replies ++ [r] ∧ r.kind = 1 ∧ r.reason = c ∧ r.mill = m ∧ r.data = oldOperand took o p ∧
      look (millOf t m).holds r.hold =
        some ⟨o.lc, o.ctx, o.y, o.task, o.addr, o.asid, o.shape, o.prio, c, millCycle s, p⟩)) ∧
  (∀ (old : Vec) (o : Offer), let r := offerResult o old
    (o.op = .xchg → r.new = o.b ∧ r.ret = old ∧ r.writes = true) ∧
    (o.op = .cas → r.ret = old ∧ r.writes = decide (old = o.b) ∧ (old = o.b → r.new = o.b2)) ∧
    (o.op = .and → r.new = old &&& o.b ∧ r.ret = r.new ∧ r.writes = true) ∧
    (o.op = .or → r.new = old ||| o.b ∧ r.ret = r.new ∧ r.writes = true) ∧
    (o.op = .add → o.shape = .scalar → r.new.setWidth 64 = old.setWidth 64 + o.b.setWidth 64 ∧ r.ret = r.new) ∧
    (o.op = .fma → o.shape = .scalar →
      r.new.setWidth 64 = o.b.setWidth 64 * o.b2.setWidth 64 + old.setWidth 64 ∧ r.ret = r.new) ∧
    (o.op = .min → o.shape = .scalar → r.new.setWidth 64 =
      if (o.b.setWidth 64).slt (old.setWidth 64) then o.b.setWidth 64 else old.setWidth 64) ∧
    (o.op = .max → o.shape = .scalar → r.new.setWidth 64 =
      if (old.setWidth 64).slt (o.b.setWidth 64) then o.b.setWidth 64 else old.setWidth 64) ∧
    (o.op ∈ [.add, .fma, .min, .max] → r.ret = r.new ∧ r.writes = true ∧
      (o.shape ≠ .scalar → isArith o.tag = true → ∀ i, i < shapeLanes o.shape o.tag → OfferLanes o old i))) ∧
  (∀ (idx : Nat) (r : Settle) (b : Vec) (s : State), s.flights[idx]? = some (.settle r) → r.data = some b →
    inTurn s idx (.settle r) = true → offerAhead s r.mill (reqKey s (.settle r)) = false →
    ownOfferBefore s r.mill r.lc r.ctx (reqKey s (.settle r)) = false → isParked s (.settle r.lc r.ctx r.y) = false →
    (namedHold s r = none → ∃ t a, exec (.settleArrival idx) s = .next t ∧ t.replies = s.replies ++ [a] ∧ a.kind = 3 ∧
      a.reason = getD 0 (millOf s r.mill).ended (ownerKey r.lc r.ctx r.y) ∧ t.mem = s.mem ∧ t.msc = s.msc) ∧
    (∀ h, namedHold s r = some h → r.addr ≠ h.addr ∨ shapeAgrees h.shape r.shape = false →
      ∃ t a, exec (.settleArrival idx) s = .next t ∧ t.replies = s.replies ++ [a] ∧ a.kind = 3 ∧ a.reason = 14 ∧
        a.settle = true ∧ look (millOf t r.mill).holds r.hold = none ∧ t.mem = s.mem ∧ t.msc = s.msc) ∧
    (∀ h p, namedHold s r = some h → r.addr = h.addr → shapeAgrees h.shape r.shape = true →
      translate s r.asid r.addr = .ok p →
      let n := shapeBytes h.shape
      let key := lineKey r.asid r.addr
      settleBlocked s h key (accessMask r.addr n) = false →
      cmpRoom s p (frameOf p (keyVa key))
        (mergeLine (pocLine s key p) (natLine b.toNat (r.addr % 128) n) (accessMask r.addr n)) = true →
      ∃ t a, exec (.settleArrival idx) s = .next t ∧ t.replies = s.replies ++ [a] ∧ a.kind = 0 ∧ a.settle = true ∧
        look (millOf t r.mill).holds r.hold = none ∧ t.flights = s.flights.eraseIdx idx ∧
        LineTakes s t key p (h.reason == 2 || h.reason == 9) (natLine b.toNat (r.addr % 128) n) (accessMask r.addr n))) ∧
  (∀ (idx : Nat) (r : Settle) (h : Hold) (s : State), s.flights[idx]? = some (.settle r) → r.data = none →
    inTurn s idx (.settle r) = true → offerAhead s r.mill (holdKey h) = false →
    ownOfferBefore s r.mill r.lc r.ctx (holdKey h) = false → isParked s (.settle r.lc r.ctx r.y) = false →
    namedHold s r = some h → (∃ p, translate s h.asid h.addr = .ok p) →
    ∃ t, exec (.releaseArrival idx) s = .next t ∧ look (millOf t r.mill).holds r.hold = none ∧
      t.flights = s.flights.eraseIdx idx ∧ SameMills s t r.mill ∧
      (r.answered = false → t.replies = s.replies) ∧
      (r.answered = true → ∃ a, t.replies = s.replies ++ [a] ∧ a.lc = r.lc ∧ a.ctx = r.ctx ∧ a.y = r.y ∧ a.kind = 3 ∧
        a.reason = 0 ∧ a.hold = 0 ∧ a.mill = 0 ∧ a.settle = true ∧ a.release = true ∧ a.writes = false)) ∧
  (∀ (idx : Nat) (r : Settle) (s : State) (o : Offer), s.flights[idx]? = some (.settle r) →
    o ∈ (millOf s r.mill).queue ++ (millOf s r.mill).slots → o.lc = r.lc → o.ctx = r.ctx →
    offerKey o = reqKey s (.settle r) →
    exec (.settleArrival idx) s = .next s ∧ exec (.releaseArrival idx) s = .next s) ∧
  (∀ (idx : Nat) (r : Reply) (s : State), s.replies[idx]? = some r → (standsOn s r.lc).isSome = true →
    (ctxOf s r.lc r.ctx).live = true →
    ∃ t, exec (if r.settle then .settleReply idx else .offerReply idx) s = .next t ∧
      t.replies = s.replies.eraseIdx idx ∧ ctxOf t r.lc r.ctx = landReply (ctxOf s r.lc r.ctx) r ∧
      yreg (ctxOf t r.lc r.ctx) r.y = replyWord r.kind r.reason r.hold r.mill ∧
      (r.release = true → r.settle = true → r.kind = 3 → (ctxOf t r.lc r.ctx).ofrst = (ctxOf s r.lc r.ctx).ofrst) ∧
      ∀ lc c, (lc, c) ≠ (r.lc, r.ctx) → ctxOf t lc c = ctxOf s lc c) ∧
  (∀ (m e : Nat) (h : Hold) (s : State), look (millOf s m).holds e = some h →
    h.since + (if h.prio then 4096 else 1024) ≤ millCycle s →
    ∃ t, exec (.holdAgeExpiry m e) s = .next t ∧ look (millOf t m).holds e = none ∧
      getD 0 (millOf t m).ended (ownerKey h.lc h.ctx h.y) = 13 ∧ SameMills s t m) ∧
  (∀ (k : Nat) (s : State), prioHoldLives s k = false →
    ((stackOf s k).asleep = false → (stackOf s k).skipped = false →
      ∃ t, exec (.sliceRetentionEntry k) s = .next t ∧ (stackOf t k).asleep = true ∧
        ∀ m ∈ millsOf k, (millOf t m).holds = []) ∧
    ((stackOf s k).asleep = true → ∃ t, exec (.sliceWake k) s = .next t ∧ (stackOf t k).asleep = false ∧
      ∀ m ∈ millsOf k, ∀ e ∈ (millOf t m).holds, e.2.reason ≠ 9)) ∧
  (∀ (s : State) (m : Nat) (o : Offer), isParked s (.offer o.lc o.ctx o.y) = false → takenBefore s m o = false →
    (canonicalVa o.addr = false → answerOffer s m o = .faults 33) ∧
    (canonicalVa o.addr = true →
      (∀ e, translate s o.asid o.addr = .fail e →
        answerOffer s m o = if leaseEnds s o.task o.addr then .lease else .parks e) ∧
      ∀ p, translate s o.asid o.addr = .ok p → OfferJudged s m o p)) ∧
  (∀ h b : Shape, shapeAgrees h b = true ↔ (h = .scalar → b = .scalar) ∧ (h = .vector → b = .vector))

namespace Sys2Proof.Machine

/-- The checks of REFST before those of the page of g pass (R209, R318): g is aligned, canonical, unwatched, in no window
and no mapping, and translates. -/
def RefstReaches (s : State) (g : Nat) (page : Page) : Prop :=
  g % 8 = 0 ∧ inWindow g = false ∧ watched (me s) watchStore g 8 = none ∧ mappingOf (myCore s) g = none ∧
    canonicalVa g = true ∧ debugWindow s s.cur.1 g = none ∧ translate s (asidOf s s.cur.1) g = .ok page

/-- A granule is free (R203). -/
def FreeGranule (s : State) (page : Page) (a : Nat) : Prop :=
  page.attr = attrObject ∧ granTag s a = 0 ∧ objectOf s page a = none

/-- A granule of REFST's that is neither free, header nor poison, and that R206 lets the own task write. -/
def RefstWritable (s : State) (g : Nat) (page : Page) : Prop :=
  ¬ FreeGranule s page (frameOf page g) ∧ granTag s (frameOf page g) ≠ 2 ∧ granTag s (frameOf page g) ≠ 3 ∧
    ∀ o, objectOf s page (frameOf page g) = some o → o.state ≠ 3 ∧ (page.attr = attrPlain ∨ o.state = 2 ∨
      (o.state = 0 ∧ o.owner = taskNum s.cur.1))

/-- g lies in a PRIVATE object of the own task. -/
def InOwnPrivate (s : State) (g : Nat) (page : Page) : Prop :=
  ∃ o, objectOf s page (frameOf page g) = some o ∧ o.state = 0 ∧ o.owner = taskNum s.cur.1

/-- What REFST does once g translates (R209, R309): its checks, carving, freeing and storing, in the order of the rule; the
detail of a PROTECT or ESCAPE is p and whether the check concerns p. -/
structure RefstRules (s : State) (g p : Nat) (page : Page) : Prop where
  denies : page.attr = attrFrozen ∨ page.w = false → refstPlan s g p = .traps causeProtect g [word p, 0#64]
  follows : page.attr ≠ attrFrozen → page.w = true → ∀ ws, refstsMeeting s (frameOf page g) 8 = ws → ws ≠ [] →
    refstPlan s g p = .follows ws
  carving : page.attr ≠ attrFrozen → page.w = true → refstsMeeting s (frameOf page g) 8 = [] →
    FreeGranule s page (frameOf page g) →
    let n := p % 2 ^ 24
    (n = 0 ∨ pageSize page < g % pageSize page + 8 * n ∨ (∃ k, k < n ∧ granTag s (frameOf page g + 8 * k) ≠ 0) →
      refstPlan s g p = .traps causeProtect g [word p, 0#64]) ∧
    (n ≠ 0 → g % pageSize page + 8 * n ≤ pageSize page →
      (∀ e ∈ s.gtags, e.1 < frameOf page g / 8 ∨ frameOf page g / 8 + n ≤ e.1) →
      (refstsMeeting s (frameOf page g) (8 * n) = [] → refstPlan s g p = .carves page n) ∧
      ∀ ws, refstsMeeting s (frameOf page g) (8 * n) = ws → ws ≠ [] → refstPlan s g p = .follows ws)
  header : page.attr ≠ attrFrozen → page.w = true → refstsMeeting s (frameOf page g) 8 = [] → granTag s (frameOf page g) = 2 →
    let o := objAt s page (frameOf page g)
    let frees := p = 0 ∧ o.state = 0 ∧ o.owner = taskNum s.cur.1
    (¬ frees → refstPlan s g p = .traps causeProtect g [word p, 0#64]) ∧
    (frees → refstsMeeting s (frameOf page g) (8 * o.len) = [] → refstPlan s g p = .frees page o) ∧
    (frees → ∀ ws, refstsMeeting s (frameOf page g) (8 * o.len) = ws → ws ≠ [] → refstPlan s g p = .follows ws)
  poison : page.attr ≠ attrFrozen → page.w = true → refstsMeeting s (frameOf page g) 8 = [] → granTag s (frameOf page g) = 3 →
    refstPlan s g p = .traps causePoison g []
  object : page.attr ≠ attrFrozen → page.w = true → refstsMeeting s (frameOf page g) 8 = [] → granTag s (frameOf page g) ≠ 2 → granTag s (frameOf page g) ≠ 3 →
    ∀ o, objectOf s page (frameOf page g) = some o →
      (o.state = 3 → refstPlan s g p = .traps causeProtect g [word p, 0#64]) ∧
      (page.attr ≠ attrPlain → (o.state = 0 ∨ o.state = 1) → o.owner ≠ taskNum s.cur.1 →
        refstPlan s g p = .traps causeEscape g [word p, 0#64]) ∧
      (page.attr ≠ attrPlain → o.state = 1 → o.owner = taskNum s.cur.1 → refstPlan s g p = .waits)
  target : page.attr ≠ attrFrozen → page.w = true → refstsMeeting s (frameOf page g) 8 = [] → RefstWritable s g page →
    (p = 0 → refstPlan s g p = .stores page) ∧
    (p ≠ 0 → canonicalVa p = false ∨ inWindow p = true ∨ p % 8 ≠ 0 →
      refstPlan s g p = .traps causeProtect g [word p, 1#64]) ∧
    (p ≠ 0 → canonicalVa p = true → inWindow p = false → p % 8 = 0 →
      (∀ e, translate s (asidOf s s.cur.1) p = .fail e → refstPlan s g p = .parksP e) ∧
      (∀ q, translate s (asidOf s s.cur.1) p = .ok q → headerHeld s (asidOf s s.cur.1) p = false →
        let o := objAt s q (frameOf q p)
        let isHeader := granTag s (frameOf q p) = 2 ∧ q.attr ≠ attrPlain
        (∀ ws, refstsMeeting s (frameOf q p) 8 = ws → ws ≠ [] → refstPlan s g p = .follows ws) ∧
        (refstsMeeting s (frameOf q p) 8 = [] →
        (¬ isHeader → refstPlan s g p = .traps causeProtect g [word p, 1#64]) ∧
        (isHeader → (o.state = 0 ∨ o.state = 1) → o.owner ≠ taskNum s.cur.1 →
          refstPlan s g p = .traps causeEscape g [word p, 1#64]) ∧
        (isHeader → o.owner = taskNum s.cur.1 → ¬ InOwnPrivate s g page → o.state = 0 →
          refstPlan s g p = .traps causeEscape g [word p, 1#64]) ∧
        (isHeader → o.owner = taskNum s.cur.1 → ¬ InOwnPrivate s g page → o.state = 1 → refstPlan s g p = .waits) ∧
        (isHeader → 2 ≤ o.state ∨ (o.owner = taskNum s.cur.1 ∧ InOwnPrivate s g page) →
          refstPlan s g p = .stores page))))

/-- What a REFST that goes on does at its issue (R167, R209, R392): its write leaves for the MSC, and its context goes
on. -/
def RefstSent (x a : F6) (s u : State) (i : Instr) (g : Nat) (page : Page) (w : Word) (k : RefstKind) : Prop :=
  ∃ t, exec i s = .next t ∧ t.writes = s.writes ++
      [⟨s.cur.1, s.cur.2, .msc, none, lineKey (asidOf s s.cur.1) g, accessMask g 8, some ⟨g, page, w, k⟩⟩] ∧
    Changed (refstNames x a) u t id ((me s).pc + 4#64)

/-- What the write of a REFST does at the MSC, d the state once its core's and its die's lines have left (R209, R392):
the granule
and its tag, or the tags of an object that is freed. -/
def RefstLanded (d t : State) (w : WriteReq) (r : RefstReq) : Prop :=
  let taken := LineTakes d t w.key r.page false (natLine r.word.toNat (r.addr % 128) 8) (accessMask r.addr 8) ∧
    NoneInDie t (coreDie d w.lc) w.key
  look (coreOf t w.lc).l1 w.key = none ∧ match r.kind with
  | .carve _ => granTag t (frameOf r.page r.addr) = 2 ∧ taken ∧
    ∀ q, taskOf d (taskNum w.lc) = some q → (taskOf t (taskNum w.lc)).map (·.log) = some q.log
  | .store => granTag t (frameOf r.page r.addr) = 1 ∧ taken
  | .free => (∀ k, frameOf r.page r.addr / 8 ≤ k → k < frameOf r.page r.addr / 8 + bits r.word 23 0 → granTag t (8 * k) = 0) ∧
    ∀ k l, l2Die k = coreDie d w.lc → l2Line k = w.key → look t.l2 k = some l → l.valid &&& ~~~dirtyMask l = 0

/-- No cached line of a task keeps an object as private or dirty data, and no second-level cache a byte of it (R214,
R216). -/
def Reclassed (t : State) (q : Task) (o len : Nat) : Prop :=
  (∀ k l, look t.l2 k = some l → keyAsid (l2Line k) = q.asid → l.valid &&& objectBytes (keyVa (l2Line k)) o len = 0) ∧
  ∀ lc k l, taskNum lc = q.num → keyAsid k = q.asid → look (coreOf t lc).l1 k = some l →
    dirtyMask l &&& objectBytes (keyVa k) o len = 0 ∧ l.priv &&& objectGranules (keyVa k) o len = 0

end Sys2Proof.Machine

/-- R204, R208 to R215: REFLD reads a reference, and traps with POISON where its granule holds an uncorrectable error; REFST
carves, frees or stores as its checks find: its write leaves for the MSC, .rel after its release, and at its
acknowledgement the
line first leaves the core and its die, its dirty bytes written at the MSC, then the granule and its tag are written
there (R392,
R395); PUB sends its root to the dispatcher and awaits the identifier, which the
dispatcher gives in order; PUBW completes once its walk is no longer outstanding, and reports its fault; a walk starts at
its root, is done at once when that is PUBLISHED, ends with PROTECT at a root that is no header and with ESCAPE at another
task's, arrives at PRIVATE objects, whose headers read PUBLISHING before their dirty bytes are written and their lines
reclassed, goes on past granules that hold no reference and leaves objects PUBLISHED. What
REFST finds is pinned to R209's checks. MODEL'S CHOICES: REFLD is performed at its issue exactly when the core holds the
bytes
(log 10, DEDUCED); a REFST's write, carving or freeing is done at the MSC in the one step of its acknowledgement, before
which
REFSTs, PUB and walks that concern the same granules wait (log 13, DEDUCED), a carving lands after the loads of other
tasks that
meet it, and a freeing evicts the lines that cores hold of the object as PRIVATE (log 43). -/
def Obligations.ReferencesAndWalks : Prop :=
  (∀ (d a : F6) (s : State) (v : Verdict), Issues (refldNames d a) s →
    let va := (valS s a).toNat
    lineBusy s va = false → judgeRefld s va = v → allowed v = true →
    (∀ b, readNow s s.cur.1 va 8 v = some b → ∃ t, exec (.refld d a) s = .next t ∧
      Changed (refldNames d a) s t (fun x => setSreg x d.toNat (word b)) ((me s).pc + 4#64)) ∧
    (readNow s s.cur.1 va 8 v = none → ∃ t, exec (.refld d a) s = .next t ∧
      Changed (refldNames d a) s t (awaiting · ⟨false, d.toNat, .raw, 8, false, va, verdictPage v, none, issueTick s⟩)
        ((me s).pc + 4#64)) ∧
    (∀ (scope : F6) b, (me s).stage ≠ .sent → readNow s s.cur.1 va 8 v = some b →
      ∃ t, exec (.refldAcq d a scope) s = .next t ∧
        Changed (refldNames d a) (acquire s s.cur.1 scope.toNat) t (fun x => setSreg x d.toNat (word b))
          ((me s).pc + 4#64)) ∧
    (∀ (scope : F6), (me s).stage ≠ .sent → readNow s s.cur.1 va 8 v = none →
      ∃ t, exec (.refldAcq d a scope) s = .next t ∧
        Waits (sendLoad s ⟨false, d.toNat, .raw, 8, false, va, verdictPage v, none, issueTick s⟩) t 0 .sent)) ∧
  (∀ (d a scope : F6) (s : State), Issues (refldNames d a) s → (me s).stage = .sent →
    loadBusy (me s) (valS s a).toNat = false → ∃ t, exec (.refldAcq d a scope) s = .next t ∧
      Changed (refldNames d a) (acquire s s.cur.1 scope.toNat) t id ((me s).pc + 4#64)) ∧
  (∀ (s : State) (va : Nat) (p : Page), va % 8 = 0 → inWindow va = false → watched (me s) watchLoad va 8 = none →
    canonicalVa va = true → debugWindow s s.cur.1 va = none → translate s (asidOf s s.cur.1) va = .ok p →
    (granTag s (frameOf p va) ≠ 1 → judgeRefld s va = .trap causeProtect va []) ∧
    (granTag s (frameOf p va) = 1 → ownerRule s (taskNum s.cur.1) p false va = none → isFaulty s (frameOf p va) = true →
      judgeRefld s va = .trap causePoison va [])) ∧
  (∀ (x a : F6) (s : State), Issues (refstNames x a) s →
    let g := (valS s a).toNat
    let p := (valS s x).toNat
    let asid := asidOf s s.cur.1
    lineBusy s g = false →
    ∀ (i : Instr), (i = .refst x a ∨ ∃ scope : F6, i = .refstRel x a scope ∧ ReleaseComplete s scope.toNat false) →
    (∀ page n, refstPlan s g p = .carves page n →
      RefstSent x a s s i g page (carvedHeader (taskNum s.cur.1) n p) (.carve n)) ∧
    (∀ page o, refstPlan s g p = .frees page o → RefstSent x a s s i g page o.head .free) ∧
    (∀ page, refstPlan s g p = .stores page →
      RefstSent x a s (if p = 0 then s else headerRead s asid p) i g page (word p) .store) ∧
    (refstPlan s g p = .waits → ∃ t, exec i s = .next t ∧ Waits s t 0 (begunStage (me s))) ∧
    (∀ ws, refstPlan s g p = .follows ws → ∃ t, exec i s = .next t ∧ Waits s t (followWait s ws) (begunStage (me s))) ∧
    (∀ cause addr l, refstPlan s g p = .traps cause addr l → cause ≠ causePoison →
      ∃ t, exec i s = .next t ∧ Trapped (if l.getD 1 0#64 = 1#64 ∧ p % 8 = 0 ∧ inWindow p = false then
        headerRead s asid p else s) t cause 0 (word addr) l)) ∧
  (∀ (idx : Nat) (w : WriteReq) (r : RefstReq) (s : State), s.writes[idx]? = some w → w.refst = some r →
    (firstOfLine s idx w.key = false ∨ isParked s (.refst w.lc w.ctx w.key) = true ∨ carveWaits s w r = true →
      exec (.writeAcknowledgement idx) s = .next s) ∧
    (firstOfLine s idx w.key = true → isParked s (.write w.lc w.ctx w.key) = false →
      isParked s (.refst w.lc w.ctx w.key) = false → carveWaits s w r = false →
      ∀ u, landAll r.page s (lineWrites s w.lc w.ctx w.key) = (u, none) →
      let d := dropLine u w.lc w.key
      (granuleReady d (keyAsid w.key) r.addr r.page r.word = true →
        ∃ t, exec (.writeAcknowledgement idx) s = .next t ∧ t.writes = s.writes.eraseIdx idx ∧ RefstLanded d t w r ∧
          ∀ lc c, ctxOf t lc c = ctxOf s lc c) ∧
      (granuleReady d (keyAsid w.key) r.addr r.page r.word = false →
        granuleFull d (keyAsid w.key) r.addr r.page r.word = false → exec (.writeAcknowledgement idx) s = .next d))) ∧
  (∀ (s : State) (g p : Nat),
    (g % 8 ≠ 0 → refstPlan s g p = .traps causeMisaligned g []) ∧
    (g % 8 = 0 → inWindow g = true → refstPlan s g p = .traps causeProtect g [word p, 0#64]) ∧
    (g % 8 = 0 → inWindow g = false → watched (me s) watchStore g 8 = none → (mappingOf (myCore s) g).isSome = true →
      refstPlan s g p = .traps causeProtect g [word p, 0#64]) ∧
    ∀ page, RefstReaches s g page → RefstRules s g p page) ∧
  (∀ h st sc, st < 4 → sc < 4 →
    bits (headerState h st sc) 45 44 = st ∧ bits (headerState h st sc) 47 46 = sc ∧
      bits (headerState h st sc) 43 0 = bits h 43 0 ∧ bits (headerState h st sc) 63 48 = bits h 63 48) ∧
  (∀ task n p, task < 2 ^ 20 → n < 2 ^ 24 →
    bits (carvedHeader task n p) 23 0 = n ∧ bits (carvedHeader task n p) 43 24 = task ∧
      bits (carvedHeader task n p) 47 44 = 0 ∧ bits (carvedHeader task n p) 63 48 = p / 2 ^ 48 % 2 ^ 16) ∧
  (∀ (d a scope : F6) (s : State), Issues ⟨[], none, [d.toNat, a.toNat], []⟩ s →
    let va := (valS s a).toNat
    (va % 8 ≠ 0 → ∃ t, exec (.pub d a scope) s = .next t ∧ Trapped s t causeMisaligned 0 (valS s a) []) ∧
    (va % 8 = 0 → inWindow va = true → ∃ t, exec (.pub d a scope) s = .next t ∧ Trapped s t causeProtect 0 (valS s a) []) ∧
    (va % 8 = 0 → inWindow va = false → (me s).ypend ≠ [] ∨ writesOut s s.cur.1 s.cur.2 = true →
      ∃ t, exec (.pub d a scope) s = .next t ∧
      Waits s t (repliesWait s 0) (begunStage (me s))) ∧
    (va % 8 = 0 → inWindow va = false → (me s).ypend = [] → writesOut s s.cur.1 s.cur.2 = false →
      ∃ t, exec (.pub d a scope) s = .next t ∧
      t.pubs = s.pubs ++ [⟨s.cur.1, s.cur.2, d.toNat, va, scope.toNat, taskNum s.cur.1⟩] ∧
      Changed ⟨[], none, [d.toNat, a.toNat], []⟩ s t (fun x => pendScalar x d.toNat) ((me s).pc + 4#64))) ∧
  (∀ (a : F6) (s : State), Issues ⟨[], none, [a.toNat], []⟩ s →
    let w := (valS s a).toNat % 65536
    (walkOutstanding s (taskNum s.cur.1) w = true →
      ∃ t, exec (.pubw a) s = .next t ∧ Waits s t 0 (begunStage (me s))) ∧
    (walkOutstanding s (taskNum s.cur.1) w = false → (∀ f ∈ (me s).walkFaults, f.walk ≠ w) →
      ∃ t, exec (.pubw a) s = .next t ∧ Changed ⟨[], none, [a.toNat], []⟩ s t id ((me s).pc + 4#64)) ∧
    (∀ f, walkOutstanding s (taskNum s.cur.1) w = false → (me s).walkFaults.find? (fun f => f.walk == w) = some f →
      f.cause ≠ causePoison →
      ∃ t, exec (.pubw a) s = .next t ∧
        Trapped (modMe s (fun x => { x with walkFaults := x.walkFaults.filter (fun g => g != f) })) t f.cause 1
          (word f.granule) [word f.walk])) ∧
  (∀ (idx : Nat) (r : PubReq) (q : Task) (s : State), s.pubs[idx]? = some r → taskOf s r.task = some q →
    q.walks.length < 64 → (∀ e ∈ s.pubs.take idx, (e.lc, e.ctx) ≠ (r.lc, r.ctx)) → (ctxOf s r.lc r.ctx).live = true →
    ∃ t, exec (.walkIdAssign idx) s = .next t ∧ t.pubs = s.pubs.eraseIdx idx ∧
      taskOf t r.task = some { q with
        nextWalk := (q.nextWalk + 1) % 65536, walks := q.walks ++ [⟨q.nextWalk, r.addr, r.scope, r.lc, r.ctx, false, [], none⟩] } ∧
      ctxOf t r.lc r.ctx = setSreg (unpendScalar (ctxOf s r.lc r.ctx) r.dst) r.dst (word q.nextWalk)) ∧
  (∀ (task : Nat) (q : Task) (w : Walk) (s : State) (p : Page), taskOf s task = some q → q.walks.head? = some w →
    w.started = false → isParked s (.walk task) = false → walksRunning s (homeStack s w.root q.asid) < 8 →
    canonicalVa w.root = true → translate s q.asid w.root = .ok p → headerHeld s q.asid w.root = false →
    isPoison s (frameOf p w.root) = false → w.path = [] → w.ending = none →
    let a := frameOf p w.root
    let u := headerRead (modWalk s task takeUp) q.asid w.root
    let h := currentWord u p a
    let len := bits h 23 0
    let key := lineKey q.asid w.root
    (granTag s a ≠ 2 → exec (.walkStart task) s = .next (walkFails u q (takeUp w) causeProtect w.root)) ∧
    (granTag s a = 2 → 2 ≤ bits h 45 44 → exec (.walkStart task) s = .next (walkDone u q.num)) ∧
    (granTag s a = 2 → bits h 45 44 < 2 → bits h 43 24 ≠ q.num →
      exec (.walkStart task) s = .next (walkFails u q (takeUp w) causeEscape w.root)) ∧
    (granTag s a = 2 → bits h 45 44 < 2 → bits h 43 24 = q.num → refstsMeeting s a (8 * len) ≠ [] →
      exec (.walkStart task) s = .next u) ∧
    (granTag s a = 2 → bits h 45 44 < 2 → bits h 43 24 = q.num → refstsMeeting s a (8 * len) = [] →
      granuleReady u q.asid w.root p (headerState h 1 0) = true →
      let u1 := modWalk (writeHeader u q w.root p 1 0) q.num (fun x => { x with path := ⟨w.root, len, w.root⟩ :: advancePath x.path })
      granTag u1 a = 2 ∧
      LineTakes u u1 key p false (natLine (headerState h 1 0).toNat (w.root % 128) 8) (accessMask w.root 8) ∧
      (∀ v r, landAll p u1 (objectWrites u1 q w.root len) = (v, some r) → landFull v r p = false →
        exec (.walkStart task) s = .next v) ∧
      ∀ v, landAll p u1 (objectWrites u1 q w.root len) = (v, none) →
        ∃ t, exec (.walkStart task) s = .next t ∧ t = modWalk (reclassAll v q w.root len) q.num
            (fun x => { x with path := modifyAt x.path 0 (fun f => { f with next := w.root + 8 }) }) ∧
          Reclassed t q w.root len)) ∧
  (∀ (task : Nat) (q : Task) (w : Walk) (f : WalkFrame) (s : State), taskOf s task = some q → q.walks.head? = some w →
    w.path.head? = some f → isParked s (.walk task) = false → w.ending = none →
    (∀ p v, f.next = f.obj → translate s q.asid f.obj = .ok p →
      landAll p s (objectWrites s q f.obj f.len) = (v, none) →
      ∃ t, exec (.walkStep task) s = .next t ∧ t = modWalk (reclassAll v q f.obj f.len) q.num
          (fun x => { x with path := modifyAt x.path 0 (fun g => { g with next := f.obj + 8 }) }) ∧
        Reclassed t q f.obj f.len) ∧
    (∀ p, f.next ≠ f.obj → f.obj + 8 * f.len ≤ f.next → translate s q.asid f.obj = .ok p →
      granuleReady s q.asid f.obj p (headerState (currentWord s p (frameOf p f.obj)) 2 (w.scope - 1)) = true →
      ∃ t, exec (.walkStep task) s = .next t ∧
        t = (let u := writeHeader s q f.obj p 2 (w.scope - 1)
          if w.path.length ≤ 1 then walkDone u q.num
          else modWalk u q.num (fun x => { x with path := x.path.drop 1 }))) ∧
    (∀ p, f.next ≠ f.obj → f.next < f.obj + 8 * f.len → translate s q.asid f.next = .ok p →
      halfBlocks s (lineKey q.asid f.next) (accessMask f.next 8) false = false →
      isPoison s (frameOf p f.next) = false → granTag s (frameOf p f.next) ≠ 1 →
      exec (.walkStep task) s = .next (walkNext (mscFill s (lineKey q.asid f.next) p).1 q))) ∧
  (∀ (s : State) (q : Task) (w : Walk) (cause g : Nat), cause ≠ causePoison → (ctxOf s w.lc w.ctx).live = true →
    taskOf s q.num = some q → q.walks.head? = some w →
    (ctxOf (walkFails s q w cause g) w.lc w.ctx).walkFaults = (ctxOf s w.lc w.ctx).walkFaults ++ [⟨w.id, cause, g⟩] ∧
      (taskOf (walkFails s q w cause g) q.num).map Task.walks = some (q.walks.drop 1))

namespace Sys2Proof.Machine

/-- The destination and the job of a form that enqueues (R226, R230, R231). -/
def jobRow : Instr → Option (F6 × JobKind)
  | .mxmm d acc op t => some (d, .mm false acc.toNat (opOf op).1 (opOf op).2 t.toNat)
  | .mxmmDup d acc op t => some (d, .mm true acc.toNat (opOf op).1 (opOf op).2 t.toNat)
  | .mxz d acc => some (d, .mxz acc.toNat)
  | .mxdrFp32 d t acc => some (d, .drain .fp32 t.toNat acc.toNat)
  | .mxdrBf16 d t acc => some (d, .drain .bf16 t.toNat acc.toNat)
  | .mxdrFp16 d t acc => some (d, .drain .fp16 t.toNat acc.toNat)
  | .mxdrDm8 d t acc => some (d, .drain .dm8 t.toNat acc.toNat)
  | .mxdrI8 d t acc => some (d, .drain .i8 t.toNat acc.toNat)
  | _ => none

/-- The names of an instruction whose only register is its destination. -/
def destNames (d : F6) : Names := ⟨[], some d.toNat, [], []⟩

/-- The yard of the current context. -/
def myYard (s : State) : Nat := yardNum (myCore s).phys

/-- What CPY names. -/
def copyNames (a : F6) : Names := ⟨[], none, pushRegs a, []⟩

/-- R232's table for MXMM and MXDR, and R174 for the tiles they name. -/
def JobChecks (c : LCore) : Prop :=
  (∀ (dup opAcc : Bool) (acc op tb : Nat),
    let b := tileOf c tb
    let a := tileOf c op
    let w := width b.tag / 8
    jobCheck c (.mm dup acc opAcc op tb) =
      if b.tag ∉ [Tag.i8, Tag.dm8, Tag.fp16, Tag.bf16] ∨ (opAcc = false ∧ a.tag ≠ b.tag) then .trap causeFormat
      else if b.state = .empty ∨ (opAcc = false ∧ a.state = .empty) then .trap causeTile
      else if moving b = true ∨ (opAcc = false ∧ moving a = true) then .waits
      else if b.size % (2048 * w) ≠ 0 ∨ (opAcc = false ∧ a.size ≠ b.size) ∨ (opAcc = true ∧ b.size ≠ 16384 * w) then
        .trap causeProtect
      else .ok) ∧
  (∀ (t : Tag) (tile acc : Nat),
    let a := tileOf c tile
    jobCheck c (.drain t tile acc) =
      if a.tag ≠ t then .trap causeFormat
      else if a.state = .empty then .trap causeTile
      else if moving a = true then .waits
      else if a.size ≠ 16384 * (width t / 8) then .trap causeProtect
      else .ok) ∧
  (∀ acc, jobCheck c (.mxz acc) = .ok) ∧
  (∀ j : Nat, c.mxNext < 65536 → (∀ i ∈ c.mxOut, i < 65536) →
    let dist := fun (i : Nat) => ((c.mxNext : Int) - (i : Int)) % 65536
    (jobPending c j = true ↔ dist j ≠ 0 ∧ dist j ≤ 32768 ∧ ∃ i ∈ c.mxOut, dist j ≤ dist i))

/-- R226 to R228: the element i = m × 128 + n of an MXMM job, of code r: K/16 groups in ascending K, each an exact sum of
sixteen products rounded once (codes q), each then added to the accumulator (values v) with one more rounding, by RNE. -/
def ProductElement (s : State) (j : Job) (acc : Nat) (opAcc : Bool) (op i r : Nat) : Prop :=
  let kk := j.tileB.size / (128 * (width j.tileB.tag / 8))
  let src := if opAcc then accOf s j.lc op else []
  ∃ (v : Nat → Val) (q : Nat → Nat),
    v 0 = (val j.fm .fp32 (getD 0#32 (accOf s j.lc acc) i).toNat).1 ∧ r = (enc j.fm (v (kk / 16)) .fp32 .rne 0).1 ∧
    (∀ g, g < kk / 16 → v (g + 1) =
      (val j.fm .fp32 (enc j.fm (addVal .rne (v g) (val j.fm .fp32 (q g)).1).1 .fp32 .rne 0).1).1) ∧
    ∀ g, g < kk / 16 → ∀ x y : Nat → Rat,
      (∀ k, k < 16 → (∃ n, (factorA j opAcc src kk (i / 128) (16 * g + k)).1 = .fin n (x k)) ∧
        ∃ n, (factorB j kk (16 * g + k) (i % 128)).1 = .fin n (y k)) →
      ((List.range 16).map (fun k => x k * y k)).sum ≠ 0 →
      q g = (enc j.fm (nonzero ((List.range 16).map (fun k => x k * y k)).sum) .fp32 .rne 0).1

/-- The elements of the operands (R226, R227): row-major A of a tile, B by columns, or A from an accumulator through the
down-converter. -/
def Factors (j : Job) : Prop :=
  let t := j.tileB.tag
  let at_ := fun (b : Tile) (i : Nat) => (val j.fm t (ofBytes ((List.range (width t / 8)).map (fun o =>
    getD 0#8 j.snap (b.base * 64 + i * (width t / 8) + o))))).1
  ∀ (a : Sparse (BitVec 32)) (kk m k n : Nat),
    (j.tileA.tag = t → (factorA j false a kk m k).1 = at_ j.tileA (m * kk + k)) ∧
    (factorB j kk k n).1 = at_ j.tileB (n * kk + k) ∧
    (factorA j true a kk m k).1 = (val j.fm t (enc j.fm (val j.fm .fp32 (getD 0#32 a (m * 128 + k)).toNat).1 t (fmodeRM j.fm)
      (roundBits (fmodeRM j.fm) j.srg (m * 128 + k + 1))).1).1

/-- The words of a request's descriptor can be read: d is what they say, t the state after reading them (R244). -/
def DescRead (s : State) (k : Copy) (t : State) (d : Desc) : Prop :=
  ∀ go : State → Desc → State, readDesc s k go = go t d

/-- n stash bytes from offset o on are the bytes of v, and every other is as it was. -/
def StashTakes (c k : LCore) (o n v : Nat) : Prop :=
  (∀ b, b < n → stashByte k (o + b) = BitVec.ofNat 8 (v / 256 ^ b)) ∧
    ∀ q, (q < o ∨ o + n ≤ q) → stashByte k q = stashByte c q

/-- A byte whose half i, 0 the low one, is v (R244). -/
def withNibble (i byte v : Nat) : Nat := if i = 0 then byte / 16 * 16 + v else byte % 16 + v * 16

/-- No check of a copy's access of n bytes at va fails, and its page is p. -/
structure CopyAccess (s : State) (k : Copy) (va n : Nat) (write : Bool) (p : Page) : Prop where
  outside : inWindow va = false
  canonical : canonicalVa va = true
  memory : debugWindow s k.lc va = none
  page : translate s (asidOf s k.lc) va = .ok p
  allowed : pageChecks s (taskNum k.lc) p va n write false = none

end Sys2Proof.Machine

/-- R222 to R236, R238: a job instruction whose accumulators the core owns enters its yard's queue when there is a place and
its checks pass, writes the job's identifier and counts it outstanding, a drain's tile FILLING; it traps with ILLEGAL_REG or
the cause of its check else, R232's table in its order, and is held back, not issued, for a place, for a tile and behind a
RESIZE of its tiles' ways. WAITJ completes when its job and all before it have ended and waits until then, POLLJ says
whether.
A job that starts runs; one that completes leaves the queue with its result written: the elements of the product of R227 and
R228, or the bytes of R231's drain; a faulted one leaves its cause pending. What a job reads of a changed byte is the value
before or the one after (R238). The engine takes and leaves the sprint clock of its row, at once when it is idle (R220). -/
def Obligations.MatrixJobs : Prop :=
  (∀ (i : Instr) (d : F6) (k : JobKind) (s : State), jobRow i = some (d, k) →
    ((jobAccs k).all (ownsAcc (myCore s)) = false →
      ∃ t, exec i s = .next t ∧ Trapped s t causeIllegalReg 0 0#64 []) ∧
    ((jobAccs k).all (ownsAcc (myCore s)) = true → Issues (destNames d) s → 16 ≤ (yardOf s (myYard s)).jobs.length →
      ∃ t, exec i s = .next t ∧ HeldBack s t 0) ∧
    ((jobAccs k).all (ownsAcc (myCore s)) = true → Issues (destNames d) s → (yardOf s (myYard s)).jobs.length < 16 →
      (jobCheck (myCore s) k = .waits ∨ (jobCheck (myCore s) k = .ok ∧ jobBehindResize (myCore s) k = true) →
        ∃ t, exec i s = .next t ∧ HeldBack s t 0) ∧
      (∀ cause, jobCheck (myCore s) k = .trap cause → ∃ t, exec i s = .next t ∧ Trapped s t cause 0 0#64 []) ∧
      (jobCheck (myCore s) k = .ok → jobBehindResize (myCore s) k = false →
        ∃ t, exec i s = .next t ∧
          Wrote (destNames d) (acceptJob s (myYard s) k) t (word (myCore s).mxNext) ((me s).pc + 4#64)))) ∧
  (∀ c, JobChecks c) ∧ (∀ j, Factors j) ∧
  (∀ (s : State) (j : Job) (acc : Nat) (opAcc : Bool) (op i : Nat), i < 16384 →
    ∃ r f, (mmElems s j acc opAcc op)[i]? = some (i, r, f) ∧ ProductElement s j acc opAcc op i r) ∧
  (∀ (s : State) (n : Nat) (j : Job) (o : Nat), getD 0#8 (mixSnap s n j).snap o = getD 0#8 j.snap o ∨
    getD 0#8 (mixSnap s n j).snap o = getD 0#8 (tilesNow s j) o) ∧
  (∀ (s : State) (y : Nat) (k : JobKind),
    (∃ j, (yardOf (acceptJob s y k) y).jobs = (yardOf s y).jobs ++ [j] ∧ j.id = (myCore s).mxNext ∧ j.kind = k ∧
      j.lc = s.cur.1 ∧ j.ctx = s.cur.2) ∧
    (coreOf (acceptJob s y k) s.cur.1).mxNext = ((myCore s).mxNext + 1) % 65536 ∧
    (coreOf (acceptJob s y k) s.cur.1).mxOut = (myCore s).mxOut ++ [(myCore s).mxNext] ∧
    (∀ t tile acc, k = .drain t tile acc → (tileOf (coreOf (acceptJob s y k) s.cur.1) tile).state = .filling)) ∧
  (∀ (a : Opnd) (s : State), Issues ⟨[a], none, [], []⟩ s →
    (jobPending (myCore s) (valB s a).toNat = false →
      ∃ t, exec (.waitj a) s = .next t ∧ Wrote ⟨[a], none, [], []⟩ s t 0#64 ((me s).pc + 4#64)) ∧
    (jobPending (myCore s) (valB s a).toNat = true →
      ∃ t, exec (.waitj a) s = .next t ∧ Waits s t 5 (me s).stage)) ∧
  (∀ (d : F6) (a : Opnd) (s : State), Issues ⟨[a], some d.toNat, [], []⟩ s → ∃ t, exec (.pollj d a) s = .next t ∧
    Wrote ⟨[a], some d.toNat, [], []⟩ s t (if jobPending (myCore s) (valB s a).toNat then 1#64 else 0#64)
      ((me s).pc + 4#64)) ∧
  (∀ (y idx : Nat) (j : Job) (s : State), (yardOf s y).jobs[idx]? = some j →
    (jobMayStart s y idx j = true → ∃ t k, exec (.mxJobStart y idx) s = .next t ∧ (yardOf t y).jobs[idx]? = some k ∧
      k.running = true ∧ k.id = j.id ∧ k.kind = j.kind) ∧
    (j.running = true → ∃ t, exec (.mxJobComplete y idx .none) s = .next t ∧
      (yardOf t y).jobs = (yardOf s y).jobs.eraseIdx idx ∧ (coreOf t j.lc).mxOut = (coreOf s j.lc).mxOut.erase j.id ∧
      (∀ acc, j.kind = .mxz acc → accOf t j.lc acc = []) ∧
      (∀ dup acc opAcc op tb, j.kind = .mm dup acc opAcc op tb →
        accOf t j.lc acc = accFrom (mmElems s j acc opAcc op)) ∧
      (∀ tag tile acc, j.kind = .drain tag tile acc → tag ∈ [Tag.fp32, .bf16, .fp16, .dm8, .i8] →
        (tileOf (coreOf t j.lc) tile).state = .ready ∧
        ∀ i, i < 16384 → stashNat (coreOf t j.lc) (tileStart j.tileA + i * (width tag / 8)) (width tag / 8) =
          (enc j.fm (val j.fm .fp32 (getD 0#32 (accOf s j.lc acc) i).toNat).1 tag (fmodeRM j.fm)
            (roundBits (fmodeRM j.fm) j.srg (i + 1))).1 % 256 ^ (width tag / 8))) ∧
    (∀ acc opAcc op tb, j.running = true → j.kind = .mm true acc opAcc op tb → j.orphan = false →
      (ctxOf s j.lc j.ctx).live = true →
      ∃ t p, exec (.mxJobComplete y idx .mismatch) s = .next t ∧
        (ctxOf t j.lc j.ctx).pend = (ctxOf s j.lc j.ctx).pend ++ [p] ∧ p.cause = 9 ∧
        accOf t j.lc acc = accOf s j.lc acc ∧ (j.ctx, acc) ∈ (coreOf t j.lc).blocked)) ∧
  (∀ (y : Nat) (s : State),
    ((rowOf s (y / 2)).sprint = true → ∃ t, exec (.engineSprintClock y) s = .next t ∧ (yardOf t y).sprint = true) ∧
    ((rowOf s (y / 2)).sprint = false → (yardOf s y).sprint = true →
      ∃ t, exec (.engineClockDrop y) s = .next t ∧ (yardOf t y).sprint = false) ∧
    (engineIdle (yardOf s y) = true → (yardOf (settleClock s y) y).sprint = (rowOf s (y / 2)).sprint))

namespace Sys2Proof.Machine

/-- R242's table: the first condition that a push of the words ws meets. -/
def PushChecks (s : State) (ws : List Word) : Prop :=
  let ctl := ws.getD 0 0#64
  let addr := (ws.getD 1 0#64).toNat
  let count := (ws.getD 2 0#64).toNat
  let t := tileOf (myCore s) (bits ctl 7 2)
  let tensor := 2 ≤ bits ctl 1 0
  pushCheck s ws =
    if tensor ∧ t.tag ≠ .raw ∧ (width t.tag ≠ 4 * 2 ^ bits ctl 11 10 ∨ bits ctl 11 10 = 0) then some causeFormat
    else if t.state = .empty then some causeTile
    else if addr % (if tensor then 8 else 32) ≠ 0 then some causeMisaligned
    else if bits ctl 63 16 ≠ 0 ∨ bit ctl 8 = true ∨ ws.getD 3 0#64 ≠ 0#64 ∨ (bit ctl 9 = true ∧ ¬ tensor) ∨ t.size < count ∨
        (tensor ∧ count ≠ 0) ∨ inWindow addr = true ∨
        (bit ctl 12 = true ∧ (levelsOf s (taskNum s.cur.1)).length ≤ bits ctl 15 13) then some causeProtect
    else none

/-- R245's conditions on a descriptor whose words have been read. -/
def DescRules (t : Tile) (ctl : Word) (d : Desc) : Prop :=
  let w := 4 * 2 ^ bits ctl 11 10
  let unit := (w + 7) / 8
  let ext := fun (j : Nat) => (d.dims.getD j (1, 0)).1
  d.total = (d.dims.map (·.1)).prod ∧
  (descOk t ctl d = true ↔ (d.dims.getD 0 (0, 0)).2 = 0 ∧ ¬ (bit ctl 9 = true ∧ d.dims.length = 1) ∧
    d.total * w ≤ t.size * 8 ∧ ¬ (w = 4 ∧ (ext 0 % 2 = 1 ∨ (bit ctl 9 = true ∧ ext 1 % 2 = 1))) ∧ d.base % unit = 0 ∧
    ∀ e ∈ d.dims, e.2 % (unit : Int) = 0)

end Sys2Proof.Machine

/-- R173, R240 to R248: a push that its checks let pass, R242's table, enters the FIFO when there is a place and its tile is
still; CPY is held back, not issued, and CPYT answers all ones else; a check that fails traps. A descriptor is read and
judged by R245; bulk granules and elements move; the stash or the MSC takes their bytes, in any order but that of a linear
copy into a tile; a request whose bytes have moved completes with its tile READY, and one the reeve abandons leaves its tile
EMPTY. MODEL'S CHOICES (log 43): a copy out leaves WM unchanged, as R173's row has it, where R246 says SIZE and cites
R173; the
PROTECT of a push, R242's row of it, carries word 1 as its ADDR (pushAddr), and a request whose descriptor is invalid
stops at word
1 as its address (faultCopy): R242, R248 and R309 name neither. -/
def Obligations.CopiesMove : Prop :=
  (∀ (d a : F6) (s : State),
    let ws := pushWords s a
    let k := copyTile (ws.getD 0 0#64)
    let y := myYard s
    let tile := tileOf (myCore s) k
    let behind := resizeWaits (myCore s) (tileStart tile) tile.size
    let busy := moving tile = true ∨ 32 ≤ (yardOf s y).copies.length
    let dNames : Names := ⟨[], some d.toNat, pushRegs a, []⟩
    PushChecks s ws ∧
    (Issues (copyNames a) s → pushCheck s ws = none →
      (¬ busy → behind = false →
        ∃ t, exec (.cpy a) s = .next t ∧ Wrote (copyNames a) (acceptCopy s y ws) t 0#64 ((me s).pc + 4#64)) ∧
      (busy ∨ behind = true → ∃ t, exec (.cpy a) s = .next t ∧ HeldBack s t 0)) ∧
    (Issues dNames s → pushCheck s ws = none →
      (¬ busy → behind = false →
        ∃ t, exec (.cpyt d a) s = .next t ∧ Wrote dNames (acceptCopy s y ws) t 0#64 ((me s).pc + 4#64)) ∧
      (¬ busy → behind = true → ∃ t, exec (.cpyt d a) s = .next t ∧ HeldBack s t 0) ∧
      (busy → ∃ t, exec (.cpyt d a) s = .next t ∧ Wrote dNames s t 0xFFFFFFFFFFFFFFFF#64 ((me s).pc + 4#64))) ∧
    (∀ cause, pushCheck s ws = some cause →
      (Issues (copyNames a) s → ∃ t, exec (.cpy a) s = .next t ∧ Trapped s t cause 0 (pushAddr cause ws) []) ∧
      (Issues dNames s → ∃ t, exec (.cpyt d a) s = .next t ∧ Trapped s t cause 0 (pushAddr cause ws) []))) ∧
  (∀ (t : Tile) (ctl : Word) (d : Desc), DescRules t ctl d) ∧
  (∀ (s : State) (y : Nat) (ws : List Word), y = myYard s → (copyTensor (ws.getD 0 0#64) = true ∨ ws.getD 2 0#64 ≠ 0#64) →
    let u := acceptCopy s y ws
    (yardOf u y).copies = (yardOf s y).copies ++ [⟨s.cur.1, s.cur.2, (myCore s).mxNext, ws, none, 0, [], none, none, false⟩] ∧
    (tileOf (coreOf u s.cur.1) (copyTile (ws.getD 0 0#64))).state =
      (if copyIn (ws.getD 0 0#64) then .filling else .draining) ∧
    (coreOf u s.cur.1).mxOut = (myCore s).mxOut ++ [(myCore s).mxNext]) ∧
  (∀ (s : State) (k : Copy) (y idx : Nat), y = yardNum (coreOf s k.lc).phys → runningCopy s y idx = some k →
    (∀ t d, copyTensor k.ctl = true → k.desc = none → DescRead s k t d →
      descOk (tileOf (coreOf t k.lc) k.tile) k.ctl d = true → d.total ≠ 0 →
      exec (.copyDescriptorRead y idx) s = .next (setCopy t { k with desc := some d })) ∧
    (∀ t d, copyTensor k.ctl = true → k.desc = none → DescRead s k t d →
      descOk (tileOf (coreOf t k.lc) k.tile) k.ctl d = false →
      exec (.copyDescriptorRead y idx) s = .next (faultCopy t k 1 (k.word 1).toNat)) ∧
    (∀ p q, copyTensor k.ctl = false → copyDone k = false → let count := (k.word 2).toNat
      landingPos k 32 count (takeFree s).1.toNat = q → q < count →
      let n := min 32 (count - q)
      let va := ((k.word 1).toNat + q) % 2 ^ 64
      let asid := asidOf s k.lc
      let o := tileStart (tileOf (coreOf s k.lc) k.tile) + q
      (copyIn k.ctl = true → CopyAccess s k va n false p →
        halfBlocks s (lineKey asid va) (spanMask (va % 128) n) false = false →
        ∃ t, exec (.copyLanding y idx) s = .next t ∧
          StashTakes (coreOf s k.lc) (coreOf t k.lc) o n (mscRead s asid va n p).2 ∧
          (tileOf (coreOf t k.lc) k.tile).wm = min (moved k 32 q).pos count ∧ moved k 32 q ∈ (yardOf t y).copies) ∧
      (copyIn k.ctl = false → CopyAccess s k va n true p →
        mscReady s asid va n (stashNat (coreOf s k.lc) o n) p = true →
        ∃ t, exec (.copyLanding y idx) s = .next t ∧
          LineTakes s t (lineKey asid va) p false (natLine (stashNat (coreOf s k.lc) o n) (va % 128) n)
            (spanMask (va % 128) n) ∧
          coreOf t k.lc = coreOf s k.lc ∧ moved k 32 q ∈ (yardOf t y).copies)) ∧
    (∀ d p q, copyTensor k.ctl = true → k.desc = some d → k.pos < d.total →
      landingPos k 1 d.total (takeFree s).1.toNat = q → q < d.total →
      let w := copyWidth k.ctl
      let n := (w + 7) / 8
      let is := elementIndices k.ctl d q
      let va := (wordOfInt ((d.base : Int) + ((is.zip d.dims).map (fun e => (e.1 : Int) * e.2.2)).sum +
        ((is.getD 0 0 * w / 8 : Nat) : Int))).toNat
      let asid := asidOf s k.lc
      let o := tileStart (tileOf (coreOf s k.lc) k.tile) + q * w / 8
      let x := (mscRead s asid va n p).2
      let y0 := stashNat (coreOf s k.lc) o n
      (copyIn k.ctl = true → CopyAccess s k va n false p →
        halfBlocks s (lineKey asid va) (spanMask (va % 128) n) false = false →
        ∃ t, exec (.copyLanding y idx) s = .next t ∧ moved k 1 q ∈ (yardOf t y).copies ∧
          StashTakes (coreOf s k.lc) (coreOf t k.lc) o n
            (if w = 4 then withNibble (q % 2) y0 (x / 16 ^ (is.getD 0 0 % 2) % 16) else x)) ∧
      (copyIn k.ctl = false → CopyAccess s k va n true p →
        let u := (mscRead s asid va n p).1
        let v := if w = 4 then withNibble (is.getD 0 0 % 2) x (y0 / 16 ^ (q % 2) % 16) else y0
        mscReady u asid va n v p = true →
        ∃ t, exec (.copyLanding y idx) s = .next t ∧ moved k 1 q ∈ (yardOf t y).copies ∧
          coreOf t k.lc = coreOf s k.lc ∧
          LineTakes u t (lineKey asid va) p false (natLine v (va % 128) n) (spanMask (va % 128) n))) ∧
    (copyDone k = true → ∃ t, exec (.copyComplete y idx) s = .next t ∧
      (yardOf t y).copies = (yardOf s y).copies.eraseIdx idx ∧ (tileOf (coreOf t k.lc) k.tile).state = .ready ∧
      (tileOf (coreOf t k.lc) k.tile).wm =
        (if copyIn k.ctl then (tileOf (coreOf s k.lc) k.tile).size else (tileOf (coreOf s k.lc) k.tile).wm) ∧
      (coreOf t k.lc).mxOut = (coreOf s k.lc).mxOut.erase k.id)) ∧
  (∀ (k : Copy) (unit total : Nat), 0 < unit → k.trying = none → k.pos < total → k.pos ∉ k.landed →
    let linear := copyIn k.ctl && !copyTensor k.ctl
    (∀ v, let q := landingPos k unit total v
      k.pos ≤ q ∧ q < total ∧ (q - k.pos) % unit = 0 ∧ q ∉ k.landed ∧ (linear = true → q = k.pos)) ∧
    (∀ q, linear = false → k.pos ≤ q → q < total → (q - k.pos) % unit = 0 → q ∉ k.landed →
      ∃ v, landingPos k unit total v = q) ∧
    (∀ q, k.pos ≤ q → let m := moved k unit q
      m.pos ∉ m.landed ∧ ∀ i, (k.pos + i * unit < m.pos ∨ k.pos + i * unit ∈ m.landed) ↔
        (k.pos + i * unit ∈ k.landed ∨ k.pos + i * unit = q))) ∧
  (∀ (ctl : Word) (d : Desc) (q : Nat), q < d.total →
    let is := elementIndices ctl d q
    let es := d.dims.map (·.1)
    (∀ e ∈ is.zip es, e.1 < e.2) ∧ is.length = es.length ∧
    (copyTransposes ctl = false → (is.zip es).foldr (fun e a => e.1 + e.2 * a) 0 = q) ∧
    (copyTransposes ctl = true → (swapFirst (is.zip es)).foldr (fun e a => e.1 + e.2 * a) 0 = q)) ∧
  (∀ (s : State) (k : Copy) (y idx : Nat), (yardOf s y).copies[idx]? = some k → k.fault.isSome = true →
    (ctxOf s k.lc k.ctx).frozen = true →
    (∀ p ∈ (ctxOf s k.lc k.ctx).pend, p.cause ≠ causeCopy ∨ p.detail ≠ copyDetail k) →
    ∃ t, exec (.copyAbandon y idx) s = .next t ∧ tileOf (coreOf t k.lc) k.tile = Tile.reset ∧
      (coreOf t k.lc).mxOut = (coreOf s k.lc).mxOut.erase k.id)

/-- R278 to R291, R203, R354, R389: LAUNCH, its release complete, answers what the dispatcher does with its record: BUSY
when
4,096 tasks wait, ENTERED when the record of the address space has a task, INVALID for a record that breaks R281, else the
number of a new pending task; a record address in the stash window traps with PROTECT. MODEL'S CHOICES: so does one that
is not
canonical (log 35, DEDUCED: R283 names the window only); INVALID too where EXPL is 0 and SPLIT is not, or where the word
of an
undeclared level is not 0 (log 43: R281's list names neither). HQDB_WRITE queues an address or sets REF; the oldest
entry is answered in the reply ring. A pending task
whose PRED is 0 and whose ranges are resident becomes ready; ready tasks age, each time at the tail of a queue, and the
first
one that starves holds the dispatcher (the first of several: the model's choice, log 43); none is placed while one before it
fits; the dispatcher places a crew, whose heads start at the entry with s1 the record, on the ways retained for them
(seven at most for a foldable task: the model's choice,
log 43); a task that is over and quiet writes the eight words of its completion record and is forgotten; in that same
step its
end, without a cause, decrements PRED of the pending successor of its address space, or keeps a credit, and does so too
where PRED
is 0 already (the model's choice, log 43); retained ways lapse after 10 ms. -/
def Obligations.TasksEnterPlaceAndComplete : Prop :=
  (∀ (d : F6) (a : Opnd) (s : State), Issues ⟨[a], some d.toNat, [], []⟩ s →
    let ra := (valB s a).toNat
    let o := partOfCore s s.cur.1
    (ra % 128 ≠ 0 → ∃ t, exec (.launch d a) s = .next t ∧ Trapped s t causeMisaligned 0 (word ra) []) ∧
    (ra % 128 = 0 → (inWindow ra = true ∨ canonicalVa ra = false) →
      ∃ t, exec (.launch d a) s = .next t ∧ Trapped s t causeProtect 0 (word ra) []) ∧
    (∀ u w, ra % 128 = 0 → inWindow ra = false → canonicalVa ra = true → debugWindow s s.cur.1 ra = none →
      (∀ v, (me s).stage ≠ .answered v) → ReleaseComplete s scopeSys false →
      takeRecord s ra (asidOf s s.cur.1) o.1 o.2 = (u, .answer w) →
      ∃ t, exec (.launch d a) s = .next t ∧ Wrote ⟨[a], some d.toNat, [], []⟩ u t w ((me u).pc + 4#64))) ∧
  (∀ (s : State) (ra asid part vf : Nat),
    (4096 ≤ poolSize s → takeRecord s ra asid part vf = (s, .answer (-1#64))) ∧
    (poolSize s < 4096 → entered s asid ra = true → takeRecord s ra asid part vf = (s, .answer (-2#64))) ∧
    (∀ u hs, poolSize s < 4096 → entered s asid ra = false → readWords asid 16 ra [] s = (u, .got hs) →
      (16 < recRanges hs → takeRecord s ra asid part vf = (u, .answer (-3#64))) ∧
      (∀ v ws, recRanges hs ≤ 16 → readWords asid (2 * recRanges hs) (ra + 128) hs u = (v, .got ws) →
        (recordOk ws = false → takeRecord s ra asid part vf = (v, .answer (-3#64))) ∧
        (recordOk ws = true → ∃ t n q, takeRecord s ra asid part vf = (t, .answer (word n)) ∧ n ≠ 0 ∧
          look v.tasks n = none ∧ look t.tasks n = some q ∧ q.record = ra ∧ q.stage = .pending ∧
          q.entry = (recWord ws 0).toNat ∧ q.levels = levelList ws ∧ q.ranges = rangeList ws ∧
          q.pred = bits (recWord ws 3) 63 48 - min (getD 0 v.credits (recordKey asid ra)) (bits (recWord ws 3) 63 48))))) ∧
  (∀ (vf : Nat) (v : Word) (s : State), s.modPower = .active → cxlUp s = true →
    ((vfOf s vf).queue.length < 16 → ∃ t, exec (.hqdbWrite vf v) s = .next t ∧
      (vfOf t vf).queue = (vfOf s vf).queue ++ [v.toNat / 128 * 128]) ∧
    (16 ≤ (vfOf s vf).queue.length → ∃ t, exec (.hqdbWrite vf v) s = .next t ∧ (vfOf t vf).ref = true ∧
      (vfOf t vf).queue = (vfOf s vf).queue)) ∧
  (∀ (vf ra : Nat) (rest : List Nat) (s u : State) (w : Word), (vfOf s vf).queue = ra :: rest → s.modPower = .active →
    isParked s (.hostEntry vf) = false →
    (vfOf s vf).part < 48 →
    ((vfOf s vf).rrtail + 2 ^ 32 - (vfOf s vf).rrhead) % 2 ^ 32 < ringSize (vfOf s vf).rrbase → (vfOf s vf).answers ≠ 1 →
    takeRecord s ra (vfOf s vf).asid (vfOf s vf).part vf = (u, .answer w) →
    ∃ t, exec (.hostQueueEntry vf) s = .next t ∧ (vfOf t vf).queue = rest ∧
      (vfOf t vf).rrtail = ((vfOf s vf).rrtail + 1) % 2 ^ 32 ∧ t.msix = u.msix ++ [(vf, 0)]) ∧
  (∀ (n : Nat) (q : Task) (s : State), taskOf s n = some q →
    (q.stage = .pending → q.pred = 0 → rangesResident s q = true → ∃ t, exec (.taskReady n) s = .next t ∧
      taskOf t n = some { q with stage := .ready, level := q.prio, since := s.ticks, seq := s.readySeq } ∧
      t.readySeq = s.readySeq + 1) ∧
    (q.stage = .ready → q.level < 7 → q.since + 1800000 ≤ s.ticks → ∃ t, exec (.priorityAgeing n) s = .next t ∧
      taskOf t n = some { q with level := q.level + 1, since := s.ticks, seq := s.readySeq } ∧
      t.readySeq = s.readySeq + 1) ∧
    (q.stage = .ready → q.level = 7 → q.since + 7200000 ≤ s.ticks → s.starved = none →
      (∀ e ∈ s.tasks, e.1 ≠ n → starves s e.2 = true → before e.2 q = false) →
      ∃ t, exec (.starvationHold n) s = .next t ∧ t.starved = some n)) ∧
  (∀ (n m : Nat) (q r : Task) (cores : List Nat) (s : State), taskOf s n = some q → q.stage = .ready →
    (m, r) ∈ s.tasks → r.num ≠ q.num → r.stage = .ready → mayRun s r = true → fits s r = true →
    (q.level < r.level ∨ (q.level = r.level ∧ r.seq < q.seq)) → exec (.placeTask n cores) s = .next s) ∧
  (∀ (n : Nat) (q : Task) (cores : List Nat) (bank : List Word) (s u : State), taskOf s n = some q → q.num = n →
    q.stage = .ready → isParked s (.bank n) = false → mayRun s q = true → placeTurn s q = true →
    placementOk s q cores = true →
    (q.const = 0 ∧ u = s ∧ bank = []) ∨ (q.const ≠ 0 ∧ readWords q.asid 64 q.const [] s = (u, .got bank)) →
    ∃ t, exec (.placeTask n cores) s = .next t ∧ (taskOf t n).map Task.stage = some .placed ∧
      (taskOf t n).map Task.bank = some bank ∧
      ∀ k, k < cores.length → (coreOf t (lcKey n k)).phys = cores.getD k 0 ∧ (coreOf t (lcKey n k)).lstate = 1 ∧
        ctxOf t (lcKey n k) 0 = startedCtx q.seed k 0 (word q.entry) (word q.record) ∧
        ∀ r, (physOf s (cores.getD k 0)).kept = some r → r.record = q.record → r.asid = q.asid → r.lcn = k →
          (coreOf t (lcKey n k)).ways = if q.fold then min r.ways 7 else r.ways) ∧
  (∀ (n : Nat) (q : Task) (s : State), taskOf s n = some q → q.num = n → taskOver s q = true → taskQuiet s q = true →
    isParked s (.completion n) = false →
    let ws := [word (q.cause % 256), word n, word (q.tstart.getD 0), word s.ticks, word q.dropped, word q.rollbacks, 0#64, 0#64]
    let u := if q.cause = 0 then creditSuccessor (creditSuccessor s q.asid q.succ0) q.asid q.succ1 else s
    (q.compl = 0 ∨ ∃ p, translate s q.asid q.compl = .ok p ∧ mscReady s q.asid q.compl 64 (wordsNat ws) p = true) →
    ∃ t, exec (.taskComplete n) s = .next t ∧ (∀ e ∈ t.tasks, e.1 ≠ n) ∧
      (∀ lc, taskNum lc = n → coreOf t lc = LCore.reset) ∧
      (taskOf s 0 = none → t.credits = u.credits ∧
        ∀ m, m ≠ n → (taskOf t m).map Task.pred = (taskOf u m).map Task.pred) ∧
      (∀ p, q.compl ≠ 0 → translate s q.asid q.compl = .ok p → LineTakes s t (lineKey q.asid q.compl) p false
        (natLine (wordsNat ws) (q.compl % 128) 64) (spanMask (q.compl % 128) 64))) ∧
  (∀ (ws : List Word) (i b : Nat), b < 8 →
    wordsNat ws / 256 ^ (8 * i + b) % 256 = (ws.getD i 0#64).toNat / 256 ^ b % 256) ∧
  (∀ (asid ra m : Nat) (r : Task) (s : State), ra ≠ 0 →
    let next := s.tasks.find? (fun e => e.2.record == ra && e.2.asid == asid && e.2.stage == .pending)
    let held := getD 0 s.credits (recordKey asid ra)
    (next = some (m, r) → 0 < r.pred →
      taskOf (creditSuccessor s asid ra) m = (taskOf s m).map (fun x => { x with pred := x.pred - 1 }) ∧
      (creditSuccessor s asid ra).credits = s.credits) ∧
    ((next = none ∨ (next = some (m, r) ∧ r.pred = 0)) →
      getD 0 (creditSuccessor s asid ra).credits (recordKey asid ra) = min 65535 (held + 1) ∧
      (creditSuccessor s asid ra).tasks = s.tasks)) ∧
  (∀ (p : Nat) (s : State), keptOver s p = true →
    ∃ t, exec (.stashRetentionLapse p) s = .next t ∧ (physOf t p).kept = none ∧
      ∀ q, q ≠ p → physOf t q = physOf s q) ∧
  (∀ (p : Nat) (s : State) (k : Kept), (physOf s p).kept = some k →
    (keptOver s p = true ↔ k.since + 18000000 ≤ s.ticks))

/-- R292 to R298, R304, R315: SPRINT asks for a lease of its row and writes the grant: nothing of 0 microseconds or while
a condition of R295 holds, the first of which WHY then names (HOT too while the package trip is set: the model's choice, log
27, DEDUCED), else no more than the heat store allows; of a live lease of the
task the end is put off, never brought forward. SPREL ends the task's own lease
and no other. A lease ends at its time, and each live context of the row has SPRINT_EXPIRED pending; PERMILLE is updated
once in
each millisecond, by a step that is then due and at no other time (in STANDBY at none: log 27); a reading of 1,000 ends
every
lease, one of 300 or less the refreeze. The row clock rises once the rail has settled. A sensor is over at 105,
100, 95 or 115 degrees, and released 3 degrees below; one that crosses its threshold acts at once, or at the end of its
dwell, and a reading back on the old side cancels a crossing that waits: a row's lease ends, a base die throttles, a
package trip ends every lease and holds every core at divider 8. -/
def Obligations.LeasesHeatAndThresholds : Prop :=
  (∀ (d : F6) (a : Opnd) (s : State), Issues ⟨[a], some d.toNat, [], []⟩ s →
    let r := leaseAsk s (myRow s) (taskNum s.cur.1) (valB s a).toNat
    ∃ t, exec (.sprint d a) s = .next t ∧ Wrote ⟨[a], some d.toNat, [], []⟩ r.1 t (word r.2) ((me s).pc + 4#64)) ∧
  (∀ (s : State) (row task a : Nat), leaseAsk s row task 0 = (s, 0) ∧
    (∀ why, a ≠ 0 → zeroGrant s row task = some why →
      leaseAsk s row task a = (modRow s row (fun r => { r with why := why }), 0)) ∧
    (s.rfz = true → zeroGrant s row task = some 1) ∧
    (s.rfz = false →
      (950 ≤ s.melt → s.melt ≤ 1000 → zeroGrant s row task = some 2) ∧
      (s.melt = 1023 → zeroGrant s row task = some 3) ∧
      (s.melt < 950 → 3600 < s.power10us + 10 → zeroGrant s row task = some 4) ∧
      (s.melt < 950 → s.power10us + 10 ≤ 3600 →
        let other := (rowOf s row).leaseLive = true ∧ (rowOf s row).leaseTask ≠ task
        (other → zeroGrant s row task = some 5) ∧
        (¬ other → ((rowOf s row).hot = true ∨ s.trip = true) → zeroGrant s row task = some 6) ∧
        (¬ other → (rowOf s row).hot = false → s.trip = false → zeroGrant s row task = none))) ∧
    (a ≠ 0 → zeroGrant s row task = none → (rowOf s row).leaseLive = true →
      let g := min (min a 1000000) (leaseLimit s.melt)
      let e := max (rowOf s row).leaseEnd (s.ticks + g * 1800)
      leaseAsk s row task a = (setRow s row { rowOf s row with leaseEnd := e }, (e - s.ticks) / 1800)) ∧
    (a ≠ 0 → zeroGrant s row task = none → (rowOf s row).leaseLive = false →
      let g := min (min a 1000000) (leaseLimit s.melt)
      (leaseAsk s row task a).2 = g ∧ (rowOf (leaseAsk s row task a).1 row).leaseLive = true ∧
        (rowOf (leaseAsk s row task a).1 row).leaseTask = task ∧
        (rowOf (leaseAsk s row task a).1 row).leaseEnd = s.ticks + g * 1800)) ∧
  (∀ (p : Nat), (p < 500 → leaseLimit p = 1000000) ∧ (500 ≤ p → p < 800 → leaseLimit p = 100000) ∧
    (800 ≤ p → p < 950 → leaseLimit p = 10000) ∧ (950 ≤ p → leaseLimit p = 0)) ∧
  (∀ (s : State),
    ((rowOf s (myRow s)).leaseLive = true → (rowOf s (myRow s)).leaseTask = taskNum s.cur.1 →
      ∃ t, exec .sprel s = .next t ∧ Wrote noNames (endLease s (myRow s) false) t 0#64 ((me s).pc + 4#64) ∧
        (rowOf t (myRow s)).leaseLive = false) ∧
    (((rowOf s (myRow s)).leaseLive = false ∨ (rowOf s (myRow s)).leaseTask ≠ taskNum s.cur.1) →
      ∃ t, exec .sprel s = .next t ∧ Wrote noNames s t 0#64 ((me s).pc + 4#64))) ∧
  (∀ (row : Nat) (s : State), (rowOf s row).leaseLive = true → (rowOf s row).leaseEnd ≤ s.ticks →
    ∃ t, exec (.leaseExpiry row) s = .next t ∧ (rowOf t row).leaseLive = false ∧ (rowOf t row).leaseTask = 0 ∧
      (rowOf t row).sprint = false ∧ (600 < s.melt → t.rfz = true) ∧
      ∀ e ∈ rowContexts s row, (ctxOf s e.1 e.2).live = true →
        ((ctxOf t e.1 e.2).pend.any (fun p => p.cause == 0x0A)) = true) ∧
  (∀ (row : Nat) (v : Word) (s : State), s.modPower ≠ .standby →
    (bits v 39 20 ≠ 0 → liveInRow s (bits v 63 44) row = true →
      exec (.leaseRenew row v) s = .next (leaseAsk s row (bits v 63 44) (bits v 39 20)).1) ∧
    (bits v 39 20 ≠ 0 → liveInRow s (bits v 63 44) row = false →
      ∃ t, exec (.leaseRenew row v) s = .next t ∧ (rowOf t row).why = 5)) ∧
  (∀ (p : Nat) (s : State),
    (s.modPower ≠ .standby → s.meltAt + 1800000 ≤ s.ticks → overdue s = true ∧
      ∃ t, exec (.meltUpdate p) s = .next t ∧ t.melt = p ∧ t.meltAt = s.ticks ∧ (p ≤ 300 → t.rfz = false) ∧
      (1000 ≤ p → ∀ r, (rowOf t r).leaseLive = false)) ∧
    (s.modPower = .standby ∨ s.ticks < s.meltAt + 1800000 → exec (.meltUpdate p) s = .next s)) ∧
  (∀ (row : Nat) (s : State), (rowOf s row).leaseLive = true → (rowOf s row).railUp = true →
    (rowOf s row).sprint = false → ∃ t, exec (.rowClockRaise row) s = .next t ∧ (rowOf t row).sprint = true) ∧
  (∀ (x k : Nat) (n : Sensor),
    (n = .core k → overAt n false x = decide (1050 ≤ x) ∧ overAt n true x = decide (1020 < x)) ∧
    (n = .row k → overAt n false x = decide (1000 ≤ x) ∧ overAt n true x = decide (970 < x)) ∧
    (n = .base k → overAt n false x = decide (950 ≤ x) ∧ overAt n true x = decide (920 < x)) ∧
    (n = .trip k → overAt n false x = decide (1150 ≤ x) ∧ overAt n true x = decide (1120 < x))) ∧
  (∀ (p : Nat) (s : State), s.trip = true → coreDivider s p = 8) ∧
  (∀ (n : Sensor) (x : Nat) (s : State),
    let above := overAt n (senseOf s n).above x
    (dwelling s (senseOf s n) = false → above ≠ (senseOf s n).above →
      ∃ t, exec (.tempThresholdCrossing n x) s = .next t ∧ senseOf t n = ⟨above, some s.ticks, none⟩ ∧
        (∀ r, n = .row r → (rowOf t r).hot = above ∧ (above = true → (rowOf t r).leaseLive = false)) ∧
        (∀ k, n = .base k → (stackOf t k).throttled = above) ∧
        (∀ k, n = .trip k → above = true → t.trip = true ∧ ∀ r, (rowOf t r).leaseLive = false)) ∧
    (above = (senseOf s n).above → ∃ t, exec (.tempThresholdCrossing n x) s = .next t ∧
      senseOf t n = { senseOf s n with pending := none } ∧ t.rows = s.rows) ∧
    (dwelling s (senseOf s n) = true → above ≠ (senseOf s n).above → ∃ t, exec (.tempThresholdCrossing n x) s = .next t ∧
      senseOf t n = { senseOf s n with pending := some above } ∧ t.rows = s.rows) ∧
    (∀ a, (senseOf s n).since.isSome = true → dwelling s (senseOf s n) = false → (senseOf s n).pending = some a →
      ∃ t, exec (.dwellEnd n) s = .next t ∧ senseOf t n = ⟨a, some s.ticks, none⟩) ∧
    ((senseOf s n).since.isSome = true → dwelling s (senseOf s n) = false → (senseOf s n).pending = none →
      ∃ t, exec (.dwellEnd n) s = .next t ∧ senseOf t n = { senseOf s n with since := none }))

/-- R105, R155, R299 to R303, R356, R361 to R364, R377 to R379, R386: a core with nothing to keep, no image of a lodged core
among it, is powered down after its hold;
the arbiter admits the oldest wake request and the core is powered later; lanes gate after 256 idle cycles. A row
cycle ends with a sample; one that newly crosses DRTH raises the alarm: six cycles are half as long again, then issue is
halved for 64, then calm; a pulse of PW ns may be injected meanwhile, and is not cut short. The
reference counter advances by one, modulo 2^64, and it stands still while a step is due (the model's choice, log 8, as
is what
falls within one tick). Received data reaches memory, or waits, or parks for storage, and its flits count on the cores of
their die only; in STANDBY no flit moves. An event counts for the owner that CTAG names, or for every owner: COUNT adds its
value and signals a wrap by its ROUTE, MIN and MAX keep the smaller and the larger, MAX no more than 48 bits hold (log
43), HIST counts it in the bin of its value,
CSEL1 to CSEL3 ignored. -/
def Obligations.PowerDroopAndClock : Prop :=
  (∀ (p : Nat) (s : State),
    ((physOf s p).power = .on → coresOn s p = [] → (physOf s p).kept = none → (physOf s p).idleSince + 3600 ≤ s.ticks →
      (∀ e ∈ s.cores, e.2.storedIn ≠ some p) → ∃ t, exec (.corePowerDown p) s = .next t ∧ (physOf t p).power = .off) ∧
    (∀ n, (physOf s p).power = .waking n → ∃ t, exec (.coreReady p) s = .next t ∧ (physOf t p).power = .on ∧
      (physOf t p).idleSince = s.ticks) ∧
    (256 ≤ (physOf s p).vIdle → ∃ t, exec (.laneGate p) s = .next t ∧ (physOf t p).gated = true)) ∧
  (∀ (row p : Nat) (ps : List Nat) (s : State), (rowOf s row).inrush = p :: ps → (rowOf s row).inrushNext ≤ s.ticks →
    ∃ t, exec (.powerUpAdmit row) s = .next t ∧ (physOf t p).power = .waking s.ticks ∧ (rowOf t row).inrush = ps ∧
      (rowOf t row).inrushNext = s.ticks + 45) ∧
  (∀ (row depth : Nat) (s : State),
    let r := rowOf s row
    let deep := rowTH r ≠ 0 ∧ 2 * rowTH r ≤ depth
    (r.droop ≠ .stretched → deep → r.below = false →
      ∃ t, exec (.droopAlarm row depth) s = .next t ∧ (rowOf t row).alarms = (r.alarms + 1) % 2 ^ 32 ∧
        (rowOf t row).droop = .stretched ∧ (rowOf t row).droopLeft = 6 ∧ (rowOf t row).below = true) ∧
    (r.droop ≠ .stretched → (¬ deep ∨ r.below = true) →
      ∃ t, exec (.droopAlarm row depth) s = .next t ∧ (rowOf t row).alarms = r.alarms ∧ (rowOf t row).droop = r.droop ∧
        (rowOf t row).droopLeft = r.droopLeft ∧ ((rowOf t row).below = true ↔ deep)) ∧
    (r.droop = .stretched → ∃ t, exec (.droopAlarm row depth) s = .next t ∧ (rowOf t row).alarms = r.alarms ∧
      (rowOf t row).droop = .stretched ∧ (rowOf t row).droopLeft = r.droopLeft ∧ (rowOf t row).below = r.below) ∧
    (r.droop = .stretched → r.droopLeft = 0 →
      ∃ t, exec (.stretchEnd row) s = .next t ∧ (rowOf t row).droop = .halved ∧ (rowOf t row).droopLeft = 64 ∧
        ∀ i, i < 16 → (physOf t (16 * row + i)).halfPhase = false) ∧
    (r.droop = .halved → r.droopLeft = 0 →
      ∃ t, exec (.halvedEnd row) s = .next t ∧ (rowOf t row).droop = .calm) ∧
    (row < 128 → cycleReady s row = true → ∃ t, turnRowCycle row depth s = .next t ∧
      (rowOf t row).cycleAt = max (r.cycleAt + (if r.droop = .stretched then (if r.sprint then 45 else 60)
        else if r.sprint then 30 else 40)) (40 * s.ticks) ∧ t.agenda = .rowNext row :: s.agenda) ∧
    (rowOf (beginCycle row s) row).droopLeft = r.droopLeft - 1 ∧
    (beginCycle row s).agenda = .rowIssue row :: s.agenda) ∧
  (∀ (y : Nat) (s : State),
    (pulseAllowed s y = true → ∃ t, exec (.injectionPulseStart y) s = .next t ∧
      (yardOf t y).pulseEnd = some (pulseMoment (rowOf s (y / 2)) (yardOf s y) + rowPW (rowOf s (y / 2)) * 72) ∧
      pulseMoment (rowOf s (y / 2)) (yardOf s y) ∈ (yardOf t y).pulses) ∧
    ((rowOf s (y / 2)).leaseLive = true ∨ (rowOf s (y / 2)).droop = .calm ∨ (rowOf s (y / 2)).railBelow = false →
      exec (.injectionPulseStart y) s = .next s) ∧
    (pulseEnding s y = true → ∃ t, exec (.injectionPulseEnd y) s = .next t ∧ (yardOf t y).pulseEnd = none ∧
      some (yardOf t y).pulseFree = (yardOf s y).pulseEnd)) ∧
  (∀ (s : State),
    (overdue s = false → ∃ t, exec .referenceTick s = .next t ∧ t.ticks = (s.ticks + 1) % 2 ^ 64 ∧ t.cores = s.cores) ∧
    (overdue s = true → exec .referenceTick s = .next s)) ∧
  (∀ (die flits asid addr : Nat) (bs : List Byte) (s : State),
    let f : Received := ⟨flits, asid, addr, bs⟩
    (renairRuns s = true → isParked s (.link die) = false →
      (∀ u, linkWrite asid s (linkBytes f) = .done u → ∃ t, exec (.renairReceive die f) s = .next t ∧ t.cores = s.cores ∧
        (∀ p, dieOf p ≠ die → physOf t p = physOf s p) ∧
        ∀ b p, bs = [b] → translate s asid (addr % 2 ^ 64) = .ok p → p.aliased = false →
          lineByte (pocLine t (lineKey asid (addr % 2 ^ 64)) p) (addr % 128) = b) ∧
      (linkWrite asid s (linkBytes f) = .waits → exec (.renairReceive die f) s = .next s) ∧
      (∀ va, linkWrite asid s (linkBytes f) = .misses va → exec (.renairReceive die f) s = .next (heatLookup s asid va)) ∧
      (∀ va p, linkWrite asid s (linkBytes f) = .full va p → ∃ t, exec (.renairReceive die f) s = .next t ∧
        isParked t (.link die) = true ∧ t.cores = s.cores ∧ t.mem = s.mem ∧ t.msc = s.msc)) ∧
    (∃ t, exec (.renairSend die flits) s = .next t ∧ t.cores = s.cores ∧
      ∀ p, dieOf p ≠ die → physOf t p = physOf s p) ∧
    (s.modPower = .standby → exec (.renairReceive die f) s = .next s ∧ exec (.renairSend die flits) s = .next s)) ∧
  (∀ (s : State) (p code x n : Nat), n < 4 → bits (getD 0#64 (physOf s p).csel 0) 15 14 ≠ 3 →
    bits (getD 0#64 (physOf s p).csel n) 15 14 = 0 →
    let v := (getD 0#64 (physOf s p).cnt n).toNat
    (bits (getD 0#64 (physOf s p).csel n) 7 0 = code → v + x < 2 ^ 48 →
      getD 0#64 (physOf (countOne s p code x n) p).cnt n = word (v + x) ∧
        (physOf (countOne s p code x n) p).covf = (physOf s p).covf) ∧
    (bits (getD 0#64 (physOf s p).csel n) 7 0 = code → 2 ^ 48 ≤ v + x →
      let t := countOne s p code x n
      getD 0#64 (physOf t p).cnt n = word ((v + x) % 2 ^ 48) ∧ bit (physOf t p).covf n = true ∧
        (bits (getD 0#64 (physOf s p).csel n) 13 12 = 2 →
          t.msix = s.msix ++ [(bits (physOf s p).ctag 14 8, 1)] ∧ t.words = s.words) ∧
        (bits (getD 0#64 (physOf s p).csel n) 13 12 = 1 → t.msix = s.msix ∧ ∀ lc, reeveOf s (dieOf p) = some lc →
          t.words = s.words ++ [⟨none, lc, 5, word (p % 2048 + n * 4096)⟩]) ∧
        (bits (getD 0#64 (physOf s p).csel n) 13 12 % 3 = 0 → t.msix = s.msix ∧ t.words = s.words)) ∧
    (bits (getD 0#64 (physOf s p).csel n) 7 0 ≠ code → countOne s p code x n = s)) ∧
  (∀ (s : State) (p code x n : Nat), n < 4 → bits (getD 0#64 (physOf s p).csel n) 7 0 = code →
    let q := physOf s p
    let v := (getD 0#64 q.cnt n).toNat
    (bits (getD 0#64 q.csel 0) 15 14 ≠ 3 →
      (bits (getD 0#64 q.csel n) 15 14 = 1 → countOne s p code x n =
        setPhys s p { q with cnt := setD 0#64 q.cnt n (word (min v x)) }) ∧
      (bits (getD 0#64 q.csel n) 15 14 = 2 → countOne s p code x n =
        setPhys s p { q with cnt := setD 0#64 q.cnt n (word (max v (min x (2 ^ 48 - 1)))) })) ∧
    (bits (getD 0#64 q.csel 0) 15 14 = 3 → n ≠ 0 → countOne s p code x n = s)) ∧
  (∀ (s : State) (p code x : Nat),
    let q := physOf s p
    let b := histBin q.chbnd x
    ((x < bits q.chbnd 15 0 → b = 0) ∧
      (bits q.chbnd 15 0 ≤ x → x < bits q.chbnd 31 16 → b = 1) ∧
      (bits q.chbnd 15 0 ≤ x → bits q.chbnd 31 16 ≤ x → x < bits q.chbnd 47 32 → b = 2) ∧
      (bits q.chbnd 15 0 ≤ x → bits q.chbnd 31 16 ≤ x → bits q.chbnd 47 32 ≤ x → b = 3)) ∧
    (bits (getD 0#64 q.csel 0) 15 14 = 3 → bits (getD 0#64 q.csel 0) 7 0 = code →
      getD 0#64 (physOf (countOne s p code x 0) p).cnt b = word (((getD 0#64 q.cnt b).toNat + 1) % 2 ^ 48) ∧
      ∀ k, k ≠ b → getD 0#64 (physOf (countOne s p code x 0) p).cnt k = getD 0#64 q.cnt k)) ∧
  (∀ (s : State) (p code x part vf task : Nat) (q : Task),
    (tagAdmits (physOf s p).ctag none = bit (physOf s p).ctag 15) ∧
    (tagAdmits (physOf s p).ctag (some (part, vf)) = true ↔ bit (physOf s p).ctag 15 = true ∨
      (bits (physOf s p).ctag 5 0 = part ∧ bits (physOf s p).ctag 14 8 = vf)) ∧
    (taskOf s task = some q → ownerTag s task = some (q.part, q.vf)) ∧
    (∀ o, tagAdmits (physOf s p).ctag o = false → countEvent s p code x o = s))

namespace Sys2Proof.Machine

/-- Every register of a context is as it was; a cause that it may have taken apart. -/
def SameRegisters (x y : Ctx) : Prop :=
  y = { x with frozen := y.frozen, cause := y.cause, sub := y.sub, deliv := y.deliv, wait := y.wait, pend := y.pend,
               stage := y.stage, counted := y.counted, stepping := y.stepping }

/-- The contexts of a logical core are in t as they are in u, which comes from s with every register as it was. -/
def SameContexts (s u t : State) (lc : Nat) : Prop :=
  ∀ c, ctxOf t lc c = ctxOf u lc c ∧ SameRegisters (ctxOf s lc c) (ctxOf t lc c)

/-- The logical core stands on a physical core, placed, with its contexts as they were. -/
def MovedTo (s u t : State) (lc p : Nat) : Prop :=
  (coreOf t lc).phys = p ∧ (coreOf t lc).lstate = 1 ∧ (coreOf t lc).half = false ∧ SameContexts s u t lc

/-- The first-level cache of a logical core is empty, and its mappings hold no dirty byte (R255). -/
def Fenced (t : State) (lc : Nat) : Prop := (coreOf t lc).l1 = [] ∧ ∀ m ∈ (coreOf t lc).maps, m.dirty = []

end Sys2Proof.Machine

/-- R103, R255, R288, R289, R300, R308, R314, R388, R397: a logical core whose move is ready and whose dirty bytes can reach
memory moves: from a core over its limit to a cool idle one, folded onto a core of its crew for a task of higher level,
unfolded onto a free core, into a lodging slot of its die, its image in a neighbour that is woken first (the model's choice,
log 43), and back to its core or another free one, the image's host then idle from that moment. Its contexts keep every
register; a request that one of them held acts at the restoration, once its packet is written. A live context moves only
at an
instruction boundary, in an interruptible wait or parked, with no load outstanding. The reeve's report makes a function the
partition's running one. -/
def Obligations.LogicalCoresMove : Prop :=
  (∀ (lc p q : Nat) (s u : State), standsOn s lc = some q → sensorAbove s (.core q) = true →
    sensorAbove s (.core p) = false → dieOf p = dieOf q → p ∈ freeCores s lc (dieOf q) → accRoom s lc (yardNum p) = true →
    moveReady s lc = true → flushCore s lc = (u, none) →
    ∃ t, exec (.thermalMigration lc p) s = .next t ∧ MovedTo s u t lc p ∧ Fenced t lc) ∧
  (∀ (lc v : Nat) (s u : State) (q : Task), taskOf s (taskNum lc) = some q → q.fold = true → pressed s q = true →
    foldsOnto s lc v = true → yardPreferred s lc v = true → moveReady s lc = true → moveReady s v = true →
    2 * (foldedCount s q.num + 1) ≤ crewSize q.levels → flushCore s lc = (u, none) →
    ∃ t, exec (.spatialPreemption lc v) s = .next t ∧ (coreOf t lc).phys = (coreOf s v).phys ∧
      (coreOf t lc).lstate = 3 ∧ (coreOf t lc).half = true ∧ SameContexts s u t lc ∧ Fenced t lc) ∧
  (∀ (lc p : Nat) (s u : State), (coreOf s lc).lstate = 3 → dieOf p = dieOf (coreOf s lc).phys →
    p ∈ freeCores s lc (dieOf (coreOf s lc).phys) → accRoom s lc (yardNum p) = true → moveReady s lc = true →
    flushCore s lc = (u, none) → ∃ t, exec (.unfold lc p) s = .next t ∧ MovedTo s u t lc p ∧ Fenced t lc) ∧
  (∀ (lc slot q n : Nat) (s : State), standsOn s lc = some q → slotFree s (dieOf q) slot = true →
    (freeCores s lc (dieOf q) = [] ∨ allFrozen (coreOf s lc) = true) → moveReady s lc = true → lodgeHost s q = some n →
    (∀ u, (physOf s n).power = .on → flushCore s lc = (u, none) →
      ∃ t, exec (.lodging lc slot) s = .next t ∧ (coreOf t lc).lstate = 4 ∧ (coreOf t lc).left = q ∧
        (coreOf t lc).phys = dieOf q * 256 + slot ∧ (coreOf t lc).storedIn = some n ∧ SameContexts s u t lc ∧
        Fenced t lc) ∧
    ((physOf s n).power = .off → ∃ t, exec (.lodging lc slot) s = .next t ∧ (physOf t n).power = .queued s.ticks ∧
      n ∈ (rowOf t (rowNum n)).inrush ∧ t.cores = s.cores)) ∧
  (∀ (lc p : Nat) (s : State), (coreOf s lc).lstate = 4 → restoreTarget s lc = some p →
    ∃ t, exec (.lodgeRestore lc p) s = .next t ∧ (coreOf t lc).phys = p ∧ (coreOf t lc).lstate = 1 ∧
      (coreOf t lc).half = false ∧ (∀ n, (coreOf s lc).storedIn = some n → (physOf t n).idleSince = s.ticks) ∧
      ∀ c, c ≤ 10 →
        let x := ctxOf s lc c
        (x.dctl = 0 → ctxOf t lc c = x) ∧
        (x.live = true → x.frozen = true → (x.dctl = 1 ∨ x.dctl = 2) → rollingBack s lc = false →
          (packetWaits s lc c = true → ctxOf t lc c = x) ∧
          (packetWaits s lc c = false → ctxOf t lc c = { x with frozen := false, cause := 0, sub := 0, deliv := false, wait := 0, stage := .idle, dctl := 0, stepping := x.dctl == 2, fence := true }))) ∧
  (∀ (lc c : Nat) (s : State), ctxMovable s lc (c, ctxOf s lc c) = true → (ctxOf s lc c).live = true →
    ((ctxOf s lc c).stage = .idle ∨ interruptible (ctxOf s lc c) = true ∨ parkedCtx s lc c = true) ∧
      (ctxOf s lc c).loads = []) ∧
  (∀ (part vf : Nat) (s : State), s.modPower ≠ .standby → (vfOf s vf).part = part →
    ∃ t, exec (.runningFunctionChange part vf) s = .next t ∧ (partOf t part).running = some vf ∧
      ∀ k, k ≠ part → partOf t k = partOf s k)

/-- R166, R285, R330, R334 to R340, R342, R343, R345 to R350, R361: a write request reaches its point of coherence with the
bytes that are dirty still, which are clean then (the model's choice, log 12); one whose line does not translate ends a
STRICT
task that has written its bytes with LEASE_VIOLATION, else it parks and its context shows WAIT 7. A memory record
goes to the ring and its index to the reeve; REPLAY frees what is parked behind it, UNMAPPED freezes a parked context with
PROTECT, answers −3 to a LAUNCH, ends a task whose bank is unmapped, drops a completion record. Outside STANDBY TLBINV,
HVCMD,
CHRATE and DICTLD start their work; they finish it: an invalidation leaves no covered translation, one with FLUSH no
line and
no hold of the page, its dirty lines written to their frames; a harvest writes two bytes for a frame, its counter and
its dirty
bit. A dictionary is what its 4 KiB hold when the load begins, a write of DICTLD is judged and its fields are kept while
other
loads run, and a further load runs beside them (log 40, DEDUCED). A generation retires into the newest. A failing
granule is repaired, one that holds an uncorrectable error taking the poison tag, or retired with that tag, but in
STANDBY; an object that is discarded is zero and free, in memory and
in the MSC, and no second-level cache holds a clean byte of it. MODEL'S CHOICE (log 37, DEDUCED: R350 says only that
every context freezes):
the contexts of a task that met a POISON freeze with that cause where they stand at a boundary, and else have it pending
until
the next; the task is relaunched once no job of its runs, or parks for storage, or ends with CAUSE 0x08 after
three rollbacks. -/
def Obligations.MemorySystemEvents : Prop :=
  (∀ (idx : Nat) (w : WriteReq) (s : State), s.writes[idx]? = some w → firstOfLine s idx w.key = true →
    isParked s (.write w.lc w.ctx w.key) = false → w.refst = none →
    let l := outLine s w default
    (w.dest = .l2 → w.fromL2 = none → ∃ t, exec (.writeAcknowledgement idx) s = .next t ∧
      t.writes = s.writes.eraseIdx idx ∧ t.mem = s.mem ∧ t.msc = s.msc ∧
      ∀ i, i < 128 → inMask (dirtyMask l) i = true → ∃ x, look t.l2 (l2Key (coreDie s w.lc) w.key) = some x ∧
        lineByte x.data i = lineByte l.data i ∧ inMask (dirtyMask x) i = true) ∧
    (w.dest = .msc → dirtyMask l = 0 →
      exec (.writeAcknowledgement idx) s = .next { s with writes := s.writes.eraseIdx idx }) ∧
    (∀ p, w.dest = .msc → dirtyMask l ≠ 0 → translate s (keyAsid w.key) (keyVa w.key) = .ok p →
      landReady s w p = true → ∃ t, exec (.writeAcknowledgement idx) s = .next t ∧
        t.writes = s.writes.eraseIdx idx ∧ dirtyMask (outLine t w default) = 0 ∧
        (p.aliased = false → ∀ i, i < 128 → inMask (dirtyMask l) i = true →
          lineByte (pocLine t w.key p) i = lineByte l.data i)) ∧
    (∀ e, w.dest = .msc → dirtyMask l ≠ 0 → translate s (keyAsid w.key) (keyVa w.key) = .fail e →
      let x := ctxOf s w.lc w.ctx
      (writeLease s w = true → ∃ t, exec (.writeAcknowledgement idx) s = .next t ∧ t.writes = s.writes.eraseIdx idx ∧
        (x.live = true → x.frozen = false → bit x.elit 63 = false → x.pend = [] →
          (ctxOf t w.lc w.ctx).frozen = true ∧ (ctxOf t w.lc w.ctx).cause = 7)) ∧
      (writeLease s w = false → ∃ t, exec (.writeAcknowledgement idx) s = .next t ∧ t.writes = s.writes ∧
        isParked t (.write w.lc w.ctx w.key) = true ∧
        (x.live = true → x.frozen = false → (ctxOf t w.lc w.ctx).wait = 7)))) ∧
  (∀ (idx lc : Nat) (m : MemRecord) (p : Page) (s : State), s.records[idx]? = some m → reeveOf s 0 = some lc →
    m.index = none → bits s.mrqbase 63 12 ≠ 0 → ringFull s.mrqbase s.mrqptr = false →
    translate s 0 (ringBase s.mrqbase + ptrTail s.mrqptr % ringSize s.mrqbase * 64) = .ok p →
    ∃ t, exec (.memoryRecordWrite idx) s = .next t ∧ t.mrqptr = bumpTail s.mrqptr ∧
      t.words = s.words ++ [⟨none, lc, 6, word (ptrTail s.mrqptr)⟩] ∧
      (m.kind ≤ 2 → t.records = modifyAt s.records idx (fun r => { r with index := some (ptrTail s.mrqptr) }))) ∧
  (∀ (rec : Nat) (m : MemRecord) (s : State), recordAt s (rec % 2 ^ 32) = some m → s.modPower ≠ .standby →
    (∃ t, exec (.mrsolveReplay rec) s = .next t ∧ t.records = s.records.filter (fun r => r.index != some (rec % 2 ^ 32)) ∧
      (∀ lc c k a l, m.waiters = [⟨.write lc c k, a, l⟩] → (ctxOf s lc c).wait = 7 → (ctxOf t lc c).wait = 0) ∧
      ((∀ w ∈ m.waiters, ∀ lc c k, w.who ≠ .write lc c k) → t.cores = s.cores)) ∧
    (m.kind ≠ 2 → ∃ t, exec (.mrsolveUnmapped rec) s = .next t ∧
      (∀ lc c a l, m.waiters = [⟨.access lc c, a, l⟩] → (ctxOf s lc c).live = true → (ctxOf s lc c).frozen = false →
        (ctxOf t lc c).frozen = true ∧ (ctxOf t lc c).cause = 5 ∧ (ctxOf t lc c).pc = (ctxOf s lc c).pc ∧
        t.records = s.records.filter (fun r => r.index != some (rec % 2 ^ 32))) ∧
      (∀ lc c a l, m.waiters = [⟨.launch lc c, a, l⟩] → (ctxOf t lc c).stage = .answered (wordOfInt (-3))) ∧
      (∀ n a l q, m.waiters = [⟨.bank n, a, l⟩] → taskOf s n = some q →
        taskOf t n = some { q with cause := 5, stage := .done }) ∧
      (∀ n a l q, m.waiters = [⟨.completion n, a, l⟩] → taskOf s n = some q → taskOf t n = some { q with compl := 0 }))) ∧
  (∀ (v : Word) (s : State),
    (bit s.tlbinv 61 = true → exec (.tlbinvPage v) s = .next s ∧ exec (.tlbinvAsid v) s = .next s) ∧
    (bit s.tlbinv 61 = false → s.modPower ≠ .standby →
      (∃ t, exec (.tlbinvPage v) s = .next t ∧ bit t.tlbinv 61 = true ∧ bit t.tlbinv 62 = false ∧
        bit t.tlbinv 63 = bit v 63 ∧ bits t.tlbinv 47 0 = bits v 47 0) ∧
      (∃ t, exec (.tlbinvAsid v) s = .next t ∧ bit t.tlbinv 61 = true ∧ bit t.tlbinv 62 = true ∧
        bit t.tlbinv 63 = bit v 63 ∧ bits t.tlbinv 47 0 = bits v 47 0)) ∧
    (bit s.tlbinv 61 = true → tlbLoadOut s s.tlbinv = false → ∃ t, exec .tlbinvDone s = .next t ∧
      bit t.tlbinv 61 = false ∧ (∀ e ∈ t.tlb, tlbCovers s.tlbinv (tlbAsid e.1) (tlbVa e.1) e.2 = false) ∧
      (bit s.tlbinv 63 = true →
        (∀ e ∈ t.msc, tlbCovers s.tlbinv (keyAsid e.1) (keyVa e.1) e.2.page = false) ∧
        ∀ m, m < 64 → ∀ h ∈ (millOf t m).holds, tlbCovers s.tlbinv h.2.asid h.2.addr (holdPage s h.2) = false)) ∧
    (∀ k l, look s.msc k = some l → look (mscDrop s k).msc k = none ∧
      (l.dirty = true → frameLine (mscDrop s k) (frameOf l.page (keyVa k)) = l.data))) ∧
  (∀ (v : Word) (s : State),
    (bits s.hvcmd 23 0 ≠ 0 → exec (.hvcmdHarvest v) s = .next s) ∧
    (bits s.hvcmd 23 0 = 0 → s.modPower ≠ .standby → ∃ t, exec (.hvcmdHarvest v) s = .next t ∧ bits t.hvcmd 23 0 = bits v 23 0 ∧
      bits t.hvcmd 55 24 = bits v 55 24 ∧ t.hvDone = 0) ∧
    (∀ p n, bits s.hvcmd 23 0 ≠ 0 → isParked s .harvest = false → hvFrame s = some n →
      let va := (s.hvbuf.toNat / 128 * 128 + 2 * s.hvDone) % 2 ^ 64
      let c := getD 0 s.heat n
      translate s 0 va = .ok p →
      mscReady s 0 va 2 (c + (if s.heatDirty.contains n then 256 else 0)) p = true →
      ∃ t, exec .harvestFrame s = .next t ∧ bits t.hvcmd 23 0 = bits s.hvcmd 23 0 - 1 ∧ t.hvDone = s.hvDone + 1 ∧
        (p.aliased = false → c < 256 →
          lineByte (pocLine t (lineKey 0 va) p) (va % 128) = BitVec.ofNat 8 c ∧
          lineByte (pocLine t (lineKey 0 va) p) (va % 128 + 1) = if s.heatDirty.contains n then 1#8 else 0#8) ∧
        (p.aliased = false → (look s.msc (lineKey 0 va)).isSome = true →
          heatFrame (frameOf p (keyVa (lineKey 0 va))) ≠ some n → getD 0 t.heat n = c / 2 ∧ n ∉ t.heatDirty))) ∧
  (∀ (v : Word) (s : State), s.modPower ≠ .standby →
    (bits v 1 0 < 3 → ∃ t, exec (.chrateSwitch v) s = .next t ∧ t.chrate = v &&& 0xFF80#64 ∧
      look (stackOf t (bits v 15 12)).switching (bits v 11 7) =
        (if getD 0 (stackOf s (bits v 15 12)).rates (bits v 11 7) = bits v 1 0 then none else some (bits v 1 0))) ∧
    (∃ t, exec (.chrateSelect v) s = .next t ∧ t.chrate = v &&& 0xFF80#64 ∧ t.memStacks = s.memStacks)) ∧
  (∀ (k c r : Nat) (rest : Sparse Nat) (s : State), (stackOf s k).switching = (c, r) :: rest →
    ∃ t, exec (.chrateSwitchDone k) s = .next t ∧ getD 0 (stackOf t k).rates c = r ∧ (stackOf t k).switching = rest) ∧
  (∀ (v : Word) (s : State), s.modPower ≠ .standby →
    let part := bits v 9 4
    let keeps := fun (t : State) (st : Nat) => exec (.dictldLoad v) s = .next t ∧ bits t.dictld 63 12 = bits v 63 12 ∧
      bits t.dictld 9 4 = part ∧ bits t.dictld 1 0 = st
    ((47 < part ∨ dictMapped s v = false) → ∃ t, keeps t 3 ∧ t.dictLoads = s.dictLoads) ∧
    (part ≤ 47 → dictMapped s v = true → 2 ≤ (partOf s part).gens.length → ∃ t, keeps t 2 ∧ t.dictLoads = s.dictLoads) ∧
    (part ≤ 47 → dictMapped s v = true → (partOf s part).gens.length < 2 →
      ∃ t g, keeps t 1 ∧ bits t.dictld 3 2 = g % 4 ∧ t.dictLoads = s.dictLoads ++ [⟨part, g, List.range 16⟩] ∧
        (partOf t part).gens = (partOf s part).gens ++ [g] ∧ getD [] (partOf t part).books g = dictBook s v)) ∧
  (∀ (k i : Nat) (l : DictLoad) (s : State), s.dictLoads.findIdx? (fun m => m.left.contains k) = some i →
    s.dictLoads[i]? = some l → ∃ t, exec (.dictldDone k) s = .next t ∧
      (l.left.erase k ≠ [] → t.dictLoads = s.dictLoads.set i { l with left := l.left.erase k } ∧ t.dictld = s.dictld) ∧
      (l.left.erase k = [] → t.dictLoads = s.dictLoads.eraseIdx i ∧ (partOf t l.part).newest = l.gen ∧
        (bits s.dictld 1 0 = 1 → bits s.dictld 9 4 = l.part → bits s.dictld 3 2 = l.gen → bits t.dictld 1 0 = 0))) ∧
  (∀ (part gen : Nat) (s : State), gen ∈ (partOf s part).gens → gen ≠ (partOf s part).newest →
    (∀ l ∈ s.dictLoads, l.part ≠ part) →
    ∃ t, exec (.generationRetire part gen) s = .next t ∧ (partOf t part).gens = (partOf s part).gens.erase gen ∧
      (partOf t part).moves = (partOf s part).moves ++ [(gen, (partOf s part).newest)]) ∧
  (∀ (pa : Nat) (need : RepairNeed) (lost : Bool) (s : State), s.modPower = .standby →
    exec (.dramRepair pa need lost) s = .next s) ∧
  (∀ (pa : Nat) (need : RepairNeed) (lost : Bool) (s : State), s.modPower ≠ .standby → pa < 2 ^ 41 →
    pa % 2 ^ 37 < 96 * 2 ^ 30 →
    (∀ n, fitSpare (stackOf s (frameStack pa)) (bankKey pa) need = some n →
      ∃ t, exec (.dramRepair pa need lost) s = .next t ∧ t.mem = s.mem ∧
        stackOf t (frameStack pa) = useSpare (stackOf s (frameStack pa)) (bankKey pa) n ∧
        granTag t pa = if lost ∨ isFaulty s pa = true then 3 else granTag s pa) ∧
    (fitSpare (stackOf s (frameStack pa)) (bankKey pa) need = none →
      ∃ t, exec (.dramRepair pa need lost) s = .next t ∧ granTag t pa = 3 ∧
        bankKey pa ∈ (stackOf t (frameStack pa)).degraded ∧ s.records.length < t.records.length)) ∧
  (∀ (idx : Nat) (s : State), ∃ t, exec (.rowCopyComplete idx) s = .next t ∧ t.rowCopies = s.rowCopies.eraseIdx idx ∧
    t.mem = s.mem) ∧
  (∀ (o : Obj) (a : Nat) (s : State), o.hdr % 8 = 0 →
    (o.hdr ≤ a → a < o.hdr + 8 * o.len → memByte (discardObject s o) a = 0#8 ∧ granTag (discardObject s o) a = 0) ∧
    ((a < o.hdr ∨ o.hdr + 8 * o.len ≤ a) → memByte (discardObject s o) a = memByte s a ∧
      granTag (discardObject s o) a = granTag s a) ∧
    ∀ e ∈ (discardObject s o).msc, ∀ i, i < 128 → o.hdr ≤ frameOf e.2.page (keyVa e.1) + i →
      frameOf e.2.page (keyVa e.1) + i < o.hdr + 8 * o.len → lineByte e.2.data i = 0#8) ∧
  (∀ (o : Obj) (k : Nat) (l : Line) (s : State), look (discardObject s o).l2 k = some l →
    l.valid &&& ~~~dirtyMask l &&& objectMask o l.page (l2Line k) = 0) ∧
  (∀ (n : Nat) (q : Task) (s : State), taskOf s n = some q → q.stage = .placed → q.rolling = false →
    taskOf (poisonMet s n) n = some { q with rolling := true } ∧
    ∀ e ∈ crewContexts s n, (ctxOf s e.1 e.2).live = true →
      (atDelivery (ctxOf s e.1 e.2) = true → (ctxOf (poisonMet s n) e.1 e.2).frozen = true) ∧
      (atDelivery (ctxOf s e.1 e.2) = false → (ctxOf s e.1 e.2).frozen = false →
        (ctxOf (poisonMet s n) e.1 e.2).frozen = false ∧
          ∃ p ∈ (ctxOf (poisonMet s n) e.1 e.2).pend, isPoisonCause p = true)) ∧
  (∀ (n : Nat) (q : Task) (s : State), taskOf s n = some q → q.num = n → q.rolling = true →
    (q.logged = true → q.rollbacks < 3 → isParked s (.rollback n) = false → crewDue s n = false →
      engineWritesDone s n = true → logReady s q = true →
      (rollbackFull s q = none → ∃ t r, exec (.rollback n) s = .next t ∧
        taskOf t n = some r ∧ r.stage = .ready ∧ r.rollbacks = q.rollbacks + 1 ∧ r.rolling = false ∧ r.log = [] ∧
        r.walks = [] ∧ r.record = q.record) ∧
      (∀ k p, rollbackFull s q = some (k, p) → ∃ t, exec (.rollback n) s = .next t ∧ isParked t (.rollback n) = true ∧
        t.tasks = s.tasks)) ∧
    ((q.logged = false ∨ 3 ≤ q.rollbacks) → ∃ t r, exec (.rollback n) s = .next t ∧ taskOf t n = some r ∧
      r.cause = 8 ∧ r.rolling = false))

/-- R50, R75, R82, R103, R119, R123, R130, R299, R305 to R308, R312 to R314, R322, R361: a delivered cause is taken between
instructions or at an interruptible wait that has changed nothing, never with an extension pending; it freezes its
context, with
DELIV set and its packet in the die; a halt-group stop becomes pending, before its member's row begins the cycle after the
last that R322 allows; a packet enters the reeve's ring and its index queue 7,
and the request that its context held acts then; one whose ring does not translate parks; a
port word enters its queue in order. The reeve resumes, steps, stops and ends contexts, DCTL reading its request until
it is done: until the packet is written, or a lodged core restored; a resumed context acquires before its next
instruction. The
reeve edits the registers of frozen contexts only, and in STANDBY it edits none. -/
def Obligations.ReeveAndDelivery : Prop :=
  (∀ (x : Ctx), deliverable x = true ↔ x.live = true ∧ x.frozen = false ∧ x.pend ≠ [] ∧ bit x.elit 63 = false ∧
    x.stage = .idle ∧ (x.wait % 16 ≤ 6 ∨ x.wait % 16 = 8)) ∧
  (∀ (lc c : Nat) (p : Pending) (ps : List Pending) (s : State), (standsOn s lc).isSome = true →
    deliverable (ctxOf s lc c) = true → (ctxOf s lc c).pend = p :: ps → ∃ t, exec (.deliveredTrap lc c) s = .next t ∧
      ctxOf t lc c = { ctxOf s lc c with pend := ps, frozen := true, cause := p.cause, sub := p.sub, deliv := true, wait := 0, stage := .idle, counted := false, stepping := false } ∧
      t.packets = s.packets ++ [⟨lc, c, packetWords s lc c p.cause p.sub true p.addr p.detail⟩] ∧
      (∀ a b, (a, b) ≠ (lc, c) → ctxOf t a b = ctxOf s a b) ∧ SameMemory s t) ∧
  (∀ (lc c : Nat) (d : StopDue) (s : State), s.stopsDue.find? (fun d => d.lc == lc && d.ctx == c) = some d →
    (ctxOf s lc c).live = true → ∃ t, exec (.haltGroupStop lc c) s = .next t ∧ t.stopsDue = s.stopsDue.erase d ∧
      (ctxOf t lc c).pend = (ctxOf s lc c).pend ++ [⟨0x0C, 1, 0#64, stopDetail d⟩]) ∧
  (∀ (row depth p : Nat) (d : StopDue) (s : State), d ∈ s.stopsDue → standsOn s d.lc = some p → rowNum p = row → d.left = 0 →
    turnRowCycle row depth s = .next s) ∧
  (∀ (die r : Nat) (p : Packet) (pg : Page) (s : State), s.packets.find? (fun p => packetDie p == die) = some p →
    packetReeve s p = some r →
    let q := physOf s (coreOf s r).phys
    bits q.fpqbase 63 12 ≠ 0 → ringFull q.fpqbase q.fpqptr = false → isParked s (.packet die) = false →
    let va := ringBase q.fpqbase + ptrTail q.fpqptr % ringSize q.fpqbase * 128
    let x := ctxOf s p.lc p.ctx
    (translate s 0 va = .ok pg → ∃ t, exec (.faultPacketWrite die) s = .next t ∧
      (x.dctl = 0 → t.packets = s.packets.erase p ∧ ctxOf t p.lc p.ctx = x ∧
        (physOf t (coreOf s r).phys).fpqptr = bumpTail q.fpqptr ∧
        t.words = s.words ++ [⟨none, r, 7, word (ptrTail q.fpqptr)⟩]) ∧
      ((x.dctl = 1 ∨ x.dctl = 2) → x.live = true → x.frozen = true → x.stage = .idle → rollingBack s p.lc = false →
        (standsOn s p.lc).isSome = true →
        (∀ o ∈ s.packets.erase p, o.lc ≠ p.lc ∨ o.ctx ≠ p.ctx) →
        ctxOf t p.lc p.ctx = { x with frozen := false, cause := 0, sub := 0, deliv := false, wait := 0, stepping := x.dctl == 2, dctl := 0, fence := true })) ∧
    (∀ e, translate s 0 va = .fail e → ∃ t, exec (.faultPacketWrite die) s = .next t ∧ isParked t (.packet die) = true ∧
      t.packets = s.packets)) ∧
  (∀ (idx : Nat) (w : PortWord) (s : State), s.words[idx]? = some w →
    (takesWords (coreOf s w.dest) = true → firstToQueue s idx w = true →
      (queueOf (coreOf s w.dest) w.port).length < queueCapacity s w.dest →
      ∃ t, exec (.portWordDelivery idx) s = .next t ∧ t.words = s.words.eraseIdx idx ∧
        queueOf (coreOf t w.dest) w.port = queueOf (coreOf s w.dest) w.port ++ [w.value] ∧
        ∀ lc p, (lc, p) ≠ (w.dest, w.port) → queueOf (coreOf t lc) p = queueOf (coreOf s lc) p) ∧
    (queueCapacity s w.dest ≤ (queueOf (coreOf s w.dest) w.port).length →
      exec (.portWordDelivery idx) s = .next s)) ∧
  (∀ (lc c : Nat) (s : State), rollingBack s lc = false → (ctxOf s lc c).dctl ≠ 3 → (ctxOf s lc c).live = true →
    let x := ctxOf s lc c
    (x.frozen = true → packetWaits s lc c = true →
      (∃ t, exec (.dctlResume lc c) s = .next t ∧ ctxOf t lc c = { x with dctl := 1 } ∧ dctlRead (ctxOf t lc c) = 1#64) ∧
      (∃ t, exec (.dctlStep lc c) s = .next t ∧ ctxOf t lc c = { x with dctl := 2 } ∧ dctlRead (ctxOf t lc c) = 2#64) ∧
      (∃ t, exec (.dctlEnd lc c) s = .next t ∧ ctxOf t lc c = { x with dctl := 3 } ∧ dctlRead (ctxOf t lc c) = 3#64)) ∧
    (x.frozen = true → packetWaits s lc c = false → standsOn s lc = none →
      (∃ t, exec (.dctlResume lc c) s = .next t ∧ ctxOf t lc c = { x with dctl := 1 }) ∧
      (∃ t, exec (.dctlStep lc c) s = .next t ∧ ctxOf t lc c = { x with dctl := 2 })) ∧
    (x.frozen = true → packetWaits s lc c = false → (standsOn s lc).isSome = true →
      (∃ t, exec (.dctlResume lc c) s = .next t ∧ ctxOf t lc c = { x with frozen := false, cause := 0, sub := 0, deliv := false, wait := 0, stage := .idle, stepping := false, dctl := 0, fence := true }) ∧
      (∃ t, exec (.dctlStep lc c) s = .next t ∧ ctxOf t lc c = { x with frozen := false, cause := 0, sub := 0, deliv := false, wait := 0, stage := .idle, stepping := true, dctl := 0, fence := true })) ∧
    (x.frozen = false → (∀ p ∈ x.pend, p.cause ≠ 0x0C ∨ p.sub ≠ 3) →
      ∃ t, exec (.dctlStop lc c) s = .next t ∧ ctxOf t lc c = { x with pend := x.pend ++ [⟨0x0C, 3, 0#64, []⟩] }) ∧
    (x.frozen = true → packetWaits s lc c = false → c ≠ 0 → ∃ t, exec (.dctlEnd lc c) s = .next t ∧ (ctxOf t lc c).live = false) ∧
    (x.frozen = false → exec (.dctlResume lc c) s = .next s ∧ exec (.dctlStep lc c) s = .next s ∧
      exec (.dctlEnd lc c) s = .next s)) ∧
  (∀ (x : Ctx), x.dctl = 0 → (x.stepping = true → dctlRead x = 2#64) ∧
    (x.stepping = false → x.live = true → (∃ p ∈ x.pend, p.cause = 0x0C ∧ p.sub = 3) → dctlRead x = 4#64) ∧
    (x.stepping = false → (∀ p ∈ x.pend, p.cause ≠ 0x0C ∨ p.sub ≠ 3) → dctlRead x = 0#64)) ∧
  (∀ (lc : Nat) (s u : State), ending (ctxOf s lc 0) = true → helpersDone s lc = true → engineBusy s lc = false →
    flushCore s lc = (u, none) → ∃ t, exec (.dctlEnd lc 0) s = .next t ∧ (coreOf t lc).retired = true ∧
      (ctxOf t lc 0).live = false) ∧
  (∀ (lc c : Nat) (v : Word) (s : State),
    let x := ctxOf s lc c
    (x.live = true → x.frozen = true → s.modPower ≠ .standby →
      (∃ t, exec (.pcWrite lc c v) s = .next t ∧ ctxOf t lc c = { x with pc := v &&& 0xFFFFFFFFFFFFFFFE#64 }) ∧
      (∃ t, exec (.fmodeWrite lc c v) s = .next t ∧ ctxOf t lc c = { x with fmode := writeFmode x.fmode v }) ∧
      (∃ t, exec (.srgWrite lc c v) s = .next t ∧ ctxOf t lc c = { x with srg := writeSrg v }) ∧
      (∃ t, exec (.registerWrite (.context lc c 0x00B) v) s = .next t ∧
        ctxOf t lc c = { x with psel := v &&& 0xFFFF#64 }) ∧
      (bits v 3 0 ≤ allotSB x → bits v 7 4 ≤ allotVB x → allotSB x ≤ 6 → allotVB x ≤ 8 →
        ∃ t, exec (.allotWrite lc c v) s = .next t ∧ ctxOf t lc c = setAllot x (bits v 7 4) (bits v 3 0))) ∧
    (x.frozen = false → exec (.pcWrite lc c v) s = .next s ∧ exec (.fmodeWrite lc c v) s = .next s ∧
      exec (.srgWrite lc c v) s = .next s ∧ exec (.allotWrite lc c v) s = .next s ∧
      ∀ n, exec (.registerWrite (.context lc c n) v) s = .next s)) ∧
  (∀ (lc c p : Nat) (r : RegAddr) (v : Word) (s : State), s.modPower = .standby →
    exec (.pcWrite lc c v) s = .next s ∧ exec (.fmodeWrite lc c v) s = .next s ∧ exec (.srgWrite lc c v) s = .next s ∧
      exec (.allotWrite lc c v) s = .next s ∧ exec (.registerWrite r v) s = .next s ∧ exec (.clkdivWrite p v) s = .next s) ∧
  (∀ (p : Nat) (v : Word) (s : State), physRuns s p = false → s.modPower ≠ .standby → ∃ t, exec (.clkdivWrite p v) s = .next t ∧
    (physOf t p).clkdiv = if bits v 2 0 < 6 then v &&& 7#64 else (physOf s p).clkdiv)

/-- R192, R291, R327, R351, R352, R354, R355, R359 to R361, R366: MODULE_RESET runs the reeves whose cores start, from the
firmware's entry, when its signature checks, and none else. The host reads and writes bytes of valid window pages, each
at the
canonical address of its entry, gets an unsupported request on others, and gives up halves. A key enters a slot of the
function's partition once no line of the slot is cached and no hold stands on one, but only a debug key when the debug
access is
PORT; a quote is signed with the next key index while there is one; the unlock zeroes the slots; a module with nothing to do
goes idle with every core off. MODEL'S CHOICES: a reeve's head starts with seed 0 and s1 = 0, like a task's head else
(log 43); in
UNVERIFIED, and after a reset with no core for a reeve, no reeve runs, and IDLE leaves retained ways to R291 (log 23,
DEDUCED); a
host write takes its half in E, in the host's hold, and changes neither memory nor the MSC until it is given up (log 24,
DEDUCED). -/
def Obligations.HostAndModule : Prop :=
  (∀ (b : BootInput) (s : State),
    (b.firmwareOk = false → ∃ t, exec (.moduleReset b) s = .next t ∧ t.security = .unverified ∧ t.reeves = [] ∧
      t.tasks = [] ∧ t.cores = []) ∧
    (b.firmwareOk = true → reevesUp b ≠ [] → ∃ t, exec (.moduleReset b) s = .next t ∧ t.security = .verified ∧
      t.modPower = .active ∧ t.tasks = [] ∧ t.heatk = 8#64 ∧
      (∀ d ∈ reevesUp b, ctxOf t (lcKey 0 d) 0 = startedCtx 0#64 d 0 b.entry 0#64 ∧ reeveOf t d = some (lcKey 0 d))) ∧
    (b.firmwareOk = true → reevesUp b = [] →
      ∃ t, exec (.moduleReset b) s = .next t ∧ t.modPower = .standby ∧ t.reeves = [])) ∧
  (∀ (vf a : Nat) (s : State), a / 65536 < 65536 →
    let w := getD 0#64 (vfOf s vf).window (a / 65536)
    (bit w 63 = false → windowByte s vf a = none) ∧
    (bit w 63 = true → ∃ va, windowByte s vf a = some (bits w 15 0, va) ∧ canonicalVa va = true ∧
      va % 2 ^ 48 = bits w 47 16 * 65536 + a % 65536)) ∧
  (∀ (a : HostAccess) (s : State),
    (cxlUp s = true → s.modPower ≠ .standby → hostBytes s a = none →
      ∃ t, exec (.hostWindowAccess a) s = .next t ∧ t.hostErrors = s.hostErrors ++ [(a.vf, a.addr)] ∧ t.mem = s.mem) ∧
    (∀ asid va p b, cxlUp s = true → s.modPower ≠ .standby → hostBytes s a = some (some [(asid, va, p, b)]) →
      (a.write = false → ∃ t, exec (.hostWindowAccess a) s = .next t ∧
        t.hostReads = s.hostReads ++ [(a.vf, [hostByte s asid va p])]) ∧
      (a.write = true → ∃ t, exec (.hostWindowAccess a) s = .next t ∧ hostByte t asid va p = b ∧
        t.mem = s.mem ∧ t.msc = s.msc ∧ halfState (halfOf t (lineKey asid va)) (va % 128 / 64) = .e))) ∧
  (∀ (key half : Nat) (data : Bool) (s : State), isParked s (.bridge key) = false →
    (halfState (halfOf s key) half ≠ .e → ∃ t, exec (.backInvalidate key half data) s = .next t ∧ t.mem = s.mem ∧
      halfState (halfOf t key) half = if data && halfState (halfOf s key) half != .i then .s else .i) ∧
    (∀ p, halfState (halfOf s key) half = .e → (halfOf s key).hostMask &&& halfMask half ≠ 0 →
      translate s (keyAsid key) (keyVa key) = .ok p →
      cmpRoom s p (frameOf p (keyVa key))
        (mergeLine (pocLine s key p) (halfOf s key).hostData ((halfOf s key).hostMask &&& halfMask half)) = true →
      ∃ t, exec (.backInvalidate key half data) s = .next t ∧
        halfState (halfOf t key) half = (if data then .s else .i) ∧
        (p.aliased = false → pocLine t key p = mergeLine (pocLine (mscFill s key p).1 key p) (halfOf s key).hostData
          ((halfOf s key).hostMask &&& halfMask half)))) ∧
  (∀ (vf slot key : Nat) (dbg : Bool) (s : State), s.security = .verified → slot ≠ 0 →
    (partOf s (vfOf s vf).part).slots.contains slot = true →
    (s.debug = .port → dbg = false → exec (.keySlotWrite vf slot ⟨key, dbg⟩) s = .next s) ∧
    ((s.debug = .window ∨ dbg = true) → ∃ t, exec (.keySlotWrite vf slot ⟨key, dbg⟩) s = .next t ∧ look t.keySlots slot = some key ∧
      (∀ e ∈ t.msc, e.2.page.key ≠ slot) ∧ ∀ m, m < 64 → ∀ h ∈ (millOf t m).holds, (holdPage s h.2).key ≠ slot)) ∧
  (∀ (vf nonce : Nat) (s : State), s.security = .verified →
    (s.quoteIndex < 65536 → ∃ t q, exec (.attestationQuote vf nonce) s = .next t ∧ t.quotes = s.quotes ++ [q] ∧
      q.vf = vf ∧ q.nonce = nonce % 2 ^ 256 ∧ q.index = some s.quoteIndex ∧ t.quoteIndex = s.quoteIndex + 1) ∧
    (65536 ≤ s.quoteIndex → ∃ t q, exec (.attestationQuote vf nonce) s = .next t ∧ t.quotes = s.quotes ++ [q] ∧
      q.index = none ∧ t.quoteIndex = s.quoteIndex)) ∧
  (∀ (s : State), (∃ t, exec (.debugUnlock true) s = .next t ∧ t.debug = .port ∧ t.keySlots = [] ∧
      ∀ n q, taskOf t n = some q → q.stage = .done) ∧
    exec (.debugUnlock false) s = .next s) ∧
  (∀ (s : State), s.security = .verified → s.modPower = .active → nothingToDo s = true →
    ∃ t, exec .idleEntry s = .next t ∧ t.modPower = .idle ∧ (∀ p, (physOf t p).power = .off) ∧
      (∀ p, (physOf t p).kept = (physOf s p).kept) ∧
      ∀ k, k < 16 → (stackOf s k).skipped = false → (stackOf t k).asleep = true)

/-- R161 to R164, R312: a reply performs its outstanding load, with the page it was checked with (the model's choice,
log 10).
The load is outstanding no more; its bytes, sign-extended
or zero-extended to the register's width, or as the 512 bits of a vector register with the load's tag, or as one lane of a
gather's, land in the register that waits for them if the context still holds it; no other context's registers change. -/
def Obligations.LoadReplyLands : Prop :=
  ∀ (lc c idx : Nat) (s : State) (l : Load), (ctxOf s lc c).loads[idx]? = some l → replyReady s lc l = true →
    ∃ t v, exec (.loadReply lc c idx) s = .next t ∧ v = (performLoad s lc l.addr l.size l.page).2.1 ∧
      (ctxOf t lc c).loads = (ctxOf s lc c).loads.eraseIdx idx ∧
      (l.vec = false → 0 < l.dst → l.dst < 56 → scalarHeld (ctxOf s lc c) l.dst = true →
        sreg (ctxOf t lc c) l.dst = extended l.signed l.size v ∧
        (∀ k, k ≠ l.dst → sreg (ctxOf t lc c) k = sreg (ctxOf s lc c) k) ∧
        ∀ k, vreg (ctxOf t lc c) k = vreg (ctxOf s lc c) k) ∧
      (l.vec = true → l.lane = none → vectorHeld (ctxOf s lc c) l.dst = true →
        vreg (ctxOf t lc c) l.dst = BitVec.ofNat 512 v ∧ vtagOf (ctxOf t lc c) l.dst = l.tag ∧
        (∀ k, k ≠ l.dst → vreg (ctxOf t lc c) k = vreg (ctxOf s lc c) k) ∧
        ∀ k, sreg (ctxOf t lc c) k = sreg (ctxOf s lc c) k) ∧
      (∀ i, l.vec = true → l.lane = some i → width l.tag = 8 * l.size → i < lanes l.tag →
        vectorHeld (ctxOf s lc c) l.dst = true →
        elem (vreg (ctxOf t lc c) l.dst) l.tag i = v % 2 ^ (8 * l.size) ∧
        (∀ k, k ≠ i → k < lanes l.tag →
          elem (vreg (ctxOf t lc c) l.dst) l.tag k = elem (vreg (ctxOf s lc c) l.dst) l.tag k) ∧
        (∀ k, k ≠ l.dst → vreg (ctxOf t lc c) k = vreg (ctxOf s lc c) k) ∧
        (∀ k, vtagOf (ctxOf t lc c) k = vtagOf (ctxOf s lc c) k) ∧
        ∀ k, sreg (ctxOf t lc c) k = sreg (ctxOf s lc c) k) ∧
      ∀ lc' c', (lc', c') ≠ (lc, c) → ctxOf t lc' c' = ctxOf s lc' c'

/-- The Reset columns of the register tables (R5, R109, R168, R224, R292, R302, R310, R326, R362), the context registers
PSEL and SRG, MXACC and MELT apart: the spec gives those at a context's start, at placement or from sensors (log 2). That
memory lists nothing, in canonical form, and that a byte which nothing has written reads 0, is the model's choice (log 1).
Nothing is placed. -/
def Obligations.ResetValues : Prop :=
  (∀ lc c n, 0x008 ≤ n → n ≤ 0x017 → n ≠ 0x00B → n ≠ 0x00D → ctxReg (ctxOf State.reset lc c) n = 0#64) ∧
  (∀ lc c, (ctxOf State.reset lc c).live = false ∧ (ctxOf State.reset lc c).frozen = false) ∧
  (∀ lc, coreReg (coreOf State.reset lc) 0x100 = 0#64 ∧ coreReg (coreOf State.reset lc) 0x102 = 0#64) ∧
  (∀ row, rowReg State.reset row 0x301 = 0#64 ∧ rowReg State.reset row 0x302 = 20#64 ∧
    rowReg State.reset row 0x303 = 0#64 ∧ rowReg State.reset row 0x304 = 0x1014#64) ∧
  (∀ p, (physOf State.reset p).clkdiv = 0#64 ∧ (∀ n, cntReg (physOf State.reset p) n = 0#64) ∧
    ∀ n, reeveReg (physOf State.reset p) n = 0#64) ∧
  (∀ n, packageReg State.reset n = if n = 0x808 then 8#64 else 0#64) ∧
  State.reset.tasks = [] ∧ MemoryInv State.reset ∧ ∀ a, memByte State.reset a = 0#8

/-- Words written out from the encoding tables (R29 to R32), of several families and layouts, decode to the instruction
they stand for. -/
def Obligations.DecodesSpecWords : Prop :=
  (∀ e ∈ ([
    (0x601FE013, .ext 0 (.lit 0x3F)), (0x00153C43, .call 15 0x15), (0x8010651B, .ld 10 3 2), (0x7FF86523, .stW 10 3 0xFFF),
    (0xA26182A7, .ldBz 5 3 4), (0x21E182A7, .stRel 5 3 3), (0x0A8A023B, .tdefBf16 4 20 (.s 21)), (0x000063FB, .mxz 7 0),
    (0x2003807B, .waitj (.s 7)), (0x00080053, .cpy 16), (0x41EA065F, .pub 12 20 3), (0x6004C2CF, .launch 5 (.c 9)),
    (0xE6E6804F, .syswr 13 (.s 13)), (0x8002C04B, .haltKeep (.c 5))] : List (Nat × Instr)),
    decode (w32 (BitVec.ofNat 32 e.1)) = .ok (e.2, [])) ∧
  decode (w16 0xFB19#16) = .ok (.bZCompact 6 0x3E, []) ∧ decode (w16 0x0E02#16) = .ok (.ldCompact 4 3 0, [])

namespace Sys2Proof.Machine

/-- What a turn that began in r answers as a step: the caches keep within their capacities (R10, R11, R13) and
outstanding jobs
meet the stash as it now is (R238); a turn that needs a line for which a cache has no room does not happen. -/
def settledTurn (r : State) (o : Res) : Res :=
  match o with
  | .next t => .next (if overfull r (afterTurn t) then r else afterTurn t)
  | other => other

end Sys2Proof.Machine

/-- R10, R11, R13, R27, R46, R238, R305, R313: the turn of a context that may run. A delivered cause that is due is taken;
else a context that was resumed acquires at PKG first, once its accesses have completed, and waits until then. When both
halfwords of the word at the program counter are fetched and decode to an instruction, the step is exec of that
instruction, in
the state whose current context is this one and whose memory-side caches have read the word's lines; when they are no
instruction's, the step is the trap of a reserved word. That a fetch reads past the core's caches and brings its lines
into the
memory-side ones is the model's choice (log 9). Afterwards the caches keep within their capacities and the jobs meet the
stash (log 32),
which changes nothing while no cache holds more and no job is outstanding; that a turn does not happen which needs a
line for
which a cache has no room is the model's choice (log 3). -/
def Obligations.StepRunsDecodedInstruction : Prop :=
  (∀ (s : State) (rest : List Turn) (lc c : Nat), s.agenda = .context lc c :: rest → runnable s lc c = true →
    let r : State := { s with agenda := rest }
    let u : State := { s with agenda := rest, cur := (lc, c) }
    let x := ctxOf s lc c
    (deliverable x = true → step s = settledTurn r (execDeliveredTrap lc c u)) ∧
    (deliverable x = false → x.fence = true → accessesDone x = false → step s = settledTurn r (waitAt u (repliesWait u 0))) ∧
    (deliverable x = false → (x.fence = false ∨ accessesDone x = true) →
      let w := if x.fence then modCtx (acquire u lc scopePkg) lc c (fun y => { y with fence := false }) else u
      ∀ bs, fetchWord w lc x.pc.toNat = .got bs →
        (∀ i q, decode bs = .ok (i, q) → step s = settledTurn r (exec i (fetchLines w lc x.pc.toNat bs.length))) ∧
        ((∀ i q, decode bs ≠ .ok (i, q)) →
          step s = settledTurn r (execReservedWord (insnOf bs) (fetchLines w lc x.pc.toNat bs.length))))) ∧
  (∀ r t : State, t.l2.length ≤ l2Lines → t.msc.length ≤ mscLines →
    (∀ p ∈ keys t.phys, (linesOn p t).length ≤ waysLines (stashWays t p)) → (∀ y ∈ t.yards, y.2.jobs = []) →
    settledTurn r (.next t) = .next t)

/-- Decode and encode agree: every well-formed instruction that has an encoding decodes from its encoding, whatever bytes
follow, with every operand as it was. -/
def Obligations.EncodeDecodeAgree : Prop :=
  ∀ (i : Instr) (rest : List Byte), wellFormed i = true → i.isEvent = false → decode (encode i ++ rest) = .ok (i, rest)

/-- Every step keeps memory in its canonical form (the model's choice, log 1), so that equal memories are equal data. -/
def Obligations.StepKeepsMemoryInv : Prop :=
  ∀ s t : State, MemoryInv s → step s = .next t → MemoryInv t

/-- No instruction stops the machine: every instruction and every event answers a next state from every state; so does every
step whose next turn names only units of the module, or is drawn. -/
def Obligations.EveryStepGoesOn : Prop :=
  (∀ (i : Instr) (s : State), GoesOn (exec i s)) ∧ ∀ s : State, AgendaOk s → GoesOn (step s)
end

