-- ==== Sys2Proof/Laws/Sparse.lean ====
section
/-! SUPPORT. The laws of finite maps: read after write, and the canonical form that every operation keeps. -/

namespace Sys2Proof.Machine

/-! ### Reading after writing -/

theorem look_erase_same {α : Type} (m : Sparse α) (a : Nat) : look (erase m a) a = none := by
  induction m with
  | nil => rfl
  | cons e m ih =>
    obtain ⟨k, v⟩ := e
    unfold erase at ih ⊢
    by_cases h : k = a
    · simp [h, ih]
    · simp [h, look, ih]

theorem look_erase_other {α : Type} (m : Sparse α) {a b : Nat} (h : b ≠ a) : look (erase m a) b = look m b := by
  induction m with
  | nil => rfl
  | cons e m ih =>
    obtain ⟨k, v⟩ := e
    unfold erase at ih ⊢
    by_cases hk : k = a
    · subst hk
      simp [look, ih, Ne.symm h]
    · simp [hk, look, ih]

theorem look_insertAt_same {α : Type} (m : Sparse α) (a : Nat) (v : α) (h : look m a = none) :
    look (insertAt a v m) a = some v := by
  induction m with
  | nil => simp [insertAt, look]
  | cons e m ih =>
    obtain ⟨k, w⟩ := e
    unfold insertAt
    have hk : k ≠ a := by
      rintro rfl
      simp [look] at h
    split
    · simp [look]
    · simp only [look, hk, if_false] at h ⊢
      exact ih h

theorem look_insertAt_other {α : Type} (m : Sparse α) {a b : Nat} (v : α) (h : b ≠ a) :
    look (insertAt a v m) b = look m b := by
  induction m with
  | nil => simp [insertAt, look, Ne.symm h]
  | cons e m ih =>
    obtain ⟨k, w⟩ := e
    unfold insertAt
    split
    · simp [look, Ne.symm h]
    · simp [look, ih]

theorem look_put_same {α : Type} (m : Sparse α) (a : Nat) (v : α) : look (put m a v) a = some v :=
  look_insertAt_same _ a v (look_erase_same m a)

theorem look_put_other {α : Type} (m : Sparse α) {a b : Nat} (v : α) (h : b ≠ a) : look (put m a v) b = look m b := by
  rw [put, look_insertAt_other _ v h, look_erase_other m h]

theorem getD_setD_same {α : Type} [DecidableEq α] (d : α) (m : Sparse α) (a : Nat) (v : α) :
    getD d (setD d m a v) a = v := by
  unfold getD setD
  split
  · next h => simp [look_erase_same, h]
  · simp [look_put_same]

theorem getD_setD_other {α : Type} [DecidableEq α] (d : α) (m : Sparse α) {a b : Nat} (v : α) (h : b ≠ a) :
    getD d (setD d m a v) b = getD d m b := by
  unfold getD setD
  split
  · rw [look_erase_other m h]
  · rw [look_put_other m v h]

/-- Read after write, in one equation. -/
theorem getD_setD {α : Type} [DecidableEq α] (d : α) (m : Sparse α) (a b : Nat) (v : α) :
    getD d (setD d m a v) b = if b = a then v else getD d m b := by
  split
  · next h => rw [h, getD_setD_same]
  · next h => exact getD_setD_other d m v h

theorem look_put {α : Type} (m : Sparse α) (a b : Nat) (v : α) :
    look (put m a v) b = if b = a then some v else look m b := by
  split
  · next h => rw [h, look_put_same]
  · next h => exact look_put_other m v h

@[simp] theorem getD_nil {α : Type} (d : α) (a : Nat) : getD d [] a = d := rfl

/-! ### The canonical form -/

theorem canonFrom_mono {α : Type} [DecidableEq α] {d : α} {m : Sparse α} {lo lo' : Nat} (hle : lo' ≤ lo)
    (h : canonFrom d lo m = true) : canonFrom d lo' m = true := by
  cases m with
  | nil => rfl
  | cons e m =>
    obtain ⟨k, v⟩ := e
    simp only [canonFrom, Bool.and_eq_true, decide_eq_true_eq] at h ⊢
    exact ⟨⟨Nat.le_trans hle h.1.1, h.1.2⟩, h.2⟩

theorem canonFrom_filter {α : Type} [DecidableEq α] {d : α} (p : Nat × α → Bool) {m : Sparse α} {lo : Nat}
    (h : canonFrom d lo m = true) : canonFrom d lo (m.filter p) = true := by
  induction m generalizing lo with
  | nil => rfl
  | cons e m ih =>
    obtain ⟨k, v⟩ := e
    simp only [canonFrom, Bool.and_eq_true, decide_eq_true_eq] at h
    by_cases hp : p (k, v) = true
    · simp only [List.filter_cons, hp, if_true, canonFrom, Bool.and_eq_true, decide_eq_true_eq]
      exact ⟨h.1, ih h.2⟩
    · simp only [List.filter_cons, hp]
      exact canonFrom_mono (Nat.le_succ_of_le h.1.1) (ih h.2)

theorem canonFrom_insertAt {α : Type} [DecidableEq α] {d v : α} (hv : v ≠ d) {m : Sparse α} {lo a : Nat}
    (hlo : lo ≤ a) (hnone : look m a = none) (h : canonFrom d lo m = true) :
    canonFrom d lo (insertAt a v m) = true := by
  induction m generalizing lo with
  | nil => simp [insertAt, canonFrom, hlo, hv]
  | cons e m ih =>
    obtain ⟨k, w⟩ := e
    simp only [canonFrom, Bool.and_eq_true, decide_eq_true_eq] at h
    have hk : k ≠ a := by
      rintro rfl
      simp [look] at hnone
    unfold insertAt
    split
    · next hlt =>
      simp only [canonFrom, Bool.and_eq_true, decide_eq_true_eq]
      exact ⟨⟨hlo, hv⟩, ⟨hlt, h.1.2⟩, h.2⟩
    · next hge =>
      simp only [canonFrom, Bool.and_eq_true, decide_eq_true_eq]
      refine ⟨h.1, ih (by omega) ?_ h.2⟩
      simpa [look, hk] using hnone

/-- A write keeps the canonical form. -/
theorem canon_setD {α : Type} [DecidableEq α] {d : α} {m : Sparse α} (a : Nat) (v : α) (h : canon d m = true) :
    canon d (setD d m a v) = true := by
  unfold canon setD at *
  split
  · exact canonFrom_filter _ h
  · next hv => exact canonFrom_insertAt hv (Nat.zero_le a) (look_erase_same m a) (canonFrom_filter _ h)

/-- Leaving entries out keeps the canonical form. -/
theorem canon_filter {α : Type} [DecidableEq α] {d : α} {m : Sparse α} (p : Nat × α → Bool) (h : canon d m = true) :
    canon d (m.filter p) = true :=
  canonFrom_filter p h

end Sys2Proof.Machine
end

