-- ==== Sys2Proof/Laws/State.lean ====
section
/-! SUPPORT. The fields of the state after each of its updates: every field but the one an update is for stays. -/

namespace Sys2Proof.Machine

/-! ### setCore -/

@[simp] theorem setCore_ticks (s : State) (lc : Nat) (c : LCore) : (setCore s lc c).ticks = s.ticks := rfl
@[simp] theorem setCore_phys (s : State) (lc : Nat) (c : LCore) : (setCore s lc c).phys = s.phys := rfl
@[simp] theorem setCore_rows (s : State) (lc : Nat) (c : LCore) : (setCore s lc c).rows = s.rows := rfl
@[simp] theorem setCore_yards (s : State) (lc : Nat) (c : LCore) : (setCore s lc c).yards = s.yards := rfl
@[simp] theorem setCore_memStacks (s : State) (lc : Nat) (c : LCore) : (setCore s lc c).memStacks = s.memStacks := rfl
@[simp] theorem setCore_mills (s : State) (lc : Nat) (c : LCore) : (setCore s lc c).mills = s.mills := rfl
@[simp] theorem setCore_mem (s : State) (lc : Nat) (c : LCore) : (setCore s lc c).mem = s.mem := rfl
@[simp] theorem setCore_gtags (s : State) (lc : Nat) (c : LCore) : (setCore s lc c).gtags = s.gtags := rfl
@[simp] theorem setCore_faulty (s : State) (lc : Nat) (c : LCore) : (setCore s lc c).faulty = s.faulty := rfl
@[simp] theorem setCore_frameKeys (s : State) (lc : Nat) (c : LCore) : (setCore s lc c).frameKeys = s.frameKeys := rfl
@[simp] theorem setCore_msc (s : State) (lc : Nat) (c : LCore) : (setCore s lc c).msc = s.msc := rfl
@[simp] theorem setCore_l2 (s : State) (lc : Nat) (c : LCore) : (setCore s lc c).l2 = s.l2 := rfl
@[simp] theorem setCore_tlb (s : State) (lc : Nat) (c : LCore) : (setCore s lc c).tlb = s.tlb := rfl
@[simp] theorem setCore_halves (s : State) (lc : Nat) (c : LCore) : (setCore s lc c).halves = s.halves := rfl
@[simp] theorem setCore_tasks (s : State) (lc : Nat) (c : LCore) : (setCore s lc c).tasks = s.tasks := rfl
@[simp] theorem setCore_readySeq (s : State) (lc : Nat) (c : LCore) : (setCore s lc c).readySeq = s.readySeq := rfl
@[simp] theorem setCore_credits (s : State) (lc : Nat) (c : LCore) : (setCore s lc c).credits = s.credits := rfl
@[simp] theorem setCore_starved (s : State) (lc : Nat) (c : LCore) : (setCore s lc c).starved = s.starved := rfl
@[simp] theorem setCore_pubs (s : State) (lc : Nat) (c : LCore) : (setCore s lc c).pubs = s.pubs := rfl
@[simp] theorem setCore_records (s : State) (lc : Nat) (c : LCore) : (setCore s lc c).records = s.records := rfl
@[simp] theorem setCore_packets (s : State) (lc : Nat) (c : LCore) : (setCore s lc c).packets = s.packets := rfl
@[simp] theorem setCore_reeves (s : State) (lc : Nat) (c : LCore) : (setCore s lc c).reeves = s.reeves := rfl
@[simp] theorem setCore_words (s : State) (lc : Nat) (c : LCore) : (setCore s lc c).words = s.words := rfl
@[simp] theorem setCore_writes (s : State) (lc : Nat) (c : LCore) : (setCore s lc c).writes = s.writes := rfl
@[simp] theorem setCore_flights (s : State) (lc : Nat) (c : LCore) : (setCore s lc c).flights = s.flights := rfl
@[simp] theorem setCore_replies (s : State) (lc : Nat) (c : LCore) : (setCore s lc c).replies = s.replies := rfl
@[simp] theorem setCore_tripped (s : State) (lc : Nat) (c : LCore) : (setCore s lc c).tripped = s.tripped := rfl
@[simp] theorem setCore_stopsDue (s : State) (lc : Nat) (c : LCore) : (setCore s lc c).stopsDue = s.stopsDue := rfl
@[simp] theorem setCore_mrqbase (s : State) (lc : Nat) (c : LCore) : (setCore s lc c).mrqbase = s.mrqbase := rfl
@[simp] theorem setCore_mrqptr (s : State) (lc : Nat) (c : LCore) : (setCore s lc c).mrqptr = s.mrqptr := rfl
@[simp] theorem setCore_mrsolve (s : State) (lc : Nat) (c : LCore) : (setCore s lc c).mrsolve = s.mrsolve := rfl
@[simp] theorem setCore_asidbase (s : State) (lc : Nat) (c : LCore) : (setCore s lc c).asidbase = s.asidbase := rfl
@[simp] theorem setCore_tlbinv (s : State) (lc : Nat) (c : LCore) : (setCore s lc c).tlbinv = s.tlbinv := rfl
@[simp] theorem setCore_heatk (s : State) (lc : Nat) (c : LCore) : (setCore s lc c).heatk = s.heatk := rfl
@[simp] theorem setCore_hvcmd (s : State) (lc : Nat) (c : LCore) : (setCore s lc c).hvcmd = s.hvcmd := rfl
@[simp] theorem setCore_hvbuf (s : State) (lc : Nat) (c : LCore) : (setCore s lc c).hvbuf = s.hvbuf := rfl
@[simp] theorem setCore_hvDone (s : State) (lc : Nat) (c : LCore) : (setCore s lc c).hvDone = s.hvDone := rfl
@[simp] theorem setCore_chrate (s : State) (lc : Nat) (c : LCore) : (setCore s lc c).chrate = s.chrate := rfl
@[simp] theorem setCore_dictld (s : State) (lc : Nat) (c : LCore) : (setCore s lc c).dictld = s.dictld := rfl
@[simp] theorem setCore_dictLoads (s : State) (lc : Nat) (c : LCore) : (setCore s lc c).dictLoads = s.dictLoads := rfl
@[simp] theorem setCore_heat (s : State) (lc : Nat) (c : LCore) : (setCore s lc c).heat = s.heat := rfl
@[simp] theorem setCore_heatDirty (s : State) (lc : Nat) (c : LCore) : (setCore s lc c).heatDirty = s.heatDirty := rfl
@[simp] theorem setCore_gens (s : State) (lc : Nat) (c : LCore) : (setCore s lc c).gens = s.gens := rfl
@[simp] theorem setCore_cmpPages (s : State) (lc : Nat) (c : LCore) : (setCore s lc c).cmpPages = s.cmpPages := rfl
@[simp] theorem setCore_rowCopies (s : State) (lc : Nat) (c : LCore) : (setCore s lc c).rowCopies = s.rowCopies := rfl
@[simp] theorem setCore_melt (s : State) (lc : Nat) (c : LCore) : (setCore s lc c).melt = s.melt := rfl
@[simp] theorem setCore_meltAt (s : State) (lc : Nat) (c : LCore) : (setCore s lc c).meltAt = s.meltAt := rfl
@[simp] theorem setCore_rfz (s : State) (lc : Nat) (c : LCore) : (setCore s lc c).rfz = s.rfz := rfl
@[simp] theorem setCore_power10us (s : State) (lc : Nat) (c : LCore) : (setCore s lc c).power10us = s.power10us := rfl
@[simp] theorem setCore_trip (s : State) (lc : Nat) (c : LCore) : (setCore s lc c).trip = s.trip := rfl
@[simp] theorem setCore_sensors (s : State) (lc : Nat) (c : LCore) : (setCore s lc c).sensors = s.sensors := rfl
@[simp] theorem setCore_vfs (s : State) (lc : Nat) (c : LCore) : (setCore s lc c).vfs = s.vfs := rfl
@[simp] theorem setCore_parts (s : State) (lc : Nat) (c : LCore) : (setCore s lc c).parts = s.parts := rfl
@[simp] theorem setCore_keySlots (s : State) (lc : Nat) (c : LCore) : (setCore s lc c).keySlots = s.keySlots := rfl
@[simp] theorem setCore_security (s : State) (lc : Nat) (c : LCore) : (setCore s lc c).security = s.security := rfl
@[simp] theorem setCore_debug (s : State) (lc : Nat) (c : LCore) : (setCore s lc c).debug = s.debug := rfl
@[simp] theorem setCore_modPower (s : State) (lc : Nat) (c : LCore) : (setCore s lc c).modPower = s.modPower := rfl
@[simp] theorem setCore_journal (s : State) (lc : Nat) (c : LCore) : (setCore s lc c).journal = s.journal := rfl
@[simp] theorem setCore_quoteIndex (s : State) (lc : Nat) (c : LCore) : (setCore s lc c).quoteIndex = s.quoteIndex := rfl
@[simp] theorem setCore_quotes (s : State) (lc : Nat) (c : LCore) : (setCore s lc c).quotes = s.quotes := rfl
@[simp] theorem setCore_msix (s : State) (lc : Nat) (c : LCore) : (setCore s lc c).msix = s.msix := rfl
@[simp] theorem setCore_hostErrors (s : State) (lc : Nat) (c : LCore) : (setCore s lc c).hostErrors = s.hostErrors := rfl
@[simp] theorem setCore_hostReads (s : State) (lc : Nat) (c : LCore) : (setCore s lc c).hostReads = s.hostReads := rfl
@[simp] theorem setCore_cur (s : State) (lc : Nat) (c : LCore) : (setCore s lc c).cur = s.cur := rfl
@[simp] theorem setCore_agenda (s : State) (lc : Nat) (c : LCore) : (setCore s lc c).agenda = s.agenda := rfl
@[simp] theorem setCore_draws (s : State) (lc : Nat) (c : LCore) : (setCore s lc c).draws = s.draws := rfl
@[simp] theorem setCore_taken (s : State) (lc : Nat) (c : LCore) : (setCore s lc c).taken = s.taken := rfl

/-! ### modCore -/

@[simp] theorem modCore_ticks (s : State) (lc : Nat) (f : LCore → LCore) : (modCore s lc f).ticks = s.ticks := rfl
@[simp] theorem modCore_phys (s : State) (lc : Nat) (f : LCore → LCore) : (modCore s lc f).phys = s.phys := rfl
@[simp] theorem modCore_rows (s : State) (lc : Nat) (f : LCore → LCore) : (modCore s lc f).rows = s.rows := rfl
@[simp] theorem modCore_yards (s : State) (lc : Nat) (f : LCore → LCore) : (modCore s lc f).yards = s.yards := rfl
@[simp] theorem modCore_memStacks (s : State) (lc : Nat) (f : LCore → LCore) : (modCore s lc f).memStacks = s.memStacks := rfl
@[simp] theorem modCore_mills (s : State) (lc : Nat) (f : LCore → LCore) : (modCore s lc f).mills = s.mills := rfl
@[simp] theorem modCore_mem (s : State) (lc : Nat) (f : LCore → LCore) : (modCore s lc f).mem = s.mem := rfl
@[simp] theorem modCore_gtags (s : State) (lc : Nat) (f : LCore → LCore) : (modCore s lc f).gtags = s.gtags := rfl
@[simp] theorem modCore_faulty (s : State) (lc : Nat) (f : LCore → LCore) : (modCore s lc f).faulty = s.faulty := rfl
@[simp] theorem modCore_frameKeys (s : State) (lc : Nat) (f : LCore → LCore) : (modCore s lc f).frameKeys = s.frameKeys := rfl
@[simp] theorem modCore_msc (s : State) (lc : Nat) (f : LCore → LCore) : (modCore s lc f).msc = s.msc := rfl
@[simp] theorem modCore_l2 (s : State) (lc : Nat) (f : LCore → LCore) : (modCore s lc f).l2 = s.l2 := rfl
@[simp] theorem modCore_tlb (s : State) (lc : Nat) (f : LCore → LCore) : (modCore s lc f).tlb = s.tlb := rfl
@[simp] theorem modCore_halves (s : State) (lc : Nat) (f : LCore → LCore) : (modCore s lc f).halves = s.halves := rfl
@[simp] theorem modCore_tasks (s : State) (lc : Nat) (f : LCore → LCore) : (modCore s lc f).tasks = s.tasks := rfl
@[simp] theorem modCore_readySeq (s : State) (lc : Nat) (f : LCore → LCore) : (modCore s lc f).readySeq = s.readySeq := rfl
@[simp] theorem modCore_credits (s : State) (lc : Nat) (f : LCore → LCore) : (modCore s lc f).credits = s.credits := rfl
@[simp] theorem modCore_starved (s : State) (lc : Nat) (f : LCore → LCore) : (modCore s lc f).starved = s.starved := rfl
@[simp] theorem modCore_pubs (s : State) (lc : Nat) (f : LCore → LCore) : (modCore s lc f).pubs = s.pubs := rfl
@[simp] theorem modCore_records (s : State) (lc : Nat) (f : LCore → LCore) : (modCore s lc f).records = s.records := rfl
@[simp] theorem modCore_packets (s : State) (lc : Nat) (f : LCore → LCore) : (modCore s lc f).packets = s.packets := rfl
@[simp] theorem modCore_reeves (s : State) (lc : Nat) (f : LCore → LCore) : (modCore s lc f).reeves = s.reeves := rfl
@[simp] theorem modCore_words (s : State) (lc : Nat) (f : LCore → LCore) : (modCore s lc f).words = s.words := rfl
@[simp] theorem modCore_writes (s : State) (lc : Nat) (f : LCore → LCore) : (modCore s lc f).writes = s.writes := rfl
@[simp] theorem modCore_flights (s : State) (lc : Nat) (f : LCore → LCore) : (modCore s lc f).flights = s.flights := rfl
@[simp] theorem modCore_replies (s : State) (lc : Nat) (f : LCore → LCore) : (modCore s lc f).replies = s.replies := rfl
@[simp] theorem modCore_tripped (s : State) (lc : Nat) (f : LCore → LCore) : (modCore s lc f).tripped = s.tripped := rfl
@[simp] theorem modCore_stopsDue (s : State) (lc : Nat) (f : LCore → LCore) : (modCore s lc f).stopsDue = s.stopsDue := rfl
@[simp] theorem modCore_mrqbase (s : State) (lc : Nat) (f : LCore → LCore) : (modCore s lc f).mrqbase = s.mrqbase := rfl
@[simp] theorem modCore_mrqptr (s : State) (lc : Nat) (f : LCore → LCore) : (modCore s lc f).mrqptr = s.mrqptr := rfl
@[simp] theorem modCore_mrsolve (s : State) (lc : Nat) (f : LCore → LCore) : (modCore s lc f).mrsolve = s.mrsolve := rfl
@[simp] theorem modCore_asidbase (s : State) (lc : Nat) (f : LCore → LCore) : (modCore s lc f).asidbase = s.asidbase := rfl
@[simp] theorem modCore_tlbinv (s : State) (lc : Nat) (f : LCore → LCore) : (modCore s lc f).tlbinv = s.tlbinv := rfl
@[simp] theorem modCore_heatk (s : State) (lc : Nat) (f : LCore → LCore) : (modCore s lc f).heatk = s.heatk := rfl
@[simp] theorem modCore_hvcmd (s : State) (lc : Nat) (f : LCore → LCore) : (modCore s lc f).hvcmd = s.hvcmd := rfl
@[simp] theorem modCore_hvbuf (s : State) (lc : Nat) (f : LCore → LCore) : (modCore s lc f).hvbuf = s.hvbuf := rfl
@[simp] theorem modCore_hvDone (s : State) (lc : Nat) (f : LCore → LCore) : (modCore s lc f).hvDone = s.hvDone := rfl
@[simp] theorem modCore_chrate (s : State) (lc : Nat) (f : LCore → LCore) : (modCore s lc f).chrate = s.chrate := rfl
@[simp] theorem modCore_dictld (s : State) (lc : Nat) (f : LCore → LCore) : (modCore s lc f).dictld = s.dictld := rfl
@[simp] theorem modCore_dictLoads (s : State) (lc : Nat) (f : LCore → LCore) : (modCore s lc f).dictLoads = s.dictLoads := rfl
@[simp] theorem modCore_heat (s : State) (lc : Nat) (f : LCore → LCore) : (modCore s lc f).heat = s.heat := rfl
@[simp] theorem modCore_heatDirty (s : State) (lc : Nat) (f : LCore → LCore) : (modCore s lc f).heatDirty = s.heatDirty := rfl
@[simp] theorem modCore_gens (s : State) (lc : Nat) (f : LCore → LCore) : (modCore s lc f).gens = s.gens := rfl
@[simp] theorem modCore_cmpPages (s : State) (lc : Nat) (f : LCore → LCore) : (modCore s lc f).cmpPages = s.cmpPages := rfl
@[simp] theorem modCore_rowCopies (s : State) (lc : Nat) (f : LCore → LCore) : (modCore s lc f).rowCopies = s.rowCopies := rfl
@[simp] theorem modCore_melt (s : State) (lc : Nat) (f : LCore → LCore) : (modCore s lc f).melt = s.melt := rfl
@[simp] theorem modCore_meltAt (s : State) (lc : Nat) (f : LCore → LCore) : (modCore s lc f).meltAt = s.meltAt := rfl
@[simp] theorem modCore_rfz (s : State) (lc : Nat) (f : LCore → LCore) : (modCore s lc f).rfz = s.rfz := rfl
@[simp] theorem modCore_power10us (s : State) (lc : Nat) (f : LCore → LCore) : (modCore s lc f).power10us = s.power10us := rfl
@[simp] theorem modCore_trip (s : State) (lc : Nat) (f : LCore → LCore) : (modCore s lc f).trip = s.trip := rfl
@[simp] theorem modCore_sensors (s : State) (lc : Nat) (f : LCore → LCore) : (modCore s lc f).sensors = s.sensors := rfl
@[simp] theorem modCore_vfs (s : State) (lc : Nat) (f : LCore → LCore) : (modCore s lc f).vfs = s.vfs := rfl
@[simp] theorem modCore_parts (s : State) (lc : Nat) (f : LCore → LCore) : (modCore s lc f).parts = s.parts := rfl
@[simp] theorem modCore_keySlots (s : State) (lc : Nat) (f : LCore → LCore) : (modCore s lc f).keySlots = s.keySlots := rfl
@[simp] theorem modCore_security (s : State) (lc : Nat) (f : LCore → LCore) : (modCore s lc f).security = s.security := rfl
@[simp] theorem modCore_debug (s : State) (lc : Nat) (f : LCore → LCore) : (modCore s lc f).debug = s.debug := rfl
@[simp] theorem modCore_modPower (s : State) (lc : Nat) (f : LCore → LCore) : (modCore s lc f).modPower = s.modPower := rfl
@[simp] theorem modCore_journal (s : State) (lc : Nat) (f : LCore → LCore) : (modCore s lc f).journal = s.journal := rfl
@[simp] theorem modCore_quoteIndex (s : State) (lc : Nat) (f : LCore → LCore) : (modCore s lc f).quoteIndex = s.quoteIndex := rfl
@[simp] theorem modCore_quotes (s : State) (lc : Nat) (f : LCore → LCore) : (modCore s lc f).quotes = s.quotes := rfl
@[simp] theorem modCore_msix (s : State) (lc : Nat) (f : LCore → LCore) : (modCore s lc f).msix = s.msix := rfl
@[simp] theorem modCore_hostErrors (s : State) (lc : Nat) (f : LCore → LCore) : (modCore s lc f).hostErrors = s.hostErrors := rfl
@[simp] theorem modCore_hostReads (s : State) (lc : Nat) (f : LCore → LCore) : (modCore s lc f).hostReads = s.hostReads := rfl
@[simp] theorem modCore_cur (s : State) (lc : Nat) (f : LCore → LCore) : (modCore s lc f).cur = s.cur := rfl
@[simp] theorem modCore_agenda (s : State) (lc : Nat) (f : LCore → LCore) : (modCore s lc f).agenda = s.agenda := rfl
@[simp] theorem modCore_draws (s : State) (lc : Nat) (f : LCore → LCore) : (modCore s lc f).draws = s.draws := rfl
@[simp] theorem modCore_taken (s : State) (lc : Nat) (f : LCore → LCore) : (modCore s lc f).taken = s.taken := rfl

/-! ### setCtx -/

@[simp] theorem setCtx_ticks (s : State) (lc n : Nat) (x : Ctx) : (setCtx s lc n x).ticks = s.ticks := rfl
@[simp] theorem setCtx_phys (s : State) (lc n : Nat) (x : Ctx) : (setCtx s lc n x).phys = s.phys := rfl
@[simp] theorem setCtx_rows (s : State) (lc n : Nat) (x : Ctx) : (setCtx s lc n x).rows = s.rows := rfl
@[simp] theorem setCtx_yards (s : State) (lc n : Nat) (x : Ctx) : (setCtx s lc n x).yards = s.yards := rfl
@[simp] theorem setCtx_memStacks (s : State) (lc n : Nat) (x : Ctx) : (setCtx s lc n x).memStacks = s.memStacks := rfl
@[simp] theorem setCtx_mills (s : State) (lc n : Nat) (x : Ctx) : (setCtx s lc n x).mills = s.mills := rfl
@[simp] theorem setCtx_mem (s : State) (lc n : Nat) (x : Ctx) : (setCtx s lc n x).mem = s.mem := rfl
@[simp] theorem setCtx_gtags (s : State) (lc n : Nat) (x : Ctx) : (setCtx s lc n x).gtags = s.gtags := rfl
@[simp] theorem setCtx_faulty (s : State) (lc n : Nat) (x : Ctx) : (setCtx s lc n x).faulty = s.faulty := rfl
@[simp] theorem setCtx_frameKeys (s : State) (lc n : Nat) (x : Ctx) : (setCtx s lc n x).frameKeys = s.frameKeys := rfl
@[simp] theorem setCtx_msc (s : State) (lc n : Nat) (x : Ctx) : (setCtx s lc n x).msc = s.msc := rfl
@[simp] theorem setCtx_l2 (s : State) (lc n : Nat) (x : Ctx) : (setCtx s lc n x).l2 = s.l2 := rfl
@[simp] theorem setCtx_tlb (s : State) (lc n : Nat) (x : Ctx) : (setCtx s lc n x).tlb = s.tlb := rfl
@[simp] theorem setCtx_halves (s : State) (lc n : Nat) (x : Ctx) : (setCtx s lc n x).halves = s.halves := rfl
@[simp] theorem setCtx_tasks (s : State) (lc n : Nat) (x : Ctx) : (setCtx s lc n x).tasks = s.tasks := rfl
@[simp] theorem setCtx_readySeq (s : State) (lc n : Nat) (x : Ctx) : (setCtx s lc n x).readySeq = s.readySeq := rfl
@[simp] theorem setCtx_credits (s : State) (lc n : Nat) (x : Ctx) : (setCtx s lc n x).credits = s.credits := rfl
@[simp] theorem setCtx_starved (s : State) (lc n : Nat) (x : Ctx) : (setCtx s lc n x).starved = s.starved := rfl
@[simp] theorem setCtx_pubs (s : State) (lc n : Nat) (x : Ctx) : (setCtx s lc n x).pubs = s.pubs := rfl
@[simp] theorem setCtx_records (s : State) (lc n : Nat) (x : Ctx) : (setCtx s lc n x).records = s.records := rfl
@[simp] theorem setCtx_packets (s : State) (lc n : Nat) (x : Ctx) : (setCtx s lc n x).packets = s.packets := rfl
@[simp] theorem setCtx_reeves (s : State) (lc n : Nat) (x : Ctx) : (setCtx s lc n x).reeves = s.reeves := rfl
@[simp] theorem setCtx_words (s : State) (lc n : Nat) (x : Ctx) : (setCtx s lc n x).words = s.words := rfl
@[simp] theorem setCtx_writes (s : State) (lc n : Nat) (x : Ctx) : (setCtx s lc n x).writes = s.writes := rfl
@[simp] theorem setCtx_flights (s : State) (lc n : Nat) (x : Ctx) : (setCtx s lc n x).flights = s.flights := rfl
@[simp] theorem setCtx_replies (s : State) (lc n : Nat) (x : Ctx) : (setCtx s lc n x).replies = s.replies := rfl
@[simp] theorem setCtx_tripped (s : State) (lc n : Nat) (x : Ctx) : (setCtx s lc n x).tripped = s.tripped := rfl
@[simp] theorem setCtx_stopsDue (s : State) (lc n : Nat) (x : Ctx) : (setCtx s lc n x).stopsDue = s.stopsDue := rfl
@[simp] theorem setCtx_mrqbase (s : State) (lc n : Nat) (x : Ctx) : (setCtx s lc n x).mrqbase = s.mrqbase := rfl
@[simp] theorem setCtx_mrqptr (s : State) (lc n : Nat) (x : Ctx) : (setCtx s lc n x).mrqptr = s.mrqptr := rfl
@[simp] theorem setCtx_mrsolve (s : State) (lc n : Nat) (x : Ctx) : (setCtx s lc n x).mrsolve = s.mrsolve := rfl
@[simp] theorem setCtx_asidbase (s : State) (lc n : Nat) (x : Ctx) : (setCtx s lc n x).asidbase = s.asidbase := rfl
@[simp] theorem setCtx_tlbinv (s : State) (lc n : Nat) (x : Ctx) : (setCtx s lc n x).tlbinv = s.tlbinv := rfl
@[simp] theorem setCtx_heatk (s : State) (lc n : Nat) (x : Ctx) : (setCtx s lc n x).heatk = s.heatk := rfl
@[simp] theorem setCtx_hvcmd (s : State) (lc n : Nat) (x : Ctx) : (setCtx s lc n x).hvcmd = s.hvcmd := rfl
@[simp] theorem setCtx_hvbuf (s : State) (lc n : Nat) (x : Ctx) : (setCtx s lc n x).hvbuf = s.hvbuf := rfl
@[simp] theorem setCtx_hvDone (s : State) (lc n : Nat) (x : Ctx) : (setCtx s lc n x).hvDone = s.hvDone := rfl
@[simp] theorem setCtx_chrate (s : State) (lc n : Nat) (x : Ctx) : (setCtx s lc n x).chrate = s.chrate := rfl
@[simp] theorem setCtx_dictld (s : State) (lc n : Nat) (x : Ctx) : (setCtx s lc n x).dictld = s.dictld := rfl
@[simp] theorem setCtx_dictLoads (s : State) (lc n : Nat) (x : Ctx) : (setCtx s lc n x).dictLoads = s.dictLoads := rfl
@[simp] theorem setCtx_heat (s : State) (lc n : Nat) (x : Ctx) : (setCtx s lc n x).heat = s.heat := rfl
@[simp] theorem setCtx_heatDirty (s : State) (lc n : Nat) (x : Ctx) : (setCtx s lc n x).heatDirty = s.heatDirty := rfl
@[simp] theorem setCtx_gens (s : State) (lc n : Nat) (x : Ctx) : (setCtx s lc n x).gens = s.gens := rfl
@[simp] theorem setCtx_cmpPages (s : State) (lc n : Nat) (x : Ctx) : (setCtx s lc n x).cmpPages = s.cmpPages := rfl
@[simp] theorem setCtx_rowCopies (s : State) (lc n : Nat) (x : Ctx) : (setCtx s lc n x).rowCopies = s.rowCopies := rfl
@[simp] theorem setCtx_melt (s : State) (lc n : Nat) (x : Ctx) : (setCtx s lc n x).melt = s.melt := rfl
@[simp] theorem setCtx_meltAt (s : State) (lc n : Nat) (x : Ctx) : (setCtx s lc n x).meltAt = s.meltAt := rfl
@[simp] theorem setCtx_rfz (s : State) (lc n : Nat) (x : Ctx) : (setCtx s lc n x).rfz = s.rfz := rfl
@[simp] theorem setCtx_power10us (s : State) (lc n : Nat) (x : Ctx) : (setCtx s lc n x).power10us = s.power10us := rfl
@[simp] theorem setCtx_trip (s : State) (lc n : Nat) (x : Ctx) : (setCtx s lc n x).trip = s.trip := rfl
@[simp] theorem setCtx_sensors (s : State) (lc n : Nat) (x : Ctx) : (setCtx s lc n x).sensors = s.sensors := rfl
@[simp] theorem setCtx_vfs (s : State) (lc n : Nat) (x : Ctx) : (setCtx s lc n x).vfs = s.vfs := rfl
@[simp] theorem setCtx_parts (s : State) (lc n : Nat) (x : Ctx) : (setCtx s lc n x).parts = s.parts := rfl
@[simp] theorem setCtx_keySlots (s : State) (lc n : Nat) (x : Ctx) : (setCtx s lc n x).keySlots = s.keySlots := rfl
@[simp] theorem setCtx_security (s : State) (lc n : Nat) (x : Ctx) : (setCtx s lc n x).security = s.security := rfl
@[simp] theorem setCtx_debug (s : State) (lc n : Nat) (x : Ctx) : (setCtx s lc n x).debug = s.debug := rfl
@[simp] theorem setCtx_modPower (s : State) (lc n : Nat) (x : Ctx) : (setCtx s lc n x).modPower = s.modPower := rfl
@[simp] theorem setCtx_journal (s : State) (lc n : Nat) (x : Ctx) : (setCtx s lc n x).journal = s.journal := rfl
@[simp] theorem setCtx_quoteIndex (s : State) (lc n : Nat) (x : Ctx) : (setCtx s lc n x).quoteIndex = s.quoteIndex := rfl
@[simp] theorem setCtx_quotes (s : State) (lc n : Nat) (x : Ctx) : (setCtx s lc n x).quotes = s.quotes := rfl
@[simp] theorem setCtx_msix (s : State) (lc n : Nat) (x : Ctx) : (setCtx s lc n x).msix = s.msix := rfl
@[simp] theorem setCtx_hostErrors (s : State) (lc n : Nat) (x : Ctx) : (setCtx s lc n x).hostErrors = s.hostErrors := rfl
@[simp] theorem setCtx_hostReads (s : State) (lc n : Nat) (x : Ctx) : (setCtx s lc n x).hostReads = s.hostReads := rfl
@[simp] theorem setCtx_cur (s : State) (lc n : Nat) (x : Ctx) : (setCtx s lc n x).cur = s.cur := rfl
@[simp] theorem setCtx_agenda (s : State) (lc n : Nat) (x : Ctx) : (setCtx s lc n x).agenda = s.agenda := rfl
@[simp] theorem setCtx_draws (s : State) (lc n : Nat) (x : Ctx) : (setCtx s lc n x).draws = s.draws := rfl
@[simp] theorem setCtx_taken (s : State) (lc n : Nat) (x : Ctx) : (setCtx s lc n x).taken = s.taken := rfl

/-! ### modCtx -/

@[simp] theorem modCtx_ticks (s : State) (lc n : Nat) (f : Ctx → Ctx) : (modCtx s lc n f).ticks = s.ticks := rfl
@[simp] theorem modCtx_phys (s : State) (lc n : Nat) (f : Ctx → Ctx) : (modCtx s lc n f).phys = s.phys := rfl
@[simp] theorem modCtx_rows (s : State) (lc n : Nat) (f : Ctx → Ctx) : (modCtx s lc n f).rows = s.rows := rfl
@[simp] theorem modCtx_yards (s : State) (lc n : Nat) (f : Ctx → Ctx) : (modCtx s lc n f).yards = s.yards := rfl
@[simp] theorem modCtx_memStacks (s : State) (lc n : Nat) (f : Ctx → Ctx) : (modCtx s lc n f).memStacks = s.memStacks := rfl
@[simp] theorem modCtx_mills (s : State) (lc n : Nat) (f : Ctx → Ctx) : (modCtx s lc n f).mills = s.mills := rfl
@[simp] theorem modCtx_mem (s : State) (lc n : Nat) (f : Ctx → Ctx) : (modCtx s lc n f).mem = s.mem := rfl
@[simp] theorem modCtx_gtags (s : State) (lc n : Nat) (f : Ctx → Ctx) : (modCtx s lc n f).gtags = s.gtags := rfl
@[simp] theorem modCtx_faulty (s : State) (lc n : Nat) (f : Ctx → Ctx) : (modCtx s lc n f).faulty = s.faulty := rfl
@[simp] theorem modCtx_frameKeys (s : State) (lc n : Nat) (f : Ctx → Ctx) : (modCtx s lc n f).frameKeys = s.frameKeys := rfl
@[simp] theorem modCtx_msc (s : State) (lc n : Nat) (f : Ctx → Ctx) : (modCtx s lc n f).msc = s.msc := rfl
@[simp] theorem modCtx_l2 (s : State) (lc n : Nat) (f : Ctx → Ctx) : (modCtx s lc n f).l2 = s.l2 := rfl
@[simp] theorem modCtx_tlb (s : State) (lc n : Nat) (f : Ctx → Ctx) : (modCtx s lc n f).tlb = s.tlb := rfl
@[simp] theorem modCtx_halves (s : State) (lc n : Nat) (f : Ctx → Ctx) : (modCtx s lc n f).halves = s.halves := rfl
@[simp] theorem modCtx_tasks (s : State) (lc n : Nat) (f : Ctx → Ctx) : (modCtx s lc n f).tasks = s.tasks := rfl
@[simp] theorem modCtx_readySeq (s : State) (lc n : Nat) (f : Ctx → Ctx) : (modCtx s lc n f).readySeq = s.readySeq := rfl
@[simp] theorem modCtx_credits (s : State) (lc n : Nat) (f : Ctx → Ctx) : (modCtx s lc n f).credits = s.credits := rfl
@[simp] theorem modCtx_starved (s : State) (lc n : Nat) (f : Ctx → Ctx) : (modCtx s lc n f).starved = s.starved := rfl
@[simp] theorem modCtx_pubs (s : State) (lc n : Nat) (f : Ctx → Ctx) : (modCtx s lc n f).pubs = s.pubs := rfl
@[simp] theorem modCtx_records (s : State) (lc n : Nat) (f : Ctx → Ctx) : (modCtx s lc n f).records = s.records := rfl
@[simp] theorem modCtx_packets (s : State) (lc n : Nat) (f : Ctx → Ctx) : (modCtx s lc n f).packets = s.packets := rfl
@[simp] theorem modCtx_reeves (s : State) (lc n : Nat) (f : Ctx → Ctx) : (modCtx s lc n f).reeves = s.reeves := rfl
@[simp] theorem modCtx_words (s : State) (lc n : Nat) (f : Ctx → Ctx) : (modCtx s lc n f).words = s.words := rfl
@[simp] theorem modCtx_writes (s : State) (lc n : Nat) (f : Ctx → Ctx) : (modCtx s lc n f).writes = s.writes := rfl
@[simp] theorem modCtx_flights (s : State) (lc n : Nat) (f : Ctx → Ctx) : (modCtx s lc n f).flights = s.flights := rfl
@[simp] theorem modCtx_replies (s : State) (lc n : Nat) (f : Ctx → Ctx) : (modCtx s lc n f).replies = s.replies := rfl
@[simp] theorem modCtx_tripped (s : State) (lc n : Nat) (f : Ctx → Ctx) : (modCtx s lc n f).tripped = s.tripped := rfl
@[simp] theorem modCtx_stopsDue (s : State) (lc n : Nat) (f : Ctx → Ctx) : (modCtx s lc n f).stopsDue = s.stopsDue := rfl
@[simp] theorem modCtx_mrqbase (s : State) (lc n : Nat) (f : Ctx → Ctx) : (modCtx s lc n f).mrqbase = s.mrqbase := rfl
@[simp] theorem modCtx_mrqptr (s : State) (lc n : Nat) (f : Ctx → Ctx) : (modCtx s lc n f).mrqptr = s.mrqptr := rfl
@[simp] theorem modCtx_mrsolve (s : State) (lc n : Nat) (f : Ctx → Ctx) : (modCtx s lc n f).mrsolve = s.mrsolve := rfl
@[simp] theorem modCtx_asidbase (s : State) (lc n : Nat) (f : Ctx → Ctx) : (modCtx s lc n f).asidbase = s.asidbase := rfl
@[simp] theorem modCtx_tlbinv (s : State) (lc n : Nat) (f : Ctx → Ctx) : (modCtx s lc n f).tlbinv = s.tlbinv := rfl
@[simp] theorem modCtx_heatk (s : State) (lc n : Nat) (f : Ctx → Ctx) : (modCtx s lc n f).heatk = s.heatk := rfl
@[simp] theorem modCtx_hvcmd (s : State) (lc n : Nat) (f : Ctx → Ctx) : (modCtx s lc n f).hvcmd = s.hvcmd := rfl
@[simp] theorem modCtx_hvbuf (s : State) (lc n : Nat) (f : Ctx → Ctx) : (modCtx s lc n f).hvbuf = s.hvbuf := rfl
@[simp] theorem modCtx_hvDone (s : State) (lc n : Nat) (f : Ctx → Ctx) : (modCtx s lc n f).hvDone = s.hvDone := rfl
@[simp] theorem modCtx_chrate (s : State) (lc n : Nat) (f : Ctx → Ctx) : (modCtx s lc n f).chrate = s.chrate := rfl
@[simp] theorem modCtx_dictld (s : State) (lc n : Nat) (f : Ctx → Ctx) : (modCtx s lc n f).dictld = s.dictld := rfl
@[simp] theorem modCtx_dictLoads (s : State) (lc n : Nat) (f : Ctx → Ctx) : (modCtx s lc n f).dictLoads = s.dictLoads := rfl
@[simp] theorem modCtx_heat (s : State) (lc n : Nat) (f : Ctx → Ctx) : (modCtx s lc n f).heat = s.heat := rfl
@[simp] theorem modCtx_heatDirty (s : State) (lc n : Nat) (f : Ctx → Ctx) : (modCtx s lc n f).heatDirty = s.heatDirty := rfl
@[simp] theorem modCtx_gens (s : State) (lc n : Nat) (f : Ctx → Ctx) : (modCtx s lc n f).gens = s.gens := rfl
@[simp] theorem modCtx_cmpPages (s : State) (lc n : Nat) (f : Ctx → Ctx) : (modCtx s lc n f).cmpPages = s.cmpPages := rfl
@[simp] theorem modCtx_rowCopies (s : State) (lc n : Nat) (f : Ctx → Ctx) : (modCtx s lc n f).rowCopies = s.rowCopies := rfl
@[simp] theorem modCtx_melt (s : State) (lc n : Nat) (f : Ctx → Ctx) : (modCtx s lc n f).melt = s.melt := rfl
@[simp] theorem modCtx_meltAt (s : State) (lc n : Nat) (f : Ctx → Ctx) : (modCtx s lc n f).meltAt = s.meltAt := rfl
@[simp] theorem modCtx_rfz (s : State) (lc n : Nat) (f : Ctx → Ctx) : (modCtx s lc n f).rfz = s.rfz := rfl
@[simp] theorem modCtx_power10us (s : State) (lc n : Nat) (f : Ctx → Ctx) : (modCtx s lc n f).power10us = s.power10us := rfl
@[simp] theorem modCtx_trip (s : State) (lc n : Nat) (f : Ctx → Ctx) : (modCtx s lc n f).trip = s.trip := rfl
@[simp] theorem modCtx_sensors (s : State) (lc n : Nat) (f : Ctx → Ctx) : (modCtx s lc n f).sensors = s.sensors := rfl
@[simp] theorem modCtx_vfs (s : State) (lc n : Nat) (f : Ctx → Ctx) : (modCtx s lc n f).vfs = s.vfs := rfl
@[simp] theorem modCtx_parts (s : State) (lc n : Nat) (f : Ctx → Ctx) : (modCtx s lc n f).parts = s.parts := rfl
@[simp] theorem modCtx_keySlots (s : State) (lc n : Nat) (f : Ctx → Ctx) : (modCtx s lc n f).keySlots = s.keySlots := rfl
@[simp] theorem modCtx_security (s : State) (lc n : Nat) (f : Ctx → Ctx) : (modCtx s lc n f).security = s.security := rfl
@[simp] theorem modCtx_debug (s : State) (lc n : Nat) (f : Ctx → Ctx) : (modCtx s lc n f).debug = s.debug := rfl
@[simp] theorem modCtx_modPower (s : State) (lc n : Nat) (f : Ctx → Ctx) : (modCtx s lc n f).modPower = s.modPower := rfl
@[simp] theorem modCtx_journal (s : State) (lc n : Nat) (f : Ctx → Ctx) : (modCtx s lc n f).journal = s.journal := rfl
@[simp] theorem modCtx_quoteIndex (s : State) (lc n : Nat) (f : Ctx → Ctx) : (modCtx s lc n f).quoteIndex = s.quoteIndex := rfl
@[simp] theorem modCtx_quotes (s : State) (lc n : Nat) (f : Ctx → Ctx) : (modCtx s lc n f).quotes = s.quotes := rfl
@[simp] theorem modCtx_msix (s : State) (lc n : Nat) (f : Ctx → Ctx) : (modCtx s lc n f).msix = s.msix := rfl
@[simp] theorem modCtx_hostErrors (s : State) (lc n : Nat) (f : Ctx → Ctx) : (modCtx s lc n f).hostErrors = s.hostErrors := rfl
@[simp] theorem modCtx_hostReads (s : State) (lc n : Nat) (f : Ctx → Ctx) : (modCtx s lc n f).hostReads = s.hostReads := rfl
@[simp] theorem modCtx_cur (s : State) (lc n : Nat) (f : Ctx → Ctx) : (modCtx s lc n f).cur = s.cur := rfl
@[simp] theorem modCtx_agenda (s : State) (lc n : Nat) (f : Ctx → Ctx) : (modCtx s lc n f).agenda = s.agenda := rfl
@[simp] theorem modCtx_draws (s : State) (lc n : Nat) (f : Ctx → Ctx) : (modCtx s lc n f).draws = s.draws := rfl
@[simp] theorem modCtx_taken (s : State) (lc n : Nat) (f : Ctx → Ctx) : (modCtx s lc n f).taken = s.taken := rfl

/-! ### setMe -/

@[simp] theorem setMe_ticks (s : State) (x : Ctx) : (setMe s x).ticks = s.ticks := rfl
@[simp] theorem setMe_phys (s : State) (x : Ctx) : (setMe s x).phys = s.phys := rfl
@[simp] theorem setMe_rows (s : State) (x : Ctx) : (setMe s x).rows = s.rows := rfl
@[simp] theorem setMe_yards (s : State) (x : Ctx) : (setMe s x).yards = s.yards := rfl
@[simp] theorem setMe_memStacks (s : State) (x : Ctx) : (setMe s x).memStacks = s.memStacks := rfl
@[simp] theorem setMe_mills (s : State) (x : Ctx) : (setMe s x).mills = s.mills := rfl
@[simp] theorem setMe_mem (s : State) (x : Ctx) : (setMe s x).mem = s.mem := rfl
@[simp] theorem setMe_gtags (s : State) (x : Ctx) : (setMe s x).gtags = s.gtags := rfl
@[simp] theorem setMe_faulty (s : State) (x : Ctx) : (setMe s x).faulty = s.faulty := rfl
@[simp] theorem setMe_frameKeys (s : State) (x : Ctx) : (setMe s x).frameKeys = s.frameKeys := rfl
@[simp] theorem setMe_msc (s : State) (x : Ctx) : (setMe s x).msc = s.msc := rfl
@[simp] theorem setMe_l2 (s : State) (x : Ctx) : (setMe s x).l2 = s.l2 := rfl
@[simp] theorem setMe_tlb (s : State) (x : Ctx) : (setMe s x).tlb = s.tlb := rfl
@[simp] theorem setMe_halves (s : State) (x : Ctx) : (setMe s x).halves = s.halves := rfl
@[simp] theorem setMe_tasks (s : State) (x : Ctx) : (setMe s x).tasks = s.tasks := rfl
@[simp] theorem setMe_readySeq (s : State) (x : Ctx) : (setMe s x).readySeq = s.readySeq := rfl
@[simp] theorem setMe_credits (s : State) (x : Ctx) : (setMe s x).credits = s.credits := rfl
@[simp] theorem setMe_starved (s : State) (x : Ctx) : (setMe s x).starved = s.starved := rfl
@[simp] theorem setMe_pubs (s : State) (x : Ctx) : (setMe s x).pubs = s.pubs := rfl
@[simp] theorem setMe_records (s : State) (x : Ctx) : (setMe s x).records = s.records := rfl
@[simp] theorem setMe_packets (s : State) (x : Ctx) : (setMe s x).packets = s.packets := rfl
@[simp] theorem setMe_reeves (s : State) (x : Ctx) : (setMe s x).reeves = s.reeves := rfl
@[simp] theorem setMe_words (s : State) (x : Ctx) : (setMe s x).words = s.words := rfl
@[simp] theorem setMe_writes (s : State) (x : Ctx) : (setMe s x).writes = s.writes := rfl
@[simp] theorem setMe_flights (s : State) (x : Ctx) : (setMe s x).flights = s.flights := rfl
@[simp] theorem setMe_replies (s : State) (x : Ctx) : (setMe s x).replies = s.replies := rfl
@[simp] theorem setMe_tripped (s : State) (x : Ctx) : (setMe s x).tripped = s.tripped := rfl
@[simp] theorem setMe_stopsDue (s : State) (x : Ctx) : (setMe s x).stopsDue = s.stopsDue := rfl
@[simp] theorem setMe_mrqbase (s : State) (x : Ctx) : (setMe s x).mrqbase = s.mrqbase := rfl
@[simp] theorem setMe_mrqptr (s : State) (x : Ctx) : (setMe s x).mrqptr = s.mrqptr := rfl
@[simp] theorem setMe_mrsolve (s : State) (x : Ctx) : (setMe s x).mrsolve = s.mrsolve := rfl
@[simp] theorem setMe_asidbase (s : State) (x : Ctx) : (setMe s x).asidbase = s.asidbase := rfl
@[simp] theorem setMe_tlbinv (s : State) (x : Ctx) : (setMe s x).tlbinv = s.tlbinv := rfl
@[simp] theorem setMe_heatk (s : State) (x : Ctx) : (setMe s x).heatk = s.heatk := rfl
@[simp] theorem setMe_hvcmd (s : State) (x : Ctx) : (setMe s x).hvcmd = s.hvcmd := rfl
@[simp] theorem setMe_hvbuf (s : State) (x : Ctx) : (setMe s x).hvbuf = s.hvbuf := rfl
@[simp] theorem setMe_hvDone (s : State) (x : Ctx) : (setMe s x).hvDone = s.hvDone := rfl
@[simp] theorem setMe_chrate (s : State) (x : Ctx) : (setMe s x).chrate = s.chrate := rfl
@[simp] theorem setMe_dictld (s : State) (x : Ctx) : (setMe s x).dictld = s.dictld := rfl
@[simp] theorem setMe_dictLoads (s : State) (x : Ctx) : (setMe s x).dictLoads = s.dictLoads := rfl
@[simp] theorem setMe_heat (s : State) (x : Ctx) : (setMe s x).heat = s.heat := rfl
@[simp] theorem setMe_heatDirty (s : State) (x : Ctx) : (setMe s x).heatDirty = s.heatDirty := rfl
@[simp] theorem setMe_gens (s : State) (x : Ctx) : (setMe s x).gens = s.gens := rfl
@[simp] theorem setMe_cmpPages (s : State) (x : Ctx) : (setMe s x).cmpPages = s.cmpPages := rfl
@[simp] theorem setMe_rowCopies (s : State) (x : Ctx) : (setMe s x).rowCopies = s.rowCopies := rfl
@[simp] theorem setMe_melt (s : State) (x : Ctx) : (setMe s x).melt = s.melt := rfl
@[simp] theorem setMe_meltAt (s : State) (x : Ctx) : (setMe s x).meltAt = s.meltAt := rfl
@[simp] theorem setMe_rfz (s : State) (x : Ctx) : (setMe s x).rfz = s.rfz := rfl
@[simp] theorem setMe_power10us (s : State) (x : Ctx) : (setMe s x).power10us = s.power10us := rfl
@[simp] theorem setMe_trip (s : State) (x : Ctx) : (setMe s x).trip = s.trip := rfl
@[simp] theorem setMe_sensors (s : State) (x : Ctx) : (setMe s x).sensors = s.sensors := rfl
@[simp] theorem setMe_vfs (s : State) (x : Ctx) : (setMe s x).vfs = s.vfs := rfl
@[simp] theorem setMe_parts (s : State) (x : Ctx) : (setMe s x).parts = s.parts := rfl
@[simp] theorem setMe_keySlots (s : State) (x : Ctx) : (setMe s x).keySlots = s.keySlots := rfl
@[simp] theorem setMe_security (s : State) (x : Ctx) : (setMe s x).security = s.security := rfl
@[simp] theorem setMe_debug (s : State) (x : Ctx) : (setMe s x).debug = s.debug := rfl
@[simp] theorem setMe_modPower (s : State) (x : Ctx) : (setMe s x).modPower = s.modPower := rfl
@[simp] theorem setMe_journal (s : State) (x : Ctx) : (setMe s x).journal = s.journal := rfl
@[simp] theorem setMe_quoteIndex (s : State) (x : Ctx) : (setMe s x).quoteIndex = s.quoteIndex := rfl
@[simp] theorem setMe_quotes (s : State) (x : Ctx) : (setMe s x).quotes = s.quotes := rfl
@[simp] theorem setMe_msix (s : State) (x : Ctx) : (setMe s x).msix = s.msix := rfl
@[simp] theorem setMe_hostErrors (s : State) (x : Ctx) : (setMe s x).hostErrors = s.hostErrors := rfl
@[simp] theorem setMe_hostReads (s : State) (x : Ctx) : (setMe s x).hostReads = s.hostReads := rfl
@[simp] theorem setMe_cur (s : State) (x : Ctx) : (setMe s x).cur = s.cur := rfl
@[simp] theorem setMe_agenda (s : State) (x : Ctx) : (setMe s x).agenda = s.agenda := rfl
@[simp] theorem setMe_draws (s : State) (x : Ctx) : (setMe s x).draws = s.draws := rfl
@[simp] theorem setMe_taken (s : State) (x : Ctx) : (setMe s x).taken = s.taken := rfl

/-! ### modMe -/

@[simp] theorem modMe_ticks (s : State) (f : Ctx → Ctx) : (modMe s f).ticks = s.ticks := rfl
@[simp] theorem modMe_phys (s : State) (f : Ctx → Ctx) : (modMe s f).phys = s.phys := rfl
@[simp] theorem modMe_rows (s : State) (f : Ctx → Ctx) : (modMe s f).rows = s.rows := rfl
@[simp] theorem modMe_yards (s : State) (f : Ctx → Ctx) : (modMe s f).yards = s.yards := rfl
@[simp] theorem modMe_memStacks (s : State) (f : Ctx → Ctx) : (modMe s f).memStacks = s.memStacks := rfl
@[simp] theorem modMe_mills (s : State) (f : Ctx → Ctx) : (modMe s f).mills = s.mills := rfl
@[simp] theorem modMe_mem (s : State) (f : Ctx → Ctx) : (modMe s f).mem = s.mem := rfl
@[simp] theorem modMe_gtags (s : State) (f : Ctx → Ctx) : (modMe s f).gtags = s.gtags := rfl
@[simp] theorem modMe_faulty (s : State) (f : Ctx → Ctx) : (modMe s f).faulty = s.faulty := rfl
@[simp] theorem modMe_frameKeys (s : State) (f : Ctx → Ctx) : (modMe s f).frameKeys = s.frameKeys := rfl
@[simp] theorem modMe_msc (s : State) (f : Ctx → Ctx) : (modMe s f).msc = s.msc := rfl
@[simp] theorem modMe_l2 (s : State) (f : Ctx → Ctx) : (modMe s f).l2 = s.l2 := rfl
@[simp] theorem modMe_tlb (s : State) (f : Ctx → Ctx) : (modMe s f).tlb = s.tlb := rfl
@[simp] theorem modMe_halves (s : State) (f : Ctx → Ctx) : (modMe s f).halves = s.halves := rfl
@[simp] theorem modMe_tasks (s : State) (f : Ctx → Ctx) : (modMe s f).tasks = s.tasks := rfl
@[simp] theorem modMe_readySeq (s : State) (f : Ctx → Ctx) : (modMe s f).readySeq = s.readySeq := rfl
@[simp] theorem modMe_credits (s : State) (f : Ctx → Ctx) : (modMe s f).credits = s.credits := rfl
@[simp] theorem modMe_starved (s : State) (f : Ctx → Ctx) : (modMe s f).starved = s.starved := rfl
@[simp] theorem modMe_pubs (s : State) (f : Ctx → Ctx) : (modMe s f).pubs = s.pubs := rfl
@[simp] theorem modMe_records (s : State) (f : Ctx → Ctx) : (modMe s f).records = s.records := rfl
@[simp] theorem modMe_packets (s : State) (f : Ctx → Ctx) : (modMe s f).packets = s.packets := rfl
@[simp] theorem modMe_reeves (s : State) (f : Ctx → Ctx) : (modMe s f).reeves = s.reeves := rfl
@[simp] theorem modMe_words (s : State) (f : Ctx → Ctx) : (modMe s f).words = s.words := rfl
@[simp] theorem modMe_writes (s : State) (f : Ctx → Ctx) : (modMe s f).writes = s.writes := rfl
@[simp] theorem modMe_flights (s : State) (f : Ctx → Ctx) : (modMe s f).flights = s.flights := rfl
@[simp] theorem modMe_replies (s : State) (f : Ctx → Ctx) : (modMe s f).replies = s.replies := rfl
@[simp] theorem modMe_tripped (s : State) (f : Ctx → Ctx) : (modMe s f).tripped = s.tripped := rfl
@[simp] theorem modMe_stopsDue (s : State) (f : Ctx → Ctx) : (modMe s f).stopsDue = s.stopsDue := rfl
@[simp] theorem modMe_mrqbase (s : State) (f : Ctx → Ctx) : (modMe s f).mrqbase = s.mrqbase := rfl
@[simp] theorem modMe_mrqptr (s : State) (f : Ctx → Ctx) : (modMe s f).mrqptr = s.mrqptr := rfl
@[simp] theorem modMe_mrsolve (s : State) (f : Ctx → Ctx) : (modMe s f).mrsolve = s.mrsolve := rfl
@[simp] theorem modMe_asidbase (s : State) (f : Ctx → Ctx) : (modMe s f).asidbase = s.asidbase := rfl
@[simp] theorem modMe_tlbinv (s : State) (f : Ctx → Ctx) : (modMe s f).tlbinv = s.tlbinv := rfl
@[simp] theorem modMe_heatk (s : State) (f : Ctx → Ctx) : (modMe s f).heatk = s.heatk := rfl
@[simp] theorem modMe_hvcmd (s : State) (f : Ctx → Ctx) : (modMe s f).hvcmd = s.hvcmd := rfl
@[simp] theorem modMe_hvbuf (s : State) (f : Ctx → Ctx) : (modMe s f).hvbuf = s.hvbuf := rfl
@[simp] theorem modMe_hvDone (s : State) (f : Ctx → Ctx) : (modMe s f).hvDone = s.hvDone := rfl
@[simp] theorem modMe_chrate (s : State) (f : Ctx → Ctx) : (modMe s f).chrate = s.chrate := rfl
@[simp] theorem modMe_dictld (s : State) (f : Ctx → Ctx) : (modMe s f).dictld = s.dictld := rfl
@[simp] theorem modMe_dictLoads (s : State) (f : Ctx → Ctx) : (modMe s f).dictLoads = s.dictLoads := rfl
@[simp] theorem modMe_heat (s : State) (f : Ctx → Ctx) : (modMe s f).heat = s.heat := rfl
@[simp] theorem modMe_heatDirty (s : State) (f : Ctx → Ctx) : (modMe s f).heatDirty = s.heatDirty := rfl
@[simp] theorem modMe_gens (s : State) (f : Ctx → Ctx) : (modMe s f).gens = s.gens := rfl
@[simp] theorem modMe_cmpPages (s : State) (f : Ctx → Ctx) : (modMe s f).cmpPages = s.cmpPages := rfl
@[simp] theorem modMe_rowCopies (s : State) (f : Ctx → Ctx) : (modMe s f).rowCopies = s.rowCopies := rfl
@[simp] theorem modMe_melt (s : State) (f : Ctx → Ctx) : (modMe s f).melt = s.melt := rfl
@[simp] theorem modMe_meltAt (s : State) (f : Ctx → Ctx) : (modMe s f).meltAt = s.meltAt := rfl
@[simp] theorem modMe_rfz (s : State) (f : Ctx → Ctx) : (modMe s f).rfz = s.rfz := rfl
@[simp] theorem modMe_power10us (s : State) (f : Ctx → Ctx) : (modMe s f).power10us = s.power10us := rfl
@[simp] theorem modMe_trip (s : State) (f : Ctx → Ctx) : (modMe s f).trip = s.trip := rfl
@[simp] theorem modMe_sensors (s : State) (f : Ctx → Ctx) : (modMe s f).sensors = s.sensors := rfl
@[simp] theorem modMe_vfs (s : State) (f : Ctx → Ctx) : (modMe s f).vfs = s.vfs := rfl
@[simp] theorem modMe_parts (s : State) (f : Ctx → Ctx) : (modMe s f).parts = s.parts := rfl
@[simp] theorem modMe_keySlots (s : State) (f : Ctx → Ctx) : (modMe s f).keySlots = s.keySlots := rfl
@[simp] theorem modMe_security (s : State) (f : Ctx → Ctx) : (modMe s f).security = s.security := rfl
@[simp] theorem modMe_debug (s : State) (f : Ctx → Ctx) : (modMe s f).debug = s.debug := rfl
@[simp] theorem modMe_modPower (s : State) (f : Ctx → Ctx) : (modMe s f).modPower = s.modPower := rfl
@[simp] theorem modMe_journal (s : State) (f : Ctx → Ctx) : (modMe s f).journal = s.journal := rfl
@[simp] theorem modMe_quoteIndex (s : State) (f : Ctx → Ctx) : (modMe s f).quoteIndex = s.quoteIndex := rfl
@[simp] theorem modMe_quotes (s : State) (f : Ctx → Ctx) : (modMe s f).quotes = s.quotes := rfl
@[simp] theorem modMe_msix (s : State) (f : Ctx → Ctx) : (modMe s f).msix = s.msix := rfl
@[simp] theorem modMe_hostErrors (s : State) (f : Ctx → Ctx) : (modMe s f).hostErrors = s.hostErrors := rfl
@[simp] theorem modMe_hostReads (s : State) (f : Ctx → Ctx) : (modMe s f).hostReads = s.hostReads := rfl
@[simp] theorem modMe_cur (s : State) (f : Ctx → Ctx) : (modMe s f).cur = s.cur := rfl
@[simp] theorem modMe_agenda (s : State) (f : Ctx → Ctx) : (modMe s f).agenda = s.agenda := rfl
@[simp] theorem modMe_draws (s : State) (f : Ctx → Ctx) : (modMe s f).draws = s.draws := rfl
@[simp] theorem modMe_taken (s : State) (f : Ctx → Ctx) : (modMe s f).taken = s.taken := rfl

/-! ### setPhys -/

@[simp] theorem setPhys_ticks (s : State) (p : Nat) (x : PCore) : (setPhys s p x).ticks = s.ticks := rfl
@[simp] theorem setPhys_cores (s : State) (p : Nat) (x : PCore) : (setPhys s p x).cores = s.cores := rfl
@[simp] theorem setPhys_rows (s : State) (p : Nat) (x : PCore) : (setPhys s p x).rows = s.rows := rfl
@[simp] theorem setPhys_yards (s : State) (p : Nat) (x : PCore) : (setPhys s p x).yards = s.yards := rfl
@[simp] theorem setPhys_memStacks (s : State) (p : Nat) (x : PCore) : (setPhys s p x).memStacks = s.memStacks := rfl
@[simp] theorem setPhys_mills (s : State) (p : Nat) (x : PCore) : (setPhys s p x).mills = s.mills := rfl
@[simp] theorem setPhys_mem (s : State) (p : Nat) (x : PCore) : (setPhys s p x).mem = s.mem := rfl
@[simp] theorem setPhys_gtags (s : State) (p : Nat) (x : PCore) : (setPhys s p x).gtags = s.gtags := rfl
@[simp] theorem setPhys_faulty (s : State) (p : Nat) (x : PCore) : (setPhys s p x).faulty = s.faulty := rfl
@[simp] theorem setPhys_frameKeys (s : State) (p : Nat) (x : PCore) : (setPhys s p x).frameKeys = s.frameKeys := rfl
@[simp] theorem setPhys_msc (s : State) (p : Nat) (x : PCore) : (setPhys s p x).msc = s.msc := rfl
@[simp] theorem setPhys_l2 (s : State) (p : Nat) (x : PCore) : (setPhys s p x).l2 = s.l2 := rfl
@[simp] theorem setPhys_tlb (s : State) (p : Nat) (x : PCore) : (setPhys s p x).tlb = s.tlb := rfl
@[simp] theorem setPhys_halves (s : State) (p : Nat) (x : PCore) : (setPhys s p x).halves = s.halves := rfl
@[simp] theorem setPhys_tasks (s : State) (p : Nat) (x : PCore) : (setPhys s p x).tasks = s.tasks := rfl
@[simp] theorem setPhys_readySeq (s : State) (p : Nat) (x : PCore) : (setPhys s p x).readySeq = s.readySeq := rfl
@[simp] theorem setPhys_credits (s : State) (p : Nat) (x : PCore) : (setPhys s p x).credits = s.credits := rfl
@[simp] theorem setPhys_starved (s : State) (p : Nat) (x : PCore) : (setPhys s p x).starved = s.starved := rfl
@[simp] theorem setPhys_pubs (s : State) (p : Nat) (x : PCore) : (setPhys s p x).pubs = s.pubs := rfl
@[simp] theorem setPhys_records (s : State) (p : Nat) (x : PCore) : (setPhys s p x).records = s.records := rfl
@[simp] theorem setPhys_packets (s : State) (p : Nat) (x : PCore) : (setPhys s p x).packets = s.packets := rfl
@[simp] theorem setPhys_reeves (s : State) (p : Nat) (x : PCore) : (setPhys s p x).reeves = s.reeves := rfl
@[simp] theorem setPhys_words (s : State) (p : Nat) (x : PCore) : (setPhys s p x).words = s.words := rfl
@[simp] theorem setPhys_writes (s : State) (p : Nat) (x : PCore) : (setPhys s p x).writes = s.writes := rfl
@[simp] theorem setPhys_flights (s : State) (p : Nat) (x : PCore) : (setPhys s p x).flights = s.flights := rfl
@[simp] theorem setPhys_replies (s : State) (p : Nat) (x : PCore) : (setPhys s p x).replies = s.replies := rfl
@[simp] theorem setPhys_tripped (s : State) (p : Nat) (x : PCore) : (setPhys s p x).tripped = s.tripped := rfl
@[simp] theorem setPhys_stopsDue (s : State) (p : Nat) (x : PCore) : (setPhys s p x).stopsDue = s.stopsDue := rfl
@[simp] theorem setPhys_mrqbase (s : State) (p : Nat) (x : PCore) : (setPhys s p x).mrqbase = s.mrqbase := rfl
@[simp] theorem setPhys_mrqptr (s : State) (p : Nat) (x : PCore) : (setPhys s p x).mrqptr = s.mrqptr := rfl
@[simp] theorem setPhys_mrsolve (s : State) (p : Nat) (x : PCore) : (setPhys s p x).mrsolve = s.mrsolve := rfl
@[simp] theorem setPhys_asidbase (s : State) (p : Nat) (x : PCore) : (setPhys s p x).asidbase = s.asidbase := rfl
@[simp] theorem setPhys_tlbinv (s : State) (p : Nat) (x : PCore) : (setPhys s p x).tlbinv = s.tlbinv := rfl
@[simp] theorem setPhys_heatk (s : State) (p : Nat) (x : PCore) : (setPhys s p x).heatk = s.heatk := rfl
@[simp] theorem setPhys_hvcmd (s : State) (p : Nat) (x : PCore) : (setPhys s p x).hvcmd = s.hvcmd := rfl
@[simp] theorem setPhys_hvbuf (s : State) (p : Nat) (x : PCore) : (setPhys s p x).hvbuf = s.hvbuf := rfl
@[simp] theorem setPhys_hvDone (s : State) (p : Nat) (x : PCore) : (setPhys s p x).hvDone = s.hvDone := rfl
@[simp] theorem setPhys_chrate (s : State) (p : Nat) (x : PCore) : (setPhys s p x).chrate = s.chrate := rfl
@[simp] theorem setPhys_dictld (s : State) (p : Nat) (x : PCore) : (setPhys s p x).dictld = s.dictld := rfl
@[simp] theorem setPhys_dictLoads (s : State) (p : Nat) (x : PCore) : (setPhys s p x).dictLoads = s.dictLoads := rfl
@[simp] theorem setPhys_heat (s : State) (p : Nat) (x : PCore) : (setPhys s p x).heat = s.heat := rfl
@[simp] theorem setPhys_heatDirty (s : State) (p : Nat) (x : PCore) : (setPhys s p x).heatDirty = s.heatDirty := rfl
@[simp] theorem setPhys_gens (s : State) (p : Nat) (x : PCore) : (setPhys s p x).gens = s.gens := rfl
@[simp] theorem setPhys_cmpPages (s : State) (p : Nat) (x : PCore) : (setPhys s p x).cmpPages = s.cmpPages := rfl
@[simp] theorem setPhys_rowCopies (s : State) (p : Nat) (x : PCore) : (setPhys s p x).rowCopies = s.rowCopies := rfl
@[simp] theorem setPhys_melt (s : State) (p : Nat) (x : PCore) : (setPhys s p x).melt = s.melt := rfl
@[simp] theorem setPhys_meltAt (s : State) (p : Nat) (x : PCore) : (setPhys s p x).meltAt = s.meltAt := rfl
@[simp] theorem setPhys_rfz (s : State) (p : Nat) (x : PCore) : (setPhys s p x).rfz = s.rfz := rfl
@[simp] theorem setPhys_power10us (s : State) (p : Nat) (x : PCore) : (setPhys s p x).power10us = s.power10us := rfl
@[simp] theorem setPhys_trip (s : State) (p : Nat) (x : PCore) : (setPhys s p x).trip = s.trip := rfl
@[simp] theorem setPhys_sensors (s : State) (p : Nat) (x : PCore) : (setPhys s p x).sensors = s.sensors := rfl
@[simp] theorem setPhys_vfs (s : State) (p : Nat) (x : PCore) : (setPhys s p x).vfs = s.vfs := rfl
@[simp] theorem setPhys_parts (s : State) (p : Nat) (x : PCore) : (setPhys s p x).parts = s.parts := rfl
@[simp] theorem setPhys_keySlots (s : State) (p : Nat) (x : PCore) : (setPhys s p x).keySlots = s.keySlots := rfl
@[simp] theorem setPhys_security (s : State) (p : Nat) (x : PCore) : (setPhys s p x).security = s.security := rfl
@[simp] theorem setPhys_debug (s : State) (p : Nat) (x : PCore) : (setPhys s p x).debug = s.debug := rfl
@[simp] theorem setPhys_modPower (s : State) (p : Nat) (x : PCore) : (setPhys s p x).modPower = s.modPower := rfl
@[simp] theorem setPhys_journal (s : State) (p : Nat) (x : PCore) : (setPhys s p x).journal = s.journal := rfl
@[simp] theorem setPhys_quoteIndex (s : State) (p : Nat) (x : PCore) : (setPhys s p x).quoteIndex = s.quoteIndex := rfl
@[simp] theorem setPhys_quotes (s : State) (p : Nat) (x : PCore) : (setPhys s p x).quotes = s.quotes := rfl
@[simp] theorem setPhys_msix (s : State) (p : Nat) (x : PCore) : (setPhys s p x).msix = s.msix := rfl
@[simp] theorem setPhys_hostErrors (s : State) (p : Nat) (x : PCore) : (setPhys s p x).hostErrors = s.hostErrors := rfl
@[simp] theorem setPhys_hostReads (s : State) (p : Nat) (x : PCore) : (setPhys s p x).hostReads = s.hostReads := rfl
@[simp] theorem setPhys_cur (s : State) (p : Nat) (x : PCore) : (setPhys s p x).cur = s.cur := rfl
@[simp] theorem setPhys_agenda (s : State) (p : Nat) (x : PCore) : (setPhys s p x).agenda = s.agenda := rfl
@[simp] theorem setPhys_draws (s : State) (p : Nat) (x : PCore) : (setPhys s p x).draws = s.draws := rfl
@[simp] theorem setPhys_taken (s : State) (p : Nat) (x : PCore) : (setPhys s p x).taken = s.taken := rfl

/-! ### modPhys -/

@[simp] theorem modPhys_ticks (s : State) (p : Nat) (f : PCore → PCore) : (modPhys s p f).ticks = s.ticks := rfl
@[simp] theorem modPhys_cores (s : State) (p : Nat) (f : PCore → PCore) : (modPhys s p f).cores = s.cores := rfl
@[simp] theorem modPhys_rows (s : State) (p : Nat) (f : PCore → PCore) : (modPhys s p f).rows = s.rows := rfl
@[simp] theorem modPhys_yards (s : State) (p : Nat) (f : PCore → PCore) : (modPhys s p f).yards = s.yards := rfl
@[simp] theorem modPhys_memStacks (s : State) (p : Nat) (f : PCore → PCore) : (modPhys s p f).memStacks = s.memStacks := rfl
@[simp] theorem modPhys_mills (s : State) (p : Nat) (f : PCore → PCore) : (modPhys s p f).mills = s.mills := rfl
@[simp] theorem modPhys_mem (s : State) (p : Nat) (f : PCore → PCore) : (modPhys s p f).mem = s.mem := rfl
@[simp] theorem modPhys_gtags (s : State) (p : Nat) (f : PCore → PCore) : (modPhys s p f).gtags = s.gtags := rfl
@[simp] theorem modPhys_faulty (s : State) (p : Nat) (f : PCore → PCore) : (modPhys s p f).faulty = s.faulty := rfl
@[simp] theorem modPhys_frameKeys (s : State) (p : Nat) (f : PCore → PCore) : (modPhys s p f).frameKeys = s.frameKeys := rfl
@[simp] theorem modPhys_msc (s : State) (p : Nat) (f : PCore → PCore) : (modPhys s p f).msc = s.msc := rfl
@[simp] theorem modPhys_l2 (s : State) (p : Nat) (f : PCore → PCore) : (modPhys s p f).l2 = s.l2 := rfl
@[simp] theorem modPhys_tlb (s : State) (p : Nat) (f : PCore → PCore) : (modPhys s p f).tlb = s.tlb := rfl
@[simp] theorem modPhys_halves (s : State) (p : Nat) (f : PCore → PCore) : (modPhys s p f).halves = s.halves := rfl
@[simp] theorem modPhys_tasks (s : State) (p : Nat) (f : PCore → PCore) : (modPhys s p f).tasks = s.tasks := rfl
@[simp] theorem modPhys_readySeq (s : State) (p : Nat) (f : PCore → PCore) : (modPhys s p f).readySeq = s.readySeq := rfl
@[simp] theorem modPhys_credits (s : State) (p : Nat) (f : PCore → PCore) : (modPhys s p f).credits = s.credits := rfl
@[simp] theorem modPhys_starved (s : State) (p : Nat) (f : PCore → PCore) : (modPhys s p f).starved = s.starved := rfl
@[simp] theorem modPhys_pubs (s : State) (p : Nat) (f : PCore → PCore) : (modPhys s p f).pubs = s.pubs := rfl
@[simp] theorem modPhys_records (s : State) (p : Nat) (f : PCore → PCore) : (modPhys s p f).records = s.records := rfl
@[simp] theorem modPhys_packets (s : State) (p : Nat) (f : PCore → PCore) : (modPhys s p f).packets = s.packets := rfl
@[simp] theorem modPhys_reeves (s : State) (p : Nat) (f : PCore → PCore) : (modPhys s p f).reeves = s.reeves := rfl
@[simp] theorem modPhys_words (s : State) (p : Nat) (f : PCore → PCore) : (modPhys s p f).words = s.words := rfl
@[simp] theorem modPhys_writes (s : State) (p : Nat) (f : PCore → PCore) : (modPhys s p f).writes = s.writes := rfl
@[simp] theorem modPhys_flights (s : State) (p : Nat) (f : PCore → PCore) : (modPhys s p f).flights = s.flights := rfl
@[simp] theorem modPhys_replies (s : State) (p : Nat) (f : PCore → PCore) : (modPhys s p f).replies = s.replies := rfl
@[simp] theorem modPhys_tripped (s : State) (p : Nat) (f : PCore → PCore) : (modPhys s p f).tripped = s.tripped := rfl
@[simp] theorem modPhys_stopsDue (s : State) (p : Nat) (f : PCore → PCore) : (modPhys s p f).stopsDue = s.stopsDue := rfl
@[simp] theorem modPhys_mrqbase (s : State) (p : Nat) (f : PCore → PCore) : (modPhys s p f).mrqbase = s.mrqbase := rfl
@[simp] theorem modPhys_mrqptr (s : State) (p : Nat) (f : PCore → PCore) : (modPhys s p f).mrqptr = s.mrqptr := rfl
@[simp] theorem modPhys_mrsolve (s : State) (p : Nat) (f : PCore → PCore) : (modPhys s p f).mrsolve = s.mrsolve := rfl
@[simp] theorem modPhys_asidbase (s : State) (p : Nat) (f : PCore → PCore) : (modPhys s p f).asidbase = s.asidbase := rfl
@[simp] theorem modPhys_tlbinv (s : State) (p : Nat) (f : PCore → PCore) : (modPhys s p f).tlbinv = s.tlbinv := rfl
@[simp] theorem modPhys_heatk (s : State) (p : Nat) (f : PCore → PCore) : (modPhys s p f).heatk = s.heatk := rfl
@[simp] theorem modPhys_hvcmd (s : State) (p : Nat) (f : PCore → PCore) : (modPhys s p f).hvcmd = s.hvcmd := rfl
@[simp] theorem modPhys_hvbuf (s : State) (p : Nat) (f : PCore → PCore) : (modPhys s p f).hvbuf = s.hvbuf := rfl
@[simp] theorem modPhys_hvDone (s : State) (p : Nat) (f : PCore → PCore) : (modPhys s p f).hvDone = s.hvDone := rfl
@[simp] theorem modPhys_chrate (s : State) (p : Nat) (f : PCore → PCore) : (modPhys s p f).chrate = s.chrate := rfl
@[simp] theorem modPhys_dictld (s : State) (p : Nat) (f : PCore → PCore) : (modPhys s p f).dictld = s.dictld := rfl
@[simp] theorem modPhys_dictLoads (s : State) (p : Nat) (f : PCore → PCore) : (modPhys s p f).dictLoads = s.dictLoads := rfl
@[simp] theorem modPhys_heat (s : State) (p : Nat) (f : PCore → PCore) : (modPhys s p f).heat = s.heat := rfl
@[simp] theorem modPhys_heatDirty (s : State) (p : Nat) (f : PCore → PCore) : (modPhys s p f).heatDirty = s.heatDirty := rfl
@[simp] theorem modPhys_gens (s : State) (p : Nat) (f : PCore → PCore) : (modPhys s p f).gens = s.gens := rfl
@[simp] theorem modPhys_cmpPages (s : State) (p : Nat) (f : PCore → PCore) : (modPhys s p f).cmpPages = s.cmpPages := rfl
@[simp] theorem modPhys_rowCopies (s : State) (p : Nat) (f : PCore → PCore) : (modPhys s p f).rowCopies = s.rowCopies := rfl
@[simp] theorem modPhys_melt (s : State) (p : Nat) (f : PCore → PCore) : (modPhys s p f).melt = s.melt := rfl
@[simp] theorem modPhys_meltAt (s : State) (p : Nat) (f : PCore → PCore) : (modPhys s p f).meltAt = s.meltAt := rfl
@[simp] theorem modPhys_rfz (s : State) (p : Nat) (f : PCore → PCore) : (modPhys s p f).rfz = s.rfz := rfl
@[simp] theorem modPhys_power10us (s : State) (p : Nat) (f : PCore → PCore) : (modPhys s p f).power10us = s.power10us := rfl
@[simp] theorem modPhys_trip (s : State) (p : Nat) (f : PCore → PCore) : (modPhys s p f).trip = s.trip := rfl
@[simp] theorem modPhys_sensors (s : State) (p : Nat) (f : PCore → PCore) : (modPhys s p f).sensors = s.sensors := rfl
@[simp] theorem modPhys_vfs (s : State) (p : Nat) (f : PCore → PCore) : (modPhys s p f).vfs = s.vfs := rfl
@[simp] theorem modPhys_parts (s : State) (p : Nat) (f : PCore → PCore) : (modPhys s p f).parts = s.parts := rfl
@[simp] theorem modPhys_keySlots (s : State) (p : Nat) (f : PCore → PCore) : (modPhys s p f).keySlots = s.keySlots := rfl
@[simp] theorem modPhys_security (s : State) (p : Nat) (f : PCore → PCore) : (modPhys s p f).security = s.security := rfl
@[simp] theorem modPhys_debug (s : State) (p : Nat) (f : PCore → PCore) : (modPhys s p f).debug = s.debug := rfl
@[simp] theorem modPhys_modPower (s : State) (p : Nat) (f : PCore → PCore) : (modPhys s p f).modPower = s.modPower := rfl
@[simp] theorem modPhys_journal (s : State) (p : Nat) (f : PCore → PCore) : (modPhys s p f).journal = s.journal := rfl
@[simp] theorem modPhys_quoteIndex (s : State) (p : Nat) (f : PCore → PCore) : (modPhys s p f).quoteIndex = s.quoteIndex := rfl
@[simp] theorem modPhys_quotes (s : State) (p : Nat) (f : PCore → PCore) : (modPhys s p f).quotes = s.quotes := rfl
@[simp] theorem modPhys_msix (s : State) (p : Nat) (f : PCore → PCore) : (modPhys s p f).msix = s.msix := rfl
@[simp] theorem modPhys_hostErrors (s : State) (p : Nat) (f : PCore → PCore) : (modPhys s p f).hostErrors = s.hostErrors := rfl
@[simp] theorem modPhys_hostReads (s : State) (p : Nat) (f : PCore → PCore) : (modPhys s p f).hostReads = s.hostReads := rfl
@[simp] theorem modPhys_cur (s : State) (p : Nat) (f : PCore → PCore) : (modPhys s p f).cur = s.cur := rfl
@[simp] theorem modPhys_agenda (s : State) (p : Nat) (f : PCore → PCore) : (modPhys s p f).agenda = s.agenda := rfl
@[simp] theorem modPhys_draws (s : State) (p : Nat) (f : PCore → PCore) : (modPhys s p f).draws = s.draws := rfl
@[simp] theorem modPhys_taken (s : State) (p : Nat) (f : PCore → PCore) : (modPhys s p f).taken = s.taken := rfl

/-! ### setRow -/

@[simp] theorem setRow_ticks (s : State) (r : Nat) (x : Row) : (setRow s r x).ticks = s.ticks := rfl
@[simp] theorem setRow_cores (s : State) (r : Nat) (x : Row) : (setRow s r x).cores = s.cores := rfl
@[simp] theorem setRow_phys (s : State) (r : Nat) (x : Row) : (setRow s r x).phys = s.phys := rfl
@[simp] theorem setRow_yards (s : State) (r : Nat) (x : Row) : (setRow s r x).yards = s.yards := rfl
@[simp] theorem setRow_memStacks (s : State) (r : Nat) (x : Row) : (setRow s r x).memStacks = s.memStacks := rfl
@[simp] theorem setRow_mills (s : State) (r : Nat) (x : Row) : (setRow s r x).mills = s.mills := rfl
@[simp] theorem setRow_mem (s : State) (r : Nat) (x : Row) : (setRow s r x).mem = s.mem := rfl
@[simp] theorem setRow_gtags (s : State) (r : Nat) (x : Row) : (setRow s r x).gtags = s.gtags := rfl
@[simp] theorem setRow_faulty (s : State) (r : Nat) (x : Row) : (setRow s r x).faulty = s.faulty := rfl
@[simp] theorem setRow_frameKeys (s : State) (r : Nat) (x : Row) : (setRow s r x).frameKeys = s.frameKeys := rfl
@[simp] theorem setRow_msc (s : State) (r : Nat) (x : Row) : (setRow s r x).msc = s.msc := rfl
@[simp] theorem setRow_l2 (s : State) (r : Nat) (x : Row) : (setRow s r x).l2 = s.l2 := rfl
@[simp] theorem setRow_tlb (s : State) (r : Nat) (x : Row) : (setRow s r x).tlb = s.tlb := rfl
@[simp] theorem setRow_halves (s : State) (r : Nat) (x : Row) : (setRow s r x).halves = s.halves := rfl
@[simp] theorem setRow_tasks (s : State) (r : Nat) (x : Row) : (setRow s r x).tasks = s.tasks := rfl
@[simp] theorem setRow_readySeq (s : State) (r : Nat) (x : Row) : (setRow s r x).readySeq = s.readySeq := rfl
@[simp] theorem setRow_credits (s : State) (r : Nat) (x : Row) : (setRow s r x).credits = s.credits := rfl
@[simp] theorem setRow_starved (s : State) (r : Nat) (x : Row) : (setRow s r x).starved = s.starved := rfl
@[simp] theorem setRow_pubs (s : State) (r : Nat) (x : Row) : (setRow s r x).pubs = s.pubs := rfl
@[simp] theorem setRow_records (s : State) (r : Nat) (x : Row) : (setRow s r x).records = s.records := rfl
@[simp] theorem setRow_packets (s : State) (r : Nat) (x : Row) : (setRow s r x).packets = s.packets := rfl
@[simp] theorem setRow_reeves (s : State) (r : Nat) (x : Row) : (setRow s r x).reeves = s.reeves := rfl
@[simp] theorem setRow_words (s : State) (r : Nat) (x : Row) : (setRow s r x).words = s.words := rfl
@[simp] theorem setRow_writes (s : State) (r : Nat) (x : Row) : (setRow s r x).writes = s.writes := rfl
@[simp] theorem setRow_flights (s : State) (r : Nat) (x : Row) : (setRow s r x).flights = s.flights := rfl
@[simp] theorem setRow_replies (s : State) (r : Nat) (x : Row) : (setRow s r x).replies = s.replies := rfl
@[simp] theorem setRow_tripped (s : State) (r : Nat) (x : Row) : (setRow s r x).tripped = s.tripped := rfl
@[simp] theorem setRow_stopsDue (s : State) (r : Nat) (x : Row) : (setRow s r x).stopsDue = s.stopsDue := rfl
@[simp] theorem setRow_mrqbase (s : State) (r : Nat) (x : Row) : (setRow s r x).mrqbase = s.mrqbase := rfl
@[simp] theorem setRow_mrqptr (s : State) (r : Nat) (x : Row) : (setRow s r x).mrqptr = s.mrqptr := rfl
@[simp] theorem setRow_mrsolve (s : State) (r : Nat) (x : Row) : (setRow s r x).mrsolve = s.mrsolve := rfl
@[simp] theorem setRow_asidbase (s : State) (r : Nat) (x : Row) : (setRow s r x).asidbase = s.asidbase := rfl
@[simp] theorem setRow_tlbinv (s : State) (r : Nat) (x : Row) : (setRow s r x).tlbinv = s.tlbinv := rfl
@[simp] theorem setRow_heatk (s : State) (r : Nat) (x : Row) : (setRow s r x).heatk = s.heatk := rfl
@[simp] theorem setRow_hvcmd (s : State) (r : Nat) (x : Row) : (setRow s r x).hvcmd = s.hvcmd := rfl
@[simp] theorem setRow_hvbuf (s : State) (r : Nat) (x : Row) : (setRow s r x).hvbuf = s.hvbuf := rfl
@[simp] theorem setRow_hvDone (s : State) (r : Nat) (x : Row) : (setRow s r x).hvDone = s.hvDone := rfl
@[simp] theorem setRow_chrate (s : State) (r : Nat) (x : Row) : (setRow s r x).chrate = s.chrate := rfl
@[simp] theorem setRow_dictld (s : State) (r : Nat) (x : Row) : (setRow s r x).dictld = s.dictld := rfl
@[simp] theorem setRow_dictLoads (s : State) (r : Nat) (x : Row) : (setRow s r x).dictLoads = s.dictLoads := rfl
@[simp] theorem setRow_heat (s : State) (r : Nat) (x : Row) : (setRow s r x).heat = s.heat := rfl
@[simp] theorem setRow_heatDirty (s : State) (r : Nat) (x : Row) : (setRow s r x).heatDirty = s.heatDirty := rfl
@[simp] theorem setRow_gens (s : State) (r : Nat) (x : Row) : (setRow s r x).gens = s.gens := rfl
@[simp] theorem setRow_cmpPages (s : State) (r : Nat) (x : Row) : (setRow s r x).cmpPages = s.cmpPages := rfl
@[simp] theorem setRow_rowCopies (s : State) (r : Nat) (x : Row) : (setRow s r x).rowCopies = s.rowCopies := rfl
@[simp] theorem setRow_melt (s : State) (r : Nat) (x : Row) : (setRow s r x).melt = s.melt := rfl
@[simp] theorem setRow_meltAt (s : State) (r : Nat) (x : Row) : (setRow s r x).meltAt = s.meltAt := rfl
@[simp] theorem setRow_rfz (s : State) (r : Nat) (x : Row) : (setRow s r x).rfz = s.rfz := rfl
@[simp] theorem setRow_power10us (s : State) (r : Nat) (x : Row) : (setRow s r x).power10us = s.power10us := rfl
@[simp] theorem setRow_trip (s : State) (r : Nat) (x : Row) : (setRow s r x).trip = s.trip := rfl
@[simp] theorem setRow_sensors (s : State) (r : Nat) (x : Row) : (setRow s r x).sensors = s.sensors := rfl
@[simp] theorem setRow_vfs (s : State) (r : Nat) (x : Row) : (setRow s r x).vfs = s.vfs := rfl
@[simp] theorem setRow_parts (s : State) (r : Nat) (x : Row) : (setRow s r x).parts = s.parts := rfl
@[simp] theorem setRow_keySlots (s : State) (r : Nat) (x : Row) : (setRow s r x).keySlots = s.keySlots := rfl
@[simp] theorem setRow_security (s : State) (r : Nat) (x : Row) : (setRow s r x).security = s.security := rfl
@[simp] theorem setRow_debug (s : State) (r : Nat) (x : Row) : (setRow s r x).debug = s.debug := rfl
@[simp] theorem setRow_modPower (s : State) (r : Nat) (x : Row) : (setRow s r x).modPower = s.modPower := rfl
@[simp] theorem setRow_journal (s : State) (r : Nat) (x : Row) : (setRow s r x).journal = s.journal := rfl
@[simp] theorem setRow_quoteIndex (s : State) (r : Nat) (x : Row) : (setRow s r x).quoteIndex = s.quoteIndex := rfl
@[simp] theorem setRow_quotes (s : State) (r : Nat) (x : Row) : (setRow s r x).quotes = s.quotes := rfl
@[simp] theorem setRow_msix (s : State) (r : Nat) (x : Row) : (setRow s r x).msix = s.msix := rfl
@[simp] theorem setRow_hostErrors (s : State) (r : Nat) (x : Row) : (setRow s r x).hostErrors = s.hostErrors := rfl
@[simp] theorem setRow_hostReads (s : State) (r : Nat) (x : Row) : (setRow s r x).hostReads = s.hostReads := rfl
@[simp] theorem setRow_cur (s : State) (r : Nat) (x : Row) : (setRow s r x).cur = s.cur := rfl
@[simp] theorem setRow_agenda (s : State) (r : Nat) (x : Row) : (setRow s r x).agenda = s.agenda := rfl
@[simp] theorem setRow_draws (s : State) (r : Nat) (x : Row) : (setRow s r x).draws = s.draws := rfl
@[simp] theorem setRow_taken (s : State) (r : Nat) (x : Row) : (setRow s r x).taken = s.taken := rfl

/-! ### modRow -/

@[simp] theorem modRow_ticks (s : State) (r : Nat) (f : Row → Row) : (modRow s r f).ticks = s.ticks := rfl
@[simp] theorem modRow_cores (s : State) (r : Nat) (f : Row → Row) : (modRow s r f).cores = s.cores := rfl
@[simp] theorem modRow_phys (s : State) (r : Nat) (f : Row → Row) : (modRow s r f).phys = s.phys := rfl
@[simp] theorem modRow_yards (s : State) (r : Nat) (f : Row → Row) : (modRow s r f).yards = s.yards := rfl
@[simp] theorem modRow_memStacks (s : State) (r : Nat) (f : Row → Row) : (modRow s r f).memStacks = s.memStacks := rfl
@[simp] theorem modRow_mills (s : State) (r : Nat) (f : Row → Row) : (modRow s r f).mills = s.mills := rfl
@[simp] theorem modRow_mem (s : State) (r : Nat) (f : Row → Row) : (modRow s r f).mem = s.mem := rfl
@[simp] theorem modRow_gtags (s : State) (r : Nat) (f : Row → Row) : (modRow s r f).gtags = s.gtags := rfl
@[simp] theorem modRow_faulty (s : State) (r : Nat) (f : Row → Row) : (modRow s r f).faulty = s.faulty := rfl
@[simp] theorem modRow_frameKeys (s : State) (r : Nat) (f : Row → Row) : (modRow s r f).frameKeys = s.frameKeys := rfl
@[simp] theorem modRow_msc (s : State) (r : Nat) (f : Row → Row) : (modRow s r f).msc = s.msc := rfl
@[simp] theorem modRow_l2 (s : State) (r : Nat) (f : Row → Row) : (modRow s r f).l2 = s.l2 := rfl
@[simp] theorem modRow_tlb (s : State) (r : Nat) (f : Row → Row) : (modRow s r f).tlb = s.tlb := rfl
@[simp] theorem modRow_halves (s : State) (r : Nat) (f : Row → Row) : (modRow s r f).halves = s.halves := rfl
@[simp] theorem modRow_tasks (s : State) (r : Nat) (f : Row → Row) : (modRow s r f).tasks = s.tasks := rfl
@[simp] theorem modRow_readySeq (s : State) (r : Nat) (f : Row → Row) : (modRow s r f).readySeq = s.readySeq := rfl
@[simp] theorem modRow_credits (s : State) (r : Nat) (f : Row → Row) : (modRow s r f).credits = s.credits := rfl
@[simp] theorem modRow_starved (s : State) (r : Nat) (f : Row → Row) : (modRow s r f).starved = s.starved := rfl
@[simp] theorem modRow_pubs (s : State) (r : Nat) (f : Row → Row) : (modRow s r f).pubs = s.pubs := rfl
@[simp] theorem modRow_records (s : State) (r : Nat) (f : Row → Row) : (modRow s r f).records = s.records := rfl
@[simp] theorem modRow_packets (s : State) (r : Nat) (f : Row → Row) : (modRow s r f).packets = s.packets := rfl
@[simp] theorem modRow_reeves (s : State) (r : Nat) (f : Row → Row) : (modRow s r f).reeves = s.reeves := rfl
@[simp] theorem modRow_words (s : State) (r : Nat) (f : Row → Row) : (modRow s r f).words = s.words := rfl
@[simp] theorem modRow_writes (s : State) (r : Nat) (f : Row → Row) : (modRow s r f).writes = s.writes := rfl
@[simp] theorem modRow_flights (s : State) (r : Nat) (f : Row → Row) : (modRow s r f).flights = s.flights := rfl
@[simp] theorem modRow_replies (s : State) (r : Nat) (f : Row → Row) : (modRow s r f).replies = s.replies := rfl
@[simp] theorem modRow_tripped (s : State) (r : Nat) (f : Row → Row) : (modRow s r f).tripped = s.tripped := rfl
@[simp] theorem modRow_stopsDue (s : State) (r : Nat) (f : Row → Row) : (modRow s r f).stopsDue = s.stopsDue := rfl
@[simp] theorem modRow_mrqbase (s : State) (r : Nat) (f : Row → Row) : (modRow s r f).mrqbase = s.mrqbase := rfl
@[simp] theorem modRow_mrqptr (s : State) (r : Nat) (f : Row → Row) : (modRow s r f).mrqptr = s.mrqptr := rfl
@[simp] theorem modRow_mrsolve (s : State) (r : Nat) (f : Row → Row) : (modRow s r f).mrsolve = s.mrsolve := rfl
@[simp] theorem modRow_asidbase (s : State) (r : Nat) (f : Row → Row) : (modRow s r f).asidbase = s.asidbase := rfl
@[simp] theorem modRow_tlbinv (s : State) (r : Nat) (f : Row → Row) : (modRow s r f).tlbinv = s.tlbinv := rfl
@[simp] theorem modRow_heatk (s : State) (r : Nat) (f : Row → Row) : (modRow s r f).heatk = s.heatk := rfl
@[simp] theorem modRow_hvcmd (s : State) (r : Nat) (f : Row → Row) : (modRow s r f).hvcmd = s.hvcmd := rfl
@[simp] theorem modRow_hvbuf (s : State) (r : Nat) (f : Row → Row) : (modRow s r f).hvbuf = s.hvbuf := rfl
@[simp] theorem modRow_hvDone (s : State) (r : Nat) (f : Row → Row) : (modRow s r f).hvDone = s.hvDone := rfl
@[simp] theorem modRow_chrate (s : State) (r : Nat) (f : Row → Row) : (modRow s r f).chrate = s.chrate := rfl
@[simp] theorem modRow_dictld (s : State) (r : Nat) (f : Row → Row) : (modRow s r f).dictld = s.dictld := rfl
@[simp] theorem modRow_dictLoads (s : State) (r : Nat) (f : Row → Row) : (modRow s r f).dictLoads = s.dictLoads := rfl
@[simp] theorem modRow_heat (s : State) (r : Nat) (f : Row → Row) : (modRow s r f).heat = s.heat := rfl
@[simp] theorem modRow_heatDirty (s : State) (r : Nat) (f : Row → Row) : (modRow s r f).heatDirty = s.heatDirty := rfl
@[simp] theorem modRow_gens (s : State) (r : Nat) (f : Row → Row) : (modRow s r f).gens = s.gens := rfl
@[simp] theorem modRow_cmpPages (s : State) (r : Nat) (f : Row → Row) : (modRow s r f).cmpPages = s.cmpPages := rfl
@[simp] theorem modRow_rowCopies (s : State) (r : Nat) (f : Row → Row) : (modRow s r f).rowCopies = s.rowCopies := rfl
@[simp] theorem modRow_melt (s : State) (r : Nat) (f : Row → Row) : (modRow s r f).melt = s.melt := rfl
@[simp] theorem modRow_meltAt (s : State) (r : Nat) (f : Row → Row) : (modRow s r f).meltAt = s.meltAt := rfl
@[simp] theorem modRow_rfz (s : State) (r : Nat) (f : Row → Row) : (modRow s r f).rfz = s.rfz := rfl
@[simp] theorem modRow_power10us (s : State) (r : Nat) (f : Row → Row) : (modRow s r f).power10us = s.power10us := rfl
@[simp] theorem modRow_trip (s : State) (r : Nat) (f : Row → Row) : (modRow s r f).trip = s.trip := rfl
@[simp] theorem modRow_sensors (s : State) (r : Nat) (f : Row → Row) : (modRow s r f).sensors = s.sensors := rfl
@[simp] theorem modRow_vfs (s : State) (r : Nat) (f : Row → Row) : (modRow s r f).vfs = s.vfs := rfl
@[simp] theorem modRow_parts (s : State) (r : Nat) (f : Row → Row) : (modRow s r f).parts = s.parts := rfl
@[simp] theorem modRow_keySlots (s : State) (r : Nat) (f : Row → Row) : (modRow s r f).keySlots = s.keySlots := rfl
@[simp] theorem modRow_security (s : State) (r : Nat) (f : Row → Row) : (modRow s r f).security = s.security := rfl
@[simp] theorem modRow_debug (s : State) (r : Nat) (f : Row → Row) : (modRow s r f).debug = s.debug := rfl
@[simp] theorem modRow_modPower (s : State) (r : Nat) (f : Row → Row) : (modRow s r f).modPower = s.modPower := rfl
@[simp] theorem modRow_journal (s : State) (r : Nat) (f : Row → Row) : (modRow s r f).journal = s.journal := rfl
@[simp] theorem modRow_quoteIndex (s : State) (r : Nat) (f : Row → Row) : (modRow s r f).quoteIndex = s.quoteIndex := rfl
@[simp] theorem modRow_quotes (s : State) (r : Nat) (f : Row → Row) : (modRow s r f).quotes = s.quotes := rfl
@[simp] theorem modRow_msix (s : State) (r : Nat) (f : Row → Row) : (modRow s r f).msix = s.msix := rfl
@[simp] theorem modRow_hostErrors (s : State) (r : Nat) (f : Row → Row) : (modRow s r f).hostErrors = s.hostErrors := rfl
@[simp] theorem modRow_hostReads (s : State) (r : Nat) (f : Row → Row) : (modRow s r f).hostReads = s.hostReads := rfl
@[simp] theorem modRow_cur (s : State) (r : Nat) (f : Row → Row) : (modRow s r f).cur = s.cur := rfl
@[simp] theorem modRow_agenda (s : State) (r : Nat) (f : Row → Row) : (modRow s r f).agenda = s.agenda := rfl
@[simp] theorem modRow_draws (s : State) (r : Nat) (f : Row → Row) : (modRow s r f).draws = s.draws := rfl
@[simp] theorem modRow_taken (s : State) (r : Nat) (f : Row → Row) : (modRow s r f).taken = s.taken := rfl

/-! ### setYard -/

@[simp] theorem setYard_ticks (s : State) (y : Nat) (x : Yard) : (setYard s y x).ticks = s.ticks := rfl
@[simp] theorem setYard_cores (s : State) (y : Nat) (x : Yard) : (setYard s y x).cores = s.cores := rfl
@[simp] theorem setYard_phys (s : State) (y : Nat) (x : Yard) : (setYard s y x).phys = s.phys := rfl
@[simp] theorem setYard_rows (s : State) (y : Nat) (x : Yard) : (setYard s y x).rows = s.rows := rfl
@[simp] theorem setYard_memStacks (s : State) (y : Nat) (x : Yard) : (setYard s y x).memStacks = s.memStacks := rfl
@[simp] theorem setYard_mills (s : State) (y : Nat) (x : Yard) : (setYard s y x).mills = s.mills := rfl
@[simp] theorem setYard_mem (s : State) (y : Nat) (x : Yard) : (setYard s y x).mem = s.mem := rfl
@[simp] theorem setYard_gtags (s : State) (y : Nat) (x : Yard) : (setYard s y x).gtags = s.gtags := rfl
@[simp] theorem setYard_faulty (s : State) (y : Nat) (x : Yard) : (setYard s y x).faulty = s.faulty := rfl
@[simp] theorem setYard_frameKeys (s : State) (y : Nat) (x : Yard) : (setYard s y x).frameKeys = s.frameKeys := rfl
@[simp] theorem setYard_msc (s : State) (y : Nat) (x : Yard) : (setYard s y x).msc = s.msc := rfl
@[simp] theorem setYard_l2 (s : State) (y : Nat) (x : Yard) : (setYard s y x).l2 = s.l2 := rfl
@[simp] theorem setYard_tlb (s : State) (y : Nat) (x : Yard) : (setYard s y x).tlb = s.tlb := rfl
@[simp] theorem setYard_halves (s : State) (y : Nat) (x : Yard) : (setYard s y x).halves = s.halves := rfl
@[simp] theorem setYard_tasks (s : State) (y : Nat) (x : Yard) : (setYard s y x).tasks = s.tasks := rfl
@[simp] theorem setYard_readySeq (s : State) (y : Nat) (x : Yard) : (setYard s y x).readySeq = s.readySeq := rfl
@[simp] theorem setYard_credits (s : State) (y : Nat) (x : Yard) : (setYard s y x).credits = s.credits := rfl
@[simp] theorem setYard_starved (s : State) (y : Nat) (x : Yard) : (setYard s y x).starved = s.starved := rfl
@[simp] theorem setYard_pubs (s : State) (y : Nat) (x : Yard) : (setYard s y x).pubs = s.pubs := rfl
@[simp] theorem setYard_records (s : State) (y : Nat) (x : Yard) : (setYard s y x).records = s.records := rfl
@[simp] theorem setYard_packets (s : State) (y : Nat) (x : Yard) : (setYard s y x).packets = s.packets := rfl
@[simp] theorem setYard_reeves (s : State) (y : Nat) (x : Yard) : (setYard s y x).reeves = s.reeves := rfl
@[simp] theorem setYard_words (s : State) (y : Nat) (x : Yard) : (setYard s y x).words = s.words := rfl
@[simp] theorem setYard_writes (s : State) (y : Nat) (x : Yard) : (setYard s y x).writes = s.writes := rfl
@[simp] theorem setYard_flights (s : State) (y : Nat) (x : Yard) : (setYard s y x).flights = s.flights := rfl
@[simp] theorem setYard_replies (s : State) (y : Nat) (x : Yard) : (setYard s y x).replies = s.replies := rfl
@[simp] theorem setYard_tripped (s : State) (y : Nat) (x : Yard) : (setYard s y x).tripped = s.tripped := rfl
@[simp] theorem setYard_stopsDue (s : State) (y : Nat) (x : Yard) : (setYard s y x).stopsDue = s.stopsDue := rfl
@[simp] theorem setYard_mrqbase (s : State) (y : Nat) (x : Yard) : (setYard s y x).mrqbase = s.mrqbase := rfl
@[simp] theorem setYard_mrqptr (s : State) (y : Nat) (x : Yard) : (setYard s y x).mrqptr = s.mrqptr := rfl
@[simp] theorem setYard_mrsolve (s : State) (y : Nat) (x : Yard) : (setYard s y x).mrsolve = s.mrsolve := rfl
@[simp] theorem setYard_asidbase (s : State) (y : Nat) (x : Yard) : (setYard s y x).asidbase = s.asidbase := rfl
@[simp] theorem setYard_tlbinv (s : State) (y : Nat) (x : Yard) : (setYard s y x).tlbinv = s.tlbinv := rfl
@[simp] theorem setYard_heatk (s : State) (y : Nat) (x : Yard) : (setYard s y x).heatk = s.heatk := rfl
@[simp] theorem setYard_hvcmd (s : State) (y : Nat) (x : Yard) : (setYard s y x).hvcmd = s.hvcmd := rfl
@[simp] theorem setYard_hvbuf (s : State) (y : Nat) (x : Yard) : (setYard s y x).hvbuf = s.hvbuf := rfl
@[simp] theorem setYard_hvDone (s : State) (y : Nat) (x : Yard) : (setYard s y x).hvDone = s.hvDone := rfl
@[simp] theorem setYard_chrate (s : State) (y : Nat) (x : Yard) : (setYard s y x).chrate = s.chrate := rfl
@[simp] theorem setYard_dictld (s : State) (y : Nat) (x : Yard) : (setYard s y x).dictld = s.dictld := rfl
@[simp] theorem setYard_dictLoads (s : State) (y : Nat) (x : Yard) : (setYard s y x).dictLoads = s.dictLoads := rfl
@[simp] theorem setYard_heat (s : State) (y : Nat) (x : Yard) : (setYard s y x).heat = s.heat := rfl
@[simp] theorem setYard_heatDirty (s : State) (y : Nat) (x : Yard) : (setYard s y x).heatDirty = s.heatDirty := rfl
@[simp] theorem setYard_gens (s : State) (y : Nat) (x : Yard) : (setYard s y x).gens = s.gens := rfl
@[simp] theorem setYard_cmpPages (s : State) (y : Nat) (x : Yard) : (setYard s y x).cmpPages = s.cmpPages := rfl
@[simp] theorem setYard_rowCopies (s : State) (y : Nat) (x : Yard) : (setYard s y x).rowCopies = s.rowCopies := rfl
@[simp] theorem setYard_melt (s : State) (y : Nat) (x : Yard) : (setYard s y x).melt = s.melt := rfl
@[simp] theorem setYard_meltAt (s : State) (y : Nat) (x : Yard) : (setYard s y x).meltAt = s.meltAt := rfl
@[simp] theorem setYard_rfz (s : State) (y : Nat) (x : Yard) : (setYard s y x).rfz = s.rfz := rfl
@[simp] theorem setYard_power10us (s : State) (y : Nat) (x : Yard) : (setYard s y x).power10us = s.power10us := rfl
@[simp] theorem setYard_trip (s : State) (y : Nat) (x : Yard) : (setYard s y x).trip = s.trip := rfl
@[simp] theorem setYard_sensors (s : State) (y : Nat) (x : Yard) : (setYard s y x).sensors = s.sensors := rfl
@[simp] theorem setYard_vfs (s : State) (y : Nat) (x : Yard) : (setYard s y x).vfs = s.vfs := rfl
@[simp] theorem setYard_parts (s : State) (y : Nat) (x : Yard) : (setYard s y x).parts = s.parts := rfl
@[simp] theorem setYard_keySlots (s : State) (y : Nat) (x : Yard) : (setYard s y x).keySlots = s.keySlots := rfl
@[simp] theorem setYard_security (s : State) (y : Nat) (x : Yard) : (setYard s y x).security = s.security := rfl
@[simp] theorem setYard_debug (s : State) (y : Nat) (x : Yard) : (setYard s y x).debug = s.debug := rfl
@[simp] theorem setYard_modPower (s : State) (y : Nat) (x : Yard) : (setYard s y x).modPower = s.modPower := rfl
@[simp] theorem setYard_journal (s : State) (y : Nat) (x : Yard) : (setYard s y x).journal = s.journal := rfl
@[simp] theorem setYard_quoteIndex (s : State) (y : Nat) (x : Yard) : (setYard s y x).quoteIndex = s.quoteIndex := rfl
@[simp] theorem setYard_quotes (s : State) (y : Nat) (x : Yard) : (setYard s y x).quotes = s.quotes := rfl
@[simp] theorem setYard_msix (s : State) (y : Nat) (x : Yard) : (setYard s y x).msix = s.msix := rfl
@[simp] theorem setYard_hostErrors (s : State) (y : Nat) (x : Yard) : (setYard s y x).hostErrors = s.hostErrors := rfl
@[simp] theorem setYard_hostReads (s : State) (y : Nat) (x : Yard) : (setYard s y x).hostReads = s.hostReads := rfl
@[simp] theorem setYard_cur (s : State) (y : Nat) (x : Yard) : (setYard s y x).cur = s.cur := rfl
@[simp] theorem setYard_agenda (s : State) (y : Nat) (x : Yard) : (setYard s y x).agenda = s.agenda := rfl
@[simp] theorem setYard_draws (s : State) (y : Nat) (x : Yard) : (setYard s y x).draws = s.draws := rfl
@[simp] theorem setYard_taken (s : State) (y : Nat) (x : Yard) : (setYard s y x).taken = s.taken := rfl

/-! ### modYard -/

@[simp] theorem modYard_ticks (s : State) (y : Nat) (f : Yard → Yard) : (modYard s y f).ticks = s.ticks := rfl
@[simp] theorem modYard_cores (s : State) (y : Nat) (f : Yard → Yard) : (modYard s y f).cores = s.cores := rfl
@[simp] theorem modYard_phys (s : State) (y : Nat) (f : Yard → Yard) : (modYard s y f).phys = s.phys := rfl
@[simp] theorem modYard_rows (s : State) (y : Nat) (f : Yard → Yard) : (modYard s y f).rows = s.rows := rfl
@[simp] theorem modYard_memStacks (s : State) (y : Nat) (f : Yard → Yard) : (modYard s y f).memStacks = s.memStacks := rfl
@[simp] theorem modYard_mills (s : State) (y : Nat) (f : Yard → Yard) : (modYard s y f).mills = s.mills := rfl
@[simp] theorem modYard_mem (s : State) (y : Nat) (f : Yard → Yard) : (modYard s y f).mem = s.mem := rfl
@[simp] theorem modYard_gtags (s : State) (y : Nat) (f : Yard → Yard) : (modYard s y f).gtags = s.gtags := rfl
@[simp] theorem modYard_faulty (s : State) (y : Nat) (f : Yard → Yard) : (modYard s y f).faulty = s.faulty := rfl
@[simp] theorem modYard_frameKeys (s : State) (y : Nat) (f : Yard → Yard) : (modYard s y f).frameKeys = s.frameKeys := rfl
@[simp] theorem modYard_msc (s : State) (y : Nat) (f : Yard → Yard) : (modYard s y f).msc = s.msc := rfl
@[simp] theorem modYard_l2 (s : State) (y : Nat) (f : Yard → Yard) : (modYard s y f).l2 = s.l2 := rfl
@[simp] theorem modYard_tlb (s : State) (y : Nat) (f : Yard → Yard) : (modYard s y f).tlb = s.tlb := rfl
@[simp] theorem modYard_halves (s : State) (y : Nat) (f : Yard → Yard) : (modYard s y f).halves = s.halves := rfl
@[simp] theorem modYard_tasks (s : State) (y : Nat) (f : Yard → Yard) : (modYard s y f).tasks = s.tasks := rfl
@[simp] theorem modYard_readySeq (s : State) (y : Nat) (f : Yard → Yard) : (modYard s y f).readySeq = s.readySeq := rfl
@[simp] theorem modYard_credits (s : State) (y : Nat) (f : Yard → Yard) : (modYard s y f).credits = s.credits := rfl
@[simp] theorem modYard_starved (s : State) (y : Nat) (f : Yard → Yard) : (modYard s y f).starved = s.starved := rfl
@[simp] theorem modYard_pubs (s : State) (y : Nat) (f : Yard → Yard) : (modYard s y f).pubs = s.pubs := rfl
@[simp] theorem modYard_records (s : State) (y : Nat) (f : Yard → Yard) : (modYard s y f).records = s.records := rfl
@[simp] theorem modYard_packets (s : State) (y : Nat) (f : Yard → Yard) : (modYard s y f).packets = s.packets := rfl
@[simp] theorem modYard_reeves (s : State) (y : Nat) (f : Yard → Yard) : (modYard s y f).reeves = s.reeves := rfl
@[simp] theorem modYard_words (s : State) (y : Nat) (f : Yard → Yard) : (modYard s y f).words = s.words := rfl
@[simp] theorem modYard_writes (s : State) (y : Nat) (f : Yard → Yard) : (modYard s y f).writes = s.writes := rfl
@[simp] theorem modYard_flights (s : State) (y : Nat) (f : Yard → Yard) : (modYard s y f).flights = s.flights := rfl
@[simp] theorem modYard_replies (s : State) (y : Nat) (f : Yard → Yard) : (modYard s y f).replies = s.replies := rfl
@[simp] theorem modYard_tripped (s : State) (y : Nat) (f : Yard → Yard) : (modYard s y f).tripped = s.tripped := rfl
@[simp] theorem modYard_stopsDue (s : State) (y : Nat) (f : Yard → Yard) : (modYard s y f).stopsDue = s.stopsDue := rfl
@[simp] theorem modYard_mrqbase (s : State) (y : Nat) (f : Yard → Yard) : (modYard s y f).mrqbase = s.mrqbase := rfl
@[simp] theorem modYard_mrqptr (s : State) (y : Nat) (f : Yard → Yard) : (modYard s y f).mrqptr = s.mrqptr := rfl
@[simp] theorem modYard_mrsolve (s : State) (y : Nat) (f : Yard → Yard) : (modYard s y f).mrsolve = s.mrsolve := rfl
@[simp] theorem modYard_asidbase (s : State) (y : Nat) (f : Yard → Yard) : (modYard s y f).asidbase = s.asidbase := rfl
@[simp] theorem modYard_tlbinv (s : State) (y : Nat) (f : Yard → Yard) : (modYard s y f).tlbinv = s.tlbinv := rfl
@[simp] theorem modYard_heatk (s : State) (y : Nat) (f : Yard → Yard) : (modYard s y f).heatk = s.heatk := rfl
@[simp] theorem modYard_hvcmd (s : State) (y : Nat) (f : Yard → Yard) : (modYard s y f).hvcmd = s.hvcmd := rfl
@[simp] theorem modYard_hvbuf (s : State) (y : Nat) (f : Yard → Yard) : (modYard s y f).hvbuf = s.hvbuf := rfl
@[simp] theorem modYard_hvDone (s : State) (y : Nat) (f : Yard → Yard) : (modYard s y f).hvDone = s.hvDone := rfl
@[simp] theorem modYard_chrate (s : State) (y : Nat) (f : Yard → Yard) : (modYard s y f).chrate = s.chrate := rfl
@[simp] theorem modYard_dictld (s : State) (y : Nat) (f : Yard → Yard) : (modYard s y f).dictld = s.dictld := rfl
@[simp] theorem modYard_dictLoads (s : State) (y : Nat) (f : Yard → Yard) : (modYard s y f).dictLoads = s.dictLoads := rfl
@[simp] theorem modYard_heat (s : State) (y : Nat) (f : Yard → Yard) : (modYard s y f).heat = s.heat := rfl
@[simp] theorem modYard_heatDirty (s : State) (y : Nat) (f : Yard → Yard) : (modYard s y f).heatDirty = s.heatDirty := rfl
@[simp] theorem modYard_gens (s : State) (y : Nat) (f : Yard → Yard) : (modYard s y f).gens = s.gens := rfl
@[simp] theorem modYard_cmpPages (s : State) (y : Nat) (f : Yard → Yard) : (modYard s y f).cmpPages = s.cmpPages := rfl
@[simp] theorem modYard_rowCopies (s : State) (y : Nat) (f : Yard → Yard) : (modYard s y f).rowCopies = s.rowCopies := rfl
@[simp] theorem modYard_melt (s : State) (y : Nat) (f : Yard → Yard) : (modYard s y f).melt = s.melt := rfl
@[simp] theorem modYard_meltAt (s : State) (y : Nat) (f : Yard → Yard) : (modYard s y f).meltAt = s.meltAt := rfl
@[simp] theorem modYard_rfz (s : State) (y : Nat) (f : Yard → Yard) : (modYard s y f).rfz = s.rfz := rfl
@[simp] theorem modYard_power10us (s : State) (y : Nat) (f : Yard → Yard) : (modYard s y f).power10us = s.power10us := rfl
@[simp] theorem modYard_trip (s : State) (y : Nat) (f : Yard → Yard) : (modYard s y f).trip = s.trip := rfl
@[simp] theorem modYard_sensors (s : State) (y : Nat) (f : Yard → Yard) : (modYard s y f).sensors = s.sensors := rfl
@[simp] theorem modYard_vfs (s : State) (y : Nat) (f : Yard → Yard) : (modYard s y f).vfs = s.vfs := rfl
@[simp] theorem modYard_parts (s : State) (y : Nat) (f : Yard → Yard) : (modYard s y f).parts = s.parts := rfl
@[simp] theorem modYard_keySlots (s : State) (y : Nat) (f : Yard → Yard) : (modYard s y f).keySlots = s.keySlots := rfl
@[simp] theorem modYard_security (s : State) (y : Nat) (f : Yard → Yard) : (modYard s y f).security = s.security := rfl
@[simp] theorem modYard_debug (s : State) (y : Nat) (f : Yard → Yard) : (modYard s y f).debug = s.debug := rfl
@[simp] theorem modYard_modPower (s : State) (y : Nat) (f : Yard → Yard) : (modYard s y f).modPower = s.modPower := rfl
@[simp] theorem modYard_journal (s : State) (y : Nat) (f : Yard → Yard) : (modYard s y f).journal = s.journal := rfl
@[simp] theorem modYard_quoteIndex (s : State) (y : Nat) (f : Yard → Yard) : (modYard s y f).quoteIndex = s.quoteIndex := rfl
@[simp] theorem modYard_quotes (s : State) (y : Nat) (f : Yard → Yard) : (modYard s y f).quotes = s.quotes := rfl
@[simp] theorem modYard_msix (s : State) (y : Nat) (f : Yard → Yard) : (modYard s y f).msix = s.msix := rfl
@[simp] theorem modYard_hostErrors (s : State) (y : Nat) (f : Yard → Yard) : (modYard s y f).hostErrors = s.hostErrors := rfl
@[simp] theorem modYard_hostReads (s : State) (y : Nat) (f : Yard → Yard) : (modYard s y f).hostReads = s.hostReads := rfl
@[simp] theorem modYard_cur (s : State) (y : Nat) (f : Yard → Yard) : (modYard s y f).cur = s.cur := rfl
@[simp] theorem modYard_agenda (s : State) (y : Nat) (f : Yard → Yard) : (modYard s y f).agenda = s.agenda := rfl
@[simp] theorem modYard_draws (s : State) (y : Nat) (f : Yard → Yard) : (modYard s y f).draws = s.draws := rfl
@[simp] theorem modYard_taken (s : State) (y : Nat) (f : Yard → Yard) : (modYard s y f).taken = s.taken := rfl

/-! ### setStack -/

@[simp] theorem setStack_ticks (s : State) (k : Nat) (x : Stack) : (setStack s k x).ticks = s.ticks := rfl
@[simp] theorem setStack_cores (s : State) (k : Nat) (x : Stack) : (setStack s k x).cores = s.cores := rfl
@[simp] theorem setStack_phys (s : State) (k : Nat) (x : Stack) : (setStack s k x).phys = s.phys := rfl
@[simp] theorem setStack_rows (s : State) (k : Nat) (x : Stack) : (setStack s k x).rows = s.rows := rfl
@[simp] theorem setStack_yards (s : State) (k : Nat) (x : Stack) : (setStack s k x).yards = s.yards := rfl
@[simp] theorem setStack_mills (s : State) (k : Nat) (x : Stack) : (setStack s k x).mills = s.mills := rfl
@[simp] theorem setStack_mem (s : State) (k : Nat) (x : Stack) : (setStack s k x).mem = s.mem := rfl
@[simp] theorem setStack_gtags (s : State) (k : Nat) (x : Stack) : (setStack s k x).gtags = s.gtags := rfl
@[simp] theorem setStack_faulty (s : State) (k : Nat) (x : Stack) : (setStack s k x).faulty = s.faulty := rfl
@[simp] theorem setStack_frameKeys (s : State) (k : Nat) (x : Stack) : (setStack s k x).frameKeys = s.frameKeys := rfl
@[simp] theorem setStack_msc (s : State) (k : Nat) (x : Stack) : (setStack s k x).msc = s.msc := rfl
@[simp] theorem setStack_l2 (s : State) (k : Nat) (x : Stack) : (setStack s k x).l2 = s.l2 := rfl
@[simp] theorem setStack_tlb (s : State) (k : Nat) (x : Stack) : (setStack s k x).tlb = s.tlb := rfl
@[simp] theorem setStack_halves (s : State) (k : Nat) (x : Stack) : (setStack s k x).halves = s.halves := rfl
@[simp] theorem setStack_tasks (s : State) (k : Nat) (x : Stack) : (setStack s k x).tasks = s.tasks := rfl
@[simp] theorem setStack_readySeq (s : State) (k : Nat) (x : Stack) : (setStack s k x).readySeq = s.readySeq := rfl
@[simp] theorem setStack_credits (s : State) (k : Nat) (x : Stack) : (setStack s k x).credits = s.credits := rfl
@[simp] theorem setStack_starved (s : State) (k : Nat) (x : Stack) : (setStack s k x).starved = s.starved := rfl
@[simp] theorem setStack_pubs (s : State) (k : Nat) (x : Stack) : (setStack s k x).pubs = s.pubs := rfl
@[simp] theorem setStack_records (s : State) (k : Nat) (x : Stack) : (setStack s k x).records = s.records := rfl
@[simp] theorem setStack_packets (s : State) (k : Nat) (x : Stack) : (setStack s k x).packets = s.packets := rfl
@[simp] theorem setStack_reeves (s : State) (k : Nat) (x : Stack) : (setStack s k x).reeves = s.reeves := rfl
@[simp] theorem setStack_words (s : State) (k : Nat) (x : Stack) : (setStack s k x).words = s.words := rfl
@[simp] theorem setStack_writes (s : State) (k : Nat) (x : Stack) : (setStack s k x).writes = s.writes := rfl
@[simp] theorem setStack_flights (s : State) (k : Nat) (x : Stack) : (setStack s k x).flights = s.flights := rfl
@[simp] theorem setStack_replies (s : State) (k : Nat) (x : Stack) : (setStack s k x).replies = s.replies := rfl
@[simp] theorem setStack_tripped (s : State) (k : Nat) (x : Stack) : (setStack s k x).tripped = s.tripped := rfl
@[simp] theorem setStack_stopsDue (s : State) (k : Nat) (x : Stack) : (setStack s k x).stopsDue = s.stopsDue := rfl
@[simp] theorem setStack_mrqbase (s : State) (k : Nat) (x : Stack) : (setStack s k x).mrqbase = s.mrqbase := rfl
@[simp] theorem setStack_mrqptr (s : State) (k : Nat) (x : Stack) : (setStack s k x).mrqptr = s.mrqptr := rfl
@[simp] theorem setStack_mrsolve (s : State) (k : Nat) (x : Stack) : (setStack s k x).mrsolve = s.mrsolve := rfl
@[simp] theorem setStack_asidbase (s : State) (k : Nat) (x : Stack) : (setStack s k x).asidbase = s.asidbase := rfl
@[simp] theorem setStack_tlbinv (s : State) (k : Nat) (x : Stack) : (setStack s k x).tlbinv = s.tlbinv := rfl
@[simp] theorem setStack_heatk (s : State) (k : Nat) (x : Stack) : (setStack s k x).heatk = s.heatk := rfl
@[simp] theorem setStack_hvcmd (s : State) (k : Nat) (x : Stack) : (setStack s k x).hvcmd = s.hvcmd := rfl
@[simp] theorem setStack_hvbuf (s : State) (k : Nat) (x : Stack) : (setStack s k x).hvbuf = s.hvbuf := rfl
@[simp] theorem setStack_hvDone (s : State) (k : Nat) (x : Stack) : (setStack s k x).hvDone = s.hvDone := rfl
@[simp] theorem setStack_chrate (s : State) (k : Nat) (x : Stack) : (setStack s k x).chrate = s.chrate := rfl
@[simp] theorem setStack_dictld (s : State) (k : Nat) (x : Stack) : (setStack s k x).dictld = s.dictld := rfl
@[simp] theorem setStack_dictLoads (s : State) (k : Nat) (x : Stack) : (setStack s k x).dictLoads = s.dictLoads := rfl
@[simp] theorem setStack_heat (s : State) (k : Nat) (x : Stack) : (setStack s k x).heat = s.heat := rfl
@[simp] theorem setStack_heatDirty (s : State) (k : Nat) (x : Stack) : (setStack s k x).heatDirty = s.heatDirty := rfl
@[simp] theorem setStack_gens (s : State) (k : Nat) (x : Stack) : (setStack s k x).gens = s.gens := rfl
@[simp] theorem setStack_cmpPages (s : State) (k : Nat) (x : Stack) : (setStack s k x).cmpPages = s.cmpPages := rfl
@[simp] theorem setStack_rowCopies (s : State) (k : Nat) (x : Stack) : (setStack s k x).rowCopies = s.rowCopies := rfl
@[simp] theorem setStack_melt (s : State) (k : Nat) (x : Stack) : (setStack s k x).melt = s.melt := rfl
@[simp] theorem setStack_meltAt (s : State) (k : Nat) (x : Stack) : (setStack s k x).meltAt = s.meltAt := rfl
@[simp] theorem setStack_rfz (s : State) (k : Nat) (x : Stack) : (setStack s k x).rfz = s.rfz := rfl
@[simp] theorem setStack_power10us (s : State) (k : Nat) (x : Stack) : (setStack s k x).power10us = s.power10us := rfl
@[simp] theorem setStack_trip (s : State) (k : Nat) (x : Stack) : (setStack s k x).trip = s.trip := rfl
@[simp] theorem setStack_sensors (s : State) (k : Nat) (x : Stack) : (setStack s k x).sensors = s.sensors := rfl
@[simp] theorem setStack_vfs (s : State) (k : Nat) (x : Stack) : (setStack s k x).vfs = s.vfs := rfl
@[simp] theorem setStack_parts (s : State) (k : Nat) (x : Stack) : (setStack s k x).parts = s.parts := rfl
@[simp] theorem setStack_keySlots (s : State) (k : Nat) (x : Stack) : (setStack s k x).keySlots = s.keySlots := rfl
@[simp] theorem setStack_security (s : State) (k : Nat) (x : Stack) : (setStack s k x).security = s.security := rfl
@[simp] theorem setStack_debug (s : State) (k : Nat) (x : Stack) : (setStack s k x).debug = s.debug := rfl
@[simp] theorem setStack_modPower (s : State) (k : Nat) (x : Stack) : (setStack s k x).modPower = s.modPower := rfl
@[simp] theorem setStack_journal (s : State) (k : Nat) (x : Stack) : (setStack s k x).journal = s.journal := rfl
@[simp] theorem setStack_quoteIndex (s : State) (k : Nat) (x : Stack) : (setStack s k x).quoteIndex = s.quoteIndex := rfl
@[simp] theorem setStack_quotes (s : State) (k : Nat) (x : Stack) : (setStack s k x).quotes = s.quotes := rfl
@[simp] theorem setStack_msix (s : State) (k : Nat) (x : Stack) : (setStack s k x).msix = s.msix := rfl
@[simp] theorem setStack_hostErrors (s : State) (k : Nat) (x : Stack) : (setStack s k x).hostErrors = s.hostErrors := rfl
@[simp] theorem setStack_hostReads (s : State) (k : Nat) (x : Stack) : (setStack s k x).hostReads = s.hostReads := rfl
@[simp] theorem setStack_cur (s : State) (k : Nat) (x : Stack) : (setStack s k x).cur = s.cur := rfl
@[simp] theorem setStack_agenda (s : State) (k : Nat) (x : Stack) : (setStack s k x).agenda = s.agenda := rfl
@[simp] theorem setStack_draws (s : State) (k : Nat) (x : Stack) : (setStack s k x).draws = s.draws := rfl
@[simp] theorem setStack_taken (s : State) (k : Nat) (x : Stack) : (setStack s k x).taken = s.taken := rfl

/-! ### modStack -/

@[simp] theorem modStack_ticks (s : State) (k : Nat) (f : Stack → Stack) : (modStack s k f).ticks = s.ticks := rfl
@[simp] theorem modStack_cores (s : State) (k : Nat) (f : Stack → Stack) : (modStack s k f).cores = s.cores := rfl
@[simp] theorem modStack_phys (s : State) (k : Nat) (f : Stack → Stack) : (modStack s k f).phys = s.phys := rfl
@[simp] theorem modStack_rows (s : State) (k : Nat) (f : Stack → Stack) : (modStack s k f).rows = s.rows := rfl
@[simp] theorem modStack_yards (s : State) (k : Nat) (f : Stack → Stack) : (modStack s k f).yards = s.yards := rfl
@[simp] theorem modStack_mills (s : State) (k : Nat) (f : Stack → Stack) : (modStack s k f).mills = s.mills := rfl
@[simp] theorem modStack_mem (s : State) (k : Nat) (f : Stack → Stack) : (modStack s k f).mem = s.mem := rfl
@[simp] theorem modStack_gtags (s : State) (k : Nat) (f : Stack → Stack) : (modStack s k f).gtags = s.gtags := rfl
@[simp] theorem modStack_faulty (s : State) (k : Nat) (f : Stack → Stack) : (modStack s k f).faulty = s.faulty := rfl
@[simp] theorem modStack_frameKeys (s : State) (k : Nat) (f : Stack → Stack) : (modStack s k f).frameKeys = s.frameKeys := rfl
@[simp] theorem modStack_msc (s : State) (k : Nat) (f : Stack → Stack) : (modStack s k f).msc = s.msc := rfl
@[simp] theorem modStack_l2 (s : State) (k : Nat) (f : Stack → Stack) : (modStack s k f).l2 = s.l2 := rfl
@[simp] theorem modStack_tlb (s : State) (k : Nat) (f : Stack → Stack) : (modStack s k f).tlb = s.tlb := rfl
@[simp] theorem modStack_halves (s : State) (k : Nat) (f : Stack → Stack) : (modStack s k f).halves = s.halves := rfl
@[simp] theorem modStack_tasks (s : State) (k : Nat) (f : Stack → Stack) : (modStack s k f).tasks = s.tasks := rfl
@[simp] theorem modStack_readySeq (s : State) (k : Nat) (f : Stack → Stack) : (modStack s k f).readySeq = s.readySeq := rfl
@[simp] theorem modStack_credits (s : State) (k : Nat) (f : Stack → Stack) : (modStack s k f).credits = s.credits := rfl
@[simp] theorem modStack_starved (s : State) (k : Nat) (f : Stack → Stack) : (modStack s k f).starved = s.starved := rfl
@[simp] theorem modStack_pubs (s : State) (k : Nat) (f : Stack → Stack) : (modStack s k f).pubs = s.pubs := rfl
@[simp] theorem modStack_records (s : State) (k : Nat) (f : Stack → Stack) : (modStack s k f).records = s.records := rfl
@[simp] theorem modStack_packets (s : State) (k : Nat) (f : Stack → Stack) : (modStack s k f).packets = s.packets := rfl
@[simp] theorem modStack_reeves (s : State) (k : Nat) (f : Stack → Stack) : (modStack s k f).reeves = s.reeves := rfl
@[simp] theorem modStack_words (s : State) (k : Nat) (f : Stack → Stack) : (modStack s k f).words = s.words := rfl
@[simp] theorem modStack_writes (s : State) (k : Nat) (f : Stack → Stack) : (modStack s k f).writes = s.writes := rfl
@[simp] theorem modStack_flights (s : State) (k : Nat) (f : Stack → Stack) : (modStack s k f).flights = s.flights := rfl
@[simp] theorem modStack_replies (s : State) (k : Nat) (f : Stack → Stack) : (modStack s k f).replies = s.replies := rfl
@[simp] theorem modStack_tripped (s : State) (k : Nat) (f : Stack → Stack) : (modStack s k f).tripped = s.tripped := rfl
@[simp] theorem modStack_stopsDue (s : State) (k : Nat) (f : Stack → Stack) : (modStack s k f).stopsDue = s.stopsDue := rfl
@[simp] theorem modStack_mrqbase (s : State) (k : Nat) (f : Stack → Stack) : (modStack s k f).mrqbase = s.mrqbase := rfl
@[simp] theorem modStack_mrqptr (s : State) (k : Nat) (f : Stack → Stack) : (modStack s k f).mrqptr = s.mrqptr := rfl
@[simp] theorem modStack_mrsolve (s : State) (k : Nat) (f : Stack → Stack) : (modStack s k f).mrsolve = s.mrsolve := rfl
@[simp] theorem modStack_asidbase (s : State) (k : Nat) (f : Stack → Stack) : (modStack s k f).asidbase = s.asidbase := rfl
@[simp] theorem modStack_tlbinv (s : State) (k : Nat) (f : Stack → Stack) : (modStack s k f).tlbinv = s.tlbinv := rfl
@[simp] theorem modStack_heatk (s : State) (k : Nat) (f : Stack → Stack) : (modStack s k f).heatk = s.heatk := rfl
@[simp] theorem modStack_hvcmd (s : State) (k : Nat) (f : Stack → Stack) : (modStack s k f).hvcmd = s.hvcmd := rfl
@[simp] theorem modStack_hvbuf (s : State) (k : Nat) (f : Stack → Stack) : (modStack s k f).hvbuf = s.hvbuf := rfl
@[simp] theorem modStack_hvDone (s : State) (k : Nat) (f : Stack → Stack) : (modStack s k f).hvDone = s.hvDone := rfl
@[simp] theorem modStack_chrate (s : State) (k : Nat) (f : Stack → Stack) : (modStack s k f).chrate = s.chrate := rfl
@[simp] theorem modStack_dictld (s : State) (k : Nat) (f : Stack → Stack) : (modStack s k f).dictld = s.dictld := rfl
@[simp] theorem modStack_dictLoads (s : State) (k : Nat) (f : Stack → Stack) : (modStack s k f).dictLoads = s.dictLoads := rfl
@[simp] theorem modStack_heat (s : State) (k : Nat) (f : Stack → Stack) : (modStack s k f).heat = s.heat := rfl
@[simp] theorem modStack_heatDirty (s : State) (k : Nat) (f : Stack → Stack) : (modStack s k f).heatDirty = s.heatDirty := rfl
@[simp] theorem modStack_gens (s : State) (k : Nat) (f : Stack → Stack) : (modStack s k f).gens = s.gens := rfl
@[simp] theorem modStack_cmpPages (s : State) (k : Nat) (f : Stack → Stack) : (modStack s k f).cmpPages = s.cmpPages := rfl
@[simp] theorem modStack_rowCopies (s : State) (k : Nat) (f : Stack → Stack) : (modStack s k f).rowCopies = s.rowCopies := rfl
@[simp] theorem modStack_melt (s : State) (k : Nat) (f : Stack → Stack) : (modStack s k f).melt = s.melt := rfl
@[simp] theorem modStack_meltAt (s : State) (k : Nat) (f : Stack → Stack) : (modStack s k f).meltAt = s.meltAt := rfl
@[simp] theorem modStack_rfz (s : State) (k : Nat) (f : Stack → Stack) : (modStack s k f).rfz = s.rfz := rfl
@[simp] theorem modStack_power10us (s : State) (k : Nat) (f : Stack → Stack) : (modStack s k f).power10us = s.power10us := rfl
@[simp] theorem modStack_trip (s : State) (k : Nat) (f : Stack → Stack) : (modStack s k f).trip = s.trip := rfl
@[simp] theorem modStack_sensors (s : State) (k : Nat) (f : Stack → Stack) : (modStack s k f).sensors = s.sensors := rfl
@[simp] theorem modStack_vfs (s : State) (k : Nat) (f : Stack → Stack) : (modStack s k f).vfs = s.vfs := rfl
@[simp] theorem modStack_parts (s : State) (k : Nat) (f : Stack → Stack) : (modStack s k f).parts = s.parts := rfl
@[simp] theorem modStack_keySlots (s : State) (k : Nat) (f : Stack → Stack) : (modStack s k f).keySlots = s.keySlots := rfl
@[simp] theorem modStack_security (s : State) (k : Nat) (f : Stack → Stack) : (modStack s k f).security = s.security := rfl
@[simp] theorem modStack_debug (s : State) (k : Nat) (f : Stack → Stack) : (modStack s k f).debug = s.debug := rfl
@[simp] theorem modStack_modPower (s : State) (k : Nat) (f : Stack → Stack) : (modStack s k f).modPower = s.modPower := rfl
@[simp] theorem modStack_journal (s : State) (k : Nat) (f : Stack → Stack) : (modStack s k f).journal = s.journal := rfl
@[simp] theorem modStack_quoteIndex (s : State) (k : Nat) (f : Stack → Stack) : (modStack s k f).quoteIndex = s.quoteIndex := rfl
@[simp] theorem modStack_quotes (s : State) (k : Nat) (f : Stack → Stack) : (modStack s k f).quotes = s.quotes := rfl
@[simp] theorem modStack_msix (s : State) (k : Nat) (f : Stack → Stack) : (modStack s k f).msix = s.msix := rfl
@[simp] theorem modStack_hostErrors (s : State) (k : Nat) (f : Stack → Stack) : (modStack s k f).hostErrors = s.hostErrors := rfl
@[simp] theorem modStack_hostReads (s : State) (k : Nat) (f : Stack → Stack) : (modStack s k f).hostReads = s.hostReads := rfl
@[simp] theorem modStack_cur (s : State) (k : Nat) (f : Stack → Stack) : (modStack s k f).cur = s.cur := rfl
@[simp] theorem modStack_agenda (s : State) (k : Nat) (f : Stack → Stack) : (modStack s k f).agenda = s.agenda := rfl
@[simp] theorem modStack_draws (s : State) (k : Nat) (f : Stack → Stack) : (modStack s k f).draws = s.draws := rfl
@[simp] theorem modStack_taken (s : State) (k : Nat) (f : Stack → Stack) : (modStack s k f).taken = s.taken := rfl

/-! ### setMill -/

@[simp] theorem setMill_ticks (s : State) (m : Nat) (x : Mill) : (setMill s m x).ticks = s.ticks := rfl
@[simp] theorem setMill_cores (s : State) (m : Nat) (x : Mill) : (setMill s m x).cores = s.cores := rfl
@[simp] theorem setMill_phys (s : State) (m : Nat) (x : Mill) : (setMill s m x).phys = s.phys := rfl
@[simp] theorem setMill_rows (s : State) (m : Nat) (x : Mill) : (setMill s m x).rows = s.rows := rfl
@[simp] theorem setMill_yards (s : State) (m : Nat) (x : Mill) : (setMill s m x).yards = s.yards := rfl
@[simp] theorem setMill_memStacks (s : State) (m : Nat) (x : Mill) : (setMill s m x).memStacks = s.memStacks := rfl
@[simp] theorem setMill_mem (s : State) (m : Nat) (x : Mill) : (setMill s m x).mem = s.mem := rfl
@[simp] theorem setMill_gtags (s : State) (m : Nat) (x : Mill) : (setMill s m x).gtags = s.gtags := rfl
@[simp] theorem setMill_faulty (s : State) (m : Nat) (x : Mill) : (setMill s m x).faulty = s.faulty := rfl
@[simp] theorem setMill_frameKeys (s : State) (m : Nat) (x : Mill) : (setMill s m x).frameKeys = s.frameKeys := rfl
@[simp] theorem setMill_msc (s : State) (m : Nat) (x : Mill) : (setMill s m x).msc = s.msc := rfl
@[simp] theorem setMill_l2 (s : State) (m : Nat) (x : Mill) : (setMill s m x).l2 = s.l2 := rfl
@[simp] theorem setMill_tlb (s : State) (m : Nat) (x : Mill) : (setMill s m x).tlb = s.tlb := rfl
@[simp] theorem setMill_halves (s : State) (m : Nat) (x : Mill) : (setMill s m x).halves = s.halves := rfl
@[simp] theorem setMill_tasks (s : State) (m : Nat) (x : Mill) : (setMill s m x).tasks = s.tasks := rfl
@[simp] theorem setMill_readySeq (s : State) (m : Nat) (x : Mill) : (setMill s m x).readySeq = s.readySeq := rfl
@[simp] theorem setMill_credits (s : State) (m : Nat) (x : Mill) : (setMill s m x).credits = s.credits := rfl
@[simp] theorem setMill_starved (s : State) (m : Nat) (x : Mill) : (setMill s m x).starved = s.starved := rfl
@[simp] theorem setMill_pubs (s : State) (m : Nat) (x : Mill) : (setMill s m x).pubs = s.pubs := rfl
@[simp] theorem setMill_records (s : State) (m : Nat) (x : Mill) : (setMill s m x).records = s.records := rfl
@[simp] theorem setMill_packets (s : State) (m : Nat) (x : Mill) : (setMill s m x).packets = s.packets := rfl
@[simp] theorem setMill_reeves (s : State) (m : Nat) (x : Mill) : (setMill s m x).reeves = s.reeves := rfl
@[simp] theorem setMill_words (s : State) (m : Nat) (x : Mill) : (setMill s m x).words = s.words := rfl
@[simp] theorem setMill_writes (s : State) (m : Nat) (x : Mill) : (setMill s m x).writes = s.writes := rfl
@[simp] theorem setMill_flights (s : State) (m : Nat) (x : Mill) : (setMill s m x).flights = s.flights := rfl
@[simp] theorem setMill_replies (s : State) (m : Nat) (x : Mill) : (setMill s m x).replies = s.replies := rfl
@[simp] theorem setMill_tripped (s : State) (m : Nat) (x : Mill) : (setMill s m x).tripped = s.tripped := rfl
@[simp] theorem setMill_stopsDue (s : State) (m : Nat) (x : Mill) : (setMill s m x).stopsDue = s.stopsDue := rfl
@[simp] theorem setMill_mrqbase (s : State) (m : Nat) (x : Mill) : (setMill s m x).mrqbase = s.mrqbase := rfl
@[simp] theorem setMill_mrqptr (s : State) (m : Nat) (x : Mill) : (setMill s m x).mrqptr = s.mrqptr := rfl
@[simp] theorem setMill_mrsolve (s : State) (m : Nat) (x : Mill) : (setMill s m x).mrsolve = s.mrsolve := rfl
@[simp] theorem setMill_asidbase (s : State) (m : Nat) (x : Mill) : (setMill s m x).asidbase = s.asidbase := rfl
@[simp] theorem setMill_tlbinv (s : State) (m : Nat) (x : Mill) : (setMill s m x).tlbinv = s.tlbinv := rfl
@[simp] theorem setMill_heatk (s : State) (m : Nat) (x : Mill) : (setMill s m x).heatk = s.heatk := rfl
@[simp] theorem setMill_hvcmd (s : State) (m : Nat) (x : Mill) : (setMill s m x).hvcmd = s.hvcmd := rfl
@[simp] theorem setMill_hvbuf (s : State) (m : Nat) (x : Mill) : (setMill s m x).hvbuf = s.hvbuf := rfl
@[simp] theorem setMill_hvDone (s : State) (m : Nat) (x : Mill) : (setMill s m x).hvDone = s.hvDone := rfl
@[simp] theorem setMill_chrate (s : State) (m : Nat) (x : Mill) : (setMill s m x).chrate = s.chrate := rfl
@[simp] theorem setMill_dictld (s : State) (m : Nat) (x : Mill) : (setMill s m x).dictld = s.dictld := rfl
@[simp] theorem setMill_dictLoads (s : State) (m : Nat) (x : Mill) : (setMill s m x).dictLoads = s.dictLoads := rfl
@[simp] theorem setMill_heat (s : State) (m : Nat) (x : Mill) : (setMill s m x).heat = s.heat := rfl
@[simp] theorem setMill_heatDirty (s : State) (m : Nat) (x : Mill) : (setMill s m x).heatDirty = s.heatDirty := rfl
@[simp] theorem setMill_gens (s : State) (m : Nat) (x : Mill) : (setMill s m x).gens = s.gens := rfl
@[simp] theorem setMill_cmpPages (s : State) (m : Nat) (x : Mill) : (setMill s m x).cmpPages = s.cmpPages := rfl
@[simp] theorem setMill_rowCopies (s : State) (m : Nat) (x : Mill) : (setMill s m x).rowCopies = s.rowCopies := rfl
@[simp] theorem setMill_melt (s : State) (m : Nat) (x : Mill) : (setMill s m x).melt = s.melt := rfl
@[simp] theorem setMill_meltAt (s : State) (m : Nat) (x : Mill) : (setMill s m x).meltAt = s.meltAt := rfl
@[simp] theorem setMill_rfz (s : State) (m : Nat) (x : Mill) : (setMill s m x).rfz = s.rfz := rfl
@[simp] theorem setMill_power10us (s : State) (m : Nat) (x : Mill) : (setMill s m x).power10us = s.power10us := rfl
@[simp] theorem setMill_trip (s : State) (m : Nat) (x : Mill) : (setMill s m x).trip = s.trip := rfl
@[simp] theorem setMill_sensors (s : State) (m : Nat) (x : Mill) : (setMill s m x).sensors = s.sensors := rfl
@[simp] theorem setMill_vfs (s : State) (m : Nat) (x : Mill) : (setMill s m x).vfs = s.vfs := rfl
@[simp] theorem setMill_parts (s : State) (m : Nat) (x : Mill) : (setMill s m x).parts = s.parts := rfl
@[simp] theorem setMill_keySlots (s : State) (m : Nat) (x : Mill) : (setMill s m x).keySlots = s.keySlots := rfl
@[simp] theorem setMill_security (s : State) (m : Nat) (x : Mill) : (setMill s m x).security = s.security := rfl
@[simp] theorem setMill_debug (s : State) (m : Nat) (x : Mill) : (setMill s m x).debug = s.debug := rfl
@[simp] theorem setMill_modPower (s : State) (m : Nat) (x : Mill) : (setMill s m x).modPower = s.modPower := rfl
@[simp] theorem setMill_journal (s : State) (m : Nat) (x : Mill) : (setMill s m x).journal = s.journal := rfl
@[simp] theorem setMill_quoteIndex (s : State) (m : Nat) (x : Mill) : (setMill s m x).quoteIndex = s.quoteIndex := rfl
@[simp] theorem setMill_quotes (s : State) (m : Nat) (x : Mill) : (setMill s m x).quotes = s.quotes := rfl
@[simp] theorem setMill_msix (s : State) (m : Nat) (x : Mill) : (setMill s m x).msix = s.msix := rfl
@[simp] theorem setMill_hostErrors (s : State) (m : Nat) (x : Mill) : (setMill s m x).hostErrors = s.hostErrors := rfl
@[simp] theorem setMill_hostReads (s : State) (m : Nat) (x : Mill) : (setMill s m x).hostReads = s.hostReads := rfl
@[simp] theorem setMill_cur (s : State) (m : Nat) (x : Mill) : (setMill s m x).cur = s.cur := rfl
@[simp] theorem setMill_agenda (s : State) (m : Nat) (x : Mill) : (setMill s m x).agenda = s.agenda := rfl
@[simp] theorem setMill_draws (s : State) (m : Nat) (x : Mill) : (setMill s m x).draws = s.draws := rfl
@[simp] theorem setMill_taken (s : State) (m : Nat) (x : Mill) : (setMill s m x).taken = s.taken := rfl

/-! ### modMill -/

@[simp] theorem modMill_ticks (s : State) (m : Nat) (f : Mill → Mill) : (modMill s m f).ticks = s.ticks := rfl
@[simp] theorem modMill_cores (s : State) (m : Nat) (f : Mill → Mill) : (modMill s m f).cores = s.cores := rfl
@[simp] theorem modMill_phys (s : State) (m : Nat) (f : Mill → Mill) : (modMill s m f).phys = s.phys := rfl
@[simp] theorem modMill_rows (s : State) (m : Nat) (f : Mill → Mill) : (modMill s m f).rows = s.rows := rfl
@[simp] theorem modMill_yards (s : State) (m : Nat) (f : Mill → Mill) : (modMill s m f).yards = s.yards := rfl
@[simp] theorem modMill_memStacks (s : State) (m : Nat) (f : Mill → Mill) : (modMill s m f).memStacks = s.memStacks := rfl
@[simp] theorem modMill_mem (s : State) (m : Nat) (f : Mill → Mill) : (modMill s m f).mem = s.mem := rfl
@[simp] theorem modMill_gtags (s : State) (m : Nat) (f : Mill → Mill) : (modMill s m f).gtags = s.gtags := rfl
@[simp] theorem modMill_faulty (s : State) (m : Nat) (f : Mill → Mill) : (modMill s m f).faulty = s.faulty := rfl
@[simp] theorem modMill_frameKeys (s : State) (m : Nat) (f : Mill → Mill) : (modMill s m f).frameKeys = s.frameKeys := rfl
@[simp] theorem modMill_msc (s : State) (m : Nat) (f : Mill → Mill) : (modMill s m f).msc = s.msc := rfl
@[simp] theorem modMill_l2 (s : State) (m : Nat) (f : Mill → Mill) : (modMill s m f).l2 = s.l2 := rfl
@[simp] theorem modMill_tlb (s : State) (m : Nat) (f : Mill → Mill) : (modMill s m f).tlb = s.tlb := rfl
@[simp] theorem modMill_halves (s : State) (m : Nat) (f : Mill → Mill) : (modMill s m f).halves = s.halves := rfl
@[simp] theorem modMill_tasks (s : State) (m : Nat) (f : Mill → Mill) : (modMill s m f).tasks = s.tasks := rfl
@[simp] theorem modMill_readySeq (s : State) (m : Nat) (f : Mill → Mill) : (modMill s m f).readySeq = s.readySeq := rfl
@[simp] theorem modMill_credits (s : State) (m : Nat) (f : Mill → Mill) : (modMill s m f).credits = s.credits := rfl
@[simp] theorem modMill_starved (s : State) (m : Nat) (f : Mill → Mill) : (modMill s m f).starved = s.starved := rfl
@[simp] theorem modMill_pubs (s : State) (m : Nat) (f : Mill → Mill) : (modMill s m f).pubs = s.pubs := rfl
@[simp] theorem modMill_records (s : State) (m : Nat) (f : Mill → Mill) : (modMill s m f).records = s.records := rfl
@[simp] theorem modMill_packets (s : State) (m : Nat) (f : Mill → Mill) : (modMill s m f).packets = s.packets := rfl
@[simp] theorem modMill_reeves (s : State) (m : Nat) (f : Mill → Mill) : (modMill s m f).reeves = s.reeves := rfl
@[simp] theorem modMill_words (s : State) (m : Nat) (f : Mill → Mill) : (modMill s m f).words = s.words := rfl
@[simp] theorem modMill_writes (s : State) (m : Nat) (f : Mill → Mill) : (modMill s m f).writes = s.writes := rfl
@[simp] theorem modMill_flights (s : State) (m : Nat) (f : Mill → Mill) : (modMill s m f).flights = s.flights := rfl
@[simp] theorem modMill_replies (s : State) (m : Nat) (f : Mill → Mill) : (modMill s m f).replies = s.replies := rfl
@[simp] theorem modMill_tripped (s : State) (m : Nat) (f : Mill → Mill) : (modMill s m f).tripped = s.tripped := rfl
@[simp] theorem modMill_stopsDue (s : State) (m : Nat) (f : Mill → Mill) : (modMill s m f).stopsDue = s.stopsDue := rfl
@[simp] theorem modMill_mrqbase (s : State) (m : Nat) (f : Mill → Mill) : (modMill s m f).mrqbase = s.mrqbase := rfl
@[simp] theorem modMill_mrqptr (s : State) (m : Nat) (f : Mill → Mill) : (modMill s m f).mrqptr = s.mrqptr := rfl
@[simp] theorem modMill_mrsolve (s : State) (m : Nat) (f : Mill → Mill) : (modMill s m f).mrsolve = s.mrsolve := rfl
@[simp] theorem modMill_asidbase (s : State) (m : Nat) (f : Mill → Mill) : (modMill s m f).asidbase = s.asidbase := rfl
@[simp] theorem modMill_tlbinv (s : State) (m : Nat) (f : Mill → Mill) : (modMill s m f).tlbinv = s.tlbinv := rfl
@[simp] theorem modMill_heatk (s : State) (m : Nat) (f : Mill → Mill) : (modMill s m f).heatk = s.heatk := rfl
@[simp] theorem modMill_hvcmd (s : State) (m : Nat) (f : Mill → Mill) : (modMill s m f).hvcmd = s.hvcmd := rfl
@[simp] theorem modMill_hvbuf (s : State) (m : Nat) (f : Mill → Mill) : (modMill s m f).hvbuf = s.hvbuf := rfl
@[simp] theorem modMill_hvDone (s : State) (m : Nat) (f : Mill → Mill) : (modMill s m f).hvDone = s.hvDone := rfl
@[simp] theorem modMill_chrate (s : State) (m : Nat) (f : Mill → Mill) : (modMill s m f).chrate = s.chrate := rfl
@[simp] theorem modMill_dictld (s : State) (m : Nat) (f : Mill → Mill) : (modMill s m f).dictld = s.dictld := rfl
@[simp] theorem modMill_dictLoads (s : State) (m : Nat) (f : Mill → Mill) : (modMill s m f).dictLoads = s.dictLoads := rfl
@[simp] theorem modMill_heat (s : State) (m : Nat) (f : Mill → Mill) : (modMill s m f).heat = s.heat := rfl
@[simp] theorem modMill_heatDirty (s : State) (m : Nat) (f : Mill → Mill) : (modMill s m f).heatDirty = s.heatDirty := rfl
@[simp] theorem modMill_gens (s : State) (m : Nat) (f : Mill → Mill) : (modMill s m f).gens = s.gens := rfl
@[simp] theorem modMill_cmpPages (s : State) (m : Nat) (f : Mill → Mill) : (modMill s m f).cmpPages = s.cmpPages := rfl
@[simp] theorem modMill_rowCopies (s : State) (m : Nat) (f : Mill → Mill) : (modMill s m f).rowCopies = s.rowCopies := rfl
@[simp] theorem modMill_melt (s : State) (m : Nat) (f : Mill → Mill) : (modMill s m f).melt = s.melt := rfl
@[simp] theorem modMill_meltAt (s : State) (m : Nat) (f : Mill → Mill) : (modMill s m f).meltAt = s.meltAt := rfl
@[simp] theorem modMill_rfz (s : State) (m : Nat) (f : Mill → Mill) : (modMill s m f).rfz = s.rfz := rfl
@[simp] theorem modMill_power10us (s : State) (m : Nat) (f : Mill → Mill) : (modMill s m f).power10us = s.power10us := rfl
@[simp] theorem modMill_trip (s : State) (m : Nat) (f : Mill → Mill) : (modMill s m f).trip = s.trip := rfl
@[simp] theorem modMill_sensors (s : State) (m : Nat) (f : Mill → Mill) : (modMill s m f).sensors = s.sensors := rfl
@[simp] theorem modMill_vfs (s : State) (m : Nat) (f : Mill → Mill) : (modMill s m f).vfs = s.vfs := rfl
@[simp] theorem modMill_parts (s : State) (m : Nat) (f : Mill → Mill) : (modMill s m f).parts = s.parts := rfl
@[simp] theorem modMill_keySlots (s : State) (m : Nat) (f : Mill → Mill) : (modMill s m f).keySlots = s.keySlots := rfl
@[simp] theorem modMill_security (s : State) (m : Nat) (f : Mill → Mill) : (modMill s m f).security = s.security := rfl
@[simp] theorem modMill_debug (s : State) (m : Nat) (f : Mill → Mill) : (modMill s m f).debug = s.debug := rfl
@[simp] theorem modMill_modPower (s : State) (m : Nat) (f : Mill → Mill) : (modMill s m f).modPower = s.modPower := rfl
@[simp] theorem modMill_journal (s : State) (m : Nat) (f : Mill → Mill) : (modMill s m f).journal = s.journal := rfl
@[simp] theorem modMill_quoteIndex (s : State) (m : Nat) (f : Mill → Mill) : (modMill s m f).quoteIndex = s.quoteIndex := rfl
@[simp] theorem modMill_quotes (s : State) (m : Nat) (f : Mill → Mill) : (modMill s m f).quotes = s.quotes := rfl
@[simp] theorem modMill_msix (s : State) (m : Nat) (f : Mill → Mill) : (modMill s m f).msix = s.msix := rfl
@[simp] theorem modMill_hostErrors (s : State) (m : Nat) (f : Mill → Mill) : (modMill s m f).hostErrors = s.hostErrors := rfl
@[simp] theorem modMill_hostReads (s : State) (m : Nat) (f : Mill → Mill) : (modMill s m f).hostReads = s.hostReads := rfl
@[simp] theorem modMill_cur (s : State) (m : Nat) (f : Mill → Mill) : (modMill s m f).cur = s.cur := rfl
@[simp] theorem modMill_agenda (s : State) (m : Nat) (f : Mill → Mill) : (modMill s m f).agenda = s.agenda := rfl
@[simp] theorem modMill_draws (s : State) (m : Nat) (f : Mill → Mill) : (modMill s m f).draws = s.draws := rfl
@[simp] theorem modMill_taken (s : State) (m : Nat) (f : Mill → Mill) : (modMill s m f).taken = s.taken := rfl

/-! ### modVf -/

@[simp] theorem modVf_ticks (s : State) (v : Nat) (f : VFunc → VFunc) : (modVf s v f).ticks = s.ticks := rfl
@[simp] theorem modVf_cores (s : State) (v : Nat) (f : VFunc → VFunc) : (modVf s v f).cores = s.cores := rfl
@[simp] theorem modVf_phys (s : State) (v : Nat) (f : VFunc → VFunc) : (modVf s v f).phys = s.phys := rfl
@[simp] theorem modVf_rows (s : State) (v : Nat) (f : VFunc → VFunc) : (modVf s v f).rows = s.rows := rfl
@[simp] theorem modVf_yards (s : State) (v : Nat) (f : VFunc → VFunc) : (modVf s v f).yards = s.yards := rfl
@[simp] theorem modVf_memStacks (s : State) (v : Nat) (f : VFunc → VFunc) : (modVf s v f).memStacks = s.memStacks := rfl
@[simp] theorem modVf_mills (s : State) (v : Nat) (f : VFunc → VFunc) : (modVf s v f).mills = s.mills := rfl
@[simp] theorem modVf_mem (s : State) (v : Nat) (f : VFunc → VFunc) : (modVf s v f).mem = s.mem := rfl
@[simp] theorem modVf_gtags (s : State) (v : Nat) (f : VFunc → VFunc) : (modVf s v f).gtags = s.gtags := rfl
@[simp] theorem modVf_faulty (s : State) (v : Nat) (f : VFunc → VFunc) : (modVf s v f).faulty = s.faulty := rfl
@[simp] theorem modVf_frameKeys (s : State) (v : Nat) (f : VFunc → VFunc) : (modVf s v f).frameKeys = s.frameKeys := rfl
@[simp] theorem modVf_msc (s : State) (v : Nat) (f : VFunc → VFunc) : (modVf s v f).msc = s.msc := rfl
@[simp] theorem modVf_l2 (s : State) (v : Nat) (f : VFunc → VFunc) : (modVf s v f).l2 = s.l2 := rfl
@[simp] theorem modVf_tlb (s : State) (v : Nat) (f : VFunc → VFunc) : (modVf s v f).tlb = s.tlb := rfl
@[simp] theorem modVf_halves (s : State) (v : Nat) (f : VFunc → VFunc) : (modVf s v f).halves = s.halves := rfl
@[simp] theorem modVf_tasks (s : State) (v : Nat) (f : VFunc → VFunc) : (modVf s v f).tasks = s.tasks := rfl
@[simp] theorem modVf_readySeq (s : State) (v : Nat) (f : VFunc → VFunc) : (modVf s v f).readySeq = s.readySeq := rfl
@[simp] theorem modVf_credits (s : State) (v : Nat) (f : VFunc → VFunc) : (modVf s v f).credits = s.credits := rfl
@[simp] theorem modVf_starved (s : State) (v : Nat) (f : VFunc → VFunc) : (modVf s v f).starved = s.starved := rfl
@[simp] theorem modVf_pubs (s : State) (v : Nat) (f : VFunc → VFunc) : (modVf s v f).pubs = s.pubs := rfl
@[simp] theorem modVf_records (s : State) (v : Nat) (f : VFunc → VFunc) : (modVf s v f).records = s.records := rfl
@[simp] theorem modVf_packets (s : State) (v : Nat) (f : VFunc → VFunc) : (modVf s v f).packets = s.packets := rfl
@[simp] theorem modVf_reeves (s : State) (v : Nat) (f : VFunc → VFunc) : (modVf s v f).reeves = s.reeves := rfl
@[simp] theorem modVf_words (s : State) (v : Nat) (f : VFunc → VFunc) : (modVf s v f).words = s.words := rfl
@[simp] theorem modVf_writes (s : State) (v : Nat) (f : VFunc → VFunc) : (modVf s v f).writes = s.writes := rfl
@[simp] theorem modVf_flights (s : State) (v : Nat) (f : VFunc → VFunc) : (modVf s v f).flights = s.flights := rfl
@[simp] theorem modVf_replies (s : State) (v : Nat) (f : VFunc → VFunc) : (modVf s v f).replies = s.replies := rfl
@[simp] theorem modVf_tripped (s : State) (v : Nat) (f : VFunc → VFunc) : (modVf s v f).tripped = s.tripped := rfl
@[simp] theorem modVf_stopsDue (s : State) (v : Nat) (f : VFunc → VFunc) : (modVf s v f).stopsDue = s.stopsDue := rfl
@[simp] theorem modVf_mrqbase (s : State) (v : Nat) (f : VFunc → VFunc) : (modVf s v f).mrqbase = s.mrqbase := rfl
@[simp] theorem modVf_mrqptr (s : State) (v : Nat) (f : VFunc → VFunc) : (modVf s v f).mrqptr = s.mrqptr := rfl
@[simp] theorem modVf_mrsolve (s : State) (v : Nat) (f : VFunc → VFunc) : (modVf s v f).mrsolve = s.mrsolve := rfl
@[simp] theorem modVf_asidbase (s : State) (v : Nat) (f : VFunc → VFunc) : (modVf s v f).asidbase = s.asidbase := rfl
@[simp] theorem modVf_tlbinv (s : State) (v : Nat) (f : VFunc → VFunc) : (modVf s v f).tlbinv = s.tlbinv := rfl
@[simp] theorem modVf_heatk (s : State) (v : Nat) (f : VFunc → VFunc) : (modVf s v f).heatk = s.heatk := rfl
@[simp] theorem modVf_hvcmd (s : State) (v : Nat) (f : VFunc → VFunc) : (modVf s v f).hvcmd = s.hvcmd := rfl
@[simp] theorem modVf_hvbuf (s : State) (v : Nat) (f : VFunc → VFunc) : (modVf s v f).hvbuf = s.hvbuf := rfl
@[simp] theorem modVf_hvDone (s : State) (v : Nat) (f : VFunc → VFunc) : (modVf s v f).hvDone = s.hvDone := rfl
@[simp] theorem modVf_chrate (s : State) (v : Nat) (f : VFunc → VFunc) : (modVf s v f).chrate = s.chrate := rfl
@[simp] theorem modVf_dictld (s : State) (v : Nat) (f : VFunc → VFunc) : (modVf s v f).dictld = s.dictld := rfl
@[simp] theorem modVf_dictLoads (s : State) (v : Nat) (f : VFunc → VFunc) : (modVf s v f).dictLoads = s.dictLoads := rfl
@[simp] theorem modVf_heat (s : State) (v : Nat) (f : VFunc → VFunc) : (modVf s v f).heat = s.heat := rfl
@[simp] theorem modVf_heatDirty (s : State) (v : Nat) (f : VFunc → VFunc) : (modVf s v f).heatDirty = s.heatDirty := rfl
@[simp] theorem modVf_gens (s : State) (v : Nat) (f : VFunc → VFunc) : (modVf s v f).gens = s.gens := rfl
@[simp] theorem modVf_cmpPages (s : State) (v : Nat) (f : VFunc → VFunc) : (modVf s v f).cmpPages = s.cmpPages := rfl
@[simp] theorem modVf_rowCopies (s : State) (v : Nat) (f : VFunc → VFunc) : (modVf s v f).rowCopies = s.rowCopies := rfl
@[simp] theorem modVf_melt (s : State) (v : Nat) (f : VFunc → VFunc) : (modVf s v f).melt = s.melt := rfl
@[simp] theorem modVf_meltAt (s : State) (v : Nat) (f : VFunc → VFunc) : (modVf s v f).meltAt = s.meltAt := rfl
@[simp] theorem modVf_rfz (s : State) (v : Nat) (f : VFunc → VFunc) : (modVf s v f).rfz = s.rfz := rfl
@[simp] theorem modVf_power10us (s : State) (v : Nat) (f : VFunc → VFunc) : (modVf s v f).power10us = s.power10us := rfl
@[simp] theorem modVf_trip (s : State) (v : Nat) (f : VFunc → VFunc) : (modVf s v f).trip = s.trip := rfl
@[simp] theorem modVf_sensors (s : State) (v : Nat) (f : VFunc → VFunc) : (modVf s v f).sensors = s.sensors := rfl
@[simp] theorem modVf_parts (s : State) (v : Nat) (f : VFunc → VFunc) : (modVf s v f).parts = s.parts := rfl
@[simp] theorem modVf_keySlots (s : State) (v : Nat) (f : VFunc → VFunc) : (modVf s v f).keySlots = s.keySlots := rfl
@[simp] theorem modVf_security (s : State) (v : Nat) (f : VFunc → VFunc) : (modVf s v f).security = s.security := rfl
@[simp] theorem modVf_debug (s : State) (v : Nat) (f : VFunc → VFunc) : (modVf s v f).debug = s.debug := rfl
@[simp] theorem modVf_modPower (s : State) (v : Nat) (f : VFunc → VFunc) : (modVf s v f).modPower = s.modPower := rfl
@[simp] theorem modVf_journal (s : State) (v : Nat) (f : VFunc → VFunc) : (modVf s v f).journal = s.journal := rfl
@[simp] theorem modVf_quoteIndex (s : State) (v : Nat) (f : VFunc → VFunc) : (modVf s v f).quoteIndex = s.quoteIndex := rfl
@[simp] theorem modVf_quotes (s : State) (v : Nat) (f : VFunc → VFunc) : (modVf s v f).quotes = s.quotes := rfl
@[simp] theorem modVf_msix (s : State) (v : Nat) (f : VFunc → VFunc) : (modVf s v f).msix = s.msix := rfl
@[simp] theorem modVf_hostErrors (s : State) (v : Nat) (f : VFunc → VFunc) : (modVf s v f).hostErrors = s.hostErrors := rfl
@[simp] theorem modVf_hostReads (s : State) (v : Nat) (f : VFunc → VFunc) : (modVf s v f).hostReads = s.hostReads := rfl
@[simp] theorem modVf_cur (s : State) (v : Nat) (f : VFunc → VFunc) : (modVf s v f).cur = s.cur := rfl
@[simp] theorem modVf_agenda (s : State) (v : Nat) (f : VFunc → VFunc) : (modVf s v f).agenda = s.agenda := rfl
@[simp] theorem modVf_draws (s : State) (v : Nat) (f : VFunc → VFunc) : (modVf s v f).draws = s.draws := rfl
@[simp] theorem modVf_taken (s : State) (v : Nat) (f : VFunc → VFunc) : (modVf s v f).taken = s.taken := rfl

/-! ### modPart -/

@[simp] theorem modPart_ticks (s : State) (p : Nat) (f : Part → Part) : (modPart s p f).ticks = s.ticks := rfl
@[simp] theorem modPart_cores (s : State) (p : Nat) (f : Part → Part) : (modPart s p f).cores = s.cores := rfl
@[simp] theorem modPart_phys (s : State) (p : Nat) (f : Part → Part) : (modPart s p f).phys = s.phys := rfl
@[simp] theorem modPart_rows (s : State) (p : Nat) (f : Part → Part) : (modPart s p f).rows = s.rows := rfl
@[simp] theorem modPart_yards (s : State) (p : Nat) (f : Part → Part) : (modPart s p f).yards = s.yards := rfl
@[simp] theorem modPart_memStacks (s : State) (p : Nat) (f : Part → Part) : (modPart s p f).memStacks = s.memStacks := rfl
@[simp] theorem modPart_mills (s : State) (p : Nat) (f : Part → Part) : (modPart s p f).mills = s.mills := rfl
@[simp] theorem modPart_mem (s : State) (p : Nat) (f : Part → Part) : (modPart s p f).mem = s.mem := rfl
@[simp] theorem modPart_gtags (s : State) (p : Nat) (f : Part → Part) : (modPart s p f).gtags = s.gtags := rfl
@[simp] theorem modPart_faulty (s : State) (p : Nat) (f : Part → Part) : (modPart s p f).faulty = s.faulty := rfl
@[simp] theorem modPart_frameKeys (s : State) (p : Nat) (f : Part → Part) : (modPart s p f).frameKeys = s.frameKeys := rfl
@[simp] theorem modPart_msc (s : State) (p : Nat) (f : Part → Part) : (modPart s p f).msc = s.msc := rfl
@[simp] theorem modPart_l2 (s : State) (p : Nat) (f : Part → Part) : (modPart s p f).l2 = s.l2 := rfl
@[simp] theorem modPart_tlb (s : State) (p : Nat) (f : Part → Part) : (modPart s p f).tlb = s.tlb := rfl
@[simp] theorem modPart_halves (s : State) (p : Nat) (f : Part → Part) : (modPart s p f).halves = s.halves := rfl
@[simp] theorem modPart_tasks (s : State) (p : Nat) (f : Part → Part) : (modPart s p f).tasks = s.tasks := rfl
@[simp] theorem modPart_readySeq (s : State) (p : Nat) (f : Part → Part) : (modPart s p f).readySeq = s.readySeq := rfl
@[simp] theorem modPart_credits (s : State) (p : Nat) (f : Part → Part) : (modPart s p f).credits = s.credits := rfl
@[simp] theorem modPart_starved (s : State) (p : Nat) (f : Part → Part) : (modPart s p f).starved = s.starved := rfl
@[simp] theorem modPart_pubs (s : State) (p : Nat) (f : Part → Part) : (modPart s p f).pubs = s.pubs := rfl
@[simp] theorem modPart_records (s : State) (p : Nat) (f : Part → Part) : (modPart s p f).records = s.records := rfl
@[simp] theorem modPart_packets (s : State) (p : Nat) (f : Part → Part) : (modPart s p f).packets = s.packets := rfl
@[simp] theorem modPart_reeves (s : State) (p : Nat) (f : Part → Part) : (modPart s p f).reeves = s.reeves := rfl
@[simp] theorem modPart_words (s : State) (p : Nat) (f : Part → Part) : (modPart s p f).words = s.words := rfl
@[simp] theorem modPart_writes (s : State) (p : Nat) (f : Part → Part) : (modPart s p f).writes = s.writes := rfl
@[simp] theorem modPart_flights (s : State) (p : Nat) (f : Part → Part) : (modPart s p f).flights = s.flights := rfl
@[simp] theorem modPart_replies (s : State) (p : Nat) (f : Part → Part) : (modPart s p f).replies = s.replies := rfl
@[simp] theorem modPart_tripped (s : State) (p : Nat) (f : Part → Part) : (modPart s p f).tripped = s.tripped := rfl
@[simp] theorem modPart_stopsDue (s : State) (p : Nat) (f : Part → Part) : (modPart s p f).stopsDue = s.stopsDue := rfl
@[simp] theorem modPart_mrqbase (s : State) (p : Nat) (f : Part → Part) : (modPart s p f).mrqbase = s.mrqbase := rfl
@[simp] theorem modPart_mrqptr (s : State) (p : Nat) (f : Part → Part) : (modPart s p f).mrqptr = s.mrqptr := rfl
@[simp] theorem modPart_mrsolve (s : State) (p : Nat) (f : Part → Part) : (modPart s p f).mrsolve = s.mrsolve := rfl
@[simp] theorem modPart_asidbase (s : State) (p : Nat) (f : Part → Part) : (modPart s p f).asidbase = s.asidbase := rfl
@[simp] theorem modPart_tlbinv (s : State) (p : Nat) (f : Part → Part) : (modPart s p f).tlbinv = s.tlbinv := rfl
@[simp] theorem modPart_heatk (s : State) (p : Nat) (f : Part → Part) : (modPart s p f).heatk = s.heatk := rfl
@[simp] theorem modPart_hvcmd (s : State) (p : Nat) (f : Part → Part) : (modPart s p f).hvcmd = s.hvcmd := rfl
@[simp] theorem modPart_hvbuf (s : State) (p : Nat) (f : Part → Part) : (modPart s p f).hvbuf = s.hvbuf := rfl
@[simp] theorem modPart_hvDone (s : State) (p : Nat) (f : Part → Part) : (modPart s p f).hvDone = s.hvDone := rfl
@[simp] theorem modPart_chrate (s : State) (p : Nat) (f : Part → Part) : (modPart s p f).chrate = s.chrate := rfl
@[simp] theorem modPart_dictld (s : State) (p : Nat) (f : Part → Part) : (modPart s p f).dictld = s.dictld := rfl
@[simp] theorem modPart_dictLoads (s : State) (p : Nat) (f : Part → Part) : (modPart s p f).dictLoads = s.dictLoads := rfl
@[simp] theorem modPart_heat (s : State) (p : Nat) (f : Part → Part) : (modPart s p f).heat = s.heat := rfl
@[simp] theorem modPart_heatDirty (s : State) (p : Nat) (f : Part → Part) : (modPart s p f).heatDirty = s.heatDirty := rfl
@[simp] theorem modPart_gens (s : State) (p : Nat) (f : Part → Part) : (modPart s p f).gens = s.gens := rfl
@[simp] theorem modPart_cmpPages (s : State) (p : Nat) (f : Part → Part) : (modPart s p f).cmpPages = s.cmpPages := rfl
@[simp] theorem modPart_rowCopies (s : State) (p : Nat) (f : Part → Part) : (modPart s p f).rowCopies = s.rowCopies := rfl
@[simp] theorem modPart_melt (s : State) (p : Nat) (f : Part → Part) : (modPart s p f).melt = s.melt := rfl
@[simp] theorem modPart_meltAt (s : State) (p : Nat) (f : Part → Part) : (modPart s p f).meltAt = s.meltAt := rfl
@[simp] theorem modPart_rfz (s : State) (p : Nat) (f : Part → Part) : (modPart s p f).rfz = s.rfz := rfl
@[simp] theorem modPart_power10us (s : State) (p : Nat) (f : Part → Part) : (modPart s p f).power10us = s.power10us := rfl
@[simp] theorem modPart_trip (s : State) (p : Nat) (f : Part → Part) : (modPart s p f).trip = s.trip := rfl
@[simp] theorem modPart_sensors (s : State) (p : Nat) (f : Part → Part) : (modPart s p f).sensors = s.sensors := rfl
@[simp] theorem modPart_vfs (s : State) (p : Nat) (f : Part → Part) : (modPart s p f).vfs = s.vfs := rfl
@[simp] theorem modPart_keySlots (s : State) (p : Nat) (f : Part → Part) : (modPart s p f).keySlots = s.keySlots := rfl
@[simp] theorem modPart_security (s : State) (p : Nat) (f : Part → Part) : (modPart s p f).security = s.security := rfl
@[simp] theorem modPart_debug (s : State) (p : Nat) (f : Part → Part) : (modPart s p f).debug = s.debug := rfl
@[simp] theorem modPart_modPower (s : State) (p : Nat) (f : Part → Part) : (modPart s p f).modPower = s.modPower := rfl
@[simp] theorem modPart_journal (s : State) (p : Nat) (f : Part → Part) : (modPart s p f).journal = s.journal := rfl
@[simp] theorem modPart_quoteIndex (s : State) (p : Nat) (f : Part → Part) : (modPart s p f).quoteIndex = s.quoteIndex := rfl
@[simp] theorem modPart_quotes (s : State) (p : Nat) (f : Part → Part) : (modPart s p f).quotes = s.quotes := rfl
@[simp] theorem modPart_msix (s : State) (p : Nat) (f : Part → Part) : (modPart s p f).msix = s.msix := rfl
@[simp] theorem modPart_hostErrors (s : State) (p : Nat) (f : Part → Part) : (modPart s p f).hostErrors = s.hostErrors := rfl
@[simp] theorem modPart_hostReads (s : State) (p : Nat) (f : Part → Part) : (modPart s p f).hostReads = s.hostReads := rfl
@[simp] theorem modPart_cur (s : State) (p : Nat) (f : Part → Part) : (modPart s p f).cur = s.cur := rfl
@[simp] theorem modPart_agenda (s : State) (p : Nat) (f : Part → Part) : (modPart s p f).agenda = s.agenda := rfl
@[simp] theorem modPart_draws (s : State) (p : Nat) (f : Part → Part) : (modPart s p f).draws = s.draws := rfl
@[simp] theorem modPart_taken (s : State) (p : Nat) (f : Part → Part) : (modPart s p f).taken = s.taken := rfl

/-! ### postWord -/

@[simp] theorem postWord_ticks (s : State) (d p : Nat) (v : Word) : (postWord s d p v).ticks = s.ticks := rfl
@[simp] theorem postWord_cores (s : State) (d p : Nat) (v : Word) : (postWord s d p v).cores = s.cores := rfl
@[simp] theorem postWord_phys (s : State) (d p : Nat) (v : Word) : (postWord s d p v).phys = s.phys := rfl
@[simp] theorem postWord_rows (s : State) (d p : Nat) (v : Word) : (postWord s d p v).rows = s.rows := rfl
@[simp] theorem postWord_yards (s : State) (d p : Nat) (v : Word) : (postWord s d p v).yards = s.yards := rfl
@[simp] theorem postWord_memStacks (s : State) (d p : Nat) (v : Word) : (postWord s d p v).memStacks = s.memStacks := rfl
@[simp] theorem postWord_mills (s : State) (d p : Nat) (v : Word) : (postWord s d p v).mills = s.mills := rfl
@[simp] theorem postWord_mem (s : State) (d p : Nat) (v : Word) : (postWord s d p v).mem = s.mem := rfl
@[simp] theorem postWord_gtags (s : State) (d p : Nat) (v : Word) : (postWord s d p v).gtags = s.gtags := rfl
@[simp] theorem postWord_faulty (s : State) (d p : Nat) (v : Word) : (postWord s d p v).faulty = s.faulty := rfl
@[simp] theorem postWord_frameKeys (s : State) (d p : Nat) (v : Word) : (postWord s d p v).frameKeys = s.frameKeys := rfl
@[simp] theorem postWord_msc (s : State) (d p : Nat) (v : Word) : (postWord s d p v).msc = s.msc := rfl
@[simp] theorem postWord_l2 (s : State) (d p : Nat) (v : Word) : (postWord s d p v).l2 = s.l2 := rfl
@[simp] theorem postWord_tlb (s : State) (d p : Nat) (v : Word) : (postWord s d p v).tlb = s.tlb := rfl
@[simp] theorem postWord_halves (s : State) (d p : Nat) (v : Word) : (postWord s d p v).halves = s.halves := rfl
@[simp] theorem postWord_tasks (s : State) (d p : Nat) (v : Word) : (postWord s d p v).tasks = s.tasks := rfl
@[simp] theorem postWord_readySeq (s : State) (d p : Nat) (v : Word) : (postWord s d p v).readySeq = s.readySeq := rfl
@[simp] theorem postWord_credits (s : State) (d p : Nat) (v : Word) : (postWord s d p v).credits = s.credits := rfl
@[simp] theorem postWord_starved (s : State) (d p : Nat) (v : Word) : (postWord s d p v).starved = s.starved := rfl
@[simp] theorem postWord_pubs (s : State) (d p : Nat) (v : Word) : (postWord s d p v).pubs = s.pubs := rfl
@[simp] theorem postWord_records (s : State) (d p : Nat) (v : Word) : (postWord s d p v).records = s.records := rfl
@[simp] theorem postWord_packets (s : State) (d p : Nat) (v : Word) : (postWord s d p v).packets = s.packets := rfl
@[simp] theorem postWord_reeves (s : State) (d p : Nat) (v : Word) : (postWord s d p v).reeves = s.reeves := rfl
@[simp] theorem postWord_writes (s : State) (d p : Nat) (v : Word) : (postWord s d p v).writes = s.writes := rfl
@[simp] theorem postWord_flights (s : State) (d p : Nat) (v : Word) : (postWord s d p v).flights = s.flights := rfl
@[simp] theorem postWord_replies (s : State) (d p : Nat) (v : Word) : (postWord s d p v).replies = s.replies := rfl
@[simp] theorem postWord_tripped (s : State) (d p : Nat) (v : Word) : (postWord s d p v).tripped = s.tripped := rfl
@[simp] theorem postWord_stopsDue (s : State) (d p : Nat) (v : Word) : (postWord s d p v).stopsDue = s.stopsDue := rfl
@[simp] theorem postWord_mrqbase (s : State) (d p : Nat) (v : Word) : (postWord s d p v).mrqbase = s.mrqbase := rfl
@[simp] theorem postWord_mrqptr (s : State) (d p : Nat) (v : Word) : (postWord s d p v).mrqptr = s.mrqptr := rfl
@[simp] theorem postWord_mrsolve (s : State) (d p : Nat) (v : Word) : (postWord s d p v).mrsolve = s.mrsolve := rfl
@[simp] theorem postWord_asidbase (s : State) (d p : Nat) (v : Word) : (postWord s d p v).asidbase = s.asidbase := rfl
@[simp] theorem postWord_tlbinv (s : State) (d p : Nat) (v : Word) : (postWord s d p v).tlbinv = s.tlbinv := rfl
@[simp] theorem postWord_heatk (s : State) (d p : Nat) (v : Word) : (postWord s d p v).heatk = s.heatk := rfl
@[simp] theorem postWord_hvcmd (s : State) (d p : Nat) (v : Word) : (postWord s d p v).hvcmd = s.hvcmd := rfl
@[simp] theorem postWord_hvbuf (s : State) (d p : Nat) (v : Word) : (postWord s d p v).hvbuf = s.hvbuf := rfl
@[simp] theorem postWord_hvDone (s : State) (d p : Nat) (v : Word) : (postWord s d p v).hvDone = s.hvDone := rfl
@[simp] theorem postWord_chrate (s : State) (d p : Nat) (v : Word) : (postWord s d p v).chrate = s.chrate := rfl
@[simp] theorem postWord_dictld (s : State) (d p : Nat) (v : Word) : (postWord s d p v).dictld = s.dictld := rfl
@[simp] theorem postWord_dictLoads (s : State) (d p : Nat) (v : Word) : (postWord s d p v).dictLoads = s.dictLoads := rfl
@[simp] theorem postWord_heat (s : State) (d p : Nat) (v : Word) : (postWord s d p v).heat = s.heat := rfl
@[simp] theorem postWord_heatDirty (s : State) (d p : Nat) (v : Word) : (postWord s d p v).heatDirty = s.heatDirty := rfl
@[simp] theorem postWord_gens (s : State) (d p : Nat) (v : Word) : (postWord s d p v).gens = s.gens := rfl
@[simp] theorem postWord_cmpPages (s : State) (d p : Nat) (v : Word) : (postWord s d p v).cmpPages = s.cmpPages := rfl
@[simp] theorem postWord_rowCopies (s : State) (d p : Nat) (v : Word) : (postWord s d p v).rowCopies = s.rowCopies := rfl
@[simp] theorem postWord_melt (s : State) (d p : Nat) (v : Word) : (postWord s d p v).melt = s.melt := rfl
@[simp] theorem postWord_meltAt (s : State) (d p : Nat) (v : Word) : (postWord s d p v).meltAt = s.meltAt := rfl
@[simp] theorem postWord_rfz (s : State) (d p : Nat) (v : Word) : (postWord s d p v).rfz = s.rfz := rfl
@[simp] theorem postWord_power10us (s : State) (d p : Nat) (v : Word) : (postWord s d p v).power10us = s.power10us := rfl
@[simp] theorem postWord_trip (s : State) (d p : Nat) (v : Word) : (postWord s d p v).trip = s.trip := rfl
@[simp] theorem postWord_sensors (s : State) (d p : Nat) (v : Word) : (postWord s d p v).sensors = s.sensors := rfl
@[simp] theorem postWord_vfs (s : State) (d p : Nat) (v : Word) : (postWord s d p v).vfs = s.vfs := rfl
@[simp] theorem postWord_parts (s : State) (d p : Nat) (v : Word) : (postWord s d p v).parts = s.parts := rfl
@[simp] theorem postWord_keySlots (s : State) (d p : Nat) (v : Word) : (postWord s d p v).keySlots = s.keySlots := rfl
@[simp] theorem postWord_security (s : State) (d p : Nat) (v : Word) : (postWord s d p v).security = s.security := rfl
@[simp] theorem postWord_debug (s : State) (d p : Nat) (v : Word) : (postWord s d p v).debug = s.debug := rfl
@[simp] theorem postWord_modPower (s : State) (d p : Nat) (v : Word) : (postWord s d p v).modPower = s.modPower := rfl
@[simp] theorem postWord_journal (s : State) (d p : Nat) (v : Word) : (postWord s d p v).journal = s.journal := rfl
@[simp] theorem postWord_quoteIndex (s : State) (d p : Nat) (v : Word) : (postWord s d p v).quoteIndex = s.quoteIndex := rfl
@[simp] theorem postWord_quotes (s : State) (d p : Nat) (v : Word) : (postWord s d p v).quotes = s.quotes := rfl
@[simp] theorem postWord_msix (s : State) (d p : Nat) (v : Word) : (postWord s d p v).msix = s.msix := rfl
@[simp] theorem postWord_hostErrors (s : State) (d p : Nat) (v : Word) : (postWord s d p v).hostErrors = s.hostErrors := rfl
@[simp] theorem postWord_hostReads (s : State) (d p : Nat) (v : Word) : (postWord s d p v).hostReads = s.hostReads := rfl
@[simp] theorem postWord_cur (s : State) (d p : Nat) (v : Word) : (postWord s d p v).cur = s.cur := rfl
@[simp] theorem postWord_agenda (s : State) (d p : Nat) (v : Word) : (postWord s d p v).agenda = s.agenda := rfl
@[simp] theorem postWord_draws (s : State) (d p : Nat) (v : Word) : (postWord s d p v).draws = s.draws := rfl
@[simp] theorem postWord_taken (s : State) (d p : Nat) (v : Word) : (postWord s d p v).taken = s.taken := rfl

end Sys2Proof.Machine
end

