-- ==== Sys2Proof/Laws/Quiet.lean ====
section
/-! SUPPORT. What an instruction that only changes its own context leaves as it was: the relation Quiet, that every shared
operation of issuing and completing keeps it, and that it is what a frame states. -/

namespace Sys2Proof.Machine

/-! ### Reading a unit after a write -/

theorem coreOf_setCore (s : State) (a b : Nat) (c : LCore) :
    coreOf (setCore s a c) b = if b = a then c else coreOf s b := getD_setD _ _ _ _ _
@[simp] theorem coreOf_setCore_same (s : State) (a : Nat) (c : LCore) : coreOf (setCore s a c) a = c := by
  simp [coreOf_setCore]
theorem coreOf_modCore (s : State) (a b : Nat) (f : LCore → LCore) :
    coreOf (modCore s a f) b = if b = a then f (coreOf s a) else coreOf s b := coreOf_setCore _ _ _ _
@[simp] theorem coreOf_modCore_same (s : State) (a : Nat) (f : LCore → LCore) :
    coreOf (modCore s a f) a = f (coreOf s a) := by simp [coreOf_modCore]

theorem ctxOf_setCtx (s : State) (lc c lc' c' : Nat) (x : Ctx) :
    ctxOf (setCtx s lc c x) lc' c' = if lc' = lc ∧ c' = c then x else ctxOf s lc' c' := by
  unfold ctxOf setCtx
  rw [coreOf_setCore]
  by_cases h : lc' = lc
  · subst h; simp [getD_setD]
  · simp [h]
@[simp] theorem ctxOf_setCtx_same (s : State) (lc c : Nat) (x : Ctx) : ctxOf (setCtx s lc c x) lc c = x := by
  simp [ctxOf_setCtx]
theorem ctxOf_modCtx (s : State) (lc c lc' c' : Nat) (f : Ctx → Ctx) :
    ctxOf (modCtx s lc c f) lc' c' = if lc' = lc ∧ c' = c then f (ctxOf s lc c) else ctxOf s lc' c' :=
  ctxOf_setCtx _ _ _ _ _ _
@[simp] theorem ctxOf_modCtx_same (s : State) (lc c : Nat) (f : Ctx → Ctx) :
    ctxOf (modCtx s lc c f) lc c = f (ctxOf s lc c) := by simp [ctxOf_modCtx]

@[simp] theorem me_setMe (s : State) (x : Ctx) : me (setMe s x) = x := ctxOf_setCtx_same _ _ _ _
@[simp] theorem me_modMe (s : State) (f : Ctx → Ctx) : me (modMe s f) = f (me s) := me_setMe _ _

theorem physOf_setPhys (s : State) (a b : Nat) (x : PCore) :
    physOf (setPhys s a x) b = if b = a then x else physOf s b := getD_setD _ _ _ _ _
@[simp] theorem physOf_setPhys_same (s : State) (a : Nat) (x : PCore) : physOf (setPhys s a x) a = x := by
  simp [physOf_setPhys]
theorem physOf_modPhys (s : State) (a b : Nat) (f : PCore → PCore) :
    physOf (modPhys s a f) b = if b = a then f (physOf s a) else physOf s b := physOf_setPhys _ _ _ _
theorem rowOf_setRow (s : State) (a b : Nat) (x : Row) :
    rowOf (setRow s a x) b = if b = a then x else rowOf s b := getD_setD _ _ _ _ _
@[simp] theorem rowOf_setRow_same (s : State) (a : Nat) (x : Row) : rowOf (setRow s a x) a = x := by
  simp [rowOf_setRow]
theorem rowOf_modRow (s : State) (a b : Nat) (f : Row → Row) :
    rowOf (modRow s a f) b = if b = a then f (rowOf s a) else rowOf s b := rowOf_setRow _ _ _ _
theorem yardOf_setYard (s : State) (a b : Nat) (x : Yard) :
    yardOf (setYard s a x) b = if b = a then x else yardOf s b := getD_setD _ _ _ _ _
theorem yardOf_modYard (s : State) (a b : Nat) (f : Yard → Yard) :
    yardOf (modYard s a f) b = if b = a then f (yardOf s a) else yardOf s b := yardOf_setYard _ _ _ _
theorem stackOf_modStack (s : State) (a b : Nat) (f : Stack → Stack) :
    stackOf (modStack s a f) b = if b = a then f (stackOf s a) else stackOf s b := getD_setD _ _ _ _ _
theorem millOf_modMill (s : State) (a b : Nat) (f : Mill → Mill) :
    millOf (modMill s a f) b = if b = a then f (millOf s a) else millOf s b := getD_setD _ _ _ _ _
theorem partOf_modPart (s : State) (a b : Nat) (f : Part → Part) :
    partOf (modPart s a f) b = if b = a then f (partOf s a) else partOf s b := getD_setD _ _ _ _ _
theorem vfOf_modVf (s : State) (a b : Nat) (f : VFunc → VFunc) :
    vfOf (modVf s a f) b = if b = a then f (vfOf s a) else vfOf s b := getD_setD _ _ _ _ _

theorem taskOf_modTask (s : State) (a b : Nat) (f : Task → Task) :
    taskOf (modTask s a f) b = if b = a then (taskOf s a).map f else taskOf s b := by
  unfold modTask taskOf
  cases h : look s.tasks a with
  | none => by_cases hb : b = a <;> simp [hb, h]
  | some x =>
    simp only [look_put]
    by_cases hb : b = a
    · subst hb; simp
    · simp [hb]

/-! ### Quiet -/

/-- The state without what an instruction that only changes its own context may touch besides. -/
def strip (s : State) : State :=
  { s with cores := [], phys := [], words := [], packets := [], msix := [], taken := 0, tripped := [], stopsDue := [] }

/-- A logical core without its contexts, its queues and those who wait at them. -/
def stripCore (c : LCore) : LCore := { c with ctxs := [], queues := [], waiters := [], resizing := none }

/-- Nothing has changed but contexts, queues, words on their way, counters, packets and halt groups. -/
structure Quiet (s t : State) : Prop where
  rest : strip t = strip s
  cores : ∀ lc, stripCore (coreOf t lc) = stripCore (coreOf s lc)
  units : SameUnits s t

/-- Any part of the state but those that Quiet leaves out is the same. -/
theorem Quiet.get {α : Type} {s t : State} (h : Quiet s t) (f : State → α) : f (strip t) = f (strip s) := by
  rw [h.rest]

theorem Quiet.refl (s : State) : Quiet s s := ⟨rfl, fun _ => rfl, fun _ => rfl⟩

theorem Quiet.trans {s t u : State} (h : Quiet s t) (k : Quiet t u) : Quiet s u :=
  ⟨k.rest.trans h.rest, fun lc => (k.cores lc).trans (h.cores lc), fun p => (k.units p).trans (h.units p)⟩

/-- A change of parts that Quiet does not look at. -/
theorem Quiet.of_strip {s t : State} (h : strip t = strip s) (hc : t.cores = s.cores) (hp : t.phys = s.phys) : Quiet s t :=
  ⟨h, fun lc => by simp [coreOf, hc], fun p => by simp [physOf, hp]⟩

theorem quiet_setCore (s : State) (lc : Nat) (c : LCore) (h : stripCore c = stripCore (coreOf s lc)) :
    Quiet s (setCore s lc c) :=
  ⟨rfl, fun k => by rw [coreOf_setCore]; split <;> simp_all, fun _ => rfl⟩

theorem quiet_modCore (s : State) (lc : Nat) (f : LCore → LCore) (h : ∀ c, stripCore (f c) = stripCore c) :
    Quiet s (modCore s lc f) := quiet_setCore _ _ _ (h _)

theorem quiet_setCtx (s : State) (lc c : Nat) (x : Ctx) : Quiet s (setCtx s lc c x) := quiet_setCore _ _ _ rfl
theorem quiet_modCtx (s : State) (lc c : Nat) (f : Ctx → Ctx) : Quiet s (modCtx s lc c f) := quiet_setCtx _ _ _ _
theorem quiet_setMe (s : State) (x : Ctx) : Quiet s (setMe s x) := quiet_setCtx _ _ _ _
theorem quiet_modMe (s : State) (f : Ctx → Ctx) : Quiet s (modMe s f) := quiet_setMe _ _

theorem quiet_setPhys (s : State) (p : Nat) (q : PCore) (h : unitRegs q = unitRegs (physOf s p)) :
    Quiet s (setPhys s p q) :=
  ⟨rfl, fun _ => rfl, fun k => by rw [physOf_setPhys]; split <;> simp_all⟩

theorem quiet_modPhys (s : State) (p : Nat) (f : PCore → PCore) (h : ∀ q, unitRegs (f q) = unitRegs q) :
    Quiet s (modPhys s p f) := quiet_setPhys _ _ _ (h _)

theorem quiet_postWord (s : State) (d p : Nat) (v : Word) : Quiet s (postWord s d p v) := .of_strip rfl rfl rfl

/-! ### Counting (R362 to R364) -/

/-- Only counters, their overflows and words of the module itself have changed. -/
structure Counted (s t : State) : Prop where
  quiet : Quiet s t
  cores : t.cores = s.cores
  words : sentWords t = sentWords s
  packets : t.packets = s.packets

theorem Counted.refl (s : State) : Counted s s := ⟨.refl s, rfl, rfl, rfl⟩

theorem Counted.trans {s t u : State} (h : Counted s t) (k : Counted t u) : Counted s u :=
  ⟨h.quiet.trans k.quiet, k.cores.trans h.cores, k.words.trans h.words, k.packets.trans h.packets⟩

theorem Counted.cur {s t : State} (h : Counted s t) : t.cur = s.cur := h.quiet.get State.cur

theorem counted_setPhys (s : State) (p : Nat) (q : PCore) (h : unitRegs q = unitRegs (physOf s p)) :
    Counted s (setPhys s p q) := ⟨quiet_setPhys _ _ _ h, rfl, rfl, rfl⟩

theorem counted_modPhys (s : State) (p : Nat) (f : PCore → PCore) (h : ∀ q, unitRegs (f q) = unitRegs q) :
    Counted s (modPhys s p f) := counted_setPhys _ _ _ (h _)

theorem counted_postWord (s : State) (d p : Nat) (v : Word) : Counted s (postWord s d p v) :=
  ⟨quiet_postWord _ _ _ _, rfl, by simp [sentWords, postWord], rfl⟩

theorem countAdd_counted (s : State) (p n x : Nat) (sel : Word) : Counted s (countAdd s p n x sel) := by
  unfold countAdd
  dsimp only
  have h1 := counted_setPhys s p { physOf s p with cnt := setD 0#64 (physOf s p).cnt n (word (((getD 0#64 (physOf s p).cnt n).toNat + x) % 2 ^ 48)) } rfl
  split
  · exact h1
  · have h2 := h1.trans (counted_modPhys _ p (fun q => { q with covf := q.covf ||| (1#64 <<< n) }) (fun _ => rfl))
    split
    · split
      · exact h2.trans (counted_postWord _ _ _ _)
      · exact h2
    · exact h2.trans ⟨.of_strip rfl rfl rfl, rfl, rfl, rfl⟩
    · exact h2

theorem countOne_counted (s : State) (p code x n : Nat) : Counted s (countOne s p code x n) := by
  unfold countOne
  dsimp only
  split
  · exact .refl s
  · split
    · exact .refl s
    · split
      · exact countAdd_counted _ _ _ _ _
      · exact counted_setPhys _ _ _ rfl
      · exact counted_setPhys _ _ _ rfl
      · split
        · exact countAdd_counted _ _ _ _ _
        · exact (show Counted s (takeFree s).2 from ⟨.of_strip rfl rfl rfl, rfl, rfl, rfl⟩).trans
            (counted_setPhys _ _ _ rfl)

theorem countEvent_counted (s : State) (p code x : Nat) (o : Option (Nat × Nat)) :
    Counted s (countEvent s p code x o) := by
  have h : ∀ (l : List Nat) (t : State), Counted t (l.foldl (fun t n => countOne t p code x n) t) := fun l => by
    induction l with
    | nil => exact .refl
    | cons a l ih => exact fun t => (countOne_counted t p code x a).trans (ih _)
  unfold countEvent
  split
  · exact h _ _
  · exact .refl s

theorem countAt_counted (s : State) (lc code x : Nat) : Counted s (countAt s lc code x) := by
  unfold countAt
  split
  · exact countEvent_counted _ _ _ _ _
  · exact .refl s

theorem Counted.ctxOf {s t : State} (h : Counted s t) (lc c : Nat) : ctxOf t lc c = ctxOf s lc c := by
  simp [Machine.ctxOf, coreOf, h.cores]

theorem Counted.me {s t : State} (h : Counted s t) : me t = me s := by
  rw [Machine.me, h.cur, h.ctxOf, ← Machine.me]

theorem Counted.coreOf {s t : State} (h : Counted s t) (lc : Nat) : coreOf t lc = coreOf s lc := by
  simp [Machine.coreOf, h.cores]

/-! ### Freezing -/

theorem quiet_dropWaiter (s : State) (lc c : Nat) : Quiet s (dropWaiter s lc c) := quiet_modCore _ _ _ fun _ => rfl

@[simp] theorem ctxOf_dropWaiter (s : State) (lc c a b : Nat) : ctxOf (dropWaiter s lc c) a b = ctxOf s a b := by
  unfold dropWaiter ctxOf
  rw [coreOf_modCore]
  split
  · subst_vars; rfl
  · rfl

theorem quiet_tripGroup (s : State) (lc c g : Nat) : Quiet s (tripGroup s lc c g) := by
  unfold tripGroup
  dsimp only
  split
  · exact .refl s
  · split
    · exact .refl s
    · exact .of_strip rfl rfl rfl

theorem tripGroup_cores (s : State) (lc c g : Nat) : (tripGroup s lc c g).cores = s.cores := by
  unfold tripGroup
  dsimp only
  split
  · rfl
  · split <;> rfl

theorem tripGroup_packets (s : State) (lc c g : Nat) : (tripGroup s lc c g).packets = s.packets := by
  unfold tripGroup
  dsimp only
  split
  · rfl
  · split <;> rfl

theorem tripGroup_words (s : State) (lc c g : Nat) : (tripGroup s lc c g).words = s.words := by
  unfold tripGroup
  dsimp only
  split
  · rfl
  · split <;> rfl

theorem freeze_quiet (s : State) (lc c cause sub : Nat) (d : Bool) (a : Word) (l : List Word) :
    Quiet s (freeze s lc c cause sub d a l) := by
  unfold freeze
  dsimp only
  have h : Quiet s (dropWaiter { s with packets := s.packets ++ [⟨lc, c, packetWords s lc c cause sub d a l⟩] } lc c) :=
    Quiet.trans (t := { s with packets := s.packets ++ [⟨lc, c, packetWords s lc c cause sub d a l⟩] })
      (.of_strip rfl rfl rfl) (quiet_dropWaiter _ _ _)
  split
  · exact (h.trans (quiet_setCtx _ _ _ _)).trans (quiet_tripGroup _ _ _ _)
  · exact h.trans (quiet_setCtx _ _ _ _)

/-- The context that a freeze leaves. -/
def frozenCtx (x : Ctx) (cause sub : Nat) (d : Bool) : Ctx :=
  { x with frozen := true, cause := cause, sub := sub, deliv := d, wait := 0, stage := .idle, counted := false,
           stepping := false }

theorem freeze_ctxOf (s : State) (lc c cause sub : Nat) (d : Bool) (a : Word) (l : List Word) (lc' c' : Nat) :
    ctxOf (freeze s lc c cause sub d a l) lc' c' =
      if lc' = lc ∧ c' = c then frozenCtx (ctxOf s lc c) cause sub d else ctxOf s lc' c' := by
  unfold freeze
  dsimp only
  split
  · rw [show ∀ u v, ctxOf (tripGroup u lc c v) lc' c' = ctxOf u lc' c' from fun u v => by
      simp [ctxOf, coreOf, tripGroup_cores], ctxOf_setCtx]
    split
    · rfl
    · simp; rfl
  · rw [ctxOf_setCtx]
    split
    · rfl
    · simp; rfl

theorem freeze_packets (s : State) (lc c cause sub : Nat) (d : Bool) (a : Word) (l : List Word) :
    (freeze s lc c cause sub d a l).packets = s.packets ++ [⟨lc, c, packetWords s lc c cause sub d a l⟩] := by
  unfold freeze
  dsimp only
  split
  · rw [tripGroup_packets]; rfl
  · rfl

theorem freeze_words (s : State) (lc c cause sub : Nat) (d : Bool) (a : Word) (l : List Word) :
    (freeze s lc c cause sub d a l).words = s.words := by
  unfold freeze
  dsimp only
  split
  · rw [tripGroup_words]; rfl
  · rfl

theorem freeze_queues (s : State) (lc c cause sub : Nat) (d : Bool) (a : Word) (l : List Word) (k : Nat) :
    (coreOf (freeze s lc c cause sub d a l) k).queues = (coreOf s k).queues := by
  have h : ∀ u : State, (coreOf (dropWaiter u lc c) k).queues = (coreOf u k).queues := fun u => by
    unfold dropWaiter
    rw [coreOf_modCore]
    split
    · subst_vars; rfl
    · rfl
  have h2 : ∀ (u : State) x, (coreOf (setCtx u lc c x) k).queues = (coreOf u k).queues := fun u x => by
    unfold setCtx
    rw [coreOf_setCore]
    split
    · subst_vars; rfl
    · rfl
  unfold freeze
  dsimp only
  split
  · rw [show ∀ u v, coreOf (tripGroup u lc c v) k = coreOf u k from fun u v => by simp [coreOf, tripGroup_cores], h2, h]
    rfl
  · rw [h2, h]; rfl

/-! ### What a frame states -/

theorem Quiet.part {s t : State} (h : Quiet s t) {β : Type} (f : LCore → β) (hf : ∀ c, f c = f (stripCore c)) (lc : Nat) :
    f (coreOf t lc) = f (coreOf s lc) := by rw [hf, h.cores lc, ← hf]

/-- What a translation and a read of the point of coherence look at: memory and its keys, the MSC, the TLBs, the stacks, the
key slots and the root table. -/
structure SameMap (s t : State) : Prop where
  msc : t.msc = s.msc
  mem : t.mem = s.mem
  frameKeys : t.frameKeys = s.frameKeys
  keySlots : t.keySlots = s.keySlots
  memStacks : t.memStacks = s.memStacks
  tlb : t.tlb = s.tlb
  parts : t.parts = s.parts
  asidbase : t.asidbase = s.asidbase

theorem SameMap.currentLine {s t : State} (h : SameMap s t) (p : Page) (a : Nat) :
    currentLine t p a = currentLine s p a := by
  unfold Machine.currentLine mscOfFrame pageLine pageKey frameLine memNat memByte
  rw [h.msc, h.mem, h.frameKeys, h.keySlots]

theorem SameMap.currentWord {s t : State} (h : SameMap s t) (p : Page) (a : Nat) :
    currentWord t p a = currentWord s p a := by
  simp only [Machine.currentWord, h.currentLine]

theorem SameMap.walkTables {s t : State} (h : SameMap s t) (asid va : Nat) (ls : List (Nat × Nat × Nat)) (tb : Nat) :
    walkTables t asid va ls tb = walkTables s asid va ls tb := by
  induction ls generalizing tb with
  | nil => rfl
  | cons l ls ih =>
    obtain ⟨a, b, c⟩ := l
    have hs : ∀ k, ownsSlot t asid k = ownsSlot s asid k := fun k => by simp only [ownsSlot, partOf, h.parts]
    simp only [Machine.walkTables, h.currentWord, ih, hs]

theorem SameMap.home {s t : State} (h : SameMap s t) (va asid : Nat) : home t va asid = home s va asid := by
  unfold Machine.home goodStacks stackOf
  rw [h.memStacks]

theorem SameMap.translate {s t : State} (h : SameMap s t) (asid va : Nat) : translate t asid va = translate s asid va := by
  have hr : rootTable t asid = rootTable s asid := by simp only [rootTable, h.asidbase, h.currentWord]
  have hk : tlbKey t asid va = tlbKey s asid va := by simp only [tlbKey, homeStack, h.home]
  simp only [Machine.translate, walkFrom, h.msc, h.tlb, hr, hk, h.walkTables]

theorem SameMap.pocLine {s t : State} (h : SameMap s t) (key : Nat) (p : Page) : pocLine t key p = pocLine s key p := by
  simp only [Machine.pocLine, h.msc, h.currentLine]

theorem Quiet.map {s t : State} (h : Quiet s t) : SameMap s t :=
  ⟨h.get State.msc, h.get State.mem, h.get State.frameKeys, h.get State.keySlots, h.get State.memStacks, h.get State.tlb,
    h.get State.parts, h.get State.asidbase⟩

theorem Quiet.tasks {s t : State} (h : Quiet s t) : t.tasks = s.tasks := h.get State.tasks

theorem Quiet.asidOf {s t : State} (h : Quiet s t) (lc : Nat) : asidOf t lc = asidOf s lc := by
  simp only [Machine.asidOf, taskOf, h.tasks]

theorem Quiet.coreDie {s t : State} (h : Quiet s t) (lc : Nat) : coreDie t lc = coreDie s lc :=
  congrArg dieOf (h.part LCore.phys (fun _ => rfl) lc)

theorem Quiet.hiddenBytes {s t : State} (h : Quiet s t) (p : Page) (a task : Nat) :
    hiddenBytes t p a task = hiddenBytes s p a task := by
  have ho : ∀ b, objectOf t p b = objectOf s p b := fun b => by
    have hc : ∀ c, objAt t p c = objAt s p c := fun c => by simp only [objAt, h.map.currentWord]
    unfold objectOf
    rw [show t.gtags = s.gtags from h.get State.gtags]
    dsimp only
    split
    · rw [hc]
    · rfl
  simp only [Machine.hiddenBytes, lineGranules, ho]

theorem Quiet.dieLine {s t : State} (h : Quiet s t) (lc key : Nat) (p : Page) : dieLine t lc key p = dieLine s lc key p := by
  simp only [Machine.dieLine, withOwn, h.coreDie, h.hiddenBytes, show t.l2 = s.l2 from h.get State.l2]

theorem Quiet.byteBelow {s t : State} (h : Quiet s t) (lc va : Nat) (p : Page) :
    byteBelow t lc va p = byteBelow s lc va p := by
  simp only [Machine.byteBelow, h.asidOf, h.dieLine, h.map.pocLine]

theorem Quiet.byteView {s t : State} (h : Quiet s t) (lc va : Nat) : byteView t lc va = byteView s lc va := by
  simp only [Machine.byteView, h.asidOf, h.map.translate, h.byteBelow, frameByte, h.map.currentLine, stashByte, mappingOf,
    h.part LCore.ways (fun _ => rfl) lc, h.part LCore.stash (fun _ => rfl) lc, h.part LCore.maps (fun _ => rfl) lc,
    h.part LCore.l1 (fun _ => rfl) lc]

theorem Quiet.memory {s t : State} (h : Quiet s t) : SameMemory s t := fun lc va => h.byteView lc va

theorem Quiet.coresSame {s t : State} (h : Quiet s t) : SameCores s t :=
  ⟨fun lc n => h.part (coreReg · n) (fun _ => rfl) lc, fun lc i => h.part (tileOf · i) (fun _ => rfl) lc⟩

theorem Quiet.module {s t : State} (h : Quiet s t) : SameModule s t :=
  ⟨h.get State.rows, fun n => h.get (packageReg · n), h.get State.melt, h.get State.rfz, h.get State.yards,
    h.get State.tasks, h.get State.ticks⟩

/-- A quiet change that leaves the other contexts alone keeps all that a frame names. -/
theorem Quiet.kept {s t : State} (h : Quiet s t) (ho : SameOthers s t) : AllKept s t :=
  ⟨ho, h.memory, h.coresSame, h.units, h.module⟩

end Sys2Proof.Machine
end

