-- ==== Sys2Proof/Laws/Complete.lean ====
section
/-! SUPPORT. Issuing and completing: an instruction that may issue runs its effect at once, and what the shared
completions leave (R28, R42 to R44, R49, R77, R89, R120). -/

namespace Sys2Proof.Machine

/-! ### Issuing -/

/-- An instruction whose registers are held and settled, whose words have arrived and whose router is free runs its
effect. -/
theorem issue_ready {n : Names} {s : State} (h : Issues n s) (k : State → Res) : issue n s k = k s := by
  have ha : (portsOf n.srcs).all (fun p => (portWord (myCore s) s.cur.2 p).isSome) = true := by
    rw [List.all_eq_true]; exact h.arrived
  unfold issue
  simp [h.held, h.settled, ha, h.router]

/-- A register outside the allotment traps with ILLEGAL_REG, before anything else. -/
theorem issue_unheld {n : Names} {s : State} (h : allHeld (me s) n = false) (k : State → Res) :
    issue n s k = trap s causeIllegalReg := by
  unfold issue
  simp [h]

/-! ### Consuming port words -/

theorem consumePort_queue (c : Nat) (k : LCore) (p q : Nat) :
    queueOf (consumePort c k p) q =
      if q = p then (queueOf k p).tail else queueOf k q := getD_setD _ _ _ _ _

theorem consumePort_strip (c : Nat) (k : LCore) (p : Nat) : stripCore (consumePort c k p) = stripCore k := rfl

theorem consume_all (c : Nat) (ps : List Nat) (hn : ps.Nodup) (k : LCore) (q : Nat) :
    queueOf (ps.foldl (consumePort c) k) q =
      if q ∈ ps then (queueOf k q).tail else queueOf k q := by
  induction ps generalizing k with
  | nil => simp
  | cons p ps ih =>
    obtain ⟨hp, hn⟩ := List.nodup_cons.mp hn
    rw [List.foldl_cons, ih hn]
    by_cases hq : q = p
    · subst hq; simp [hp, consumePort_queue]
    · rw [consumePort_queue]; simp [hq]

theorem consume_strip (c : Nat) (ps : List Nat) (k : LCore) : stripCore (ps.foldl (consumePort c) k) = stripCore k := by
  induction ps generalizing k with
  | nil => rfl
  | cons p ps ih => exact (ih _).trans (consumePort_strip _ _ _)

theorem consume_ctxs (c : Nat) (ps : List Nat) (k : LCore) : (ps.foldl (consumePort c) k).ctxs = k.ctxs := by
  induction ps generalizing k with
  | nil => rfl
  | cons p ps ih => exact (ih _).trans rfl

theorem consumePorts_quiet (s : State) (srcs : List Opnd) : Quiet s (consumePorts s srcs) :=
  quiet_setCore _ _ _ (consume_strip _ _ _)

@[simp] theorem consumePorts_ctxOf (s : State) (srcs : List Opnd) (lc c : Nat) :
    ctxOf (consumePorts s srcs) lc c = ctxOf s lc c := by
  unfold consumePorts ctxOf
  rw [coreOf_modCore]
  split
  · subst_vars; rw [consume_ctxs]
  · rfl

@[simp] theorem consumePorts_me (s : State) (srcs : List Opnd) : me (consumePorts s srcs) = me s :=
  consumePorts_ctxOf _ _ _ _

theorem consumePorts_consumed (s : State) (srcs : List Opnd) : Consumed s (consumePorts s srcs) srcs := by
  intro lc p
  unfold consumePorts
  rw [coreOf_modCore]
  by_cases h : lc = s.cur.1
  · subst h
    rw [if_pos rfl, consume_all _ _ (by unfold portsOf; exact List.nodup_dedup _)]
    simp
  · simp [h]

/-! ### What a change of the current context leaves -/

/-- Only the current context and what Quiet leaves out have changed; the queues and the packets are the same. -/
structure OwnChange (s t : State) (x : Ctx) : Prop where
  quiet : Quiet s t
  me : me t = x
  others : SameOthers s t
  words : sentWords t = sentWords s
  queues : SameQueues s t

theorem OwnChange.cur {s t : State} {x : Ctx} (h : OwnChange s t x) : t.cur = s.cur := h.quiet.get State.cur

theorem OwnChange.trans {s t u : State} {x y : Ctx} (h : OwnChange s t x) (k : OwnChange t u y) : OwnChange s u y :=
  ⟨h.quiet.trans k.quiet, k.me, fun lc c hc => (k.others lc c (by rw [h.cur]; exact hc)).trans (h.others lc c hc),
    k.words.trans h.words, fun lc => (k.queues lc).trans (h.queues lc)⟩

theorem OwnChange.refl (s : State) : OwnChange s s (Machine.me s) := ⟨.refl s, rfl, fun _ _ _ => rfl, rfl, fun _ => rfl⟩

theorem setMe_own (s : State) (x : Ctx) : OwnChange s (setMe s x) x := by
  refine ⟨quiet_setMe _ _, me_setMe _ _, fun lc c hc => ?_, rfl, fun lc => ?_⟩
  · rw [setMe, ctxOf_setCtx, if_neg]
    rintro ⟨rfl, rfl⟩; exact hc rfl
  · unfold setMe setCtx
    rw [coreOf_setCore]
    split
    · subst_vars; rfl
    · rfl

theorem modMe_own (s : State) (f : Ctx → Ctx) : OwnChange s (modMe s f) (f (me s)) := setMe_own _ _

theorem Counted.own {s t : State} (h : Counted s t) : OwnChange s t (Machine.me s) :=
  ⟨h.quiet, h.me, fun lc c _ => h.ctxOf lc c, h.words, fun lc => by rw [h.coreOf]⟩

theorem freeze_own (s : State) (cause sub : Nat) (d : Bool) (a : Word) (l : List Word) :
    OwnChange s (freeze s s.cur.1 s.cur.2 cause sub d a l) (frozenCtx (me s) cause sub d) := by
  refine ⟨freeze_quiet _ _ _ _ _ _ _ _, ?_, fun lc c hc => ?_, ?_, fun lc => freeze_queues _ _ _ _ _ _ _ _ _⟩
  · rw [me, show (freeze s s.cur.1 s.cur.2 cause sub d a l).cur = s.cur from (freeze_quiet _ _ _ _ _ _ _ _).get State.cur,
      freeze_ctxOf]
    simp [me]
  · rw [freeze_ctxOf, if_neg]
    rintro ⟨rfl, rfl⟩; exact hc rfl
  · rw [sentWords, freeze_words]; rfl

theorem countIssue_counted (s : State) (code : Nat) : Counted s (countIssue s code) := by
  unfold countIssue
  split
  · exact .refl s
  · exact countAt_counted _ _ _ _

/-- What the end of an instruction has counted, before a single step ends. -/
def counted (s : State) (pc : Word) : State := modMe (countIssue s 0x02) (pastInsn · pc)

theorem advance_eq (s : State) (pc : Word) : advance s pc =
    if (me (counted s pc)).stepping then
      freeze (counted s pc) (counted s pc).cur.1 (counted s pc).cur.2 causeBreak 2 false 0#64 []
    else counted s pc := rfl

theorem counted_own (s : State) (pc : Word) : OwnChange s (counted s pc) (pastInsn (me s) pc) := by
  have h := (countIssue_counted s 0x02).own.trans (modMe_own (countIssue s 0x02) (pastInsn · pc))
  rw [(countIssue_counted s 0x02).me] at h
  exact h

/-- An instruction's end: the context goes on past it, and a single step ends (R49, R313). -/
theorem advance_own (s : State) (pc : Word) : OwnChange s (advance s pc) (stepEnd (pastInsn (me s) pc)) := by
  have h := counted_own s pc
  rw [advance_eq, stepEnd, h.me]
  split
  · have h3 := h.trans (freeze_own _ causeBreak 2 false 0#64 [])
    rw [h.me] at h3
    exact h3
  · exact h

/-! ### The shared completions -/

theorem writeDest_quiet (s : State) (d : Nat) (w : Word) : Quiet s (writeDest s d w) := by
  unfold writeDest
  split
  · exact quiet_modMe _ _
  · exact .of_strip rfl rfl rfl

theorem writeDest_spec (s : State) (d : Nat) (w : Word) :
    me (writeDest s d w) = withResult (me s) (some d) w ∧ SameOthers s (writeDest s d w) ∧
      sentWords (writeDest s d w) = sentWords s ++ sends s (some d) w ∧ SameQueues s (writeDest s d w) := by
  unfold writeDest withResult sends
  dsimp only
  split
  · have h := modMe_own s (fun x => setSreg x d w)
    exact ⟨h.me, h.others, by simpa using h.words, h.queues⟩
  · exact ⟨rfl, fun _ _ _ => rfl, by simp [sentWords], fun _ => rfl⟩

theorem Consumed.of_same {s t u : State} {srcs : List Opnd} (h : Consumed s t srcs) (hq : SameQueues t u) :
    Consumed s u srcs := fun lc p => by rw [← h lc p, queueOf, queueOf, hq lc]

theorem sends_congr {s t : State} (hc : t.cur = s.cur) (hm : me t = me s) (d : Option Nat) (w : Word) :
    sends t d w = sends s d w := by
  unfold sends
  rw [hc, hm]

/-- An instruction with a scalar result completes: the result is written or sent, and nothing else changes. -/
theorem finishTo_wrote (n : Names) (s : State) (w pc : Word) :
    ∃ t, finishTo n s w pc = .next t ∧ Wrote n s t w pc := by
  have h1 := consumePorts_quiet s n.srcs
  have hc1 : (consumePorts s n.srcs).cur = s.cur := h1.get State.cur
  refine ⟨_, rfl, ?_⟩
  cases hd : n.dst with
  | none =>
    have h3 := advance_own (consumePorts s n.srcs) pc
    have ho : SameOthers s (advance (consumePorts s n.srcs) pc) := fun lc c hc =>
      (h3.others lc c (by rw [hc1]; exact hc)).trans (consumePorts_ctxOf _ _ _ _)
    refine ⟨⟨h3.cur.trans hc1, ?_, ?_, (consumePorts_consumed s n.srcs).of_same h3.queues⟩, (h1.trans h3.quiet).kept ho⟩
    · rw [h3.me, hd, consumePorts_me]; rfl
    · rw [h3.words, hd]; simp [sends, sentWords, consumePorts]
  | some d =>
    have h2 := writeDest_quiet (consumePorts s n.srcs) d w
    obtain ⟨hm, hoth, hw, hq⟩ := writeDest_spec (consumePorts s n.srcs) d w
    have hc2 : (writeDest (consumePorts s n.srcs) d w).cur = s.cur := (h2.get State.cur).trans hc1
    have h3 := advance_own (writeDest (consumePorts s n.srcs) d w) pc
    have ho : SameOthers s (advance (writeDest (consumePorts s n.srcs) d w) pc) := fun lc c hc =>
      ((h3.others lc c (by rw [hc2]; exact hc)).trans (hoth lc c (by rw [hc1]; exact hc))).trans
        (consumePorts_ctxOf _ _ _ _)
    refine ⟨⟨h3.cur.trans hc2, ?_, ?_, ((consumePorts_consumed s n.srcs).of_same hq).of_same h3.queues⟩,
      ((h1.trans h2).trans h3.quiet).kept ho⟩
    · rw [h3.me, hd, hm, consumePorts_me]
    · rw [h3.words, hd, hw, sends_congr hc1 (consumePorts_me _ _)]; simp [sentWords, consumePorts]

/-- As finishTo_wrote, for an instruction that goes on at the next word. -/
theorem finish_wrote (n : Names) (len : Nat) (s : State) (w : Word) :
    ∃ t, finish n len s w = .next t ∧ Wrote n s t w ((me s).pc + word len) := finishTo_wrote _ _ _ _

/-- The readers that wait at the queues are the same. -/
def SameWaiters (s t : State) : Prop := ∀ lc, (coreOf t lc).waiters = (coreOf s lc).waiters

theorem Counted.waiters {s t : State} (h : Counted s t) : SameWaiters s t := fun lc => by rw [h.coreOf]

theorem modMe_waiters (s : State) (f : Ctx → Ctx) : SameWaiters s (modMe s f) := fun lc => by
  unfold modMe setMe setCtx
  rw [coreOf_setCore]
  split
  · subst_vars; rfl
  · rfl

/-- An instruction that changes its own context completes, and nothing else changes. s0 is the state before it, from
which s may differ in its context, the counters and the units. -/
theorem finishCtx_changed (n : Names) (len : Nat) {s0 s : State} {x : Ctx} (h0 : OwnChange s0 s x)
    (hw : SameWaiters s0 s) (f : Ctx → Ctx) :
    ∃ t, finishCtx n len s f = .next t ∧ Changed n s0 t (fun _ => f x) (x.pc + word len) := by
  have h1 := consumePorts_quiet s n.srcs
  have hc1 : (consumePorts s n.srcs).cur = s.cur := h1.get State.cur
  have h2 := modMe_own (consumePorts s n.srcs) f
  have h3 := h2.trans (advance_own (modMe (consumePorts s n.srcs) f) (pcAfter s len))
  have hcons : Consumed s0 (consumePorts s n.srcs) n.srcs := fun lc p => by
    have hq : queueOf (coreOf s lc) p = queueOf (coreOf s0 lc) p := by rw [queueOf, h0.queues lc, ← queueOf]
    rw [consumePorts_consumed s n.srcs lc p, h0.cur, hq]
  have ho : SameOthers s0 (advance (modMe (consumePorts s n.srcs) f) (pcAfter s len)) := fun lc c hc =>
    ((h3.others lc c (by rw [hc1, h0.cur]; exact hc)).trans (consumePorts_ctxOf _ _ _ _)).trans (h0.others lc c hc)
  refine ⟨_, rfl, ⟨h3.cur.trans (hc1.trans h0.cur), ?_, ?_, hcons.of_same h3.queues⟩,
    ((h0.quiet.trans h1).trans h3.quiet).kept ho⟩
  · rw [h3.me, me_modMe, consumePorts_me, h0.me, pcAfter, h0.me]
  · rw [h3.words]
    simp only [sends, List.append_nil]
    exact h0.words

/-- As finishCtx_changed, from a state with nothing but counters and units changed. -/
theorem finishCtx_own (n : Names) (len : Nat) {s0 s : State} (h : Counted s0 s) (f : Ctx → Ctx) :
    ∃ t, finishCtx n len s f = .next t ∧ Changed n s0 t f ((me s0).pc + word len) := by
  obtain ⟨t, ht, hc⟩ := finishCtx_changed n len h.own h.waiters f
  exact ⟨t, ht, ⟨hc.1.cur, hc.1.context, hc.1.words, hc.1.queues⟩, hc.2⟩

theorem countV_counted (s : State) : Counted s (countV s) := countIssue_counted _ _

/-! ### Waiting -/

theorem countAll_counted (s : State) (lc : Nat) (codes : List Nat) :
    Counted s (codes.foldl (fun t code => countAt t lc code 1) s) := by
  induction codes generalizing s with
  | nil => exact .refl s
  | cons a l ih => exact (countAt_counted s lc a 1).trans (ih _)

/-- An instruction that issues without completing is counted, once, and changes nothing else. -/
theorem noteIssue_own (s : State) :
    OwnChange s (noteIssue s) { me s with
      counted := true
      age := if (me s).counted then (me s).age else 0
      issuedAt := if (me s).counted then (me s).issuedAt else s.ticks } := by
  unfold noteIssue
  split
  · next h =>
    have he : { me s with counted := true, age := (me s).age, issuedAt := (me s).issuedAt } = me s := by
      cases hm : me s; simp_all
    rw [he]; exact .refl s
  · have h1 := modMe_own s (fun x => { x with counted := true, age := 0, issuedAt := s.ticks })
    have h2 := (countAll_counted (modMe s (fun x => { x with counted := true, age := 0, issuedAt := s.ticks })) s.cur.1
      (issueCodes (insnAt s (asidOf s s.cur.1) (me s).pc.toNat))).own
    rw [h1.me] at h2
    exact h1.trans h2

/-- An instruction that has issued and waits. -/
theorem waitStage_waits (s : State) (code : Nat) (st : Stage) :
    ∃ t, waitStage s code st = .next t ∧ Waits s t code st := by
  have h := (noteIssue_own s).trans (modMe_own _ (fun x => { x with wait := code, stage := st }))
  rw [(noteIssue_own s).me] at h
  exact ⟨_, rfl, h.cur, h.me, h.words, h.queues, h.quiet.kept h.others⟩

theorem waitBegun_waits (s : State) (code : Nat) : ∃ t, waitBegun s code = .next t ∧ Waits s t code (begunStage (me s)) :=
  waitStage_waits _ _ _

/-- An instruction that waits for a source has not issued (R110). -/
theorem waitAt_heldBack {code : Nat} (s : State) (hc : waitIssued code = false) :
    ∃ t, waitAt s code = .next t ∧ HeldBack s t code := by
  have h := modMe_own s (fun x => { x with wait := code })
  exact ⟨_, by simp only [waitAt, hc]; rfl, h.cur, h.me, rfl, h.queues, h.quiet.kept h.others⟩

/-- A wait for a reply has not issued, whether the request is parked or not. -/
theorem waitReply_heldBack (s : State) (y : Nat) :
    ∃ t, waitReply s y = .next t ∧ HeldBack s t (replyWait s y 8) :=
  waitAt_heldBack s (by unfold replyWait; split <;> rfl)

theorem waitAt_waits {code : Nat} (s : State) (hc : waitIssued code = true) :
    ∃ t, waitAt s code = .next t ∧ Waits s t code (me s).stage := by
  have h := (noteIssue_own s).trans (modMe_own _ (fun x => { x with wait := code }))
  rw [(noteIssue_own s).me] at h
  exact ⟨_, by unfold waitAt; rw [if_pos hc], h.cur, h.me, h.words, h.queues, h.quiet.kept h.others⟩

/-! ### Releases -/

theorem tryRelease_done {s : State} {scope : Nat} {all : Bool} (h : ReleaseComplete s scope all) :
    tryRelease s scope all = .done := by
  unfold tryRelease
  dsimp only
  rw [h.done, h.landed]
  rcases h.sent with hs | ⟨hs, hc | hc⟩
  · simp [hs]
  · subst hc; simp [hs]
  · simp [hs, hc]

theorem releaseThen_done {s : State} {scope code : Nat} (h : ReleaseComplete s scope false) (k : State → Res) :
    releaseThen s scope code k = k s := by
  unfold releaseThen
  rw [tryRelease_done h]

/-! ### Traps -/

/-- A precise cause other than POISON freezes the current context and sends its packet. -/
theorem trapAt_trapped {cause : Nat} (s : State) (sub : Nat) (a : Word) (l : List Word) (hp : cause ≠ causePoison) :
    ∃ t, trapAt s cause sub a l = .next t ∧ Trapped s t cause sub a l := by
  have h := freeze_own s cause sub false a l
  refine ⟨_, by unfold trapAt; dsimp only; rw [if_neg hp], h.cur, h.me, ?_, h.words, h.queues, h.quiet.kept h.others⟩
  rw [freeze_packets]

end Sys2Proof.Machine
end

