-- ==== Sys2Proof/Laws/Encoding.lean ====
section
/-! SUPPORT. The fields of the words that the encoder packs (R29, R32 to R37), and the bytes of a word read back. -/

namespace Sys2Proof

/-! ### Pieces of a concatenation -/

/-- Two values of one width with the same bits are one value. -/
theorem same_bits {n : Nat} {x y : BitVec n} (h : ∀ i, i < n → x.getLsbD i = y.getLsbD i) : x = y :=
  BitVec.eq_of_getLsbD_eq h

/-! ### Operands -/

@[simp] theorem mkOpnd_kind_field (o : Opnd) : mkOpnd o.kind o.field = o := by
  cases o <;> rfl

/-! ### R and X formats -/

section packR
variable (fn : F3) (b a : Opnd) (d : F6) (major : BitVec 5)

@[simp] theorem packR_low : (packR fn b a d major).extractLsb' 0 2 = 3#2 := by
  refine same_bits fun i hi => ?_
  simp only [packR, BitVec.getLsbD_extractLsb', BitVec.getLsbD_append]
  repeat' first | rw [if_pos (by omega)] | rw [if_neg (by omega)]
  simp only [hi, decide_true, Bool.true_and]
  congr 1; omega

@[simp] theorem packR_major : fieldMajor (packR fn b a d major) = major := by
  refine same_bits fun i hi => ?_
  simp only [packR, fieldMajor, BitVec.getLsbD_extractLsb', BitVec.getLsbD_append]
  repeat' first | rw [if_pos (by omega)] | rw [if_neg (by omega)]
  simp only [hi, decide_true, Bool.true_and]
  congr 1; omega

@[simp] theorem packR_d : fieldD (packR fn b a d major) = d := by
  refine same_bits fun i hi => ?_
  simp only [packR, fieldD, BitVec.getLsbD_extractLsb', BitVec.getLsbD_append]
  repeat' first | rw [if_pos (by omega)] | rw [if_neg (by omega)]
  simp only [hi, decide_true, Bool.true_and]
  congr 1; omega

theorem packR_a_kind : fieldKA (packR fn b a d major) = a.kind := by
  refine same_bits fun i hi => ?_
  simp only [packR, fieldKA, BitVec.getLsbD_extractLsb', BitVec.getLsbD_append]
  repeat' first | rw [if_pos (by omega)] | rw [if_neg (by omega)]
  simp only [hi, decide_true, Bool.true_and]
  congr 1; omega

theorem packR_a_field : fieldFA (packR fn b a d major) = a.field := by
  refine same_bits fun i hi => ?_
  simp only [packR, fieldFA, BitVec.getLsbD_extractLsb', BitVec.getLsbD_append]
  repeat' first | rw [if_pos (by omega)] | rw [if_neg (by omega)]
  simp only [hi, decide_true, Bool.true_and]
  congr 1; omega

@[simp] theorem packR_a : fieldA (packR fn b a d major) = a := by
  rw [fieldA, packR_a_kind, packR_a_field, mkOpnd_kind_field]

theorem packR_b_kind : fieldKB (packR fn b a d major) = b.kind := by
  refine same_bits fun i hi => ?_
  simp only [packR, fieldKB, BitVec.getLsbD_extractLsb', BitVec.getLsbD_append]
  repeat' first | rw [if_pos (by omega)] | rw [if_neg (by omega)]
  simp only [hi, decide_true, Bool.true_and]
  congr 1; omega

theorem packR_b_field : fieldFB (packR fn b a d major) = b.field := by
  refine same_bits fun i hi => ?_
  simp only [packR, fieldFB, BitVec.getLsbD_extractLsb', BitVec.getLsbD_append]
  repeat' first | rw [if_pos (by omega)] | rw [if_neg (by omega)]
  simp only [hi, decide_true, Bool.true_and]
  congr 1; omega

@[simp] theorem packR_b : fieldB (packR fn b a d major) = b := by
  rw [fieldB, packR_b_kind, packR_b_field, mkOpnd_kind_field]

@[simp] theorem packR_fn : fieldFn (packR fn b a d major) = fn := by
  refine same_bits fun i hi => ?_
  simp only [packR, fieldFn, BitVec.getLsbD_extractLsb', BitVec.getLsbD_append]
  repeat' first | rw [if_pos (by omega)] | rw [if_neg (by omega)]
  simp only [hi, decide_true, Bool.true_and]
  congr 1; omega

end packR

/-! ### O format -/

section packO
variable (fn : F3) (b : Opnd) (addr : F6) (y : F2) (d : F6) (major : BitVec 5)

@[simp] theorem packO_low : (packO fn b addr y d major).extractLsb' 0 2 = 3#2 := by
  refine same_bits fun i hi => ?_
  simp only [packO, BitVec.getLsbD_extractLsb', BitVec.getLsbD_append]
  repeat' first | rw [if_pos (by omega)] | rw [if_neg (by omega)]
  simp only [hi, decide_true, Bool.true_and]
  congr 1; omega

@[simp] theorem packO_major : fieldMajor (packO fn b addr y d major) = major := by
  refine same_bits fun i hi => ?_
  simp only [packO, fieldMajor, BitVec.getLsbD_extractLsb', BitVec.getLsbD_append]
  repeat' first | rw [if_pos (by omega)] | rw [if_neg (by omega)]
  simp only [hi, decide_true, Bool.true_and]
  congr 1; omega

@[simp] theorem packO_d : fieldD (packO fn b addr y d major) = d := by
  refine same_bits fun i hi => ?_
  simp only [packO, fieldD, BitVec.getLsbD_extractLsb', BitVec.getLsbD_append]
  repeat' first | rw [if_pos (by omega)] | rw [if_neg (by omega)]
  simp only [hi, decide_true, Bool.true_and]
  congr 1; omega

@[simp] theorem packO_y : fieldY (packO fn b addr y d major) = y := by
  refine same_bits fun i hi => ?_
  simp only [packO, fieldY, BitVec.getLsbD_extractLsb', BitVec.getLsbD_append]
  repeat' first | rw [if_pos (by omega)] | rw [if_neg (by omega)]
  simp only [hi, decide_true, Bool.true_and]
  congr 1; omega

@[simp] theorem packO_addr : fieldAddr (packO fn b addr y d major) = addr := by
  refine same_bits fun i hi => ?_
  simp only [packO, fieldAddr, BitVec.getLsbD_extractLsb', BitVec.getLsbD_append]
  repeat' first | rw [if_pos (by omega)] | rw [if_neg (by omega)]
  simp only [hi, decide_true, Bool.true_and]
  congr 1; omega

theorem packO_b_kind : fieldKB (packO fn b addr y d major) = b.kind := by
  refine same_bits fun i hi => ?_
  simp only [packO, fieldKB, BitVec.getLsbD_extractLsb', BitVec.getLsbD_append]
  repeat' first | rw [if_pos (by omega)] | rw [if_neg (by omega)]
  simp only [hi, decide_true, Bool.true_and]
  congr 1; omega

theorem packO_b_field : fieldFB (packO fn b addr y d major) = b.field := by
  refine same_bits fun i hi => ?_
  simp only [packO, fieldFB, BitVec.getLsbD_extractLsb', BitVec.getLsbD_append]
  repeat' first | rw [if_pos (by omega)] | rw [if_neg (by omega)]
  simp only [hi, decide_true, Bool.true_and]
  congr 1; omega

@[simp] theorem packO_b : fieldB (packO fn b addr y d major) = b := by
  rw [fieldB, packO_b_kind, packO_b_field, mkOpnd_kind_field]

@[simp] theorem packO_fn : fieldFn (packO fn b addr y d major) = fn := by
  refine same_bits fun i hi => ?_
  simp only [packO, fieldFn, BitVec.getLsbD_extractLsb', BitVec.getLsbD_append]
  repeat' first | rw [if_pos (by omega)] | rw [if_neg (by omega)]
  simp only [hi, decide_true, Bool.true_and]
  congr 1; omega

end packO

/-! ### M format -/

section packM
variable (top : BitVec 1) (off : BitVec 12) (base d : F6) (major : BitVec 5)

@[simp] theorem packM_low : (packM top off base d major).extractLsb' 0 2 = 3#2 := by
  refine same_bits fun i hi => ?_
  simp only [packM, BitVec.getLsbD_extractLsb', BitVec.getLsbD_append]
  repeat' first | rw [if_pos (by omega)] | rw [if_neg (by omega)]
  simp only [hi, decide_true, Bool.true_and]
  congr 1; omega

@[simp] theorem packM_major : fieldMajor (packM top off base d major) = major := by
  refine same_bits fun i hi => ?_
  simp only [packM, fieldMajor, BitVec.getLsbD_extractLsb', BitVec.getLsbD_append]
  repeat' first | rw [if_pos (by omega)] | rw [if_neg (by omega)]
  simp only [hi, decide_true, Bool.true_and]
  congr 1; omega

@[simp] theorem packM_d : fieldD (packM top off base d major) = d := by
  refine same_bits fun i hi => ?_
  simp only [packM, fieldD, BitVec.getLsbD_extractLsb', BitVec.getLsbD_append]
  repeat' first | rw [if_pos (by omega)] | rw [if_neg (by omega)]
  simp only [hi, decide_true, Bool.true_and]
  congr 1; omega

@[simp] theorem packM_base : fieldBase (packM top off base d major) = base := by
  refine same_bits fun i hi => ?_
  simp only [packM, fieldBase, BitVec.getLsbD_extractLsb', BitVec.getLsbD_append]
  repeat' first | rw [if_pos (by omega)] | rw [if_neg (by omega)]
  simp only [hi, decide_true, Bool.true_and]
  congr 1; omega

@[simp] theorem packM_off : fieldOff (packM top off base d major) = off := by
  refine same_bits fun i hi => ?_
  simp only [packM, fieldOff, BitVec.getLsbD_extractLsb', BitVec.getLsbD_append]
  repeat' first | rw [if_pos (by omega)] | rw [if_neg (by omega)]
  simp only [hi, decide_true, Bool.true_and]
  congr 1; omega

@[simp] theorem packM_top : fieldTop (packM top off base d major) = top := by
  refine same_bits fun i hi => ?_
  simp only [packM, fieldTop, BitVec.getLsbD_extractLsb', BitVec.getLsbD_append]
  repeat' first | rw [if_pos (by omega)] | rw [if_neg (by omega)]
  simp only [hi, decide_true, Bool.true_and]
  congr 1; omega

end packM

/-! ### J format and EXT.L -/

section packJ
variable (off : BitVec 16) (r : F6) (cond : F3) (major : BitVec 5)

@[simp] theorem packJ_low : (packJ off r cond major).extractLsb' 0 2 = 3#2 := by
  refine same_bits fun i hi => ?_
  simp only [packJ, BitVec.getLsbD_extractLsb', BitVec.getLsbD_append]
  repeat' first | rw [if_pos (by omega)] | rw [if_neg (by omega)]
  simp only [hi, decide_true, Bool.true_and]
  congr 1; omega

@[simp] theorem packJ_major : fieldMajor (packJ off r cond major) = major := by
  refine same_bits fun i hi => ?_
  simp only [packJ, fieldMajor, BitVec.getLsbD_extractLsb', BitVec.getLsbD_append]
  repeat' first | rw [if_pos (by omega)] | rw [if_neg (by omega)]
  simp only [hi, decide_true, Bool.true_and]
  congr 1; omega

@[simp] theorem packJ_cond : fieldCond (packJ off r cond major) = cond := by
  refine same_bits fun i hi => ?_
  simp only [packJ, fieldCond, BitVec.getLsbD_extractLsb', BitVec.getLsbD_append]
  repeat' first | rw [if_pos (by omega)] | rw [if_neg (by omega)]
  simp only [hi, decide_true, Bool.true_and]
  congr 1; omega

@[simp] theorem packJ_r : fieldJ (packJ off r cond major) = r := by
  refine same_bits fun i hi => ?_
  simp only [packJ, fieldJ, BitVec.getLsbD_extractLsb', BitVec.getLsbD_append]
  repeat' first | rw [if_pos (by omega)] | rw [if_neg (by omega)]
  simp only [hi, decide_true, Bool.true_and]
  congr 1; omega

@[simp] theorem packJ_off : fieldJOff (packJ off r cond major) = off := by
  refine same_bits fun i hi => ?_
  simp only [packJ, fieldJOff, BitVec.getLsbD_extractLsb', BitVec.getLsbD_append]
  repeat' first | rw [if_pos (by omega)] | rw [if_neg (by omega)]
  simp only [hi, decide_true, Bool.true_and]
  congr 1; omega

end packJ

section packL
variable (e : BitVec 24)

@[simp] theorem packL_low : (packL e).extractLsb' 0 2 = 3#2 := by
  refine same_bits fun i hi => ?_
  simp only [packL, BitVec.getLsbD_extractLsb', BitVec.getLsbD_append]
  repeat' first | rw [if_pos (by omega)] | rw [if_neg (by omega)]
  simp only [hi, decide_true, Bool.true_and]
  congr 1; omega

@[simp] theorem packL_major : fieldMajor (packL e) = 0x1F#5 := by
  refine same_bits fun i hi => ?_
  simp only [packL, fieldMajor, BitVec.getLsbD_extractLsb', BitVec.getLsbD_append]
  repeat' first | rw [if_pos (by omega)] | rw [if_neg (by omega)]
  simp only [hi, decide_true, Bool.true_and]
  congr 1; omega

@[simp] theorem packL_bit : fieldL7 (packL e) = 0#1 := by
  refine same_bits fun i hi => ?_
  simp only [packL, fieldL7, BitVec.getLsbD_extractLsb', BitVec.getLsbD_append]
  repeat' first | rw [if_pos (by omega)] | rw [if_neg (by omega)]
  simp only [hi, decide_true, Bool.true_and]
  congr 1; omega

@[simp] theorem packL_e : fieldE (packL e) = e := by
  refine same_bits fun i hi => ?_
  simp only [packL, fieldE, BitVec.getLsbD_extractLsb', BitVec.getLsbD_append]
  repeat' first | rw [if_pos (by omega)] | rw [if_neg (by omega)]
  simp only [hi, decide_true, Bool.true_and]
  congr 1; omega

end packL

/-! ### Compact forms -/

section packC
variable (b a d off base : F3) (l : F6) (cop : BitVec 5)

@[simp] theorem packCR_low : (packCR b a d cop).extractLsb' 0 2 = 0#2 := by
  refine same_bits fun i hi => ?_
  simp only [packCR, BitVec.getLsbD_extractLsb', BitVec.getLsbD_append]
  repeat' first | rw [if_pos (by omega)] | rw [if_neg (by omega)]
  simp only [hi, decide_true, Bool.true_and]
  congr 1; omega
@[simp] theorem packCR_cop : fieldCop (packCR b a d cop) = cop := by
  refine same_bits fun i hi => ?_
  simp only [packCR, fieldCop, BitVec.getLsbD_extractLsb', BitVec.getLsbD_append]
  repeat' first | rw [if_pos (by omega)] | rw [if_neg (by omega)]
  simp only [hi, decide_true, Bool.true_and]
  congr 1; omega
@[simp] theorem packCR_d : fieldC1 (packCR b a d cop) = d := by
  refine same_bits fun i hi => ?_
  simp only [packCR, fieldC1, BitVec.getLsbD_extractLsb', BitVec.getLsbD_append]
  repeat' first | rw [if_pos (by omega)] | rw [if_neg (by omega)]
  simp only [hi, decide_true, Bool.true_and]
  congr 1; omega
@[simp] theorem packCR_a : fieldC2 (packCR b a d cop) = a := by
  refine same_bits fun i hi => ?_
  simp only [packCR, fieldC2, BitVec.getLsbD_extractLsb', BitVec.getLsbD_append]
  repeat' first | rw [if_pos (by omega)] | rw [if_neg (by omega)]
  simp only [hi, decide_true, Bool.true_and]
  congr 1; omega
@[simp] theorem packCR_b : fieldC3 (packCR b a d cop) = b := by
  refine same_bits fun i hi => ?_
  simp only [packCR, fieldC3, BitVec.getLsbD_extractLsb', BitVec.getLsbD_append]
  repeat' first | rw [if_pos (by omega)] | rw [if_neg (by omega)]
  simp only [hi, decide_true, Bool.true_and]
  congr 1; omega

@[simp] theorem packCI_low : (packCI l d cop).extractLsb' 0 2 = 1#2 := by
  refine same_bits fun i hi => ?_
  simp only [packCI, BitVec.getLsbD_extractLsb', BitVec.getLsbD_append]
  repeat' first | rw [if_pos (by omega)] | rw [if_neg (by omega)]
  simp only [hi, decide_true, Bool.true_and]
  congr 1; omega
@[simp] theorem packCI_cop : fieldCop (packCI l d cop) = cop := by
  refine same_bits fun i hi => ?_
  simp only [packCI, fieldCop, BitVec.getLsbD_extractLsb', BitVec.getLsbD_append]
  repeat' first | rw [if_pos (by omega)] | rw [if_neg (by omega)]
  simp only [hi, decide_true, Bool.true_and]
  congr 1; omega
@[simp] theorem packCI_d : fieldC1 (packCI l d cop) = d := by
  refine same_bits fun i hi => ?_
  simp only [packCI, fieldC1, BitVec.getLsbD_extractLsb', BitVec.getLsbD_append]
  repeat' first | rw [if_pos (by omega)] | rw [if_neg (by omega)]
  simp only [hi, decide_true, Bool.true_and]
  congr 1; omega
@[simp] theorem packCI_l : fieldCL (packCI l d cop) = l := by
  refine same_bits fun i hi => ?_
  simp only [packCI, fieldCL, BitVec.getLsbD_extractLsb', BitVec.getLsbD_append]
  repeat' first | rw [if_pos (by omega)] | rw [if_neg (by omega)]
  simp only [hi, decide_true, Bool.true_and]
  congr 1; omega

@[simp] theorem packCM_low : (packCM off base d cop).extractLsb' 0 2 = 2#2 := by
  refine same_bits fun i hi => ?_
  simp only [packCM, BitVec.getLsbD_extractLsb', BitVec.getLsbD_append]
  repeat' first | rw [if_pos (by omega)] | rw [if_neg (by omega)]
  simp only [hi, decide_true, Bool.true_and]
  congr 1; omega
@[simp] theorem packCM_cop : fieldCop (packCM off base d cop) = cop := by
  refine same_bits fun i hi => ?_
  simp only [packCM, fieldCop, BitVec.getLsbD_extractLsb', BitVec.getLsbD_append]
  repeat' first | rw [if_pos (by omega)] | rw [if_neg (by omega)]
  simp only [hi, decide_true, Bool.true_and]
  congr 1; omega
@[simp] theorem packCM_d : fieldC1 (packCM off base d cop) = d := by
  refine same_bits fun i hi => ?_
  simp only [packCM, fieldC1, BitVec.getLsbD_extractLsb', BitVec.getLsbD_append]
  repeat' first | rw [if_pos (by omega)] | rw [if_neg (by omega)]
  simp only [hi, decide_true, Bool.true_and]
  congr 1; omega
@[simp] theorem packCM_base : fieldC2 (packCM off base d cop) = base := by
  refine same_bits fun i hi => ?_
  simp only [packCM, fieldC2, BitVec.getLsbD_extractLsb', BitVec.getLsbD_append]
  repeat' first | rw [if_pos (by omega)] | rw [if_neg (by omega)]
  simp only [hi, decide_true, Bool.true_and]
  congr 1; omega
@[simp] theorem packCM_off : fieldC3 (packCM off base d cop) = off := by
  refine same_bits fun i hi => ?_
  simp only [packCM, fieldC3, BitVec.getLsbD_extractLsb', BitVec.getLsbD_append]
  repeat' first | rw [if_pos (by omega)] | rw [if_neg (by omega)]
  simp only [hi, decide_true, Bool.true_and]
  congr 1; omega

/-! The halfword of NOP (R53): only ADD of a literal, both fields zero, would pack to it. -/

@[simp] theorem packCR_ne_nop : packCR b a d cop ≠ 0x0001#16 := fun h =>
  absurd (packCR_low b a d cop) (by rw [h]; decide)

@[simp] theorem packCM_ne_nop : packCM off base d cop ≠ 0x0001#16 := fun h =>
  absurd (packCM_low d off base cop) (by rw [h]; decide)

theorem packCI_ne_nop (hn : ¬(l = 0#6 ∧ d = 0#3 ∧ cop = 0#5)) : packCI l d cop ≠ 0x0001#16 := fun h => by
  refine hn ⟨?_, ?_, ?_⟩
  · rw [← packCI_l d l cop, h]; decide
  · rw [← packCI_d d l cop, h]; decide
  · rw [← packCI_cop d l cop, h]; decide

end packC

/-! ### Bytes and words -/

/-- The four bytes of a word, put together, are the word. -/
theorem join_w32 (w : BitVec 32) :
    w.extractLsb' 24 8 ++ w.extractLsb' 16 8 ++ w.extractLsb' 8 8 ++ w.extractLsb' 0 8 = w := by
  refine same_bits fun i hi => ?_
  simp only [BitVec.getLsbD_append, BitVec.getLsbD_extractLsb']
  (repeat' split) <;> (rw [decide_eq_true (by omega), Bool.true_and]; congr 1; omega)

theorem join_w16 (h : Half) : h.extractLsb' 8 8 ++ h.extractLsb' 0 8 = h := by
  refine same_bits fun i hi => ?_
  simp only [BitVec.getLsbD_append, BitVec.getLsbD_extractLsb']
  (repeat' split) <;> (rw [decide_eq_true (by omega), Bool.true_and]; congr 1; omega)

/-- The low bits of a word are those of its first halfword. -/
theorem low_of_w32 (w : BitVec 32) :
    (w.extractLsb' 8 8 ++ w.extractLsb' 0 8).extractLsb' 0 2 = w.extractLsb' 0 2 := by
  refine same_bits fun i hi => ?_
  simp only [BitVec.getLsbD_extractLsb', BitVec.getLsbD_append]
  rw [if_pos (by omega)]
  rw [decide_eq_true (show 0 + i < 8 by omega), Bool.true_and]
  congr 2; omega

/-- Bytes that begin with a 32-bit word decode as the word does. -/
theorem decode_w32 (w : BitVec 32) (rest : List Byte) (h : w.extractLsb' 0 2 = 3#2) {i : Instr}
    (hi : decode32 w = .ok i) : decode (w32 w ++ rest) = .ok (i, rest) := by
  simp only [w32, List.cons_append, List.nil_append, decode, isLong, low_of_w32, h, join_w32, hi, BEq.rfl, if_true]

/-- Bytes that begin with a compact form decode as the halfword does. -/
theorem decode_w16 (x : Half) (rest : List Byte) (h : x.extractLsb' 0 2 ≠ 3#2) {i : Instr}
    (hi : decode16 x = .ok i) : decode (w16 x ++ rest) = .ok (i, rest) := by
  simp only [w16, List.cons_append, List.nil_append, decode, isLong, join_w16, hi, beq_iff_eq, h, if_false]

/-- A 32-bit word decodes to the instruction its fields name, when that is well formed. -/
theorem decode32_of (w : BitVec 32) {i : Instr} (hf : decodeFields w = .ok i) (hi : wellFormed i = true) :
    decode32 w = .ok i := by
  simp [decode32, hf, checked, hi]

end Sys2Proof
end

