-- ==== Sys2Proof/Laws/Memory.lean ====
section
/-! SUPPORT. Every operation either leaves the frames of memory alone or keeps their canonical form. -/

namespace Sys2Proof.Machine

theorem foldl_mem {α : Type} (g : State → α → State) (h : ∀ s x, (g s x).mem = s.mem) (l : List α) (s : State) :
    (l.foldl g s).mem = s.mem := by
  induction l generalizing s with
  | nil => rfl
  | cons x l ih => rw [List.foldl_cons, ih, h]

theorem foldl_wf {α : Type} (g : State → α → State)
    (h : ∀ s x, Memory.wf s.mem = true → Memory.wf (g s x).mem = true) (l : List α) (s : State)
    (hs : Memory.wf s.mem = true) : Memory.wf (l.foldl g s).mem = true := by
  induction l generalizing s with
  | nil => exact hs
  | cons x l ih => exact ih _ (h _ _ hs)


@[simp] theorem modTask_mem (s : State) (t : Nat) (f : Task → Task) : (modTask s t f).mem = s.mem := by
  unfold modTask
  split <;> simp

@[simp] theorem takeFree_mem (s : State) : (takeFree s).2.mem = s.mem := rfl

@[simp] theorem setMemByte_wf (s : State) (a : Nat) (b : Byte) (hw : Memory.wf s.mem = true) :
    Memory.wf (setMemByte s a b).mem = true := canon_setD _ _ hw

@[simp] theorem writeFrame_wf (s : State) (a : Nat) (d : BitVec 1024) (m : BitVec 128) (hw : Memory.wf s.mem = true) :
    Memory.wf (writeFrame s a d m).mem = true := by
  unfold writeFrame
  refine foldl_wf _ (fun t x ht => ?_) _ _ hw
  (repeat' split) <;> simp [*]

@[simp] theorem writePage_wf (s : State) (p : Page) (a : Nat) (d : BitVec 1024) (m : BitVec 128) (hw : Memory.wf s.mem = true) :
    Memory.wf (writePage s p a d m).mem = true := by
  unfold writePage
  (repeat' split) <;> simp [*]

@[simp] theorem cachePage_mem (s : State) (asid va : Nat) (p : Page) : (cachePage s asid va p).mem = s.mem := rfl

@[simp] theorem countAdd_mem (s : State) (p n x : Nat) (sel : Word) : (countAdd s p n x sel).mem = s.mem := by
  unfold countAdd
  dsimp only
  (repeat' split) <;> simp [*]

@[simp] theorem countOne_mem (s : State) (p code x n : Nat) : (countOne s p code x n).mem = s.mem := by
  unfold countOne
  dsimp only
  (repeat' split) <;> simp [*]

@[simp] theorem countEvent_mem (s : State) (p code x : Nat) (owner : Option (Nat × Nat)) : (countEvent s p code x owner).mem = s.mem := by
  unfold countEvent
  split
  · exact foldl_mem _ (fun t x => by simp) _ _
  · rfl

@[simp] theorem countAt_mem (s : State) (lc code x : Nat) : (countAt s lc code x).mem = s.mem := by
  unfold countAt
  split <;> simp

@[simp] theorem dropWaiter_mem (s : State) (lc c : Nat) : (dropWaiter s lc c).mem = s.mem := rfl

@[simp] theorem tripGroup_mem (s : State) (lc c group : Nat) : (tripGroup s lc c group).mem = s.mem := by
  unfold tripGroup
  dsimp only
  (repeat' split) <;> simp [*]

@[simp] theorem freeze_mem (s : State) (lc c cause sub : Nat) (deliv : Bool) (addr : Word) (detail : List Word) : (freeze s lc c cause sub deliv addr detail).mem = s.mem := by
  unfold freeze
  dsimp only
  split <;> simp

@[simp] theorem pendCause_mem (s : State) (lc c : Nat) (p : Pending) : (pendCause s lc c p).mem = s.mem := by
  unfold pendCause
  split <;> simp

@[simp] theorem freezePoisoned_mem (s : State) (e : Nat × Nat) : (freezePoisoned s e).mem = s.mem := by
  unfold freezePoisoned
  dsimp only
  (repeat' split) <;> simp [*]

@[simp] theorem freezeCrew_mem (s : State) (task : Nat) : (freezeCrew s task).mem = s.mem :=
  foldl_mem _ (fun t e => by simp) _ _

@[simp] theorem poisonMet_mem (s : State) (task : Nat) : (poisonMet s task).mem = s.mem := by
  unfold poisonMet
  (repeat' split) <;> simp

@[simp] theorem deliver_mem (s : State) (lc c : Nat) : (deliver s lc c).mem = s.mem := by
  unfold deliver
  dsimp only
  split <;> simp

@[simp] theorem rearm_mem (s : State) (lc c : Nat) : (rearm s lc c).mem = s.mem := rfl

@[simp] theorem thaw_mem (s : State) (lc c : Nat) : (thaw s lc c).mem = s.mem := by
  unfold thaw
  dsimp only
  (repeat' split) <;> simp [*]

@[simp] theorem noteIssue_mem (s : State) : (noteIssue s).mem = s.mem := by
  unfold noteIssue
  split
  · rfl
  · exact (foldl_mem _ (fun t c => by simp) _ _).trans (by simp)

@[simp] theorem writeDest_mem (s : State) (d : Nat) (w : Word) : (writeDest s d w).mem = s.mem := by
  unfold writeDest
  split <;> simp

@[simp] theorem consumePorts_mem (s : State) (srcs : List Opnd) : (consumePorts s srcs).mem = s.mem := rfl

@[simp] theorem countIssue_mem (s : State) (code : Nat) : (countIssue s code).mem = s.mem := by
  unfold countIssue
  (repeat' split) <;> simp [*]

@[simp] theorem advance_mem (s : State) (pc : Word) : (advance s pc).mem = s.mem := by
  unfold advance
  dsimp only
  split <;> simp

@[simp] theorem countV_mem (s : State) : (countV s).mem = s.mem := by
  simp [countV]

@[simp] theorem rotate_mem (s : State) (e : Nat × Nat) : (rotate s e).mem = s.mem := by
  unfold rotate
  (repeat' split) <;> simp [*]

@[simp] theorem heatAccess_mem (s : State) (a : Nat) : (heatAccess s a).mem = s.mem := rfl

@[simp] theorem heatWrite_mem (s : State) (a : Nat) : (heatWrite s a).mem = s.mem := by
  unfold heatWrite
  (repeat' split) <;> simp [*]

@[simp] theorem heatRead_mem (s : State) (a : Nat) : (heatRead s a).mem = s.mem := by
  unfold heatRead
  (repeat' split) <;> simp [*]

@[simp] theorem heatWalk_mem (s : State) (asid va : Nat) : (heatWalk s asid va).mem = s.mem := by
  unfold heatWalk
  apply foldl_mem
  intro t x
  (repeat' split) <;> simp [*]

@[simp] theorem heatMiss_mem (s : State) (asid va : Nat) : (heatMiss s asid va).mem = s.mem := by
  unfold heatMiss
  (repeat' split) <;> simp [*]

@[simp] theorem heatLookup_mem (s : State) (asid va : Nat) : (heatLookup s asid va).mem = s.mem := by
  unfold heatLookup
  split <;> simp

@[simp] theorem parkIn_mem (s : State) (kind req asid va size frame : Nat) (entry : Word) (task : Nat) (r : Waiter) : (parkIn s kind req asid va size frame entry task r).mem = s.mem := by
  unfold parkIn
  dsimp only
  (repeat' split) <;> simp [*]

@[simp] theorem parkAs_mem (s : State) (kind req asid va frame : Nat) (entry : Word) (task : Nat) (r : Waiter) : (parkAs s kind req asid va frame entry task r).mem = s.mem := by
  simp [parkAs]

@[simp] theorem parkFull_mem (s : State) (req asid va : Nat) (p : Page) (task : Nat) (r : Waiter) : (parkFull s req asid va p task r).mem = s.mem := by
  simp [parkFull]

@[simp] theorem park_mem (s : State) (kind req asid va frame : Nat) (entry : Word) (task : Nat) (r : Requester) : (park s kind req asid va frame entry task r).mem = s.mem := by
  simp [park]

@[simp] theorem unpark_mem (s : State) (r : Requester) : (unpark s r).mem = s.mem := rfl

@[simp] theorem leaseCrew_mem (s : State) (task : Nat) (but : Option (Nat × Nat)) : (leaseCrew s task but).mem = s.mem := by
  unfold leaseCrew
  apply foldl_mem
  intro t x
  (repeat' split) <;> simp [*]

@[simp] theorem setGranTag_mem (s : State) (a t : Nat) : (setGranTag s a t).mem = s.mem := rfl

@[simp] theorem endHoldsAt_mem (s : State) (m : Nat) (p : Nat → Hold → Bool) (reason : Nat) : (endHoldsAt s m p reason).mem = s.mem := rfl

@[simp] theorem endLineHolds_mem (s : State) (key reason : Nat) (but : Option Nat) : (endLineHolds s key reason but).mem = s.mem := rfl

@[simp] theorem setHalf_mem (s : State) (key : Nat) (h : HalfHeld) : (setHalf s key h).mem = s.mem := rfl

@[simp] theorem mscFill_mem (s : State) (key : Nat) (p : Page) : (mscFill s key p).1.mem = s.mem := by
  unfold mscFill
  split <;> simp

@[simp] theorem setCmp_mem (s : State) (p : Page) (c : CmpPage) : (setCmp s p c).mem = s.mem := rfl

@[simp] theorem cmpReserve_mem (s : State) (p : Page) (a : Nat) (d : BitVec 1024) : (cmpReserve s p a d).mem = s.mem := by
  unfold cmpReserve
  split <;> simp

@[simp] theorem cmpWriteBack_mem (s : State) (p : Page) : (cmpWriteBack s p).mem = s.mem := by
  unfold cmpWriteBack
  (repeat' split) <;> simp [*]

@[simp] theorem mscWriteBack_wf (s : State) (key : Nat) (hw : Memory.wf s.mem = true) :
    Memory.wf (mscWriteBack s key).mem = true := by
  unfold mscWriteBack
  (repeat' split) <;> simp [*]

@[simp] theorem mscDrop_wf (s : State) (key : Nat) (hw : Memory.wf s.mem = true) :
    Memory.wf (mscDrop s key).mem = true := by
  simp [mscDrop, hw]

@[simp] theorem mscEvict_wf (s : State) (key : Nat) (hw : Memory.wf s.mem = true) :
    Memory.wf (mscEvict s key).mem = true := by
  unfold mscEvict
  (repeat' split) <;> simp [*]

@[simp] theorem logForget_mem (s : State) (key a : Nat) (m : BitVec 128) (task : Nat) : (logForget s key a m task).mem = s.mem := rfl

@[simp] theorem logKeep_mem (s : State) (key : Nat) (p : Page) (m : BitVec 128) (task : Nat) : (logKeep s key p m task).mem = s.mem := by
  unfold logKeep
  (repeat' split) <;> simp [*]

@[simp] theorem logWrite_mem (s : State) (key : Nat) (p : Page) (m : BitVec 128) (task : Nat) : (logWrite s key p m task).mem = s.mem := by
  simp [logWrite]

@[simp] theorem tagWrite_mem (s : State) (a : Nat) (m : BitVec 128) : (tagWrite s a m).mem = s.mem := by
  unfold tagWrite
  apply foldl_mem
  intro t x
  (repeat' split) <;> simp [*]

@[simp] theorem frameWrite_wf (s : State) (key : Nat) (p : Page) (d : BitVec 1024) (m : BitVec 128) (hw : Memory.wf s.mem = true) :
    Memory.wf (frameWrite s key p d m).mem = true := by
  simp [frameWrite, hw]

@[simp] theorem mscStore_mem (s : State) (key : Nat) (p : Page) (d : BitVec 1024) (m : BitVec 128) : (mscStore s key p d m).mem = s.mem := by
  simp [mscStore]

@[simp] theorem pocWriteVia_wf (through : Bool) (s : State) (key : Nat) (p : Page) (d : BitVec 1024) (m : BitVec 128) (task : Nat) (but : Option Nat) (hw : Memory.wf s.mem = true) :
    Memory.wf (pocWriteVia through s key p d m task but).mem = true := by
  unfold pocWriteVia
  (repeat' split) <;> simp [*]

@[simp] theorem pocWrite_wf (s : State) (key : Nat) (p : Page) (d : BitVec 1024) (m : BitVec 128) (task : Nat) (but : Option Nat) (hw : Memory.wf s.mem = true) :
    Memory.wf (pocWrite s key p d m task but).mem = true := by
  unfold pocWrite
  (repeat' split) <;> simp [*]

@[simp] theorem l2Fetch_mem (s : State) (die lc key : Nat) (m : BitVec 128) (p : Page) : (l2Fetch s die lc key m p).1.mem = s.mem := by
  unfold l2Fetch
  dsimp only
  (repeat' split) <;> simp [*]

@[simp] theorem l1Fill_mem (s : State) (lc key : Nat) (m : BitVec 128) (p : Page) : (l1Fill s lc key m p).1.mem = s.mem := by
  unfold l1Fill
  dsimp only
  split <;> simp

@[simp] theorem toL2_mem (s : State) (k : Nat) (l : Line) (m : BitVec 128) : (toL2 s k l m).mem = s.mem := by
  unfold toL2
  dsimp only
  (repeat' split) <;> simp [*]

@[simp] theorem toPoc_wf (s : State) (key : Nat) (l : Line) (m : BitVec 128) (hw : Memory.wf s.mem = true) :
    Memory.wf (toPoc s key l m).mem = true := by
  unfold toPoc
  refine foldl_wf _ (fun t x ht => ?_) _ _ hw
  (repeat' split) <;> simp [*]

@[simp] theorem refreshL2_mem (s : State) (die key : Nat) (l : Line) (m : BitVec 128) : (refreshL2 s die key l m).mem = s.mem := by
  unfold refreshL2
  split <;> simp

@[simp] theorem evictL1_mem (s : State) (lc key : Nat) : (evictL1 s lc key).mem = s.mem := by
  unfold evictL1
  (repeat' split) <;> simp [*]

@[simp] theorem trimL1_mem (s : State) (lc cap : Nat) : (trimL1 s lc cap).mem = s.mem := by
  unfold trimL1
  apply foldl_mem
  intro t x
  (repeat' split) <;> simp [*]

@[simp] theorem evictL2_wf (s : State) (k : Nat) (hw : Memory.wf s.mem = true) :
    Memory.wf (evictL2 s k).mem = true := by
  unfold evictL2
  (repeat' split) <;> simp [*]

@[simp] theorem acquire_mem (s : State) (lc scope : Nat) : (acquire s lc scope).mem = s.mem := by
  unfold acquire
  (repeat' split) <;> simp [*]

@[simp] theorem cleanL2Line_mem (s : State) (k : Nat) (m : BitVec 128) : (cleanL2Line s k m).mem = s.mem := by
  unfold cleanL2Line
  dsimp only
  (repeat' split) <;> simp [*]

@[simp] theorem cleanCore_mem (s : State) (lc key : Nat) (m : BitVec 128) : (cleanCore s lc key m).mem = s.mem := rfl

@[simp] theorem cleanSources_mem (s : State) (w : WriteReq) : (cleanSources s w).mem = s.mem := by
  unfold cleanSources
  (repeat' split) <;> simp [*]

@[simp] theorem landL2_mem (s : State) (w : WriteReq) : (landL2 s w).mem = s.mem := by
  simp [landL2]

@[simp] theorem landMsc_wf (s : State) (w : WriteReq) (p : Page) (hw : Memory.wf s.mem = true) :
    Memory.wf (landMsc s w p).mem = true := by
  simp [landMsc, hw]

@[simp] theorem mapFill_mem (s : State) (lc : Nat) (m : Mapping) (va o n : Nat) (p : Page) :
    (mapFill s lc m va o n p).1.mem = s.mem := by
  unfold mapFill
  dsimp only
  split <;> simp

@[simp] theorem performLoad_mem (s : State) (lc va n : Nat) (p : Page) : (performLoad s lc va n p).1.mem = s.mem := by
  unfold performLoad
  dsimp only
  (repeat' split) <;> simp [*]

@[simp] theorem performStore_wf (s : State) (lc va n v : Nat) (w : Verdict) (hw : Memory.wf s.mem = true) :
    Memory.wf (performStore s lc va n v w).mem = true := by
  unfold performStore
  (repeat' split) <;> simp [*]

@[simp] theorem leaseAsk_mem (s : State) (row task a : Nat) : (leaseAsk s row task a).1.mem = s.mem := by
  unfold leaseAsk
  dsimp only
  (repeat' split) <;> simp [*]

@[simp] theorem expireRow_mem (s : State) (row : Nat) : (expireRow s row).mem = s.mem := by
  unfold expireRow
  apply foldl_mem
  intro t x
  (repeat' split) <;> simp [*]

@[simp] theorem lowerRail_mem (s : State) (row : Nat) : (lowerRail s row).mem = s.mem := by
  unfold lowerRail
  split <;> simp

@[simp] theorem endLease_mem (s : State) (row : Nat) (expired : Bool) : (endLease s row expired).mem = s.mem := by
  unfold endLease
  dsimp only
  (repeat' split) <;> simp [*]

@[simp] theorem lostHolds_mem (s : State) (lc c : Nat) : (lostHolds s lc c).mem = s.mem := rfl

@[simp] theorem endHoldsOf_mem (s : State) (lc c : Nat) : (endHoldsOf s lc c).mem = s.mem := by
  unfold endHoldsOf
  exact (foldl_mem _ (fun t m => endHoldsAt_mem _ _ _ _) _ _).trans (lostHolds_mem s lc c)

@[simp] theorem orphanAll_mem (s : State) (lc c : Nat) : (orphanAll s lc c).mem = s.mem := rfl

@[simp] theorem retireHeld_mem (s : State) (lc c : Nat) : (retireHeld s lc c).mem = s.mem := by
  unfold retireHeld
  dsimp only
  split <;> simp

@[simp] theorem haltCtx_mem (s : State) (lc c : Nat) : (haltCtx s lc c).mem = s.mem := by
  simp [haltCtx]

@[simp] theorem freeHost_mem (s : State) (host : Option Nat) : (freeHost s host).mem = s.mem := by
  unfold freeHost
  split <;> simp

@[simp] theorem loseAccs_mem (s : State) (lc yard : Nat) : (loseAccs s lc yard).mem = s.mem := rfl

@[simp] theorem retireCore_mem (s : State) (lc keep : Nat) : (retireCore s lc keep).mem = s.mem := by
  unfold retireCore
  dsimp only
  split <;> simp

@[simp] theorem flushOne_wf (s : State) (w : WriteReq) (hw : Memory.wf s.mem = true) :
    Memory.wf (flushOne s w).mem = true := by
  unfold flushOne
  (repeat' split) <;> simp [*]

@[simp] theorem leaseSender_mem (s : State) (lc c task va : Nat) : (leaseSender s lc c task va).mem = s.mem := by
  unfold leaseSender
  dsimp only
  (repeat' split) <;> simp [*]

theorem flushAll_wf (ws : List WriteReq) (s : State) (hw : Memory.wf s.mem = true) :
    Memory.wf (flushAll s ws).1.mem = true := by
  induction ws generalizing s with
  | nil => exact hw
  | cons w ws ih =>
    unfold flushAll
    split
    · exact ih _ (flushOne_wf _ _ hw)
    split
    · exact ih _ (by simp [hw])
    · exact hw

@[simp] theorem flushCore_wf (s : State) (lc : Nat) (hw : Memory.wf s.mem = true) :
    Memory.wf (flushCore s lc).1.mem = true := flushAll_wf _ _ hw

theorem writeParks_mem (s : State) (w : WriteReq) (park : State → State) (h : ∀ t, (park t).mem = t.mem) :
    (writeParks s w park).mem = s.mem := by
  unfold writeParks
  rw [h]
  split <;> simp

@[simp] theorem parkWrite_mem (s : State) (w : WriteReq) : (parkWrite s w).mem = s.mem := by
  unfold parkWrite
  dsimp only
  (repeat' split) <;> first | rfl | rw [writeParks_mem _ _ _ (fun t => by simp)]

@[simp] theorem arriveAt_mem (s : State) (lc level : Nat) : (arriveAt s lc level).mem = s.mem := by
  simp [arriveAt]

@[simp] theorem recordArrival_mem (s : State) (l : Nat) : (recordArrival s l).mem = s.mem := by
  simp [recordArrival]

@[simp] theorem ungate_mem (s : State) : (ungate s).mem = s.mem := by
  unfold ungate
  split <;> simp

@[simp] theorem sendLoad_mem (s : State) (l : Load) : (sendLoad s l).mem = s.mem := rfl

@[simp] theorem gatherOne_mem (d n : Nat) (t : Tag) (s : State) (j : Nat × Nat × Verdict) : (gatherOne d n t s j).mem = s.mem := by
  unfold gatherOne
  split <;> simp

@[simp] theorem countLoad_mem (s : State) (lc level latency : Nat) : (countLoad s lc level latency).mem = s.mem := by
  unfold countLoad
  dsimp only
  (repeat' split) <;> simp [*]

@[simp] theorem sendReply_mem (s : State) (r : Reply) : (sendReply s r).mem = s.mem := rfl

@[simp] theorem readOperand_mem (s : State) (m : Nat) (o : Offer) (p : Page) : (readOperand s m o p).mem = s.mem := by
  unfold readOperand
  split <;> simp

@[simp] theorem refreshIssuer_mem (s : State) (lc key : Nat) (p : Page) : (refreshIssuer s lc key p).mem = s.mem := by
  simp [refreshIssuer]

@[simp] theorem installHold_mem (s : State) (m : Nat) (o : Offer) (p : Page) (reason : Nat) : (installHold s m o p reason).mem = s.mem := by
  simp [installHold]

@[simp] theorem executeOffer_wf (s : State) (m : Nat) (o : Offer) (p : Page) (hw : Memory.wf s.mem = true) :
    Memory.wf (executeOffer s m o p).mem = true := by
  unfold executeOffer
  dsimp only
  split <;> simp [hw]

@[simp] theorem actOffer_wf (s : State) (m : Nat) (o : Offer) (drop : State → State) (hw : Memory.wf s.mem = true)
    (hd : Memory.wf (drop s).mem = true) : Memory.wf (actOffer s m o drop).mem = true := by
  unfold actOffer
  split <;> (try dsimp only) <;> (try split) <;> simp [*]

@[simp] theorem landed_mem (s : State) (idx : Nat) : (landed s idx).mem = s.mem := rfl

@[simp] theorem dropHold_mem (s : State) (m e reason : Nat) : (dropHold s m e reason).mem = s.mem := rfl

@[simp] theorem settleWrite_wf (s : State) (r : Settle) (h : Hold) (b : Vec) (p : Page) (hw : Memory.wf s.mem = true) :
    Memory.wf (settleWrite s r h b p).mem = true := by
  unfold settleWrite
  simp [hw]

@[simp] theorem settleAt_wf (s : State) (idx : Nat) (r : Settle) (b : Vec) (hw : Memory.wf s.mem = true) :
    Memory.wf (settleAt s idx r b).mem = true := by
  unfold settleAt
  (repeat' split) <;> (try dsimp only) <;> (repeat' split) <;> simp [hw]

@[simp] theorem answerRelease_mem (s : State) (r : Settle) : (answerRelease s r).mem = s.mem := by
  unfold answerRelease
  split <;> rfl

@[simp] theorem releaseAt_mem (s : State) (idx : Nat) (r : Settle) : (releaseAt s idx r).mem = s.mem := by
  unfold releaseAt
  (repeat' split) <;> simp [*]

@[simp] theorem dropLine_mem (s : State) (lc key : Nat) : (dropLine s lc key).mem = s.mem := rfl

@[simp] theorem sendRelease_mem (s : State) (y : Nat) (addr : Nat) : (sendRelease s y addr).mem = s.mem := by
  unfold sendRelease
  split <;> rfl

@[simp] theorem sendRls_mem (s : State) (y : Nat) (addr : Nat) : (sendRls s y addr).mem = s.mem := rfl

@[simp] theorem sendOffer_mem (op : OfferOp) (f32 : Bool) (d : F6) (y : F2) (va : Nat) (b : Opnd) (s : State) : (sendOffer op f32 d y va b s).mem = s.mem := by
  simp [sendOffer]

@[simp] theorem sendSettle_mem (y : F2) (va : Nat) (b : Opnd) (s : State) : (sendSettle y va b s).mem = s.mem := by
  unfold sendSettle
  dsimp only
  split <;> simp

@[simp] theorem lostAtOnce_mem (y : F2) (va : Nat) (s : State) : (lostAtOnce y va s).mem = s.mem := by
  simp [lostAtOnce]

@[simp] theorem headerRead_mem (s : State) (asid va : Nat) : (headerRead s asid va).mem = s.mem := by
  unfold headerRead
  (repeat' split) <;> simp [*]

@[simp] theorem writeGranule_wf (s : State) (task key va : Nat) (page : Page) (w : Word) (tag : Nat)
    (hw : Memory.wf s.mem = true) : Memory.wf (writeGranule s task key va page w tag).mem = true := by
  simp [writeGranule, hw]

@[simp] theorem freeLines_mem (s : State) (o : Obj) : (freeLines s o).mem = s.mem :=
  foldl_mem (fun t (e : Nat × Nat) => evictL1 t e.1 e.2) (fun t e => evictL1_mem t e.1 e.2) _ s

@[simp] theorem freeObject_mem (s : State) (o : Obj) : (freeObject s o).mem = s.mem := by
  unfold freeObject
  refine (foldl_mem _ (fun t i => by simp) _ _).trans ?_
  exact (foldl_mem _ (fun t m => endHoldsAt_mem _ _ _ _) _ _).trans (freeLines_mem s o)

theorem landAll_wf (p : Page) (ws : List WriteReq) (s : State) (hw : Memory.wf s.mem = true) :
    Memory.wf (landAll p s ws).1.mem = true := by
  induction ws generalizing s with
  | nil => exact hw
  | cons w ws ih =>
    unfold landAll
    split
    · exact ih _ (landMsc_wf _ _ _ hw)
    · exact hw

@[simp] theorem sendRefst_mem (g : Nat) (page : Page) (w : Word) (kind : RefstKind) (s : State) :
    (sendRefst g page w kind s).mem = s.mem := rfl

@[simp] theorem keepLog_mem (before after : State) (task : Nat) : (keepLog before after task).mem = after.mem := by
  unfold keepLog
  split <;> simp

@[simp] theorem refstWrite_wf (s : State) (w : WriteReq) (r : RefstReq) (hw : Memory.wf s.mem = true) :
    Memory.wf (refstWrite s w r).mem = true := by
  unfold refstWrite
  dsimp only
  split <;> simp [hw]

@[simp] theorem refstStays_mem (s : State) (w : WriteReq) (r : RefstReq) (full : Bool) : (refstStays s w r full).mem = s.mem := by
  unfold refstStays
  split <;> simp

@[simp] theorem refstLands_wf (s : State) (idx : Nat) (w : WriteReq) (r : RefstReq) (hw : Memory.wf s.mem = true) :
    Memory.wf (refstLands s idx w r).mem = true := by
  have h := landAll_wf r.page (lineWrites s w.lc w.ctx w.key) s hw
  unfold refstLands
  split
  · exact hw
  split <;> rename_i heq <;> rw [heq] at h
  · simp [h]
  · dsimp only
    split <;> simp [h]

@[simp] theorem writeLands_wf (s : State) (idx : Nat) (w : WriteReq) (hw : Memory.wf s.mem = true) :
    Memory.wf (writeLands s idx w).mem = true := by
  unfold writeLands
  (repeat' split) <;> simp [hw]

@[simp] theorem modWalk_mem (s : State) (task : Nat) (f : Walk → Walk) : (modWalk s task f).mem = s.mem := by
  simp [modWalk]

@[simp] theorem writeHeader_wf (s : State) (t : Task) (va : Nat) (p : Page) (state scope : Nat) (hw : Memory.wf s.mem = true) :
    Memory.wf (writeHeader s t va p state scope).mem = true := by
  simp [writeHeader, hw]

@[simp] theorem reclassAll_mem (s : State) (t : Task) (o len : Nat) : (reclassAll s t o len).mem = s.mem := rfl

@[simp] theorem walkWaits_mem (s : State) (t : Task) (va : Nat) (p : Page) (full : Bool) : (walkWaits s t va p full).mem = s.mem := by
  unfold walkWaits
  (repeat' split) <;> simp [*]

@[simp] theorem walkDone_mem (s : State) (task : Nat) : (walkDone s task).mem = s.mem := by
  simp [walkDone]

@[simp] theorem walkParks_mem (s : State) (t : Task) (va : Nat) (e : Word) : (walkParks s t va e).mem = s.mem := by
  unfold walkParks
  split <;> simp

@[simp] theorem pathHeader_wf (t : Task) (state scope : Nat) (s : State) (f : WalkFrame) (hw : Memory.wf s.mem = true) :
    Memory.wf (pathHeader t state scope s f).mem = true := by
  unfold pathHeader
  split <;> simp [hw]

@[simp] theorem walkFails_wf (s : State) (t : Task) (w : Walk) (cause granule : Nat) (hw : Memory.wf s.mem = true) :
    Memory.wf (walkFails s t w cause granule).mem = true := by
  have h1 := foldl_wf (pathHeader t objPrivate 0) (fun u f hu => pathHeader_wf t objPrivate 0 u f hu) w.path s hw
  unfold walkFails
  dsimp only
  (repeat' split) <;> simp [h1]

@[simp] theorem walkFault_wf (s : State) (t : Task) (w : Walk) (cause granule : Nat) (hw : Memory.wf s.mem = true) :
    Memory.wf (walkFault s t w cause granule).mem = true := by
  unfold walkFault
  (repeat' split) <;> simp [*]

@[simp] theorem walkClean_wf (s : State) (t : Task) (o len : Nat) (p : Page) (hw : Memory.wf s.mem = true) :
    Memory.wf (walkClean s t o len p).mem = true := by
  have h := landAll_wf p (objectWrites s t o len) s hw
  unfold walkClean
  split <;> rename_i heq <;> rw [heq] at h <;> simp [h]

@[simp] theorem walkArrive_wf (s : State) (t : Task) (w : Walk) (o : Nat) (p : Page) (hw : Memory.wf s.mem = true) :
    Memory.wf (walkArrive s t w o p).mem = true := by
  unfold walkArrive
  split
  · simp [hw]
  dsimp only
  (repeat' split) <;> simp [hw]

@[simp] theorem walkRoot_wf (s : State) (t : Task) (w : Walk) (p : Page) (hw : Memory.wf s.mem = true) :
    Memory.wf (walkRoot s t w p).mem = true := by
  unfold walkRoot
  dsimp only
  (repeat' split) <;> simp [*]

@[simp] theorem walkBegin_wf (s : State) (t : Task) (w : Walk) (hw : Memory.wf s.mem = true) :
    Memory.wf (walkBegin s t w).mem = true := by
  unfold walkBegin
  (repeat' split) <;> simp [*]

@[simp] theorem walkLeave_wf (s : State) (t : Task) (w : Walk) (f : WalkFrame) (hw : Memory.wf s.mem = true) :
    Memory.wf (walkLeave s t w f).mem = true := by
  unfold walkLeave
  dsimp only
  (repeat' split) <;> simp [*]

@[simp] theorem walkNext_mem (s : State) (t : Task) : (walkNext s t).mem = s.mem := by
  simp [walkNext]

@[simp] theorem walkTarget_wf (s : State) (t : Task) (w : Walk) (g p : Nat) (q : Page) (hw : Memory.wf s.mem = true) :
    Memory.wf (walkTarget s t w g p q).mem = true := by
  unfold walkTarget
  dsimp only
  (repeat' split) <;> simp [*]

@[simp] theorem walkFollow_wf (s : State) (t : Task) (w : Walk) (g p : Nat) (hw : Memory.wf s.mem = true) :
    Memory.wf (walkFollow s t w g p).mem = true := by
  unfold walkFollow
  (repeat' split) <;> simp [*]

@[simp] theorem walkRead_wf (s : State) (t : Task) (w : Walk) (f : WalkFrame) (hw : Memory.wf s.mem = true) :
    Memory.wf (walkRead s t w f).mem = true := by
  unfold walkRead
  dsimp only
  (repeat' split) <;> simp [*]

@[simp] theorem walkGoesClean_wf (s : State) (t : Task) (f : WalkFrame) (hw : Memory.wf s.mem = true) :
    Memory.wf (walkGoesClean s t f).mem = true := by
  unfold walkGoesClean
  split <;> simp [hw]

@[simp] theorem setAcc_mem (s : State) (lc n : Nat) (m : Sparse (BitVec 32)) : (setAcc s lc n m).mem = s.mem := rfl

@[simp] theorem settleClock_mem (s : State) (yard : Nat) : (settleClock s yard).mem = s.mem := by
  unfold settleClock
  dsimp only
  split <;> simp

@[simp] theorem dropJob_mem (s : State) (yard idx : Nat) (j : Job) : (dropJob s yard idx j).mem = s.mem := by
  simp [dropJob]

@[simp] theorem tileReady_mem (s : State) (lc t : Nat) : (tileReady s lc t).mem = s.mem := rfl

@[simp] theorem mixJobs_mem (s : State) : (mixJobs s).mem = s.mem := by
  unfold mixJobs
  split <;> rfl

@[simp] theorem acceptJob_mem (s : State) (yard : Nat) (k : JobKind) : (acceptJob s yard k).mem = s.mem := by
  unfold acceptJob
  split <;> simp

@[simp] theorem spendFree_mem (s : State) (n : Nat) : (spendFree s n).mem = s.mem := rfl

@[simp] theorem jobFlags_mem (s : State) (j : Job) (f : Flags) : (jobFlags s j f).mem = s.mem := by
  unfold jobFlags
  split <;> simp

@[simp] theorem completeJob_mem (s : State) (yard idx : Nat) (j : Job) : (completeJob s yard idx j).mem = s.mem := by
  unfold completeJob
  split <;> simp

@[simp] theorem recordPacket_mem (s : State) (lc c cause sub : Nat) (addr : Word) (detail : List Word) : (recordPacket s lc c cause sub addr detail).mem = s.mem := rfl

@[simp] theorem openTile_mem (s : State) (lc : Nat) (t : Tile) : (openTile s lc t).mem = s.mem := rfl

@[simp] theorem faultJob_mem (s : State) (yard idx : Nat) (j : Job) (cause sub : Nat) : (faultJob s yard idx j cause sub).mem = s.mem := by
  unfold faultJob
  (repeat' split) <;> simp [*]

@[simp] theorem startResize_mem (s : State) (lo hi : Nat) : (startResize s lo hi).mem = s.mem := rfl

@[simp] theorem heatPages_mem (s : State) (a n : Nat) : (heatPages s a n).mem = s.mem :=
  foldl_mem _ (fun t x => by simp) _ _

@[simp] theorem dropRange_mem (s : State) (lc va n : Nat) : (dropRange s lc va n).mem = s.mem := by
  unfold dropRange
  apply foldl_mem
  intro t x
  (repeat' split) <;> simp [*]

@[simp] theorem copyArrival_mem (s : State) (lc : Nat) (ctl : Word) : (copyArrival s lc ctl).mem = s.mem := by
  unfold copyArrival
  split <;> simp

@[simp] theorem copiedTile_mem (s : State) (k : Copy) : (copiedTile s k).mem = s.mem := by
  unfold copiedTile
  split <;> simp

@[simp] theorem finishCopy_mem (s : State) (k : Copy) : (finishCopy s k).mem = s.mem := by
  simp [finishCopy]

@[simp] theorem acceptCopy_mem (s : State) (yard : Nat) (ws : List Word) : (acceptCopy s yard ws).mem = s.mem := by
  unfold acceptCopy
  dsimp only
  split <;> simp

@[simp] theorem mscRead_mem (s : State) (asid va n : Nat) (p : Page) : (mscRead s asid va n p).1.mem = s.mem := by
  unfold mscRead
  split <;> simp

@[simp] theorem mscWrite_wf (s : State) (asid va n v : Nat) (p : Page) (task : Nat) (hw : Memory.wf s.mem = true) :
    Memory.wf (mscWrite s asid va n v p task).mem = true := by
  simp [mscWrite, hw]

@[simp] theorem abandonCopy_mem (s : State) (k : Copy) : (abandonCopy s k).mem = s.mem := rfl

@[simp] theorem setCopy_mem (s : State) (k : Copy) : (setCopy s k).mem = s.mem := rfl

@[simp] theorem faultCopy_mem (s : State) (k : Copy) (sub addr : Nat) : (faultCopy s k sub addr).mem = s.mem := by
  unfold faultCopy
  (repeat' split) <;> simp [*]

@[simp] theorem parkCopy_mem (s : State) (k : Copy) (va : Nat) (entry : Word) : (parkCopy s k va entry).mem = s.mem := by
  unfold parkCopy
  dsimp only
  split <;> simp

@[simp] theorem copyAccess_wf (s : State) (k : Copy) (va n : Nat) (write : Bool) (go : Page → State)
    (hw : Memory.wf s.mem = true) (hg : ∀ p, Memory.wf (go p).mem = true) :
    Memory.wf (copyAccess s k va n write go).mem = true := by
  unfold copyAccess
  (repeat' split) <;> simp [hw, hg]

@[simp] theorem descWord_wf (s : State) (k : Copy) (i : Nat) (go : State → Word → State) (hw : Memory.wf s.mem = true)
    (hg : ∀ t w, Memory.wf t.mem = true → Memory.wf (go t w).mem = true) :
    Memory.wf (descWord s k i go).mem = true := by
  unfold descWord
  dsimp only
  split
  · simp [hw]
  · refine copyAccess_wf _ _ _ _ _ _ hw (fun p => ?_)
    split
    · exact hw
    · exact hg _ _ (by simp [hw])

theorem descDims_wf (k : Copy) (base n j : Nat) (acc : List (Nat × Int)) (s : State) (go : State → Desc → State)
    (hw : Memory.wf s.mem = true) (hg : ∀ t d, Memory.wf t.mem = true → Memory.wf (go t d).mem = true) :
    Memory.wf (descDims k base n j acc s go).mem = true := by
  induction n generalizing j acc s with
  | zero => exact hg _ _ hw
  | succ n ih => exact descWord_wf _ _ _ _ hw (fun t w ht => ih _ _ _ ht)

@[simp] theorem readDesc_wf (s : State) (k : Copy) (go : State → Desc → State) (hw : Memory.wf s.mem = true)
    (hg : ∀ t d, Memory.wf t.mem = true → Memory.wf (go t d).mem = true) : Memory.wf (readDesc s k go).mem = true := by
  unfold readDesc
  refine descWord_wf _ _ _ _ hw (fun t w ht => ?_)
  dsimp only
  split
  · simp [ht]
  · exact descWord_wf _ _ _ _ ht (fun u b hu => descDims_wf _ _ _ _ _ _ _ hu hg)

@[simp] theorem copyWaits_mem (s : State) (k : Copy) (va n : Nat) (p : Page) : (copyWaits s k va n p).mem = s.mem := by
  unfold copyWaits
  (repeat' split) <;> simp [*]

@[simp] theorem moveElement_wf (s : State) (k : Copy) (d : Desc) (q : Nat) (hw : Memory.wf s.mem = true) :
    Memory.wf (moveElement s k d q).mem = true := by
  unfold moveElement
  dsimp only
  refine copyAccess_wf _ _ _ _ _ _ hw (fun p => ?_)
  (repeat' split) <;> simp [hw]

@[simp] theorem moveGranule_wf (s : State) (k : Copy) (q : Nat) (hw : Memory.wf s.mem = true) :
    Memory.wf (moveGranule s k q).mem = true := by
  unfold moveGranule
  dsimp only
  refine copyAccess_wf _ _ _ _ _ _ hw (fun p => ?_)
  (repeat' split) <;> simp [hw]

@[simp] theorem enterTask_mem (s : State) (ra asid part vf : Nat) (ws : List Word) : (enterTask s ra asid part vf ws).1.mem = s.mem := rfl

theorem readWords_mem (asid n va : Nat) (acc : List Word) (s : State) : (readWords asid n va acc s).1.mem = s.mem := by
  induction n generalizing va acc s with
  | zero => rfl
  | succ n ih =>
    unfold readWords
    (repeat' split) <;> (try rfl) <;> simp [ih]

@[simp] theorem takeRecord_mem (s : State) (ra asid part vf : Nat) : (takeRecord s ra asid part vf).1.mem = s.mem := by
  unfold takeRecord
  split
  · rfl
  split
  · rfl
  have h1 := readWords_mem asid 16 ra [] s
  split <;> rename_i heq <;> rw [heq] at h1 <;> try exact h1
  rename_i t hs
  have h2 := readWords_mem asid (2 * recRanges hs) (ra + 128) hs t
  split
  · exact h1
  split <;> rename_i heq2 <;> rw [heq2] at h2 <;> try exact h2.trans h1
  split
  · exact (enterTask_mem _ _ _ _ _ _).trans (h2.trans h1)
  · exact h2.trans h1

@[simp] theorem pokeFrame_wf (s : State) (a : Nat) (bs : List Byte) (hw : Memory.wf s.mem = true) :
    Memory.wf (pokeFrame s a bs).mem = true := by
  unfold pokeFrame
  refine foldl_wf _ (fun t x ht => ?_) _ _ hw
  (repeat' split) <;> simp [*]

@[simp] theorem writeReply_wf (s : State) (vf ra : Nat) (answer : Word) (hw : Memory.wf s.mem = true) :
    Memory.wf (writeReply s vf ra answer).mem = true := by
  simp [writeReply, hw]

@[simp] theorem queueTask_mem (s : State) (task level : Nat) : (queueTask s task level).mem = s.mem := by
  simp [queueTask]

@[simp] theorem wakeCore_mem (s : State) (p : Nat) : (wakeCore s p).mem = s.mem := by
  unfold wakeCore
  split <;> simp

@[simp] theorem arriveOn_mem (s : State) (p : Nat) : (arriveOn s p).mem = s.mem := by
  unfold arriveOn
  split <;> simp

@[simp] theorem serveAcc_mem (s : State) (lc y : Nat) (content : Sparse (BitVec 32)) (n : Nat) : (serveAcc s lc y content n).mem = s.mem := rfl

@[simp] theorem placeCore_mem (t : Task) (cores : List Nat) (s : State) (n : Nat) : (placeCore t cores s n).mem = s.mem := by
  unfold placeCore
  dsimp only
  exact (foldl_mem _ (fun u a => by simp) _ _).trans (by simp)

@[simp] theorem dropKept_mem (s : State) (asid record : Nat) : (dropKept s asid record).mem = s.mem := rfl

@[simp] theorem beginCrew_mem (s : State) (task : Nat) : (beginCrew s task).mem = s.mem := by
  unfold beginCrew
  split
  · exact (foldl_mem _ (fun t c => by simp) _ _).trans (by simp)
  · rfl

@[simp] theorem placeCrew_mem (s : State) (t : Task) (cores : List Nat) (bank : List Word) :
    (placeCrew s t cores bank).mem = s.mem := by
  unfold placeCrew
  simp [foldl_mem]

@[simp] theorem keepCredit_mem (s : State) (key : Nat) : (keepCredit s key).mem = s.mem := rfl

@[simp] theorem creditSuccessor_mem (s : State) (asid ra : Nat) : (creditSuccessor s asid ra).mem = s.mem := by
  unfold creditSuccessor
  (repeat' split) <;> simp [*]

@[simp] theorem endTaskLeases_mem (s : State) (task : Nat) : (endTaskLeases s task).mem = s.mem := by
  unfold endTaskLeases
  apply foldl_mem
  intro t x
  (repeat' split) <;> simp [*]

@[simp] theorem forgetTask_mem (s : State) (task : Nat) : (forgetTask s task).mem = s.mem := rfl

@[simp] theorem completeTask_mem (s : State) (t : Task) : (completeTask s t).mem = s.mem := by
  unfold completeTask
  have h := fun (l : List Obj) (u : State) => foldl_mem freeObject (fun v o => by simp) l u
  dsimp only
  split <;> simp [h]

@[simp] theorem resumeCtx_mem (s : State) (lc c : Nat) (step : Bool) : (resumeCtx s lc c step).mem = s.mem := by
  simp [resumeCtx]

@[simp] theorem actHeld_mem (s : State) (lc c : Nat) : (actHeld s lc c).mem = s.mem := by
  unfold actHeld
  dsimp only
  (repeat' split) <;> simp [*]

@[simp] theorem emptyL1_mem (s : State) (lc : Nat) : (emptyL1 s lc).mem = s.mem := rfl

theorem fenceThen_wf (s : State) (lc : Nat) (k : State → State) (hw : Memory.wf s.mem = true)
    (hk : ∀ t, Memory.wf t.mem = true → Memory.wf (k t).mem = true) : Memory.wf (fenceThen s lc k).mem = true := by
  have h := flushCore_wf s lc hw
  unfold fenceThen
  split <;> rename_i heq <;> rw [heq] at h
  · exact hk _ (by simp [h])
  · simp [h]

@[simp] theorem moveAccs_mem (s : State) (lc a b : Nat) : (moveAccs s lc a b).mem = s.mem := by
  unfold moveAccs
  dsimp only
  (repeat' split) <;> (try simp) <;> apply foldl_mem <;> intro t x <;> (repeat' split) <;> simp [*]

@[simp] theorem leaveCore_mem (s : State) (p : Nat) : (leaveCore s p).mem = s.mem := by
  unfold leaveCore
  split <;> simp

@[simp] theorem moveTo_mem (s : State) (lc p : Nat) : (moveTo s lc p).mem = s.mem := by
  unfold moveTo
  dsimp only
  split <;> simp

@[simp] theorem foldOnto_mem (s : State) (lc v : Nat) : (foldOnto s lc v).mem = s.mem := by
  simp [foldOnto]

@[simp] theorem lodge_mem (s : State) (lc q slot n : Nat) : (lodge s lc q slot n).mem = s.mem := by
  simp [lodge]

@[simp] theorem idleEnginesSprint_mem (s : State) (row : Nat) : (idleEnginesSprint s row).mem = s.mem :=
  foldl_mem _ (fun t y => by simp) _ _

@[simp] theorem endAllLeases_mem (s : State) : (endAllLeases s).mem = s.mem := by
  unfold endAllLeases
  apply foldl_mem
  intro t x
  (repeat' split) <;> simp [*]

@[simp] theorem setSense_mem (s : State) (n : Sensor) (x : Sense) : (setSense s n x).mem = s.mem := rfl

@[simp] theorem senseAction_mem (s : State) (n : Sensor) (above : Bool) : (senseAction s n above).mem = s.mem := by
  unfold senseAction
  (repeat' split) <;> simp [*]

@[simp] theorem transit_mem (s : State) (n : Sensor) (above : Bool) : (transit s n above).mem = s.mem := by
  simp [transit]

@[simp] theorem freshHalves_mem (s : State) (row : Nat) : (freshHalves s row).mem = s.mem := by
  unfold freshHalves
  apply foldl_mem
  intro t x
  (repeat' split) <;> simp [*]

@[simp] theorem beginCycle_mem (row : Nat) (s : State) : (beginCycle row s).mem = s.mem := by
  unfold beginCycle
  apply foldl_mem
  intro t x
  (repeat' split) <;> simp [*]

@[simp] theorem dieWrite_wf (s : State) (die asid va n v : Nat) (p : Page) (hw : Memory.wf s.mem = true) :
    Memory.wf (dieWrite s die asid va n v p).mem = true := by
  unfold dieWrite
  split <;> simp [hw]

@[simp] theorem dropRecord_mem (s : State) (i : Nat) : (dropRecord s i).mem = s.mem := rfl

@[simp] theorem enlarged_mem (s : State) (m : MemRecord) : (enlarged s m).mem = s.mem := by
  unfold enlarged
  (repeat' split) <;> simp [*]

@[simp] theorem writeFreed_mem (s : State) (w : Waiter) : (writeFreed s w).mem = s.mem := by
  unfold writeFreed
  split <;> simp

@[simp] theorem replayRecord_mem (s : State) (i : Nat) : (replayRecord s i).mem = s.mem := by
  unfold replayRecord
  split
  · exact (foldl_mem _ (fun t w => by simp) _ _).trans (by simp)
  · rfl

@[simp] theorem unmapContext_mem (s : State) (lc c : Nat) (w : Waiter) : (unmapContext s lc c w).mem = s.mem := by
  unfold unmapContext
  (repeat' split) <;> simp [*]

@[simp] theorem unmapWrite_mem (s : State) (lc c key : Nat) (w : Waiter) : (unmapWrite s lc c key w).mem = s.mem := by
  unfold unmapWrite
  dsimp only
  split <;> simp

@[simp] theorem unmapOffer_mem (s : State) (lc c y : Nat) : (unmapOffer s lc c y).mem = s.mem := by
  unfold unmapOffer
  dsimp only
  split <;> simp

@[simp] theorem unmapSettle_mem (s : State) (lc c y : Nat) : (unmapSettle s lc c y).mem = s.mem := by
  unfold unmapSettle
  dsimp only
  (repeat' split) <;> simp [*]

@[simp] theorem unmapWalk_wf (s : State) (task : Nat) (hw : Memory.wf s.mem = true) :
    Memory.wf (unmapWalk s task).mem = true := by
  unfold unmapWalk
  (repeat' split) <;> simp [*]

@[simp] theorem unmapCopy_mem (s : State) (lc id addr : Nat) : (unmapCopy s lc id addr).mem = s.mem := by
  unfold unmapCopy
  split <;> simp

@[simp] theorem unmapWaiter_wf (s : State) (w : Waiter) (hw : Memory.wf s.mem = true) :
    Memory.wf (unmapWaiter s w).mem = true := by
  unfold unmapWaiter
  split <;> simp [hw]

@[simp] theorem unmapRecord_wf (s : State) (i : Nat) (hw : Memory.wf s.mem = true) :
    Memory.wf (unmapRecord s i).mem = true := by
  unfold unmapRecord
  split
  · split
    · simp [hw]
    · exact foldl_wf _ (fun t x ht => by simp [ht]) _ _ (by simp [hw])
  · exact hw

@[simp] theorem tlbinvWrite_mem (s : State) (v : Word) : (tlbinvWrite s v).mem = s.mem := by
  unfold tlbinvWrite
  split <;> simp

@[simp] theorem retagLine_wf (s : State) (key : Nat) (hw : Memory.wf s.mem = true) :
    Memory.wf (retagLine s key).mem = true := by
  unfold retagLine
  (repeat' split) <;> simp [*]

@[simp] theorem hvcmdWrite_mem (s : State) (v : Word) : (hvcmdWrite s v).mem = s.mem := by
  unfold hvcmdWrite
  split <;> simp

@[simp] theorem chrateWrite_mem (s : State) (v : Word) : (chrateWrite s v).mem = s.mem := by
  unfold chrateWrite
  split <;> simp

@[simp] theorem dictReads_mem (s : State) (v : Word) : (dictReads s v).mem = s.mem := by
  unfold dictReads
  split
  · exact foldl_mem _ (fun u i => by simp) _ _
  · rfl

@[simp] theorem dictStart_mem (s : State) (v : Word) : (dictStart s v).mem = s.mem := dictReads_mem s v

@[simp] theorem dictCurrent_mem (s : State) (l : DictLoad) : (dictCurrent s l).mem = s.mem := rfl

@[simp] theorem dictldWrite_mem (s : State) (v : Word) : (dictldWrite s v).mem = s.mem := by
  unfold dictldWrite
  dsimp only
  (repeat' split) <;> simp [*]

@[simp] theorem repairRecord_mem (s : State) (kind pa bank : Nat) : (repairRecord s kind pa bank).mem = s.mem := rfl

@[simp] theorem retireGranule_mem (s : State) (pa : Nat) : (retireGranule s pa).mem = s.mem := by
  unfold retireGranule
  dsimp only
  split <;> simp

@[simp] theorem restoreAt_wf (s : State) (r : LogRec) (p : Page) (hw : Memory.wf s.mem = true) :
    Memory.wf (restoreAt s r p).mem = true := by
  unfold restoreAt
  dsimp only
  refine foldl_wf _ (fun t x ht => ?_) _ _ ?_
  · split <;> simp [ht]
  · split <;> simp [hw]

@[simp] theorem restoreRecord_wf (s : State) (r : LogRec) (hw : Memory.wf s.mem = true) :
    Memory.wf (restoreRecord s r).mem = true := by
  unfold restoreRecord
  dsimp only
  (repeat' split) <;> (try simp [*]) <;> refine foldl_wf _ (fun t x ht => ?_) _ _ (by simp [*]) <;> (repeat' split) <;> simp [*]

@[simp] theorem clearLine_mem (o : Obj) (s : State) (e : Nat × MscLine) : (clearLine o s e).mem = s.mem := by
  simp [clearLine]

@[simp] theorem discardObject_wf (s : State) (o : Obj) (hw : Memory.wf s.mem = true) :
    Memory.wf (discardObject s o).mem = true := by
  unfold discardObject
  dsimp only
  rw [freeObject_mem, foldl_mem _ (fun t e => clearLine_mem o t e)]
  exact canon_filter _ hw

@[simp] theorem dropDirty_mem (s : State) (task : Nat) : (dropDirty s task).mem = s.mem := rfl

@[simp] theorem abandonTask_mem (s : State) (task : Nat) : (abandonTask s task).mem = s.mem := by
  unfold abandonTask
  dsimp only
  rw [modTask_mem, foldl_mem _ (fun t y => by simp)]

@[simp] theorem retireCrew_mem (s : State) (task : Nat) : (retireCrew s task).mem = s.mem := by
  unfold retireCrew
  refine foldl_mem _ (fun t x => ?_) _ _
  have h1 := foldl_mem (fun u c => rearm u x c) (fun u c => by simp) (keys (coreOf t x).ctxs) t
  dsimp only
  split <;> simp [h1]

@[simp] theorem dropRequests_mem (s : State) (task : Nat) : (dropRequests s task).mem = s.mem := rfl

@[simp] theorem restoreLog_wf (s : State) (t : Task) (hw : Memory.wf s.mem = true) :
    Memory.wf (restoreLog s t).mem = true :=
  foldl_wf restoreRecord (fun u r hu => restoreRecord_wf u r hu) _ _ (by simp [hw])

@[simp] theorem recordStuck_mem (s : State) (e : Nat × Nat) : (recordStuck s e).mem = s.mem := by
  unfold recordStuck
  dsimp only
  (repeat' split) <;> simp

@[simp] theorem rollBack_wf (s : State) (t : Task) (hw : Memory.wf s.mem = true) :
    Memory.wf (rollBack s t).mem = true := by
  unfold rollBack
  simp only [modTask_mem, retireCrew_mem]
  refine foldl_wf discardObject (fun u o hu => discardObject_wf u o hu) _ _ (restoreLog_wf _ _ ?_)
  rw [foldl_mem _ (fun u m => endHoldsAt_mem _ _ _ _)]
  simp [foldl_mem recordStuck recordStuck_mem, hw]

@[simp] theorem dropHalf_mem (s : State) (key half : Nat) (x : Half2) : (dropHalf s key half x).mem = s.mem := rfl

@[simp] theorem journalStep_mem (s : State) (step outcome : Nat) (units : List Nat) : (journalStep s step outcome units).mem = s.mem := rfl

@[simp] theorem bootChannels_mem (s : State) (b : BootInput) : (bootChannels s b).mem = s.mem := by
  unfold bootChannels
  dsimp only
  split <;> simp only [journalStep_mem] <;>
    exact (foldl_mem _ (fun t c => by simp) _ _).trans (foldl_mem _ (fun t c => by simp) _ _)

@[simp] theorem bootUnits_mem (s : State) (b : BootInput) : (bootUnits s b).mem = s.mem := by
  unfold bootUnits
  simp only [journalStep_mem]
  exact (foldl_mem _ (fun t c => by simp) _ _).trans (foldl_mem _ (fun t c => by simp) _ _)

@[simp] theorem startReeve_mem (b : BootInput) (s : State) (d : Nat) : (startReeve b s d).mem = s.mem := rfl

@[simp] theorem bootReeves_mem (s : State) (b : BootInput) : (bootReeves s b).mem = s.mem := by
  unfold bootReeves
  dsimp only
  (repeat' split) <;> (try simp) <;> apply foldl_mem <;> intro t x <;> (repeat' split) <;> simp [*]

@[simp] theorem bootFirmware_wf (s : State) (b : BootInput) (hw : Memory.wf s.mem = true) :
    Memory.wf (bootFirmware s b).mem = true := by
  unfold bootFirmware
  have h1 := foldl_wf (fun t e => setMemByte t e.1 e.2) (fun t e ht => by simp [ht]) b.image s hw
  dsimp only
  rw [foldl_mem _ (fun t c => by simp), foldl_mem _ (fun t c => by simp), foldl_mem _ (fun t c => by simp)]
  exact h1

@[simp] theorem bootStart_wf (s : State) (b : BootInput) (hw : Memory.wf s.mem = true) :
    Memory.wf (bootStart s b).mem = true := canon_filter _ hw

@[simp] theorem wakeModule_mem (s : State) : (wakeModule s).mem = s.mem := by
  unfold wakeModule
  split
  · exact foldl_mem _ (fun t x => by split <;> simp) _ _
  · rfl

@[simp] theorem hostRead_mem (s : State) (asid va : Nat) (p : Page) : (hostRead s asid va p).1.mem = s.mem := by
  unfold hostRead
  dsimp only
  (repeat' split) <;> simp [*]

@[simp] theorem hostWrite_mem (s : State) (asid va : Nat) (b : Byte) : (hostWrite s asid va b).mem = s.mem := rfl

@[simp] theorem flushHolds_mem (s : State) (f : Hold → Page → Bool) : (flushHolds s f).mem = s.mem :=
  foldl_mem _ (fun t m => by simp) _ _

@[simp] theorem dropLines_wf (s : State) (f : Page → Bool) (hw : Memory.wf s.mem = true) :
    Memory.wf (dropLines s f).mem = true := by
  unfold dropLines
  exact foldl_wf _ (fun t x ht => by simp [ht]) _ _ (by simp [hw])

@[simp] theorem endTask_wf (s : State) (task : Nat) (hw : Memory.wf s.mem = true) :
    Memory.wf (endTask s task).mem = true := by
  have h1 := foldl_wf (fun t lc => (flushCore t lc).1) (fun t lc ht => flushCore_wf t lc ht) (taskCores s task) s hw
  unfold endTask
  dsimp only
  rw [modTask_mem, takeFree_mem, foldl_mem _ (fun u m => endHoldsAt_mem _ _ _ _), retireCrew_mem, abandonTask_mem]
  exact h1

@[simp] theorem countFlits_mem (s : State) (die code n : Nat) : (countFlits s die code n).mem = s.mem := by
  unfold countFlits
  exact foldl_mem _ (fun t x => foldl_mem _ (fun u y => by simp) _ _) _ _

/-- What the link engine has written keeps the canonical form. -/
@[simp] theorem hostMiss_mem (s : State) (a : HostAccess) : (hostMiss s a).mem = s.mem := by
  unfold hostMiss
  split <;> simp

theorem linkWrite_wf (asid : Nat) (bs : List (Nat × Byte)) (s t : State) (hw : Memory.wf s.mem = true)
    (h : linkWrite asid s bs = .done t) : Memory.wf t.mem = true := by
  induction bs generalizing s with
  | nil => cases h; exact hw
  | cons e bs ih =>
    unfold linkWrite at h
    split at h
    · cases h
    · dsimp only at h
      split at h
      · exact ih _ (by simp [hw]) h
      · split at h <;> cases h

@[simp] theorem writeRowReg_mem (s : State) (row n : Nat) (v : Word) : (writeRowReg s row n v).mem = s.mem := by
  unfold writeRowReg
  split <;> simp

@[simp] theorem mrsolveWrite_wf (s : State) (v : Word) (hw : Memory.wf s.mem = true) :
    Memory.wf (mrsolveWrite s v).mem = true := by
  unfold mrsolveWrite
  split <;> simp [hw]

@[simp] theorem writePackageReg_wf (s : State) (n : Nat) (v : Word) (hw : Memory.wf s.mem = true) :
    Memory.wf (writePackageReg s n v).mem = true := by
  unfold writePackageReg
  split <;> simp [hw]

@[simp] theorem writeReg_wf (s : State) (n : Nat) (v : Word) (hw : Memory.wf s.mem = true) :
    Memory.wf (writeReg s n v).mem = true := by
  unfold writeReg
  (repeat' split) <;> simp [*]

@[simp] theorem endCopy_mem (lc c : Nat) (x : Ctx) (s : State) (k : Copy) : (endCopy lc c x s k).mem = s.mem := by
  unfold endCopy
  dsimp only
  (repeat' split) <;> simp [*]

@[simp] theorem endCopies_mem (s : State) (lc c : Nat) : (endCopies s lc c).mem = s.mem := by
  unfold endCopies
  apply foldl_mem
  intro t x
  (repeat' split) <;> simp [*]

@[simp] theorem recordJobs_mem (s : State) (lc c : Nat) : (recordJobs s lc c).mem = s.mem := by
  unfold recordJobs
  apply foldl_mem
  intro t x
  (repeat' split) <;> simp [*]

@[simp] theorem dropHead_mem (s : State) (lc : Nat) : (dropHead s lc).mem = s.mem := by
  simp [dropHead]

@[simp] theorem finishEnd_wf (s : State) (lc : Nat) (hw : Memory.wf s.mem = true) :
    Memory.wf (finishEnd s lc).mem = true := by
  have h := flushCore_wf s lc hw
  unfold finishEnd
  split
  · split <;> rename_i heq <;> rw [heq] at h <;> simp [h]
  · exact hw

@[simp] theorem endCtx_wf (s : State) (lc c : Nat) (hw : Memory.wf s.mem = true) :
    Memory.wf (endCtx s lc c).mem = true := by
  unfold endCtx
  dsimp only
  split <;> simp [hw]

@[simp] theorem dctlWrite_wf (s : State) (lc c op : Nat) (hw : Memory.wf s.mem = true) :
    Memory.wf (dctlWrite s lc c op).mem = true := by
  unfold dctlWrite
  dsimp only
  (repeat' split) <;> simp [*]

@[simp] theorem actRequest_wf (s : State) (lc c : Nat) (hw : Memory.wf s.mem = true) :
    Memory.wf (actRequest s lc c).mem = true := by
  unfold actRequest
  dsimp only
  (repeat' split) <;> simp [*]

@[simp] theorem editFrozen_mem (s : State) (lc c : Nat) (f : Ctx → Ctx) : (editFrozen s lc c f).mem = s.mem := by
  unfold editFrozen
  split <;> simp

@[simp] theorem editPhys_mem (s : State) (p : Nat) (f : PCore → PCore) : (editPhys s p f).mem = s.mem := by
  unfold editPhys
  split <;> simp

@[simp] theorem renewLease_mem (s : State) (row : Nat) (v : Word) : (renewLease s row v).mem = s.mem := by
  unfold renewLease
  (repeat' split) <;> simp [*]

@[simp] theorem editRowReg_mem (s : State) (row n : Nat) (v : Word) : (editRowReg s row n v).mem = s.mem := by
  unfold editRowReg
  split <;> simp

@[simp] theorem modKept_mem (s : State) (p : Nat) (f : Kept → Kept) : (modKept s p f).mem = s.mem := rfl

@[simp] theorem writeCtxArea_wf (s : State) (lc c o : Nat) (v : Word) (hw : Memory.wf s.mem = true) :
    Memory.wf (writeCtxArea s lc c o v).mem = true := by
  unfold writeCtxArea
  (repeat' split) <;> simp [*]

@[simp] theorem writePlace_wf (s : State) (p : Place) (v : Word) (hw : Memory.wf s.mem = true) :
    Memory.wf (writePlace s p v).mem = true := by
  unfold writePlace
  (repeat' split) <;> simp [*]

@[simp] theorem windowWrite_wf (s : State) (die off n v : Nat) (hw : Memory.wf s.mem = true) :
    Memory.wf (windowWrite s die off n v).mem = true := by
  unfold windowWrite
  refine foldl_wf _ (fun t x ht => ?_) _ _ hw
  (repeat' split) <;> simp [*]

@[simp] theorem fetchLine_mem (s : State) (lc va : Nat) : (fetchLine s lc va).mem = s.mem := by
  unfold fetchLine
  (repeat' split) <;> simp [*]

@[simp] theorem fetchLines_mem (s : State) (lc va n : Nat) : (fetchLines s lc va n).mem = s.mem := by
  unfold fetchLines
  (repeat' split) <;> simp [*]

@[simp] theorem fetchLooked_mem (s : State) (lc va : Nat) : (fetchLooked s lc va).mem = s.mem := by
  unfold fetchLooked
  split <;> simp

@[simp] theorem setAge_mem (s : State) (lc c n : Nat) : (setAge s lc c n).mem = s.mem := rfl

@[simp] theorem ageAll_mem (halved : Bool) (ready picked : List (Nat × Nat)) (s : State) (e : Nat × Nat) : (ageAll halved ready picked s e).mem = s.mem := rfl

@[simp] theorem closeGap_mem (s : State) (e : Nat × Nat) : (closeGap s e).mem = s.mem := rfl

@[simp] theorem enterReaders_mem (s : State) (e : Nat × Nat) : (enterReaders s e).mem = s.mem := rfl

@[simp] theorem queueReaders_mem (picked turns : List (Nat × Nat)) (s : State) :
    (queueReaders picked turns s).mem = s.mem := by
  unfold queueReaders
  split
  · exact foldl_mem enterReaders enterReaders_mem _ _
  · rfl

@[simp] theorem turnCycle_mem (p : Nat) (s : State) : (turnCycle p s).mem = s.mem := by
  unfold turnCycle
  dsimp only
  rw [queueReaders_mem, modPhys_mem]
  exact (foldl_mem _ (fun u e => by simp) _ _).trans (foldl_mem _ (fun u e => by simp) _ _)

@[simp] theorem turnRowIssue_mem (row : Nat) (s : State) : (turnRowIssue row s).mem = s.mem := rfl

@[simp] theorem fillTlb_mem (key : Nat) (s : State) : (fillTlb key s).mem = s.mem := by
  unfold fillTlb
  (repeat' split) <;> simp [*]

theorem trimBy_wf {α : Type} (held : State → Nat) (victims : State → List α) (cap : Nat) (evict : State → α → State)
    (s : State) (h : ∀ t v, Memory.wf t.mem = true → Memory.wf (evict t v).mem = true) (hw : Memory.wf s.mem = true) :
    Memory.wf (trimBy held victims cap evict s).mem = true := by
  unfold trimBy
  refine foldl_wf _ (fun t x ht => ?_) _ _ hw
  split
  · exact h _ _ (by simp [ht])
  · exact ht

@[simp] theorem trimCore_wf (s : State) (p : Nat) (hw : Memory.wf s.mem = true) : Memory.wf (trimCore s p).mem = true :=
  trimBy_wf _ _ _ _ _ (fun t v ht => by simp [ht]) hw

theorem trimDies_wf (cap : Nat) (s : State) (hw : Memory.wf s.mem = true) :
    Memory.wf ((List.range 8).foldl (fun t d => trimBy (dieHeld d) (dieVictims d) cap evictL2 t) s).mem = true :=
  foldl_wf _ (fun _ _ ht => trimBy_wf _ _ _ _ _ (fun _ _ hu => evictL2_wf _ _ hu) ht) _ _ hw

theorem trimSlices_wf (cap : Nat) (s : State) (hw : Memory.wf s.mem = true) :
    Memory.wf ((List.range 16).foldl (fun t k => trimBy (sliceHeld k) (sliceVictims k) cap mscEvict t) s).mem = true :=
  foldl_wf _ (fun _ _ ht => trimBy_wf _ _ _ _ _ (fun _ _ hu => mscEvict_wf _ _ hu) ht) _ _ hw

@[simp] theorem trimCaches_wf (s : State) (hw : Memory.wf s.mem = true) : Memory.wf (trimCaches s).mem = true := by
  have h1 := foldl_wf trimCore (fun t p ht => trimCore_wf t p ht) (keys s.phys) s hw
  unfold trimCaches
  generalize (keys s.phys).foldl trimCore s = u at h1
  have h2 : ∀ v, Memory.wf v.mem = true → Memory.wf (if v.msc.length ≤ mscLines then v
      else (List.range 16).foldl (fun t k => trimBy (sliceHeld k) (sliceVictims k) mscLines mscEvict t) v).mem = true := by
    intro v hv
    split
    · exact hv
    · exact trimSlices_wf _ v hv
  refine h2 _ ?_
  split
  · exact h1
  · exact trimDies_wf _ u h1

@[simp] theorem afterTurn_wf (s : State) (hw : Memory.wf s.mem = true) : Memory.wf (afterTurn s).mem = true := by
  simp [afterTurn, hw]

@[simp] theorem placeBytes_wf (bs : List Byte) (s : State) (hw : Memory.wf s.mem = true) :
    Memory.wf (placeBytes bs s).mem = true := by
  unfold placeBytes
  refine foldl_wf _ (fun t x ht => ?_) _ _ hw
  (repeat' split) <;> simp [*]

@[simp] theorem placeCode_wf (bs : List Byte) (s : State) (hw : Memory.wf s.mem = true) :
    Memory.wf (placeCode bs s).mem = true := by
  simp [placeCode, hw]

end Sys2Proof.Machine
end

