-- ==== Sys2Proof/Laws/Meanings.lean ====
section
/-! SUPPORT. Every meaning answers a next state, and keeps the canonical form of memory. -/

namespace Sys2Proof.Machine

/-- An answer that is a next state with its memory in canonical form. -/
def Fine (r : Res) : Prop := ∃ t, r = .next t ∧ Memory.wf t.mem = true

@[simp] theorem fine_next (t : State) : Fine (.next t) ↔ Memory.wf t.mem = true :=
  ⟨fun ⟨_, h, hw⟩ => by injection h with h; rw [h]; exact hw, fun hw => ⟨t, rfl, hw⟩⟩


@[simp] theorem trapAt_fine (s : State) (cause sub : Nat) (addr : Word) (detail : List Word) (hw : Memory.wf s.mem = true) :
    Fine (trapAt s cause sub addr detail) := by
  unfold trapAt
  split <;> simp [hw]

@[simp] theorem trap_fine (s : State) (cause : Nat) (hw : Memory.wf s.mem = true) :
    Fine (trap s cause) := trapAt_fine _ _ _ _ _ hw

@[simp] theorem trapAddr_fine (s : State) (cause : Nat) (addr : Nat) (hw : Memory.wf s.mem = true) :
    Fine (trapAddr s cause addr) := trapAt_fine _ _ _ _ _ hw

@[simp] theorem waitAt_fine (s : State) (code : Nat) (hw : Memory.wf s.mem = true) :
    Fine (waitAt s code) := by
  unfold waitAt
  (repeat' split) <;> simp [*]

@[simp] theorem waitStage_fine (s : State) (code : Nat) (st : Stage) (hw : Memory.wf s.mem = true) :
    Fine (waitStage s code st) := by
  simp [waitStage, hw]

@[simp] theorem waitBegun_fine (s : State) (code : Nat) (hw : Memory.wf s.mem = true) :
    Fine (waitBegun s code) := by
  simp [waitBegun, hw]

@[simp] theorem waitReply_fine (s : State) (y : Nat) (hw : Memory.wf s.mem = true) : Fine (waitReply s y) := by
  simp [waitReply, hw]

theorem issue_fine (n : Names) (s : State) (k : State → Res) (hw : Memory.wf s.mem = true)
    (hk : ∀ t, Memory.wf t.mem = true → Fine (k t)) : Fine (issue n s k) := by
  unfold issue
  dsimp only
  (repeat' split) <;> simp [hw, hk]

@[simp] theorem finishTo_fine (n : Names) (s : State) (w : Word) (pc : Word) (hw : Memory.wf s.mem = true) :
    Fine (finishTo n s w pc) := by
  unfold finishTo
  dsimp only
  split <;> simp [hw]

@[simp] theorem jumpTo_fine (n : Names) (s : State) (w : Word) (pc : Word) (hw : Memory.wf s.mem = true) :
    Fine (jumpTo n s w pc) := by
  simp [jumpTo, hw]

@[simp] theorem finish_fine (n : Names) (len : Nat) (s : State) (w : Word) (hw : Memory.wf s.mem = true) :
    Fine (finish n len s w) := by
  simp [finish, hw]

@[simp] theorem finishCtx_fine (n : Names) (len : Nat) (s : State) (f : Ctx → Ctx) (hw : Memory.wf s.mem = true) :
    Fine (finishCtx n len s f) := by
  simp [finishCtx, hw]

@[simp] theorem scalar2_fine (len : Nat) (wide : Bool) (f : Word → Word → Word) (d : Nat) (a b : Opnd) (s : State) (hw : Memory.wf s.mem = true) :
    Fine (scalar2 len wide f d a b s) := by
  refine issue_fine _ _ _ hw (fun t ht => ?_)
  simp [ht]

@[simp] theorem scalar1_fine (len : Nat) (wide : Bool) (f : Word → Word) (d : Nat) (a : Opnd) (s : State) (hw : Memory.wf s.mem = true) :
    Fine (scalar1 len wide f d a s) := by
  refine issue_fine _ _ _ hw (fun t ht => ?_)
  simp [ht]

@[simp] theorem scalar0_fine (f : State → Word) (d : Nat) (s : State) (hw : Memory.wf s.mem = true) :
    Fine (scalar0 f d s) := by
  refine issue_fine _ _ _ hw (fun t ht => ?_)
  simp [ht]

@[simp] theorem execAdd_fine (d : F6) (a b : Opnd) (s : State) (hw : Memory.wf s.mem = true) :
    Fine (execAdd d a b s) := by
  simp [execAdd, hw]

@[simp] theorem execSub_fine (d : F6) (a b : Opnd) (s : State) (hw : Memory.wf s.mem = true) :
    Fine (execSub d a b s) := by
  simp [execSub, hw]

@[simp] theorem execAnd_fine (d : F6) (a b : Opnd) (s : State) (hw : Memory.wf s.mem = true) :
    Fine (execAnd d a b s) := by
  simp [execAnd, hw]

@[simp] theorem execOr_fine (d : F6) (a b : Opnd) (s : State) (hw : Memory.wf s.mem = true) :
    Fine (execOr d a b s) := by
  simp [execOr, hw]

@[simp] theorem execXor_fine (d : F6) (a b : Opnd) (s : State) (hw : Memory.wf s.mem = true) :
    Fine (execXor d a b s) := by
  simp [execXor, hw]

@[simp] theorem execShl_fine (d : F6) (a b : Opnd) (s : State) (hw : Memory.wf s.mem = true) :
    Fine (execShl d a b s) := by
  simp [execShl, hw]

@[simp] theorem execShr_fine (d : F6) (a b : Opnd) (s : State) (hw : Memory.wf s.mem = true) :
    Fine (execShr d a b s) := by
  simp [execShr, hw]

@[simp] theorem execSar_fine (d : F6) (a b : Opnd) (s : State) (hw : Memory.wf s.mem = true) :
    Fine (execSar d a b s) := by
  simp [execSar, hw]

@[simp] theorem execMul_fine (d : F6) (a b : Opnd) (s : State) (hw : Memory.wf s.mem = true) :
    Fine (execMul d a b s) := by
  simp [execMul, hw]

@[simp] theorem execMulh_fine (d : F6) (a b : Opnd) (s : State) (hw : Memory.wf s.mem = true) :
    Fine (execMulh d a b s) := by
  simp [execMulh, hw]

@[simp] theorem execMulhn_fine (d : F6) (a b : Opnd) (s : State) (hw : Memory.wf s.mem = true) :
    Fine (execMulhn d a b s) := by
  simp [execMulhn, hw]

@[simp] theorem execDiv_fine (d : F6) (a b : Opnd) (s : State) (hw : Memory.wf s.mem = true) :
    Fine (execDiv d a b s) := by
  simp [execDiv, hw]

@[simp] theorem execDivn_fine (d : F6) (a b : Opnd) (s : State) (hw : Memory.wf s.mem = true) :
    Fine (execDivn d a b s) := by
  simp [execDivn, hw]

@[simp] theorem execRem_fine (d : F6) (a b : Opnd) (s : State) (hw : Memory.wf s.mem = true) :
    Fine (execRem d a b s) := by
  simp [execRem, hw]

@[simp] theorem execRemn_fine (d : F6) (a b : Opnd) (s : State) (hw : Memory.wf s.mem = true) :
    Fine (execRemn d a b s) := by
  simp [execRemn, hw]

@[simp] theorem execSeq_fine (d : F6) (a b : Opnd) (s : State) (hw : Memory.wf s.mem = true) :
    Fine (execSeq d a b s) := by
  simp [execSeq, hw]

@[simp] theorem execSne_fine (d : F6) (a b : Opnd) (s : State) (hw : Memory.wf s.mem = true) :
    Fine (execSne d a b s) := by
  simp [execSne, hw]

@[simp] theorem execSlt_fine (d : F6) (a b : Opnd) (s : State) (hw : Memory.wf s.mem = true) :
    Fine (execSlt d a b s) := by
  simp [execSlt, hw]

@[simp] theorem execSltn_fine (d : F6) (a b : Opnd) (s : State) (hw : Memory.wf s.mem = true) :
    Fine (execSltn d a b s) := by
  simp [execSltn, hw]

@[simp] theorem execSle_fine (d : F6) (a b : Opnd) (s : State) (hw : Memory.wf s.mem = true) :
    Fine (execSle d a b s) := by
  simp [execSle, hw]

@[simp] theorem execSlen_fine (d : F6) (a b : Opnd) (s : State) (hw : Memory.wf s.mem = true) :
    Fine (execSlen d a b s) := by
  simp [execSlen, hw]

@[simp] theorem execMin_fine (d : F6) (a b : Opnd) (s : State) (hw : Memory.wf s.mem = true) :
    Fine (execMin d a b s) := by
  simp [execMin, hw]

@[simp] theorem execMax_fine (d : F6) (a b : Opnd) (s : State) (hw : Memory.wf s.mem = true) :
    Fine (execMax d a b s) := by
  simp [execMax, hw]

@[simp] theorem execMinn_fine (d : F6) (a b : Opnd) (s : State) (hw : Memory.wf s.mem = true) :
    Fine (execMinn d a b s) := by
  simp [execMinn, hw]

@[simp] theorem execMaxn_fine (d : F6) (a b : Opnd) (s : State) (hw : Memory.wf s.mem = true) :
    Fine (execMaxn d a b s) := by
  simp [execMaxn, hw]

@[simp] theorem execSext_fine (d : F6) (a b : Opnd) (s : State) (hw : Memory.wf s.mem = true) :
    Fine (execSext d a b s) := by
  simp [execSext, hw]

@[simp] theorem execClz_fine (d : F6) (a : Opnd) (s : State) (hw : Memory.wf s.mem = true) :
    Fine (execClz d a s) := by
  simp [execClz, hw]

@[simp] theorem execCtz_fine (d : F6) (a : Opnd) (s : State) (hw : Memory.wf s.mem = true) :
    Fine (execCtz d a s) := by
  simp [execCtz, hw]

@[simp] theorem execPopc_fine (d : F6) (a : Opnd) (s : State) (hw : Memory.wf s.mem = true) :
    Fine (execPopc d a s) := by
  simp [execPopc, hw]

@[simp] theorem execBrev_fine (d : F6) (a : Opnd) (s : State) (hw : Memory.wf s.mem = true) :
    Fine (execBrev d a s) := by
  simp [execBrev, hw]

@[simp] theorem execBswap_fine (d : F6) (a : Opnd) (s : State) (hw : Memory.wf s.mem = true) :
    Fine (execBswap d a s) := by
  simp [execBswap, hw]

@[simp] theorem execMov_fine (d : F6) (a : Opnd) (s : State) (hw : Memory.wf s.mem = true) :
    Fine (execMov d a s) := by
  simp [execMov, hw]

@[simp] theorem execAddCompact_fine (d a b : F3) (s : State) (hw : Memory.wf s.mem = true) :
    Fine (execAddCompact d a b s) := by
  simp [execAddCompact, hw]

@[simp] theorem execSubCompact_fine (d a b : F3) (s : State) (hw : Memory.wf s.mem = true) :
    Fine (execSubCompact d a b s) := by
  simp [execSubCompact, hw]

@[simp] theorem execAndCompact_fine (d a b : F3) (s : State) (hw : Memory.wf s.mem = true) :
    Fine (execAndCompact d a b s) := by
  simp [execAndCompact, hw]

@[simp] theorem execOrCompact_fine (d a b : F3) (s : State) (hw : Memory.wf s.mem = true) :
    Fine (execOrCompact d a b s) := by
  simp [execOrCompact, hw]

@[simp] theorem execXorCompact_fine (d a b : F3) (s : State) (hw : Memory.wf s.mem = true) :
    Fine (execXorCompact d a b s) := by
  simp [execXorCompact, hw]

@[simp] theorem execShlCompact_fine (d a b : F3) (s : State) (hw : Memory.wf s.mem = true) :
    Fine (execShlCompact d a b s) := by
  simp [execShlCompact, hw]

@[simp] theorem execShrCompact_fine (d a b : F3) (s : State) (hw : Memory.wf s.mem = true) :
    Fine (execShrCompact d a b s) := by
  simp [execShrCompact, hw]

@[simp] theorem execSarCompact_fine (d a b : F3) (s : State) (hw : Memory.wf s.mem = true) :
    Fine (execSarCompact d a b s) := by
  simp [execSarCompact, hw]

@[simp] theorem execSeqCompact_fine (d a b : F3) (s : State) (hw : Memory.wf s.mem = true) :
    Fine (execSeqCompact d a b s) := by
  simp [execSeqCompact, hw]

@[simp] theorem execSltCompact_fine (d a b : F3) (s : State) (hw : Memory.wf s.mem = true) :
    Fine (execSltCompact d a b s) := by
  simp [execSltCompact, hw]

@[simp] theorem execMovCompact_fine (d a : F3) (s : State) (hw : Memory.wf s.mem = true) :
    Fine (execMovCompact d a s) := by
  simp [execMovCompact, hw]

@[simp] theorem execAddImmCompact_fine (d : F3) (l : F6) (s : State) (hw : Memory.wf s.mem = true) :
    Fine (execAddImmCompact d l s) := by
  simp [execAddImmCompact, hw]

@[simp] theorem execAndImmCompact_fine (d : F3) (l : F6) (s : State) (hw : Memory.wf s.mem = true) :
    Fine (execAndImmCompact d l s) := by
  simp [execAndImmCompact, hw]

@[simp] theorem execShlImmCompact_fine (d : F3) (l : F6) (s : State) (hw : Memory.wf s.mem = true) :
    Fine (execShlImmCompact d l s) := by
  simp [execShlImmCompact, hw]

@[simp] theorem execShrImmCompact_fine (d : F3) (l : F6) (s : State) (hw : Memory.wf s.mem = true) :
    Fine (execShrImmCompact d l s) := by
  simp [execShrImmCompact, hw]

@[simp] theorem execSarImmCompact_fine (d : F3) (l : F6) (s : State) (hw : Memory.wf s.mem = true) :
    Fine (execSarImmCompact d l s) := by
  simp [execSarImmCompact, hw]

@[simp] theorem execMovImmCompact_fine (d : F3) (l : F6) (s : State) (hw : Memory.wf s.mem = true) :
    Fine (execMovImmCompact d l s) := by
  simp [execMovImmCompact, hw]

@[simp] theorem execSel_fine (d : F6) (a b : Opnd) (s : State) (hw : Memory.wf s.mem = true) :
    Fine (execSel d a b s) := by
  refine issue_fine _ _ _ hw (fun t ht => ?_)
  simp [ht]

@[simp] theorem execMovy_fine (d y : F6) (s : State) (hw : Memory.wf s.mem = true) :
    Fine (execMovy d y s) := by
  unfold execMovy waitReply
  (repeat' first
    | split
    | refine issue_fine _ _ _ ‹_› (fun _ _ => ?_)
    | dsimp only) <;> simp [*]

@[simp] theorem execExt_fine (n : F6) (a : Opnd) (s : State) (hw : Memory.wf s.mem = true) :
    Fine (execExt n a s) := by
  unfold execExt
  (repeat' first
    | split
    | refine issue_fine _ _ _ ‹_› (fun _ _ => ?_)
    | dsimp only) <;> simp [*]

@[simp] theorem execMovx_fine (d n : F6) (s : State) (hw : Memory.wf s.mem = true) :
    Fine (execMovx d n s) := by
  simp [execMovx, hw]

@[simp] theorem execNop_fine (s : State) (hw : Memory.wf s.mem = true) :
    Fine (execNop s) := by
  simp [execNop, hw]

@[simp] theorem execNopCompact_fine (s : State) (hw : Memory.wf s.mem = true) :
    Fine (execNopCompact s) := by
  simp [execNopCompact, hw]

@[simp] theorem execExtL_fine (e : BitVec 24) (s : State) (hw : Memory.wf s.mem = true) :
    Fine (execExtL e s) := by
  simp [execExtL, hw]

@[simp] theorem execTs_fine (d : F6) (s : State) (hw : Memory.wf s.mem = true) :
    Fine (execTs d s) := by
  simp [execTs, hw]

@[simp] theorem execWho_fine (d item : F6) (s : State) (hw : Memory.wf s.mem = true) :
    Fine (execWho d item s) := by
  simp [execWho, hw]

@[simp] theorem branch_fine {w : Nat} (len : Nat) (taken : Word → Bool) (r : Opnd) (off : BitVec w) (s : State) (hw : Memory.wf s.mem = true) :
    Fine (branch len taken r off s) := by
  refine issue_fine _ _ _ hw (fun t ht => ?_)
  split <;> simp [ht]

@[simp] theorem execB_fine (off : BitVec 16) (s : State) (hw : Memory.wf s.mem = true) :
    Fine (execB off s) := by
  simp [execB, hw]

@[simp] theorem execBCompact_fine (l : F6) (s : State) (hw : Memory.wf s.mem = true) :
    Fine (execBCompact l s) := by
  simp [execBCompact, hw]

@[simp] theorem execBZ_fine (r : F6) (off : BitVec 16) (s : State) (hw : Memory.wf s.mem = true) :
    Fine (execBZ r off s) := by
  simp [execBZ, hw]

@[simp] theorem execBNz_fine (r : F6) (off : BitVec 16) (s : State) (hw : Memory.wf s.mem = true) :
    Fine (execBNz r off s) := by
  simp [execBNz, hw]

@[simp] theorem execBLtz_fine (r : F6) (off : BitVec 16) (s : State) (hw : Memory.wf s.mem = true) :
    Fine (execBLtz r off s) := by
  simp [execBLtz, hw]

@[simp] theorem execBGez_fine (r : F6) (off : BitVec 16) (s : State) (hw : Memory.wf s.mem = true) :
    Fine (execBGez r off s) := by
  simp [execBGez, hw]

@[simp] theorem execBGtz_fine (r : F6) (off : BitVec 16) (s : State) (hw : Memory.wf s.mem = true) :
    Fine (execBGtz r off s) := by
  simp [execBGtz, hw]

@[simp] theorem execBLez_fine (r : F6) (off : BitVec 16) (s : State) (hw : Memory.wf s.mem = true) :
    Fine (execBLez r off s) := by
  simp [execBLez, hw]

@[simp] theorem execBZCompact_fine (d : F3) (l : F6) (s : State) (hw : Memory.wf s.mem = true) :
    Fine (execBZCompact d l s) := by
  simp [execBZCompact, hw]

@[simp] theorem execBNzCompact_fine (d : F3) (l : F6) (s : State) (hw : Memory.wf s.mem = true) :
    Fine (execBNzCompact d l s) := by
  simp [execBNzCompact, hw]

@[simp] theorem execCall_fine (r : F6) (off : BitVec 16) (s : State) (hw : Memory.wf s.mem = true) :
    Fine (execCall r off s) := by
  refine issue_fine _ _ _ hw (fun t ht => ?_)
  simp [ht]

@[simp] theorem countLoop_fine {w : Nat} (len : Nat) (r : Nat) (off : BitVec w) (s : State) (hw : Memory.wf s.mem = true) :
    Fine (countLoop len r off s) := by
  refine issue_fine _ _ _ hw (fun t ht => ?_)
  dsimp only
  split <;> simp [ht]

@[simp] theorem execLoop_fine (r : F6) (off : BitVec 16) (s : State) (hw : Memory.wf s.mem = true) :
    Fine (execLoop r off s) := by
  simp [execLoop, hw]

@[simp] theorem execLoopCompact_fine (d : F3) (l : F6) (s : State) (hw : Memory.wf s.mem = true) :
    Fine (execLoopCompact d l s) := by
  simp [execLoopCompact, hw]

@[simp] theorem execJr_fine (a : Opnd) (s : State) (hw : Memory.wf s.mem = true) :
    Fine (execJr a s) := by
  refine issue_fine _ _ _ hw (fun t ht => ?_)
  dsimp only
  split <;> simp [ht]

@[simp] theorem execCallr_fine (d : F6) (a : Opnd) (s : State) (hw : Memory.wf s.mem = true) :
    Fine (execCallr d a s) := by
  refine issue_fine _ _ _ hw (fun t ht => ?_)
  dsimp only
  split <;> simp [ht]

theorem tryRelease_mem {s t : State} {scope : Nat} {all : Bool} (h : tryRelease s scope all = .waits t) :
    t.mem = s.mem := by
  unfold tryRelease at h
  dsimp only at h
  (repeat' split at h) <;> first
    | (injection h with h; subst h; rfl)
    | exact absurd h (by simp)

theorem releaseThen_fine (s : State) (scope code : Nat) (k : State → Res) (hw : Memory.wf s.mem = true)
    (hk : ∀ t, Memory.wf t.mem = true → Fine (k t)) : Fine (releaseThen s scope code k) := by
  unfold releaseThen
  split
  · exact hk s hw
  · next t ht => simp [tryRelease_mem ht, hw]

@[simp] theorem parkMineAs_fine (s : State) (va : Nat) (entry : Word) (addr : Nat) (detail : List Word) (hw : Memory.wf s.mem = true) :
    Fine (parkMineAs s va entry addr detail) := by
  unfold parkMineAs
  dsimp only
  split <;> simp [hw]

@[simp] theorem parkMine_fine (s : State) (va : Nat) (entry : Word) (hw : Memory.wf s.mem = true) :
    Fine (parkMine s va entry) := by
  simp [parkMine, hw]

@[simp] theorem parkMineFull_fine (s : State) (va : Nat) (p : Page) (hw : Memory.wf s.mem = true) :
    Fine (parkMineFull s va p) := by
  simp [parkMineFull, hw]

@[simp] theorem lookedUp_mem (s : State) (va cause : Nat) : (lookedUp s va cause).mem = s.mem := by
  unfold lookedUp
  split <;> simp

@[simp] theorem refuse_fine (s : State) (va : Nat) (lane : List Word) (v : Verdict) (hw : Memory.wf s.mem = true) :
    Fine (refuse s va lane v) := by
  unfold refuse
  split <;> simp [hw]

@[simp] theorem finishAllot_fine (d : F6) (a b : Opnd) (g : Nat × Nat) (s : State) (hw : Memory.wf s.mem = true) :
    Fine (finishAllot d a b g s) := by
  simp [finishAllot, hw]

@[simp] theorem execGrow_fine (d : F6) (a b : Opnd) (s : State) (hw : Memory.wf s.mem = true) :
    Fine (execGrow d a b s) := by
  refine issue_fine _ _ _ hw (fun t ht => ?_)
  dsimp only
  (repeat' split) <;> simp [ht]

@[simp] theorem execShrink_fine (d : F6) (a b : Opnd) (s : State) (hw : Memory.wf s.mem = true) :
    Fine (execShrink d a b s) := by
  refine issue_fine _ _ _ hw (fun t ht => ?_)
  dsimp only
  (repeat' split) <;> simp [ht]

@[simp] theorem execStart_fine (h : F6) (a target : Opnd) (s : State) (hw : Memory.wf s.mem = true) :
    Fine (execStart h a target s) := by
  unfold execStart
  dsimp only
  split
  · simp [hw]
  · refine issue_fine _ _ _ hw (fun t ht => ?_)
    (repeat' split) <;> simp [ht]

@[simp] theorem execYield_fine (s : State) (hw : Memory.wf s.mem = true) :
    Fine (execYield s) := by
  simp [execYield, hw]

@[simp] theorem execPortsel_fine (a : Opnd) (s : State) (hw : Memory.wf s.mem = true) :
    Fine (execPortsel a s) := by
  refine issue_fine _ _ _ hw (fun t ht => ?_)
  dsimp only
  split <;> simp [ht]

@[simp] theorem execWaitp_fine (d : F6) (a : Opnd) (s : State) (hw : Memory.wf s.mem = true) :
    Fine (execWaitp d a s) := by
  refine issue_fine _ _ _ hw (fun t ht => ?_)
  dsimp only
  split <;> simp [ht]

@[simp] theorem reportWalk_fine (s : State) (f : WalkFault) (hw : Memory.wf s.mem = true) :
    Fine (reportWalk s f) := by
  simp [reportWalk, hw]

@[simp] theorem haltHead_fine (keep : Nat) (srcs : List Opnd) (s : State) (hw : Memory.wf s.mem = true) :
    Fine (haltHead keep srcs s) := by
  unfold haltHead
  split
  · simp [hw]
  · split
    · next t ht => simp [tryRelease_mem ht, hw]
    · simp [hw]

@[simp] theorem haltSteps_fine (keep : Nat) (srcs : List Opnd) (s : State) (hw : Memory.wf s.mem = true) :
    Fine (haltSteps keep srcs s) := by
  unfold haltSteps
  (repeat' split) <;> simp [hw]

@[simp] theorem execHalt_fine (s : State) (hw : Memory.wf s.mem = true) :
    Fine (execHalt s) := by
  simp [execHalt, hw]

@[simp] theorem execHaltKeep_fine (a : Opnd) (s : State) (hw : Memory.wf s.mem = true) :
    Fine (execHaltKeep a s) := by
  unfold execHaltKeep
  split
  · simp [hw]
  · refine issue_fine _ _ _ hw (fun t ht => ?_)
    dsimp only
    (repeat' split) <;> simp [ht]

theorem arriveThen_fine (l code : Nat) (s : State) (k : State → Res) (hw : Memory.wf s.mem = true)
    (hk : ∀ t, Memory.wf t.mem = true → Fine (k t)) : Fine (arriveThen l code s k) := by
  unfold arriveThen
  split
  · simp [hw]
  · exact releaseThen_fine _ _ _ _ hw (fun t ht => hk _ (by simp [ht]))

@[simp] theorem waitFor_fine (l : Nat) (s : State) (hw : Memory.wf s.mem = true) :
    Fine (waitFor l s) := by
  unfold waitFor
  (repeat' split) <;> simp [hw]

@[simp] theorem execBara_fine (level : F6) (s : State) (hw : Memory.wf s.mem = true) : Fine (execBara level s) := by
  unfold execBara
  (repeat' split) <;> first
    | exact arriveThen_fine _ _ _ _ hw (fun t ht => by simp [ht])
    | simp [hw]

@[simp] theorem execBarw_fine (level : F6) (s : State) (hw : Memory.wf s.mem = true) :
    Fine (execBarw level s) := by
  unfold execBarw
  split <;> simp [hw]

@[simp] theorem execBar_fine (level : F6) (s : State) (hw : Memory.wf s.mem = true) : Fine (execBar level s) := by
  unfold execBar
  (repeat' split) <;> first
    | exact arriveThen_fine _ _ _ _ hw (fun t ht => by simp [ht])
    | simp [hw]

theorem vIssue_fine (n : Names) (ok : Ctx → Bool) (s : State) (k : State → Res) (hw : Memory.wf s.mem = true)
    (hk : ∀ t, Memory.wf t.mem = true → Fine (k t)) : Fine (vIssue n ok s k) := by
  unfold vIssue
  split
  · simp [hw]
  · exact issue_fine n s k hw hk

@[simp] theorem vFinish_fine (n : Names) (len : Nat) (d : F6) (r : VRes) (s : State) (hw : Memory.wf s.mem = true) :
    Fine (vFinish n len d r s) := by
  simp [vFinish, hw]

@[simp] theorem vector_fine (n : Names) (len : Nat) (d : F6) (ok : Ctx → Bool) (f : State → VRes) (s : State) (hw : Memory.wf s.mem = true) :
    Fine (vector n len d ok f s) := vIssue_fine _ _ _ _ hw (fun t ht => by simp [ht])

@[simp] theorem vArithI_fine (len : Nat) (opI : Int → Int → Int) (opV : RoundMode → Val → Val → Val × Flags) (d a b : F6) (s : State) (hw : Memory.wf s.mem = true) :
    Fine (vArithI len opI opV d a b s) := by
  simp [vArithI, hw]

@[simp] theorem execVadd_fine (d a b : F6) (s : State) (hw : Memory.wf s.mem = true) :
    Fine (execVadd d a b s) := by
  simp [execVadd, hw]

@[simp] theorem execVsub_fine (d a b : F6) (s : State) (hw : Memory.wf s.mem = true) :
    Fine (execVsub d a b s) := by
  simp [execVsub, hw]

@[simp] theorem execVmul_fine (d a b : F6) (s : State) (hw : Memory.wf s.mem = true) :
    Fine (execVmul d a b s) := by
  simp [execVmul, hw]

@[simp] theorem execVaddCompact_fine (d a b : F3) (s : State) (hw : Memory.wf s.mem = true) :
    Fine (execVaddCompact d a b s) := by
  simp [execVaddCompact, hw]

@[simp] theorem execVsubCompact_fine (d a b : F3) (s : State) (hw : Memory.wf s.mem = true) :
    Fine (execVsubCompact d a b s) := by
  simp [execVsubCompact, hw]

@[simp] theorem execVmulCompact_fine (d a b : F3) (s : State) (hw : Memory.wf s.mem = true) :
    Fine (execVmulCompact d a b s) := by
  simp [execVmulCompact, hw]

@[simp] theorem vPickI_fine (wantMax : Bool) (d a b : F6) (s : State) (hw : Memory.wf s.mem = true) :
    Fine (vPickI wantMax d a b s) := by
  simp [vPickI, hw]

@[simp] theorem execVmin_fine (d a b : F6) (s : State) (hw : Memory.wf s.mem = true) :
    Fine (execVmin d a b s) := by
  simp [execVmin, hw]

@[simp] theorem execVmax_fine (d a b : F6) (s : State) (hw : Memory.wf s.mem = true) :
    Fine (execVmax d a b s) := by
  simp [execVmax, hw]

@[simp] theorem vLogicI_fine (f : Vec → Vec → Vec) (d a b : F6) (s : State) (hw : Memory.wf s.mem = true) :
    Fine (vLogicI f d a b s) := by
  simp [vLogicI, hw]

@[simp] theorem execVand_fine (d a b : F6) (s : State) (hw : Memory.wf s.mem = true) :
    Fine (execVand d a b s) := by
  simp [execVand, hw]

@[simp] theorem execVor_fine (d a b : F6) (s : State) (hw : Memory.wf s.mem = true) :
    Fine (execVor d a b s) := by
  simp [execVor, hw]

@[simp] theorem execVxor_fine (d a b : F6) (s : State) (hw : Memory.wf s.mem = true) :
    Fine (execVxor d a b s) := by
  simp [execVxor, hw]

@[simp] theorem vShiftI_fine (k : ShiftKind) (d a : F6) (b : Opnd) (s : State) (hw : Memory.wf s.mem = true) :
    Fine (vShiftI k d a b s) := by
  simp [vShiftI, hw]

@[simp] theorem execVshl_fine (d a : F6) (b : Opnd) (s : State) (hw : Memory.wf s.mem = true) :
    Fine (execVshl d a b s) := by
  simp [execVshl, hw]

@[simp] theorem execVshr_fine (d a : F6) (b : Opnd) (s : State) (hw : Memory.wf s.mem = true) :
    Fine (execVshr d a b s) := by
  simp [execVshr, hw]

@[simp] theorem execVsar_fine (d a : F6) (b : Opnd) (s : State) (hw : Memory.wf s.mem = true) :
    Fine (execVsar d a b s) := by
  simp [execVsar, hw]

@[simp] theorem vCompareI_fine (r : Relation) (d a b : F6) (s : State) (hw : Memory.wf s.mem = true) :
    Fine (vCompareI r d a b s) := by
  simp [vCompareI, hw]

@[simp] theorem execVceq_fine (d a b : F6) (s : State) (hw : Memory.wf s.mem = true) :
    Fine (execVceq d a b s) := by
  simp [execVceq, hw]

@[simp] theorem execVclt_fine (d a b : F6) (s : State) (hw : Memory.wf s.mem = true) :
    Fine (execVclt d a b s) := by
  simp [execVclt, hw]

@[simp] theorem execVcle_fine (d a b : F6) (s : State) (hw : Memory.wf s.mem = true) :
    Fine (execVcle d a b s) := by
  simp [execVcle, hw]

@[simp] theorem execVbcst_fine (d : F6) (a : Opnd) (tag : F6) (s : State) (hw : Memory.wf s.mem = true) :
    Fine (execVbcst d a tag s) := by
  simp [execVbcst, hw]

@[simp] theorem execVred_fine (d a op : F6) (s : State) (hw : Memory.wf s.mem = true) :
    Fine (execVred d a op s) := by
  simp [execVred, hw]

@[simp] theorem execVscan_fine (d a op : F6) (s : State) (hw : Memory.wf s.mem = true) :
    Fine (execVscan d a op s) := by
  simp [execVscan, hw]

@[simp] theorem vConvertI_fine (mode : Option RoundMode) (d a tag : F6) (s : State) (hw : Memory.wf s.mem = true) :
    Fine (vConvertI mode d a tag s) := by
  simp [vConvertI, hw]

@[simp] theorem execVcvt_fine (d a tag : F6) (s : State) (hw : Memory.wf s.mem = true) :
    Fine (execVcvt d a tag s) := by
  simp [execVcvt, hw]

@[simp] theorem execVcvtRne_fine (d a tag : F6) (s : State) (hw : Memory.wf s.mem = true) :
    Fine (execVcvtRne d a tag s) := by
  simp [execVcvtRne, hw]

@[simp] theorem execVcvtRtz_fine (d a tag : F6) (s : State) (hw : Memory.wf s.mem = true) :
    Fine (execVcvtRtz d a tag s) := by
  simp [execVcvtRtz, hw]

@[simp] theorem execVcvtRdn_fine (d a tag : F6) (s : State) (hw : Memory.wf s.mem = true) :
    Fine (execVcvtRdn d a tag s) := by
  simp [execVcvtRdn, hw]

@[simp] theorem execVcvtRup_fine (d a tag : F6) (s : State) (hw : Memory.wf s.mem = true) :
    Fine (execVcvtRup d a tag s) := by
  simp [execVcvtRup, hw]

@[simp] theorem execVcvtRsto_fine (d a tag : F6) (s : State) (hw : Memory.wf s.mem = true) :
    Fine (execVcvtRsto d a tag s) := by
  simp [execVcvtRsto, hw]

@[simp] theorem execVretag_fine (d a tag : F6) (s : State) (hw : Memory.wf s.mem = true) :
    Fine (execVretag d a tag s) := by
  simp [execVretag, hw]

@[simp] theorem vFusedI_fine (len : Nat) (k : FusedKind) (d a b : F6) (s : State) (hw : Memory.wf s.mem = true) :
    Fine (vFusedI len k d a b s) := by
  simp [vFusedI, hw]

@[simp] theorem execVfma_fine (d a b : F6) (s : State) (hw : Memory.wf s.mem = true) :
    Fine (execVfma d a b s) := by
  simp [execVfma, hw]

@[simp] theorem execVfms_fine (d a b : F6) (s : State) (hw : Memory.wf s.mem = true) :
    Fine (execVfms d a b s) := by
  simp [execVfms, hw]

@[simp] theorem execVfnma_fine (d a b : F6) (s : State) (hw : Memory.wf s.mem = true) :
    Fine (execVfnma d a b s) := by
  simp [execVfnma, hw]

@[simp] theorem execVfmaCompact_fine (d a b : F3) (s : State) (hw : Memory.wf s.mem = true) :
    Fine (execVfmaCompact d a b s) := by
  simp [execVfmaCompact, hw]

@[simp] theorem execVsel_fine (d a b : F6) (s : State) (hw : Memory.wf s.mem = true) :
    Fine (execVsel d a b s) := by
  simp [execVsel, hw]

@[simp] theorem execVperm_fine (d a b : F6) (s : State) (hw : Memory.wf s.mem = true) :
    Fine (execVperm d a b s) := by
  simp [execVperm, hw]

@[simp] theorem vSignI_fine (negate : Bool) (d a : F6) (s : State) (hw : Memory.wf s.mem = true) :
    Fine (vSignI negate d a s) := by
  simp [vSignI, hw]

@[simp] theorem execVabs_fine (d a : F6) (s : State) (hw : Memory.wf s.mem = true) :
    Fine (execVabs d a s) := by
  simp [execVabs, hw]

@[simp] theorem execVneg_fine (d a : F6) (s : State) (hw : Memory.wf s.mem = true) :
    Fine (execVneg d a s) := by
  simp [execVneg, hw]

@[simp] theorem execVmov_fine (d a : F6) (s : State) (hw : Memory.wf s.mem = true) :
    Fine (execVmov d a s) := by
  simp [execVmov, hw]

theorem checkAccess_fine (s : State) (va n : Nat) (write vec : Bool) (k : Verdict → Res) (hw : Memory.wf s.mem = true)
    (hk : ∀ v, Fine (k v)) : Fine (checkAccess s va n write vec k) := by
  unfold checkAccess
  dsimp only
  (repeat' split) <;> simp [hw, hk]

@[simp] theorem loadScalar_fine (names : Names) (len d va n : Nat) (signed : Bool) (s : State) (hw : Memory.wf s.mem = true) :
    Fine (loadScalar names len d va n signed s) := by
  unfold loadScalar
  (repeat' first
    | split
    | refine checkAccess_fine _ _ _ _ _ _ ‹_› (fun _ => ?_)
    | dsimp only) <;> simp [*]

@[simp] theorem storeScalar_fine (names : Names) (len va n : Nat) (w : Word) (s : State) (hw : Memory.wf s.mem = true) :
    Fine (storeScalar names len va n w s) := by
  unfold storeScalar
  (repeat' first
    | split
    | refine checkAccess_fine _ _ _ _ _ _ ‹_› (fun _ => ?_)
    | dsimp only) <;> simp [*]

@[simp] theorem loadVector_fine (names : Names) (d : Nat) (t : Tag) (va : Nat) (s : State) (hw : Memory.wf s.mem = true) :
    Fine (loadVector names d t va s) := by
  unfold loadVector
  (repeat' first
    | split
    | refine checkAccess_fine _ _ _ _ _ _ ‹_› (fun _ => ?_)
    | dsimp only) <;> simp [*]

@[simp] theorem storeVector_fine (names : Names) (r va : Nat) (s : State) (hw : Memory.wf s.mem = true) :
    Fine (storeVector names r va s) := by
  unfold storeVector
  (repeat' first
    | split
    | refine checkAccess_fine _ _ _ _ _ _ ‹_› (fun _ => ?_)
    | dsimp only) <;> simp [*]

theorem checkElements_fine (s : State) (vas : List Nat) (n : Nat) (write : Bool)
    (k : List (Nat × Nat × Verdict) → Res) (hw : Memory.wf s.mem = true) (hk : ∀ js, Fine (k js)) : Fine (checkElements s vas n write k) := by
  unfold checkElements
  dsimp only
  split <;> simp [hw, hk]

@[simp] theorem gather_fine (names : Names) (d : Nat) (t : Tag) (vas : List Nat) (s : State) (hw : Memory.wf s.mem = true) :
    Fine (gather names d t vas s) := by
  unfold gather
  refine checkElements_fine s vas _ _ _ hw (fun js => finishCtx_fine _ _ _ _ ?_)
  rw [foldl_mem (gatherOne d _ t) (fun u j => gatherOne_mem _ _ _ u j)]
  simp [hw]

@[simp] theorem scatter_fine (names : Names) (r : Nat) (vas : List Nat) (s : State) (hw : Memory.wf s.mem = true) :
    Fine (scatter names r vas s) := by
  unfold scatter
  refine checkElements_fine s vas _ _ _ hw (fun js => finishCtx_fine _ _ _ _ ?_)
  exact foldl_wf _ (fun u j hu => performStore_wf _ _ _ _ _ _ hu) js (countV s) (by simp [hw])

@[simp] theorem execLoadReply_fine (lc c idx : Nat) (s : State) (hw : Memory.wf s.mem = true) :
    Fine (execLoadReply lc c idx s) := by
  unfold execLoadReply
  (repeat' split) <;> simp [hw]

@[simp] theorem execWriteAcknowledgement_fine (idx : Nat) (s : State) (hw : Memory.wf s.mem = true) :
    Fine (execWriteAcknowledgement idx s) := by
  unfold execWriteAcknowledgement
  (repeat' split) <;> (try dsimp only) <;> (repeat' split) <;> simp [hw]

@[simp] theorem execMillTakeOffer_fine (m : Nat) (prio : Bool) (s : State) (hw : Memory.wf s.mem = true) :
    Fine (execMillTakeOffer m prio s) := by
  unfold execMillTakeOffer
  dsimp only
  (repeat' split) <;> simp [hw]

@[simp] theorem execOfferArrival_fine (idx : Nat) (s : State) (hw : Memory.wf s.mem = true) :
    Fine (execOfferArrival idx s) := by
  unfold execOfferArrival
  dsimp only
  (repeat' split) <;> simp [hw]

@[simp] theorem execPriorityOfferArrival_fine (idx : Nat) (s : State) (hw : Memory.wf s.mem = true) :
    Fine (execPriorityOfferArrival idx s) := by
  unfold execPriorityOfferArrival
  dsimp only
  (repeat' split) <;> simp [hw]

@[simp] theorem execSettleArrival_fine (idx : Nat) (s : State) (hw : Memory.wf s.mem = true) :
    Fine (execSettleArrival idx s) := by
  unfold execSettleArrival
  (repeat' split) <;> simp [hw]

@[simp] theorem execReleaseArrival_fine (idx : Nat) (s : State) (hw : Memory.wf s.mem = true) :
    Fine (execReleaseArrival idx s) := by
  unfold execReleaseArrival
  (repeat' split) <;> simp [hw]

@[simp] theorem replyLands_fine (settle : Bool) (idx : Nat) (s : State) (hw : Memory.wf s.mem = true) :
    Fine (replyLands settle idx s) := by
  unfold replyLands
  dsimp only
  (repeat' split) <;> simp [hw]

@[simp] theorem execOfferReply_fine (idx : Nat) (s : State) (hw : Memory.wf s.mem = true) :
    Fine (execOfferReply idx s) := by
  simp [execOfferReply, hw]

@[simp] theorem execSettleReply_fine (idx : Nat) (s : State) (hw : Memory.wf s.mem = true) :
    Fine (execSettleReply idx s) := by
  simp [execSettleReply, hw]

@[simp] theorem execHoldAgeExpiry_fine (m e : Nat) (s : State) (hw : Memory.wf s.mem = true) :
    Fine (execHoldAgeExpiry m e s) := by
  unfold execHoldAgeExpiry
  (repeat' split) <;> simp [hw]

@[simp] theorem execSliceRetentionEntry_fine (k : Nat) (s : State) (hw : Memory.wf s.mem = true) : Fine (execSliceRetentionEntry k s) := by
  unfold execSliceRetentionEntry
  split
  · exact (fine_next _).mpr hw
  · refine (fine_next _).mpr ?_
    rw [modStack_mem, foldl_mem _ (fun t m => endHoldsAt_mem _ _ _ _)]
    exact hw

@[simp] theorem execSliceWake_fine (k : Nat) (s : State) (hw : Memory.wf s.mem = true) : Fine (execSliceWake k s) := by
  unfold execSliceWake
  split
  · exact (fine_next _).mpr hw
  · refine (fine_next _).mpr ?_
    rw [modStack_mem, foldl_mem _ (fun t m => endHoldsAt_mem _ _ _ _)]
    exact hw

theorem cleanThen_fine (s : State) (va : Nat) (k : State → Res) (hw : Memory.wf s.mem = true)
    (hk : ∀ t, Memory.wf t.mem = true → Fine (k t)) : Fine (cleanThen s va k) := by
  have h := flushAll_wf (lineWrites s s.cur.1 s.cur.2 (lineKey (asidOf s s.cur.1) va)) s hw
  unfold cleanThen
  dsimp only
  split
  · exact hk _ hw
  split
  · exact hk _ (by simp [hw])
  split
  · simp [hw]
  · split <;> rename_i heq <;> rw [heq] at h
    · exact hk _ (by simp [h])
    · split <;> simp [h]

@[simp] theorem offer_fine (op : OfferOp) (f32 : Bool) (d : F6) (y : F2) (a : F6) (b : Opnd) (s : State) (hw : Memory.wf s.mem = true) :
    Fine (offer op f32 d y a b s) := by
  unfold offer
  (repeat' first
    | split
    | refine vIssue_fine _ _ _ _ ‹_› (fun _ _ => ?_)
    | refine cleanThen_fine _ _ _ ‹_› (fun _ _ => ?_)
    | dsimp only) <;> simp [*]

@[simp] theorem execOfrAdd_fine (d : F6) (y : F2) (a : F6) (b : Opnd) (s : State) (hw : Memory.wf s.mem = true) :
    Fine (execOfrAdd d y a b s) := by
  simp [execOfrAdd, hw]

@[simp] theorem execOfrFma_fine (d : F6) (y : F2) (a : F6) (b : Opnd) (s : State) (hw : Memory.wf s.mem = true) :
    Fine (execOfrFma d y a b s) := by
  simp [execOfrFma, hw]

@[simp] theorem execOfrMin_fine (d : F6) (y : F2) (a : F6) (b : Opnd) (s : State) (hw : Memory.wf s.mem = true) :
    Fine (execOfrMin d y a b s) := by
  simp [execOfrMin, hw]

@[simp] theorem execOfrMax_fine (d : F6) (y : F2) (a : F6) (b : Opnd) (s : State) (hw : Memory.wf s.mem = true) :
    Fine (execOfrMax d y a b s) := by
  simp [execOfrMax, hw]

@[simp] theorem execOfrAnd_fine (d : F6) (y : F2) (a : F6) (b : Opnd) (s : State) (hw : Memory.wf s.mem = true) :
    Fine (execOfrAnd d y a b s) := by
  simp [execOfrAnd, hw]

@[simp] theorem execOfrOr_fine (d : F6) (y : F2) (a : F6) (b : Opnd) (s : State) (hw : Memory.wf s.mem = true) :
    Fine (execOfrOr d y a b s) := by
  simp [execOfrOr, hw]

@[simp] theorem execOfrXchg_fine (d : F6) (y : F2) (a : F6) (b : Opnd) (s : State) (hw : Memory.wf s.mem = true) :
    Fine (execOfrXchg d y a b s) := by
  simp [execOfrXchg, hw]

@[simp] theorem execOfrCas_fine (d : F6) (y : F2) (a : F6) (b : Opnd) (s : State) (hw : Memory.wf s.mem = true) :
    Fine (execOfrCas d y a b s) := by
  simp [execOfrCas, hw]

@[simp] theorem execOfrAddF32_fine (d : F6) (y : F2) (a : F6) (b : Opnd) (s : State) (hw : Memory.wf s.mem = true) :
    Fine (execOfrAddF32 d y a b s) := by
  simp [execOfrAddF32, hw]

@[simp] theorem execOfrFmaF32_fine (d : F6) (y : F2) (a : F6) (b : Opnd) (s : State) (hw : Memory.wf s.mem = true) :
    Fine (execOfrFmaF32 d y a b s) := by
  simp [execOfrFmaF32, hw]

@[simp] theorem execOfrMinF32_fine (d : F6) (y : F2) (a : F6) (b : Opnd) (s : State) (hw : Memory.wf s.mem = true) :
    Fine (execOfrMinF32 d y a b s) := by
  simp [execOfrMinF32, hw]

@[simp] theorem execOfrMaxF32_fine (d : F6) (y : F2) (a : F6) (b : Opnd) (s : State) (hw : Memory.wf s.mem = true) :
    Fine (execOfrMaxF32 d y a b s) := by
  simp [execOfrMaxF32, hw]

@[simp] theorem execSetl_fine (y : F2) (a : F6) (b : Opnd) (s : State) (hw : Memory.wf s.mem = true) :
    Fine (execSetl y a b s) := by
  refine issue_fine _ _ _ hw (fun t ht => ?_)
  dsimp only
  (repeat' split) <;> first
    | exact cleanThen_fine _ _ _ ht (fun u hu => by simp [hu])
    | simp [ht]

@[simp] theorem execRls_fine (y : F2) (a : F6) (s : State) (hw : Memory.wf s.mem = true) :
    Fine (execRls y a s) := by
  unfold execRls
  refine issue_fine _ _ _ hw (fun t ht => ?_)
  dsimp only
  (repeat' split) <;> simp [ht]

theorem loadAcquire_fine (names : Names) (d va scope : Nat) (check : State → (Verdict → Res) → Res) (s : State) (hw : Memory.wf s.mem = true)
    (hc : ∀ t k, Memory.wf t.mem = true → (∀ v, Fine (k v)) → Fine (check t k)) :
    Fine (loadAcquire names d va scope check s) := by
  unfold loadAcquire
  split
  · split <;> simp [hw]
  · exact hc s _ hw (fun v => by split <;> simp [hw])

theorem checkRefld_fine (s : State) (va : Nat) (k : Verdict → Res) (hw : Memory.wf s.mem = true) (hk : ∀ v, Fine (k v)) :
    Fine (checkRefld s va k) := by
  unfold checkRefld
  dsimp only
  (repeat' split) <;> simp [hw, hk]

@[simp] theorem execRefld_fine (d a : F6) (s : State) (hw : Memory.wf s.mem = true) :
    Fine (execRefld d a s) := by
  unfold execRefld
  (repeat' first
    | split
    | refine issue_fine _ _ _ ‹_› (fun _ _ => ?_)
    | refine checkRefld_fine _ _ _ ‹_› (fun _ => ?_)
    | dsimp only) <;> simp [*]

@[simp] theorem execRefldAcq_fine (d a scope : F6) (s : State) (hw : Memory.wf s.mem = true) :
    Fine (execRefldAcq d a scope s) := by
  exact issue_fine _ _ _ hw (fun t ht => loadAcquire_fine _ _ _ _ _ _ ht (fun u k hu hk =>
    checkRefld_fine _ _ _ hu hk))

@[simp] theorem refstLooked_mem (s : State) (g p cause : Nat) (detail : List Word) :
    (refstLooked s g p cause detail).mem = s.mem := by
  unfold refstLooked
  dsimp only
  (repeat' split) <;> simp

@[simp] theorem targetRead_mem (p : Nat) (s : State) : (targetRead p s).mem = s.mem := by
  unfold targetRead
  split <;> simp

theorem refstGoes_fine (x a : F6) (scope : Option Nat) (g : Nat) (page : Page) (w : Word) (kind : RefstKind) (look : State → State)
    (s : State) (hw : Memory.wf s.mem = true) (hl : ∀ u, (look u).mem = u.mem) :
    Fine (refstGoes x a scope g page w kind look s) := by
  have h : ∀ u, Memory.wf u.mem = true →
      Fine (finishCtx (refstNames x a) long (sendRefst g page w kind (look u)) id) := fun u hu =>
    finishCtx_fine _ _ _ _ (by rw [sendRefst_mem, hl]; exact hu)
  unfold refstGoes
  split
  · exact releaseThen_fine _ _ _ _ hw h
  · exact h s hw

@[simp] theorem refst_fine (x a : F6) (scope : Option Nat) (s : State) (hw : Memory.wf s.mem = true) :
    Fine (refst x a scope s) := by
  unfold refst
  refine issue_fine _ _ _ hw (fun t ht => ?_)
  dsimp only
  (repeat' split) <;> first
    | exact refstGoes_fine _ _ _ _ _ _ _ _ _ ht (fun u => rfl)
    | exact refstGoes_fine _ _ _ _ _ _ _ _ _ ht (fun u => targetRead_mem _ _)
    | simp [ht]

@[simp] theorem execRefst_fine (x a : F6) (s : State) (hw : Memory.wf s.mem = true) :
    Fine (execRefst x a s) := by
  simp [execRefst, hw]

@[simp] theorem execRefstRel_fine (x a scope : F6) (s : State) (hw : Memory.wf s.mem = true) :
    Fine (execRefstRel x a scope s) := by
  simp [execRefstRel, hw]

@[simp] theorem execPub_fine (d a scope : F6) (s : State) (hw : Memory.wf s.mem = true) :
    Fine (execPub d a scope s) := by
  refine issue_fine _ _ _ hw (fun t ht => ?_)
  dsimp only
  (repeat' split) <;> simp [ht]

@[simp] theorem execPubw_fine (a : F6) (s : State) (hw : Memory.wf s.mem = true) :
    Fine (execPubw a s) := by
  refine issue_fine _ _ _ hw (fun t ht => ?_)
  dsimp only
  (repeat' split) <;> simp [ht]

@[simp] theorem execWalkIdAssign_fine (idx : Nat) (s : State) (hw : Memory.wf s.mem = true) :
    Fine (execWalkIdAssign idx s) := by
  unfold execWalkIdAssign
  dsimp only
  (repeat' split) <;> simp [hw]

@[simp] theorem walkOr_wf (s : State) (t : Task) (w : Walk) (step : State) (hw : Memory.wf s.mem = true)
    (hs : Memory.wf step.mem = true) : Memory.wf (walkOr s t w step).mem = true := by
  unfold walkOr
  split <;> simp [hw, hs]

@[simp] theorem execWalkStart_fine (task : Nat) (s : State) (hw : Memory.wf s.mem = true) :
    Fine (execWalkStart task s) := by
  unfold execWalkStart
  (repeat' split) <;> simp [hw]

@[simp] theorem execWalkStep_fine (task : Nat) (s : State) (hw : Memory.wf s.mem = true) :
    Fine (execWalkStep task s) := by
  unfold execWalkStep
  (repeat' split) <;> simp [hw]

@[simp] theorem enqueueJob_fine (d : F6) (k : JobKind) (s : State) (hw : Memory.wf s.mem = true) :
    Fine (enqueueJob d k s) := by
  unfold enqueueJob
  split
  · simp [hw]
  · refine issue_fine _ _ _ hw (fun t ht => ?_)
    dsimp only
    (repeat' split) <;> simp [ht]

@[simp] theorem execMxmm_fine (d : F6) (acc : F3) (op : Opnd) (t : F6) (s : State) (hw : Memory.wf s.mem = true) :
    Fine (execMxmm d acc op t s) := by
  simp [execMxmm, hw]

@[simp] theorem execMxmmDup_fine (d : F6) (acc : F3) (op : Opnd) (t : F6) (s : State) (hw : Memory.wf s.mem = true) :
    Fine (execMxmmDup d acc op t s) := by
  simp [execMxmmDup, hw]

@[simp] theorem execMxz_fine (d acc : F6) (s : State) (hw : Memory.wf s.mem = true) :
    Fine (execMxz d acc s) := by
  simp [execMxz, hw]

@[simp] theorem execMxdrFp32_fine (d t acc : F6) (s : State) (hw : Memory.wf s.mem = true) :
    Fine (execMxdrFp32 d t acc s) := by
  simp [execMxdrFp32, hw]

@[simp] theorem execMxdrBf16_fine (d t acc : F6) (s : State) (hw : Memory.wf s.mem = true) :
    Fine (execMxdrBf16 d t acc s) := by
  simp [execMxdrBf16, hw]

@[simp] theorem execMxdrFp16_fine (d t acc : F6) (s : State) (hw : Memory.wf s.mem = true) :
    Fine (execMxdrFp16 d t acc s) := by
  simp [execMxdrFp16, hw]

@[simp] theorem execMxdrDm8_fine (d t acc : F6) (s : State) (hw : Memory.wf s.mem = true) :
    Fine (execMxdrDm8 d t acc s) := by
  simp [execMxdrDm8, hw]

@[simp] theorem execMxdrI8_fine (d t acc : F6) (s : State) (hw : Memory.wf s.mem = true) :
    Fine (execMxdrI8 d t acc s) := by
  simp [execMxdrI8, hw]

@[simp] theorem execWaitj_fine (a : Opnd) (s : State) (hw : Memory.wf s.mem = true) :
    Fine (execWaitj a s) := by
  unfold execWaitj
  (repeat' first
    | split
    | refine issue_fine _ _ _ ‹_› (fun _ _ => ?_)
    | dsimp only) <;> simp [*]

@[simp] theorem execPollj_fine (d : F6) (a : Opnd) (s : State) (hw : Memory.wf s.mem = true) :
    Fine (execPollj d a s) := by
  refine issue_fine _ _ _ hw (fun t ht => ?_)
  simp [ht]

@[simp] theorem execMxJobStart_fine (yard idx : Nat) (s : State) (hw : Memory.wf s.mem = true) :
    Fine (execMxJobStart yard idx s) := by
  unfold execMxJobStart
  (repeat' split) <;> simp [hw]

@[simp] theorem execMxJobComplete_fine (yard idx : Nat) (err : JobError) (s : State) (hw : Memory.wf s.mem = true) :
    Fine (execMxJobComplete yard idx err s) := by
  unfold execMxJobComplete
  (repeat' split) <;> simp [hw]

@[simp] theorem execEngineSprintClock_fine (yard : Nat) (s : State) (hw : Memory.wf s.mem = true) :
    Fine (execEngineSprintClock yard s) := by
  unfold execEngineSprintClock
  split <;> simp [hw]

@[simp] theorem execEngineClockDrop_fine (yard : Nat) (s : State) (hw : Memory.wf s.mem = true) :
    Fine (execEngineClockDrop yard s) := by
  unfold execEngineClockDrop
  split <;> simp [hw]

@[simp] theorem execResize_fine (d : F6) (a : Opnd) (s : State) (hw : Memory.wf s.mem = true) :
    Fine (execResize d a s) := by
  refine issue_fine _ _ _ hw (fun t ht => ?_)
  dsimp only
  (repeat' split) <;> simp [ht]

@[simp] theorem execSmap_fine (o a : F6) (b : Opnd) (s : State) (hw : Memory.wf s.mem = true) :
    Fine (execSmap o a b s) := by
  unfold execSmap
  (repeat' first
    | split
    | refine issue_fine _ _ _ ‹_› (fun _ _ => ?_)
    | dsimp only) <;> simp [*]

@[simp] theorem execSunmap_fine (o : F6) (s : State) (hw : Memory.wf s.mem = true) :
    Fine (execSunmap o s) := by
  unfold execSunmap
  (repeat' first
    | split
    | refine issue_fine _ _ _ ‹_› (fun _ _ => ?_)
    | dsimp only) <;> simp [*]

@[simp] theorem tdef_fine (tag : Tag) (t a : F6) (b : Opnd) (s : State) (hw : Memory.wf s.mem = true) :
    Fine (tdef tag t a b s) := by
  unfold tdef
  (repeat' first
    | split
    | refine issue_fine _ _ _ ‹_› (fun _ _ => ?_)
    | dsimp only) <;> simp [*]

@[simp] theorem execTdefRaw_fine (t a : F6) (b : Opnd) (s : State) (hw : Memory.wf s.mem = true) :
    Fine (execTdefRaw t a b s) := by
  simp [execTdefRaw, hw]

@[simp] theorem execTdefI8_fine (t a : F6) (b : Opnd) (s : State) (hw : Memory.wf s.mem = true) :
    Fine (execTdefI8 t a b s) := by
  simp [execTdefI8, hw]

@[simp] theorem execTdefI16_fine (t a : F6) (b : Opnd) (s : State) (hw : Memory.wf s.mem = true) :
    Fine (execTdefI16 t a b s) := by
  simp [execTdefI16, hw]

@[simp] theorem execTdefI32_fine (t a : F6) (b : Opnd) (s : State) (hw : Memory.wf s.mem = true) :
    Fine (execTdefI32 t a b s) := by
  simp [execTdefI32, hw]

@[simp] theorem execTdefN8_fine (t a : F6) (b : Opnd) (s : State) (hw : Memory.wf s.mem = true) :
    Fine (execTdefN8 t a b s) := by
  simp [execTdefN8, hw]

@[simp] theorem execTdefN16_fine (t a : F6) (b : Opnd) (s : State) (hw : Memory.wf s.mem = true) :
    Fine (execTdefN16 t a b s) := by
  simp [execTdefN16, hw]

@[simp] theorem execTdefN32_fine (t a : F6) (b : Opnd) (s : State) (hw : Memory.wf s.mem = true) :
    Fine (execTdefN32 t a b s) := by
  simp [execTdefN32, hw]

@[simp] theorem execTdefFp16_fine (t a : F6) (b : Opnd) (s : State) (hw : Memory.wf s.mem = true) :
    Fine (execTdefFp16 t a b s) := by
  simp [execTdefFp16, hw]

@[simp] theorem execTdefBf16_fine (t a : F6) (b : Opnd) (s : State) (hw : Memory.wf s.mem = true) :
    Fine (execTdefBf16 t a b s) := by
  simp [execTdefBf16, hw]

@[simp] theorem execTdefFp32_fine (t a : F6) (b : Opnd) (s : State) (hw : Memory.wf s.mem = true) :
    Fine (execTdefFp32 t a b s) := by
  simp [execTdefFp32, hw]

@[simp] theorem execTdefDm8_fine (t a : F6) (b : Opnd) (s : State) (hw : Memory.wf s.mem = true) :
    Fine (execTdefDm8 t a b s) := by
  simp [execTdefDm8, hw]

@[simp] theorem execTdefMask_fine (t a : F6) (b : Opnd) (s : State) (hw : Memory.wf s.mem = true) :
    Fine (execTdefMask t a b s) := by
  simp [execTdefMask, hw]

@[simp] theorem execTstat_fine (d t : F6) (s : State) (hw : Memory.wf s.mem = true) :
    Fine (execTstat d t s) := by
  refine issue_fine _ _ _ hw (fun t ht => ?_)
  simp [ht]

@[simp] theorem execTwait_fine (t : F6) (s : State) (hw : Memory.wf s.mem = true) :
    Fine (execTwait t s) := by
  unfold execTwait
  split <;> simp [hw]

@[simp] theorem execTfree_fine (t : F6) (s : State) (hw : Memory.wf s.mem = true) :
    Fine (execTfree t s) := by
  unfold execTfree
  split <;> simp [hw]

theorem push_fine (names : Names) (a : F6) (busy done : State → Res) (s : State) (hw : Memory.wf s.mem = true)
    (hb : ∀ t, Memory.wf t.mem = true → Fine (busy t)) (hd : ∀ t, Memory.wf t.mem = true → Fine (done t)) :
    Fine (push names a busy done s) := by
  refine issue_fine _ _ _ hw (fun t ht => ?_)
  dsimp only
  (repeat' split) <;> simp [ht, hb, hd]

@[simp] theorem execCpy_fine (a : F6) (s : State) (hw : Memory.wf s.mem = true) :
    Fine (execCpy a s) := by
  unfold execCpy
  exact push_fine _ _ _ _ _ hw (fun t ht => waitAt_fine t 0 ht) (fun t ht => finish_fine _ _ t _ ht)

@[simp] theorem execCpyt_fine (d a : F6) (s : State) (hw : Memory.wf s.mem = true) :
    Fine (execCpyt d a s) := by
  unfold execCpyt
  exact push_fine _ _ _ _ _ hw (fun t ht => finish_fine _ _ _ _ (by simp [ht])) (fun t ht => finish_fine _ _ t _ ht)

@[simp] theorem execCopyDescriptorRead_fine (yard idx : Nat) (s : State) (hw : Memory.wf s.mem = true) :
    Fine (execCopyDescriptorRead yard idx s) := by
  unfold execCopyDescriptorRead
  split
  · split
    · exact (fine_next _).mpr (readDesc_wf _ _ _ hw (fun t d ht => by
        (repeat' split) <;> simp [ht]))
    · simp [hw]
  · simp [hw]

@[simp] theorem execCopyLanding_fine (yard idx : Nat) (s : State) (hw : Memory.wf s.mem = true) :
    Fine (execCopyLanding yard idx s) := by
  unfold execCopyLanding
  (repeat' split) <;> simp [hw]

@[simp] theorem execCopyComplete_fine (yard idx : Nat) (s : State) (hw : Memory.wf s.mem = true) :
    Fine (execCopyComplete yard idx s) := by
  unfold execCopyComplete
  (repeat' split) <;> simp [hw]

@[simp] theorem execCopyAbandon_fine (yard idx : Nat) (s : State) (hw : Memory.wf s.mem = true) :
    Fine (execCopyAbandon yard idx s) := by
  unfold execCopyAbandon
  dsimp only
  (repeat' split) <;> simp [hw]

@[simp] theorem askDispatcher_fine (names : Names) (ra : Nat) (s : State) (hw : Memory.wf s.mem = true) :
    Fine (askDispatcher names ra s) := by
  unfold askDispatcher
  dsimp only
  have h := takeRecord_mem s ra (asidOf s s.cur.1) (partOfCore s s.cur.1).1 (partOfCore s s.cur.1).2
  split <;> next heq =>
    rw [heq] at h
    have h1 : Memory.wf _ = true := h ▸ hw
    simp [h1]

@[simp] theorem execLaunch_fine (d : F6) (a : Opnd) (s : State) (hw : Memory.wf s.mem = true) :
    Fine (execLaunch d a s) := by
  unfold execLaunch
  (repeat' first
    | split
    | refine issue_fine _ _ _ ‹_› (fun _ _ => ?_)
    | refine releaseThen_fine _ _ _ _ ‹_› (fun _ _ => ?_)
    | dsimp only) <;> simp [*]

@[simp] theorem execHostQueueEntry_fine (vf : Nat) (s : State) (hw : Memory.wf s.mem = true) :
    Fine (execHostQueueEntry vf s) := by
  unfold execHostQueueEntry
  dsimp only
  split
  · simp [hw]
  next ra rest _ =>
  split
  · simp [hw]
  split
  · simp [hw]
  have h := takeRecord_mem s ra (vfOf s vf).asid (vfOf s vf).part vf
  split <;> next heq =>
    rw [heq] at h
    have h1 : Memory.wf _ = true := h ▸ hw
    simp [h1]

@[simp] theorem execTaskReady_fine (task : Nat) (s : State) (hw : Memory.wf s.mem = true) :
    Fine (execTaskReady task s) := by
  unfold execTaskReady
  (repeat' split) <;> simp [hw]

@[simp] theorem execPriorityAgeing_fine (task : Nat) (s : State) (hw : Memory.wf s.mem = true) :
    Fine (execPriorityAgeing task s) := by
  unfold execPriorityAgeing
  (repeat' split) <;> simp [hw]

@[simp] theorem execStarvationHold_fine (task : Nat) (s : State) (hw : Memory.wf s.mem = true) :
    Fine (execStarvationHold task s) := by
  unfold execStarvationHold
  (repeat' split) <;> simp [hw]

@[simp] theorem execPlaceTask_fine (task : Nat) (cores : List Nat) (s : State) (hw : Memory.wf s.mem = true) :
    Fine (execPlaceTask task cores s) := by
  unfold execPlaceTask
  split
  · next t ht =>
    split
    · simp [hw]
    split
    · simp [hw]
    have h := readWords_mem t.asid 64 t.const [] s
    split <;> next heq =>
      rw [heq] at h
      have h1 : Memory.wf _ = true := h ▸ hw
      simp [h1]
  · simp [hw]

@[simp] theorem execTaskComplete_fine (task : Nat) (s : State) (hw : Memory.wf s.mem = true) :
    Fine (execTaskComplete task s) := by
  unfold execTaskComplete
  dsimp only
  (repeat' split) <;> simp [hw]

@[simp] theorem execStashRetentionLapse_fine (p : Nat) (s : State) (hw : Memory.wf s.mem = true) :
    Fine (execStashRetentionLapse p s) := by
  unfold execStashRetentionLapse
  split <;> simp [hw]

@[simp] theorem execThermalMigration_fine (lc p : Nat) (s : State) (hw : Memory.wf s.mem = true) :
    Fine (execThermalMigration lc p s) := by
  unfold execThermalMigration
  (try dsimp only)
  (repeat' split) <;> first
    | exact (fine_next _).mpr (fenceThen_wf _ _ _ hw (fun t ht => by simp [ht]))
    | simp [hw]

@[simp] theorem execSpatialPreemption_fine (lc v : Nat) (s : State) (hw : Memory.wf s.mem = true) :
    Fine (execSpatialPreemption lc v s) := by
  unfold execSpatialPreemption
  (try dsimp only)
  (repeat' split) <;> first
    | exact (fine_next _).mpr (fenceThen_wf _ _ _ hw (fun t ht => by simp [ht]))
    | simp [hw]

@[simp] theorem execUnfold_fine (lc p : Nat) (s : State) (hw : Memory.wf s.mem = true) :
    Fine (execUnfold lc p s) := by
  unfold execUnfold
  (try dsimp only)
  (repeat' split) <;> first
    | exact (fine_next _).mpr (fenceThen_wf _ _ _ hw (fun t ht => by simp [ht]))
    | simp [hw]

@[simp] theorem execLodging_fine (lc slot : Nat) (s : State) (hw : Memory.wf s.mem = true) :
    Fine (execLodging lc slot s) := by
  unfold execLodging
  (try dsimp only)
  (repeat' split) <;> first
    | exact (fine_next _).mpr (fenceThen_wf _ _ _ hw (fun t ht => by simp [ht]))
    | simp [hw]

@[simp] theorem execLodgeRestore_fine (lc p : Nat) (s : State) (hw : Memory.wf s.mem = true) :
    Fine (execLodgeRestore lc p s) := by
  unfold execLodgeRestore
  split
  · exact (fine_next _).mpr (foldl_wf _ (fun t c ht => by simp [ht]) _ _ (by simp [hw]))
  · simp [hw]

@[simp] theorem execRunningFunctionChange_fine (part vf : Nat) (s : State) (hw : Memory.wf s.mem = true) :
    Fine (execRunningFunctionChange part vf s) := by
  unfold execRunningFunctionChange
  split <;> simp [hw]

@[simp] theorem execSprint_fine (d : F6) (a : Opnd) (s : State) (hw : Memory.wf s.mem = true) :
    Fine (execSprint d a s) := by
  refine issue_fine _ _ _ hw (fun t ht => ?_)
  simp [ht]

@[simp] theorem execSprel_fine (s : State) (hw : Memory.wf s.mem = true) :
    Fine (execSprel s) := by
  unfold execSprel
  split <;> simp [hw]

@[simp] theorem execLeaseExpiry_fine (row : Nat) (s : State) (hw : Memory.wf s.mem = true) :
    Fine (execLeaseExpiry row s) := by
  unfold execLeaseExpiry
  split <;> simp [hw]

@[simp] theorem execRowClockRaise_fine (row : Nat) (s : State) (hw : Memory.wf s.mem = true) :
    Fine (execRowClockRaise row s) := by
  unfold execRowClockRaise
  dsimp only
  split <;> simp [hw]

@[simp] theorem execMeltUpdate_fine (permille : Nat) (s : State) (hw : Memory.wf s.mem = true) :
    Fine (execMeltUpdate permille s) := by
  unfold execMeltUpdate
  (repeat' split) <;> (try dsimp only) <;> (repeat' split) <;> simp [hw]

@[simp] theorem execTempThresholdCrossing_fine (n : Sensor) (tenths : Nat) (s : State) (hw : Memory.wf s.mem = true) :
    Fine (execTempThresholdCrossing n tenths s) := by
  unfold execTempThresholdCrossing
  dsimp only
  (repeat' split) <;> simp [hw]

@[simp] theorem execDwellEnd_fine (n : Sensor) (s : State) (hw : Memory.wf s.mem = true) :
    Fine (execDwellEnd n s) := by
  unfold execDwellEnd
  dsimp only
  (repeat' split) <;> simp [hw]

@[simp] theorem execCorePowerDown_fine (p : Nat) (s : State) (hw : Memory.wf s.mem = true) :
    Fine (execCorePowerDown p s) := by
  unfold execCorePowerDown
  split <;> simp [hw]

@[simp] theorem execPowerUpAdmit_fine (row : Nat) (s : State) (hw : Memory.wf s.mem = true) :
    Fine (execPowerUpAdmit row s) := by
  unfold execPowerUpAdmit
  dsimp only
  (repeat' split) <;> simp [hw]

@[simp] theorem execCoreReady_fine (p : Nat) (s : State) (hw : Memory.wf s.mem = true) :
    Fine (execCoreReady p s) := by
  unfold execCoreReady
  split
  · exact (fine_next _).mpr (foldl_wf _ (fun t c ht => by simp [ht]) _ _ (by simp [hw]))
  · simp [hw]

@[simp] theorem execLaneGate_fine (p : Nat) (s : State) (hw : Memory.wf s.mem = true) :
    Fine (execLaneGate p s) := by
  unfold execLaneGate
  split <;> simp [hw]

@[simp] theorem execDroopAlarm_fine (row depth : Nat) (s : State) (hw : Memory.wf s.mem = true) :
    Fine (execDroopAlarm row depth s) := by
  unfold execDroopAlarm
  dsimp only
  (repeat' split) <;> simp [hw]

@[simp] theorem execStretchEnd_fine (row : Nat) (s : State) (hw : Memory.wf s.mem = true) :
    Fine (execStretchEnd row s) := by
  unfold execStretchEnd
  dsimp only
  split <;> simp [hw]

@[simp] theorem execHalvedEnd_fine (row : Nat) (s : State) (hw : Memory.wf s.mem = true) :
    Fine (execHalvedEnd row s) := by
  unfold execHalvedEnd
  dsimp only
  split <;> simp [hw]

@[simp] theorem execInjectionPulseStart_fine (yard : Nat) (s : State) (hw : Memory.wf s.mem = true) :
    Fine (execInjectionPulseStart yard s) := by
  unfold execInjectionPulseStart
  split <;> simp [hw]

@[simp] theorem execInjectionPulseEnd_fine (yard : Nat) (s : State) (hw : Memory.wf s.mem = true) :
    Fine (execInjectionPulseEnd yard s) := by
  unfold execInjectionPulseEnd
  (repeat' split) <;> simp [hw]

theorem thenDo_fine {r : Res} {f : State → State} (hr : Fine r)
    (hf : ∀ t, Memory.wf t.mem = true → Memory.wf (f t).mem = true) : Fine (thenDo r f) := by
  obtain ⟨t, rfl, ht⟩ := hr
  exact (fine_next _).mpr (hf t ht)

@[simp] theorem turnRowCycle_fine (row depth : Nat) (s : State) (hw : Memory.wf s.mem = true) :
    Fine (turnRowCycle row depth s) := by
  unfold turnRowCycle
  split
  · exact thenDo_fine (by simp [hw]) (fun t ht => ht)
  · simp [hw]

@[simp] theorem turnRowNext_fine (row : Nat) (s : State) (hw : Memory.wf s.mem = true) : Fine (turnRowNext row s) := by
  unfold turnRowNext
  refine thenDo_fine ?_ (fun t ht => by simp [ht])
  (repeat' split) <;> simp [hw]

@[simp] theorem execMemoryRecordWrite_fine (idx : Nat) (s : State) (hw : Memory.wf s.mem = true) :
    Fine (execMemoryRecordWrite idx s) := by
  unfold execMemoryRecordWrite
  dsimp only
  (repeat' split) <;> simp [hw]

@[simp] theorem unlessStandby_fine (s t : State) (hw : Memory.wf s.mem = true) (ht : Memory.wf t.mem = true) :
    Fine (unlessStandby s t) := by
  unfold unlessStandby
  split <;> simp [hw, ht]

@[simp] theorem execMrsolveReplay_fine (rec : Nat) (s : State) (hw : Memory.wf s.mem = true) :
    Fine (execMrsolveReplay rec s) := by
  simp [execMrsolveReplay, hw]

@[simp] theorem execMrsolveUnmapped_fine (rec : Nat) (s : State) (hw : Memory.wf s.mem = true) :
    Fine (execMrsolveUnmapped rec s) := by
  simp [execMrsolveUnmapped, hw]

@[simp] theorem execTlbinvPage_fine (v : Word) (s : State) (hw : Memory.wf s.mem = true) :
    Fine (execTlbinvPage v s) := by
  simp [execTlbinvPage, hw]

@[simp] theorem execTlbinvAsid_fine (v : Word) (s : State) (hw : Memory.wf s.mem = true) :
    Fine (execTlbinvAsid v s) := by
  simp [execTlbinvAsid, hw]

@[simp] theorem execTlbinvDone_fine (s : State) (hw : Memory.wf s.mem = true) :
    Fine (execTlbinvDone s) := by
  unfold execTlbinvDone
  dsimp only
  split
  · refine (fine_next _).mpr ?_
    exact foldl_wf _ (fun t k ht => by split <;> simp [ht]) _ _ hw
  · simp [hw]

@[simp] theorem execHvcmdHarvest_fine (v : Word) (s : State) (hw : Memory.wf s.mem = true) :
    Fine (execHvcmdHarvest v s) := by
  simp [execHvcmdHarvest, hw]

@[simp] theorem execHarvestFrame_fine (s : State) (hw : Memory.wf s.mem = true) :
    Fine (execHarvestFrame s) := by
  unfold execHarvestFrame
  dsimp only
  (repeat' split) <;> simp [hw]

@[simp] theorem execChrateSwitch_fine (v : Word) (s : State) (hw : Memory.wf s.mem = true) :
    Fine (execChrateSwitch v s) := by
  simp [execChrateSwitch, hw]

@[simp] theorem execChrateSelect_fine (v : Word) (s : State) (hw : Memory.wf s.mem = true) :
    Fine (execChrateSelect v s) := by
  simp [execChrateSelect, hw]

@[simp] theorem execChrateSwitchDone_fine (k : Nat) (s : State) (hw : Memory.wf s.mem = true) :
    Fine (execChrateSwitchDone k s) := by
  unfold execChrateSwitchDone
  split <;> simp [hw]

@[simp] theorem execDictldLoad_fine (v : Word) (s : State) (hw : Memory.wf s.mem = true) :
    Fine (execDictldLoad v s) := by
  simp [execDictldLoad, hw]

@[simp] theorem execDictldDone_fine (k : Nat) (s : State) (hw : Memory.wf s.mem = true) :
    Fine (execDictldDone k s) := by
  unfold execDictldDone
  dsimp only
  (repeat' split) <;> simp [hw]

@[simp] theorem execGenerationRetire_fine (part gen : Nat) (s : State) (hw : Memory.wf s.mem = true) :
    Fine (execGenerationRetire part gen s) := by
  unfold execGenerationRetire
  dsimp only
  split
  · exact (fine_next _).mpr (foldl_wf _ (fun t c ht => by simp [ht]) _ _ (by simp [hw]))
  · simp [hw]

@[simp] theorem execDramRepair_fine (pa : Nat) (need : RepairNeed) (lost : Bool) (s : State) (hw : Memory.wf s.mem = true) :
    Fine (execDramRepair pa need lost s) := by
  unfold execDramRepair
  (repeat' split) <;> simp [hw]

@[simp] theorem execRowCopyComplete_fine (idx : Nat) (s : State) (hw : Memory.wf s.mem = true) :
    Fine (execRowCopyComplete idx s) := by
  simp [execRowCopyComplete, hw]

@[simp] theorem execRollback_fine (task : Nat) (s : State) (hw : Memory.wf s.mem = true) :
    Fine (execRollback task s) := by
  unfold execRollback
  (repeat' split) <;> simp [hw]

@[simp] theorem execBackInvalidate_fine (key half : Nat) (data : Bool) (s : State) (hw : Memory.wf s.mem = true) :
    Fine (execBackInvalidate key half data s) := by
  unfold execBackInvalidate
  dsimp only
  (repeat' split) <;> simp [hw]

@[simp] theorem execModuleReset_fine (b : BootInput) (s : State) (hw : Memory.wf s.mem = true) :
    Fine (execModuleReset b s) := by
  unfold execModuleReset
  split <;> simp [hw]

@[simp] theorem execHqdbWrite_fine (vf : Nat) (value : Word) (s : State) (hw : Memory.wf s.mem = true) :
    Fine (execHqdbWrite vf value s) := by
  unfold execHqdbWrite
  (repeat' split) <;> simp [hw]

@[simp] theorem execHostWindowAccess_fine (a : HostAccess) (s : State) (hw : Memory.wf s.mem = true) :
    Fine (execHostWindowAccess a s) := by
  have hr : ∀ (l : List (Nat × Nat × Page × Byte)) (acc : State × List Byte), Memory.wf acc.1.mem = true →
      Memory.wf (l.foldl (fun (acc : State × List Byte) e =>
        let x := hostRead acc.1 e.1 e.2.1 e.2.2.1
        (x.1, acc.2 ++ [x.2])) acc).1.mem = true := by
    intro l
    induction l with
    | nil => exact fun _ h => h
    | cons e l ih => exact fun acc h => ih _ (by simp [h])
  unfold execHostWindowAccess
  (repeat' split) <;> first
    | exact (fine_next _).mpr hw
    | exact (fine_next _).mpr ((hostMiss_mem s a).symm ▸ hw)
    | exact (fine_next _).mpr (foldl_wf _ (fun t e ht => by simp [ht]) _ _ hw)
    | exact (fine_next _).mpr (hr _ (s, []) hw)

@[simp] theorem execKeySlotWrite_fine (vf slot : Nat) (key : SlotKey) (s : State) (hw : Memory.wf s.mem = true) :
    Fine (execKeySlotWrite vf slot key s) := by
  unfold execKeySlotWrite
  split <;> simp [hw]

@[simp] theorem execAttestationQuote_fine (vf nonce : Nat) (s : State) (hw : Memory.wf s.mem = true) :
    Fine (execAttestationQuote vf nonce s) := by
  unfold execAttestationQuote
  (repeat' split) <;> simp [hw]

@[simp] theorem execDebugUnlock_fine (granted : Bool) (s : State) (hw : Memory.wf s.mem = true) :
    Fine (execDebugUnlock granted s) := by
  unfold execDebugUnlock
  split
  · exact (fine_next _).mpr (foldl_wf endTask (fun t c ht => endTask_wf t c ht) _ _ (dropLines_wf s _ hw))
  · simp [hw]

@[simp] theorem execIdleEntry_fine (s : State) (hw : Memory.wf s.mem = true) : Fine (execIdleEntry s) := by
  unfold execIdleEntry
  split
  · refine (fine_next _).mpr ?_
    simp only
    rw [foldl_mem _ (fun t k => by simp), foldl_mem _ (fun t m => endHoldsAt_mem _ _ _ _)]
    exact hw
  · simp [hw]

@[simp] theorem execRenairReceive_fine (die : Nat) (flits : Received) (s : State)
    (hw : Memory.wf s.mem = true) : Fine (execRenairReceive die flits s) := by
  unfold execRenairReceive
  split
  · simp [hw]
  · split
    · rename_i t ht
      simp [linkWrite_wf _ _ _ _ hw ht]
    · simp [hw]
    · simp [hw]
    · simp [hw]

@[simp] theorem execRenairSend_fine (die flits : Nat) (s : State) (hw : Memory.wf s.mem = true) :
    Fine (execRenairSend die flits s) := by
  unfold execRenairSend
  (repeat' split) <;> simp [*]

@[simp] theorem execReferenceTick_fine (s : State) (hw : Memory.wf s.mem = true) :
    Fine (execReferenceTick s) := by
  unfold execReferenceTick
  split
  · simp [hw]
  · exact (fine_next _).mpr (foldl_wf _ (fun t p ht => by simp [ht]) _ _ hw)

@[simp] theorem execSysrd_fine (d reg : F6) (s : State) (hw : Memory.wf s.mem = true) :
    Fine (execSysrd d reg s) := by
  unfold execSysrd
  (repeat' first
    | split
    | refine issue_fine _ _ _ ‹_› (fun _ _ => ?_)
    | dsimp only) <;> simp [*]

@[simp] theorem execSyswr_fine (reg : F6) (a : Opnd) (s : State) (hw : Memory.wf s.mem = true) :
    Fine (execSyswr reg a s) := by
  unfold execSyswr
  (repeat' first
    | split
    | refine issue_fine _ _ _ ‹_› (fun _ _ => ?_)
    | dsimp only) <;> simp [*]

@[simp] theorem execTrap_fine (n : F6) (s : State) (hw : Memory.wf s.mem = true) :
    Fine (execTrap n s) := by
  simp [execTrap, hw]

@[simp] theorem execBrk_fine (s : State) (hw : Memory.wf s.mem = true) :
    Fine (execBrk s) := by
  simp [execBrk, hw]

@[simp] theorem execReservedWord_fine (w : BitVec 32) (s : State) (hw : Memory.wf s.mem = true) :
    Fine (execReservedWord w s) := by
  simp [execReservedWord, hw]

@[simp] theorem execDeliveredTrap_fine (lc c : Nat) (s : State) (hw : Memory.wf s.mem = true) :
    Fine (execDeliveredTrap lc c s) := by
  unfold execDeliveredTrap
  split <;> simp [hw]

@[simp] theorem execHaltGroupStop_fine (lc c : Nat) (s : State) (hw : Memory.wf s.mem = true) :
    Fine (execHaltGroupStop lc c s) := by
  unfold execHaltGroupStop
  split <;> simp [hw]

@[simp] theorem execFaultPacketWrite_fine (die : Nat) (s : State) (hw : Memory.wf s.mem = true) :
    Fine (execFaultPacketWrite die s) := by
  unfold execFaultPacketWrite
  dsimp only
  (repeat' split) <;> simp [hw]

@[simp] theorem execPortWordDelivery_fine (idx : Nat) (s : State) (hw : Memory.wf s.mem = true) :
    Fine (execPortWordDelivery idx s) := by
  unfold execPortWordDelivery
  dsimp only
  (repeat' split) <;> simp [hw]

@[simp] theorem execDctlResume_fine (lc c : Nat) (s : State) (hw : Memory.wf s.mem = true) :
    Fine (execDctlResume lc c s) := by
  simp [execDctlResume, hw]

@[simp] theorem execDctlStep_fine (lc c : Nat) (s : State) (hw : Memory.wf s.mem = true) :
    Fine (execDctlStep lc c s) := by
  simp [execDctlStep, hw]

@[simp] theorem execDctlEnd_fine (lc c : Nat) (s : State) (hw : Memory.wf s.mem = true) :
    Fine (execDctlEnd lc c s) := by
  unfold execDctlEnd
  split <;> simp [hw]

@[simp] theorem execDctlStop_fine (lc c : Nat) (s : State) (hw : Memory.wf s.mem = true) :
    Fine (execDctlStop lc c s) := by
  simp [execDctlStop, hw]

@[simp] theorem execAllotWrite_fine (lc c : Nat) (v : Word) (s : State) (hw : Memory.wf s.mem = true) :
    Fine (execAllotWrite lc c v s) := by
  simp [execAllotWrite, hw]

@[simp] theorem execPcWrite_fine (lc c : Nat) (v : Word) (s : State) (hw : Memory.wf s.mem = true) :
    Fine (execPcWrite lc c v s) := by
  simp [execPcWrite, hw]

@[simp] theorem execFmodeWrite_fine (lc c : Nat) (v : Word) (s : State) (hw : Memory.wf s.mem = true) :
    Fine (execFmodeWrite lc c v s) := by
  simp [execFmodeWrite, hw]

@[simp] theorem execSrgWrite_fine (lc c : Nat) (v : Word) (s : State) (hw : Memory.wf s.mem = true) :
    Fine (execSrgWrite lc c v s) := by
  simp [execSrgWrite, hw]

@[simp] theorem execClkdivWrite_fine (p : Nat) (v : Word) (s : State) (hw : Memory.wf s.mem = true) :
    Fine (execClkdivWrite p v s) := by
  simp [execClkdivWrite, hw]

@[simp] theorem execLeaseRenew_fine (row : Nat) (v : Word) (s : State) (hw : Memory.wf s.mem = true) :
    Fine (execLeaseRenew row v s) := by
  simp [execLeaseRenew, hw]

@[simp] theorem execRegisterWrite_fine (r : RegAddr) (v : Word) (s : State) (hw : Memory.wf s.mem = true) :
    Fine (execRegisterWrite r v s) := by
  unfold execRegisterWrite
  (repeat' split) <;> simp [hw]

@[simp] theorem loadAny_fine (names : Names) (len d va n : Nat) (signed : Bool) (s : State) (hw : Memory.wf s.mem = true) :
    Fine (loadAny names len d va n signed s) := by
  unfold loadAny
  split <;> simp [hw]

@[simp] theorem storeAny_fine (names : Names) (len va n : Nat) (v : Word) (s : State) (hw : Memory.wf s.mem = true) :
    Fine (storeAny names len va n v s) := by
  unfold storeAny
  split <;> simp [hw]

@[simp] theorem loadM_fine (d base : F6) (off : BitVec 12) (n : Nat) (s : State) (hw : Memory.wf s.mem = true) :
    Fine (loadM d base off n s) := by
  refine issue_fine _ _ _ hw (fun t ht => ?_)
  simp [ht]

@[simp] theorem storeM_fine (x base : F6) (off : BitVec 12) (n : Nat) (s : State) (hw : Memory.wf s.mem = true) :
    Fine (storeM x base off n s) := by
  refine issue_fine _ _ _ hw (fun t ht => ?_)
  simp [ht]

@[simp] theorem loadZ_fine (d a k : F6) (n : Nat) (s : State) (hw : Memory.wf s.mem = true) :
    Fine (loadZ d a k n s) := by
  refine issue_fine _ _ _ hw (fun t ht => ?_)
  simp [ht]

@[simp] theorem loadC_fine (d base off : F3) (n : Nat) (s : State) (hw : Memory.wf s.mem = true) :
    Fine (loadC d base off n s) := by
  refine issue_fine _ _ _ hw (fun t ht => ?_)
  simp [ht]

@[simp] theorem storeC_fine (x base off : F3) (n : Nat) (s : State) (hw : Memory.wf s.mem = true) :
    Fine (storeC x base off n s) := by
  refine issue_fine _ _ _ hw (fun t ht => ?_)
  simp [ht]

@[simp] theorem execLdB_fine (d base : F6) (off : BitVec 12) (s : State) (hw : Memory.wf s.mem = true) :
    Fine (execLdB d base off s) := by
  simp [execLdB, hw]

@[simp] theorem execLdH_fine (d base : F6) (off : BitVec 12) (s : State) (hw : Memory.wf s.mem = true) :
    Fine (execLdH d base off s) := by
  simp [execLdH, hw]

@[simp] theorem execLdW_fine (d base : F6) (off : BitVec 12) (s : State) (hw : Memory.wf s.mem = true) :
    Fine (execLdW d base off s) := by
  simp [execLdW, hw]

@[simp] theorem execLd_fine (d base : F6) (off : BitVec 12) (s : State) (hw : Memory.wf s.mem = true) :
    Fine (execLd d base off s) := by
  simp [execLd, hw]

@[simp] theorem execStB_fine (x base : F6) (off : BitVec 12) (s : State) (hw : Memory.wf s.mem = true) :
    Fine (execStB x base off s) := by
  simp [execStB, hw]

@[simp] theorem execStH_fine (x base : F6) (off : BitVec 12) (s : State) (hw : Memory.wf s.mem = true) :
    Fine (execStH x base off s) := by
  simp [execStH, hw]

@[simp] theorem execStW_fine (x base : F6) (off : BitVec 12) (s : State) (hw : Memory.wf s.mem = true) :
    Fine (execStW x base off s) := by
  simp [execStW, hw]

@[simp] theorem execSt_fine (x base : F6) (off : BitVec 12) (s : State) (hw : Memory.wf s.mem = true) :
    Fine (execSt x base off s) := by
  simp [execSt, hw]

@[simp] theorem execLdBz_fine (d a k : F6) (s : State) (hw : Memory.wf s.mem = true) :
    Fine (execLdBz d a k s) := by
  simp [execLdBz, hw]

@[simp] theorem execLdHz_fine (d a k : F6) (s : State) (hw : Memory.wf s.mem = true) :
    Fine (execLdHz d a k s) := by
  simp [execLdHz, hw]

@[simp] theorem execLdWz_fine (d a k : F6) (s : State) (hw : Memory.wf s.mem = true) :
    Fine (execLdWz d a k s) := by
  simp [execLdWz, hw]

@[simp] theorem execLdCompact_fine (d base off : F3) (s : State) (hw : Memory.wf s.mem = true) :
    Fine (execLdCompact d base off s) := by
  simp [execLdCompact, hw]

@[simp] theorem execStCompact_fine (d base off : F3) (s : State) (hw : Memory.wf s.mem = true) :
    Fine (execStCompact d base off s) := by
  simp [execStCompact, hw]

@[simp] theorem execLdWCompact_fine (d base off : F3) (s : State) (hw : Memory.wf s.mem = true) :
    Fine (execLdWCompact d base off s) := by
  simp [execLdWCompact, hw]

@[simp] theorem execStWCompact_fine (d base off : F3) (s : State) (hw : Memory.wf s.mem = true) :
    Fine (execStWCompact d base off s) := by
  simp [execStWCompact, hw]

@[simp] theorem execLdAcq_fine (d a scope : F6) (s : State) (hw : Memory.wf s.mem = true) :
    Fine (execLdAcq d a scope s) := by
  exact issue_fine _ _ _ hw (fun t ht => loadAcquire_fine _ _ _ _ _ _ ht (fun u k hu hk =>
    checkAccess_fine _ _ _ _ _ _ hu hk))

@[simp] theorem storeThrough_fine (names : Names) (scope va : Nat) (w : Word) (s : State) (hw : Memory.wf s.mem = true) :
    Fine (storeThrough names scope va w s) := by
  refine checkAccess_fine _ _ _ _ _ _ hw (fun v => ?_)
  (repeat' split) <;> (try dsimp only) <;> (repeat' split) <;> simp [hw]

@[simp] theorem execStRel_fine (x a scope : F6) (s : State) (hw : Memory.wf s.mem = true) :
    Fine (execStRel x a scope s) := by
  unfold execStRel
  (repeat' first
    | split
    | refine issue_fine _ _ _ ‹_› (fun _ _ => ?_)
    | refine releaseThen_fine _ _ _ _ ‹_› (fun _ _ => ?_)
    | refine checkAccess_fine _ _ _ _ _ _ ‹_› (fun _ => ?_)
    | dsimp only) <;> simp [*]

@[simp] theorem acquireThen_fine (s : State) (scope : Nat) (hw : Memory.wf s.mem = true) :
    Fine (acquireThen s scope) := by
  unfold acquireThen
  split <;> simp [hw]

@[simp] theorem execFence_fine (scope : F6) (s : State) (hw : Memory.wf s.mem = true) :
    Fine (execFence scope s) := by
  unfold execFence
  (repeat' first
    | split
    | refine releaseThen_fine _ _ _ _ ‹_› (fun _ _ => ?_)
    | dsimp only) <;> simp [*]

@[simp] theorem execFenceAcq_fine (scope : F6) (s : State) (hw : Memory.wf s.mem = true) :
    Fine (execFenceAcq scope s) := by
  simp [execFenceAcq, hw]

@[simp] theorem execFenceRel_fine (scope : F6) (s : State) (hw : Memory.wf s.mem = true) :
    Fine (execFenceRel scope s) := by
  unfold execFenceRel
  (repeat' first
    | split
    | refine releaseThen_fine _ _ _ _ ‹_› (fun _ _ => ?_)
    | dsimp only) <;> simp [*]

@[simp] theorem loadVecAny_fine (names : Names) (d : Nat) (t : Tag) (va : Nat) (s : State) (hw : Memory.wf s.mem = true) :
    Fine (loadVecAny names d t va s) := by
  unfold loadVecAny
  split <;> simp [hw]

@[simp] theorem storeVecAny_fine (names : Names) (r va : Nat) (s : State) (hw : Memory.wf s.mem = true) :
    Fine (storeVecAny names r va s) := by
  unfold storeVecAny
  dsimp only
  split <;> simp [hw]

@[simp] theorem vld_fine (t : Tag) (d a : F6) (b : Opnd) (s : State) (hw : Memory.wf s.mem = true) :
    Fine (vld t d a b s) := by
  unfold vld
  (repeat' first
    | split
    | refine issue_fine _ _ _ ‹_› (fun _ _ => ?_)
    | refine vIssue_fine _ _ _ _ ‹_› (fun _ _ => ?_)
    | dsimp only) <;> simp [*]

@[simp] theorem execVldRaw_fine (d a : F6) (b : Opnd) (s : State) (hw : Memory.wf s.mem = true) :
    Fine (execVldRaw d a b s) := by
  simp [execVldRaw, hw]

@[simp] theorem execVldI8_fine (d a : F6) (b : Opnd) (s : State) (hw : Memory.wf s.mem = true) :
    Fine (execVldI8 d a b s) := by
  simp [execVldI8, hw]

@[simp] theorem execVldI16_fine (d a : F6) (b : Opnd) (s : State) (hw : Memory.wf s.mem = true) :
    Fine (execVldI16 d a b s) := by
  simp [execVldI16, hw]

@[simp] theorem execVldI32_fine (d a : F6) (b : Opnd) (s : State) (hw : Memory.wf s.mem = true) :
    Fine (execVldI32 d a b s) := by
  simp [execVldI32, hw]

@[simp] theorem execVldN8_fine (d a : F6) (b : Opnd) (s : State) (hw : Memory.wf s.mem = true) :
    Fine (execVldN8 d a b s) := by
  simp [execVldN8, hw]

@[simp] theorem execVldN16_fine (d a : F6) (b : Opnd) (s : State) (hw : Memory.wf s.mem = true) :
    Fine (execVldN16 d a b s) := by
  simp [execVldN16, hw]

@[simp] theorem execVldN32_fine (d a : F6) (b : Opnd) (s : State) (hw : Memory.wf s.mem = true) :
    Fine (execVldN32 d a b s) := by
  simp [execVldN32, hw]

@[simp] theorem execVldFp16_fine (d a : F6) (b : Opnd) (s : State) (hw : Memory.wf s.mem = true) :
    Fine (execVldFp16 d a b s) := by
  simp [execVldFp16, hw]

@[simp] theorem execVldBf16_fine (d a : F6) (b : Opnd) (s : State) (hw : Memory.wf s.mem = true) :
    Fine (execVldBf16 d a b s) := by
  simp [execVldBf16, hw]

@[simp] theorem execVldFp32_fine (d a : F6) (b : Opnd) (s : State) (hw : Memory.wf s.mem = true) :
    Fine (execVldFp32 d a b s) := by
  simp [execVldFp32, hw]

@[simp] theorem execVldDm8_fine (d a : F6) (b : Opnd) (s : State) (hw : Memory.wf s.mem = true) :
    Fine (execVldDm8 d a b s) := by
  simp [execVldDm8, hw]

@[simp] theorem execVldMask_fine (d a k : F6) (s : State) (hw : Memory.wf s.mem = true) :
    Fine (execVldMask d a k s) := by
  refine issue_fine _ _ _ hw (fun t ht => ?_)
  simp [ht]

@[simp] theorem execVst_fine (x a : F6) (b : Opnd) (s : State) (hw : Memory.wf s.mem = true) :
    Fine (execVst x a b s) := by
  unfold execVst
  (repeat' first
    | split
    | refine issue_fine _ _ _ ‹_› (fun _ _ => ?_)
    | refine vIssue_fine _ _ _ _ ‹_› (fun _ _ => ?_)
    | dsimp only) <;> simp [*]

@[simp] theorem fetchFails_fine (s : State) (lc c va : Nat) (entry : Word) (hw : Memory.wf s.mem = true) :
    Fine (fetchFails s lc c va entry) := by
  simp [fetchFails, hw]

end Sys2Proof.Machine
end

