-- ==== Sys2Proof/Tests/Slice0.lean ====
section
/-! SUPPORT. Tests: words written out from the opcode table of the spec and from its examples, ill-formed terms, single
steps, and a state that meets the hypotheses of each statement. -/

set_option Elab.async false

open Sys2Proof Sys2Proof.Machine

namespace Sys2Proof.Tests

/-! ### Words (spec/opcode_table.json, spec/03_encoding.md): each constructor's word decodes to it -/

/-- Each word, of n bits, decodes to its instruction, and the instruction encodes as the word. -/
abbrev Decodes (n : Nat) (l : List (Nat × Instr)) : Prop :=
  ∀ e ∈ l, decodeTableWord n e.1 = some e.2 ∧ encode e.2 = (tableBytes n e.1).take (n / 8)

theorem test_decode_integer : Decodes 32 [
    (0x04EA0583, .add 11 (.s 20) (.lit 9)), (0x24EA0583, .sub 11 (.s 20) (.lit 9)),
    (0x44EA0583, .and 11 (.s 20) (.lit 9)), (0x64EA0583, .or 11 (.s 20) (.lit 9)),
    (0x84EA0583, .xor 11 (.s 20) (.lit 9)), (0xA4EA0583, .shl 11 (.s 20) (.lit 9)),
    (0xC4EA0583, .shr 11 (.s 20) (.lit 9)), (0xE4EA0583, .sar 11 (.s 20) (.lit 9))] := by decide
theorem test_decode_multiply : Decodes 32 [
    (0x04EA0587, .mul 11 (.s 20) (.lit 9)), (0x24EA0587, .mulh 11 (.s 20) (.lit 9)),
    (0x44EA0587, .mulhn 11 (.s 20) (.lit 9)), (0x64EA0587, .div 11 (.s 20) (.lit 9)),
    (0x84EA0587, .divn 11 (.s 20) (.lit 9)), (0xA4EA0587, .rem 11 (.s 20) (.lit 9)),
    (0xC4EA0587, .remn 11 (.s 20) (.lit 9))] := by decide
theorem test_decode_compare : Decodes 32 [
    (0x04EA058B, .seq 11 (.s 20) (.lit 9)), (0x24EA058B, .sne 11 (.s 20) (.lit 9)),
    (0x44EA058B, .slt 11 (.s 20) (.lit 9)), (0x64EA058B, .sltn 11 (.s 20) (.lit 9)),
    (0x84EA058B, .sle 11 (.s 20) (.lit 9)), (0xA4EA058B, .slen 11 (.s 20) (.lit 9)),
    (0xC4EA058B, .min 11 (.s 20) (.lit 9)), (0xE4EA058B, .max 11 (.s 20) (.lit 9))] := by decide
theorem test_decode_bits : Decodes 32 [
    (0x000A058F, .clz 11 (.s 20)), (0x200A058F, .ctz 11 (.s 20)), (0x400A058F, .popc 11 (.s 20)),
    (0x600A058F, .brev 11 (.s 20)), (0x800A058F, .bswap 11 (.s 20)), (0xA00A058F, .mov 11 (.s 20)),
    (0xC000E58F, .movy 11 1), (0xE4EA058F, .sext 11 (.s 20) (.lit 9))] := by decide
theorem test_decode_select_extension : Decodes 32 [
    (0x04EA0593, .sel 11 (.s 20) (.lit 9)), (0x24EA0593, .minn 11 (.s 20) (.lit 9)),
    (0x44EA0593, .maxn 11 (.s 20) (.lit 9)), (0x600A0313, .ext 6 (.s 20)), (0x80000013, .nop), (0xA0000593, .ts 11),
    (0xC002E593, .who 11 5), (0xE0036593, .movx 11 6)] := by decide
theorem test_decode_compact_literals : Decodes 16 [
    (0x0001, .nopCompact), (0x1481, .addImmCompact 1 5), (0x1485, .andImmCompact 1 5), (0x1489, .shlImmCompact 1 5),
    (0x148D, .shrImmCompact 1 5), (0x1491, .sarImmCompact 1 5), (0x1495, .movImmCompact 1 5),
    (0x1499, .bZCompact 1 5), (0x149D, .bNzCompact 1 5), (0x1421, .bCompact 5),
    (0x14A5, .loopCompact 1 5)] := by decide
theorem test_decode_ext_l : Decodes 32 [
    (0x1234567F, .extL 1193046)] := by decide
theorem test_decode_load_narrow : Decodes 32 [
    (0x00286597, .ldB 11 3 5), (0x80286597, .ldH 11 3 5)] := by decide
theorem test_decode_load : Decodes 32 [
    (0x0028659B, .ldW 11 3 5), (0x8028659B, .ld 11 3 5)] := by decide
theorem test_decode_store_narrow : Decodes 32 [
    (0x0028659F, .stB 11 3 5), (0x8028659F, .stH 11 3 5)] := by decide
theorem test_decode_store : Decodes 32 [
    (0x002865A3, .stW 11 3 5), (0x802865A3, .st 11 3 5)] := by decide
theorem test_decode_ordering : Decodes 32 [
    (0x01EA05A7, .ldAcq 11 20 3), (0x21EA06A7, .stRel 13 20 3), (0x41E00027, .fence 3), (0x61E00027, .fenceAcq 3),
    (0x81E00027, .fenceRel 3), (0xA26A05A7, .ldBz 11 20 4), (0xC26A05A7, .ldHz 11 20 4),
    (0xE26A05A7, .ldWz 11 20 4)] := by decide
theorem test_decode_vld_low : Decodes 32 [
    (0x04EA05AB, .vldRaw 11 20 (.lit 9)), (0x24EA05AB, .vldI8 11 20 (.lit 9)), (0x44EA05AB, .vldI16 11 20 (.lit 9)),
    (0x64EA05AB, .vldI32 11 20 (.lit 9)), (0x84EA05AB, .vldN8 11 20 (.lit 9)), (0xA4EA05AB, .vldN16 11 20 (.lit 9)),
    (0xC4EA05AB, .vldN32 11 20 (.lit 9)), (0xE4EA05AB, .vldFp16 11 20 (.lit 9))] := by decide
theorem test_decode_vld_high : Decodes 32 [
    (0x04EA05AF, .vldBf16 11 20 (.lit 9)), (0x24EA05AF, .vldFp32 11 20 (.lit 9)),
    (0x44EA05AF, .vldDm8 11 20 (.lit 9)), (0x626A05AF, .vldMask 11 20 4)] := by decide
theorem test_decode_vst_tiles : Decodes 32 [
    (0x04EA06B3, .vst 13 20 (.lit 9)), (0x200AE5B3, .tstat 11 21), (0x400AE033, .twait 21), (0x600AE033, .tfree 21),
    (0x800A05B3, .resize 11 (.s 20)), (0xA4EA0733, .smap 14 20 (.lit 9)), (0xC0070033, .sunmap 14)] := by decide
theorem test_decode_tdef_low : Decodes 32 [
    (0x04EA0AB7, .tdefRaw 21 20 (.lit 9)), (0x24EA0AB7, .tdefI8 21 20 (.lit 9)),
    (0x44EA0AB7, .tdefI16 21 20 (.lit 9)), (0x64EA0AB7, .tdefI32 21 20 (.lit 9)),
    (0x84EA0AB7, .tdefN8 21 20 (.lit 9)), (0xA4EA0AB7, .tdefN16 21 20 (.lit 9)),
    (0xC4EA0AB7, .tdefN32 21 20 (.lit 9)), (0xE4EA0AB7, .tdefFp16 21 20 (.lit 9))] := by decide
theorem test_decode_tdef_high : Decodes 32 [
    (0x04EA0ABB, .tdefBf16 21 20 (.lit 9)), (0x24EA0ABB, .tdefFp32 21 20 (.lit 9)),
    (0x44EA0ABB, .tdefDm8 21 20 (.lit 9)), (0x64EA0ABB, .tdefMask 21 20 (.lit 9))] := by decide
theorem test_decode_branches : Decodes 32 [
    (0x0015003F, .b 21), (0x00053CBF, .bZ 15 5), (0x00053D3F, .bNz 15 5), (0x00053DBF, .bLtz 15 5),
    (0x00053E3F, .bGez 15 5), (0x00053EBF, .bGtz 15 5), (0x00053F3F, .bLez 15 5)] := by decide
theorem test_decode_call_loop : Decodes 32 [
    (0x00053C43, .call 15 5), (0x00053CC3, .loop 15 5)] := by decide
theorem test_decode_jumps : Decodes 32 [
    (0x000A0047, .jr (.s 20)), (0x200A05C7, .callr 11 (.s 20))] := by decide
theorem test_decode_contexts : Decodes 32 [
    (0x04EA05CB, .grow 11 (.s 20) (.lit 9)), (0x24EA05CB, .shrink 11 (.s 20) (.lit 9)),
    (0x446A43CB, .start 7 (.c 20) (.lit 8)), (0x6000004B, .halt), (0x800A004B, .haltKeep (.s 20)),
    (0xA000004B, .yield), (0xC00A05CB, .waitp 11 (.s 20)), (0xE00A004B, .portsel (.s 20))] := by decide
theorem test_decode_system : Decodes 32 [
    (0x0001604F, .bar 2), (0x2001604F, .bara 2), (0x4001604F, .barw 2), (0x600A05CF, .launch 11 (.s 20)),
    (0x800A05CF, .sprint 11 (.s 20)), (0xA000004F, .sprel), (0xC006E5CF, .sysrd 11 13),
    (0xE6EA404F, .syswr 13 (.c 20))] := by decide
theorem test_decode_copies : Decodes 32 [
    (0x00080053, .cpy 16), (0x200805D3, .cpyt 11 16), (0x4002E053, .trap 5), (0x60000053, .brk)] := by decide
theorem test_decode_offers : Decodes 32 [
    (0x04EA45D7, .ofrAdd 11 2 20 (.lit 9)), (0x250A45D7, .ofrFma 11 2 20 (.s 10)),
    (0x44EA45D7, .ofrMin 11 2 20 (.lit 9)), (0x64EA45D7, .ofrMax 11 2 20 (.lit 9)),
    (0x84EA45D7, .ofrAnd 11 2 20 (.lit 9)), (0xA4EA45D7, .ofrOr 11 2 20 (.lit 9)),
    (0xC4EA45D7, .ofrXchg 11 2 20 (.lit 9)), (0xE50A45D7, .ofrCas 11 2 20 (.s 10))] := by decide
theorem test_decode_offers_f32 : Decodes 32 [
    (0x04EA45DB, .ofrAddF32 11 2 20 (.lit 9)), (0x250A45DB, .ofrFmaF32 11 2 20 (.s 10)),
    (0x44EA45DB, .ofrMinF32 11 2 20 (.lit 9)), (0x64EA45DB, .ofrMaxF32 11 2 20 (.lit 9))] := by decide
theorem test_decode_references : Decodes 32 [
    (0x04EA405F, .setl 2 20 (.lit 9)), (0x200A405F, .rls 2 20), (0x41EA05DF, .pub 11 20 3), (0x600A005F, .pubw 20),
    (0x800A05DF, .refld 11 20), (0xA1EA05DF, .refldAcq 11 20 3), (0xC00A06DF, .refst 13 20),
    (0xE1EA06DF, .refstRel 13 20 3)] := by decide
theorem test_decode_vector_arithmetic : Decodes 32 [
    (0x04AA25E3, .vadd 11 20 9), (0x24AA25E3, .vsub 11 20 9), (0x44AA25E3, .vmul 11 20 9),
    (0x64AA25E3, .vmin 11 20 9), (0x84AA25E3, .vmax 11 20 9), (0xA4AA25E3, .vand 11 20 9), (0xC4AA25E3, .vor 11 20 9),
    (0xE4AA25E3, .vxor 11 20 9)] := by decide
theorem test_decode_vector_bits : Decodes 32 [
    (0x04EA25E7, .vshl 11 20 (.lit 9)), (0x24EA25E7, .vshr 11 20 (.lit 9)), (0x44EA25E7, .vsar 11 20 (.lit 9)),
    (0x64AA25E7, .vceq 11 20 9), (0x84AA25E7, .vclt 11 20 9), (0xA4AA25E7, .vcle 11 20 9),
    (0xC46A05E7, .vbcst 11 (.s 20) 8), (0xE16A25E7, .vred 11 20 2)] := by decide
theorem test_decode_vector_moves : Decodes 32 [
    (0x046A25EB, .vcvt 11 20 8), (0x246A25EB, .vcvtRne 11 20 8), (0x446A25EB, .vcvtRtz 11 20 8),
    (0x646A25EB, .vcvtRdn 11 20 8), (0x846A25EB, .vcvtRup 11 20 8), (0xA46A25EB, .vcvtRsto 11 20 8),
    (0xC46A25EB, .vretag 11 20 8), (0xE16A25EB, .vscan 11 20 2)] := by decide
theorem test_decode_vector_fma : Decodes 32 [
    (0x04AA25EF, .vfma 11 20 9), (0x24AA25EF, .vfms 11 20 9), (0x44AA25EF, .vfnma 11 20 9),
    (0x64AA25EF, .vsel 11 20 9), (0x84AA25EF, .vperm 11 20 9), (0xA00A25EF, .vabs 11 20), (0xC00A25EF, .vneg 11 20),
    (0xE00A25EF, .vmov 11 20)] := by decide
theorem test_decode_mxmm : Decodes 32 [
    (0xAAE165F3, .mxmm 11 5 (.lit 2) 21)] := by decide
theorem test_decode_mxmm_dup : Decodes 32 [
    (0xAAE165F7, .mxmmDup 11 5 (.lit 2) 21)] := by decide
theorem test_decode_matrix : Decodes 32 [
    (0x0002E5FB, .mxz 11 5), (0x200A007B, .waitj (.s 20)), (0x400A05FB, .pollj 11 (.s 20)),
    (0x62EAE5FB, .mxdrFp32 11 21 5), (0x82EAE5FB, .mxdrBf16 11 21 5), (0xA2EAE5FB, .mxdrFp16 11 21 5),
    (0xC2EAE5FB, .mxdrDm8 11 21 5), (0xE2EAE5FB, .mxdrI8 11 21 5)] := by decide
theorem test_decode_compact_registers : Decodes 16 [
    (0xF084, .addCompact 1 4 7), (0xF088, .subCompact 1 4 7), (0xF08C, .andCompact 1 4 7), (0xF090, .orCompact 1 4 7),
    (0xF094, .xorCompact 1 4 7), (0xF098, .shlCompact 1 4 7), (0xF09C, .shrCompact 1 4 7),
    (0xF0A0, .sarCompact 1 4 7), (0x10A4, .movCompact 1 4), (0xF0A8, .seqCompact 1 4 7), (0xF0AC, .sltCompact 1 4 7),
    (0xF0B0, .vaddCompact 1 4 7), (0xF0B4, .vsubCompact 1 4 7), (0xF0B8, .vmulCompact 1 4 7),
    (0xF0BC, .vfmaCompact 1 4 7)] := by decide
theorem test_decode_compact_memory : Decodes 16 [
    (0x7882, .ldCompact 1 6 3), (0x7886, .stCompact 1 6 3), (0x788A, .ldWCompact 1 6 3),
    (0x788E, .stWCompact 1 6 3)] := by decide

/-- The words that the spec's chapters print beside their source lines. -/
theorem test_decode_examples : Decodes 32 [
    (0x000063FB, .mxz 7 0), (0x00E063F3, .mxmm 7 0 (.lit 0) 1), (0x806163FB, .mxdrBf16 7 2 0), (0x2003807B, .waitj (.s 7)),
    (0x00080053, .cpy 16), (0x6004C2CF, .launch 5 (.c 9)), (0x8001CCCF, .sprint 25 (.c 3)), (0xA000004F, .sprel),
    (0x800160B3, .resize 1 (.lit 2)), (0x6000004B, .halt), (0x8002C04B, .haltKeep (.c 5)), (0xA000004B, .yield),
    (0x4002E053, .trap 5), (0x60000053, .brk), (0xC006E64F, .sysrd 12 13), (0xE6E6804F, .syswr 13 (.s 13)),
    (0xC000638F, .movy 7 0), (0x8010651B, .ld 10 3 2), (0x7FF86523, .stW 10 3 0xFFF), (0xA26182A7, .ldBz 5 3 4)] := by
  decide
theorem test_decode_examples_more : Decodes 32 [
    (0x01E18327, .ldAcq 6 3 3), (0x21E182A7, .stRel 5 3 3), (0x42600027, .fence 4), (0x81E00027, .fenceRel 3),
    (0xC001835F, .refst 6 3), (0x8002035F, .refld 6 4), (0x41EA065F, .pub 12 20 3), (0x6006005F, .pubw 12),
    (0xE1EA8A5F, .refstRel 20 21 3), (0xA1EA8B5F, .refldAcq 22 21 3), (0x0A8A023B, .tdefBf16 4 20 (.s 21)),
    (0x200263B3, .tstat 7 4), (0x40026033, .twait 4), (0x60026033, .tfree 4), (0x00153C43, .call 15 0x15),
    (0xE004E04B, .portsel (.lit 9)), (0x0000604F, .bar 0), (0x446580CB, .start 1 (.s 11) (.lit 8)),
    (0x046364CB, .grow 9 (.lit 6) (.lit 8)), (0xC002ED4B, .waitp 26 (.lit 5))] := by decide
theorem test_decode_examples_compact : Decodes 16 [(0xFB19, .bZCompact 6 62), (0x0E02, .ldCompact 4 3 0),
    (0xB204, .addCompact 4 4 5), (0x4E06, .stCompact 4 3 2), (0x0001, .nopCompact)] := by decide

/-- Words that the spec calls reserved (R37, R41, R56, R136): no instruction. -/
theorem test_decode_reserved : ∀ w ∈ [0xFFFFFFFF, 0x000000FF, 0x00000013, 0x04EA0013, 0x80000093, 0xE00026F, 0x1C0A25E7,
    0xC47C05E7], decodeTableWord 32 w = none := by decide

/-! ### Ill-formed terms: every check refuses one -/

theorem test_ill_scalar_operands : ∀ i ∈ ([
    .add 1 (.v 1) (.s 2), .sub 1 (.s 2) (.v 1), .div 1 (.s 1) (.v 0), .clz 1 (.v 1), .mov 1 (.v 3), .sext 1 (.s 1) (.v 1),
    .movy 1 4, .sel 0 (.s 1) (.s 2), .sel 56 (.s 1) (.s 2), .ext 8 (.s 1), .ext 1 (.v 32), .who 1 24,
    .movx 1 8] : List Instr), wellFormed i = false := by decide
theorem test_ill_memory : ∀ i ∈ ([
    .ldB 56 1 0, .ld 1 56 0, .st 56 1 0, .stB 1 56 0, .ldAcq 1 1 5, .stRel 1 1 5, .fence 5, .fenceAcq 5, .fenceRel 5,
    .ldBz 56 1 0, .ldWz 1 56 0, .vldI8 32 1 (.lit 0), .vldI8 1 1 (.s 1), .vldRaw 1 56 (.lit 0), .vldMask 32 1 0,
    .vst 32 1 (.lit 0), .vst 1 1 (.c 0), .tstat 56 0, .resize 56 (.lit 1), .resize 1 (.s 56), .smap 56 1 (.lit 1),
    .smap 1 1 (.s 57), .sunmap 56, .tdefRaw 0 56 (.lit 1), .tdefMask 0 1 (.s 60)] : List Instr), wellFormed i = false := by
  decide
theorem test_ill_control : ∀ i ∈ ([
    .bZ 56 0, .bLez 63 0, .call 56 0, .loop 0 0, .loop 56 0, .jr (.lit 2), .callr 1 (.lit 2), .grow 1 (.v 1) (.lit 1),
    .start 0 (.s 1) (.lit 0), .start 11 (.s 1) (.lit 0), .start 1 (.v 1) (.lit 0), .haltKeep (.v 0), .waitp 1 (.v 0),
    .portsel (.v 0), .bar 8, .bara 8, .barw 8, .launch 1 (.v 1), .sprint 1 (.v 1), .syswr 0 (.v 1), .cpy 53,
    .cpyt 1 53] : List Instr), wellFormed i = false := by decide
theorem test_ill_offers_references : ∀ i ∈ ([
    .ofrAdd 56 0 1 (.s 1), .ofrAdd 1 0 56 (.s 1), .ofrAdd 1 0 1 (.s 56), .ofrAdd 32 0 1 (.v 1), .ofrFma 1 0 1 (.s 55),
    .ofrCas 1 0 1 (.lit 1), .ofrFma 1 0 1 (.v 31), .ofrAddF32 1 0 1 (.v 1), .ofrFmaF32 1 0 1 (.v 2), .setl 0 56 (.s 1),
    .setl 0 1 (.s 60), .rls 0 56, .pub 1 1 0, .pub 1 1 5, .pub 56 1 1, .pubw 56, .refld 56 1, .refldAcq 1 1 5,
    .refst 1 56, .refstRel 1 1 5] : List Instr), wellFormed i = false := by decide
theorem test_ill_vector_matrix : ∀ i ∈ ([
    .vadd 32 1 1, .vadd 1 32 1, .vmul 1 1 32, .vshl 1 1 (.v 32), .vshl 1 1 (.s 56), .vceq 32 1 1, .vbcst 1 (.v 1) 1,
    .vbcst 1 (.s 56) 1, .vbcst 1 (.s 1) 12,
    .vred 1 1 3, .vscan 1 1 3, .vcvt 1 1 0, .vcvtRtz 1 1 11, .vretag 1 1 12, .vfma 1 1 32, .vabs 32 1, .vmov 1 32,
    .mxmm 1 0 (.s 1) 0, .mxmmDup 1 0 (.c 8) 0, .mxz 1 8, .waitj (.v 0), .pollj 1 (.v 0), .mxdrFp32 1 0 8,
    .addImmCompact 0 0, .shlImmCompact 1 32, .sarImmCompact 1 63, .loopCompact 0 1] : List Instr), wellFormed i = false := by
  decide
theorem test_ill_events : wellFormed (.loadReply 0 11 0) = false ∧ wellFormed (.faultPacketWrite 8) = false ∧
    wellFormed (.millTakeOffer 64 false) = false ∧ wellFormed (.sliceWake 16) = false ∧
    wellFormed (.mxJobStart 256 0) = false ∧ wellFormed (.placeTask 1 [2048]) = false ∧
    wellFormed (.hqdbWrite 96 0#64) = false ∧ wellFormed (.backInvalidate 0 2 false) = false ∧
    wellFormed (.generationRetire 48 0) = false ∧ wellFormed (.dwellEnd (.row 128)) = false ∧
    wellFormed (.lodging 0 256) = false ∧ wellFormed (.powerUpAdmit 128) = false ∧
    wellFormed (.meltUpdate 1001) = false ∧ wellFormed (.registerWrite (.vf 96 0) 0#64) = false ∧
    wellFormed (.keySlotWrite 0 8192 ⟨0, false⟩) = false ∧ wellFormed (.hostWindowAccess ⟨0, 0, false, []⟩) = false := by decide

/-! ### Single steps -/

/-- The head of a placed task whose next instruction is a NOP, with every register allotted, changed by f. -/
def live (f : Ctx → Ctx) : State :=
  modMe { State.reset.withFetchWord 32 0x80000013 with cur := (lcKey 1 0, 0) } (fun x => f { x with allot := 0x86#64 })

/-- Registers with values. -/
def regs (l : List (Nat × Word)) (x : Ctx) : Ctx := l.foldl (fun y e => setSreg y e.1 e.2) x

/-- The state after an outcome. -/
def after (r : Res) : State :=
  match r with
  | .next t => t
  | _ => State.reset

/-- The scalar register d after one instruction on registers. -/
def result (i : Instr) (l : List (Nat × Word)) (d : Nat) : Word := sreg (me (after (exec i (live (regs l))))) d

/-- The program counter after one instruction on registers. -/
def pcAfter (i : Instr) (l : List (Nat × Word)) : Word := (me (after (exec i (live (regs l))))).pc

/-- The cause that freezes the context in one instruction on registers; none where it runs on. -/
def causeAfter (i : Instr) (l : List (Nat × Word)) : Option Nat :=
  if (me (after (exec i (live (regs l))))).frozen then some (me (after (exec i (live (regs l))))).cause else none

theorem test_add_wraps : result (.add 8 (.s 1) (.lit 1)) [(1, -1#64)] 8 = 0#64 := by decide
theorem test_sub_order : result (.sub 8 (.s 1) (.s 2)) [(1, 3#64), (2, 5#64)] 8 = -2#64 := by decide
theorem test_shl_low_six_bits : result (.shl 8 (.s 1) (.s 2)) [(1, 5#64), (2, 64#64)] 8 = 5#64 := by decide
theorem test_sar_sign : result (.sar 8 (.s 1) (.lit 63)) [(1, -2#64)] 8 = -1#64 := by decide
theorem test_mulh_signed : result (.mulh 8 (.s 1) (.s 2)) [(1, -1#64), (2, 2#64)] 8 = -1#64 := by decide
theorem test_mulhn_unsigned : result (.mulhn 8 (.s 1) (.s 2)) [(1, -1#64), (2, 2#64)] 8 = 1#64 := by decide
theorem test_div_truncates : result (.div 8 (.s 1) (.s 2)) [(1, -7#64), (2, 2#64)] 8 = -3#64 := by decide
theorem test_div_by_zero : result (.div 8 (.s 1) (.s 0)) [(1, 7#64)] 8 = -1#64 := by decide
theorem test_rem_sign : result (.rem 8 (.s 1) (.s 2)) [(1, -7#64), (2, 2#64)] 8 = -1#64 := by decide
theorem test_rem_overflow : result (.rem 8 (.s 1) (.lit 63)) [(1, 0x8000000000000000#64)] 8 = 0#64 := by decide
theorem test_sltn_unsigned : result (.sltn 8 (.s 1) (.lit 63)) [(1, 1#64)] 8 = 1#64 := by decide
theorem test_clz_zero : result (.clz 8 (.s 1)) [] 8 = 64#64 := by decide
theorem test_bswap : result (.bswap 8 (.s 1)) [(1, 0x0102030405060708#64)] 8 = 0x0807060504030201#64 := by decide
theorem test_sext_byte : result (.sext 8 (.s 1) (.lit 7)) [(1, 0x180#64)] 8 = 0xFFFFFFFFFFFFFF80#64 := by decide
theorem test_sel_keeps_zero : result (.sel 7 (.s 7) (.lit 0)) [] 7 = 0#64 := by decide
theorem test_sel_takes_a : result (.sel 7 (.lit 5) (.lit 9)) [(7, 1#64)] 7 = 5#64 := by decide
theorem test_s0_discards : result (.add 0 (.s 1) (.lit 1)) [(1, 3#64)] 0 = 0#64 := by decide
theorem test_literal_widened : (sreg (me (after (exec (.mov 8 (.lit 0x23))
    (live (fun x => { x with elit := 0x8000000000000000#64 }))))) 8) = 35#64 := by decide
theorem test_loop_from_zero : result (.loop 8 4) [] 8 = -1#64 ∧ pcAfter (.loop 8 4) [] = 65544#64 := by decide
theorem test_loop_ends : pcAfter (.loop 8 4) [(8, 1#64)] = 65540#64 := by decide
theorem test_b_backward : pcAfter (.b 0xFFFF) [] = 65534#64 := by decide
theorem test_callr_old_value : result (.callr 10 (.s 10)) [(10, 0x20000#64)] 10 = 65540#64 ∧
    pcAfter (.callr 10 (.s 10)) [(10, 0x20000#64)] = 0x20000#64 := by decide
theorem test_jr_odd : causeAfter (.jr (.s 1)) [(1, 3#64)] = some 4 := by decide
theorem test_trap_sub : causeAfter (.trap 5) [] = some 0x0B := by decide
theorem test_unknown_level : causeAfter (.bar 1) [] = some 1 := by decide
theorem test_priority_register_read : result (.sysrd 8 0x0D) [] 8 = 0x2545F4914F6CDD1D#64 := by decide
theorem test_psel_written : (me (after (exec (.portsel (.lit 0)) (live id)))).psel = 0#64 := by decide
theorem test_port_outside_crew : causeAfter (.portsel (.lit 9)) [] = some 5 := by decide
theorem test_step_runs_nop : (me (after (step (live id)))).pc = 65540#64 := by decide +kernel
theorem test_step_reserved : (me (after (step (State.reset.withFetchWord 32 0x00000013)))).cause = 1 := by decide +kernel
theorem test_home_of_line : homeStack (live id) 0x40000000 0x12 = 12 ∧ homeMill (live id) 0x40000000 0x12 = 50 := by decide +kernel

/-- The first byte of vector register d after one instruction on a vector register of bytes. -/
def lane0 (i : Instr) (a : Vec) : Byte :=
  (vreg (me (after (exec i (live (fun x => setVreg (setVreg x 1 .i8 a) 2 .i8 1#512))))) 3).extractLsb' 0 8
theorem test_vadd_bytes : lane0 (.vadd 3 1 2) 0x7F#512 = 0x80#8 := by decide +kernel
theorem test_stash_store_then_load : causeAfter (.st 1 2 0) [(1, 7#64), (2, 0xFFFFFFFFFFF80000#64)] = some 5 := by decide
theorem test_misaligned_load : causeAfter (.ld 1 2 0) [(2, 4#64)] = some 4 := by decide

/-! ### Witnesses: a state that meets the hypotheses of each statement -/

theorem issues_of {n : Names} {s : State} (h : (allHeld (me s) n && !anyPending (me s) n &&
    (portsOf n.srcs).all (fun p => (portWord (myCore s) s.cur.2 p).isSome) &&
    !(sendsPort n.dst && routerBusy s s.cur.1 s.cur.2)) = true) : Issues n s := by
  simp only [Bool.and_eq_true, Bool.not_eq_true', List.all_eq_true] at h
  exact ⟨h.1.1.1, h.1.1.2, h.1.2, h.2⟩

theorem release_of {s : State} {scope : Nat} {all : Bool} (h : (accessesDone (me s) && !writesOut s s.cur.1 s.cur.2 &&
    (decide ((me s).stage = .released) || ((releaseWrites s s.cur.1 s.cur.2 scope all).isEmpty &&
      (decide (scope = scopeCore) || !crossing s s.cur.1 (scopeDest scope))))) = true) :
    ReleaseComplete s scope all := by
  simp only [Bool.and_eq_true, Bool.not_eq_true', Bool.or_eq_true, decide_eq_true_eq, List.isEmpty_iff] at h
  exact ⟨h.1.1, h.1.2, h.2⟩

theorem passes_of {s : State} {va n : Nat} {w vec : Bool} {v : Verdict} (h : (!(lineBusy s va && !inWindow va) &&
    decide (judge s s.cur.1 (me s) va n w vec = v) && allowed v) = true) : Passes s va n w vec v := by
  simp only [Bool.and_eq_true, Bool.not_eq_true', decide_eq_true_eq] at h
  exact ⟨h.1.1, h.1.2, h.2⟩

/-- The core of the live state, changed. -/
def liveCore (f : LCore → LCore) : State := modCore (live id) (lcKey 1 0) f

/-- A word waits in queue 0. -/
def ported : State := liveCore (fun c => { c with queues := [(0, [9#64])] })

/-- A pending extension of #1. -/
def extended : State := live (fun x => { x with elit := 0x8000000000000001#64 })

/-- The context as a helper. -/
def helper : State := { liveCore (fun c => { c with ctxs := setD Ctx.reset c.ctxs 1 { ctxOf (live id) (lcKey 1 0) 0 with live := true } })
  with cur := (lcKey 1 0, 1) }

theorem wit_ScalarTwoOperandResults : scalarTable.length = 26 ∧ Issues ⟨[.s 56, .lit 31], some 57, [], []⟩ ported ∧
    Issues ⟨[.s 55, .c 63], some 0, [], []⟩ (live id) := ⟨rfl, issues_of (by decide), issues_of (by decide)⟩
theorem wit_ScalarBitResults : bitTable.length = 6 ∧ Issues ⟨[.s 56], some 55, [], []⟩ ported := ⟨rfl, issues_of (by decide)⟩
theorem wit_CompactTwoOperandResults : compactTable.length = 10 ∧ Issues ⟨[c3 7, c3 0], some (7 : F3).toNat, [], []⟩ (live id) :=
  ⟨rfl, issues_of (by decide)⟩
theorem wit_CompactLiteralResults : wellFormed (.shlImmCompact 1 31) = true ∧
    Issues ⟨[c3 1, .lit 31], some (1 : F3).toNat, [], []⟩ (live id) ∧ Issues ⟨[c3 7], some (0 : F3).toNat, [], []⟩ (live id) ∧
    Issues ⟨[.lit 32], some (1 : F3).toNat, [], []⟩ (live id) :=
  ⟨by decide, issues_of (by decide), issues_of (by decide), issues_of (by decide)⟩
theorem wit_OperandValues : (55 : F6).toNat < 56 ∧ 56 ≤ (56 : F6).toNat ∧ portWord (myCore ported) ported.cur.2 0 = some 9#64 ∧
    taskOf (live id) (taskNum (live id).cur.1) = some soloTask ∧ bit (me (live id)).elit 63 = false ∧
    bit (me extended).elit 63 = true ∧ isLit (.s 1) = false := by decide
theorem wit_SelectByOwnDestination : wellFormed (.sel 1 (.s 56) (.lit 1)) = true ∧
    Issues ⟨[.s 1, .s 56, .lit 1], some (1 : F6).toNat, [], []⟩ ported := ⟨by decide, issues_of (by decide)⟩
theorem wit_ExtensionRegisters : isVal (.s 56) = true ∧ Issues ⟨[.s 56], none, [], []⟩ ported ∧
    vtagOf (me (live (fun x => setVreg x 3 .mask 1))) 3 = .mask ∧
    Issues ⟨[.v 3], none, [], []⟩ (live (fun x => setVreg x 3 .mask 1)) ∧ vtagOf (me (live id)) 3 ≠ .mask ∧
    Issues ⟨[.v 3], none, [], []⟩ (live id) ∧ Issues ⟨[], some 63, [], []⟩ (live id) :=
  ⟨rfl, issues_of (by decide), by decide, issues_of (by decide), by decide, issues_of (by decide), issues_of (by decide)⟩
/-- A crew of two cores, whose contexts are the units of its second level. -/
def crewed : State := modTask (live id) 1 (fun t => { t with levels := [⟨4, 0, 2, 0⟩, ⟨5, 0, 3, 0⟩] })

theorem wit_TimestampIdentityReply : Issues ⟨[], some 1, [], []⟩ (live id) ∧
    taskOf (live id) (taskNum (live id).cur.1) = some soloTask ∧ (3 : F6).toNat ∉ (me (live id)).ypend ∧
    (3 : F6).toNat ∈ (me (live (fun x => { x with ypend := [3] }))).ypend ∧
    Issues ⟨[], some 1, [], []⟩ (live (fun x => { x with ypend := [3] })) ∧
    (soloTask.levels[0]?).map Level.domain = some 4 ∧ soloTask.levels.length ≤ 8 ∧ (∀ l ∈ soloTask.levels, 0 < l.extent) ∧
    lcnOf (live id).cur.1 < crewSize soloTask.levels ∧
    (taskOf crewed 1).map (fun t => (t.levels.map Level.domain, crewSize t.levels)) = some ([4, 5], 2) := by
  (repeat' apply And.intro) <;> first | exact issues_of (by decide) | decide
theorem wit_BranchesGoWhereTheySay : branchTable.length = 6 ∧ wellFormed (.bLez 55 0x8000) = true ∧
    Issues ⟨[.s 55], none, [], []⟩ (live id) ∧ Issues ⟨[c3 7], none, [], []⟩ (live id) :=
  ⟨rfl, by decide, issues_of (by decide), issues_of (by decide)⟩
theorem wit_CallsLoopsAndJumps : Issues ⟨[], some 0, [], []⟩ (live id) ∧ Issues ⟨[], some 55, [55], []⟩ (live id) ∧
    bit (opndVal (live id) false (.s 1)) 0 = false ∧ Issues ⟨[.s 1], none, [], []⟩ (live id) ∧
    Issues ⟨[.s 1], some 1, [], []⟩ (live id) :=
  ⟨issues_of (by decide), issues_of (by decide), by decide, issues_of (by decide), issues_of (by decide)⟩
theorem wit_OddTargetTraps : bit (opndVal ported false (.s 56)) 0 = true ∧ Issues ⟨[.s 56], none, [], []⟩ ported ∧
    Issues ⟨[.s 56], some 1, [], []⟩ ported := ⟨by decide, issues_of (by decide), issues_of (by decide)⟩

/-- A context with its first blocks only. -/
def smallest : State := modMe (live id) (fun x => { x with allot := 0#64 })

theorem wit_UnallottedRegisterTraps : allHeld (me smallest) ⟨[.s 8, .s 1], some 1, [], []⟩ = false ∧
    allHeld (me smallest) ⟨[], none, [8, 1], []⟩ = false ∧ allHeld (me smallest) ⟨[.v 0, .v 1], none, [], [2]⟩ = false := by decide
/-- Two readers of port 0, which holds one word. -/
def contended : LCore := { LCore.reset with waiters := [(0, 1), (0, 2)], queues := [(0, [9#64])] }

theorem wit_EmptyPortWaits : 3 ∈ portsOf [.s 59, .s 1] ∧ portWord (myCore (live id)) (live id).cur.2 3 = none ∧
    allHeld (me (live id)) ⟨[.s 59, .s 1], some 1, [], []⟩ = true ∧
    anyPending (me (live id)) ⟨[.s 59, .s 1], some 1, [], []⟩ = false ∧ (56 : F6).toNat - 56 = 0 ∧
    portWord (myCore (live id)) (live id).cur.2 0 = none ∧ (0, (live id).cur.2) ∉ (myCore (live id)).waiters ∧
    contended.waiters = [(0, 1)] ++ (0, 2) :: [] ∧ portWord contended 1 0 = some 9#64 ∧ portWord contended 2 0 = none := by decide

/-- The same context, its s40 still to be written. -/
def owed : State := live (fun x => { x with spend := [40] })

theorem wit_GrowAndShrink : Issues ⟨[.lit 6, .lit 8], none, [], []⟩ smallest ∧ (9 : F6).toNat ∉ (me smallest).spend ∧
    max (allotSB (me smallest)) (min (min (valA smallest (.lit 6) (.lit 8)).toNat 6)
      (allotSB (me smallest) + freeScalar smallest smallest.cur.1)) = 6 ∧
    (sendsPort (some (9 : F6).toNat) && routerBusy smallest smallest.cur.1 smallest.cur.2) = false ∧
    Issues ⟨[.lit 0, .lit 0], some 1, [], []⟩ (live id) ∧ (∀ r ∈ (me (live id)).spend, r < 8) ∧
    (∀ r ∈ (me (live id)).vpend, r < 0) ∧ Issues ⟨[.lit 0, .lit 0], some 1, [], []⟩ owed ∧ (∃ r ∈ (me owed).spend, 8 ≤ r) := by
  (repeat' apply And.intro) <;> first | exact issues_of (by decide) | exact release_of (by decide) | decide
theorem wit_GrantTrapsOutside : 8 * (max (allotSB (me smallest)) (min (min (valA smallest (.lit 4) (.lit 0)).toNat 6)
      (allotSB (me smallest) + freeScalar smallest smallest.cur.1)) + 1) ≤ (40 : F6).toNat ∧
    Issues ⟨[.lit 4, .lit 0], none, [], []⟩ smallest ∧
    8 * (min (allotSB (me (live id))) (min (valA (live id) (.lit 0) (.lit 0)).toNat 6) + 1) ≤ (8 : F6).toNat ∧
    Issues ⟨[.lit 0, .lit 0], some 8, [], []⟩ (live id) ∧ allHeld (me smallest) ⟨[.lit 0, .lit 0], some 8, [], []⟩ = false := by
  (repeat' apply And.intro) <;> first | exact issues_of (by decide) | exact release_of (by decide) | decide
theorem wit_StartOfHelper : (live id).cur.2 = 0 ∧ wellFormed (.start 10 (.s 1) (.lit 8)) = true ∧
    ¬(foldable (live id) (live id).cur.1 = true ∧ 5 ≤ (10 : F6).toNat) ∧
    Issues ⟨[.s 1, .lit 8], none, [], []⟩ (live id) ∧ bit ((me (live id)).pc + valB (live id) (.lit 8) * 2) 0 = false ∧
    (ctxOf (live id) (live id).cur.1 10).live = false ∧ (me (live id)).loads = [] ∧ (me (live id)).ypend = [] ∧
    writesOut (live id) (live id).cur.1 (live id).cur.2 = false ∧
    (ctxOf { helper with cur := (lcKey 1 0, 0) } (lcKey 1 0) 1).live = true ∧ bit (valB ported (.s 56)) 0 = true ∧
    Issues ⟨[.s 1, .s 56], none, [], []⟩ ported ∧ helper.cur.2 ≠ 0 ∧
    allHeld (me helper) ⟨[.s 1, .lit 8], none, [], []⟩ = true ∧ allHeld (me smallest) ⟨[.s 8, .lit 8], none, [], []⟩ = false := by
  (repeat' apply And.intro) <;> first | exact issues_of (by decide) | exact release_of (by decide) | decide
theorem wit_YieldPortselWaitp : standsOn (live id) (live id).cur.1 = some 0 ∧ Issues ⟨[.lit 0], none, [], []⟩ (live id) ∧
    (valB (live id) (.lit 0)).toNat < crewSize (levelsOf (live id) (taskNum (live id).cur.1)) ∧
    crewSize (levelsOf (live id) (taskNum (live id).cur.1)) ≤ (valB (live id) (.lit 1)).toNat ∧
    Issues ⟨[.lit 1], some 26, [], []⟩ ported ∧
    (∀ i, (1#64).getLsbD i = (decide (i < 8) && (valB ported (.lit 1)).getLsbD i && !(queueOf (myCore ported) i).isEmpty)) ∧
    (∀ i, (0#64).getLsbD i = (decide (i < 8) && (valB ported (.lit 2)).getLsbD i && !(queueOf (myCore ported) i).isEmpty)) := by
  refine ⟨by decide, issues_of (by decide), by decide, by decide, issues_of (by decide), fun i => ?_, fun i => ?_⟩ <;>
  · by_cases h : i < 8
    · interval_cases i <;> decide
    · have h0 : i ≠ 0 := by omega
      simp [h, h0]
theorem wit_HelperHaltEndsContext : helper.cur.2 ≠ 0 ∧ (me helper).stage = .idle ∧
    haltReady helper helper.cur.1 helper.cur.2 = true ∧ (me helper).walkFaults = [] ∧
    haltReady (live (fun x => { x with ypend := [3] })) (live id).cur.1 (live id).cur.2 = false := by decide
/-- The core owns a3, whose first element is 7. -/
def having : State := modYard (live id) 0 (fun y => { y with owner := [(3, lcKey 1 0 + 1)], acc := [(3, [(0, 7#32)])] })

theorem wit_HeadHaltRetiresCore : (live id).cur.2 = 0 ∧ (me (live id)).stage = .idle ∧ haltReady (live id) (live id).cur.1 0 = true ∧
    (me (live id)).walkFaults = [] ∧ helpersDone (live id) (live id).cur.1 = true ∧ engineBusy (live id) (live id).cur.1 = false ∧
    ReleaseComplete (live id) scopeSys true ∧ (keys (myCore (live id)).ctxs).Nodup ∧
    helpersDone { helper with cur := (lcKey 1 0, 0) } (lcKey 1 0) = false ∧ ReleaseComplete having scopeSys true ∧
    (yardOf having (yardNum (homePhys (myCore having)))).owner = [(3, having.cur.1 + 1)] := by
  (repeat' apply And.intro) <;> first | exact issues_of (by decide) | exact release_of (by decide) | decide

/-- A second task, pending, with record 0x8000. -/
def waiting : State := { live id with tasks := put (live id).tasks 2 { soloTask with num := 2, record := 0x8000, stage := .pending } }

/-- An arrival at level 0 is outstanding in the phase of number 0; the first phase has ended, or not. -/
def arrived : State := live (fun x => { x with barst := 1#64 })
def released : State := modTask arrived 1 (fun t => { t with barriers := [(barrierKey t.levels 0 0, ⟨0, 1⟩)] })

theorem wit_HaltKeepRetainsWays : helper.cur.2 ≠ 0 ∧ allHeld (me helper) ⟨[.s 1], none, [], []⟩ = true ∧
    allHeld (me smallest) ⟨[.s 8], none, [], []⟩ = false ∧ Issues ⟨[.s 1], none, [], []⟩ (live (regs [(1, 64#64)])) ∧
    (valB (live (regs [(1, 64#64)])) (.s 1)).toNat % 128 ≠ 0 ∧ waiting.cur.2 = 0 ∧
    Issues ⟨[.c 0], none, [], []⟩ { waiting with tasks := put waiting.tasks 1 { soloTask with bank := [0x8000#64] } } ∧
    (valB { waiting with tasks := put waiting.tasks 1 { soloTask with bank := [0x8000#64] } } (.c 0)).toNat = 0x8000 ∧
    haltReady waiting waiting.cur.1 0 = true ∧ helpersDone waiting waiting.cur.1 = true ∧
    engineBusy waiting waiting.cur.1 = false ∧ ReleaseComplete waiting scopeSys true ∧
    standsOn waiting waiting.cur.1 = some 0 ∧ awaitsPlacement waiting 1024 0x8000 = true := by
  (repeat' apply And.intro) <;> first | exact issues_of (by decide) | exact release_of (by decide) | decide
theorem wit_BarrierArrive : taskOf (live id) (taskNum (live id).cur.1) = some soloTask ∧ 0 < soloTask.levels.length ∧
    barOut (me (live id)) 0 = false ∧ ReleaseComplete (live id) (levelScope (live id) 0) false ∧
    barOut (me arrived) 0 = true ∧ phaseEnded arrived 0 = false ∧ phaseEnded released 0 = true ∧
    ReleaseComplete released (levelScope released 0) false ∧ 0 < (levelsOf arrived (taskNum arrived.cur.1)).length := by
  (repeat' apply And.intro) <;> first | exact issues_of (by decide) | exact release_of (by decide) | decide
theorem wit_BarrierWait : (levelsOf (live id) (taskNum (live id).cur.1)).length ≤ (1 : F6).toNat ∧
    (0 : F6).toNat < (levelsOf (live id) (taskNum (live id).cur.1)).length ∧
    barOut (me released) 0 = true ∧ phaseEnded released 0 = true ∧ (0 : F6).toNat < (levelsOf released (taskNum released.cur.1)).length ∧
    expectedCount soloTask.levels 0 ≤ (barrierOf (live id) (live id).cur.1 0).count + 1 := by decide

theorem test_start_register_first : (me (after (exec (.start 1 (.s 40) (.lit 0))
    (modMe helper (fun x => { x with allot := 0#64 }))))).cause = causeIllegalReg := by decide
theorem test_halt_keeps_registers : (getD Ctx.reset (physOf (after (exec .halt (live (regs [(9, 7#64)])))) 0).rest 0).s =
    (me (live (regs [(9, 7#64)]))).s := by decide +kernel

/-- The core as the reeve core of die 0. -/
def reeved : State := { live id with reeves := [(0, lcKey 1 0)] }

/-- A vector load into v3 is outstanding. -/
def filling : State := live (fun x => { x with vpend := [3] })

theorem wit_SystemRegisterReads : Issues ⟨[], some 1, [], []⟩ (live id) ∧ regNum (me (live id)) 0x0E = 0x00E ∧
    regTrap (live id) 0x00E false = none ∧ (me (live id)).vpend = [] ∧ regTrap reeved 0x804 false = none ∧
    (live id).melt < 1024 ∧ regNum (me filling) 0x0E = 0x00E ∧ regTrap filling 0x00E false = none ∧ (me filling).vpend ≠ [] ∧
    Issues ⟨[], some 1, [], []⟩ filling := by
  (repeat' apply And.intro) <;> first | exact issues_of (by decide) | exact release_of (by decide) | decide
theorem wit_SystemRegisterWrites : Issues ⟨[.s 56], none, [], []⟩ ported ∧ regNum (me ported) 0x0C = 0x00C ∧
    regTrap ported 0x00C true = none ∧ regNum (me (live id)) 0x0F = 0x00F ∧ bit (me (live id)).elit 63 = false ∧
    Issues ⟨[.s 1], none, [], []⟩ (live id) ∧ regTrap reeved 0x80A true = none := by
  (repeat' apply And.intro) <;> first | exact issues_of (by decide) | exact release_of (by decide) | decide

/-- An extension that makes the literal of a register number 0x800 or 0x302. -/
def wideReg (e : Word) : State := live (fun x => { x with elit := 0x8000000000000000#64 ||| e })
theorem wit_SystemRegisterTraps : regNum (me (wideReg 0x20#64)) 0 = 0x800 ∧ regNamed 0x800 = true ∧
    isReeve (wideReg 0x20#64) (wideReg 0x20#64).cur.1 = false ∧ Issues ⟨[], some 1, [], []⟩ (wideReg 0x20#64) ∧
    Issues ⟨[.s 1], none, [], []⟩ (wideReg 0x20#64) ∧ regNum (me (wideReg 0#64)) 0 = 0 ∧ regNamed 0 = false ∧
    regNum (me (wideReg 0x0C#64)) 2 = 0x302 ∧ regNamed 0x302 = true ∧ holdsRow (wideReg 0x0C#64) = false ∧
    regNum (me (wideReg 0x10#64)) 0 = 0x400 ∧ isCounter 0x400 = true ∧
    ownsCounters (modPhys (wideReg 0x10#64) 0 (fun q => { q with ctag := 1#64 })) = false := by
  (repeat' apply And.intro) <;> first | exact issues_of (by decide) | exact release_of (by decide) | decide
theorem wit_FaultPacketWords : taskNum (lcKey 1 0) < 2 ^ 20 ∧ (coreOf (live id) (lcKey 1 0)).phys < 2 ^ 11 ∧
    halfAt (live id) 1024 65536 = some 0x0013#16 ∧ halfAt (live id) 1024 65538 = some 0x8000#16 ∧
    halfAt (State.reset.withFetchWord 16 0x0001) 1024 65536 = some 0x0001#16 := by decide +kernel

/-- Vector registers v1, v2, v3 of a tag. -/
def vectors (t : Tag) : State := live (fun x => setVreg (setVreg (setVreg x 1 t 5) 2 t 7) 3 t 9)

theorem wit_VectorInstructionsComplete : ∀ i ∈ ([.vadd 3 1 2, .vmulCompact 3 1 2, .vmin 3 1 2, .vxor 3 1 2, .vsar 3 1 (.v 2),
    .vclt 3 1 2, .vbcst 3 (.s 1) 0, .vred 3 1 0, .vscan 3 1 2, .vcvt 3 1 9, .vretag 3 1 11, .vfma 3 1 2, .vsel 3 1 2,
    .vabs 3 1, .vneg 3 1, .vmov 3 1] : List Instr), ∃ r, vectorRow i = some r ∧ Issues r.names (vectors .i8) ∧
      r.ok (me (vectors .i8)) = true := by
  intro i hi
  fin_cases hi <;> exact ⟨_, rfl, issues_of (by decide), by decide⟩
theorem wit_VectorPerm : ∃ r, vectorRow (.vperm 3 1 2) = some r ∧ Issues r.names (vectors .n32) ∧ r.ok (me (vectors .n32)) = true :=
  ⟨_, rfl, issues_of (by decide), by decide⟩
theorem wit_VectorTagMismatchTraps : ∃ r, vectorRow (.vadd 3 1 2) = some r ∧ allHeld (me (vectors .mask)) r.names = true ∧
    anyPending (me (vectors .mask)) r.names = false ∧ r.ok (me (vectors .mask)) = false :=
  ⟨_, rfl, by decide, by decide, by decide⟩
theorem wit_IntegerLaneResults : isInt .i8 = true ∧ 63 < lanes .i8 ∧ isInt .n32 = true ∧ 15 < lanes .n32 ∧
    isFloat .fp16 = true ∧ 31 < lanes .fp16 ∧ laneVal 0 .fp16 0x3C00 0 = .fin false 1 ∧ laneVal 0 .fp16 0x7E00 0 = .nan ∧
    laneVal 0 .fp16 0xFC00 0 = .inf true ∧ laneVal 0 .fp16 0x8000 0 = .fin true 0 := by decide +kernel
/-- The value 1.0001 lies between the codes of 1 and of its upper neighbour. -/
theorem wit_Rounding : (val 0#64 .fp16 0x3C00).1 = .fin false 1 ∧ (val 0#64 .fp16 0x3C01).1 = .fin false (1025 / 1024) ∧
    (1 : Rat) < 10001 / 10000 ∧ (10001 / 10000 : Rat) < 1025 / 1024 ∧ flushOut 0#64 .fp16 = false ∧
    0x3C01 < infCode .fp16 false := by decide +kernel

/-- The first byte of the stash window. -/
def winBase : Word := 0xFFFFFFFFFFF80000#64

/-- One way of stash; s2 is the window's base. -/
def stashed : State := modCore (live (regs [(1, 7#64), (2, winBase)])) (lcKey 1 0) (fun c => { c with ways := 1 })

/-- A page of data. -/
def dataPage : Page := { frame := 131072, large := false, attr := attrPlain, aliased := false, cmp := false, w := true, x := false, key := 0 }

/-- The page p at 0x20000, and s2 there. -/
def paged (p : Page) : State := cachePage (live (regs [(1, 7#64), (2, 0x20000#64)])) 1024 0x20000 p

/-- The line at 0x20000 in the first-level cache. -/
def cached : State := modCore (paged dataPage) (lcKey 1 0) (fun c => { c with l1 :=
  [(lineKey 1024 0x20000, { emptyLine dataPage with valid := BitVec.allOnes 128, data := 0x11#1024 })] })

/-- The reeve core with its debug window at 0x10000000, and s2 there. -/
def debugging : State :=
  modPhys { live (regs [(1, 7#64), (2, 0x10000000#64)]) with reeves := [(0, lcKey 1 0)] } 0 (fun q => { q with dbgbase := 0x10000000#64 })

/-- A row's load of a state: ready, at an address. -/
def Readied (i : Instr) (s : State) (va : Nat) : Prop := ∃ r, loadRow i = some r ∧ Issues r.names s ∧ r.va s = va

theorem wit_LoadsWriteOrAwait :
    (Readied (.ld 1 2 0) stashed winBase.toNat ∧ viaWindow stashed winBase.toNat 8 watchLoad = none ∧
      Passes stashed winBase.toNat 8 false false (.window 0) ∧ readNow stashed stashed.cur.1 winBase.toNat 8 (.window 0) = some 0) ∧
    (Readied (.ldBz 1 2 31) cached 0x2001F ∧ Passes cached 0x2001F 1 false false (.page dataPage) ∧
      readNow cached cached.cur.1 0x2001F 1 (.page dataPage) = some 0) ∧
    (Readied (.ldWCompact 1 2 0) (paged dataPage) 0x20000 ∧ Passes (paged dataPage) 0x20000 4 false false (.page dataPage) ∧
      readNow (paged dataPage) (paged dataPage).cur.1 0x20000 4 (.page dataPage) = none) ∧
    (Readied (.ld 1 2 0) debugging 0x10000000 ∧ viaWindow debugging 0x10000000 8 watchLoad = some (0, 0)) :=
  ⟨⟨⟨_, rfl, issues_of (by decide), by decide⟩, by decide, passes_of (by decide +kernel), by decide +kernel⟩,
    ⟨⟨_, rfl, issues_of (by decide), by decide⟩, passes_of (by decide +kernel), by decide +kernel⟩,
    ⟨⟨_, rfl, issues_of (by decide), by decide⟩, passes_of (by decide +kernel), by decide +kernel⟩,
    ⟨⟨_, rfl, issues_of (by decide), by decide⟩, by decide +kernel⟩⟩
theorem wit_VectorLoadsWriteOrAwait : (∃ r, vecLoadRow (.vldI8 31 2 (.lit 0)) = some r ∧ Issues r.names stashed ∧
      r.va stashed = winBase.toNat) ∧ viaWindow stashed winBase.toNat 64 watchLoad = none ∧
    Passes stashed winBase.toNat 64 false true (.window 0) ∧
    readNow stashed stashed.cur.1 winBase.toNat 64 (.window 0) = some 0 ∧
    (∃ r, vecLoadRow (.vldMask 3 2 1) = some r ∧ Issues r.names (paged dataPage) ∧ r.va (paged dataPage) = 0x20040) ∧
    Passes (paged dataPage) 0x20040 8 false true (.page dataPage) ∧
    readNow (paged dataPage) (paged dataPage).cur.1 0x20040 8 (.page dataPage) = none ∧
    viaWindow debugging 0x10000000 64 watchLoad = some (0, 0) :=
  ⟨⟨_, rfl, issues_of (by decide), by decide⟩, by decide, passes_of (by decide +kernel), by decide +kernel,
    ⟨_, rfl, issues_of (by decide), by decide⟩, passes_of (by decide +kernel), by decide +kernel, by decide +kernel⟩

/-- Sixteen indices of 0 in v5 beside the stash. -/
def indexed : State := modMe stashed (fun x => setVreg (setVreg x 5 .n32 0) 3 .i8 9)

/-- The elements of that gather or scatter. -/
def demoElements : List (Nat × Nat × Verdict) := (List.range 16).map (fun i => (i, winBase.toNat, .window 0))

theorem demo_all_pass (w : Bool) (h : w = false ∨ w = true) : AllPass indexed (List.replicate 16 winBase.toNat) 1 w demoElements := by
  refine ⟨by decide, fun j hj => ?_⟩
  simp only [demoElements, List.mem_map] at hj
  obtain ⟨i, -, rfl⟩ := hj
  change Passes indexed winBase.toNat 1 w true (.window 0)
  rcases h with rfl | rfl <;> exact passes_of (by decide +kernel)
theorem wit_GatherReadsSixteenElements : gatherRow (.vldI8 3 2 (.v 5)) = some (.i8, 3, 2, 5) ∧
    Issues (vmemNames 3 2 (.v 5)) indexed ∧ indexOk (me indexed) 5 = true ∧
    elementVas (me indexed) (valS indexed 2) 5 = List.replicate 16 winBase.toNat ∧
    AllPass indexed (List.replicate 16 winBase.toNat) 1 false demoElements ∧
    demoElements.map (fun j => readNow indexed indexed.cur.1 j.2.1 1 j.2.2) = (List.replicate 16 0).map some :=
  ⟨rfl, issues_of (by decide), by decide, by decide +kernel, demo_all_pass false (.inl rfl), by decide +kernel⟩

/-- The same indices beside a page of which the core holds no byte. -/
def unheld : State := modMe (paged dataPage) (fun x => setVreg x 5 .n32 0)
def unheldElements : List (Nat × Nat × Verdict) := (List.range 16).map (fun i => (i, 0x20000, .page dataPage))
theorem wit_GatherAwaits : Issues (vmemNames 3 2 (.v 5)) unheld ∧ indexOk (me unheld) 5 = true ∧
    AllPass unheld (elementVas (me unheld) (valS unheld 2) 5) 1 false unheldElements ∧
    (∀ j ∈ unheldElements, readNow unheld unheld.cur.1 j.2.1 1 j.2.2 = none) := by
  refine ⟨issues_of (by decide), by decide, ⟨by decide +kernel, fun j hj => ?_⟩, by decide +kernel⟩
  simp only [unheldElements, List.mem_map] at hj
  obtain ⟨i, -, rfl⟩ := hj
  change Passes unheld 0x20000 1 false true (.page dataPage)
  exact passes_of (by decide +kernel)

/-- A page whose stores are performed at its frame; and its line at 0x20000 half held by the host. -/
def aliasPage : Page := { dataPage with aliased := true }
def heldAlias : State := setHalf (paged aliasPage) (lineKey 1024 0x20000) ⟨.e, .i, 0, 0⟩

theorem wit_StoresComplete : (∃ r, storeRow (.st 1 2 0) = some r ∧ Issues r.names stashed ∧ r.va stashed = winBase.toNat) ∧
    (∃ r, storeRow (.st 1 2 0) = some r ∧ Issues r.names heldAlias ∧ r.va heldAlias = 0x20000) ∧
    (∃ r, storeRow (.st 1 2 0) = some r ∧ Issues r.names debugging ∧ r.va debugging = 0x10000000) :=
  ⟨⟨_, rfl, issues_of (by decide), by decide⟩, ⟨_, rfl, issues_of (by decide), by decide⟩,
    ⟨_, rfl, issues_of (by decide), by decide⟩⟩
theorem wit_StoresLand : viaWindow stashed winBase.toNat 8 watchStore = none ∧
    Passes stashed winBase.toNat 8 true false (.window 0) ∧
    storeReady stashed stashed.cur.1 winBase.toNat 8 7 (.window 0) = true ∧
    Passes (paged aliasPage) 0x20000 8 true false (.page aliasPage) ∧
    storeReady (paged aliasPage) (lcKey 1 0) 0x20000 8 7 (.page aliasPage) = true ∧
    viaWindow heldAlias 0x20000 8 watchStore = none ∧ Passes heldAlias 0x20000 8 true false (.page aliasPage) ∧
    storeReady heldAlias (lcKey 1 0) 0x20000 8 7 (.page aliasPage) = false ∧
    storeFull heldAlias (lcKey 1 0) 0x20000 8 7 (.page aliasPage) = none ∧
    viaWindow debugging 0x10000000 8 watchStore = some (0, 0) ∧ viaWindow debugging 0x10000000 64 watchStore = some (0, 0) ∧
    Issues (vmemNames 3 2 (.lit 0)) debugging ∧ eaV debugging 2 (.lit 0) = 0x10000000 ∧
    Issues (vmemNames 3 2 (.lit 0)) indexed ∧ Passes indexed winBase.toNat 64 true true (.window 0) ∧
    Issues (vmemNames 3 2 (.v 5)) indexed ∧ vtagOf (me indexed) 3 ≠ .mask := by
  (repeat' apply And.intro) <;> first | exact issues_of (by decide) | exact passes_of (by decide +kernel) | decide +kernel
theorem wit_Scatters : AllPass indexed (List.replicate 16 winBase.toNat) 1 true demoElements := demo_all_pass true (.inr rfl)
/-- The stash maps the line at 0x20000, not yet filled. -/
def mappedStash : State := modCore (paged dataPage) (lcKey 1 0) (fun c => { c with ways := 1, maps := [⟨0, 0x20000, 128, [], []⟩] })
theorem wit_StoredBytesAndNoOthers : Passes (paged dataPage) 0x2007F 1 true false (.page dataPage) ∧
    (verdictPage (.page dataPage)).aliased = false ∧ canonicalVa 0x20080 = true ∧
    ¬ Stored (paged dataPage) 0x2007F 1 (.page dataPage) 0x20080 ∧ Passes stashed winBase.toNat 8 true false (.window 0) ∧
    (verdictPage (.window 0)).aliased = false ∧ Passes mappedStash 0x20008 8 true false (.mapped 8 dataPage) :=
  ⟨passes_of (by decide +kernel), by decide, by decide, fun h => by simp [Stored] at h, passes_of (by decide +kernel), by decide,
    passes_of (by decide +kernel)⟩
theorem wit_AliasStoresWriteTheFrame : leafOk 0#64 0 = true ∧ aliasPage.aliased = true ∧
    aliasPage.frame % 65536 = 0 := by decide

/-- A page of objects at 0x20000, its first granule with the tag g; an object of two granules of the owner o there. -/
def objPage : Page := { dataPage with attr := attrObject }
def granuled (g : Nat) : State := { paged objPage with gtags := [(16384, g)] }
def owned (o : Nat) (state : Byte) : State :=
  [(131072, 2#8), (131075, BitVec.ofNat 8 o), (131077, state)].foldl (fun s e => setMemByte s e.1 e.2)
    { paged objPage with gtags := [(16384, 2), (16385, 0)] }

/-- What the object of a granule is: its state and its owner. -/
def objectSeen (s : State) (va : Nat) : Option (Nat × Nat) :=
  (objectOf s objPage (frameOf objPage va)).map (fun o => (o.state, o.owner))

theorem wit_AccessChecksTrap : 4 % 8 ≠ 0 ∧ (winBase.toNat % 8 = 0 ∧ inWindow winBase.toNat = true ∧
      (coreOf (live id) (lcKey 1 0)).ways * 32768 < winBase.toNat - windowBase + 8) ∧
    watched (me (live (fun x => { x with waddr0 := 0x20000#64, wctl := 0x7F#64 }))) watchLoad 0x20000 8 = some 0x20000 ∧
    (canonicalVa 0x800000000000 = false ∧ inWindow 0x800000000000 = false ∧
      watched (me (live id)) watchLoad 0x800000000000 8 = none) ∧
    Reaches (paged { dataPage with w := false }) (lcKey 1 0) (me (paged { dataPage with w := false })) 0x20000 8 true
      { dataPage with w := false } ∧
    Reaches (paged aliasPage) (lcKey 1 0) (me (paged aliasPage)) 0x20000 64 false aliasPage ∧
    Reaches (granuled tagHeader) (lcKey 1 0) (me (granuled tagHeader)) 0x20000 8 true objPage ∧
    granTag (granuled tagHeader) (frameOf objPage 0x20000) = tagHeader ∧
    Reaches (owned 1 0x30#8) (lcKey 1 0) (me (owned 1 0x30#8)) 0x20008 8 true objPage ∧
    objectSeen (owned 1 0x30#8) 0x20008 = some (objFrozen, 1) ∧
    Reaches (owned 2 0#8) (lcKey 1 0) (me (owned 2 0#8)) 0x20008 8 true objPage ∧
    granTag (owned 2 0#8) (frameOf objPage 0x20008) = tagData ∧ objectSeen (owned 2 0#8) 0x20008 = some (objPrivate, 2) ∧
    Reaches (granuled tagPoison) (lcKey 1 0) (me (granuled tagPoison)) 0x20000 8 false objPage ∧
    granTag (granuled tagPoison) (frameOf objPage 0x20000) = tagPoison ∧ objectSeen (granuled tagPoison) 0x20000 = none := by
  unfold Reaches; decide +kernel
theorem wit_ChecksOfRows : Readied (.ld 1 2 0) (live (regs [(2, 4#64)])) 4 ∧
    judge (live (regs [(2, 4#64)])) (lcKey 1 0) (me (live (regs [(2, 4#64)]))) 4 8 false false = .trap causeMisaligned 4 [] ∧
    (∃ r, storeRow (.st 1 2 0) = some r ∧ Issues r.names (paged { dataPage with w := false })) ∧
    judge (paged { dataPage with w := false }) (lcKey 1 0) (me (paged { dataPage with w := false })) 0x20000 8 true false =
      .trap causeProtect 0x20000 [] ∧ viaWindow (paged { dataPage with w := false }) 0x20000 8 watchStore = none :=
  ⟨⟨_, rfl, issues_of (by decide), by decide⟩, by decide, ⟨_, rfl, issues_of (by decide)⟩, by decide +kernel, by decide +kernel⟩

/-- s2 at an address that does not translate, in a task without ranges and in one with a STRICT range; the program counter
there. -/
def lost : State := live (regs [(1, 7#64), (2, 0x30000#64)])
def strict : State := modTask lost 1 (fun t => { t with ranges := [⟨0x30000, 65536, false⟩] })
def astray : State := modMe lost (fun x => { x with pc := 0x30000#64 })

theorem untranslated_of {s : State} {va n : Nat} {w : Bool} (h : (!lineBusy s va && va % n == 0 && !inWindow va &&
    (watched (me s) (if w then watchStore else watchLoad) va n).isNone && canonicalVa va && (debugWindow s s.cur.1 va).isNone &&
    (match translate s (asidOf s s.cur.1) va with
      | .fail _ => true
      | .ok _ => false)) = true) : Untranslated s va n w := by
  simp only [Bool.and_eq_true, Bool.not_eq_true', beq_iff_eq, Option.isNone_iff_eq_none] at h
  refine ⟨h.1.1.1.1.1.1, h.1.1.1.1.1.2, h.1.1.1.1.2, h.1.1.1.2, h.1.1.2, h.1.2, ?_⟩
  cases ht : translate s (asidOf s s.cur.1) va with
  | ok p => simp [ht] at h
  | fail e => exact ⟨e, rfl⟩
theorem wit_FailedTranslation : Readied (.ld 1 2 0) lost 0x30000 ∧ Untranslated lost 0x30000 8 false ∧
    leaseEnds lost (taskNum lost.cur.1) 0x30000 = false ∧ Untranslated strict 0x30000 8 true ∧
    (∃ r, storeRow (.st 1 2 0) = some r ∧ Issues r.names strict ∧ r.va strict = 0x30000) ∧
    leaseEnds strict (taskNum strict.cur.1) 0x30000 = true ∧ Untranslated lost 0x30000 64 true ∧
    Issues (vmemNames 3 2 (.lit 0)) lost ∧ runnable astray (lcKey 1 0) 0 = true ∧
    deliverable (ctxOf astray (lcKey 1 0) 0) = false ∧ (ctxOf astray (lcKey 1 0) 0).fence = false ∧
    (match fetchWord { astray with cur := (lcKey 1 0, 0) } (lcKey 1 0) 0x30000 with
      | .parks va _ => va == 0x30000
      | _ => false) = true :=
  ⟨⟨_, rfl, issues_of (by decide), by decide⟩, untranslated_of (by decide +kernel), by decide +kernel,
    untranslated_of (by decide +kernel), ⟨_, rfl, issues_of (by decide), by decide⟩, by decide +kernel,
    untranslated_of (by decide +kernel), issues_of (by decide), by decide +kernel, by decide +kernel, by decide +kernel,
    by decide +kernel⟩

/-- A dirty byte of the line at 0x20000. -/
def dirtied : State := modCore (paged dataPage) (lcKey 1 0) (fun c => { c with l1 :=
  [(lineKey 1024 0x20000, { emptyLine dataPage with valid := 1, dirty := [(1, 1)] })] })

/-- An LD.acq or ST.rel has sent its access; a write of its release is on its way, or none. -/
def replied : State := modMe stashed (fun x => { x with stage := .sent })
def aWrite (d : WriteDest) : WriteReq := ⟨lcKey 1 0, 0, d, none, lineKey 1024 0x20000, 255#128, none⟩
def releasing : State := { replied with writes := [aWrite .msc] }

/-- Another context's write of the line is on its way to the die's second level. -/
def crossed : State := { dirtied with writes := [{ aWrite .l2 with ctx := 1 }] }
def crossedRelease : State := modMe crossed (fun x => { regs [(2, 0x20000#64)] x with stage := .released })

theorem wit_Fences : ReleaseComplete (live id) 4 false ∧ ReleaseComplete dirtied 0 false ∧
    accessesDone (me dirtied) = true ∧ writesOut dirtied dirtied.cur.1 dirtied.cur.2 = false ∧ (me dirtied).stage ≠ .released ∧
    releaseWrites dirtied dirtied.cur.1 dirtied.cur.2 3 false ≠ [] ∧
    (look (coreOf dirtied (lcKey 1 0)).l1 (lineKey 1024 0x20000)).isSome = true ∧ crossing dirtied dirtied.cur.1 (scopeDest 3) = false ∧
    accessesDone (me crossed) = true ∧ writesOut crossed crossed.cur.1 crossed.cur.2 = false ∧ (me crossed).stage ≠ .released ∧
    crossing crossed crossed.cur.1 (scopeDest 3) = true := by
  (repeat' apply And.intro) <;> first | exact issues_of (by decide) | exact release_of (by decide) | decide
theorem wit_AcquireLoads : Issues (memNames 1 2) stashed ∧ (me stashed).stage ≠ .sent ∧
    Passes stashed (valS stashed 2).toNat 8 false false (.window 0) ∧
    readNow stashed stashed.cur.1 (valS stashed 2).toNat 8 (.window 0) = some 0 ∧
    Issues (memNames 1 2) (paged dataPage) ∧ Passes (paged dataPage) (valS (paged dataPage) 2).toNat 8 false false (.page dataPage) ∧
    readNow (paged dataPage) (paged dataPage).cur.1 (valS (paged dataPage) 2).toNat 8 (.page dataPage) = none ∧
    Issues (memNames 1 2) replied ∧ (me replied).stage = .sent ∧
    (∀ l ∈ (me replied).loads, l.addr / 128 ≠ (valS replied 2).toNat / 128) := by
  (repeat' apply And.intro) <;> first
    | exact issues_of (by decide)
    | exact passes_of (by decide +kernel)
    | exact release_of (by decide +kernel)
    | decide +kernel
theorem wit_ReleaseStores : Passes stashed (valS stashed 2).toNat 8 true false (.window 0) ∧ ReleaseComplete stashed 3 false ∧
    storeReady stashed stashed.cur.1 (valS stashed 2).toNat 8 (valS stashed 1).toNat (.window 0) = true ∧
    Issues (memNames 1 2) (paged dataPage) ∧ Passes (paged dataPage) (valS (paged dataPage) 2).toNat 8 true false (.page dataPage) ∧
    ReleaseComplete (paged dataPage) 3 false ∧ storeReady (paged dataPage) (lcKey 1 0) 0x20000 8 7 (.page dataPage) = true ∧
    granBytes (emptyLine dataPage).priv = 0 ∧ Issues (memNames 1 2) releasing ∧ (me releasing).stage = .sent ∧
    writesOut releasing releasing.cur.1 releasing.cur.2 = true ∧ writesOut replied replied.cur.1 replied.cur.2 = false ∧
    Issues (memNames 1 2) crossedRelease ∧ Passes crossedRelease (valS crossedRelease 2).toNat 8 true false (.page dataPage) ∧
    ReleaseComplete crossedRelease 3 false ∧ storeReady crossedRelease (lcKey 1 0) 0x20000 8 0 (.page dataPage) = true ∧
    crossing crossedRelease (lcKey 1 0) (scopeDest 3) = true := by
  (repeat' apply And.intro) <;> first
    | exact issues_of (by decide)
    | exact passes_of (by decide +kernel)
    | exact release_of (by decide +kernel)
    | decide +kernel

/-- s1 a stash address, s2 the address of a page that may be mapped, s3 a length; m mappings and t tiles of the core. -/
def mapping (o v n : Word) (maps : List Mapping) (tiles : Sparse Tile) : State :=
  modCore (modMe (paged dataPage) (regs [(1, o), (2, v), (3, n)])) (lcKey 1 0) (fun c => { c with ways := 1, maps := maps, tiles := tiles })
def mapping1 : State := mapping winBase 0x20000#64 128#64 [] []
def oneMap (dirty : List Nat) : Mapping := ⟨0, 0x20000, 128, [], dirty⟩
def mapped (dirty : List Nat) : State := mapping winBase 0x20000#64 128#64 [oneMap dirty] []

theorem wit_Resize : Issues ⟨[.lit 2], some 1, [], []⟩ (live id) ∧ otherResize (live id) = false ∧
    min (valB (live id) (.lit 2)).toNat (if foldable (live id) (live id).cur.1 then 7 else 14) = 2 ∧
    resizeBusy (live id) (live id).cur.1 0 2 true = false ∧ writesOut (live id) (live id).cur.1 (live id).cur.2 = false ∧
    mapsInWays (myCore (live id)) 2 0 = [] ∧ Issues ⟨[.lit 2], some 1, [], []⟩ releasing ∧ otherResize releasing = false ∧
    writesOut releasing releasing.cur.1 releasing.cur.2 = true ∧ Issues ⟨[.lit 0], some 1, [], []⟩ (mapped [0]) ∧
    otherResize (mapped [0]) = false ∧ resizeBusy (mapped [0]) (lcKey 1 0) 0 1 true = false ∧ (myCore (mapped [0])).ways = 1 ∧
    writesOut (mapped [0]) (lcKey 1 0) 0 = false ∧ mapsInWays (myCore (mapped [0])) 0 1 = [oneMap [0]] ∧
    unmapWrites (mapped [0]) (lcKey 1 0) 0 (oneMap [0]) ≠ [] := by
  (repeat' apply And.intro) <;> first | exact issues_of (by decide) | exact release_of (by decide) | decide

/-- A page that SMAP may map, and a page of objects, which it may not. -/
theorem demo_page (s : State) (x : Nat) (p : Page) (h : (canonicalVa x && decide (debugWindow s s.cur.1 x = none) &&
    decide (translate s (asidOf s s.cur.1) x = .ok p) && !p.aliased && decide (p.attr ≠ attrObject)) = true) : PageMaps s x := by
  simp only [Bool.and_eq_true, decide_eq_true_eq, Bool.not_eq_true'] at h
  exact ⟨h.1.1.1.1, h.1.1.1.2, p, h.1.1.2, h.1.2, h.2⟩

theorem wit_Smap : Issues (smapNames 1 2 (.s 3)) mapping1 ∧ (valS mapping1 1).toNat % 128 = 0 ∧
    (valS mapping1 2).toNat % 128 = 0 ∧ (valB mapping1 (.s 3)).toNat = 128 ∧ StashFree (myCore mapping1) (valS mapping1 1).toNat 128 ∧
    GlobalFree (myCore mapping1) 0x20000 128 ∧ pagesOf 0x20000 128 = [0x20000] ∧ PageMaps mapping1 0x20000 ∧
    (valS (mapping 1#64 0#64 0#64 [] []) 1).toNat % 128 ≠ 0 ∧ (valS (mapping winBase 1#64 0#64 [] []) 2).toNat % 128 ≠ 0 :=
  ⟨issues_of (by decide), by decide, by decide, by decide, ⟨by decide, by decide, by decide, nofun, nofun⟩,
    ⟨nofun, by decide⟩, by decide, demo_page _ _ dataPage (by decide +kernel), by decide, by decide⟩
theorem wit_SmapTraps : ¬ StashFree (myCore (mapped [])) winBase.toNat 128 ∧
    StashFree (myCore (mapped [])) (winBase.toNat + 128) 128 ∧ ¬ GlobalFree (myCore (mapped [])) 0x20000 128 ∧
    PageDenies (mapping winBase 0x800000000000#64 128#64 [] []) 0x800000000000 :=
  ⟨fun h => h.2.2.2.1 (oneMap []) (by decide) ⟨by decide, by decide⟩,
    ⟨by decide, by decide, by decide, by unfold Meet; decide, nofun⟩,
    fun h => h.1 (oneMap []) (by decide) ⟨by decide, by decide⟩, .inl (by decide)⟩
theorem wit_Sunmap : Issues ⟨[.s 1], none, [], []⟩ mapping1 ∧ mapAt (myCore mapping1) (valS mapping1 1).toNat = none ∧
    Issues ⟨[.s 1], none, [], []⟩ (mapped []) ∧ mapAt (myCore (mapped [])) (valS (mapped []) 1).toNat = some (oneMap []) ∧
    accessesDone (me (mapped [])) = true ∧ writesOut (mapped []) (lcKey 1 0) 0 = false ∧
    unmapWrites (mapped []) (lcKey 1 0) 0 (oneMap []) = [] ∧ unmapWrites (mapped [0]) (lcKey 1 0) 0 (oneMap [0]) ≠ [] ∧
    mapAt (myCore (mapped [0])) (valS (mapped [0]) 1).toNat = some (oneMap [0]) := by
  (repeat' apply And.intro) <;> first
    | exact issues_of (by decide)
    | exact passes_of (by decide +kernel)
    | exact release_of (by decide +kernel)
    | decide +kernel

/-- Tile 1 in a state. -/
def tiled (st : TileState) : State := mapping winBase 0#64 64#64 [] [(1, ⟨64, 64, 0, .bf16, st⟩)]

theorem wit_TilesDefinedAndFreed : tdefRow (.tdefMask 63 1 (.s 3)) = some (.mask, 63, 1, .s 3) ∧
    Issues (tdefNames 1 (.s 3)) (tiled .ready) ∧ moving (tileOf (myCore (tiled .filling)) 1) = true ∧
    moving (tileOf (myCore (tiled .ready)) 63) = false ∧ TileMeets ⟨64, 64, 0, .bf16, .ready⟩ 0 64 ∧
    (valS mapping1 1).toNat - windowBase = 0 ∧ (valB mapping1 (.s 3)).toNat ≠ 0 ∧ inWindow (valS mapping1 1).toNat = true ∧
    Issues (tdefNames 1 (.s 3)) mapping1 ∧ moving (tileOf (myCore mapping1) 63) = false ∧ (myCore mapping1).tiles = [] ∧
    (myCore mapping1).maps = [] ∧ Issues ⟨[], some 7, [], []⟩ (tiled .draining) ∧
    moving (tileOf (myCore (tiled .draining)) 1) = true := by
  unfold TileMeets Meet
  (repeat' apply And.intro) <;> first | exact issues_of (by decide) | decide

/-- The address of a line in s2, and a value in s1; the line dirty, or half of it held by the host besides. -/
def offering : State := live (regs [(1, 7#64), (2, 0x20000#64)])
def keptDirty : State := setHalf dirtied (lineKey 1024 0x20000) ⟨.e, .i, 0, 0⟩

/-- y0 reports a hold: entry 3 of mill 50. -/
def holding : State := modMe offering (fun x => setYreg x 0 (replyWord 1 12 3 50))

/-- The write of a REFST that stores 0 at an address, of a core; that core's is on its way. -/
def aRefst (lc va : Nat) (k : RefstKind) : WriteReq :=
  ⟨lc, 0, .msc, none, lineKey 1024 va, accessMask va 8, some ⟨va, objPage, 0#64, k⟩⟩
def refsting : State := { offering with writes := [aRefst (lcKey 1 0) 0x20000 .store] }

theorem wit_OffersIssue : offerRow (.ofrCas 1 3 2 (.s 4)) = some (.cas, false, 1, 3, 2, .s 4) ∧
    Issues (offerNames .cas 1 2 (.s 4)) offering ∧ offerTags .cas (.s 4) (me offering) = true ∧
    (3 : F2).toNat ∉ (me offering).ypend ∧ OfferAddress offering (valS offering 2).toNat 8 8 ∧
    coreLoadBusy offering offering.cur.1 (valS offering 2).toNat = false ∧ (lineGone offering (valS offering 2).toNat).isSome = true ∧
    (lineGone dirtied (valS dirtied 2).toNat).isSome = true ∧
    offerRow (.ofrAdd 3 0 2 (.v 5)) = some (.add, false, 3, 0, 2, .v 5) ∧
    Issues (offerNames .add 1 1 (.s 4)) offering ∧ (valS offering 1).toNat % 8 ≠ 0 ∧
    Issues (offerNames .add 1 2 (.s 1)) stashed ∧ inWindow (valS stashed 2).toNat = true ∧ (valS stashed 2).toNat % 8 = 0 ∧
    Issues (offerNames .add 1 2 (.s 1)) keptDirty ∧ OfferAddress keptDirty (valS keptDirty 2).toNat 8 8 ∧
    coreLoadBusy keptDirty keptDirty.cur.1 0x20000 = false ∧ canonicalVa 0x20000 = true ∧
    lineWrites keptDirty (lcKey 1 0) 0 (lineKey 1024 0x20000) ≠ [] ∧ translate keptDirty 1024 0x20000 = .ok dataPage ∧
    (match flushAll keptDirty (lineWrites keptDirty (lcKey 1 0) 0 (lineKey 1024 0x20000)) with
      | (u, some x) => !landFull u x dataPage
      | _ => false) = true ∧
    (lineWrites dirtied (lcKey 1 0) 0 (lineKey 1024 0x20000)).length = 1 ∧ refstOut offering offering.cur.1 0x20000 = false ∧
    Issues (offerNames .add 1 2 (.s 1)) (mapped []) ∧ watched (me (mapped [])) watchOffer 0x20000 8 = none ∧
    (valS (mapped []) 2).toNat = 0x20000 ∧ mappingOf (myCore (mapped [])) 0x20000 ≠ none ∧ Issues (offerNames .add 1 2 (.s 1)) refsting ∧
    OfferAddress refsting (valS refsting 2).toNat 8 8 ∧ coreLoadBusy refsting refsting.cur.1 0x20000 = false ∧
    refstOut refsting refsting.cur.1 0x20000 = true := by
  (repeat' apply And.intro) <;> first
    | exact issues_of (by decide)
    | exact ⟨by decide, by decide, by decide, by decide, by decide⟩
    | exact passes_of (by decide +kernel)
    | exact release_of (by decide +kernel)
    | decide +kernel
theorem wit_SettlesIssue : Issues ⟨[.s 1], none, [2], []⟩ holding ∧
    OfferAddress holding (valS holding 2).toNat (settleBytes (valS holding 2).toNat (.s 1)) 4 ∧
    holdsEntry (me holding) 0 = true ∧ loadBusy (me holding) (valS holding 2).toNat = false ∧
    settleCleans holding 0 (valS holding 2).toNat (.s 1) = false ∧
    settleCleans (modMe dirtied (fun x => setYreg x 0 (replyWord 1 12 3 50))) 0 0x20000 (.s 1) = true ∧
    (2 : F2).toNat ∈ (me (live (fun x => { x with ypend := [2] }))).ypend ∧
    Issues ⟨[.s 1], none, [2], []⟩ (live (fun x => { x with ypend := [2] })) ∧
    Issues ⟨[], none, [2], []⟩ (live (fun x => { x with ypend := [2] })) ∧
    holdsEntry (me offering) 0 = false ∧ OfferAddress offering (valS offering 2).toNat (settleBytes (valS offering 2).toNat (.s 1)) 4 ∧
    Issues ⟨[], none, [2], []⟩ holding ∧ watched (me holding) watchOffer (valS holding 2).toNat 4 = none ∧
    refstOut holding holding.cur.1 0x20000 = false ∧ Issues ⟨[], none, [2], []⟩ offering ∧ (1 : F2).toNat ∉ (me offering).ypend ∧
    Issues ⟨[.s 1], none, [2], []⟩ (mapped []) ∧ watched (me (mapped [])) watchOffer 0x20000 (settleBytes 0x20000 (.s 1)) = none := by
  (repeat' apply And.intro) <;> first
    | exact issues_of (by decide)
    | exact ⟨by decide, by decide, by decide, by decide, by decide⟩
    | exact passes_of (by decide +kernel)
    | exact release_of (by decide +kernel)
    | decide +kernel

/-- An exchange of eight bytes at 0x20000 from the live context, and its settle; the mill they go to. -/
def anOffer (prio : Bool) : Offer :=
  { lc := lcKey 1 0, ctx := 0, y := 0, dst := 1, op := .xchg, shape := .scalar, tag := .raw, addr := 0x20000, asid := 1024,
    task := 1, b := 7, b2 := 0, fm := 0#64, r := [], prio := prio, turn := 0 }
def anMill : Nat := homeMill (live id) 0x20000 1024
def aSettle (data : Option Vec) : Settle :=
  { lc := lcKey 1 0, ctx := 0, y := 0, hold := 3, mill := anMill, addr := 0x20000, asid := 1024, task := 1, shape := .scalar, data := data,
    answered := data.isNone }
def aHold (reason : Nat) : Hold :=
  { lc := lcKey 1 0, ctx := 0, y := 0, task := 1, addr := 0x20000, asid := 1024, shape := .scalar, prio := false, reason := reason, since := 0, page := dataPage }
def aReply (settle : Bool) : Reply :=
  { lc := lcKey 1 0, ctx := 0, y := 0, dst := 1, shape := .scalar, tag := .raw, data := 5, writes := true, kind := 0, reason := 0,
    hold := 0, mill := 0, flags := noFlags, settle := settle, release := false, addr := 0x20000 }

/-- Offers in a mill, its page mapped or not; an offer or settle on its way, its hold live or not. -/
def queued (p : Page) (os slots : List Offer) : State := modMill (paged p) anMill (fun q => { q with queue := os, slots := slots })
def flying (r : MillReq) : State := { paged dataPage with flights := [r] }
def withHold (s : State) (reason : Nat) : State := modMill s anMill (fun q => { q with holds := [(3, aHold reason)] })
def held (reason : Nat) : State := withHold (flying (.settle (aSettle (some 5)))) reason

theorem wit_Arrivals : (flying (.offer (anOffer false))).flights[0]? = some (.offer (anOffer false)) ∧
    inTurn (flying (.offer (anOffer false))) 0 (.offer (anOffer false)) = true ∧ (anOffer false).prio = false ∧
    (millOf (flying (.offer (anOffer false))) anMill).queue.length < 32 ∧ (anOffer true).prio = true ∧
    inTurn (flying (.offer (anOffer true))) 0 (.offer (anOffer true)) = true ∧
    (millOf (flying (.offer (anOffer true))) anMill).slots.length < 4 ∧
    ownQueued (flying (.offer (anOffer true))) anMill (anOffer true) = false ∧
    holdOn (millOf (flying (.offer (anOffer true))) anMill) (offerKey (anOffer true)) = none ∧
    (holdOn (millOf (held 9) anMill) (offerKey (anOffer true))).isSome = true ∧
    (millOf (flying (.offer (anOffer false))) anMill).accepted ≠ some (millCycle (flying (.offer (anOffer false)))) ∧
    acceptedNow (modMill (flying (.offer (anOffer false))) anMill (fun q => { q with accepted := some 0 })) anMill = true ∧
    32 ≤ (millOf { queued dataPage (List.replicate 32 (anOffer false)) [] with flights := [.offer (anOffer false)] } anMill).queue.length := by
  decide +kernel
theorem wit_Takes : firstTakable (queued dataPage [anOffer false] []) anMill [anOffer false] = some 0 ∧
    answerOffer (queued dataPage [anOffer false] []) anMill (anOffer false) = .executes dataPage ∧
    firstTakable (queued dataPage [] [anOffer true]) anMill [anOffer true] = some 0 ∧
    answerOffer (queued { dataPage with w := false } [anOffer false] []) anMill (anOffer false) = .faults 33 ∧
    answerOffer (modStack (queued dataPage [anOffer false] []) (anMill / 4) (fun k => { k with asleep := true })) anMill (anOffer false) =
      .holds 9 dataPage ∧
    answerOffer (modMill (queued dataPage [anOffer false] []) anMill (fun q => { q with holds := [(1, aHold 9)] })) anMill (anOffer false) =
      .declines 4 := by decide +kernel
theorem wit_Settles : (held 9).flights[0]? = some (.settle (aSettle (some 5))) ∧ inTurn (held 9) 0 (.settle (aSettle (some 5))) = true ∧
    offerAhead (held 9) anMill (reqKey (held 9) (.settle (aSettle (some 5)))) = false ∧
    ownOfferBefore (held 9) anMill (lcKey 1 0) 0 (reqKey (held 9) (.settle (aSettle (some 5)))) = false ∧
    (let s := modMill (held 9) anMill (fun q => { q with slots := [anOffer true] });
      (s.flights[0]? = some (.settle (aSettle (some 5))) ∧ anOffer true ∈ (millOf s anMill).slots ∧
        offerKey (anOffer true) = reqKey s (.settle (aSettle (some 5))))) ∧
    isParked (held 9) (.settle (lcKey 1 0) 0 0) = false ∧ namedHold (held 9) (aSettle (some 5)) = some (aHold 9) ∧
    namedHold (held 4) (aSettle (some 5)) = some (aHold 4) ∧ shapeAgrees (aHold 9).shape (aSettle (some 5)).shape = true ∧
    translate (held 9) 1024 0x20000 = .ok dataPage ∧
    settleBlocked (held 9) (aHold 9) (lineKey 1024 0x20000) (accessMask 0x20000 8) = false ∧
    cmpRoom (held 9) dataPage (frameOf dataPage 0x20000) (mergeLine (pocLine (held 9) (lineKey 1024 0x20000) dataPage)
      (natLine 5 0 8) (accessMask 0x20000 8)) = true ∧
    namedHold (flying (.settle (aSettle (some 5)))) (aSettle (some 5)) = none := by decide +kernel
theorem wit_Releases : (withHold (flying (.settle (aSettle none))) 4).flights[0]? = some (.settle (aSettle none)) ∧
    inTurn (withHold (flying (.settle (aSettle none))) 4) 0 (.settle (aSettle none)) = true ∧
    offerAhead (withHold (flying (.settle (aSettle none))) 4) anMill (holdKey (aHold 4)) = false ∧ (aSettle none).answered = true ∧
    ownOfferBefore (withHold (flying (.settle (aSettle none))) 4) anMill (lcKey 1 0) 0 (holdKey (aHold 4)) = false ∧
    isParked (withHold (flying (.settle (aSettle none))) 4) (.settle (lcKey 1 0) 0 0) = false ∧
    ({ aSettle none with answered := false } : Settle).data = none ∧
    namedHold (withHold (flying (.settle (aSettle none))) 4) (aSettle none) = some (aHold 4) ∧
    translate (withHold (flying (.settle (aSettle none))) 4) 1024 (aHold 4).addr = .ok dataPage := by decide +kernel
theorem wit_RepliesHoldsSlices : ({ live id with replies := [aReply true] }).replies[0]? = some (aReply true) ∧
    ({ aReply true with kind := 3, release := true } : Reply).settle = true ∧
    (standsOn (live id) (lcKey 1 0)).isSome = true ∧ (ctxOf (live id) (lcKey 1 0) 0).live = true ∧
    look (millOf { held 9 with ticks := 4096 } anMill).holds 3 = some (aHold 9) ∧
    (aHold 9).since + 1024 ≤ millCycle { held 9 with ticks := 4096 } ∧ prioHoldLives (held 9) 0 = false ∧
    (stackOf (held 9) 0).asleep = false ∧ (stackOf (held 9) 0).skipped = false ∧
    (stackOf (modStack (held 9) 0 (fun k => { k with asleep := true })) 0).asleep = true ∧
    prioHoldLives (modStack (held 9) 0 (fun k => { k with asleep := true })) 0 = false := by decide +kernel
theorem wit_OfferResults : (anOffer false).op = .xchg ∧ (anOffer false).shape = .scalar ∧
    ({ anOffer false with op := .cas } : Offer).op = .cas ∧ (0 : Vec) ≠ (anOffer false).b ∧
    isArith ({ anOffer false with op := .min, shape := .vector, tag := .fp16 } : Offer).tag = true ∧
    laneVal 0#64 .fp16 0x3C00 0 = .fin false 1 ∧ 31 < shapeLanes .vector .fp16 := by decide +kernel

/-- The state of an offer's page as the table of reasons sees it, the slice asleep, or the offer's frame in host memory. -/
def judged (asleep : Bool) (p : Page) : State :=
  modStack (queued p [anOffer false] []) (anMill / 4) (fun k => { k with asleep := asleep })
theorem wit_OfferJudged : isParked (judged false dataPage) (.offer (lcKey 1 0) 0 0) = false ∧
    takenBefore (judged false dataPage) anMill (anOffer false) = false ∧ canonicalVa (anOffer false).addr = true ∧
    canonicalVa 0x800000000000 = false ∧ translate (judged false dataPage) 1024 0x20000 = .ok dataPage ∧
    ((declineTable (judged false dataPage) anMill (anOffer false) dataPage).find? (·.2)).isNone = true ∧
    (declineTable (judged true dataPage) anMill (anOffer false) dataPage).find? (·.2) = some (9, true) ∧
    (declineTable (judged false dataPage) anMill (anOffer false) { dataPage with frame := 2 * 2 ^ 48 }).find? (·.2) = some (2, true) ∧
    halfBlocks (judged true dataPage) (offerKey (anOffer false)) (accessMask 0x20000 8) false = false ∧
    granTag (judged false dataPage) (frameOf dataPage 0x20000) = 0 ∧ holdOn (millOf (judged false dataPage) anMill) (offerKey (anOffer false)) = none ∧
    tableFull (millOf (judged false dataPage) anMill) = false ∧ isFaulty (judged false dataPage) (frameOf dataPage 0x20000) = false ∧
    isFaulty { judged false dataPage with faulty := [16384] } (frameOf dataPage 0x20000) = true ∧
    namedHold (held 9) { aSettle (some 5) with addr := 0x20004 } = some (aHold 9) := by decide +kernel

theorem test_rls_awaits_its_reply : (me (after (exec (.rls 0 2) holding))).ypend = [0] ∧
    yreg (me (after (exec (.rls 0 2) holding))) 0 = yreg (me holding) 0 := by decide +kernel

/-- A PRIVATE object of two granules of task 1 at 0x20000, its second granule a reference. -/
def withObject : State := setMemByte (setMemByte { paged objPage with gtags := [(16384, 2), (16385, 1)] } 131072 2#8) 131075 1#8

/-- The same, its line in the MSC. -/
def filled : State := { withObject with msc := [(lineKey 1024 0x20000, ⟨0x01000002, objPage, false⟩)] }

/-- s1 the value that REFST stores, s2 the granule. -/
def storing (g p : Word) (s : State) : State := modMe s (fun x => regs [(1, p), (2, g)] x)

/-- A walk of task 1, not started or on a frame of its path; and the pending request of a PUB. -/
def aWalk (started : Bool) (path : List WalkFrame) : Walk := ⟨5, 0x20000, 3, lcKey 1 0, 0, started, path, none⟩
def walking (started : Bool) (path : List WalkFrame) (s : State) : State := modTask s 1 (fun t => { t with walks := [aWalk started path] })
def aPub : PubReq := ⟨lcKey 1 0, 0, 1, 0x20000, 3, 1⟩

theorem wit_Refld : Issues (refldNames 1 2) (storing 0x20008#64 0#64 withObject) ∧
    lineBusy (storing 0x20008#64 0#64 withObject) 0x20008 = false ∧
    judgeRefld (storing 0x20008#64 0#64 withObject) 0x20008 = .page objPage ∧ allowed (.page objPage) = true ∧
    readNow (storing 0x20008#64 0#64 withObject) (lcKey 1 0) 0x20008 8 (.page objPage) = none ∧
    readNow (modCore withObject (lcKey 1 0) (fun c => { c with l1 := [(lineKey 1024 0x20000, { emptyLine objPage with valid := BitVec.allOnes 128 })] }))
      (lcKey 1 0) 0x20008 8 (.page objPage) = some 0 ∧ (me withObject).stage ≠ .sent ∧
    Issues (refldNames 1 2) replied ∧ loadBusy (me replied) (valS replied 2).toNat = false ∧
    granTag withObject (frameOf objPage 0x20000) ≠ 1 ∧ watched (me withObject) watchLoad 0x20000 8 = none ∧
    debugWindow withObject (lcKey 1 0) 0x20000 = none ∧ translate withObject (asidOf withObject (lcKey 1 0)) 0x20000 = .ok objPage ∧
    granTag withObject (frameOf objPage 0x20008) = 1 ∧ ownerRule withObject 1 objPage false 0x20008 = none ∧
    isFaulty { withObject with faulty := [16385] } (frameOf objPage 0x20008) = true := by
  (repeat' apply And.intro) <;> first
    | exact issues_of (by decide)
    | exact release_of (by decide +kernel)
    | decide +kernel
/-- A REFST of logical core 1 to the granule at 0x20008 is on its way. -/
def following (k : RefstKind) : State := { withObject with writes := [aRefst (lcKey 1 1) 0x20008 k] }

/-- A plan of REFST in numbers: what it does, and its count or cause. -/
def planCode : RefstPlan → Nat × Nat
  | .traps c _ _ => (0, c)
  | .parksG _ => (1, 0)
  | .parksP _ => (2, 0)
  | .waits => (3, 0)
  | .follows ws => (7, ws.length)
  | .carves _ n => (4, n)
  | .frees _ o => (5, o.len)
  | .stores _ => (6, 0)

theorem wit_Refst : Issues (refstNames 1 2) (storing 0x20010#64 2#64 withObject) ∧
    lineBusy (storing 0x20010#64 2#64 withObject) 0x20010 = false ∧
    (lineGone (storing 0x20010#64 2#64 withObject) 0x20010).isSome = true ∧
    ReleaseComplete (storing 0x20010#64 2#64 withObject) 3 false ∧
    planCode (refstPlan (storing 0x20010#64 2#64 withObject) 0x20010 2) = (4, 2) ∧
    granuleReady (storing 0x20010#64 2#64 withObject) 1024 0x20010 objPage (carvedHeader 1 2 2) = true ∧
    planCode (refstPlan (storing 0x20000#64 0#64 withObject) 0x20000 0) = (5, 2) ∧
    planCode (refstPlan (storing 0x20008#64 0#64 withObject) 0x20008 0) = (6, 0) ∧
    granuleReady (storing 0x20008#64 0#64 withObject) 1024 0x20008 objPage 0#64 = true ∧
    granuleReady (setHalf (storing 0x20010#64 2#64 withObject) (lineKey 1024 0x20000) ⟨.e, .i, 0, 0⟩) 1024 0x20010 objPage
      (carvedHeader 1 2 2) = false ∧
    granuleFull (setHalf (storing 0x20010#64 2#64 withObject) (lineKey 1024 0x20000) ⟨.e, .i, 0, 0⟩) 1024 0x20010 objPage
      (carvedHeader 1 2 2) = false ∧ planCode (refstPlan (storing 4#64 0#64 withObject) 4 0) = (0, 4) ∧
    lineBusy (storing 0x20008#64 0#64 (following .store)) 0x20008 = false ∧
    planCode (refstPlan (storing 0x20008#64 0#64 (following .store)) 0x20008 0) = (7, 1) := by
  (repeat' apply And.intro) <;> first
    | exact issues_of (by decide)
    | exact release_of (by decide +kernel)
    | decide +kernel
/-- Another task's load of that granule is outstanding. -/
def read : State := { modCtx (following (.carve 1)) (lcKey 2 0) 0 (fun x => { x with loads := [⟨false, 3, .raw, 8, false, 0x20008, objPage, none, 0⟩] })
  with tasks := put withObject.tasks 2 { soloTask with num := 2 } }
theorem wit_RefstLands : (following .store).writes[0]? = some (aRefst (lcKey 1 1) 0x20008 .store) ∧
    firstOfLine (following .store) 0 (lineKey 1024 0x20008) = true ∧
    isParked (following .store) (.write (lcKey 1 1) 0 (lineKey 1024 0x20008)) = false ∧
    isParked (following .store) (.refst (lcKey 1 1) 0 (lineKey 1024 0x20008)) = false ∧
    lineWrites (following .store) (lcKey 1 1) 0 (lineKey 1024 0x20008) = [] ∧
    granuleReady (dropLine (following .store) (lcKey 1 1) (lineKey 1024 0x20008)) 1024 0x20008 objPage 0#64 = true ∧
    carveWaits (following (.carve 1)) (aRefst (lcKey 1 1) 0x20008 (.carve 1)) ⟨0x20008, objPage, 0#64, .carve 1⟩ = false ∧
    carveWaits read (aRefst (lcKey 1 1) 0x20008 (.carve 1)) ⟨0x20008, objPage, 0#64, .carve 1⟩ = true := by decide +kernel
theorem wit_Pub : Issues ⟨[], none, [1, 2], []⟩ (paged objPage) ∧ (valS (paged objPage) 2).toNat % 8 = 0 ∧
    inWindow (valS (paged objPage) 2).toNat = false ∧ (me (paged objPage)).ypend = [] ∧
    (me (modMe (paged objPage) (fun x => { x with ypend := [3] }))).ypend ≠ [] ∧
    writesOut (paged objPage) (lcKey 1 0) 0 = false ∧ writesOut { paged objPage with writes := [aWrite .msc] } (lcKey 1 0) 0 = true ∧
    (valS (storing 4#64 0#64 withObject) 2).toNat % 8 ≠ 0 ∧ inWindow (valS (storing winBase 0#64 withObject) 2).toNat = true ∧
    (valS (storing winBase 0#64 withObject) 2).toNat % 8 = 0 ∧
    Issues ⟨[], none, [1], []⟩ (storing 0#64 5#64 (walking false [] withObject)) ∧
    (valS (storing 0#64 5#64 (walking false [] withObject)) 1).toNat % 65536 = 5 ∧
    walkOutstanding (walking false [] withObject) 1 5 = true ∧ walkOutstanding withObject 1 5 = false ∧
    (me withObject).walkFaults = [] ∧
    (me (modMe withObject (fun x => { x with walkFaults := [⟨5, causeEscape, 8⟩] }))).walkFaults.find? (fun f => f.walk == 5) =
      some ⟨5, causeEscape, 8⟩ ∧ causeEscape ≠ causePoison := by
  (repeat' apply And.intro) <;> first
    | exact issues_of (by decide)
    | exact release_of (by decide +kernel)
    | decide +kernel
theorem wit_Walks : ({ withObject with pubs := [aPub] }).pubs[0]? = some aPub ∧ taskOf withObject aPub.task = some soloTask ∧
    soloTask.walks.length < 64 ∧ (ctxOf withObject aPub.lc aPub.ctx).live = true ∧
    taskOf (walking false [] withObject) 1 = some { soloTask with walks := [aWalk false []] } ∧
    isParked (walking false [] withObject) (.walk 1) = false ∧
    walksRunning (walking false [] withObject) (homeStack (walking false [] withObject) 0x20000 1024) < 8 ∧
    canonicalVa 0x20000 = true ∧ translate (walking false [] withObject) 1024 0x20000 = .ok objPage ∧
    headerHeld (walking false [] withObject) 1024 0x20000 = false ∧
    isPoison (walking false [] withObject) (frameOf objPage 0x20000) = false := by decide +kernel

/-- The state after a walk has read its root, and the header there. -/
def rooted (s : State) : State := headerRead (modWalk (walking false [] s) 1 takeUp) 1024 0x20000
def rootWord (s : State) : Word := currentWord (rooted s) objPage (frameOf objPage 0x20000)

/-- The root is on the path, to be cleaned. -/
def cleaning (u : State) : State := modWalk (writeHeader u { soloTask with walks := [aWalk false []] } 0x20000 objPage 1 0) 1
  (fun x => { x with path := ⟨0x20000, 2, 0x20000⟩ :: advancePath x.path })

theorem wit_WalkStarts : granTag (walking false [] withObject) (frameOf objPage 0x20000) = 2 ∧
    bits (rootWord withObject) 45 44 = 0 ∧ bits (rootWord withObject) 43 24 = 1 ∧
    granTag (walking false [] (paged objPage)) (frameOf objPage 0x20000) ≠ 2 ∧
    2 ≤ bits (rootWord (setMemByte withObject 131077 0x20#8)) 45 44 ∧
    bits (rootWord (setMemByte withObject 131075 2#8)) 43 24 ≠ 1 ∧
    granuleReady (rooted withObject) 1024 0x20000 objPage (headerState (rootWord withObject) 1 0) = true ∧
    refstsMeeting (walking false [] withObject) 131072 16 = [] ∧ refstsMeeting (walking false [] (following .store)) 131072 16 ≠ [] ∧
    (landAll objPage (cleaning (rooted withObject)) (objectWrites (cleaning (rooted withObject)) { soloTask with walks := [aWalk false []] } 0x20000
      (bits (rootWord withObject) 23 0))).2 = none := by decide +kernel
/-- The second granule of the object dirty in its core, and the host's hold on its line: its clean waits. -/
def objDirty (s : State) : State := setHalf (modCore s (lcKey 1 0) (fun c => { c with l1 :=
  [(lineKey 1024 0x20000, { emptyLine objPage with valid := 0x100, dirty := [(1, 0x100)] })] })) (lineKey 1024 0x20000) ⟨.e, .i, 0, 0⟩
/-- How a clean of the object of two granules at 0x20000 goes: 0 it is done, 1 it waits, 2 it waits for storage. -/
def cleans (s : State) : Nat :=
  match landAll objPage s (objectWrites s { soloTask with walks := [aWalk true []] } 0x20000 2) with
  | (_, none) => 0
  | (u, some r) => if landFull u r objPage then 2 else 1
theorem wit_WalkCleans : cleans (cleaning (rooted (objDirty withObject))) = 1 ∧
    cleans (walking true [⟨0x20000, 2, 0x20000⟩] withObject) = 0 := by decide +kernel

/-- On the path: the object, all of it read, or its first granule next. -/
def leaving : State := walking true [⟨0x20000, 2, 0x20010⟩] withObject
def reading : State := walking true [⟨0x20000, 3, 0x20010⟩] withObject

theorem wit_WalkSteps : taskOf leaving 1 = some { soloTask with walks := [aWalk true [⟨0x20000, 2, 0x20010⟩]] } ∧
    isParked leaving (.walk 1) = false ∧ 0x20010 ≠ 0x20000 ∧ 0x20000 + 8 * 2 ≤ 0x20010 ∧
    granuleReady leaving 1024 0x20000 objPage (headerState (currentWord leaving objPage (frameOf objPage 0x20000)) 2 2) = true ∧
    0x20010 < 0x20000 + 8 * 3 ∧ translate reading 1024 0x20010 = .ok objPage ∧
    halfBlocks reading (lineKey 1024 0x20010) (accessMask 0x20010 8) false = false ∧
    isPoison reading (frameOf objPage 0x20010) = false ∧ granTag reading (frameOf objPage 0x20010) ≠ 1 := by decide +kernel

/-- REFST's granule passes its checks: free, in the own PRIVATE object, a header, poison. -/
theorem wit_RefstRules : RefstReaches withObject 0x20010 objPage ∧ refstsMeeting withObject 131072 128 = [] ∧ FreeGranule withObject objPage (frameOf objPage 0x20010) ∧
    0x20010 % pageSize objPage + 8 * 2 ≤ pageSize objPage ∧
    (∀ e ∈ withObject.gtags, e.1 < frameOf objPage 0x20010 / 8 ∨ frameOf objPage 0x20010 / 8 + 2 ≤ e.1) ∧
    otherLoads withObject (taskNum withObject.cur.1) (frameOf objPage 0x20010) 2 = false ∧
    RefstReaches withObject 0x20000 objPage ∧ granTag withObject (frameOf objPage 0x20000) = 2 ∧
    RefstReaches withObject 0x20008 objPage ∧ granTag withObject (frameOf objPage 0x20008) = 1 ∧
    (objectOf withObject objPage (frameOf objPage 0x20008)).map (fun o => (o.state, o.owner)) = some (0, 1) ∧
    granTag (granuled tagPoison) (frameOf objPage 0x20000) = 3 ∧ RefstReaches (granuled tagPoison) 0x20000 objPage ∧
    (objectOf (owned 2 0#8) objPage (frameOf objPage 0x20008)).map (fun o => (o.state, o.owner)) = some (0, 2) ∧
    (objectOf (owned 1 0x30#8) objPage (frameOf objPage 0x20008)).map (fun o => (o.state, o.owner)) = some (3, 1) ∧
    headerHeld withObject 1024 0x20000 = false := by
  unfold RefstReaches FreeGranule; decide +kernel

/-- The core owns a0 to a3; tile 1 is a drain's READY tile of FP32. -/
def owning : State := modCore (live id) (lcKey 1 0) (fun c => { c with mxacc := 0x0F#64, ways := 14, tiles := [(1, ⟨65536, 65536, 0, .fp32, .ready⟩)] })

/-- A job in the yard's queue that waits or runs. -/
def aJob (k : JobKind) (running : Bool) : Job :=
  ⟨lcKey 1 0, 0, 0, k, 0#64, 0#64, Tile.reset, Tile.reset, [], running, false⟩
def jobbed (k : JobKind) (running : Bool) : State := modYard (modCore owning (lcKey 1 0) (fun c => { c with mxNext := 1, mxOut := [0] })) 0
  (fun y => { y with jobs := [aJob k running] })

/-- A RESIZE waits for the ways of a READY tile; a context owns its tile's ways and a0. -/
def resizing (c : LCore) : LCore := { c with resizing := some (0, 0, 14) }
def blockedJob : State := modCore owning (lcKey 1 0) resizing

theorem wit_MatrixJobs : jobRow (.mxdrFp32 8 1 0) = some (8, .drain .fp32 1 0) ∧ (jobAccs (.drain .fp32 1 0)).all (ownsAcc (myCore owning)) = true ∧
    (jobAccs (.drain .fp32 1 0)).all (ownsAcc (myCore (live id))) = false ∧ Issues (destNames 8) owning ∧
    (yardOf owning (myYard owning)).jobs.length < 16 ∧ jobCheck (myCore owning) (.drain .fp32 1 0) = .ok ∧
    jobCheck (myCore owning) (.drain .bf16 1 0) = .trap causeFormat ∧ causeFormat ≠ causePoison ∧
    jobBehindResize (myCore owning) (.drain .fp32 1 0) = false ∧
    Issues (destNames 8) blockedJob ∧ jobCheck (myCore blockedJob) (.drain .fp32 1 0) = .ok ∧
    jobBehindResize (myCore blockedJob) (.drain .fp32 1 0) = true ∧
    16 ≤ (yardOf (modYard owning 0 (fun y => { y with jobs := List.replicate 16 (aJob (.mxz 0) false) })) 0).jobs.length ∧
    Issues ⟨[.s 1], none, [], []⟩ owning ∧ jobPending (myCore owning) (valB owning (.s 1)).toNat = false ∧
    jobPending (myCore (jobbed (.mxz 0) true)) (valB (jobbed (.mxz 0) true) (.s 1)).toNat = true ∧
    Issues ⟨[.s 1], none, [], []⟩ (jobbed (.mxz 0) true) ∧ Issues ⟨[.s 1], some 8, [], []⟩ owning := by
  (repeat' apply And.intro) <;> first
    | exact issues_of (by decide)
    | decide +kernel
theorem wit_Engines : (yardOf (jobbed (.mxz 0) false) 0).jobs[0]? = some (aJob (.mxz 0) false) ∧
    jobMayStart (jobbed (.mxz 0) false) 0 0 (aJob (.mxz 0) false) = true ∧ (aJob (.mxz 0) true).running = true ∧
    (yardOf (jobbed (.mxz 0) true) 0).jobs[0]? = some (aJob (.mxz 0) true) ∧
    (ctxOf (jobbed (.mm true 0 true 1 1) true) (lcKey 1 0) 0).live = true ∧ (aJob (.mm true 0 true 1 1) true).orphan = false ∧
    (rowOf (modRow owning 0 (fun r => { r with sprint := true })) 0).sprint = true ∧ (rowOf owning 0).sprint = false ∧
    (yardOf (modYard owning 0 (fun y => { y with sprint := true })) 0).sprint = true ∧ engineIdle (yardOf owning 0) = true ∧
    (aJob (.drain .fp32 1 0) true).kind = .drain .fp32 1 0 ∧ Tag.fp32 ∈ [Tag.fp32, .bf16, .fp16, .dm8, .i8] ∧
    (aJob (.mm false 0 true 1 1) true).tileA.tag = (aJob (.mm false 0 true 1 1) true).tileB.tag ∧
    (myCore owning).mxNext < 65536 ∧ ∀ i ∈ (myCore owning).mxOut, i < 65536 := by decide +kernel
/-- A product of two tiles of I8, K = 16, whose operands are 1 at place 0 and 0 elsewhere. -/
def product : Job := { aJob (.mm false 0 false 1 1) true with
  tileA := ⟨2048, 2048, 0, .i8, .ready⟩, tileB := ⟨2048, 2048, 0, .i8, .ready⟩, snap := [(0, 1#8)] }
theorem wit_ProductElement : (∀ k, k < 16 → (factorA product false [] 16 0 k).1 = .fin false (if k = 0 then 1 else 0) ∧
      (factorB product 16 k 0).1 = .fin false (if k = 0 then 1 else 0)) ∧
    ((List.range 16).map (fun k => (if k = 0 then 1 else 0 : Rat) * (if k = 0 then 1 else 0 : Rat))).sum ≠ 0 := by decide +kernel

/-- A push in s16 to s19: BULK.IN of 64 bytes at 0x20000 into tile 1, which is in the state st. -/
def pushing (st : TileState) : State :=
  modCore (modMe (paged dataPage) (regs [(16, 4#64), (17, 0x20000#64), (18, 64#64), (19, 0#64)])) (lcKey 1 0)
    (fun c => { c with ways := 1, tiles := [(1, ⟨64, 64, 0, .raw, st⟩)] })
/-- Its request in the FIFO, pos bytes moved, a position tried; it runs. -/
def aCopy (ctl : Word) (pos : Nat) (d : Option Desc) (fault : Option (Nat × Nat)) : Copy :=
  ⟨lcKey 1 0, 0, 0, [ctl, 0x20000#64, 64#64, 0#64], d, pos, [], none, fault, false⟩
def tried (ctl : Word) (d : Option Desc) : Copy := { aCopy ctl 0 d none with trying := some 0 }
def copying (k : Copy) : State := modYard (modCore (pushing .filling) (lcKey 1 0) (fun c => { c with mxNext := 1, mxOut := [0] })) 0
  (fun y => { y with copies := [k] })
/-- One element of eight bits at 0x20000. -/
def aDesc : Desc := ⟨0x20000, [(1, 0)]⟩

/-- A full FIFO of the yard; a RESIZE waits for the tile's ways. -/
def crowded : State := modYard (pushing .ready) 0 (fun y => { y with copies := List.replicate 32 (aCopy 4#64 0 none none) })
def blockedPush : State := modCore (pushing .ready) (lcKey 1 0) resizing

theorem wit_Pushes : Issues (copyNames 16) (pushing .ready) ∧ pushCheck (pushing .ready) (pushWords (pushing .ready) 16) = none ∧
    moving (tileOf (myCore (pushing .ready)) (copyTile ((pushWords (pushing .ready) 16).getD 0 0#64))) = false ∧
    resizeWaits (myCore (pushing .ready)) 0 64 = false ∧
    (yardOf (pushing .ready) (myYard (pushing .ready))).copies.length < 32 ∧
    Issues ⟨[], some 8, pushRegs 16, []⟩ (pushing .ready) ∧ Issues ⟨[], some 8, pushRegs 16, []⟩ (pushing .draining) ∧
    Issues (copyNames 16) (pushing .draining) ∧ pushCheck (pushing .draining) (pushWords (pushing .draining) 16) = none ∧
    moving (tileOf (myCore (pushing .draining)) 1) = true := by
  (repeat' apply And.intro) <;> first
    | exact issues_of (by decide)
    | decide +kernel
theorem wit_PushesWait : Issues (copyNames 16) crowded ∧ pushCheck crowded (pushWords crowded 16) = none ∧
    moving (tileOf (myCore crowded) 1) = false ∧ resizeWaits (myCore crowded) 0 64 = false ∧
    32 ≤ (yardOf crowded (myYard crowded)).copies.length ∧ Issues ⟨[], some 8, pushRegs 16, []⟩ crowded ∧
    Issues (copyNames 16) blockedPush ∧ pushCheck blockedPush (pushWords blockedPush 16) = none ∧
    moving (tileOf (myCore blockedPush) 1) = false ∧ resizeWaits (myCore blockedPush) 0 64 = true ∧
    Issues ⟨[], some 8, pushRegs 16, []⟩ blockedPush ∧ Issues (copyNames 16) (pushing .empty) ∧
    pushCheck (pushing .empty) (pushWords (pushing .empty) 16) = some causeTile ∧
    ([4#64, 0x20000#64, 64#64, 0#64].getD 2 0#64) ≠ 0#64 := by
  (repeat' apply And.intro) <;> first
    | exact issues_of (by decide)
    | decide +kernel
theorem wit_CopyAccess (w : Bool) : CopyAccess (copying (aCopy 4#64 0 none none)) (aCopy 4#64 0 none none) 0x20000 32 w dataPage := by
  cases w <;> exact ⟨by decide, by decide, by decide +kernel, by decide +kernel, by decide +kernel⟩
theorem wit_ElementAccess (w : Bool) : CopyAccess (copying (tried 0x406#64 (some aDesc))) (tried 0x406#64 (some aDesc)) 0x20000 1 w dataPage := by
  cases w <;> exact ⟨by decide, by decide, by decide +kernel, by decide +kernel, by decide +kernel⟩
theorem wit_Bulk : runningCopy (copying (tried 4#64 none)) 0 0 = some (tried 4#64 none) ∧
    copyTensor (tried 4#64 none).ctl = false ∧ copyDone (tried 4#64 none) = false ∧ copyIn (tried 4#64 none).ctl = true ∧
    landingPos (tried 4#64 none) 32 64 0 = 0 ∧
    halfBlocks (copying (tried 4#64 none)) (lineKey 1024 0x20000) (spanMask 0 32) false = false ∧
    runningCopy (copying (tried 5#64 none)) 0 0 = some (tried 5#64 none) ∧ copyDone (tried 5#64 none) = false ∧
    copyIn (tried 5#64 none).ctl = false ∧ mscReady (copying (tried 5#64 none)) 1024 0x20000 32 0 dataPage = true := by decide +kernel
theorem wit_Elements : copyTensor (tried 0x406#64 (some aDesc)).ctl = true ∧
    runningCopy (copying (tried 0x406#64 (some aDesc))) 0 0 = some (tried 0x406#64 (some aDesc)) ∧
    (tried 0x406#64 (some aDesc)).pos < aDesc.total ∧ landingPos (tried 0x406#64 (some aDesc)) 1 aDesc.total 0 = 0 ∧
    copyIn (tried 0x406#64 (some aDesc)).ctl = true ∧ elementIndices 0x406#64 aDesc 0 = [0] ∧
    halfBlocks (copying (tried 0x406#64 (some aDesc))) (lineKey 1024 0x20000) (spanMask 0 1) false = false ∧
    copyIn (tried 0x407#64 (some aDesc)).ctl = false ∧
    mscReady (mscRead (copying (tried 0x407#64 (some aDesc))) 1024 0x20000 1 dataPage).1 1024 0x20000 1 0 dataPage = true := by
  decide +kernel
theorem wit_CopyEnds : copyDone (aCopy 4#64 64 none none) = true ∧
    runningCopy (copying (aCopy 4#64 64 none none)) 0 0 = some (aCopy 4#64 64 none none) ∧
    descOk ⟨64, 64, 0, .raw, .filling⟩ 0x406#64 aDesc = true ∧ descOk ⟨64, 64, 0, .raw, .filling⟩ 0x406#64 ⟨0x20000, [(1, 1)]⟩ = false ∧ aDesc.total ≠ 0 ∧ (aCopy 5#64 0 none none).trying = none ∧
    0 ∉ (aCopy 5#64 0 none none).landed ∧
    (yardOf (copying (aCopy 4#64 32 none (some (1, 0)))) 0).copies[0]? = some (aCopy 4#64 32 none (some (1, 0))) ∧
    (ctxOf (modMe (copying (aCopy 4#64 32 none (some (1, 0)))) (fun x => { x with frozen := true })) (lcKey 1 0) 0).frozen = true ∧
    (ctxOf (copying (aCopy 4#64 32 none (some (1, 0)))) (lcKey 1 0) 0).pend = [] := by decide +kernel

/-- The line at 0x20000 holds a descriptor of one element: 1, base, extent 1 (bits 63:40), stride 0. -/
def described : State := { copying (aCopy 0x406#64 0 none none) with
  msc := [(lineKey 1024 0x20000, ⟨1#1024 ||| (0x20000#1024 <<< 64) ||| (1#1024 <<< 168), dataPage, false⟩)] }
theorem wit_Descriptor : runningCopy described 0 0 = some (aCopy 0x406#64 0 none none) ∧
    readDesc described (aCopy 0x406#64 0 none none) (fun t d => if d = aDesc then t else State.reset) = described := by decide +kernel
set_option maxRecDepth 100000 in
theorem wit_DescRead : DescRead described (aCopy 0x406#64 0 none none) described aDesc := fun _ => rfl

/-- A launch record at 0x20000: entry 0x10000, one level of one core (R278, R279). -/
def recorded : State := { paged dataPage with
  msc := [(lineKey 1024 0x20000, ⟨0x10000#1024 ||| (0x10#1024 <<< 192) ||| (0x104#1024 <<< 512), dataPage, false⟩)] }
/-- Its sixteen words. -/
def recordWords : List Word := [0x10000#64, 0#64, 0#64, 0x10#64, 0#64, 0#64, 0#64, 0#64, 0x104#64, 0#64, 0#64, 0#64, 0#64, 0#64, 0#64, 0#64]
/-- Task 2, entered from a record at 128. -/
def aTask (st : TaskStage) : Task := { soloTask with num := 2, record := 128, stage := st, begun := false }
def entering (q : Task) (s : State) : State := { s with tasks := put s.tasks 2 q }

theorem wit_Launch : Issues ⟨[.s 2], some 8, [], []⟩ recorded ∧ (valB recorded (.s 2)).toNat % 128 = 0 ∧
    (valB (storing 4#64 0#64 withObject) (.s 2)).toNat % 128 ≠ 0 ∧ inWindow (valB (storing winBase 0#64 withObject) (.s 2)).toNat = true ∧
    (valB (storing winBase 0#64 withObject) (.s 2)).toNat % 128 = 0 ∧ Issues ⟨[.s 0], some 8, [], []⟩ (live id) ∧
    canonicalVa 0 = true ∧ debugWindow (live id) (lcKey 1 0) 0 = none ∧ ReleaseComplete (live id) scopeSys false := by
  (repeat' apply And.intro) <;> first
    | exact issues_of (by decide)
    | exact release_of (by decide)
    | decide +kernel
theorem wit_LaunchAnswers : (∀ v, (me (live id)).stage ≠ .answered v) ∧
    takeRecord (live id) 0 1024 0 0 = (live id, .answer (-2#64)) := ⟨nofun, rfl⟩
theorem wit_Records : 4096 ≤ poolSize { live id with tasks := (List.range 4096).map (fun n => (n + 1, aTask .pending)) } ∧
    poolSize (live id) < 4096 ∧ entered (live id) 1024 0 = true ∧ entered recorded 1024 0x20000 = false ∧
    readWords 1024 16 0x20000 [] recorded = (recorded, .got recordWords) ∧ recRanges recordWords = 0 ∧ recordOk recordWords = true ∧
    recordOk (recordWords.set 8 0x004#64) = false ∧
    (match (readWords 1024 (2 * 1) (0x20000 + 128) recordWords recorded).2 with
      | .got ws => ws.length
      | _ => 0) = 18 ∧ recRanges (recordWords.set 3 0x110#64) = 1 ∧ 16 < recRanges (recordWords.set 3 0x1110#64) := by decide +kernel
/-- The queue of function 0, of address space 1024, holds the record address 0. -/
def asked : State := modVf (live id) 0 (fun v => { v with queue := [0], asid := 1024, part := 0 })
theorem wit_HostQueue : (vfOf (live id) 0).queue.length < 16 ∧ (live id).modPower = .active ∧ cxlUp (live id) = true ∧
    16 ≤ (vfOf (modVf (live id) 0 (fun v => { v with queue := List.replicate 16 0 })) 0).queue.length ∧
    (vfOf asked 0).queue = [0] ∧ (vfOf asked 0).part < 48 ∧
    isParked asked (.hostEntry 0) = false ∧
    ((vfOf asked 0).rrtail + 2 ^ 32 - (vfOf asked 0).rrhead) % 2 ^ 32 < ringSize (vfOf asked 0).rrbase ∧
    (vfOf asked 0).answers ≠ 1 ∧ asked.modPower = .active ∧ takeRecord asked 0 (vfOf asked 0).asid (vfOf asked 0).part 0 =
      (asked, .answer (-2#64)) := by decide +kernel
theorem wit_TaskStages : taskOf (entering (aTask .pending) (live id)) 2 = some (aTask .pending) ∧ (aTask .pending).pred = 0 ∧
    rangesResident (live id) (aTask .pending) = true ∧ (aTask .ready).level < 7 ∧ (aTask .ready).since + 1800000 ≤ 1800000 ∧
    taskOf (entering { aTask .ready with level := 7 } { live id with ticks := 7200000 }) 2 = some { aTask .ready with level := 7 } ∧
    ({ live id with ticks := 7200000 }).starved = none ∧
    (∀ e ∈ (entering { aTask .ready with level := 7 } { live id with ticks := 7200000 }).tasks, e.1 ≠ 2 →
      starves { live id with ticks := 7200000 } e.2 = true → before e.2 { aTask .ready with level := 7 } = false) := by decide +kernel

/-- Task 2 ready in a verified module whose partition 0 has yard 1. -/
def placing : State := modPart { entering (aTask .ready) (live id) with security := .verified } 0 (fun p => { p with yards := [1], running := some 0 })
/-- Task 3 ready besides, at a higher level. -/
def rival : Task := { aTask .ready with num := 3, level := 1 }
def contested : State := { placing with tasks := put placing.tasks 3 rival }
theorem wit_Place : taskOf placing 2 = some (aTask .ready) ∧ isParked placing (.bank 2) = false ∧ mayRun placing (aTask .ready) = true ∧
    placeTurn placing (aTask .ready) = true ∧ placementOk placing (aTask .ready) [8] = true ∧ (aTask .ready).const = 0 ∧
    taskOf contested 2 = some (aTask .ready) ∧ (3, rival) ∈ contested.tasks ∧ mayRun contested rival = true ∧
    fits contested rival = true ∧ (aTask .ready).level < rival.level ∧
    (match (readWords 1024 64 0x20000 [] recorded).2 with
      | .got ws => ws.length
      | _ => 0) = 64 ∧ { aTask .ready with const := 0x20000 }.const ≠ 0 ∧
    placementOk placing { aTask .ready with const := 0x20000 } [8] = true ∧
    (physOf (modPhys placing 8 (fun q => { q with kept := some ⟨128, 1024, 0, 1, [], [], 0⟩ })) 8).kept = some ⟨128, 1024, 0, 1, [], [], 0⟩ ∧
    (aTask .ready).record = 128 ∧ (aTask .ready).asid = 1024 := by decide +kernel
/-- The pending successor that a completed task with the record ra names in address space 1024, and its PRED. -/
def successor (q : Task) (ra : Nat) : Option (Nat × Nat) :=
  ((entering q (live id)).tasks.find? (fun e => e.2.record == ra && e.2.asid == 1024 && e.2.stage == .pending)).map (fun e => (e.1, e.2.pred))
theorem wit_Credits : successor { aTask .pending with pred := 1 } 128 = some (2, 1) ∧ successor (aTask .pending) 128 = some (2, 0) ∧
    successor (aTask .pending) 256 = none := by decide
theorem wit_TaskOver : taskOf (entering (aTask .done) (live id)) 2 = some (aTask .done) ∧ taskOver (entering (aTask .done) (live id)) (aTask .done) = true ∧
    taskQuiet (entering (aTask .done) (live id)) (aTask .done) = true ∧ isParked (entering (aTask .done) (live id)) (.completion 2) = false ∧
    Machine.translate recorded 1024 0x20000 = .ok dataPage ∧
    mscReady recorded 1024 0x20000 64 (wordsNat (complWords recorded { aTask .done with compl := 0x20000 })) dataPage = true ∧
    taskOf (entering (aTask .done) (live id)) 0 = none ∧
    keptOver (modPhys { live id with ticks := 18000000 } 3 (fun q => { q with kept := some ⟨128, 1024, 0, 1, [], [], 0⟩ })) 3 = true ∧
    keptOver (modPhys { live id with ticks := 17999999 } 3 (fun q => { q with kept := some ⟨128, 1024, 0, 1, [], [], 0⟩ })) 3 = false := by decide +kernel

/-- Row 0 under a lease of task 1 whose time is over; its rail up. -/
def leased : State := modRow (live id) 0 (fun r => { r with leaseLive := true, leaseTask := 1, railUp := true, sprint := false })
/-- The sensor of row 0 after a transition at tick 0, at tick n. -/
def sensed (n : Nat) (pending : Option Bool) : State := { live id with ticks := n, sensors := [(.row 0, ⟨false, some 0, pending⟩)] }

theorem wit_Leases : Issues ⟨[.s 1], some 8, [], []⟩ (live id) ∧ zeroGrant (live id) 0 1 = none ∧ (rowOf (live id) 0).leaseLive = false ∧
    zeroGrant { live id with rfz := true } 0 1 = some 1 ∧ ({ live id with rfz := true }).rfz = true ∧
    (rowOf leased (myRow leased)).leaseLive = true ∧ (rowOf leased (myRow leased)).leaseTask = taskNum leased.cur.1 ∧
    (rowOf leased 0).leaseEnd ≤ leased.ticks ∧ (lcKey 1 0, 0) ∈ rowContexts leased 0 ∧ (ctxOf leased (lcKey 1 0) 0).live = true ∧
    600 < ({ leased with melt := 700 }).melt ∧ bits 0x0000100000100000#64 39 20 ≠ 0 ∧
    liveInRow leased (bits 0x0000100000100000#64 63 44) 0 = true ∧ liveInRow leased (bits 0x0000200000100000#64 63 44) 0 = false ∧
    (rowOf leased 0).railUp = true ∧ (rowOf leased 0).sprint = false ∧ leased.modPower ≠ .standby ∧ zeroGrant leased 0 1 = none ∧
    (live id).rfz = false ∧ 950 ≤ ({ live id with melt := 1000 }).melt ∧ ({ live id with melt := 1023 }).melt = 1023 ∧ (live id).melt < 950 ∧
    3600 < ({ live id with power10us := 3591 }).power10us + 10 ∧ ({ live id with power10us := 3590 }).power10us + 10 ≤ 3600 ∧
    (rowOf (modRow (live id) 0 (fun r => { r with hot := true })) 0).hot = true ∧ ¬ ((rowOf (live id) 0).leaseLive = true ∧ (rowOf (live id) 0).leaseTask ≠ 1) ∧
    (rowOf leased 0).leaseTask ≠ 2 ∧ ({ live id with ticks := 1800000 }).meltAt + 1800000 ≤ ({ live id with ticks := 1800000 }).ticks ∧
    ({ live id with ticks := 1800000 }).modPower ≠ .standby ∧ (live id).ticks < (live id).meltAt + 1800000 ∧ (rowOf (live id) 0).hot = false ∧ (live id).trip = false := by
  (repeat' apply And.intro) <;> first
    | exact issues_of (by decide)
    | exact release_of (by decide)
    | decide +kernel
theorem wit_Thresholds : dwelling (live id) (senseOf (live id) (.row 0)) = false ∧
    overAt (.row 0) (senseOf (live id) (.row 0)).above 1000 ≠ (senseOf (live id) (.row 0)).above ∧
    overAt (.row 0) (senseOf (live id) (.row 0)).above 999 = (senseOf (live id) (.row 0)).above ∧
    overAt (.row 0) (senseOf (sensed 1799999 none) (.row 0)).above 1000 ≠ (senseOf (sensed 1799999 none) (.row 0)).above ∧
    dwelling (sensed 1799999 none) (senseOf (sensed 1799999 none) (.row 0)) = true ∧
    (senseOf (sensed 1800000 none) (.row 0)).since.isSome = true ∧
    dwelling (sensed 1800000 none) (senseOf (sensed 1800000 none) (.row 0)) = false ∧ (senseOf (sensed 1800000 none) (.row 0)).pending = none ∧
    (senseOf (sensed 1800000 (some true)) (.row 0)).pending = some true ∧
    dwelling (sensed 1800000 (some true)) (senseOf (sensed 1800000 (some true)) (.row 0)) = false ∧
    ({ live id with trip := true }).trip = true := by decide +kernel
theorem wit_Power : (physOf (modPhys (live id) 3 (fun q => { q with power := .on })) 3).power = .on ∧ coresOn (live id) 3 = [] ∧
    (physOf (live id) 3).kept = none ∧ (∀ e ∈ (live id).cores, e.2.storedIn ≠ some 3) ∧ (physOf (live id) 3).idleSince + 3600 ≤ ({ live id with ticks := 3600 }).ticks ∧
    (physOf (modPhys (live id) 3 (fun q => { q with power := .waking 5 })) 3).power = .waking 5 ∧
    256 ≤ (physOf (modPhys (live id) 3 (fun q => { q with vIdle := 256 })) 3).vIdle ∧
    (rowOf (modRow (live id) 0 (fun r => { r with inrush := [3] })) 0).inrush = [3] ∧ (rowOf (live id) 0).inrushNext ≤ (live id).ticks := by
  decide +kernel

/-- Row 0 in a step of the droop sequence with n cycles left, its rail below. -/
def drooping (d : Droop) (n : Nat) : State := modRow (live id) 0 (fun r => { r with droop := d, droopLeft := n, railBelow := true })
/-- A pulse of yard 0 that ends at a moment. -/
def pulsing (n : Nat) : State := modYard (live id) 0 (fun y => { y with pulseEnd := some n })

theorem wit_Droop : (rowOf (live id) 0).droop ≠ .stretched ∧ rowTH (rowOf (live id) 0) ≠ 0 ∧ 2 * rowTH (rowOf (live id) 0) ≤ 40 ∧
    39 < 2 * rowTH (rowOf (live id) 0) ∧ (rowOf (live id) 0).below = false ∧ rowTH (rowOf (modRow (live id) 0 (fun r => { r with drth := 0#64 })) 0) = 0 ∧
    (rowOf (drooping .stretched 0) 0).droop = .stretched ∧ (rowOf (drooping .stretched 0) 0).droopLeft = 0 ∧
    (rowOf (drooping .halved 0) 0).droop = .halved ∧ (rowOf (drooping .halved 0) 0).droopLeft = 0 ∧
    cycleReady { live id with ticks := 1 } 0 = true ∧ pulseAllowed (drooping .halved 64) 0 = true ∧ (rowOf (live id) 0).droop = .calm ∧
    pulseEnding (pulsing 0) 0 = true := by decide +kernel
theorem wit_Clock : overdue (live id) = false ∧ overdue { live id with ticks := 1 } = true ∧
    bits (getD 0#64 (physOf (live id) 0).csel 0) 15 14 = 0 ∧ bits (getD 0#64 (physOf (live id) 0).csel 0) 7 0 = 0 ∧
    2 ^ 48 ≤ (getD 0#64 (physOf (modPhys (live id) 0 (fun q => { q with cnt := setD 0#64 [] 0 0xFFFFFFFFFFFF#64 })) 0).cnt 0).toNat + 1 := by
  decide +kernel
/-- How a byte that Renair carries to 0x20000 of address space 1024 arrives: 0 it is written, 1 it waits for the host, 2 it parks,
3 it waits for its page. -/
def arrives (s : State) : Nat :=
  match linkWrite 1024 s [(0x20000, 5#8)] with
  | .done _ => 0
  | .waits => 1
  | .full _ _ => 2
  | .misses _ => 3
theorem wit_Receives : renairRuns (paged dataPage) = true ∧ isParked (paged dataPage) (.link 1) = false ∧ arrives (paged dataPage) = 0 ∧
    arrives (live id) = 3 ∧ arrives (setHalf (paged dataPage) (lineKey 1024 0x20000) ⟨.e, .i, 0, 0⟩) = 1 ∧ linkBytes ⟨1, 1024, 0x20000, [5#8]⟩ = [(0x20000, 5#8)] ∧ dieOf 256 ≠ 0 ∧ dataPage.aliased = false ∧
    translate (paged dataPage) 1024 (0x20000 % 2 ^ 64) = .ok dataPage ∧ ({ live id with modPower := .standby }).modPower = .standby := by
  decide +kernel

/-- Core 0 counts event 0x14 with its counter 0: action a, route r. -/
def counting (a r v : Nat) : State := modPhys (live id) 0 (fun q => { q with ctag := 0x8000#64, csel := setD 0#64 [] 0 (word (0x14 + r * 4096 + a * 16384)), cnt := setD 0#64 [] 0 (word v) })
theorem wit_Counts : bits (getD 0#64 (physOf (counting 0 1 7) 0).csel 0) 15 14 = 0 ∧ bits (getD 0#64 (physOf (counting 0 1 7) 0).csel 0) 13 12 = 1 ∧
    bits (getD 0#64 (physOf (counting 0 1 7) 0).csel 0) 7 0 = 0x14 ∧ (getD 0#64 (physOf (counting 0 1 7) 0).cnt 0).toNat + 1 < 2 ^ 48 ∧
    2 ^ 48 ≤ (getD 0#64 (physOf (counting 0 2 (2 ^ 48 - 1)) 0).cnt 0).toNat + 1 ∧ bits (getD 0#64 (physOf (counting 0 2 0) 0).csel 0) 13 12 = 2 ∧
    bits (getD 0#64 (physOf (counting 0 3 0) 0).csel 0) 13 12 % 3 = 0 ∧ bits (getD 0#64 (physOf (counting 1 0 0) 0).csel 0) 15 14 = 1 ∧
    bits (getD 0#64 (physOf (counting 2 0 0) 0).csel 0) 15 14 = 2 ∧ bits (getD 0#64 (physOf (counting 3 0 0) 0).csel 0) 15 14 = 3 ∧
    bits (getD 0#64 (physOf (live id) 0).csel 0) 7 0 ≠ 0x14 ∧ bits (getD 0#64 (physOf (counting 0 1 7) 0).csel 1) 15 14 = 0 ∧
    reeveOf { counting 0 1 0 with reeves := [(0, lcKey 1 0)] } (dieOf 0) = some (lcKey 1 0) ∧
    taskOf (live id) 1 = some soloTask ∧ tagAdmits (physOf (live id) 0).ctag none = false := by decide +kernel
theorem wit_Bins : histBin 0x0000003000200010#64 0x0F = 0 ∧ histBin 0x0000003000200010#64 0x10 = 1 ∧
    histBin 0x0000003000200010#64 0x20 = 2 ∧ histBin 0x0000003000200010#64 0x30 = 3 := by decide

/-- Task 1 foldable on cores 0 and 1; task 2 of nine cores ready at level 1 where eight are free. -/
def pressing : State :=
  setCore (modTask (modTask placing 1 (fun t => { t with fold := true, levels := [⟨4, 0, 2, 0⟩] })) 2 (fun t => { t with levels := [⟨4, 0, 9, 0⟩], level := 1 }))
    (lcKey 1 1) { soloCore with phys := 1 }
/-- The logical core in another state of its entry. -/
def standing (n left phys : Nat) (s : State) : State := modCore s (lcKey 1 0) (fun c => { c with lstate := n, left := left, phys := phys })
/-- The core of row 0 that it stands on over its limit. -/
def hotCore : State := { placing with sensors := [(.core 0, ⟨true, none, none⟩)] }

theorem wit_Migration : standsOn hotCore (lcKey 1 0) = some 0 ∧ sensorAbove hotCore (.core 0) = true ∧ sensorAbove hotCore (.core 8) = false ∧
    dieOf 8 = dieOf 0 ∧ 8 ∈ freeCores hotCore (lcKey 1 0) (dieOf 0) ∧ accRoom hotCore (lcKey 1 0) (yardNum 8) = true ∧
    moveReady hotCore (lcKey 1 0) = true ∧ (flushCore hotCore (lcKey 1 0)).2 = none := by decide +kernel
theorem wit_Folding : (taskOf pressing 1).map (fun t => (t.fold, pressed pressing t)) = some (true, true) ∧
    foldsOnto pressing (lcKey 1 0) (lcKey 1 1) = true ∧ yardPreferred pressing (lcKey 1 0) (lcKey 1 1) = true ∧
    moveReady pressing (lcKey 1 0) = true ∧ moveReady pressing (lcKey 1 1) = true ∧
    2 * (foldedCount pressing 1 + 1) ≤ crewSize [⟨4, 0, 2, 0⟩] ∧ (flushCore pressing (lcKey 1 0)).2 = none ∧
    (coreOf (standing 3 0 0 placing) (lcKey 1 0)).lstate = 3 ∧ 8 ∈ freeCores (standing 3 0 0 placing) (lcKey 1 0) 0 ∧
    accRoom (standing 3 0 0 placing) (lcKey 1 0) (yardNum 8) = true ∧ moveReady (standing 3 0 0 placing) (lcKey 1 0) = true ∧
    (flushCore (standing 3 0 0 placing) (lcKey 1 0)).2 = none := by decide +kernel
theorem wit_Lodging : standsOn (live id) (lcKey 1 0) = some 0 ∧ slotFree (live id) 0 3 = true ∧ freeCores (live id) (lcKey 1 0) 0 = [] ∧
    allFrozen (coreOf (modMe (live id) (fun x => { x with frozen := true })) (lcKey 1 0)) = true ∧ moveReady (live id) (lcKey 1 0) = true ∧
    lodgeHost (live id) 0 = some 1 ∧ (physOf (live id) 1).power = .off ∧
    lodgeHost (modPhys (live id) 1 (fun q => { q with power := .on })) 0 = some 1 ∧
    (physOf (modPhys (live id) 1 (fun q => { q with power := .on })) 1).power = .on ∧
    (flushCore (modPhys (live id) 1 (fun q => { q with power := .on })) (lcKey 1 0)).2 = none := by decide +kernel
/-- Logical core 0 lodged in slot 3, its image in core 1, its head frozen with a request that waits, its packet waiting or not. -/
def lodged (d : Nat) (ps : List Packet) : State :=
  modCtx (modCore { standing 4 0 3 (live id) with packets := ps } (lcKey 1 0) (fun c => { c with storedIn := some 1 })) (lcKey 1 0) 0
    (fun x => { x with frozen := true, dctl := d })
theorem wit_Restored : (coreOf (lodged 1 []) (lcKey 1 0)).lstate = 4 ∧ restoreTarget (lodged 1 []) (lcKey 1 0) = some 0 ∧
    (coreOf (lodged 1 []) (lcKey 1 0)).storedIn = some 1 ∧ (ctxOf (lodged 2 []) (lcKey 1 0) 0).live = true ∧
    (ctxOf (lodged 2 []) (lcKey 1 0) 0).frozen = true ∧ (ctxOf (lodged 2 []) (lcKey 1 0) 0).dctl = 2 ∧
    rollingBack (lodged 2 []) (lcKey 1 0) = false ∧ packetWaits (lodged 2 []) (lcKey 1 0) 0 = false ∧
    packetWaits (lodged 1 [⟨lcKey 1 0, 0, []⟩]) (lcKey 1 0) 0 = true ∧
    restoreTarget (lodged 1 [⟨lcKey 1 0, 0, []⟩]) (lcKey 1 0) = some 0 ∧
    ctxMovable (live id) (lcKey 1 0) (0, ctxOf (live id) (lcKey 1 0) 0) = true ∧ (ctxOf (live id) (lcKey 1 0) 0).live = true := by
  decide +kernel
theorem wit_Restoring : (coreOf (standing 4 0 3 (live id)) (lcKey 1 0)).lstate = 4 ∧
    restoreTarget (standing 4 0 3 (live id)) (lcKey 1 0) = some 0 ∧ (ctxOf (standing 4 0 3 (live id)) (lcKey 1 0) 0).dctl = 0 ∧
    (vfOf (modVf (live id) 0 (fun v => { v with part := 0 })) 0).part = 0 ∧
    (live id).modPower ≠ .standby := by decide +kernel

/-- The write request of a release whose line is dirty, or clean. -/
def writing (d : WriteDest) : State := { dirtied with writes := [aWrite d] }
/-- A memory record of the head's access, with or without a place in the ring. -/
def aRecord (i : Option Nat) : MemRecord := ⟨i, 1, 0, 1024, 0, 0x30000, 0, 0, 0#64, 1, 0, [⟨.access (lcKey 1 0) 0, 0x30000, []⟩]⟩
/-- Logical core 0 of task 1 serves as the reeve of die 0, its rings at 0x10000 of address space 0. -/
def reeving (m : MemRecord) : State :=
  modPhys { cachePage (live id) 0 0x10000 dataPage with reeves := [(0, lcKey 1 0)], mrqbase := 0x10000#64, records := [m] } 0
    (fun q => { q with fpqbase := 0x10000#64 })

theorem wit_Writes : (writing .l2).writes[0]? = some (aWrite .l2) ∧ firstOfLine (writing .l2) 0 (aWrite .l2).key = true ∧
    isParked (writing .l2) (.write (lcKey 1 0) 0 (aWrite .l2).key) = false ∧ (aWrite .l2).fromL2 = none ∧ (aWrite .l2).refst = none ∧
    inMask (dirtyMask (outLine (writing .l2) (aWrite .l2) default)) 0 = true ∧
    firstOfLine (writing .msc) 0 (aWrite .msc).key = true ∧ dirtyMask (outLine (writing .msc) (aWrite .msc) default) ≠ 0 ∧
    dirtyMask (outLine releasing (aWrite .msc) default) = 0 ∧
    translate (writing .msc) (keyAsid (aWrite .msc).key) (keyVa (aWrite .msc).key) = .ok dataPage ∧
    landReady (writing .msc) (aWrite .msc) dataPage = true ∧ dataPage.aliased = false := by decide +kernel
/-- Its line does not translate; its task has a STRICT range. -/
def unmapped : State := { writing .msc with tlb := [] }
def departing : State := modTask unmapped 1 (fun t => { t with ranges := [⟨0x20000, 65536, false⟩] })
/-- The error of the line's translation. -/
def writeError (s : State) : Option Word :=
  match translate s (keyAsid (aWrite .msc).key) (keyVa (aWrite .msc).key) with
  | .ok _ => none
  | .fail e => some e
theorem wit_LostWrites : (writeError unmapped).isSome = true ∧ (writeError departing).isSome = true ∧
    writeLease unmapped (aWrite .msc) = false ∧ writeLease departing (aWrite .msc) = true ∧
    (departing.writes[0]?, unmapped.writes[0]?) = (some (aWrite .msc), some (aWrite .msc)) ∧
    firstOfLine departing 0 (aWrite .msc).key = true ∧ firstOfLine unmapped 0 (aWrite .msc).key = true ∧
    isParked departing (.write (lcKey 1 0) 0 (aWrite .msc).key) = false ∧ isParked unmapped (.write (lcKey 1 0) 0 (aWrite .msc).key) = false ∧
    dirtyMask (outLine departing (aWrite .msc) default) ≠ 0 ∧ dirtyMask (outLine unmapped (aWrite .msc) default) ≠ 0 ∧
    (ctxOf departing (lcKey 1 0) 0).live = true ∧ (ctxOf departing (lcKey 1 0) 0).frozen = false ∧
    bit (ctxOf departing (lcKey 1 0) 0).elit 63 = false ∧ (ctxOf departing (lcKey 1 0) 0).pend = [] := by decide +kernel

/-- Record 7, behind which one thing is parked. -/
def behind (w : Requester) : State := reeving { aRecord (some 7) with waiters := [⟨w, 0x30000, []⟩] }
theorem wit_Waiters : (recordAt (behind (.access (lcKey 1 0) 0)) 7).map (·.waiters) = some [⟨.access (lcKey 1 0) 0, 0x30000, []⟩] ∧
    (recordAt (behind (.launch (lcKey 1 0) 0)) 7).map (·.waiters) = some [⟨.launch (lcKey 1 0) 0, 0x30000, []⟩] ∧
    (recordAt (behind (.bank 1)) 7).map (·.waiters) = some [⟨.bank 1, 0x30000, []⟩] ∧
    (recordAt (behind (.completion 1)) 7).map (·.waiters) = some [⟨.completion 1, 0x30000, []⟩] ∧
    (behind (.bank 1)).modPower ≠ .standby ∧ taskOf (behind (.bank 1)) 1 = some soloTask ∧
    (ctxOf (modMe (behind (.write (lcKey 1 0) 0 0)) (fun x => { x with wait := 7 })) (lcKey 1 0) 0).wait = 7 := by decide +kernel
theorem wit_MemRecords : (reeving (aRecord none)).records[0]? = some (aRecord none) ∧ reeveOf (reeving (aRecord none)) 0 = some (lcKey 1 0) ∧
    bits (reeving (aRecord none)).mrqbase 63 12 ≠ 0 ∧ ringFull (reeving (aRecord none)).mrqbase (reeving (aRecord none)).mrqptr = false ∧
    Machine.translate (reeving (aRecord none)) 0 (ringBase 0x10000#64 + ptrTail 0#64 % ringSize 0x10000#64 * 64) = .ok dataPage ∧
    (aRecord none).kind ≤ 2 ∧ (aRecord (some 7)).kind ≠ 2 ∧ recordAt (reeving (aRecord (some 7))) (7 % 2 ^ 32) = some (aRecord (some 7)) ∧
    (aRecord (some 7)).waiters = [⟨.access (lcKey 1 0) 0, 0x30000, []⟩] ∧
    (ctxOf (reeving (aRecord (some 7))) (lcKey 1 0) 0).live = true ∧ (ctxOf (reeving (aRecord (some 7))) (lcKey 1 0) 0).frozen = false := by decide +kernel

/-- An invalidation of the page at 0x20000 of address space 1024 under way. -/
def invalidating : State := { recorded with tlbinv := 0x2000040000020000#64 }
/-- A harvest of two frames from frame 5 into 0x10000 of address space 0. -/
def harvesting : State := { cachePage (live id) 0 0x10000 dataPage with
  hvcmd := 0x0000000005000002#64, hvbuf := 0x10000#64, msc := [(lineKey 0 0x10000, ⟨0#1024, dataPage, false⟩)] }
theorem wit_Commands : bit invalidating.tlbinv 61 = true ∧ bit ({ recorded with tlbinv := 0xA000040000020000#64 }).tlbinv 63 = true ∧ (live id).modPower ≠ .standby ∧
    bit ({ recorded with tlbinv := 0xA000040000020000#64 }).tlbinv 61 = true ∧ look recorded.msc (lineKey 1024 0x20000) ≠ none ∧
    look harvesting.msc (lineKey 0 0x10000) = some ⟨0#1024, dataPage, false⟩ ∧ getD 0 harvesting.heat 5 < 256 ∧ bit (live id).tlbinv 61 = false ∧ tlbLoadOut invalidating invalidating.tlbinv = false ∧
    bits (live id).hvcmd 23 0 = 0 ∧ bits harvesting.hvcmd 23 0 ≠ 0 ∧ hvFrame harvesting = some 5 ∧ isParked harvesting .harvest = false ∧
    Machine.translate harvesting 0 ((harvesting.hvbuf.toNat / 128 * 128 + 2 * harvesting.hvDone) % 2 ^ 64) = .ok dataPage ∧
    mscReady harvesting 0 0x10000 2 0 dataPage = true ∧ bits 2#64 1 0 < 3 ∧
    (stackOf (modStack (live id) 0 (fun k => { k with switching := [(3, 2)] })) 0).switching = [(3, 2)] := by decide +kernel
theorem wit_Heat : heatFrame (frameOf dataPage (keyVa (lineKey 0 0x10000))) ≠ some 5 := by decide +kernel
theorem wit_Dicts : (live id).dictLoads = [] ∧ 47 < bits 0x10300#64 9 4 ∧ dictMapped (live id) 0x10000#64 = false ∧ bits 0x10000#64 9 4 ≤ 47 ∧
    dictMapped (reeving (aRecord none)) 0x10000#64 = true ∧ (partOf (live id) 0).gens.length < 2 ∧
    2 ≤ (partOf (modPart (live id) 0 (fun p => { p with gens := [0, 1] })) 0).gens.length ∧ ({ live id with dictLoads := [⟨0, 1, [3]⟩] }).dictLoads.findIdx? (fun (m : DictLoad) => m.left.contains 3) = some 0 ∧
    ((⟨0, 1, [3]⟩ : DictLoad).left.erase 3 = [] ∧ (⟨0, 1, [3, 4]⟩ : DictLoad).left.erase 3 ≠ []) ∧
    0 ∈ (partOf (modPart (live id) 0 (fun p => { p with gens := [0, 1], newest := 1 })) 0).gens ∧
    0 ≠ (partOf (modPart (live id) 0 (fun p => { p with gens := [0, 1], newest := 1 })) 0).newest := by decide +kernel

/-- Task 1 rolling back. -/
def undoing (logged : Bool) (n : Nat) : State := modTask (live id) 1 (fun t => { t with rolling := true, logged := logged, rollbacks := n })
theorem wit_Repairs : fitSpare (stackOf (live id) (frameStack 0)) (bankKey 0) .granule = some 0 ∧ isFaulty { live id with faulty := [0] } 0 = true ∧ (live id).modPower ≠ .standby ∧
    ({ live id with modPower := .standby }).modPower = .standby := ⟨rfl, rfl, nofun, rfl⟩
theorem wit_SparesUsed : fitSpare (stackOf (modStack (live id) (frameStack 0) (fun k => { k with spareRows := [(bankKey 0, rowSpares)] }))
    (frameStack 0)) (bankKey 0) .row = none := by
  rw [stackOf_modStack]; simp [fitSpare, getD, look]
theorem wit_Discard : (⟨131072, 2#64⟩ : Obj).hdr % 8 = 0 ∧ (⟨131072, 2#64⟩ : Obj).len = 2 := by decide
theorem wit_Rollback : taskOf (undoing true 2) 1 = some { soloTask with rolling := true, rollbacks := 2 } ∧
    engineWritesDone (undoing true 2) 1 = true ∧
    logReady (undoing true 2) { soloTask with rolling := true, rollbacks := 2 } = true ∧
    isParked (undoing true 2) (.rollback 1) = false ∧ crewDue (undoing true 2) 1 = false ∧
    rollbackFull (undoing true 2) { soloTask with rolling := true, rollbacks := 2 } = none ∧ soloTask.stage = .placed ∧
    soloTask.rolling = false ∧ (lcKey 1 0, 0) ∈ crewContexts (live id) 1 ∧ atDelivery (ctxOf (live id) (lcKey 1 0) 0) = true ∧
    atDelivery (ctxOf (live (fun x => { x with stage := .begun })) (lcKey 1 0) 0) = false ∧
    (ctxOf (live (fun x => { x with stage := .begun })) (lcKey 1 0) 0).live = true ∧
    (ctxOf (live (fun x => { x with stage := .begun })) (lcKey 1 0) 0).frozen = false ∧
    taskOf (undoing false 0) 1 = some { soloTask with rolling := true, logged := false } := by decide +kernel

/-- The head with a trap pending that its reeve asked for. -/
def pended (f : Ctx → Ctx) : State := live (fun x => f { x with pend := [⟨0x0C, 3, 0#64, []⟩] })
/-- A packet of logical core 1 of task 1, whose die is 0. -/
def aPacket : Packet := ⟨lcKey 1 1, 0, List.replicate 16 0#64⟩
/-- A word for port 3 of the head. -/
def aWord : PortWord := ⟨none, lcKey 1 0, 3, 7#64⟩
def aStop : StopDue := ⟨lcKey 1 0, 0, 0, 0, 0, 0, 0⟩
def asking : State := modMe (live id) (fun x => { x with dctl := 3, frozen := true, stage := .halting 2 })

theorem wit_Delivery : (standsOn (pended id) (lcKey 1 0)).isSome = true ∧ deliverable (ctxOf (pended id) (lcKey 1 0) 0) = true ∧
    (ctxOf (pended id) (lcKey 1 0) 0).pend = [⟨0x0C, 3, 0#64, []⟩] ∧
    ({ live id with stopsDue := [aStop] }).stopsDue.find? (fun d => d.lc == lcKey 1 0 && d.ctx == 0) = some aStop ∧
    (ctxOf (live id) (lcKey 1 0) 0).live = true ∧ standsOn { live id with stopsDue := [aStop] } aStop.lc = some 0 ∧
    rowNum 0 = 0 ∧ aStop.left = 0 := by decide +kernel
theorem wit_Packets : ({ reeving (aRecord none) with packets := [aPacket] }).packets.find? (fun p => packetDie p == 0) = some aPacket ∧
    packetReeve { reeving (aRecord none) with packets := [aPacket] } aPacket = some (lcKey 1 0) ∧
    bits (physOf (reeving (aRecord none)) 0).fpqbase 63 12 ≠ 0 ∧
    ringFull (physOf (reeving (aRecord none)) 0).fpqbase (physOf (reeving (aRecord none)) 0).fpqptr = false ∧
    isParked { reeving (aRecord none) with packets := [aPacket] } (.packet 0) = false ∧
    Machine.translate { reeving (aRecord none) with packets := [aPacket] } 0 (ringBase 0x10000#64 + ptrTail 0#64 % ringSize 0x10000#64 * 128) = .ok dataPage := by
  decide +kernel
/-- Logical core 1 stands on core 1, its head frozen with the request d, its packet in the die, which the reeve's ring at base takes. -/
def heldUp (d : Nat) (base : Word) (ps : List Packet) : State :=
  modCtx (setCore (modPhys { reeving (aRecord none) with packets := ps } 0 (fun q => { q with fpqbase := base })) (lcKey 1 1)
    { soloCore with phys := 1 }) (lcKey 1 1) 0 (fun x => { x with frozen := true, dctl := d, stage := .idle })
/-- Does the place of the ring's next packet translate? -/
def placed (s : State) : Bool :=
  match translate s 0 (ringBase (physOf s 0).fpqbase + ptrTail (physOf s 0).fpqptr % ringSize (physOf s 0).fpqbase * 128) with
  | .ok _ => true
  | .fail _ => false
theorem wit_Requests : packetReeve (heldUp 1 0x10000#64 [aPacket]) aPacket = some (lcKey 1 0) ∧ placed (heldUp 1 0x10000#64 [aPacket]) = true ∧
    isParked (heldUp 1 0x10000#64 [aPacket]) (.packet 0) = false ∧ packetDie aPacket = 0 ∧
    (ctxOf (heldUp 2 0x10000#64 [aPacket]) (lcKey 1 1) 0).dctl = 2 ∧ (ctxOf (heldUp 0 0x10000#64 [aPacket]) (lcKey 1 1) 0).dctl = 0 ∧
    (ctxOf (heldUp 1 0x10000#64 [aPacket]) (lcKey 1 1) 0).live = true ∧ (ctxOf (heldUp 1 0x10000#64 [aPacket]) (lcKey 1 1) 0).frozen = true ∧
    (ctxOf (heldUp 1 0x10000#64 [aPacket]) (lcKey 1 1) 0).stage = .idle ∧ rollingBack (heldUp 1 0x10000#64 [aPacket]) (lcKey 1 1) = false ∧
    (standsOn (heldUp 1 0x10000#64 [aPacket]) (lcKey 1 1)).isSome = true ∧
    (heldUp 1 0x10000#64 [aPacket]).packets.erase aPacket = [] ∧ placed (heldUp 0 0x30000#64 [aPacket]) = false ∧
    bits (physOf (heldUp 0 0x30000#64 [aPacket]) 0).fpqbase 63 12 ≠ 0 ∧ ringFull (physOf (heldUp 0 0x30000#64 [aPacket]) 0).fpqbase (physOf (heldUp 0 0x30000#64 [aPacket]) 0).fpqptr = false ∧
    packetWaits (heldUp 0 0x10000#64 [aPacket]) (lcKey 1 1) 0 = true ∧ packetWaits (heldUp 0 0x10000#64 []) (lcKey 1 1) 0 = false ∧
    standsOn (standing 4 0 0 (live id)) (lcKey 1 0) = none := by decide +kernel
theorem wit_DctlRead : ({ me (live id) with stepping := true }).dctl = 0 ∧ (me (live id)).live = true ∧
    (∃ p ∈ ({ me (live id) with pend := [⟨0x0C, 3, 0#64, []⟩] }).pend, p.cause = 0x0C ∧ p.sub = 3) := by decide
theorem wit_PortWords : ({ live id with words := [aWord] }).words[0]? = some aWord ∧ takesWords (coreOf (live id) aWord.dest) = true ∧
    firstToQueue { live id with words := [aWord] } 0 aWord = true ∧
    (queueOf (coreOf (live id) aWord.dest) aWord.port).length < queueCapacity (live id) aWord.dest ∧
    queueCapacity (live id) aWord.dest ≤ (queueOf (coreOf (modCore (live id) (lcKey 1 0) (fun c => { c with queues := [(3, List.replicate 16 0#64)] })) aWord.dest) 3).length := by
  decide +kernel
theorem wit_Reeve : rollingBack (live id) (lcKey 1 0) = false ∧ (ctxOf (live id) (lcKey 1 0) 0).dctl ≠ 3 ∧ (ctxOf (live id) (lcKey 1 0) 0).frozen = false ∧
    (ctxOf (live id) (lcKey 1 0) 0).pend = [] ∧ (ctxOf (modMe (live id) (fun x => { x with frozen := true })) (lcKey 1 0) 0).frozen = true ∧
    (ctxOf (modCtx (live id) (lcKey 1 0) 1 (fun x => { x with live := true, frozen := true })) (lcKey 1 0) 1).frozen = true ∧
    ending (ctxOf asking (lcKey 1 0) 0) = true ∧ helpersDone asking (lcKey 1 0) = true ∧ engineBusy asking (lcKey 1 0) = false ∧
    (flushCore asking (lcKey 1 0)).2 = none ∧ (live id).modPower ≠ .standby ∧ ({ live id with modPower := .standby }).modPower = .standby ∧ bits 0x11#64 3 0 ≤ allotSB (me (live id)) ∧ bits 0x11#64 7 4 ≤ allotVB (me (live id)) ∧
    allotSB (me (live id)) ≤ 6 ∧ allotVB (me (live id)) ≤ 8 ∧ physRuns (live id) 3 = false ∧ (me (live id)).stepping = false ∧ (me (live id)).dctl = 0 := by decide +kernel

/-- Boot inputs whose firmware checks, and which start the reeve of die 0. -/
def booting (b : BootInput → BootInput) : BootInput :=
  b { firmwareOk := true, reeves := [], badReeves := [], entry := 0x10000#64, rates := [], badChannels := [], badSlices := [], badCores := [], badSlots := [],
      badPorts := [], melt := 0, rfz := false, image := [], asidBase := 0#64, vfs := [], yards := [], slots := [] }
theorem wit_Boot : reevesUp (booting id) ≠ [] ∧ 0 ∈ reevesUp (booting id) ∧
    reevesUp (booting (fun b => { b with badReeves := List.range 8 })) = [] := by decide +kernel

/-- Window page 0 of function 0 maps 0x20000 of address space 1024. -/
def windowed : State := modVf recorded 0 (fun v => { v with window := [(0, 0x8000000000020400#64)] })
def hostAsks (write : Bool) : HostAccess := { vf := 0, addr := 8, write := write, bytes := [5#8] }
theorem wit_WindowPages : bit (getD 0#64 (vfOf windowed 0).window 0) 63 = true ∧ bit (getD 0#64 (vfOf windowed 0).window 1) 63 = false ∧
    (live id).modPower = .active ∧ (8 : Nat) / 65536 < 65536 := by decide +kernel
theorem wit_Window : windowed.modPower ≠ .standby ∧ cxlUp windowed = true ∧ hostBytes (live id) (hostAsks false) = none ∧
    hostBytes windowed (hostAsks true) = some (some [(1024, 0x20008, dataPage, 5#8)]) := by decide +kernel

/-- The host holds half 0 of the line at 0x20000 and has modified its byte 8. -/
def lent : State := setHalf recorded (lineKey 1024 0x20000) ⟨.e, .i, 0x050000000000000000#1024, 0x100#128⟩
theorem wit_Halves : halfState (halfOf recorded (lineKey 1024 0x20000)) 0 ≠ .e ∧ halfState (halfOf lent (lineKey 1024 0x20000)) 0 = .e ∧
    (halfOf lent (lineKey 1024 0x20000)).hostMask &&& halfMask 0 ≠ 0 ∧
    Machine.translate lent (keyAsid (lineKey 1024 0x20000)) (keyVa (lineKey 1024 0x20000)) = .ok dataPage ∧
    cmpRoom lent dataPage (frameOf dataPage (keyVa (lineKey 1024 0x20000))) (mergeLine (pocLine lent (lineKey 1024 0x20000) dataPage)
      (halfOf lent (lineKey 1024 0x20000)).hostData ((halfOf lent (lineKey 1024 0x20000)).hostMask &&& halfMask 0)) = true ∧
    dataPage.aliased = false ∧ isParked lent (.bridge (lineKey 1024 0x20000)) = false := by decide +kernel
/-- Ways wait on core 3 for a successor whose PRED is 1. -/
def quietModule : State := modPhys { State.reset with security := .verified, tasks := [(2, { aTask .pending with pred := 1 })] } 3
  (fun q => { q with kept := some ⟨128, 1024, 0, 1, [], [], 0⟩ })
theorem wit_Module : ({ live id with security := .verified }).security = .verified ∧
    (partOf (modPart (live id) 0 (fun p => { p with slots := [1] })) (vfOf (modVf (live id) 0 (fun v => { v with part := 0 })) 0).part).slots.contains 1 = true ∧
    (live id).quoteIndex < 65536 ∧ 65536 ≤ ({ live id with quoteIndex := 65536 }).quoteIndex ∧
    nothingToDo { State.reset with security := .verified } = true ∧
    awaitsPlacement quietModule 1024 128 = true ∧ nothingToDo quietModule = true ∧ quietModule.modPower = .active ∧
    quietModule.security = .verified ∧ (physOf quietModule 3).kept = some ⟨128, 1024, 0, 1, [], [], 0⟩ ∧ (stackOf (live id) 3).skipped = false ∧ State.reset.modPower = .active ∧
    ({ live id with debug := .port }).debug = .port ∧ State.reset.debug = .window := by decide +kernel

/-- An outstanding load of the word at 0x20000 into s3, or of a vector into v3. -/
def aLoad (vec : Bool) : Load := ⟨vec, 3, .i8, if vec then 64 else 4, true, 0x20000, dataPage, none, 0⟩
def loading (vec : Bool) : State := modMe (paged dataPage) (fun x => { x with loads := [aLoad vec] })
theorem wit_Reply (vec : Bool) : (ctxOf (loading vec) (lcKey 1 0) 0).loads[0]? = some (aLoad vec) ∧
    replyReady (loading vec) (lcKey 1 0) (aLoad vec) = true ∧ scalarHeld (ctxOf (loading vec) (lcKey 1 0) 0) 3 = true ∧
    vectorHeld (ctxOf (loading vec) (lcKey 1 0) 0) 3 = true := by cases vec <;> decide +kernel
/-- One lane of a gather of bytes into v3. -/
def gathering : Load := { aLoad true with size := 1, lane := some 2 }
theorem wit_GatherReply : (ctxOf (modMe (paged dataPage) (fun x => { x with loads := [gathering] })) (lcKey 1 0) 0).loads[0]? = some gathering ∧
    replyReady (modMe (paged dataPage) (fun x => { x with loads := [gathering] })) (lcKey 1 0) gathering = true ∧
    width gathering.tag = 8 * gathering.size ∧ 2 < lanes gathering.tag := by decide +kernel
theorem wit_Turn : (live id).agenda = [.context (lcKey 1 0) 0] ∧ runnable (live id) (lcKey 1 0) 0 = true ∧
    deliverable (ctxOf (live id) (lcKey 1 0) 0) = false := by decide +kernel
/-- What the fetch of a state's head gives, and whether it decodes. -/
def fetched (s : State) : Option Bool :=
  match fetchWord s (lcKey 1 0) (ctxOf s (lcKey 1 0) 0).pc.toNat with
  | .got bs => some (match decode bs with
      | .ok _ => true
      | .error _ => false)
  | _ => none
theorem wit_Resumed : (ctxOf (live (fun x => { x with fence := true })) (lcKey 1 0) 0).fence = true ∧
    accessesDone (me (live (fun x => { x with fence := true }))) = true ∧
    accessesDone (me (modMe (loading true) (fun x => { x with fence := true }))) = false ∧
    (fetched (modMe (live id) (fun x => { x with fence := true }))) = some true := by decide +kernel
theorem wit_Fetch : fetched (live id) = some true ∧ fetched (State.reset.withFetchWord 32 0x00000013) = some false := by decide +kernel
theorem wit_Capacities : (∀ p ∈ keys (live id).phys, (linesOn p (live id)).length ≤ waysLines (stashWays (live id) p)) ∧
    (live id).l2.length ≤ l2Lines ∧ (∀ y ∈ (live id).yards, y.2.jobs = []) ∧ (live id).msc.length ≤ mscLines := by decide +kernel
theorem wit_TurnDelivers : runnable (pended id) (lcKey 1 0) 0 = true ∧ deliverable (ctxOf (pended id) (lcKey 1 0) 0) = true := by decide +kernel
theorem wit_Encodes : wellFormed (.add 8 (.s 1) (.c 63)) = true ∧ Instr.isEvent (.add 8 (.s 1) (.c 63)) = false := by decide
theorem wit_Inv : MemoryInv State.reset ∧ MemoryInv (live id) :=
  ⟨by rfl, (by decide +kernel : Memory.wf (live id).mem = true)⟩
theorem wit_Agenda : AgendaOk (live id) := by
  intro t h
  cases h
  rfl

end Sys2Proof.Tests
end

section
/-! SUPPORT. The system registers: fields of words, what a register number reads and writes by its range, and the
obligations on SYSRD, SYSWR and module reset (R4, R5, R319). -/

namespace Sys2Proof.Machine

/-! ### Fields of words -/

theorem bit_eq_getLsbD (w : Word) (i : Nat) : bit w i = w.getLsbD i := rfl

theorem bits_lt (w : Word) (hi lo : Nat) : bits w hi lo < 2 ^ (hi + 1 - lo) := Nat.mod_lt _ (Nat.two_pow_pos _)

theorem testBit_bits (w : Word) (hi lo i : Nat) :
    (bits w hi lo).testBit i = (decide (i < hi + 1 - lo) && bit w (lo + i)) := by
  simp only [bits, bit, Nat.testBit_mod_two_pow, Nat.testBit_div_two_pow, Nat.add_comm lo i]

theorem bits_low (w : Word) : bits w 31 0 = w.toNat % 2 ^ 32 := by simp [bits]

/-- A mask of the low half. -/
theorem getLsbD_lowHalf {i : Nat} (h : i < 64) : (0xFFFFFFFF#64).getLsbD i = decide (i < 32) := by
  rw [BitVec.getLsbD_ofNat, show 0xFFFFFFFF = 2 ^ 32 - 1 from rfl, Nat.testBit_two_pow_sub_one]
  simp [h]

/-- A ring pointer takes HEAD, its upper half, alone (R310). -/
theorem writeHead_eq (old v : Word) :
    writeHead old v = (v &&& 0xFFFFFFFF00000000#64) ||| (old &&& 0xFFFFFFFF#64) := by
  have hn : (writeHead old v).toNat = 2 ^ 32 * (v.toNat / 2 ^ 32) + old.toNat % 2 ^ 32 := by
    simp only [writeHead, setBits, bits, BitVec.toNat_ofNat]
    omega
  have hm : 0xFFFFFFFF00000000#64 = ~~~0xFFFFFFFF#64 := rfl
  refine BitVec.eq_of_getLsbD_eq fun i hi => ?_
  rw [← BitVec.testBit_toNat, hn, Nat.testBit_two_pow_mul_add _ (Nat.mod_lt _ (Nat.two_pow_pos 32)), hm]
  simp only [BitVec.getLsbD_or, BitVec.getLsbD_and, BitVec.getLsbD_not, getLsbD_lowHalf hi, hi]
  by_cases h : i < 32
  · simp only [h, if_true, Nat.testBit_mod_two_pow, BitVec.testBit_toNat]
    simp
  · simp only [h, if_false, Nat.testBit_div_two_pow, Nat.sub_add_cancel (Nat.le_of_not_lt h), BitVec.testBit_toNat]
    simp

/-! ### FMODE after a write (R74, R75) -/

/-- RM after a write: 5 to 7 leave it as it was. -/
def rmAfter (old v : Word) : Nat := if bits v 2 0 < 5 then bits v 2 0 else bits old 2 0

theorem rmAfter_lt (old v : Word) : rmAfter old v < 8 := by
  unfold rmAfter
  split
  · exact bits_lt v 2 0
  · exact bits_lt old 2 0

theorem bit_writeFmode (old v : Word) {i : Nat} (hi : i < 64) :
    bit (writeFmode old v) i = ((bit old i && (0xF0000#64).getLsbD i && !bit v i) ||
      (bit v i && (0x1F8#64).getLsbD i) || (rmAfter old v).testBit i) := by
  simp only [bit_eq_getLsbD, writeFmode, word, BitVec.getLsbD_or, BitVec.getLsbD_and, BitVec.getLsbD_not,
    BitVec.getLsbD_ofNat, hi, decide_true, Bool.true_and, rmAfter]

/-- Only bits 0 to 2 of a written FMODE come from RM. -/
theorem testBit_rmAfter (old v : Word) {i : Nat} (h : 3 ≤ i) : (rmAfter old v).testBit i = false :=
  Nat.testBit_lt_two_pow (Nat.lt_of_lt_of_le (rmAfter_lt old v) (Nat.pow_le_pow_right (n := 2) (by decide) h))

theorem writeFmode_rm (old v : Word) : bits (writeFmode old v) 2 0 = rmAfter old v := by
  refine Nat.eq_of_testBit_eq fun i => ?_
  rw [testBit_bits, Nat.zero_add]
  by_cases h : i < 3
  · rw [bit_writeFmode old v (by omega)]
    interval_cases i <;> simp
  · rw [testBit_rmAfter old v (by omega)]
    simp [h]

theorem writeFmode_modes (old v : Word) {i : Nat} (h3 : 3 ≤ i) (h9 : i < 9) : bit (writeFmode old v) i = bit v i := by
  rw [bit_writeFmode old v (by omega), testBit_rmAfter old v h3]
  interval_cases i <;> simp

theorem writeFmode_flags (old v : Word) {i : Nat} (h16 : 16 ≤ i) (h20 : i < 20) :
    bit (writeFmode old v) i = (bit old i && !bit v i) := by
  rw [bit_writeFmode old v (by omega), testBit_rmAfter old v (by omega)]
  interval_cases i <;> simp

/-! ### A register by the range of its number -/

section Ranges

variable (s : State) {n : Nat} (v : Word)

theorem readReg_context (h : n < 0x100) : readReg s n = ctxReg (me s) n := by simp [readReg, h]

theorem readReg_core (h1 : 0x100 ≤ n) (h2 : n < 0x103) : readReg s n = coreReg (myCore s) n := by
  simp only [readReg]
  rw [if_neg (by omega), if_neg (by omega), if_pos (by omega)]

theorem readReg_row (h1 : 0x200 ≤ n) (h2 : n < 0x400) : readReg s n = rowReg s (myRow s) n := by
  simp only [readReg]
  rw [if_neg (by omega), if_neg (by omega), if_neg (by omega), if_pos h2]

/-- A counter register reads 0 where CTAG does not name the task's owner (R365). -/
theorem readReg_counter (h1 : 0x400 ≤ n) (h2 : n < 0x800) :
    readReg s n = if ownsCounters s then cntReg (physOf s (myCore s).phys) n else 0#64 := by
  simp only [readReg]
  rw [if_neg (by omega), if_neg (by omega), if_neg (by omega), if_neg (by omega), if_pos h2]

theorem readReg_cnt {i : Nat} (h : i < 4) : readReg s (0x400 + i) =
    if ownsCounters s then getD 0#64 (physOf s (myCore s).phys).cnt i else 0#64 := by
  rw [readReg_counter s (by omega) (by omega)]
  simp only [cntReg, if_pos (show 0x400 ≤ 0x400 + i ∧ 0x400 + i ≤ 0x403 by omega), Nat.add_sub_cancel_left]

theorem readReg_csel {i : Nat} (h : i < 4) : readReg s (0x408 + i) =
    if ownsCounters s then getD 0#64 (physOf s (myCore s).phys).csel i else 0#64 := by
  rw [readReg_counter s (by omega) (by omega)]
  simp only [cntReg, if_neg (show ¬(0x400 ≤ 0x408 + i ∧ 0x408 + i ≤ 0x403) by omega),
    if_pos (show 0x408 ≤ 0x408 + i ∧ 0x408 + i ≤ 0x40B by omega), Nat.add_sub_cancel_left]

theorem readReg_ysg {i : Nat} (h : i < 4) : readReg s (0x010 + i) = getD 0#64 (me s).ysg i := by
  rw [readReg_context s (by omega)]
  interval_cases i <;> rfl

/-- STASH shows the ways of the core in its low byte (R168). -/
theorem readReg_stash_ways : bits (readReg s 0x100) 7 0 = (myCore s).ways % 256 := by
  rw [readReg_core s (by decide) (by decide)]
  simp only [coreReg, bits, word, BitVec.toNat_ofNat]
  omega

/-- MELT shows the heat store's reading and RFZ (R292). -/
theorem readReg_melt (h : s.melt < 1024) :
    bits (readReg s 0x300) 9 0 = s.melt ∧ bit (readReg s 0x300) 11 = s.rfz := by
  rw [readReg_row s (by decide) (by decide)]
  cases hr : s.rfz <;>
    simp [rowReg, meltWord, hr, bits, bit, word, Nat.testBit_eq_decide_div_mod_eq] <;> omega

theorem writeReg_context (h : n < 0x100) : writeReg s n v = modMe s (fun x => writeCtxReg x n v) := by
  simp [writeReg, h]

theorem writeReg_counter (h1 : 0x400 ≤ n) (h2 : n < 0x800) :
    writeReg s n v = modPhys s (myCore s).phys (fun q => writeCntReg q n v false) := by
  simp only [writeReg]
  rw [if_neg (by omega), if_neg (by omega), if_neg (by omega), if_neg (by omega), if_pos (Or.inl h2)]

theorem writeReg_reeve (h1 : 0x800 ≤ n) (h2 : n < 0x803) :
    writeReg s n v = modPhys s (myCore s).phys (fun q => writeReeveReg q n v) := by
  simp only [writeReg]
  rw [if_neg (by omega), if_neg (by omega), if_neg (by omega), if_neg (by omega), if_neg (by omega), if_pos h2]

theorem writeReg_package (h1 : 0x803 ≤ n) (h2 : n ≠ 0x80D) : writeReg s n v = writePackageReg s n v := by
  simp only [writeReg]
  rw [if_neg (by omega), if_neg (by omega), if_neg (by omega), if_neg (by omega), if_neg (by omega), if_neg (by omega)]

/-- STASH, MXACC, MXJOB, MELT, LEASE and DROOP have no field that SYSWR writes (R168, R222, R224, R292, R293, R302). -/
theorem writeReg_readOnly : ∀ n ∈ [0x100, 0x101, 0x102, 0x300, 0x301, 0x303], writeReg s n v = s := by
  simp only [List.forall_mem_cons]
  exact ⟨rfl, rfl, rfl, rfl, rfl, rfl, by simp⟩

/-- Nor have OFRST, BARST, ALLOT, PSEL, the reply registers and HALTG (R109, R185, R321). -/
theorem writeReg_context_readOnly : ∀ n ∈ [0x008, 0x009, 0x00A, 0x00B, 0x010, 0x011, 0x012, 0x013, 0x017],
    writeReg s n v = modMe s (fun x => x) := by
  simp only [List.forall_mem_cons]
  exact ⟨rfl, rfl, rfl, rfl, rfl, rfl, rfl, rfl, rfl, by simp⟩

theorem writeReg_cnt {i : Nat} (h : i < 4) : writeReg s (0x400 + i) v = modPhys s (myCore s).phys (fun q =>
    { q with cnt := setD 0#64 q.cnt i (v &&& 0xFFFFFFFFFFFF#64) }) := by
  rw [writeReg_counter s v (by omega) (by omega)]
  simp only [writeCntReg, if_pos (show 0x400 ≤ 0x400 + i ∧ 0x400 + i ≤ 0x403 by omega), Nat.add_sub_cancel_left]

theorem writeReg_csel {i : Nat} (h : i < 4) : writeReg s (0x408 + i) v = modPhys s (myCore s).phys (fun q =>
    { q with csel := setD 0#64 q.csel i (v &&& 0xF0FF#64) }) := by
  rw [writeReg_counter s v (by omega) (by omega)]
  simp only [writeCntReg, if_neg (show ¬(0x400 ≤ 0x408 + i ∧ 0x408 + i ≤ 0x403) by omega),
    if_pos (show 0x408 ≤ 0x408 + i ∧ 0x408 + i ≤ 0x40B by omega), Nat.add_sub_cancel_left]

/-- A ring pointer of a core takes HEAD alone. -/
theorem writeReg_fpqptr : writeReg s 0x801 v = modPhys s (myCore s).phys (fun q =>
    { q with fpqptr := (v &&& 0xFFFFFFFF00000000#64) ||| (q.fpqptr &&& 0xFFFFFFFF#64) }) := by
  rw [writeReg_reeve s v (by decide) (by decide)]
  simp only [writeReeveReg, writeHead_eq]

theorem writeReg_mrqptr : writeReg s 0x804 v =
    { s with mrqptr := (v &&& 0xFFFFFFFF00000000#64) ||| (s.mrqptr &&& 0xFFFFFFFF#64) } := by
  rw [writeReg_package s v (by decide) (by decide)]
  simp only [writePackageReg, writeHead_eq]

/-- MRSOLVE acts by its bits 33:32 (R326, R337). -/
theorem writeReg_mrsolve : writeReg s 0x805 v = mrsolveWrite s v := writeReg_package s v (by decide) (by decide)

theorem mrsolveWrite_none (h : bits v 33 32 = 0 ∨ bits v 33 32 = 3) :
    mrsolveWrite s v = { s with mrsolve := v &&& 0x3FFFFFFFF#64 } := by
  rcases h with h | h <;> simp [mrsolveWrite, h]

theorem mrsolveWrite_replay (h : bits v 33 32 = 1) :
    mrsolveWrite s v = replayRecord { s with mrsolve := v &&& 0x3FFFFFFFF#64 } (v.toNat % 2 ^ 32) := by
  simp only [mrsolveWrite, h, bits_low]

theorem mrsolveWrite_unmap (h : bits v 33 32 = 2) :
    mrsolveWrite s v = unmapRecord { s with mrsolve := v &&& 0x3FFFFFFFF#64 } (v.toNat % 2 ^ 32) := by
  simp only [mrsolveWrite, h, bits_low]

end Ranges

/-! ### SYSRD -/

/-- SYSRD of FMODE waits for the vector registers that are still to be written (R77). -/
def fmodeWaits (s : State) (reg : F6) : Prop := regNum (me s) reg = 0x00E ∧ (me s).vpend ≠ []

theorem exec_sysrd (d reg : F6) (s : State) : exec (.sysrd d reg) s = execSysrd d reg s := rfl

theorem exec_sysrd_reads {d reg : F6} {s : State} (hi : Issues ⟨[], some d.toNat, [], []⟩ s)
    (ht : regTrap s (regNum (me s) reg) false = none) (hw : ¬fmodeWaits s reg) :
    exec (.sysrd d reg) s =
      finish ⟨[], some d.toNat, [], []⟩ long s (readReg s (regNum (me s) reg)) := by
  rw [exec_sysrd, execSysrd, issue_ready hi]
  simp only [ht]
  exact if_neg hw

theorem exec_sysrd_waits {d reg : F6} {s : State} (hi : Issues ⟨[], some d.toNat, [], []⟩ s)
    (ht : regTrap s (regNum (me s) reg) false = none) (hw : fmodeWaits s reg) :
    exec (.sysrd d reg) s = waitAt s (sourceWait s ⟨[], none, [], (me s).vpend⟩) := by
  rw [exec_sysrd, execSysrd, issue_ready hi]
  simp only [ht]
  exact if_pos hw

/-- A wait for sources holds its instruction back, parked or not (R110, R335). -/
theorem sourceWait_not_issued (s : State) (n : Names) : waitIssued (sourceWait s n) = false := by
  unfold sourceWait
  split <;> rfl

/-- Settles O24: SYSRD is `finish` with the value read, or `waitAt` while FMODE's flags may still rise. A register that is
one field of a unit reads as that field by evaluation at its number; the others have their lemmas above. -/
theorem systemRegisterReads : Obligations.SystemRegisterReads := by
  refine ⟨fun d reg s hi ht hv => ?_, fun d reg s hi ht hr hv => ?_, fun s => ?_⟩
  · rw [exec_sysrd_reads hi ht (fun ⟨hr, hp⟩ => hp (hv hr))]
    exact finish_wrote _ _ _ _
  · rw [exec_sysrd_waits hi ht ⟨hr, hv⟩]
    exact waitAt_heldBack s (sourceWait_not_issued _ _)
  · refine ⟨rfl, rfl, rfl, rfl, rfl, rfl, rfl, rfl, rfl, rfl, rfl, rfl, fun i hi => readReg_ysg s hi,
      readReg_stash_ways s, rfl, rfl, readReg_melt s, rfl, rfl, rfl, rfl, rfl, rfl, rfl, rfl, rfl, rfl, rfl, rfl, rfl, rfl,
      rfl, fun i hi => ⟨readReg_cnt s hi, readReg_csel s hi⟩, ?_⟩
    simp only [List.forall_mem_cons]
    exact ⟨readReg_counter s (by decide) (by decide), readReg_counter s (by decide) (by decide), by simp⟩

/-! ### SYSWR -/

theorem exec_syswr (reg : F6) (a : Opnd) (s : State) : exec (.syswr reg a) s = execSyswr reg a s := rfl

theorem exec_syswr_writes {reg : F6} {a : Opnd} {s : State} (hi : Issues ⟨[a], none, [], []⟩ s)
    (ht : regTrap s (regNum (me s) reg) true = none) :
    exec (.syswr reg a) s =
      .next (modMe (advance (writeReg (consumePorts s [a]) (regNum (me s) reg) (opndVal s false a)) (pcAfter s long))
        (elitAfter (regNum (me s) reg) (opndVal s false a) (me s).elit)) := by
  rw [exec_syswr, execSyswr, issue_ready hi]
  simp only [ht]

theorem elitAfter_other {n : Nat} (h : n ≠ 0x00F) (v old : Word) (x : Ctx) : elitAfter n v old x = x := if_neg h

theorem elitAfter_elit {old : Word} (h : bit old 63 = false) (v : Word) (x : Ctx) :
    elitAfter 0x00F v old x = { x with elit := v &&& elitMask } := by
  simp [elitAfter, h]

/-- A change of the current context alone, from s on, is the completion of an instruction that read no operand. -/
theorem OwnChange.changed {s t : State} {f : Ctx → Ctx} {pc : Word}
    (h : OwnChange s t (stepEnd (pastInsn (f (Machine.me s)) pc))) : Changed ⟨[], none, [], []⟩ s t f pc :=
  ⟨⟨h.cur, h.me, by rw [h.words]; simp [sends],
    fun lc p => by simp [queueOf, h.queues lc, portsOf, scalarCodes]⟩, h.quiet.kept h.others⟩

/-- The end of an instruction never looks at ELIT but to clear its V bit. -/
theorem stepEnd_pastInsn_elit (x : Ctx) (w u : Word) (pc : Word) :
    { stepEnd (pastInsn { x with elit := w } pc) with elit := u } = { stepEnd (pastInsn x pc) with elit := u } := by
  unfold stepEnd pastInsn
  dsimp only
  split <;> rfl

theorem syswr_changed {reg : F6} {a : Opnd} {s : State} (hi : Issues ⟨[a], none, [], []⟩ s)
    (ht : regTrap s (regNum (me s) reg) true = none) (hn : regNum (me s) reg ≠ 0x00F) :
    ∃ t, exec (.syswr reg a) s = .next t ∧
      Changed ⟨[], none, [], []⟩ (writeReg (consumePorts s [a]) (regNum (me s) reg) (opndVal s false a)) t id
        ((me s).pc + 4) := by
  refine ⟨_, exec_syswr_writes hi ht, OwnChange.changed ?_⟩
  have h := advance_own (writeReg (consumePorts s [a]) (regNum (me s) reg) (opndVal s false a)) (pcAfter s long)
  have h2 := h.trans (modMe_own _ (elitAfter (regNum (me s) reg) (opndVal s false a) (me s).elit))
  rw [elitAfter_other hn, h.me] at h2
  exact h2

/-- ELIT is written after the instruction's end has cleared its V bit (R47, R49). -/
theorem syswr_elit {reg : F6} {a : Opnd} {s : State} (hi : Issues ⟨[a], none, [], []⟩ s)
    (hn : regNum (me s) reg = 0x00F) (hv : bit (me s).elit 63 = false) :
    ∃ t, exec (.syswr reg a) s = .next t ∧ AllKept s t ∧ (me t).elit = opndVal s false a &&& 0x8000000000FFFFFF#64 ∧
      { me t with elit := 0#64 } = { stepEnd (pastInsn (me s) ((me s).pc + 4)) with elit := 0#64 } := by
  have ht : regTrap s (regNum (me s) reg) true = none := by rw [hn]; rfl
  refine ⟨_, exec_syswr_writes hi ht, ?_⟩
  rw [hn, writeReg_context _ _ (by decide)]
  have hq := consumePorts_quiet s [a]
  have hc : (consumePorts s [a]).cur = s.cur := hq.get State.cur
  have h1 := modMe_own (consumePorts s [a]) (fun x => writeCtxReg x 0x00F (opndVal s false a))
  have h2 := h1.trans (advance_own _ (pcAfter s long))
  have h3 := h2.trans (modMe_own _ (elitAfter 0x00F (opndVal s false a) (me s).elit))
  rw [h1.me, consumePorts_me] at h2
  refine ⟨(hq.trans h3.quiet).kept fun lc c ho => ?_, ?_, ?_⟩
  · rw [h3.others lc c (by rwa [hc]), consumePorts_ctxOf]
  · rw [me_modMe, elitAfter_elit hv]; rfl
  · rw [me_modMe, elitAfter_elit hv, h2.me]
    exact stepEnd_pastInsn_elit _ _ _ _

/-- Settles O25: the end of SYSWR is a change of its own context on top of `writeReg`. A register whose write is one masked
field is evaluated at its number; FMODE, the ring pointers, MRSOLVE, the counters and the read-only ones have their lemmas
above. -/
theorem systemRegisterWrites : Obligations.SystemRegisterWrites := by
  refine ⟨fun reg a s => syswr_changed, fun reg a s => syswr_elit, fun s v => ?_, fun old v =>
    ⟨writeFmode_rm old v, fun i => writeFmode_modes old v, fun i => writeFmode_flags old v⟩⟩
  refine ⟨rfl, rfl, rfl, rfl, rfl, rfl, rfl, rfl, rfl, writeReg_readOnly s v, writeReg_context_readOnly s v, rfl,
    writeReg_fpqptr s v, rfl, writeReg_mrqptr s v, ?_, ?_, ?_, rfl, rfl, rfl, rfl, rfl, rfl, rfl, rfl, rfl,
    fun i hi => ⟨writeReg_cnt s v hi, writeReg_csel s v hi⟩, rfl, rfl⟩
  · exact fun h => (writeReg_mrsolve s v).trans (mrsolveWrite_none s v h)
  · exact fun h => (writeReg_mrsolve s v).trans (mrsolveWrite_replay s v h)
  · exact fun h => (writeReg_mrsolve s v).trans (mrsolveWrite_unmap s v h)

/-! ### Module reset -/

@[simp] theorem coreOf_reset (lc : Nat) : coreOf State.reset lc = LCore.reset := rfl
@[simp] theorem ctxOf_reset (lc c : Nat) : ctxOf State.reset lc c = Ctx.reset := rfl
@[simp] theorem physOf_reset (p : Nat) : physOf State.reset p = PCore.reset := rfl
@[simp] theorem rowOf_reset (r : Nat) : rowOf State.reset r = Row.reset := rfl
@[simp] theorem yardOf_reset (y : Nat) : yardOf State.reset y = Yard.reset := rfl
@[simp] theorem memByte_reset (a : Nat) : memByte State.reset a = 0#8 := rfl

/-- SRG alone is not 0 before a start (R82, log 2). -/
theorem ctxReg_reset {n : Nat} (hs : n ≠ 0x00D) : ctxReg Ctx.reset n = 0#64 := by
  unfold ctxReg
  split
  case h_6 => exact absurd rfl hs
  case h_13 => split <;> rfl
  all_goals rfl

/-- STASH, MXACC and MXJOB are 0: no way, no mapping, no accumulator, no job (R168, R222, R224). -/
theorem coreReg_reset (n : Nat) : coreReg LCore.reset n = 0#64 := by
  unfold coreReg
  split <;> simp [LCore.reset, jobLow, word]

/-- No lease is live and no grant was refused (R293). -/
theorem leaseWord_reset (row : Nat) : leaseWord State.reset row = 0#64 := by
  simp [leaseWord, Row.reset, word]

/-- No alarm has been raised, no pulse begun, and the row's clock is calm (R302). -/
theorem droopWord_reset (row : Nat) : droopWord State.reset row = 0#64 := by
  simp [droopWord, Row.reset, recentPulses, Yard.reset, word]

theorem cntReg_reset (n : Nat) : cntReg PCore.reset n = 0#64 := by
  unfold cntReg
  (repeat' split) <;> rfl

theorem reeveReg_reset (n : Nat) : reeveReg PCore.reset n = 0#64 := by
  unfold reeveReg
  split <;> rfl

/-- HEATK alone has a reset value other than 0 among the package registers (R326). -/
theorem packageReg_reset (n : Nat) : packageReg State.reset n = if n = 0x808 then 8#64 else 0#64 := by
  by_cases h : n = 0x808
  · subst h; rfl
  · rw [if_neg h]
    unfold packageReg
    split
    case h_6 => exact absurd rfl h
    all_goals rfl

/-- Settles O55: each unit of the reset state is its unlisted default, read register by register. -/
theorem resetValues : Obligations.ResetValues := by
  refine ⟨fun lc c n _ _ _ hs => ?_, fun lc c => ⟨rfl, rfl⟩, fun lc => ?_,
    fun row => ⟨leaseWord_reset row, rfl, droopWord_reset row, rfl⟩, fun p => ⟨rfl, cntReg_reset, reeveReg_reset⟩,
    packageReg_reset, rfl, rfl, memByte_reset⟩
  · rw [ctxOf_reset, ctxReg_reset hs]
  · simp only [coreOf_reset, coreReg_reset, and_self]

end Sys2Proof.Machine
end

section
/-! SUPPORT. Decoding what the encoder packs (R27 to R41): a word's major opcode chooses its row of the opcode map, a
halfword's low bits its layout, and each form gives back the fields that were packed. -/

namespace Sys2Proof

/-! ### From the fields of a word to its instruction -/

section long
variable {i : Instr} (rest : List Byte) (hw : wellFormed i = true)
include hw

theorem decode_packR {fn : F3} {b a : Opnd} {d : F6} {major : BitVec 5}
    (h : decodeFields (packR fn b a d major) = .ok i) : decode (w32 (packR fn b a d major) ++ rest) = .ok (i, rest) :=
  decode_w32 _ rest (packR_low fn b a d major) (decode32_of _ h hw)

theorem decode_packO {fn : F3} {b : Opnd} {addr : F6} {y : F2} {d : F6} {major : BitVec 5}
    (h : decodeFields (packO fn b addr y d major) = .ok i) :
    decode (w32 (packO fn b addr y d major) ++ rest) = .ok (i, rest) :=
  decode_w32 _ rest (packO_low fn b addr y d major) (decode32_of _ h hw)

theorem decode_packM {top : BitVec 1} {off : BitVec 12} {base d : F6} {major : BitVec 5}
    (h : decodeFields (packM top off base d major) = .ok i) :
    decode (w32 (packM top off base d major) ++ rest) = .ok (i, rest) :=
  decode_w32 _ rest (packM_low top off base d major) (decode32_of _ h hw)

theorem decode_packJ {off : BitVec 16} {r : F6} {cond : F3} {major : BitVec 5}
    (h : decodeFields (packJ off r cond major) = .ok i) : decode (w32 (packJ off r cond major) ++ rest) = .ok (i, rest) :=
  decode_w32 _ rest (packJ_low off r cond major) (decode32_of _ h hw)

end long

/-- EXT.L has no field out of range (R48). -/
theorem decode_packL (e : BitVec 24) (rest : List Byte) : decode (w32 (packL e) ++ rest) = .ok (.extL e, rest) :=
  decode_w32 _ rest (packL_low e) (decode32_of _ (by simp [decodeFields]) rfl)

/-! ### From the fields of a halfword to its instruction -/

section compact
variable {i : Instr} (rest : List Byte) (hw : wellFormed i = true)
include hw

theorem decode_packCR {b a d : F3} {cop : BitVec 5} (h : decodeCR (packCR b a d cop) = .ok i) :
    decode (w16 (packCR b a d cop) ++ rest) = .ok (i, rest) :=
  decode_w16 _ rest (by simp) (by simp [decode16, h, checked, hw])

theorem decode_packCM {off base d : F3} {cop : BitVec 5} (h : decodeCM (packCM off base d cop) = .ok i) :
    decode (w16 (packCM off base d cop) ++ rest) = .ok (i, rest) :=
  decode_w16 _ rest (by simp) (by simp [decode16, h, checked, hw])

/-- A literal form, when it is not the halfword of NOP (R53). -/
theorem decode_packCI {l : F6} {d : F3} {cop : BitVec 5} (hn : ¬(l = 0#6 ∧ d = 0#3 ∧ cop = 0#5))
    (h : decodeCI (packCI l d cop) = .ok i) : decode (w16 (packCI l d cop) ++ rest) = .ok (i, rest) :=
  decode_w16 _ rest (by simp) (by simp [decode16, packCI_ne_nop d l cop hn, h, checked, hw])

end compact

theorem decode_nopCompact (rest : List Byte) : decode (w16 0x0001#16 ++ rest) = .ok (.nopCompact, rest) :=
  decode_w16 _ rest (by decide) rfl

/-- Settles O58, by the rows of the opcode map. -/
theorem encodeDecodeAgree : Obligations.EncodeDecodeAgree := by
  intro i rest hw he
  cases i
  case nopCompact => exact decode_nopCompact rest
  case extL e => exact decode_packL e rest
  case add | sub | and | or | xor | shl | shr | sar =>
    exact decode_packR rest hw (by simp [decodeFields, decodeMajor00, form3])
  case mul | mulh | mulhn | div | divn | rem | remn =>
    exact decode_packR rest hw (by simp [decodeFields, decodeMajor01, form3])
  case seq | sne | slt | sltn | sle | slen | min | max =>
    exact decode_packR rest hw (by simp [decodeFields, decodeMajor02, form3])
  case clz | ctz | popc | brev | bswap | mov | movy | sext =>
    exact decode_packR rest hw (by simp [decodeFields, decodeMajor03, form2, form3, formName, noOpnd])
  case sel | minn | maxn | ext | nop | ts | who | movx =>
    exact decode_packR rest hw (by simp [decodeFields, decodeMajor04, form0, form1, form2, form3, formName, noOpnd])
  case ldB | ldH => exact decode_packM rest hw (by simp [decodeFields, decodeMajor05])
  case ldW | ld => exact decode_packM rest hw (by simp [decodeFields, decodeMajor06])
  case stB | stH => exact decode_packM rest hw (by simp [decodeFields, decodeMajor07])
  case stW | st => exact decode_packM rest hw (by simp [decodeFields, decodeMajor08])
  case ldAcq | stRel | fence | fenceAcq | fenceRel | ldBz | ldHz | ldWz =>
    exact decode_packR rest hw (by simp [decodeFields, decodeMajor09, formSN, formB, noOpnd])
  case vldRaw | vldI8 | vldI16 | vldI32 | vldN8 | vldN16 | vldN32 | vldFp16 =>
    exact decode_packR rest hw (by simp [decodeFields, decodeMajor0A, formS3])
  case vldBf16 | vldFp32 | vldDm8 | vldMask =>
    exact decode_packR rest hw (by simp [decodeFields, decodeMajor0B, formS3, formSN])
  case vst | tstat | twait | tfree | resize | smap | sunmap =>
    exact decode_packR rest hw (by simp [decodeFields, decodeMajor0C, formS3, formName, formA, form2, formSA, noOpnd])
  case tdefRaw | tdefI8 | tdefI16 | tdefI32 | tdefN8 | tdefN16 | tdefN32 | tdefFp16 =>
    exact decode_packR rest hw (by simp [decodeFields, decodeMajor0D, formS3])
  case tdefBf16 | tdefFp32 | tdefDm8 | tdefMask =>
    exact decode_packR rest hw (by simp [decodeFields, decodeMajor0E, formS3])
  case b | bZ | bNz | bLtz | bGez | bGtz | bLez =>
    exact decode_packJ rest hw (by simp [decodeFields, decodeMajor0F])
  case call | loop => exact decode_packJ rest hw (by simp [decodeFields, decodeMajor10])
  case jr | callr => exact decode_packR rest hw (by simp [decodeFields, decodeMajor11, formOA, form2, noOpnd])
  case grow | shrink | start | halt | haltKeep | yield | waitp | portsel =>
    exact decode_packR rest hw (by simp [decodeFields, decodeMajor12, form3, form0, form2, formOA, noOpnd])
  case bar | bara | barw | launch | sprint | sprel | sysrd | syswr =>
    exact decode_packR rest hw (by simp [decodeFields, decodeMajor13, formA, form2, form0, formName, formNB, noOpnd])
  case cpy | cpyt | trap | brk =>
    exact decode_packR rest hw (by simp [decodeFields, decodeMajor14, formSA, formS2, formA, form0, noOpnd])
  case ofrAdd | ofrFma | ofrMin | ofrMax | ofrAnd | ofrOr | ofrXchg | ofrCas =>
    exact decode_packO rest hw (by simp [decodeFields, decodeMajor15, offer])
  case ofrAddF32 | ofrFmaF32 | ofrMinF32 | ofrMaxF32 =>
    exact decode_packO rest hw (by simp [decodeFields, decodeMajor16, offer])
  case setl | rls | pub | pubw | refld | refldAcq | refst | refstRel =>
    exact decode_packO rest hw
      (by simp [decodeFields, decodeMajor17, settle, release, formOScope, formOAddr, formOD, noOpnd])
  case vadd | vsub | vmul | vmin | vmax | vand | vor | vxor =>
    exact decode_packR rest hw (by simp [decodeFields, decodeMajor18, formVV])
  case vshl | vshr | vsar | vceq | vclt | vcle | vbcst | vred =>
    exact decode_packR rest hw (by simp [decodeFields, decodeMajor19, formVO, formVV, formON, formVN])
  case vcvt | vcvtRne | vcvtRtz | vcvtRdn | vcvtRup | vcvtRsto | vretag | vscan =>
    exact decode_packR rest hw (by simp [decodeFields, decodeMajor1A, formVN])
  case vfma | vfms | vfnma | vsel | vperm | vabs | vneg | vmov =>
    exact decode_packR rest hw (by simp [decodeFields, decodeMajor1B, formVV, formV2, noOpnd])
  case mxmm => exact decode_packR rest hw (by simp [decodeFields, decodeMajor1C, formMx])
  case mxmmDup => exact decode_packR rest hw (by simp [decodeFields, decodeMajor1D, formMx])
  case mxz | waitj | pollj | mxdrFp32 | mxdrBf16 | mxdrFp16 | mxdrDm8 | mxdrI8 =>
    exact decode_packR rest hw (by simp [decodeFields, decodeMajor1E, formName, formOA, form2, formNN, noOpnd])
  case addCompact | subCompact | andCompact | orCompact | xorCompact | shlCompact | shrCompact | sarCompact |
      movCompact | seqCompact | sltCompact | vaddCompact | vsubCompact | vmulCompact | vfmaCompact =>
    exact decode_packCR rest hw (by simp [decodeCR])
  case addImmCompact d l =>
    exact decode_packCI rest hw (by simp [wellFormed] at hw; tauto) (by simp [decodeCI])
  case andImmCompact | shlImmCompact | shrImmCompact | sarImmCompact | movImmCompact | bZCompact | bNzCompact | bCompact |
      loopCompact =>
    exact decode_packCI rest hw (by simp) (by simp [decodeCI])
  case ldCompact | stCompact | ldWCompact | stWCompact => exact decode_packCM rest hw (by simp [decodeCM])
  all_goals exact absurd he Bool.noConfusion

end Sys2Proof
end

section
/-! SUPPORT. Scalar instructions by their shared shapes (R42, R45, R46, R49): what an operand reads, what a result of one or
two operands completes with, and the rows of the compact forms as such shapes (R30, R104). -/

namespace Sys2Proof.Machine

/-! ### Operand values (R45, R49) -/

theorem opndVal_reg (s : State) (w : Bool) {f : F6} (h : f.toNat < 56) : opndVal s w (.s f) = sreg (me s) f.toNat :=
  if_pos h

theorem opndVal_port (s : State) (w : Bool) {f : F6} (h : 56 ≤ f.toNat) :
    opndVal s w (.s f) = (portWord (myCore s) s.cur.2 (f.toNat - 56)).getD 0#64 := if_neg (Nat.not_lt.mpr h)

theorem opndVal_const {s : State} {t : Task} (w : Bool) (f : F6) (h : taskOf s (taskNum s.cur.1) = some t) :
    opndVal s w (.c f) = t.bank.getD f.toNat 0#64 := by
  simp only [opndVal, constVal, h]

theorem opndVal_lit_plain (s : State) (f : F6) : opndVal s false (.lit f) = BitVec.signExtend 64 f := rfl

theorem opndVal_lit_settled {s : State} (h : bit (me s).elit 63 = false) (w : Bool) (f : F6) :
    opndVal s w (.lit f) = BitVec.signExtend 64 f := by
  simp [opndVal, litVal, h, sext]

theorem opndVal_lit_wide {s : State} (h : bit (me s).elit 63 = true) (f : F6) :
    opndVal s true (.lit f) = BitVec.signExtend 64 ((me s).elit.extractLsb' 0 24 ++ f) := by
  simp [opndVal, litVal, h, sext]

theorem toNat_c3 (r : F3) : (r.setWidth 6).toNat = r.toNat := BitVec.toNat_setWidth_of_le (by decide)

/-- A compact form's register is s0 to s7 (R30). -/
@[simp] theorem opndVal_c3 (s : State) (w : Bool) (r : F3) : opndVal s w (c3 r) = sreg (me s) r.toNat := by
  rw [c3, opndVal_reg s w (by rw [toNat_c3]; omega), toNat_c3]

/-- Settles O5, by the kinds of an operand and whether an extension is pending. -/
theorem operandValues : Obligations.OperandValues := by
  refine ⟨fun s f w h => ?_, fun s f w v h hv => ?_, fun s f w t ht => opndVal_const w f ht,
    fun s f h w => opndVal_lit_settled h w f, fun s f g a h ha => ⟨opndVal_lit_wide h f, opndVal_lit_plain s g, ?_⟩⟩
  · rw [opndVal_reg s w h, sreg]
    exact if_congr (BitVec.toNat_inj (y := 0#6)) rfl rfl
  · rw [opndVal_port s w h, hv, Option.getD_some]
  · rw [valA, ha]
    exact opndVal_lit_wide h g

/-! ### The shapes of a scalar instruction (R42, R46) -/

theorem scalar2_wrote {a b : Opnd} {d : Nat} {s : State} (h : Issues ⟨[a, b], some d, [], []⟩ s) (len : Nat) (wide : Bool)
    (f : Word → Word → Word) :
    ∃ t, scalar2 len wide f d a b s = .next t ∧
      Wrote ⟨[a, b], some d, [], []⟩ s t (f (opndVal s (wide && !isLit b) a) (opndVal s wide b)) ((me s).pc + word len) := by
  rw [scalar2, issue_ready h]
  exact finish_wrote _ _ _ _

theorem scalar1_wrote {a : Opnd} {d : Nat} {s : State} (h : Issues ⟨[a], some d, [], []⟩ s) (len : Nat) (wide : Bool)
    (f : Word → Word) :
    ∃ t, scalar1 len wide f d a s = .next t ∧
      Wrote ⟨[a], some d, [], []⟩ s t (f (opndVal s wide a)) ((me s).pc + word len) := by
  rw [scalar1, issue_ready h]
  exact finish_wrote _ _ _ _

theorem scalar0_wrote {d : Nat} {s : State} (h : Issues ⟨[], some d, [], []⟩ s) (f : State → Word) :
    ∃ t, scalar0 f d s = .next t ∧ Wrote ⟨[], some d, [], []⟩ s t (f s) ((me s).pc + 4) := by
  rw [scalar0, issue_ready h]
  exact finish_wrote _ _ _ _

/-! ### What the operations of the compact forms compute (R92, R94) -/

theorem opShl_eq : opShl = fun a b => BitVec.ofNat 64 (a.toNat * 2 ^ (b.toNat % 64)) := by
  funext a b
  apply BitVec.eq_of_toNat_eq
  rw [opShl, BitVec.toNat_shiftLeft, Nat.shiftLeft_eq, BitVec.toNat_ofNat, amount]

theorem opShr_eq : opShr = fun a b => BitVec.ofNat 64 (a.toNat / 2 ^ (b.toNat % 64)) := by
  funext a b
  apply BitVec.eq_of_toNat_eq
  rw [opShr, BitVec.toNat_ushiftRight, Nat.shiftRight_eq_div_pow, BitVec.toNat_ofNat, amount,
    Nat.mod_eq_of_lt (Nat.lt_of_le_of_lt (Nat.div_le_self _ _) a.isLt)]

theorem opSar_eq : opSar = fun a b => BitVec.ofInt 64 (a.toInt / 2 ^ (b.toNat % 64)) := by
  funext a b
  rw [opSar, BitVec.sshiftRight, Int.shiftRight_eq_div_pow, amount]
  norm_cast

theorem opSeq_eq : opSeq = fun a b => if a = b then 1#64 else 0#64 := by
  funext a b
  simp [opSeq, flagWord]

theorem opSlt_eq : opSlt = fun a b => if a.toInt < b.toInt then 1#64 else 0#64 := by
  funext a b
  simp [opSlt, flagWord]

/-! ### The rows of the compact forms (R30, R104) -/

theorem encode_compact : ∀ e ∈ compactTable, ∀ d a b : F3, encode (e.instr d a b) = w16 (packCR b a d e.cop) := by
  simp only [compactTable, List.forall_mem_cons]
  exact ⟨fun _ _ _ => rfl, fun _ _ _ => rfl, fun _ _ _ => rfl, fun _ _ _ => rfl, fun _ _ _ => rfl, fun _ _ _ => rfl,
    fun _ _ _ => rfl, fun _ _ _ => rfl, fun _ _ _ => rfl, fun _ _ _ => rfl, by simp⟩

/-- A row of the two-register compact forms is its long form's operation, on s0 to s7, no literal widened. -/
theorem exec_compact : ∀ e ∈ compactTable, ∀ (d a b : F3) (s : State),
    exec (e.instr d a b) s = scalar2 short false e.effect d.toNat (c3 a) (c3 b) s := by
  simp only [compactTable, List.forall_mem_cons, ← opShl_eq, ← opShr_eq, ← opSar_eq, ← opSeq_eq, ← opSlt_eq]
  exact ⟨fun _ _ _ _ => rfl, fun _ _ _ _ => rfl, fun _ _ _ _ => rfl, fun _ _ _ _ => rfl, fun _ _ _ _ => rfl,
    fun _ _ _ _ => rfl, fun _ _ _ _ => rfl, fun _ _ _ _ => rfl, fun _ _ _ _ => rfl, fun _ _ _ _ => rfl, by simp⟩

/-- Settles O3: each row is `scalar2` of its effect on s0 to s7. -/
theorem compactTwoOperandResults : Obligations.CompactTwoOperandResults := by
  intro e he d a b s
  refine ⟨encode_compact e he d a b, fun hi => ?_⟩
  have h := scalar2_wrote hi short false e.effect
  rw [opndVal_c3, opndVal_c3] at h
  rw [exec_compact e he]
  exact h

/-- The amount of a compact shift is its literal, 0 to 31 (R30). -/
theorem amount_sext {l : F6} (h : l < 32#6) : amount (BitVec.signExtend 64 l) = l.toNat := by
  have hl : l.toNat < 32 := h
  have hm : l.msb = false := by rw [BitVec.msb_eq_decide]; simpa using hl
  rw [amount, BitVec.signExtend_eq_setWidth_of_msb_false hm, BitVec.toNat_setWidth_of_le (by decide)]
  omega

theorem encode_literal : ∀ e ∈ literalTable, ∀ (d : F3) (l : F6), encode (e.instr d l) = w16 (packCI l d e.cop) := by
  simp only [literalTable, List.forall_mem_cons]
  exact ⟨fun _ _ => rfl, fun _ _ => rfl, fun _ _ => rfl, fun _ _ => rfl, fun _ _ => rfl, by simp⟩

/-- A row of the compact forms with a literal is an operation on its register and its literal sign-extended, whose result
for a well-formed literal is the row's. -/
theorem exec_literal : ∀ e ∈ literalTable, ∀ (d : F3) (l : F6), wellFormed (e.instr d l) = true →
    ∃ f, (∀ s, exec (e.instr d l) s = scalar2 short false f d.toNat (c3 d) (.lit l) s) ∧
      ∀ v, f v (BitVec.signExtend 64 l) = e.effect v l := by
  simp only [literalTable, List.forall_mem_cons]
  have small : ∀ {l : F6}, decide (l < 32#6) = true → amount (BitVec.signExtend 64 l) = l.toNat :=
    fun h => amount_sext (of_decide_eq_true h)
  refine ⟨fun d l _ => ⟨opAdd, fun _ => rfl, fun _ => rfl⟩, fun d l _ => ⟨opAnd, fun _ => rfl, fun _ => rfl⟩,
    fun d l h => ⟨opShl, fun _ => rfl, fun v => ?_⟩, fun d l h => ⟨opShr, fun _ => rfl, fun v => ?_⟩,
    fun d l h => ⟨opSar, fun _ => rfl, fun v => ?_⟩, by simp⟩
  · rw [opShl_eq, ← small h]; rfl
  · rw [opShr_eq, ← small h]; rfl
  · rw [opSar_eq, ← small h]; rfl

/-- Settles O4: the rows are `scalar2` of a register and a literal, MOV is `scalar1`; neither widens. -/
theorem compactLiteralResults : Obligations.CompactLiteralResults := by
  refine ⟨fun e he d l s hw hi => ⟨encode_literal e he d l, ?_⟩, fun d a s hi => ?_, fun d l s hi => ?_⟩
  · obtain ⟨f, hx, hf⟩ := exec_literal e he d l hw
    have h := scalar2_wrote hi short false f
    rw [opndVal_c3, opndVal_lit_plain, hf] at h
    rw [hx]
    exact h
  · have h := scalar1_wrote hi short false opMov
    rw [opndVal_c3] at h
    exact h
  · exact scalar1_wrote hi short false opMov

/-! ### NOP, EXT.L, EXT and MOVX -/

/-- An instruction without a result that reads no operand completes with nothing but its end. -/
theorem finish_changed (len : Nat) (s : State) :
    ∃ t, finish ⟨[], none, [], []⟩ len s 0#64 = .next t ∧
      Changed ⟨[], none, [], []⟩ s t id ((me s).pc + word len) := by
  obtain ⟨t, ht, hc, hk⟩ := finish_wrote ⟨[], none, [], []⟩ len s 0#64
  exact ⟨t, ht, ⟨hc.cur, hc.context, hc.words, hc.queues⟩, hk⟩

/-- Settles O7: both forms are `finish` with no result. -/
theorem nopOnlyConsumesExtension : Obligations.NopOnlyConsumesExtension :=
  ⟨by decide, rfl, fun s => ⟨finish_changed long s, finish_changed short s⟩⟩

theorem execExtL_sets (e : BitVec 24) (s : State) : ∃ t, execExtL e s = .next t ∧
    OwnChange s t { stepEnd (pastInsn (me s) ((me s).pc + 4)) with elit := 1#1 ++ 0#39 ++ e } := by
  have h := advance_own s (pcAfter s long)
  have h2 := h.trans (modMe_own _ (fun x => { x with elit := 1#1 ++ 0#39 ++ e }))
  rw [h.me] at h2
  exact ⟨_, rfl, h2⟩

/-- EXT of an operand that is no vector loads its value (R51). -/
theorem execExt_scalar {n : F6} {a : Opnd} {s : State} (ha : isVal a = true) (h : Issues ⟨[a], none, [], []⟩ s) :
    execExt n a s =
      finishCtx ⟨[a], none, [], []⟩ long s (fun x => setEreg x n.toNat (opndVal s true a)) := by
  rw [execExt, issue_ready h]
  cases a with
  | v f => exact absurd ha Bool.noConfusion
  | s f | c f | lit f => rfl

/-- EXT of a MASK register loads its low 64 bits (R51). -/
theorem execExt_mask {n f : F6} {s : State} (ht : vtagOf (me s) f.toNat = .mask) (h : Issues ⟨[.v f], none, [], []⟩ s) :
    execExt n (.v f) s = finishCtx ⟨[.v f], none, [], []⟩ long s
      (fun x => setEreg x n.toNat ((vreg x f.toNat).extractLsb' 0 64)) := by
  simp only [← BitVec.setWidth_eq_extractLsb' (show 64 ≤ 512 by decide)]
  rw [execExt, issue_ready h]
  exact if_neg (not_not_intro ht)

theorem execExt_otherTag {n f : F6} {s : State} (ht : vtagOf (me s) f.toNat ≠ .mask)
    (h : Issues ⟨[.v f], none, [], []⟩ s) : execExt n (.v f) s = trap s causeFormat := by
  rw [execExt, issue_ready h]
  exact if_pos ht

theorem trap_trapped {cause : Nat} (s : State) (h : cause ≠ causePoison) :
    ∃ t, trap s cause = .next t ∧ Trapped s t cause 0 0#64 [] := trapAt_trapped s 0 0#64 [] h

/-- Settles O8, by the shared completions: EXT.L overwrites the pending extension after its end, EXT and MOVX write one
register, EXT of another tag is `trap`. -/
theorem extensionRegisters : Obligations.ExtensionRegisters := by
  refine ⟨fun e s => ?_, fun n a s ha hi => ?_, fun n f s hm hi => ?_, fun n f s hm hi => ?_,
    fun d n s => ⟨rfl, fun hi => scalar0_wrote hi (fun t => ereg (me t) n.toNat)⟩⟩
  · obtain ⟨t, ht, h⟩ := execExtL_sets e s
    exact ⟨t, ht, h.quiet.kept h.others, h.cur, h.me, h.words, h.queues⟩
  · obtain ⟨t, ht, hc⟩ := finishCtx_own ⟨[a], none, [], []⟩ long (.refl s) (fun x => setEreg x n.toNat (opndVal s true a))
    exact ⟨t, (execExt_scalar ha hi).trans ht, hc⟩
  · obtain ⟨t, ht, hc⟩ := finishCtx_own ⟨[.v f], none, [], []⟩ long (.refl s)
      (fun x => setEreg x n.toNat ((vreg x f.toNat).extractLsb' 0 64))
    exact ⟨t, (execExt_mask hm hi).trans ht, hc⟩
  · obtain ⟨t, h, ht⟩ := trap_trapped s (cause := causeFormat) (by decide)
    exact ⟨t, (execExt_otherTag hm hi).trans h, ht⟩

/-! ### JR and CALLR to an odd address (R28, R102) -/

theorem trapAddr_trapped {cause : Nat} (s : State) (v : Word) (h : cause ≠ causePoison) :
    ∃ t, trapAddr s cause v.toNat = .next t ∧ Trapped s t cause 0 v [] := by
  rw [trapAddr, word, BitVec.ofNat_toNat, BitVec.setWidth_eq]
  exact trapAt_trapped s 0 v [] h

/-- Settles O12: the odd branch of JR and CALLR is `trapAddr` at the target. -/
theorem oddTargetTraps : Obligations.OddTargetTraps := by
  refine ⟨fun a s hb hi => ?_, fun d a s hb hi => ?_⟩
  · rw [show exec (.jr a) s = execJr a s from rfl, execJr, issue_ready hi]
    simp only [hb, if_true]
    exact trapAddr_trapped s _ (by decide)
  · rw [show exec (.callr d a) s = execCallr d a s from rfl, execCallr, issue_ready hi]
    simp only [hb, if_true]
    exact trapAddr_trapped s _ (by decide)

/-- Settles O56, by evaluation of the decoder at each word. -/
theorem decodesSpecWords : Obligations.DecodesSpecWords := by
  refine ⟨?_, rfl, rfl⟩
  simp only [List.forall_mem_cons]
  exact ⟨rfl, rfl, rfl, rfl, rfl, rfl, rfl, rfl, rfl, rfl, rfl, rfl, rfl, rfl, by simp⟩

end Sys2Proof.Machine
end

section
/-! SUPPORT. The checks that come before an instruction's effect (R44, R46, R136): every row of the instruction tables
issues through `issue` or `vIssue` with the names its row gives, so that a register outside the allotment or a tag that it
does not take traps. -/

namespace Sys2Proof.Machine

/-! ### The checks of a vector instruction (R46, R136) -/

/-- A register outside the allotment comes before the tags (R46). -/
theorem vIssue_unheld {n : Names} {s : State} (h : allHeld (me s) n = false) (ok : Ctx → Bool) (k : State → Res) :
    vIssue n ok s k = trap s causeIllegalReg := by
  rw [vIssue, h]
  exact issue_unheld h k

theorem vIssue_mismatch {n : Names} {s : State} (hh : allHeld (me s) n = true) (hp : anyPending (me s) n = false)
    {ok : Ctx → Bool} (ho : ok (me s) = false) (k : State → Res) : vIssue n ok s k = trap s causeFormat := by
  rw [vIssue, hh, hp, ho]
  rfl

/-! ### The rows of the vector instructions (R140 to R154) -/

/-- What a register of a tag holds: the low 64 bits of a MASK (R70). -/
theorem tagBits_eq (t : Tag) (v : Vec) :
    tagBits t v = if t = .mask then BitVec.setWidth 512 (v.extractLsb' 0 64) else v := by
  rw [tagBits, BitVec.setWidth_eq_extractLsb' (show 64 ≤ 512 by decide)]

theorem vLogicI_eq (f : Vec → Vec → Vec) (d a b : F6) :
    vLogicI f d a b = vector (logicRow f d a b).names 4 d (logicRow f d a b).ok (logicRow f d a b).res := by
  unfold vLogicI logicRow
  simp only [tagBits_eq]
  rfl

theorem vShiftI_eq (k : ShiftKind) (d a : F6) (b : Opnd) :
    vShiftI k d a b = vector (shiftRow k d a b).names 4 d (shiftRow k d a b).ok (shiftRow k d a b).res := by
  cases b <;> rfl

/-- A vector instruction is `vector` of its row: its names, the tags it takes and its result. -/
theorem exec_vectorRow {i : Instr} {r : VecRow} (h : vectorRow i = some r) (s : State) :
    exec i s = vector r.names r.len r.d r.ok r.res s := by
  unfold vectorRow at h
  split at h
  -- VAND, VOR, VXOR; then VSHL, VSHR, VSAR; then no vector instruction
  case h_9 d a b | h_10 d a b | h_11 d a b => cases h; exact congrFun (vLogicI_eq _ d a b) s
  case h_12 d a b | h_13 d a b | h_14 d a b => cases h; exact congrFun (vShiftI_eq _ d a b) s
  case h_37 => exact absurd h (by simp)
  all_goals cases h; rfl

/-! ### The rows of the other families (R92 to R96, R161 to R164) -/

theorem exec_scalarTable : ∀ e ∈ scalarTable, ∃ f, ∀ (d : F6) (a b : Opnd) (s : State),
    exec (e.instr d a b) s = scalar2 long true f d.toNat a b s := by
  simp only [scalarTable, List.forall_mem_cons]
  exact ⟨⟨opAdd, fun _ _ _ _ => rfl⟩, ⟨opSub, fun _ _ _ _ => rfl⟩, ⟨opAnd, fun _ _ _ _ => rfl⟩,
    ⟨opOr, fun _ _ _ _ => rfl⟩, ⟨opXor, fun _ _ _ _ => rfl⟩, ⟨opShl, fun _ _ _ _ => rfl⟩, ⟨opShr, fun _ _ _ _ => rfl⟩,
    ⟨opSar, fun _ _ _ _ => rfl⟩, ⟨opMul, fun _ _ _ _ => rfl⟩, ⟨opMulh, fun _ _ _ _ => rfl⟩,
    ⟨opMulhn, fun _ _ _ _ => rfl⟩, ⟨opDiv, fun _ _ _ _ => rfl⟩, ⟨opDivn, fun _ _ _ _ => rfl⟩,
    ⟨opRem, fun _ _ _ _ => rfl⟩, ⟨opRemn, fun _ _ _ _ => rfl⟩, ⟨opSeq, fun _ _ _ _ => rfl⟩,
    ⟨opSne, fun _ _ _ _ => rfl⟩, ⟨opSlt, fun _ _ _ _ => rfl⟩, ⟨opSltn, fun _ _ _ _ => rfl⟩,
    ⟨opSle, fun _ _ _ _ => rfl⟩, ⟨opSlen, fun _ _ _ _ => rfl⟩, ⟨opMin, fun _ _ _ _ => rfl⟩,
    ⟨opMax, fun _ _ _ _ => rfl⟩, ⟨opMinn, fun _ _ _ _ => rfl⟩, ⟨opMaxn, fun _ _ _ _ => rfl⟩,
    ⟨opSext, fun _ _ _ _ => rfl⟩, by simp⟩

theorem exec_bitTable : ∀ e ∈ bitTable, ∃ f, ∀ (d : F6) (a : Opnd) (s : State),
    exec (e.instr d a) s = scalar1 long true f d.toNat a s := by
  simp only [bitTable, List.forall_mem_cons]
  exact ⟨⟨opClz, fun _ _ _ => rfl⟩, ⟨opCtz, fun _ _ _ => rfl⟩, ⟨opPopc, fun _ _ _ => rfl⟩,
    ⟨reverseBits, fun _ _ _ => rfl⟩, ⟨swapBytes, fun _ _ _ => rfl⟩, ⟨opMov, fun _ _ _ => rfl⟩, by simp⟩

theorem exec_loadRow {i : Instr} {r : LoadRow} (h : loadRow i = some r) (s : State) :
    exec i s = issue r.names s (fun t => loadAny r.names r.len r.d (r.va t) r.n r.signed t) := by
  unfold loadRow at h
  split at h
  case h_10 => exact absurd h (by simp)
  all_goals cases h; rfl

theorem exec_storeRow {i : Instr} {r : StoreRow} (h : storeRow i = some r) (s : State) :
    exec i s = issue r.names s (fun t => storeAny r.names r.len (r.va t) r.n (r.value t) t) := by
  unfold storeRow at h
  split at h
  case h_7 => exact absurd h (by simp)
  all_goals cases h; rfl

/-- VLD of an operand that is no vector loads one register (R163). -/
theorem vld_vecLoad {t : Tag} {d a : F6} {b : Opnd} {r : VecLoadRow} (h : vecLoad t d a b = some r) (s : State) :
    vld t d a b s = issue r.names s (fun u => loadVecAny r.names r.d.toNat r.tag (r.va u) u) := by
  cases b with
  | v f => exact absurd h (by simp [vecLoad])
  | s f | c f | lit f => cases h; rfl

theorem exec_vecLoadRow {i : Instr} {r : VecLoadRow} (h : vecLoadRow i = some r) (s : State) :
    exec i s = issue r.names s (fun u => loadVecAny r.names r.d.toNat r.tag (r.va u) u) := by
  unfold vecLoadRow at h
  split at h
  case h_12 => cases h; rfl
  case h_13 => exact absurd h (by simp)
  all_goals exact vld_vecLoad h s

theorem exec_gatherRow {i : Instr} {t : Tag} {d a f : F6} (h : gatherRow i = some (t, d, a, f)) (s : State) :
    exec i s = vIssue (vmemNames d a (.v f)) (fun x => indexOk x f.toNat) s (fun u =>
      gather (vmemNames d a (.v f)) d.toNat t (elementVas (me u) (valS u a) f.toNat) u) := by
  unfold gatherRow at h
  split at h
  case h_12 => exact absurd h (by simp)
  all_goals cases h; rfl

/-- VST and the scatter check the same names (R163, R164). -/
theorem execVst_unheld {x a : F6} {b : Opnd} {s : State} (h : allHeld (me s) (vmemNames x a b) = false) :
    execVst x a b s = trap s causeIllegalReg := by
  cases b with
  | v f => simp only [execVst]; exact vIssue_unheld h _ _
  | s f | c f | lit f => simp only [execVst]; exact issue_unheld h _

/-! ### The traps -/

/-- Settles O30: a row's `vector` reaches its second check. -/
theorem vectorTagMismatchTraps : Obligations.VectorTagMismatchTraps := by
  intro i r s hr hh hp ho
  rw [exec_vectorRow hr, vector, vIssue_mismatch hh hp ho]
  exact trap_trapped s (by decide)

/-- s0 to s7 lie inside every allotment (R44, R109). -/
theorem scalarHeld_low (x : Ctx) {n : Nat} (h : n < 8) : scalarHeld x n = true := by
  rw [scalarHeld, Bool.or_eq_true, decide_eq_true_eq, decide_eq_true_eq]
  exact .inr (by omega)

/-- Settles O13: in every family the first check of `issue` or `vIssue` fails. -/
theorem unallottedRegisterTraps : Obligations.UnallottedRegisterTraps := by
  intro s
  have ill := trap_trapped s (cause := causeIllegalReg) (by decide)
  refine ⟨fun e he d a b h => ?_, fun e he d a h => ?_, fun i r hr h => ?_, fun i r hr h => ?_, fun i r hr h => ?_,
    fun i r hr h => ?_, fun i t d a f hr h => ?_, fun x a b h => ?_, fun n hn => scalarHeld_low (me s) hn⟩
  · obtain ⟨f, hf⟩ := exec_scalarTable e he
    rw [hf, scalar2, issue_unheld h]; exact ill
  · obtain ⟨f, hf⟩ := exec_bitTable e he
    rw [hf, scalar1, issue_unheld h]; exact ill
  · rw [exec_vectorRow hr, vector, vIssue_unheld h]; exact ill
  · rw [exec_loadRow hr, issue_unheld h]; exact ill
  · rw [exec_storeRow hr, issue_unheld h]; exact ill
  · rw [exec_vecLoadRow hr, issue_unheld h]; exact ill
  · rw [exec_gatherRow hr, vIssue_unheld h]; exact ill
  · rw [show exec (.vst x a b) s = execVst x a b s from rfl, execVst_unheld h]; exact ill

end Sys2Proof.Machine
end

section
/-! SUPPORT. The turn of a context (R27, R46, R305, R313), and what follows a turn: caches within their capacities and no
outstanding job leave the state as it is (R10, R11, R13, R238). -/

namespace Sys2Proof.Machine

/-! ### The turn of a context -/

/-- A step whose agenda names a context is that context's turn. -/
theorem step_context {s : State} {rest : List Turn} {lc c : Nat} (ha : s.agenda = .context lc c :: rest) :
    step s = settledTurn { s with agenda := rest } (turnContext lc c { s with agenda := rest }) := by
  rw [step, runAgenda, ha]
  rfl

/-- The word whose bytes have been fetched runs. -/
theorem runWord_got {s : State} {lc c : Nat} {bs : List Byte}
    (h : fetchWord s lc (ctxOf s lc c).pc.toNat = .got bs) :
    runWord lc c s = runBytes bs (fetchLines s lc (ctxOf s lc c).pc.toNat bs.length) := by
  rw [runWord, h]

theorem runBytes_decodes {bs q : List Byte} {i : Instr} (h : decode bs = .ok (i, q)) (s : State) :
    runBytes bs s = exec i s := by
  rw [runBytes, h]

theorem runBytes_reserved {bs : List Byte} (h : ∀ i q, decode bs ≠ .ok (i, q)) (s : State) :
    runBytes bs s = execReservedWord (insnOf bs) s := by
  rw [runBytes]
  cases hd : decode bs with
  | ok r => exact absurd hd (h r.1 r.2)
  | error e => rfl

/-- The state in which a context's word is fetched: one that was resumed has acquired at PKG (R313). -/
def fetchState (u : State) (lc c : Nat) : State :=
  if (ctxOf u lc c).fence then modCtx (acquire u lc scopePkg) lc c (fun y => { y with fence := false }) else u

@[simp] theorem ctxOf_acquire (s : State) (lc scope lc' c' : Nat) :
    ctxOf (acquire s lc scope) lc' c' = ctxOf s lc' c' := by
  have hm : ∀ f : LCore → LCore, (∀ k, (f k).ctxs = k.ctxs) → ctxOf (modCore s lc f) lc' c' = ctxOf s lc' c' :=
    fun f hf => by
      rw [ctxOf, coreOf_modCore]
      split
      · subst_vars; rw [hf, ctxOf]
      · rfl
  unfold acquire
  split
  · rfl
  · dsimp only
    split
    · exact hm _ fun _ => rfl
    · rw [show ∀ (u : State) l, ctxOf { u with l2 := l } lc' c' = ctxOf u lc' c' from fun _ _ => rfl]
      exact hm _ fun _ => rfl

theorem fetchState_pc (u : State) (lc c : Nat) : (ctxOf (fetchState u lc c) lc c).pc = (ctxOf u lc c).pc := by
  unfold fetchState
  split <;> simp

section turn
variable {s : State} {lc c : Nat} (hr : runnable s lc c = true)
include hr

theorem turnContext_delivers (hd : deliverable (ctxOf s lc c) = true) :
    turnContext lc c s = execDeliveredTrap lc c { s with cur := (lc, c) } := by
  simp only [turnContext, hr, hd, if_true]

/-- A resumed context waits for its accesses before it acquires (R313). -/
theorem turnContext_waits (hd : deliverable (ctxOf s lc c) = false) (hf : (ctxOf s lc c).fence = true)
    (hn : accessesDone (ctxOf s lc c) = false) :
    turnContext lc c s = waitAt { s with cur := (lc, c) } (repliesWait { s with cur := (lc, c) } 0) := by
  simp [turnContext, hr, hd, hf, hn]

theorem turnContext_fetches (hd : deliverable (ctxOf s lc c) = false)
    (hf : (ctxOf s lc c).fence = false ∨ accessesDone (ctxOf s lc c) = true) :
    turnContext lc c s = runWord lc c (fetchState { s with cur := (lc, c) } lc c) := by
  have hx : ctxOf { s with cur := (lc, c) } lc c = ctxOf s lc c := rfl
  rw [fetchState, hx]
  cases h : (ctxOf s lc c).fence with
  | false => simp [turnContext, hr, hd, h]
  | true => simp [turnContext, hr, hd, h, hf.resolve_left (by simp [h])]

end turn

/-! ### What follows a turn -/

/-- A fold whose every step leaves the state alone. -/
theorem foldl_still {α : Type} {f : State → α → State} {s : State} {l : List α} (h : ∀ a ∈ l, f s a = s) :
    l.foldl f s = s := by
  induction l with
  | nil => rfl
  | cons a l ih =>
    rw [List.foldl_cons, h a (by simp)]
    exact ih fun b hb => h b (List.mem_cons_of_mem a hb)

theorem trimBy_within {α : Type} {held : State → Nat} {cap : Nat} {s : State} (h : held s ≤ cap)
    (victims : State → List α) (evict : State → α → State) : trimBy held victims cap evict s = s := by
  rw [trimBy, Nat.sub_eq_zero_of_le h]
  rfl

section within
variable {t : State} (h2 : t.l2.length ≤ l2Lines) (hm : t.msc.length ≤ mscLines)
include h2 hm

theorem trimCaches_within (h1 : ∀ p ∈ keys t.phys, (linesOn p t).length ≤ waysLines (stashWays t p)) :
    trimCaches t = t := by
  have hc : (keys t.phys).foldl trimCore t = t := foldl_still fun p hp => trimBy_within (h1 p hp) _ _
  rw [trimCaches, hc]
  simp only [h2, hm, if_true]

theorem overfull_within (r : State) : overfull r t = false := by
  simp [overfull, Nat.not_lt.mpr h2, Nat.not_lt.mpr hm]

end within

theorem mixJobs_idle {t : State} (h : ∀ y ∈ t.yards, y.2.jobs = []) : mixJobs t = t := by
  rw [mixJobs, if_pos]
  exact List.all_eq_true.mpr fun y hy => by rw [h y hy]; rfl

/-- Settles O57, by the cases of a context's turn; its end is the identity within the caches' capacities. -/
theorem stepRunsDecodedInstruction : Obligations.StepRunsDecodedInstruction := by
  refine ⟨fun s rest lc c ha hr => ?_, fun r t h2 hm h1 hj => ?_⟩
  · have hr' : runnable { s with agenda := rest } lc c = true := hr
    intro r u x
    rw [step_context ha]
    refine ⟨fun hd => ?_, fun hd hf hn => ?_, fun hd hf => ?_⟩
    · rw [turnContext_delivers hr' hd]
    · rw [turnContext_waits hr' hd hf hn]
    · intro w bs hb
      have hpc : (ctxOf w lc c).pc = x.pc := fetchState_pc u lc c
      have hrun : turnContext lc c r = runBytes bs (fetchLines w lc x.pc.toNat bs.length) := by
        rw [turnContext_fetches hr' hd hf]
        rw [← hpc] at hb ⊢
        exact runWord_got hb
      rw [hrun]
      exact ⟨fun i q hi => by rw [runBytes_decodes hi], fun hi => by rw [runBytes_reserved hi]⟩
  · have ht : afterTurn t = t := by rw [afterTurn, trimCaches_within h2 hm h1, mixJobs_idle hj]
    simp only [settledTurn, ht, overfull_within h2 hm, Bool.false_eq_true, if_false]

end Sys2Proof.Machine
end

section
/-! SUPPORT. What the scalar operations compute (R92 to R96): each two-operand operation is its row's effect, and each
bit instruction's result has the properties that its table names. -/

namespace Sys2Proof.Machine

/-! ### Products (R92) -/

theorem opMul_eq : opMul = fun a b => BitVec.ofNat 64 (a.toNat * b.toNat) := by
  funext a b
  rw [BitVec.ofNat_mul, BitVec.ofNat_toNat, BitVec.ofNat_toNat, BitVec.setWidth_eq, BitVec.setWidth_eq, opMul]

/-- The upper half of a 128-bit word is the upper half of any number that it stands for. -/
theorem upperHalf_ofInt (p : Int) : (BitVec.ofInt 128 p).extractLsb' 64 64 = BitVec.ofInt 64 (p / 2 ^ 64) := by
  apply BitVec.eq_of_toNat_eq
  rw [BitVec.extractLsb'_toNat, BitVec.toNat_ofInt, BitVec.toNat_ofInt, Nat.shiftRight_eq_div_pow]
  omega

theorem opMulh_eq :
    opMulh = fun a b => (BitVec.signExtend 128 a * BitVec.signExtend 128 b).extractLsb' 64 64 := by
  funext a b
  rw [BitVec.signExtend, BitVec.signExtend, ← BitVec.ofInt_mul, upperHalf_ofInt]
  rfl

theorem opMulhn_eq : opMulhn = fun a b => (BitVec.setWidth 128 a * BitVec.setWidth 128 b).extractLsb' 64 64 := by
  funext a b
  have hp : BitVec.setWidth 128 a * BitVec.setWidth 128 b = BitVec.ofNat 128 (a.toNat * b.toNat) := by
    rw [BitVec.ofNat_mul, BitVec.ofNat_toNat, BitVec.ofNat_toNat]
  apply BitVec.eq_of_toNat_eq
  rw [hp, BitVec.extractLsb'_toNat, BitVec.toNat_ofNat, opMulhn, word, BitVec.toNat_ofNat, Nat.shiftRight_eq_div_pow]
  omega

/-! ### Quotients and remainders (R93) -/

/-- The overflow row of R93 is what wrapping gives. -/
theorem opDiv_eq : opDiv = fun a b =>
    if b = 0#64 then 0xFFFFFFFFFFFFFFFF#64
    else if a.toInt = -2 ^ 63 ∧ b.toInt = -1 then 0x8000000000000000#64
    else BitVec.ofInt 64 (a.toInt.tdiv b.toInt) := by
  funext a b
  refine if_congr Iff.rfl rfl ?_
  split
  case isTrue h => rw [h.1, h.2]; rfl
  case isFalse => rfl

theorem opRem_eq : opRem = fun a b =>
    if b = 0#64 then a
    else if a.toInt = -2 ^ 63 ∧ b.toInt = -1 then 0#64
    else BitVec.ofInt 64 (a.toInt - b.toInt * a.toInt.tdiv b.toInt) := by
  funext a b
  refine if_congr Iff.rfl rfl ?_
  split
  case isTrue h => rw [h.1, h.2]; rfl
  case isFalse => rfl

theorem opDivn_eq : opDivn = fun a b => if b = 0#64 then 0xFFFFFFFFFFFFFFFF#64 else a / b := by
  funext a b
  rw [BitVec.udiv_def]
  rfl

/-- A remainder is the dividend less the divisor's multiple. -/
theorem umod_eq_sub_mul_udiv (a b : Word) : a % b = a - b * (a / b) := by
  have h : a % b + b * (a / b) = a := by
    apply BitVec.eq_of_toNat_eq
    rw [BitVec.toNat_add, BitVec.toNat_mul, BitVec.toNat_umod, BitVec.toNat_udiv, Nat.add_mod_mod, Nat.mod_add_div,
      Nat.mod_eq_of_lt a.isLt]
  exact BitVec.eq_sub_iff_add_eq.mpr h

theorem opRemn_eq : opRemn = fun a b => if b = 0#64 then a else a - b * (a / b) := by
  funext a b
  rw [← umod_eq_sub_mul_udiv, BitVec.umod_def]
  rfl

/-! ### Comparisons and extremes (R94) -/

theorem flagWord_decide (p : Prop) [Decidable p] : flagWord (decide p) = if p then 1#64 else 0#64 := by
  simp [flagWord]

theorem opSne_eq : opSne = fun a b => if a ≠ b then 1#64 else 0#64 := by
  funext a b; exact flagWord_decide _

theorem opSltn_eq : opSltn = fun a b => if a < b then 1#64 else 0#64 := by
  funext a b; exact flagWord_decide _

theorem opSle_eq : opSle = fun a b => if a.toInt ≤ b.toInt then 1#64 else 0#64 := by
  funext a b; exact flagWord_decide _

theorem opSlen_eq : opSlen = fun a b => if a ≤ b then 1#64 else 0#64 := by
  funext a b; exact flagWord_decide _

/-! ### SEXT (R96) -/

/-- sx reads the low bits of a word as a bit vector of their number does. -/
theorem sx_eq_toInt (a : Word) (n : Nat) : sx a.toNat (n + 1) = (a.extractLsb' 0 (n + 1)).toInt := by
  have hy : (a.extractLsb' 0 (n + 1)).toNat = a.toNat % 2 ^ (n + 1) := BitVec.extractLsb'_toNat 0 (n + 1) a
  rw [BitVec.toInt_eq_toNat_cond, hy, sx, Nat.add_sub_cancel]
  refine if_congr ?_ rfl rfl
  rw [Nat.pow_succ]
  omega

theorem opSext_eq : opSext = fun a b => BitVec.signExtend 64 (a.extractLsb' 0 (b.toNat % 64 + 1)) := by
  funext a b
  rw [opSext, amount, sx_eq_toInt]
  rfl

/-! ### The bits of a word (R95) -/

/-- The highest one bit of a word that is not 0 is bit log2. -/
theorem leadingZeros_spec (a : Word) : leadingZeros a ≤ 64 ∧
    (∀ i, i < leadingZeros a → a.getLsbD (63 - i) = false) ∧
    (leadingZeros a < 64 → a.getLsbD (63 - leadingZeros a) = true) := by
  unfold leadingZeros
  split
  case isTrue h => subst h; simp
  case isFalse h =>
    have hn : a.toNat ≠ 0 := fun h0 => h (BitVec.eq_of_toNat_eq h0)
    have hl : Nat.log2 a.toNat < 64 := (Nat.log2_lt hn).mpr a.isLt
    refine ⟨by omega, fun i hi => ?_, fun _ => ?_⟩
    · exact Nat.testBit_lt_two_pow (Nat.lt_of_lt_of_le Nat.lt_log2_self (Nat.pow_le_pow_right (by decide) (by omega)))
    · rw [show 63 - (63 - Nat.log2 a.toNat) = Nat.log2 a.toNat by omega]
      exact Nat.testBit_log2 hn

/-- CTZ counts up to the first one bit. -/
theorem trailingZeros_eq_findIdx (a : Word) : trailingZeros a = (List.range 64).findIdx (bit a) := by
  have hp : (fun i => !!bit a i) = bit a := by simp
  rw [trailingZeros, List.takeWhile_eq_take_findIdx_not, hp, List.length_take, Nat.min_eq_left List.findIdx_le_length]

theorem trailingZeros_spec (a : Word) : trailingZeros a ≤ 64 ∧
    (∀ i, i < trailingZeros a → a.getLsbD i = false) ∧ (trailingZeros a < 64 → a.getLsbD (trailingZeros a) = true) := by
  rw [trailingZeros_eq_findIdx]
  have hle : (List.range 64).findIdx (bit a) ≤ 64 := by
    simpa using List.findIdx_le_length (xs := List.range 64) (p := bit a)
  refine ⟨hle, fun i hi => ?_, fun h => ?_⟩
  · have h := List.not_of_lt_findIdx hi
    rw [List.getElem_range, bit_eq_getLsbD] at h
    simpa using h
  · have h := List.findIdx_getElem (p := bit a) (xs := List.range 64) (w := by simpa using h)
    rwa [List.getElem_range, bit_eq_getLsbD] at h

theorem foldl_count (p : Nat → Bool) (l : List Nat) (k : Nat) :
    l.foldl (fun n i => if p i then n + 1 else n) k = k + l.countP p := by
  induction l generalizing k with
  | nil => rfl
  | cons i l ih =>
    rw [List.foldl_cons, ih, List.countP_cons]
    split <;> omega

theorem popCount_eq (a : Word) : popCount a = (List.range 64).countP (fun i => a.getLsbD i) := by
  rw [popCount, foldl_count, Nat.zero_add]
  rfl

/-- Bits set one after another: each of them stands where one of the steps set it. -/
theorem getLsbD_foldl_set (p : Nat → Bool) (pos : Nat → Nat) (l : List Nat) (r : Word) {j : Nat} (hj : j < 64) :
    (l.foldl (fun r i => if p i then r ||| (1#64 <<< pos i) else r) r).getLsbD j =
      (r.getLsbD j || l.any (fun i => p i && decide (j = pos i))) := by
  have hone : ∀ k, (1#64 <<< k).getLsbD j = decide (j = k) := fun k => by
    rw [← BitVec.twoPow_eq, BitVec.getLsbD_twoPow]
    simp only [eq_comm (a := k), Bool.and_eq_right_iff_imp, decide_eq_true_eq]
    omega
  induction l generalizing r with
  | nil => simp
  | cons i l ih =>
    rw [List.foldl_cons, ih, List.any_cons]
    cases p i <;> simp [hone, Bool.or_assoc]

theorem getLsbD_reverseBits (a : Word) {i : Nat} (hi : i < 64) : (reverseBits a).getLsbD i = a.getLsbD (63 - i) := by
  rw [reverseBits, getLsbD_foldl_set (bit a) (63 - ·) _ _ hi, BitVec.getLsbD_zero, Bool.false_or, Bool.eq_iff_iff,
    List.any_eq_true]
  simp only [List.mem_range, Bool.and_eq_true, decide_eq_true_eq, bit_eq_getLsbD]
  refine ⟨fun ⟨k, hk, hb, he⟩ => ?_, fun h => ⟨63 - i, by omega, h, by omega⟩⟩
  rwa [show 63 - i = k by omega]

/-- Bit j of byte i of the number that bytes stand for (R2). -/
theorem testBit_ofBytes (bs : List Byte) (i : Nat) {j : Nat} (hj : j < 8) :
    (ofBytes bs).testBit (8 * i + j) = (byteAt bs i).getLsbD j := by
  induction bs generalizing i with
  | nil => simp [ofBytes, byteAt]
  | cons b bs ih =>
    rw [ofBytes, Nat.add_comm, show 256 = 2 ^ 8 from rfl, Nat.testBit_two_pow_mul_add _ b.isLt]
    cases i with
    | zero =>
      rw [if_pos (by omega), Nat.mul_zero, Nat.zero_add, BitVec.testBit_toNat]
      rfl
    | succ i =>
      rw [if_neg (by omega), show 8 * (i + 1) + j - 8 = 8 * i + j by omega, ih]
      rfl

theorem getLsbD_byteAt_toBytes {n i j : Nat} (x : Nat) (hi : i < n) (hj : j < 8) :
    (byteAt (toBytes n x) i).getLsbD j = x.testBit (8 * i + j) := by
  induction n generalizing x i with
  | zero => omega
  | succ n ih =>
    cases i with
    | zero =>
      rw [show byteAt (toBytes (n + 1) x) 0 = BitVec.ofNat 8 x from rfl, BitVec.getLsbD_ofNat]
      simp [hj]
    | succ i =>
      rw [show byteAt (toBytes (n + 1) x) (i + 1) = byteAt (toBytes n (x / 256)) i from rfl, ih _ (by omega),
        show 256 = 2 ^ 8 from rfl, Nat.testBit_div_two_pow, show 8 * (i + 1) + j = 8 * i + j + 8 by omega]

theorem length_toBytes (n x : Nat) : (toBytes n x).length = n := by
  induction n generalizing x with
  | zero => rfl
  | succ n ih => rw [toBytes, List.length_cons, ih]

theorem byteAt_reverse {bs : List Byte} {i : Nat} (hi : i < bs.length) :
    byteAt bs.reverse i = byteAt bs (bs.length - 1 - i) := congrFun (List.getD_reverse i hi) 0#8

theorem extract_swapBytes (a : Word) {i : Nat} (hi : i < 8) :
    (swapBytes a).extractLsb' (8 * i) 8 = a.extractLsb' (56 - 8 * i) 8 := by
  refine BitVec.eq_of_getLsbD_eq fun j hj => ?_
  have hlen : i < (toBytes 8 a.toNat).length := by rwa [length_toBytes]
  rw [BitVec.getLsbD_extractLsb', BitVec.getLsbD_extractLsb', swapBytes, word, BitVec.getLsbD_ofNat,
    testBit_ofBytes _ _ hj, byteAt_reverse hlen, length_toBytes, getLsbD_byteAt_toBytes _ (by omega) hj,
    BitVec.testBit_toNat, decide_eq_true (show 8 * i + j < 64 by omega), Bool.true_and]
  congr 2
  omega

/-! ### The rows (R92 to R96) -/

theorem encode_scalar : ∀ e ∈ scalarTable, ∀ (d : F6) (a b : Opnd),
    encode (e.instr d a b) = w32 (packR e.fn b a d e.major) := by
  simp only [scalarTable, List.forall_mem_cons]
  repeat refine ⟨fun _ _ _ => rfl, ?_⟩
  simp

/-- A row of the two-operand instructions is `scalar2` of its effect. -/
theorem exec_scalar : ∀ e ∈ scalarTable, ∀ (d : F6) (a b : Opnd) (s : State),
    exec (e.instr d a b) s = scalar2 long true e.effect d.toNat a b s := by
  simp only [scalarTable, List.forall_mem_cons, ← opShl_eq, ← opShr_eq, ← opSar_eq, ← opMul_eq, ← opMulh_eq,
    ← opMulhn_eq, ← opDiv_eq, ← opDivn_eq, ← opRem_eq, ← opRemn_eq, ← opSeq_eq, ← opSne_eq, ← opSlt_eq, ← opSltn_eq,
    ← opSle_eq, ← opSlen_eq, ← opSext_eq]
  repeat refine ⟨fun _ _ _ _ => rfl, ?_⟩
  simp

/-- Settles O1: each row is `scalar2` of its effect on the operand values, B's literal or else A's widened. -/
theorem scalarTwoOperandResults : Obligations.ScalarTwoOperandResults := by
  intro e he d a b s
  refine ⟨encode_scalar e he d a b, fun hi => ?_⟩
  rw [exec_scalar e he]
  exact scalar2_wrote hi long true e.effect

theorem encode_bit : ∀ e ∈ bitTable, ∀ (d : F6) (a : Opnd),
    encode (e.instr d a) = w32 (packR e.fn (.s 0) a d 0x03) := by
  simp only [bitTable, List.forall_mem_cons]
  exact ⟨fun _ _ => rfl, fun _ _ => rfl, fun _ _ => rfl, fun _ _ => rfl, fun _ _ => rfl, fun _ _ => rfl, by simp⟩

/-- A row of the bit instructions is `scalar1` of an operation whose results have the row's properties. -/
theorem exec_bit : ∀ e ∈ bitTable, ∃ f,
    (∀ (d : F6) (a : Opnd) (s : State), exec (e.instr d a) s = scalar1 long true f d.toNat a s) ∧
    ∀ v, e.effect v (f v) := by
  simp only [bitTable, List.forall_mem_cons]
  exact ⟨⟨opClz, fun _ _ _ => rfl, fun v => ⟨_, rfl, leadingZeros_spec v⟩⟩,
    ⟨opCtz, fun _ _ _ => rfl, fun v => ⟨_, rfl, trailingZeros_spec v⟩⟩,
    ⟨opPopc, fun _ _ _ => rfl, fun v => congrArg word (popCount_eq v)⟩,
    ⟨reverseBits, fun _ _ _ => rfl, fun v _ => getLsbD_reverseBits v⟩,
    ⟨swapBytes, fun _ _ _ => rfl, fun v _ => extract_swapBytes v⟩,
    ⟨opMov, fun _ _ _ => rfl, fun _ => rfl⟩, by simp⟩

/-- Settles O2: each row is `scalar1` of an operation with the row's properties. -/
theorem scalarBitResults : Obligations.ScalarBitResults := by
  intro e he d a s
  refine ⟨encode_bit e he d a, fun hi => ?_⟩
  obtain ⟨f, hx, hf⟩ := exec_bit e he
  obtain ⟨t, ht, hw⟩ := scalar1_wrote hi long true f
  exact ⟨t, f (opndVal s true a), by rw [hx, ht], hf _, hw⟩

end Sys2Proof.Machine
end

section
/-! SUPPORT. SEL, control transfer, TS, WHO and MOVY (R97 to R102, R104, R105, R107, R187): what a taken transfer leaves,
where a branch goes, and the digits of a core's number in the extents of its crew's levels. -/

namespace Sys2Proof.Machine

/-- Settles O6: SEL's end writes the chosen value; the condition is a read of the state before it. -/
theorem selectByOwnDestination : Obligations.SelectByOwnDestination := by
  intro d a b s hw hi
  have hd : d.toNat ≠ 0 := fun h => by
    rw [show d = 0#6 from BitVec.eq_of_toNat_eq h] at hw
    exact absurd hw (by simp [wellFormed])
  have hc : valS s d = getD 0#64 (me s).s d.toNat := if_neg hd
  rw [show exec (.sel d a b) s = execSel d a b s from rfl, execSel, issue_ready hi, hc]
  exact finish_wrote _ _ _ _

/-! ### Taken transfers (R98, R378) -/

theorem AllKept.trans {s t u : State} (h : AllKept s t) (k : AllKept t u) (hc : t.cur = s.cur) : AllKept s u := by
  obtain ⟨hrow, hpkg, hmelt, hrfz, hyard, htask, htick⟩ := h.rest
  obtain ⟨krow, kpkg, kmelt, krfz, kyard, ktask, ktick⟩ := k.rest
  exact ⟨fun lc c ho => (k.others lc c (hc ▸ ho)).trans (h.others lc c ho),
    fun lc va => (k.memory lc va).trans (h.memory lc va),
    ⟨fun lc n => (k.cores.1 lc n).trans (h.cores.1 lc n), fun lc i => (k.cores.2 lc i).trans (h.cores.2 lc i)⟩,
    fun p => (k.units p).trans (h.units p),
    ⟨krow.trans hrow, fun n => (kpkg n).trans (hpkg n), kmelt.trans hmelt, krfz.trans hrfz, kyard.trans hyard,
      ktask.trans htask, ktick.trans htick⟩⟩

/-- A result is written to the scalar registers alone. -/
theorem withResult_gap (x : Ctx) (g : Nat) (d : Option Nat) (w : Word) :
    withResult { x with gap := g } d w = { withResult x d w with gap := g } := by
  cases d with
  | none => rfl
  | some k =>
    unfold withResult setSreg
    dsimp only
    split
    · split <;> rfl
    · rfl

theorem jumpTo_transferred (n : Names) (s : State) (w pc : Word) :
    ∃ t, jumpTo n s w pc = .next t ∧ Transferred n s t true w pc := by
  have h := modMe_own s (fun x => { x with gap := 1 })
  obtain ⟨t, ht, hc, hk⟩ := finishTo_wrote n (modMe s (fun x => { x with gap := 1 })) w pc
  refine ⟨t, ht, ⟨hc.cur.trans h.cur, ?_, ?_, fun lc p => ?_⟩, (h.quiet.kept h.others).trans hk h.cur⟩
  · rw [hc.context, h.me, withResult_gap]; rfl
  · have hs : sends (modMe s (fun x => { x with gap := 1 })) n.dst w = sends s n.dst w := by
      unfold sends
      rw [h.cur, h.me]
    rw [hc.words, h.words, hs]
  · have hq : ∀ l, queueOf (coreOf (modMe s (fun x => { x with gap := 1 })) l) p = queueOf (coreOf s l) p := fun l => by
      rw [queueOf, h.queues l, ← queueOf]
    rw [hc.queues lc p, h.cur, hq]

/-- A transfer that is not taken writes its result and goes on. -/
theorem Wrote.transferred {n : Names} {s t : State} {w pc : Word} (h : Wrote n s t w pc) :
    Transferred n s t false w pc := by
  obtain ⟨hc, hk⟩ := h
  refine ⟨⟨hc.cur, ?_, hc.words, hc.queues⟩, hk⟩
  rw [hc.context]
  exact congrArg (fun y => stepEnd (pastInsn y pc)) (withResult_gap (me s) (me s).gap n.dst w)

/-- A transfer on a condition: taken, it goes to its target; else it ends as any instruction does. -/
theorem ite_transferred (n : Names) (len : Nat) (s : State) (c : Bool) (w pc : Word) :
    ∃ t, (if c then jumpTo n s w pc else finish n len s w) = .next t ∧
      Transferred n s t c w (if c then pc else (me s).pc + word len) := by
  cases c with
  | true => exact jumpTo_transferred n s w pc
  | false =>
    obtain ⟨t, ht, hw⟩ := finish_wrote n len s w
    exact ⟨t, ht, hw.transferred⟩

/-! ### Branches (R99, R104) -/

theorem target_eq_branchTo {w : Nat} (s : State) (off : BitVec w) : target s off = branchTo s off := by
  rw [branchTo, BitVec.ofInt_add, BitVec.ofInt_mul, BitVec.mul_comm, target]
  simp [sext, BitVec.signExtend]

theorem branch_transferred {w : Nat} {r : Opnd} {s : State} (h : Issues ⟨[r], none, [], []⟩ s) (len : Nat)
    (taken : Word → Bool) (off : BitVec w) :
    ∃ t, branch len taken r off s = .next t ∧
      Transferred ⟨[r], none, [], []⟩ s t (taken (opndVal s false r)) 0#64
        (if taken (opndVal s false r) then branchTo s off else (me s).pc + word len) := by
  rw [branch, issue_ready h, ← target_eq_branchTo]
  exact ite_transferred _ _ _ _ _ _

/-- A row of the branches is `branch` on a scalar register that is no port, taken when the row says. -/
theorem exec_branch : ∀ e ∈ branchTable, ∀ (r : F6) (off : BitVec 16), wellFormed (e.instr r off) = true →
    r.toNat < 56 ∧ ∀ s, exec (e.instr r off) s = branch long e.taken (.s r) off s := by
  have hz : isZero = fun v => v == 0 := rfl
  have hn : nonZero = fun v => v != 0 := funext fun _ => decide_not
  simp only [branchTable, List.forall_mem_cons, ← hz, ← hn]
  repeat refine ⟨fun r off h => ⟨of_decide_eq_true h, fun _ => rfl⟩, ?_⟩
  simp

/-- Settles O10: each branch is a transfer on its condition. -/
theorem branchesGoWhereTheySay : Obligations.BranchesGoWhereTheySay := by
  refine ⟨fun off s => ?_, fun l s => ?_, fun e he r off s hw hi => ?_, fun r l s hi => ⟨?_, ?_⟩⟩
  · rw [show exec (.b off) s = execB off s from rfl, execB, target_eq_branchTo]
    exact jumpTo_transferred _ _ _ _
  · rw [show exec (.bCompact l) s = execBCompact l s from rfl, execBCompact, target_eq_branchTo]
    exact jumpTo_transferred _ _ _ _
  · obtain ⟨hr, hx⟩ := exec_branch e he r off hw
    rw [hx, ← opndVal_reg s false hr]
    exact branch_transferred hi long e.taken off
  · have h := branch_transferred hi short isZero l
    simp only [opndVal_c3, isZero, decide_eq_true_eq] at h
    exact h
  · have h := branch_transferred hi short nonZero l
    simp only [opndVal_c3, nonZero, decide_eq_true_eq] at h
    exact h

/-! ### CALL, LOOP, JR and CALLR (R100 to R102) -/

theorem countLoop_transferred {w r : Nat} {s : State} (h : Issues ⟨[], some r, [r], []⟩ s) (len : Nat)
    (off : BitVec w) : ∃ t, countLoop len r off s = .next t ∧
      Transferred ⟨[], some r, [r], []⟩ s t (decide (sreg (me s) r ≠ 1)) (sreg (me s) r - 1)
        (if sreg (me s) r - 1 ≠ 0 then branchTo s off else (me s).pc + word len) := by
  have hc : sreg (me s) r ≠ 1 ↔ sreg (me s) r - 1 ≠ 0 := not_congr sub_eq_zero.symm
  have ht := ite_transferred ⟨[], some r, [r], []⟩ len s (decide (sreg (me s) r ≠ 1)) (sreg (me s) r - 1) (target s off)
  simp only [decide_eq_true_eq, hc, target_eq_branchTo] at ht ⊢
  rw [countLoop, issue_ready h, target_eq_branchTo]
  exact ht

/-- A jump to an even target (R28). -/
theorem jr_even {a : Opnd} {s : State} (hb : bit (opndVal s false a) 0 = false) (hi : Issues ⟨[a], none, [], []⟩ s) :
    exec (.jr a) s = jumpTo ⟨[a], none, [], []⟩ s 0#64 (opndVal s false a) := by
  rw [show exec (.jr a) s = execJr a s from rfl, execJr, issue_ready hi]
  simp [hb]

theorem callr_even {d : F6} {a : Opnd} {s : State} (hb : bit (opndVal s false a) 0 = false)
    (hi : Issues ⟨[a], some d.toNat, [], []⟩ s) :
    exec (.callr d a) s = jumpTo ⟨[a], some d.toNat, [], []⟩ s (pcAfter s long) (opndVal s false a) := by
  rw [show exec (.callr d a) s = execCallr d a s from rfl, execCallr, issue_ready hi]
  simp [hb]

/-- Settles O11: each is a transfer with a link or a count as its result. -/
theorem callsLoopsAndJumps : Obligations.CallsLoopsAndJumps := by
  refine ⟨fun r off s hi => ?_, fun r off s hi => countLoop_transferred hi long off,
    fun r l s hi => countLoop_transferred hi short l, fun a s hb hi => ?_, fun d a s hb hi => ?_⟩
  · rw [show exec (.call r off) s = execCall r off s from rfl, execCall, issue_ready hi, ← target_eq_branchTo]
    exact jumpTo_transferred _ _ _ _
  · rw [jr_even hb hi]; exact jumpTo_transferred _ _ _ _
  · rw [callr_even hb hi]; exact jumpTo_transferred _ _ _ _

/-! ### The items of a context's identity (R107, R279) -/

theorem foldl_extents (ls : List Level) (k : Nat) :
    ls.foldl (fun n l => n * l.extent) k = k * ls.foldl (fun n l => n * l.extent) 1 := by
  induction ls generalizing k with
  | nil => simp
  | cons l ls ih => rw [List.foldl_cons, ih, List.foldl_cons, ih (1 * l.extent), Nat.one_mul, Nat.mul_assoc]

/-- A level of domain CTX divides no cores. -/
theorem crewSize_cons (l : Level) (ls : List Level) :
    crewSize (l :: ls) = if l.domain = 5 then crewSize ls else l.extent * crewSize ls := by
  unfold crewSize isCtxLevel
  split
  · next h => simp [h]
  · next h => simp [h, foldl_extents _ l.extent]

theorem crewSize_drop {ls : List Level} {i : Nat} {l : Level} (h : ls[i]? = some l) :
    crewSize (ls.drop i) =
      if l.domain = 5 then crewSize (ls.drop (i + 1)) else l.extent * crewSize (ls.drop (i + 1)) := by
  obtain ⟨hi, rfl⟩ := List.getElem?_eq_some_iff.mp h
  rw [List.drop_eq_getElem_cons hi, crewSize_cons]

theorem unitIndex_eq {ls : List Level} {i : Nat} {l : Level} (h : ls[i]? = some l) (n : Nat) :
    unitIndex ls n i = n / crewSize (ls.drop (i + 1)) % l.extent := by
  rw [unitIndex, h]
  rfl

/-- One more digit of a number: its quotient by a level's cores, from the quotient by the cores of the level above. -/
theorem div_mul_add_digit (n e p : Nat) : n / (e * p) * e + n / p % e = n / p := by
  rw [Nat.mul_comm e p, ← Nat.div_div_eq_div_mul, Nat.div_add_mod']

/-- A fold over 0 to k - 1 whose every step goes from p i to p (i + 1). -/
theorem foldl_range_steps {α : Type} {f : α → Nat → α} {p : Nat → α} {k : Nat}
    (h : ∀ i, i < k → f (p i) i = p (i + 1)) :
    (List.range k).foldl f (p 0) = p k := by
  induction k with
  | zero => rfl
  | succ k ih =>
    rw [List.range_succ, List.foldl_append, ih fun i hi => h i (Nat.lt_succ_of_lt hi)]
    exact h k (Nat.lt_succ_self k)

theorem levelsOf_task {s : State} {n : Nat} {t : Task} (h : taskOf s n = some t) : levelsOf s n = t.levels := by
  rw [levelsOf, h]

/-- Selectors from 8 on name a level (R107). -/
theorem whoItem_past_priority (s : State) (k : Nat) : whoItem s (k + 8) =
    if k + 8 < 16 then (levelsOf s (taskNum s.cur.1))[k + 8 - 8]?.elim 0 (fun l =>
      if l.domain = 5 then s.cur.2 else unitIndex (levelsOf s (taskNum s.cur.1)) (lcnOf s.cur.1) (k + 8 - 8))
    else (levelsOf s (taskNum s.cur.1))[k + 8 - 16]?.elim 0 Level.extent := by
  simp only [whoItem, isCtxLevel, beq_iff_eq]
  split
  · cases (levelsOf s (taskNum s.cur.1))[k + 8 - 8]? <;> rfl
  · cases (levelsOf s (taskNum s.cur.1))[k + 8 - 16]? <;> rfl

section items

variable {s : State} {t : Task} (h : taskOf s (taskNum s.cur.1) = some t)
include h

theorem whoItem_unit {i : Nat} (hi : i < 8) : whoItem s (8 + i) =
    t.levels[i]?.elim 0 (fun l => if l.domain = 5 then s.cur.2 else unitIndex t.levels (lcnOf s.cur.1) i) := by
  rw [Nat.add_comm, whoItem_past_priority, if_pos (by omega), Nat.add_sub_cancel, levelsOf_task h]

theorem whoItem_extent {i : Nat} (hi : i < 8) : whoItem s (16 + i) = t.levels[i]?.elim 0 Level.extent := by
  rw [show 16 + i = i + 8 + 8 by omega, whoItem_past_priority, if_neg (by omega), levelsOf_task h,
    show i + 8 + 8 - 16 = i by omega]

/-- The digit that stands at a level whose units are no contexts. -/
theorem whoItem_digit {i : Nat} {l : Level} (hi : i < 8) (hl : t.levels[i]? = some l) (hd : l.domain ≠ 5) :
    whoItem s (8 + i) = lcnOf s.cur.1 / crewSize (t.levels.drop (i + 1)) % l.extent := by
  rw [whoItem_unit h hi, hl, ← unitIndex_eq hl]
  exact if_neg hd

/-- The digits of the levels, from the outermost in, make up the core's number (R279). -/
theorem digits_make_number (h8 : t.levels.length ≤ 8) (hn : lcnOf s.cur.1 < crewSize t.levels) :
    (List.range t.levels.length).foldl (fun n i => match t.levels[i]? with
      | some l => if l.domain = 5 then n else n * l.extent + whoItem s (8 + i)
      | none => n) 0 = lcnOf s.cur.1 := by
  have h0 : lcnOf s.cur.1 / crewSize (t.levels.drop 0) = 0 := Nat.div_eq_of_lt hn
  have hk : lcnOf s.cur.1 / crewSize (t.levels.drop t.levels.length) = lcnOf s.cur.1 := by
    rw [List.drop_length]; exact Nat.div_one _
  conv_rhs => rw [← hk]
  rw [← h0]
  refine foldl_range_steps (p := fun i => lcnOf s.cur.1 / crewSize (t.levels.drop i)) fun i hi => ?_
  have hl : t.levels[i]? = some t.levels[i] := List.getElem?_eq_getElem hi
  have hd := whoItem_digit h (Nat.lt_of_lt_of_le hi h8) hl
  simp only [hl, crewSize_drop hl]
  split
  · rfl
  · next hne => rw [hd hne, div_mul_add_digit]

end items

/-- The reply register is read once no reply to it is outstanding (R187). -/
theorem movy_settled {d y : F6} {s : State} (hy : y.toNat ∉ (me s).ypend) (hi : Issues ⟨[], some d.toNat, [], []⟩ s) :
    exec (.movy d y) s = finish ⟨[], some d.toNat, [], []⟩ long s (yreg (me s) y.toNat) := by
  rw [show exec (.movy d y) s = execMovy d y s from rfl, execMovy, issue_ready hi]
  simp [hy]

theorem movy_outstanding {d y : F6} {s : State} (hy : y.toNat ∈ (me s).ypend)
    (hi : Issues ⟨[], some d.toNat, [], []⟩ s) :
    exec (.movy d y) s = waitReply s y.toNat := by
  rw [show exec (.movy d y) s = execMovy d y s from rfl, execMovy, issue_ready hi]
  simp [hy]

/-- Settles O9: TS and WHO are `scalar0`, MOVY is `finish` or a wait for its reply; a core's unit indices are its
number's digits, most significant first. -/
theorem timestampIdentityReply : Obligations.TimestampIdentityReply := by
  refine ⟨fun d s hi => scalar0_wrote hi (fun t => word t.ticks),
    fun d item s hi => scalar0_wrote hi (fun t => word (whoItem t item.toNat)), fun s t h => ?_, fun d y s hy hi => ?_,
    fun d y s hy hi => ?_⟩
  · have hls := levelsOf_task h
    have hcrew : whoItem s 2 = crewSize t.levels := by rw [← hls]; rfl
    have hwidth : whoItem s 5 = min (crewSize t.levels) 16 := by rw [← hls]; rfl
    have hprio : whoItem s 7 = t.prio := by simp [whoItem, h]
    refine ⟨rfl, rfl, hcrew, hwidth, rfl, Nat.div_add_mod' _ _, by rw [← hls]; rfl, hprio, fun i hi => ?_,
      fun i l hi hl hd => ?_, fun i hi h8 => ?_, fun h8 hpos hn => ⟨fun i l hl hd => ?_, digits_make_number h h8 hn⟩⟩
    · rw [whoItem_extent h hi]
      cases t.levels[i]? <;> rfl
    · rw [whoItem_unit h hi, hl]
      exact if_pos hd
    · rw [whoItem_unit h h8, List.getElem?_eq_none hi]
      rfl
    · obtain ⟨hi, rfl⟩ := List.getElem?_eq_some_iff.mp hl
      rw [whoItem_digit h (Nat.lt_of_lt_of_le hi h8) hl hd]
      exact Nat.mod_lt _ (hpos _ (List.getElem_mem hi))
  · rw [movy_settled hy hi]
    exact finish_wrote _ _ _ _
  · rw [movy_outstanding hy hi]
    exact waitReply_heldBack s y.toNat

end Sys2Proof.Machine
end

section
/-! SUPPORT. A read of an empty port, and the change of an allotment (R114 to R116, R120 to R122). -/

namespace Sys2Proof.Machine

/-! ### Reading a port that holds no word (R120, R121) -/

/-- One empty port among those read makes the context join the readers of all of them. -/
theorem issue_port_empty {n : Names} {s : State} {p : Nat} (hh : allHeld (me s) n = true)
    (hp : anyPending (me s) n = false) (hm : p ∈ portsOf n.srcs) (he : portWord (myCore s) s.cur.2 p = none)
    (k : State → Res) :
    issue n s k = .next (modMe (modCore s s.cur.1 (fun c => joinReaders s.cur.2 c (portsOf n.srcs)))
      (fun y => { y with wait := 1 })) := by
  have ha : (portsOf n.srcs).all (fun p => (portWord (myCore s) s.cur.2 p).isSome) = false :=
    List.all_eq_false.mpr ⟨p, hm, by simp [he]⟩
  unfold issue
  simp [hh, hp, ha]

/-- Readers that join at the ports of a core change nothing that a context can see. -/
theorem joinReaders_own (s : State) (ps : List Nat) :
    OwnChange s (modCore s s.cur.1 (fun c => joinReaders s.cur.2 c ps)) (me s) := by
  have hctx : ∀ lc c, ctxOf (modCore s s.cur.1 (fun c => joinReaders s.cur.2 c ps)) lc c = ctxOf s lc c := fun lc c => by
    rw [ctxOf, coreOf_modCore]
    split
    · subst_vars; rfl
    · rfl
  refine ⟨quiet_modCore _ _ _ fun _ => rfl, hctx _ _, fun lc c _ => hctx lc c, rfl, fun lc => ?_⟩
  rw [coreOf_modCore]
  split
  · subst_vars; rfl
  · rfl

theorem joinReaders_awaits (s : State) (ps : List Nat) :
    AwaitsPorts s (modMe (modCore s s.cur.1 (fun c => joinReaders s.cur.2 c ps)) (fun y => { y with wait := 1 })) ps := by
  have hj := joinReaders_own s ps
  have h := hj.trans (modMe_own _ (fun y => { y with wait := 1 }))
  rw [hj.me] at h
  refine ⟨h.cur, h.me, ?_, fun lc hlc => ?_, h.queues, rfl, h.quiet.kept h.others⟩
  · rw [myCore, h.cur, modMe_waiters, coreOf_modCore_same]
    refine congrArg (fun l => (myCore s).waiters ++ l.map (fun q => (q, s.cur.2))) (List.filter_congr fun q _ => ?_)
    by_cases hq : (q, s.cur.2) ∈ (coreOf s s.cur.1).waiters <;> simp [myCore, hq]
  · rw [modMe_waiters, coreOf_modCore, if_neg hlc]

/-- A wait at one port: its context joins the readers once, at their end. -/
theorem AwaitsPorts.single {s t : State} {p : Nat} (h : AwaitsPorts s t [p]) :
    ((p, s.cur.2) ∉ (myCore s).waiters → (myCore t).waiters = (myCore s).waiters ++ [(p, s.cur.2)]) ∧
    ((p, s.cur.2) ∈ (myCore s).waiters → (myCore t).waiters = (myCore s).waiters) := by
  rw [h.waiters]
  exact ⟨fun hn => by simp [hn], fun hm => by simp [hm]⟩

theorem portsOf_single {f : F6} (h : 56 ≤ f.toNat) : portsOf [.s f] = [f.toNat - 56] := by
  simp [portsOf, scalarCodes, h]

/-! ### The turn of a reader (R121, R122) -/

/-- Is some queue empty at which context c waits? -/
theorem lacksWord_eq_false (k : LCore) (c : Nat) :
    lacksWord k c = false ↔ ∀ r ∈ k.waiters, r.2 = c → queueOf k r.1 ≠ [] := by
  simp [lacksWord, List.any_eq_false]

/-- The readers before a context's own place are those it looks at. -/
theorem readerAhead_eq_true {k : LCore} {c p : Nat} {ahead behind : List (Nat × Nat)}
    (hk : k.waiters = ahead ++ (p, c) :: behind) (hn : (p, c) ∉ ahead) :
    readerAhead k p c = true ↔ ∃ w ∈ ahead, w.1 = p ∧ ∀ r ∈ k.waiters, r.2 = w.2 → queueOf k r.1 ≠ [] := by
  have hw : ∀ w ∈ ahead.filter (fun w => w.1 == p), (w.2 != c) = true := fun w hw => by
    obtain ⟨hm, hp⟩ := List.mem_filter.mp hw
    rw [bne_iff_ne]
    rintro rfl
    exact hn (by rwa [← eq_of_beq hp])
  have ht : (k.waiters.filter (fun w => w.1 == p)).takeWhile (fun w => w.2 != c) = ahead.filter (fun w => w.1 == p) := by
    rw [hk, List.filter_append, List.takeWhile_append_of_pos hw]
    simp
  simp only [readerAhead, ht, List.any_eq_true, List.mem_filter, beq_iff_eq, Bool.not_eq_true', lacksWord_eq_false,
    and_assoc]

/-- Settles O14: `issue` makes the readers join, whatever its instruction would do; a reader's turn has come when none of
those before its place may read. -/
theorem emptyPortWaits : Obligations.EmptyPortWaits := by
  refine ⟨fun e he d a b s p hm hn hh hp => ?_, fun e he d f s hf hn hh hp => ?_, fun k c p ahead behind hk ha => ?_⟩
  · obtain ⟨f, hx⟩ := exec_scalarTable e he
    rw [hx, scalar2, issue_port_empty hh hp hm hn]
    exact ⟨_, rfl, joinReaders_awaits s _⟩
  · obtain ⟨g, hx⟩ := exec_bitTable e he
    have hm : f.toNat - 56 ∈ portsOf [.s f] := by simp [portsOf_single hf]
    have hw := joinReaders_awaits s (portsOf [.s f])
    rw [hx, scalar1, issue_port_empty hh hp hm hn]
    rw [portsOf_single hf] at hw ⊢
    exact ⟨_, rfl, hw, hw.single⟩
  · rw [portWord]
    exact if_congr (readerAhead_eq_true hk ha) rfl rfl

/-! ### Allotments (R109, R114 to R116) -/

/-- A filter on keys reads as the map where the key passes. -/
theorem getD_filter_key {α : Type} (d : α) (p : Nat → Bool) (m : Sparse α) (a : Nat) :
    getD d (m.filter (fun e => p e.1)) a = if p a then getD d m a else d := by
  have hl : look (m.filter (fun e => p e.1)) a = if p a then look m a else none := by
    induction m with
    | nil => simp [look]
    | cons e m ih =>
      obtain ⟨k, v⟩ := e
      by_cases hk : k = a
      · subst hk
        cases hp : p k with
        | true => simp [hp, look]
        | false => simpa [hp] using ih
      · cases hp : p k with
        | true => simp [hp, look, hk, ih]
        | false => simp [hp, look, hk, ih]
  rw [getD, hl]
  split <;> rfl

theorem bits_mkAllot {vb sb : Nat} (hs : sb < 16) (hv : vb < 16) :
    bits (mkAllot vb sb) 3 0 = sb ∧ bits (mkAllot vb sb) 7 4 = vb := by
  simp only [bits, mkAllot, word, BitVec.toNat_ofNat]
  omega

/-- The registers of a context under a new allotment. -/
theorem sreg_setAllot (x : Ctx) (vb sb n : Nat) :
    sreg (setAllot x vb sb) n = if n < 8 * (min sb (allotSB x) + 1) then sreg x n else 0#64 := by
  have h := getD_filter_key 0#64 (fun k => decide (k < 8 * (min sb (allotSB x) + 1))) x.s n
  simp only [decide_eq_true_eq] at h
  simp only [sreg, setAllot, h]
  split <;> simp

theorem vreg_setAllot (x : Ctx) (vb sb n : Nat) :
    vreg (setAllot x vb sb) n = if n < 4 * min vb (allotVB x) then vreg x n else 0 := by
  have h := getD_filter_key (0 : Vec) (fun k => decide (k < 4 * min vb (allotVB x))) x.v n
  simp only [decide_eq_true_eq] at h
  exact h

theorem vtagOf_setAllot (x : Ctx) (vb sb n : Nat) :
    vtagOf (setAllot x vb sb) n = if n < 4 * min vb (allotVB x) then vtagOf x n else .raw := by
  have h := getD_filter_key Tag.raw (fun k => decide (k < 4 * min vb (allotVB x))) x.vtag n
  simp only [decide_eq_true_eq] at h
  exact h

/-! ### GROW and SHRINK -/

theorem outside_eq_false {d sb : Nat} (h : d < 8 * (sb + 1) ∨ 56 ≤ d) : outside d sb = false := by
  simp only [outside, Bool.and_eq_false_iff, decide_eq_false_iff_not]
  omega

theorem outside_eq_true {d sb : Nat} (h : 8 * (sb + 1) ≤ d) (hd : d < 56) : outside d sb = true := by
  simp [outside, h, hd]

theorem exec_grow (d : F6) (a b : Opnd) (s : State) : exec (.grow d a b) s = execGrow d a b s := rfl
theorem exec_shrink (d : F6) (a b : Opnd) (s : State) : exec (.shrink d a b) s = execShrink d a b s := rfl

section grow
variable {d : F6} {a b : Opnd} {s : State} (hi : Issues ⟨[a, b], none, [], []⟩ s)
include hi

theorem execGrow_grants (hd : outside d.toNat (growGrant s (valA s a b) (valB s b)).1 = false)
    (hp : d.toNat ∉ (me s).spend) (hr : (sendsPort (some d.toNat) && routerBusy s s.cur.1 s.cur.2) = false) :
    execGrow d a b s = finishAllot d a b (growGrant s (valA s a b) (valB s b)) s := by
  rw [execGrow, issue_ready hi]
  simp [hd, hp, hr]

theorem execGrow_traps (hd : outside d.toNat (growGrant s (valA s a b) (valB s b)).1 = true) :
    execGrow d a b s = trap s causeIllegalReg := by
  rw [execGrow, issue_ready hi]
  exact if_pos hd

end grow

section shrink
variable {d : F6} {a b : Opnd} {s : State} (hi : Issues ⟨[a, b], some d.toNat, [], []⟩ s)
include hi

theorem execShrink_releases (hd : outside d.toNat (shrinkGrant s (valA s a b) (valB s b)).1 = false)
    (hp : releasedPending (me s) (shrinkGrant s (valA s a b) (valB s b)) = false) :
    execShrink d a b s = finishAllot d a b (shrinkGrant s (valA s a b) (valB s b)) s := by
  rw [execShrink, issue_ready hi]
  simp [hd, hp]

theorem execShrink_waits (hd : outside d.toNat (shrinkGrant s (valA s a b) (valB s b)).1 = false)
    (hp : releasedPending (me s) (shrinkGrant s (valA s a b) (valB s b)) = true) :
    execShrink d a b s =
      waitBegun s (sourceWait s (releasedNames (me s) (shrinkGrant s (valA s a b) (valB s b)))) := by
  rw [execShrink, issue_ready hi]
  simp [hd, hp]

theorem execShrink_traps (hd : outside d.toNat (shrinkGrant s (valA s a b) (valB s b)).1 = true) :
    execShrink d a b s = trap s causeIllegalReg := by
  rw [execShrink, issue_ready hi]
  exact if_pos hd

end shrink

theorem finishAllot_wrote (d : F6) (a b : Opnd) (g : Nat × Nat) (s : State) :
    ∃ t, finishAllot d a b g s = .next t ∧
      Wrote ⟨[a, b], some d.toNat, [], []⟩ (modMe s (fun x => setAllot x g.2 g.1)) t (mkAllot g.2 g.1)
        ((me s).pc + 4) := by
  have h := finish_wrote ⟨[a, b], some d.toNat, [], []⟩ long (modMe s (fun x => setAllot x g.2 g.1)) (mkAllot g.2 g.1)
  rw [me_modMe] at h
  exact h

theorem releasedPending_eq_false {x : Ctx} {g : Nat × Nat} :
    releasedPending x g = false ↔ (∀ r ∈ x.spend, r < 8 * (g.1 + 1)) ∧ (∀ r ∈ x.vpend, r < 4 * g.2) := by
  simp [releasedPending]

theorem releasedPending_eq_true {x : Ctx} {g : Nat × Nat} :
    releasedPending x g = true ↔ (∃ r ∈ x.spend, 8 * (g.1 + 1) ≤ r) ∨ (∃ r ∈ x.vpend, 4 * g.2 ≤ r) := by
  simp [releasedPending]

/-- Settles O15: both end in `finishAllot` of their grant; what the registers then read is what `setAllot` keeps. -/
theorem growAndShrink : Obligations.GrowAndShrink := by
  refine ⟨fun d a b s gs gv hs hv hi hd hp hr => ?_,
    fun d a b s gs gv hs hv hi hd => ⟨fun hsp hvp => ?_, fun hpend => ?_⟩, fun x gs gv n hs hv => ?_⟩
  · have hg : growGrant s (valA s a b) (valB s b) = (gs, gv) := by rw [hs, hv]; rfl
    rw [exec_grow, execGrow_grants hi (by rw [hg]; exact outside_eq_false hd) hp hr, hg]
    exact finishAllot_wrote d a b (gs, gv) s
  · have hg : shrinkGrant s (valA s a b) (valB s b) = (gs, gv) := by rw [hs, hv]; rfl
    rw [exec_shrink, execShrink_releases hi (by rw [hg]; exact outside_eq_false hd)
      (by rw [hg]; exact releasedPending_eq_false.mpr ⟨hsp, hvp⟩), hg]
    exact finishAllot_wrote d a b (gs, gv) s
  · have hg : shrinkGrant s (valA s a b) (valB s b) = (gs, gv) := by rw [hs, hv]; rfl
    rw [exec_shrink, execShrink_waits hi (by rw [hg]; exact outside_eq_false hd)
      (by rw [hg]; exact releasedPending_eq_true.mpr hpend), hg]
    exact waitBegun_waits s _
  · obtain ⟨hsb, hvb⟩ := bits_mkAllot hs hv
    simp only [sreg_setAllot, vreg_setAllot, vtagOf_setAllot]
    refine ⟨hsb, hvb, fun h1 h2 => if_pos (by omega), fun h => if_neg (by omega),
      fun h1 h2 => ⟨if_pos (by omega), if_pos (by omega)⟩, fun h => ⟨if_neg (by omega), if_neg (by omega)⟩⟩

/-- Settles O16: the destination is checked against the blocks of the grant, before anything is granted or released. -/
theorem grantTrapsOutside : Obligations.GrantTrapsOutside := by
  refine ⟨fun d a b s hd h56 hi => ?_, fun d a b s h56 h => ?_⟩
  · rw [exec_grow, execGrow_traps hi (outside_eq_true hd h56)]
    exact trap_trapped s (by decide)
  · obtain hu | ⟨hi, hd⟩ := h
    · rw [exec_shrink, execShrink, issue_unheld hu]
      exact trap_trapped s (by decide)
    · rw [exec_shrink, execShrink_traps hi (outside_eq_true hd h56)]
      exact trap_trapped s (by decide)

end Sys2Proof.Machine
end

section
/-! SUPPORT. START, YIELD, PORTSEL and WAITP (R111, R113, R118, R126, R127), with what an instruction's end leaves of a
physical core. -/

namespace Sys2Proof.Machine

/-! ### START (R118) -/

theorem exec_start (h : F6) (a target : Opnd) (s : State) : exec (.start h a target) s = execStart h a target s := rfl

/-- The target of START (R57): a literal's halfwords are counted from the instruction, any other operand is the address. -/
theorem startTarget_of {s : State} {o : Opnd} {pc : Word} (h : pc = (match o with
    | .lit _ => (me s).pc + valB s o * 2
    | _ => valB s o)) : startTarget s o = pc := by
  rw [h]
  cases o <;> rfl

section start
variable {h : F6} {a target : Opnd} {s : State} (h0 : s.cur.2 = 0) (hf : ¬(foldable s s.cur.1 = true ∧ 5 ≤ h.toNat))
  (hi : Issues ⟨[a, target], none, [], []⟩ s)
include h0 hf hi

/-- A head that may start this helper gets as far as its target. -/
theorem execStart_issues : execStart h a target s =
    (if bit (startTarget s target) 0 then trapAddr s causeMisaligned (startTarget s target).toNat
    else if (ctxOf s s.cur.1 h.toNat).live || !accessesDone (me s) || writesOut s s.cur.1 s.cur.2 then
      waitBegun s (repliesWait s 0)
    else finish ⟨[a, target], none, [], []⟩ long (setCtx s s.cur.1 h.toNat
      (startedCtx (seedOf s s.cur.1) (lcnOf s.cur.1) h.toNat (startTarget s target) (valA s a target))) 0#64) := by
  have hc : (decide (s.cur.2 ≠ 0) || (foldable s s.cur.1 && decide (5 ≤ h.toNat))) = false := by
    simpa [h0] using hf
  simp only [execStart, hc, Bool.and_false, Bool.false_eq_true, if_false]
  exact issue_ready hi _

theorem execStart_odd (hb : bit (startTarget s target) 0 = true) :
    execStart h a target s = trapAddr s causeMisaligned (startTarget s target).toNat := by
  rw [execStart_issues h0 hf hi, if_pos hb]

theorem execStart_live (hb : bit (startTarget s target) 0 = false) (hl : (ctxOf s s.cur.1 h.toNat).live = true) :
    execStart h a target s = waitBegun s (repliesWait s 0) := by
  simp [execStart_issues h0 hf hi, hb, hl]

theorem execStart_starts (hb : bit (startTarget s target) 0 = false) (hl : (ctxOf s s.cur.1 h.toNat).live = false)
    (hd : accessesDone (me s) = true) (hw : writesOut s s.cur.1 s.cur.2 = false) :
    execStart h a target s = finish ⟨[a, target], none, [], []⟩ long (setCtx s s.cur.1 h.toNat
      (startedCtx (seedOf s s.cur.1) (lcnOf s.cur.1) h.toNat (startTarget s target) (valA s a target))) 0#64 := by
  simp [execStart_issues h0 hf hi, hb, hl, hd, hw]

end start

theorem execStart_forbidden {h : F6} {a target : Opnd} {s : State}
    (hh : allHeld (me s) ⟨[a, target], none, [], []⟩ = true)
    (hc : s.cur.2 ≠ 0 ∨ (foldable s s.cur.1 = true ∧ 5 ≤ h.toNat)) :
    execStart h a target s = trap s causeIllegalInsn :=
  if_pos (by simpa [hh] using hc)

theorem execStart_unheld {h : F6} {a target : Opnd} {s : State}
    (hh : allHeld (me s) ⟨[a, target], none, [], []⟩ = false) : execStart h a target s = trap s causeIllegalReg := by
  simp only [execStart, hh, Bool.false_and, Bool.false_eq_true, if_false]
  exact issue_unheld hh _

/-- No helper is context 0. -/
theorem start_helper_ne_zero {h : F6} {a target : Opnd} (hw : wellFormed (.start h a target) = true) : h.toNat ≠ 0 := by
  have h0 : (0#6) < h := by
    simp only [wellFormed, Bool.and_eq_true, decide_eq_true_eq] at hw
    exact hw.1.1.1
  exact Nat.ne_of_gt h0

/-! ### What a started context reads as -/

@[simp] theorem sreg_startedCtx_one (seed : Word) (lcn c : Nat) (pc a : Word) : sreg (startedCtx seed lcn c pc a) 1 = a :=
  getD_setD_same _ _ _ _

theorem sreg_startedCtx_other (seed : Word) (lcn c : Nat) (pc a : Word) {n : Nat} (hn : n ≠ 1) :
    sreg (startedCtx seed lcn c pc a) n = 0#64 := by
  rw [sreg, startedCtx, getD_setD_other _ _ _ hn, getD_nil, ite_self]

@[simp] theorem ereg_startedCtx_zero (seed : Word) (lcn c : Nat) (pc a : Word) :
    ereg (startedCtx seed lcn c pc a) 0 = BitVec.allOnes 64 := by
  rw [ereg, startedCtx, getD_setD_same]

theorem ereg_startedCtx_other (seed : Word) (lcn c : Nat) (pc a : Word) {n : Nat} (hn : n ≠ 0) :
    ereg (startedCtx seed lcn c pc a) n = 0#64 := by
  rw [ereg, startedCtx, getD_setD_other _ _ _ hn, getD_nil]

/-- PSEL names the core itself (R118). -/
theorem psel_startedCtx (seed : Word) (lc c : Nat) (pc a : Word) :
    bits (startedCtx seed (lcnOf lc) c pc a).psel 15 0 = lcnOf lc := by
  have h : lcnOf lc < 2048 := Nat.mod_lt _ (by decide)
  simp only [startedCtx, bits, word, BitVec.toNat_ofNat]
  omega

theorem seedOf_task {s : State} {lc : Nat} {t : Task} (h : taskOf s (taskNum lc) = some t) : seedOf s lc = t.seed := by
  rw [seedOf, h]

/-- The context that a START gives helper h (R118). -/
def helperCtx (s : State) (h : F6) (pc a : Word) : Ctx :=
  startedCtx (seedOf s s.cur.1) (lcnOf s.cur.1) h.toNat pc a

/-- Settles O17: a START that may run is `finish` on top of the helper's new context; the rest are its checks in order. -/
theorem startOfHelper : Obligations.StartOfHelper := by
  refine ⟨fun h a target s pc h0 hf hw hi hpc => ⟨fun hb hl hld hyp hwr => ?_, fun hb => ?_, fun hb hl => ?_⟩,
    fun h a target s hh hc => ?_, fun h a target s hh => ?_⟩
  · have ht := startTarget_of hpc
    have hd : accessesDone (me s) = true := by simp [accessesDone, hld, hyp]
    have hm : ∀ x, me (setCtx s s.cur.1 h.toNat x) = me s := fun x => by
      rw [me, setCtx_cur, ctxOf_setCtx, if_neg (fun e => start_helper_ne_zero hw (by rw [← e.2, h0])), ← me]
    obtain ⟨t, hx, hc, hk⟩ := finish_wrote ⟨[a, target], none, [], []⟩ long
      (setCtx s s.cur.1 h.toNat (helperCtx s h pc (valA s a target))) 0#64
    rw [hm] at hc
    refine ⟨t, helperCtx s h pc (valA s a target), ?_, ⟨⟨hc.cur, hc.context, hc.words, hc.queues⟩, hk⟩, rfl, rfl, rfl,
      sreg_startedCtx_one _ _ _ _ _, fun n => sreg_startedCtx_other _ _ _ _ _, rfl, rfl, rfl, ereg_startedCtx_zero _ _ _ _ _,
      fun n => ereg_startedCtx_other _ _ _ _ _, rfl, psel_startedCtx _ _ _ _ _, rfl, fun n => rfl,
      fun task seed htask hseed => ?_⟩
    · rw [exec_start, execStart_starts h0 hf hi (by rw [ht]; exact hb) hl hd hwr, ht]
      exact hx
    · rw [hseed, ← seedOf_task htask]
      rfl
  · have ht := startTarget_of hpc
    rw [exec_start, execStart_odd h0 hf hi (by rw [ht]; exact hb), ht]
    exact trapAddr_trapped s pc (by decide)
  · rw [exec_start, execStart_live h0 hf hi (by rw [startTarget_of hpc]; exact hb) hl]
    exact waitBegun_waits s _
  · rw [exec_start, execStart_forbidden hh hc]
    exact trap_trapped s (by decide)
  · rw [exec_start, execStart_unheld hh]
    exact trap_trapped s (by decide)

/-! ### What the end of an instruction leaves of a physical core -/

/-- A physical core without its counters. -/
def uncounted (q : PCore) : PCore := { q with cnt := [], covf := 0#64 }

/-- Every physical core is the same but for its counters. -/
def SamePhys (s t : State) : Prop := ∀ q, uncounted (physOf t q) = uncounted (physOf s q)

theorem SamePhys.refl (s : State) : SamePhys s s := fun _ => rfl

theorem SamePhys.trans {s t u : State} (h : SamePhys s t) (k : SamePhys t u) : SamePhys s u :=
  fun q => (k q).trans (h q)

theorem SamePhys.of_phys {s t : State} (h : t.phys = s.phys) : SamePhys s t := fun q => by rw [physOf, h, ← physOf]

/-- Any part of a physical core that is no counter is the same. -/
theorem SamePhys.part {α : Type} {s t : State} (h : SamePhys s t) (f : PCore → α) (hf : ∀ q, f q = f (uncounted q))
    (q : Nat) : f (physOf t q) = f (physOf s q) := by rw [hf, h q, ← hf]

theorem setPhys_samePhys (s : State) (p : Nat) (x : PCore) (h : uncounted x = uncounted (physOf s p)) :
    SamePhys s (setPhys s p x) := fun q => by
  rw [physOf_setPhys]
  split
  · next hq => rw [hq, h]
  · rfl

theorem modPhys_samePhys (s : State) (p : Nat) (f : PCore → PCore) (h : ∀ q, uncounted (f q) = uncounted q) :
    SamePhys s (modPhys s p f) := setPhys_samePhys _ _ _ (h _)

theorem countAdd_samePhys (s : State) (p n x : Nat) (sel : Word) : SamePhys s (countAdd s p n x sel) := by
  unfold countAdd
  dsimp only
  have h1 : SamePhys s (setPhys s p { physOf s p with
      cnt := setD 0#64 (physOf s p).cnt n (word (((getD 0#64 (physOf s p).cnt n).toNat + x) % 2 ^ 48)) }) :=
    setPhys_samePhys s p _ rfl
  split
  · exact h1
  · have h2 := h1.trans (modPhys_samePhys _ p (fun q => { q with covf := q.covf ||| (1#64 <<< n) }) fun _ => rfl)
    split
    · split
      · exact h2.trans (.of_phys rfl)
      · exact h2
    · exact h2.trans (.of_phys rfl)
    · exact h2

theorem countOne_samePhys (s : State) (p code x n : Nat) : SamePhys s (countOne s p code x n) := by
  unfold countOne
  dsimp only
  split
  · exact .refl s
  · split
    · exact .refl s
    · split
      · exact countAdd_samePhys _ _ _ _ _
      · exact setPhys_samePhys _ _ _ rfl
      · exact setPhys_samePhys _ _ _ rfl
      · split
        · exact countAdd_samePhys _ _ _ _ _
        · exact (show SamePhys s (takeFree s).2 from .of_phys rfl).trans (setPhys_samePhys _ _ _ rfl)

theorem countAt_samePhys (s : State) (lc code x : Nat) : SamePhys s (countAt s lc code x) := by
  have h : ∀ (p : Nat) (l : List Nat) (t : State), SamePhys t (l.foldl (fun t n => countOne t p code x n) t) :=
    fun p l => by
      induction l with
      | nil => exact .refl
      | cons a l ih => exact fun t => (countOne_samePhys t p code x a).trans (ih _)
  unfold countAt
  split
  · unfold countEvent
    split
    · exact h _ _ _
    · exact .refl s
  · exact .refl s

theorem countIssue_samePhys (s : State) (code : Nat) : SamePhys s (countIssue s code) := by
  unfold countIssue
  split
  · exact .refl s
  · exact countAt_samePhys _ _ _ _

theorem freeze_phys (s : State) (lc c cause sub : Nat) (d : Bool) (a : Word) (l : List Word) :
    (freeze s lc c cause sub d a l).phys = s.phys := by
  have h : ∀ (u : State) (g : Nat), (tripGroup u lc c g).phys = u.phys := fun u g => by
    unfold tripGroup
    dsimp only
    split
    · rfl
    · split <;> rfl
  unfold freeze
  dsimp only
  split
  · rw [h]; rfl
  · rfl

theorem advance_samePhys (s : State) (pc : Word) : SamePhys s (advance s pc) := by
  have h : SamePhys s (counted s pc) := (countIssue_samePhys s 0x02).trans (.of_phys rfl)
  rw [advance_eq]
  split
  · exact h.trans (.of_phys (freeze_phys _ _ _ _ _ _ _ _))
  · exact h

theorem finish_samePhys {n : Names} {len : Nat} {s t : State} {w : Word} (h : finish n len s w = .next t) :
    SamePhys s t := by
  cases h
  refine SamePhys.trans (.of_phys ?_) (advance_samePhys _ _)
  cases n.dst with
  | none => rfl
  | some d =>
    simp only [writeDest]
    split <;> rfl

/-! ### The round robin (R111, R113) -/

theorem look_eq_none {α : Type} {m : Sparse α} {a : Nat} (h : a ∉ keys m) : look m a = none := by
  induction m with
  | nil => rfl
  | cons e m ih =>
    obtain ⟨k, v⟩ := e
    simp only [keys, List.map_cons, List.mem_cons, not_or] at h
    rw [look, if_neg (Ne.symm h.1)]
    exact ih h.2

/-- A logical core that stands on a physical core is one of those listed. -/
theorem mem_coresOn {s : State} {p lc : Nat} : lc ∈ coresOn s p ↔ standsOn s lc = some p := by
  rw [coresOn, List.mem_filter, beq_iff_eq, and_iff_right_iff_imp]
  intro h
  by_contra hk
  rw [standsOn, coreOf, getD, look_eq_none hk] at h
  exact absurd h (by simp [LCore.reset])

theorem rotate_counted (s : State) (e : Nat × Nat) : Counted s (rotate s e) := by
  unfold rotate
  split
  · exact counted_modPhys _ _ _ fun _ => rfl
  · exact .refl s

/-- The contexts of the round robin of p but e, in their order. -/
def beforeLast (s : State) (e : Nat × Nat) (p : Nat) : List (Nat × Nat) :=
  (physOf s p).rr.filter (fun x => decide (standsOn s x.1 = some p) && decide (x ≠ e))

theorem rotate_eq {s : State} {e : Nat × Nat} {p : Nat} (h : standsOn s e.1 = some p) :
    rotate s e = modPhys s p (fun q => { q with rr := beforeLast s e p ++ [e] }) := by
  have hf : moveLast ((physOf s p).rr.filter (fun x => (coresOn s p).contains x.1)) e = beforeLast s e p ++ [e] := by
    rw [moveLast, List.filter_filter]
    refine congrArg (· ++ [e]) (List.filter_congr fun x _ => ?_)
    rw [Bool.eq_iff_iff]
    simp [mem_coresOn, and_comm]
  simp only [rotate, h, modPhys, hf]

/-- A change after what counts alone is a change from before it. -/
theorem Counted.changed {n : Names} {s r t : State} {f : Ctx → Ctx} {pc : Word} (h : Counted s r)
    (k : Changed n r t f pc) : Changed n s t f pc := by
  obtain ⟨hc, hk⟩ := k
  refine ⟨⟨hc.cur.trans h.cur, by rw [hc.context, h.me], ?_, fun lc p => ?_⟩,
    (h.quiet.kept fun lc c _ => h.ctxOf lc c).trans hk h.cur⟩
  · rw [hc.words, h.words]; rfl
  · rw [hc.queues lc p, h.coreOf, h.cur]

theorem yield_changed (s : State) :
    ∃ t, exec .yield s = .next t ∧ Changed ⟨[], none, [], []⟩ s t id ((me s).pc + 4) ∧
      SamePhys (rotate s s.cur) t := by
  have h := rotate_counted s s.cur
  obtain ⟨t, ht, hc⟩ := finish_changed long (rotate s s.cur)
  rw [h.me] at hc
  exact ⟨t, ht, h.changed hc, finish_samePhys ht⟩

/-! ### WAITP (R127) -/

/-- A sum of powers of two, one for each index that p admits, has those bits. -/
theorem foldl_setBit_testBit (p : Nat → Bool) (n : Nat) :
    (List.range n).foldl (fun w i => if p i then w + 2 ^ i else w) 0 < 2 ^ n ∧
    ∀ i, ((List.range n).foldl (fun w i => if p i then w + 2 ^ i else w) 0).testBit i = (decide (i < n) && p i) := by
  induction n with
  | zero => simp
  | succ n ih =>
    obtain ⟨hlt, hbit⟩ := ih
    simp only [List.range_succ, List.foldl_append, List.foldl_cons, List.foldl_nil]
    generalize (List.range n).foldl (fun w i => if p i then w + 2 ^ i else w) 0 = w at hlt hbit
    have hw : (if p n then w + 2 ^ n else w) = 2 ^ n * (p n).toNat + w := by
      cases p n <;> simp [Nat.add_comm]
    have hle : (p n).toNat < 2 ^ 1 := Bool.toNat_lt _
    refine ⟨by rw [Nat.pow_succ]; split <;> omega, fun i => ?_⟩
    rw [hw, Nat.testBit_two_pow_mul_add _ hlt, hbit]
    rcases Nat.lt_trichotomy i n with h | rfl | h
    · simp [h, Nat.lt_succ_of_lt h]
    · cases p i <;> simp
    · rw [if_neg (by omega), Nat.testBit_lt_two_pow (Nat.lt_of_lt_of_le hle (Nat.pow_le_pow_right (by decide) (by omega)))]
      simp [show ¬i < n + 1 by omega]

theorem portsReady_lt (c : LCore) (m : Nat) : portsReady c m < 256 :=
  (foldl_setBit_testBit (fun i => m.testBit i && !(queueOf c i).isEmpty) 8).1

theorem portsReady_testBit (c : LCore) (m i : Nat) :
    (portsReady c m).testBit i = (decide (i < 8) && (m.testBit i && !(queueOf c i).isEmpty)) :=
  (foldl_setBit_testBit (fun i => m.testBit i && !(queueOf c i).isEmpty) 8).2 i

/-- The word of the ports in a mask that hold a word is the one with their bits. -/
theorem portsReady_word {c : LCore} {v w : Word}
    (h : ∀ i, w.getLsbD i = (decide (i < 8) && v.getLsbD i && !(queueOf c i).isEmpty)) :
    word (portsReady c (v.toNat % 256)) = w := by
  refine BitVec.eq_of_getLsbD_eq fun i hi => ?_
  rw [word, BitVec.getLsbD_ofNat, portsReady_testBit, h, show 256 = 2 ^ 8 from rfl, Nat.testBit_mod_two_pow,
    BitVec.testBit_toNat]
  by_cases h8 : i < 8 <;> simp [h8, hi]

theorem portsReady_eq_zero {c : LCore} {m : Nat} (h : word (portsReady c m) = 0#64) : portsReady c m = 0 := by
  have hl := portsReady_lt c m
  have hn := congrArg BitVec.toNat h
  rw [word, BitVec.toNat_ofNat] at hn
  simp only [BitVec.toNat_zero] at hn
  omega

theorem exec_waitp {d : F6} {a : Opnd} {s : State} (hi : Issues ⟨[a], some d.toNat, [], []⟩ s) :
    exec (.waitp d a) s =
      if (valB s a).toNat % 256 ≠ 0 ∧ portsReady (myCore s) ((valB s a).toNat % 256) = 0 then waitAt s 2
      else finish ⟨[a], some d.toNat, [], []⟩ long s (word (portsReady (myCore s) ((valB s a).toNat % 256))) := by
  rw [show exec (.waitp d a) s = execWaitp d a s from rfl, execWaitp, issue_ready hi]

/-! ### PORTSEL (R126) -/

theorem exec_portsel {a : Opnd} {s : State} (hi : Issues ⟨[a], none, [], []⟩ s) :
    exec (.portsel a) s =
      if crewSize (levelsOf s (taskNum s.cur.1)) ≤ (valB s a).toNat then trap s causeProtect
      else finishCtx ⟨[a], none, [], []⟩ long s (fun x => { x with psel := word ((valB s a).toNat % 65536) }) := by
  rw [show exec (.portsel a) s = execPortsel a s from rfl, execPortsel, issue_ready hi]

/-- Settles O18: YIELD is `finish` after a rotation, PORTSEL is `finishCtx` or a trap by its crew, WAITP is `finish` with
the ports of its mask that hold a word or a wait while there is none. -/
theorem yieldPortselWaitp : Obligations.YieldPortselWaitp := by
  refine ⟨fun s => ?_, fun a s hi => ⟨fun hv => ?_, fun hv => ?_⟩,
    fun d a s w hi hw => ⟨fun hok => ?_, fun h0 hm => ?_⟩⟩
  · obtain ⟨t, ht, hc, hph⟩ := yield_changed s
    refine ⟨t, ht, hc, fun p hp => ?_⟩
    have hrr : ∀ q, (physOf t q).rr = (physOf (rotate s s.cur) q).rr := hph.part PCore.rr fun _ => rfl
    rw [rotate_eq hp] at hrr
    refine ⟨⟨beforeLast s s.cur p, ?_, by simp [beforeLast], rfl⟩, fun q hq => ?_⟩
    · rw [hrr, physOf_modPhys, if_pos rfl]
    · rw [hrr, physOf_modPhys, if_neg hq]
  · rw [exec_portsel hi, if_neg (Nat.not_le.mpr hv)]
    exact finishCtx_own _ _ (.refl s) _
  · rw [exec_portsel hi, if_pos hv]
    exact trap_trapped s (by decide)
  · have hword : word (portsReady (myCore s) ((valB s a).toNat % 256)) = w := portsReady_word hw
    rw [exec_waitp hi, if_neg, hword]
    · exact finish_wrote _ _ _ _
    · rintro ⟨hm, hz⟩
      rw [hz] at hword
      exact hok.elim (fun h => h hword.symm) hm
  · have hz : portsReady (myCore s) ((valB s a).toNat % 256) = 0 :=
      portsReady_eq_zero ((portsReady_word hw).trans h0)
    rw [exec_waitp hi, if_pos ⟨hm, hz⟩]
    exact waitAt_waits s rfl

end Sys2Proof.Machine
end

section
/-! SUPPORT. What a change must leave alone so that every byte reads as it did (R157, R165, R330), and the fields of a word
after one of them is replaced (R6). -/

namespace Sys2Proof.Machine

/-! ### A field of a word replaced -/

/-- The bits of a number made of a low part, k bits and a high part. -/
theorem testBit_field (q u r : Nat) {lo k : Nat} (hu : u < 2 ^ k) (hr : r < 2 ^ lo) (j : Nat) :
    (2 ^ lo * (2 ^ k * q + u) + r).testBit j =
      if j < lo then r.testBit j else if j - lo < k then u.testBit (j - lo) else q.testBit (j - lo - k) := by
  rw [Nat.testBit_two_pow_mul_add _ hr, Nat.testBit_two_pow_mul_add _ hu]

theorem bit_setBits (w : Word) {hi lo : Nat} (v j : Nat) (hlo : lo ≤ hi) (hhi : hi < 64) :
    bit (setBits w hi lo v) j = if lo ≤ j ∧ j ≤ hi then v.testBit (j - lo) else bit w j := by
  obtain ⟨k, hk⟩ : ∃ k, hi + 1 - lo = k := ⟨_, rfl⟩
  have hkpos := Nat.two_pow_pos k
  have hr : w.toNat % 2 ^ lo < 2 ^ lo := Nat.mod_lt _ (Nat.two_pow_pos lo)
  have hb : w.toNat / 2 ^ lo % 2 ^ k < 2 ^ k := Nat.mod_lt _ hkpos
  have hv : v % 2 ^ k < 2 ^ k := Nat.mod_lt _ hkpos
  have hw : w.toNat = 2 ^ lo * (2 ^ k * (w.toNat / 2 ^ lo / 2 ^ k) + w.toNat / 2 ^ lo % 2 ^ k) + w.toNat % 2 ^ lo := by
    rw [Nat.div_add_mod, Nat.div_add_mod]
  have hn : w.toNat - w.toNat / 2 ^ lo % 2 ^ k * 2 ^ lo + v % 2 ^ k * 2 ^ lo =
      2 ^ lo * (2 ^ k * (w.toNat / 2 ^ lo / 2 ^ k) + v % 2 ^ k) + w.toNat % 2 ^ lo := by
    generalize w.toNat / 2 ^ lo % 2 ^ k = b at hw ⊢
    rw [Nat.mul_add] at hw ⊢
    rw [Nat.mul_comm b, Nat.mul_comm (v % 2 ^ k)]
    omega
  have hbit : bit w j = if j < lo then (w.toNat % 2 ^ lo).testBit j
      else if j - lo < k then (w.toNat / 2 ^ lo % 2 ^ k).testBit (j - lo)
      else (w.toNat / 2 ^ lo / 2 ^ k).testBit (j - lo - k) := by
    rw [bit, ← testBit_field _ _ _ hb hr, ← hw]
  have hset : bit (setBits w hi lo v) j = (decide (j < 64) && if j < lo then (w.toNat % 2 ^ lo).testBit j
      else if j - lo < k then (v % 2 ^ k).testBit (j - lo)
      else (w.toNat / 2 ^ lo / 2 ^ k).testBit (j - lo - k)) := by
    rw [bit_eq_getLsbD, setBits, bits, hk, hn, BitVec.getLsbD_ofNat, testBit_field _ _ _ hv hr]
  by_cases hj : lo ≤ j ∧ j ≤ hi
  · rw [hset, if_pos hj, if_neg (by omega), if_pos (by omega), Nat.testBit_mod_two_pow]
    simp [show j < 64 by omega, show j - lo < k by omega]
  · rw [if_neg hj]
    by_cases h64 : j < 64
    · have hmid : ¬j < lo → ¬j - lo < k := fun h1 h2 => hj ⟨by omega, by omega⟩
      rw [hset, hbit, decide_eq_true h64, Bool.true_and]
      by_cases h1 : j < lo
      · rw [if_pos h1, if_pos h1]
      · rw [if_neg h1, if_neg h1, if_neg (hmid h1), if_neg (hmid h1)]
    · rw [hset, decide_eq_false h64, Bool.false_and, bit_eq_getLsbD, BitVec.getLsbD_of_ge _ _ (by omega)]

/-! ### What a byte of memory is read from -/

/-- What a byte of a logical core's view is read from in the core itself: ways, stash, mappings, first-level cache, and the
physical core that gives its die. -/
def shown (c : LCore) : Nat × Sparse Byte × List Mapping × Sparse Line × Nat := (c.ways, c.stash, c.maps, c.l1, c.phys)

/-- Everything that a byte of any core's view is read from is the same. -/
structure SameView (s t : State) : Prop where
  map : SameMap s t
  gtags : t.gtags = s.gtags
  l2 : t.l2 = s.l2
  asid : ∀ lc, asidOf t lc = asidOf s lc
  cores : ∀ lc, shown (coreOf t lc) = shown (coreOf s lc)

theorem SameMap.refl (s : State) : SameMap s s := ⟨rfl, rfl, rfl, rfl, rfl, rfl, rfl, rfl⟩

theorem SameMap.trans {s t u : State} (h : SameMap s t) (k : SameMap t u) : SameMap s u :=
  ⟨k.msc.trans h.msc, k.mem.trans h.mem, k.frameKeys.trans h.frameKeys, k.keySlots.trans h.keySlots,
    k.memStacks.trans h.memStacks, k.tlb.trans h.tlb, k.parts.trans h.parts, k.asidbase.trans h.asidbase⟩

theorem SameView.refl (s : State) : SameView s s := ⟨.refl s, rfl, rfl, fun _ => rfl, fun _ => rfl⟩

theorem SameView.trans {s t u : State} (h : SameView s t) (k : SameView t u) : SameView s u :=
  ⟨h.map.trans k.map, k.gtags.trans h.gtags, k.l2.trans h.l2, fun lc => (k.asid lc).trans (h.asid lc),
    fun lc => (k.cores lc).trans (h.cores lc)⟩

theorem Quiet.view {s t : State} (h : Quiet s t) : SameView s t :=
  ⟨h.map, h.get State.gtags, h.get State.l2, h.asidOf, h.part shown fun _ => rfl⟩

/-- A change of other parts of the state than cores and tasks. -/
theorem SameView.of_map {s t : State} (hm : SameMap s t) (hg : t.gtags = s.gtags) (hl : t.l2 = s.l2)
    (ht : t.tasks = s.tasks) (hc : t.cores = s.cores) : SameView s t :=
  ⟨hm, hg, hl, fun lc => by simp only [asidOf, taskOf, ht], fun lc => by rw [coreOf, hc, ← coreOf]⟩

theorem modCore_view (s : State) (lc : Nat) (f : LCore → LCore) (h : ∀ c, shown (f c) = shown c) :
    SameView s (modCore s lc f) :=
  ⟨⟨rfl, rfl, rfl, rfl, rfl, rfl, rfl, rfl⟩, rfl, rfl, fun _ => rfl, fun k => by
    rw [coreOf_modCore]
    split
    · next hk => rw [h, hk]
    · rfl⟩

/-- A change of a task changes the tasks alone. -/
theorem modTask_eq (s : State) (n : Nat) (f : Task → Task) :
    modTask s n f = { s with tasks := (modTask s n f).tasks } := by
  unfold modTask
  split <;> rfl

theorem asidOf_eq (s : State) (lc : Nat) : asidOf s lc = (taskOf s (taskNum lc)).elim 0 Task.asid := by
  unfold asidOf
  cases taskOf s (taskNum lc) <;> rfl

theorem modTask_view (s : State) (n : Nat) (f : Task → Task) (h : ∀ t, (f t).asid = t.asid) :
    SameView s (modTask s n f) := by
  have ha : ∀ lc, asidOf (modTask s n f) lc = asidOf s lc := fun lc => by
    rw [asidOf_eq, asidOf_eq, taskOf_modTask]
    by_cases hn : taskNum lc = n
    · rw [if_pos hn, hn]
      cases taskOf s n with
      | none => rfl
      | some t => exact h t
    · rw [if_neg hn]
  rw [modTask_eq] at ha ⊢
  exact ⟨⟨rfl, rfl, rfl, rfl, rfl, rfl, rfl, rfl⟩, rfl, rfl, ha, fun _ => rfl⟩

section view
variable {s t : State} (h : SameView s t)
include h

theorem SameView.ways (lc : Nat) : (coreOf t lc).ways = (coreOf s lc).ways := congrArg (·.1) (h.cores lc)
theorem SameView.stash (lc : Nat) : (coreOf t lc).stash = (coreOf s lc).stash := congrArg (·.2.1) (h.cores lc)
theorem SameView.maps (lc : Nat) : (coreOf t lc).maps = (coreOf s lc).maps := congrArg (·.2.2.1) (h.cores lc)
theorem SameView.l1 (lc : Nat) : (coreOf t lc).l1 = (coreOf s lc).l1 := congrArg (·.2.2.2.1) (h.cores lc)
theorem SameView.phys (lc : Nat) : (coreOf t lc).phys = (coreOf s lc).phys := congrArg (·.2.2.2.2) (h.cores lc)

theorem SameView.coreDie (lc : Nat) : coreDie t lc = coreDie s lc := congrArg dieOf (h.phys lc)

theorem SameView.hiddenBytes (p : Page) (a task : Nat) : hiddenBytes t p a task = hiddenBytes s p a task := by
  have ho : ∀ b, objectOf t p b = objectOf s p b := fun b => by
    simp only [objectOf, objAt, h.gtags, h.map.currentWord]
    rfl
  simp only [Machine.hiddenBytes, lineGranules, ho]

theorem SameView.byteBelow (lc va : Nat) (p : Page) : byteBelow t lc va p = byteBelow s lc va p := by
  have hd : ∀ key, dieLine t lc key p = dieLine s lc key p := fun key => by
    simp only [dieLine, withOwn, h.coreDie, h.hiddenBytes, h.l2]
  simp only [Machine.byteBelow, h.asid, hd, h.map.pocLine]

theorem SameView.memory : SameMemory s t := fun lc va => by
  simp only [byteView, h.asid, h.map.translate, h.byteBelow, frameByte, h.map.currentLine, stashByte, mappingOf,
    h.ways, h.stash, h.maps, h.l1]

end view

end Sys2Proof.Machine
end

section
/-! SUPPORT. Barriers (R109, R128 to R130): what an arrival records and counts, and the wait for its phase. -/

namespace Sys2Proof.Machine

/-! ### An arrival (R129, R130) -/

/-- The context that has arrived at a level in phase ph. -/
def arrivedCtx (x : Ctx) (l ph : Nat) : Ctx :=
  { x with barst := setBits (setBits x.barst l l 1) (8 + l) (8 + l) (ph % 2), arrived := setD 0 x.arrived l ph }

/-- A barrier that has counted one more arrival of those expected. -/
def countedBarrier (expected : Nat) (b : Barrier) : Barrier :=
  if expected ≤ b.count + 1 then ⟨0, b.phase + 1⟩ else ⟨b.count + 1, b.phase⟩

theorem recordArrival_eq (s : State) (l : Nat) : recordArrival s l =
    arriveAt (setMe s (arrivedCtx (me s) l (barrierOf s s.cur.1 l).phase)) s.cur.1 l := rfl

theorem arriveAt_cores (s : State) (lc l : Nat) : (arriveAt s lc l).cores = s.cores := by rw [arriveAt, modTask_eq]
theorem arriveAt_cur (s : State) (lc l : Nat) : (arriveAt s lc l).cur = s.cur := by rw [arriveAt, modTask_eq]
theorem arriveAt_phys (s : State) (lc l : Nat) : (arriveAt s lc l).phys = s.phys := by rw [arriveAt, modTask_eq]

theorem arriveAt_ctxOf (s : State) (lc l a b : Nat) : ctxOf (arriveAt s lc l) a b = ctxOf s a b := by
  rw [ctxOf, coreOf, arriveAt_cores, ← coreOf, ← ctxOf]

theorem arriveAt_view (s : State) (lc l : Nat) : SameView s (arriveAt s lc l) := modTask_view _ _ _ fun _ => rfl

theorem barrierOf_task {s : State} {lc l : Nat} {t : Task} (h : taskOf s (taskNum lc) = some t) :
    barrierOf s lc l = getD ⟨0, 0⟩ t.barriers (barrierKey t.levels (lcnOf lc) l) := by
  rw [barrierOf, h]

theorem barrierOf_arriveAt {s : State} {lc l : Nat} {t : Task} (h : taskOf s (taskNum lc) = some t) :
    barrierOf (arriveAt s lc l) lc l = countedBarrier (expectedCount t.levels l) (barrierOf s lc l) := by
  have ht : taskOf (arriveAt s lc l) (taskNum lc) = some { t with
      barriers := setD ⟨0, 0⟩ t.barriers (barrierKey t.levels (lcnOf lc) l)
        (countedBarrier (expectedCount t.levels l) (getD ⟨0, 0⟩ t.barriers (barrierKey t.levels (lcnOf lc) l))) } := by
    rw [arriveAt, taskOf_modTask, if_pos rfl, h]; rfl
  rw [barrierOf_task ht, getD_setD_same, barrierOf_task h]

section arrival
variable {s : State} {l : Nat}

theorem recordArrival_cur : (recordArrival s l).cur = s.cur := arriveAt_cur _ _ _

theorem recordArrival_me : me (recordArrival s l) = arrivedCtx (me s) l (barrierOf s s.cur.1 l).phase := by
  rw [me, recordArrival_cur, recordArrival_eq, arriveAt_ctxOf]
  exact me_setMe s _

/-- BARST of a context that has arrived: OUT of the level, and the parity of its phase. -/
theorem arrivedCtx_barst (x : Ctx) (ph : Nat) (hl : l < 8) :
    bit (arrivedCtx x l ph).barst l = true ∧ bit (arrivedCtx x l ph).barst (8 + l) = decide (ph % 2 = 1) := by
  simp only [arrivedCtx]
  rw [bit_setBits _ _ _ (Nat.le_refl _) (by omega), bit_setBits _ _ _ (Nat.le_refl _) (by omega),
    bit_setBits _ _ _ (Nat.le_refl _) (by omega), if_neg (by omega), if_pos ⟨Nat.le_refl _, Nat.le_refl _⟩,
    if_pos ⟨Nat.le_refl _, Nat.le_refl _⟩, Nat.sub_self, Nat.sub_self]
  simp [Nat.testBit_zero]

variable {task : Task} (ht : taskOf s (taskNum s.cur.1) = some task)
include ht

theorem recordArrival_barrier : barrierOf (recordArrival s l) s.cur.1 l =
    countedBarrier (expectedCount task.levels l) (barrierOf s s.cur.1 l) :=
  barrierOf_arriveAt (s := setMe s (arrivedCtx (me s) l (barrierOf s s.cur.1 l).phase)) ht

theorem recordArrival_arrived (hl : l < 8) : Arrived s (recordArrival s l) l := by
  have hown := setMe_own s (arrivedCtx (me s) l (barrierOf s s.cur.1 l).phase)
  obtain ⟨hout, hph⟩ := arrivedCtx_barst (me s) (barrierOf s s.cur.1 l).phase hl
  refine ⟨by rw [recordArrival_me]; exact hout, by rw [recordArrival_me]; exact hph, ?_, by rw [recordArrival_me]; rfl,
    fun lc c ho => ?_, ?_, fun p => ?_, recordArrival_cur⟩
  · rw [recordArrival_barrier ht, levelsOf_task ht]
    rfl
  · rw [recordArrival_eq, arriveAt_ctxOf, hown.others lc c ho]
  · exact (hown.quiet.view.trans (arriveAt_view _ _ _)).memory
  · rw [recordArrival_eq, physOf, arriveAt_phys]
    rfl

/-- The last arrival expected ends the phase of every context that has arrived in it. -/
theorem recordArrival_ends (hlast : expectedCount task.levels l ≤ (barrierOf s s.cur.1 l).count + 1) :
    phaseEnded (recordArrival s l) l = true := by
  rw [phaseEnded, recordArrival_cur, recordArrival_barrier ht, countedBarrier, if_pos hlast, recordArrival_me,
    arrivedCtx, getD_setD_same, decide_eq_true_eq]
  exact Nat.lt_succ_self _

end arrival

/-! ### Arriving and waiting (R130) -/

section steps
variable {s : State} {l : Nat}

theorem arriveThen_outstanding (ho : barOut (me s) l = true) (he : phaseEnded s l = false) (code : Nat) (k : State → Res) :
    arriveThen l code s k = waitBegun s code := by
  simp [arriveThen, ho, he]

theorem arriveThen_arrives (h : barOut (me s) l = false ∨ phaseEnded s l = true)
    (hr : ReleaseComplete s (levelScope s l) false) (code : Nat) (k : State → Res) :
    arriveThen l code s k = k (recordArrival s l) := by
  rw [arriveThen, releaseThen_done hr, if_neg]
  rcases h with h | h <;> simp [h]

theorem acquire_cur (u : State) (lc scope : Nat) : (acquire u lc scope).cur = u.cur := by
  unfold acquire
  split
  · rfl
  · dsimp only
    split <;> rfl

theorem waited_pc : (me (waited s l)).pc = (me s).pc := by
  have h : me (waited s l) = me (setMe s { me s with barst := setBits (me s).barst l l 0 }) := by
    rw [me, waited, ctxOf_acquire, acquire_cur, ← me]
  rw [h, me_setMe]

theorem waitFor_ended (ho : barOut (me s) l = true) (he : phaseEnded s l = true) :
    ∃ t, waitFor l s = .next t ∧ Changed ⟨[], none, [], []⟩ (waited s l) t id ((me s).pc + 4) := by
  have h := finish_changed long (waited s l)
  rw [waited_pc] at h
  rw [waitFor, if_pos ho, if_pos he]
  exact h

theorem waitFor_none (ho : barOut (me s) l = false) :
    ∃ t, waitFor l s = .next t ∧ Changed ⟨[], none, [], []⟩ s t id ((me s).pc + 4) := by
  have h := finish_changed long s
  simp only [waitFor, ho, Bool.false_eq_true, if_false]
  exact h

theorem waitFor_waits (ho : barOut (me s) l = true) (he : phaseEnded s l = false) :
    ∃ t, waitFor l s = .next t ∧ Waits s t 3 .idle := by
  simp only [waitFor, ho, he, Bool.false_eq_true, if_true, if_false]
  exact waitStage_waits s 3 .idle

end steps

/-! ### BAR, BARA and BARW -/

section levels
variable {level : F6} {s : State}

theorem exec_bar_undeclared (h : (levelsOf s (taskNum s.cur.1)).length ≤ level.toNat) :
    exec (.bar level) s = trap s causeIllegalInsn ∧ exec (.bara level) s = trap s causeIllegalInsn ∧
      exec (.barw level) s = trap s causeIllegalInsn := by
  have hd : ¬declares s level.toNat = true := by simpa [declares] using h
  exact ⟨if_neg hd, if_neg hd, if_neg hd⟩

variable (h : level.toNat < (levelsOf s (taskNum s.cur.1)).length)
include h

theorem exec_bara : exec (.bara level) s =
    arriveThen level.toNat 0 s (fun t => finish ⟨[], none, [], []⟩ long t 0#64) := if_pos (decide_eq_true h)

theorem exec_barw : exec (.barw level) s = waitFor level.toNat s := if_pos (decide_eq_true h)

theorem exec_bar_out (ho : barOut (me s) level.toNat = true) : exec (.bar level) s = waitFor level.toNat s :=
  (if_pos (decide_eq_true h)).trans (if_pos ho)

theorem exec_bar_arrives (ho : barOut (me s) level.toNat = false) :
    exec (.bar level) s = arriveThen level.toNat 3 s (waitFor level.toNat) :=
  (if_pos (decide_eq_true h)).trans (if_neg (by simp [ho]))

end levels

/-- Settles O22: the state that has arrived is `recordArrival`, on which BARA is `finish`. -/
theorem barrierArrive : Obligations.BarrierArrive := by
  refine ⟨fun level s task ht hl h8 ho hr => ?_, fun level s hl ho he => ?_⟩
  · have hfin := finish_changed long (recordArrival s level.toNat)
    obtain ⟨t, hx, hc⟩ := hfin
    rw [recordArrival_me] at hc
    refine ⟨recordArrival s level.toNat, t, recordArrival_arrived ht h8, ?_, hc⟩
    rw [exec_bara (by rwa [levelsOf_task ht]), arriveThen_arrives ho hr]
    exact hx
  · rw [exec_bara hl, arriveThen_outstanding ho he]
    exact waitBegun_waits s 0

/-- Settles O23: BARW is `waitFor`; BAR is the same where an arrival is outstanding, and else `waitFor` of the state that has
arrived. -/
theorem barrierWait : Obligations.BarrierWait := by
  refine ⟨fun level s hl => ?_, fun level s hl ho => ?_, fun level s hl ho he => ?_, fun level s hl ho he => ?_,
    fun level s task ht hl h8 ho hr hlast => ?_⟩
  · obtain ⟨hbar, hbara, hbarw⟩ := exec_bar_undeclared hl
    rw [hbar, hbara, hbarw]
    have htrap := trap_trapped s (cause := causeIllegalInsn) (by decide)
    exact ⟨htrap, htrap, htrap⟩
  · rw [exec_barw hl]
    exact waitFor_none ho
  · rw [exec_bar_out hl ho, exec_barw hl]
    exact ⟨waitFor_ended ho he, rfl⟩
  · rw [exec_bar_out hl ho, exec_barw hl]
    exact ⟨waitFor_waits ho he, rfl⟩
  · have ha := recordArrival_arrived ht h8
    obtain ⟨t, hx, hc⟩ := waitFor_ended ha.out (recordArrival_ends ht hlast)
    rw [recordArrival_me] at hc
    refine ⟨recordArrival s level.toNat, t, ha, ?_, hc⟩
    rw [exec_bar_arrives (by rwa [levelsOf_task ht]) ho, arriveThen_arrives (.inl ho) hr]
    exact hx

end Sys2Proof.Machine
end

section
/-! SUPPORT. The end of a context (R119, R192): its holds end, what it left on its way answers to none, and nothing that
another context or a byte of memory is read from changes. -/

namespace Sys2Proof.Machine

/-! ### Finite maps changed entry by entry -/

/-- A map whose entries are changed in place. -/
theorem look_map_entries {α β : Type} (m : Sparse α) (f : Nat → α → β) (a : Nat) :
    look (m.map (fun e => (e.1, f e.1 e.2))) a = (look m a).map (f a) := by
  induction m with
  | nil => rfl
  | cons e m ih =>
    obtain ⟨k, v⟩ := e
    simp only [List.map_cons, look]
    split
    · next hk => rw [hk]; rfl
    · exact ih

/-- One value written at the keys of a list that p admits. -/
theorem getD_foldl_setD {α : Type} [DecidableEq α] (d v : α) (p : Nat → Bool) (l : List Nat) (m : Sparse α) (n : Nat) :
    getD d (l.foldl (fun r i => if p i then setD d r i v else r) m) n =
      if n ∈ l ∧ p n = true then v else getD d m n := by
  induction l generalizing m with
  | nil => simp
  | cons i l ih =>
    rw [List.foldl_cons, ih]
    by_cases hi : n = i
    · subst hi
      cases hp : p n <;> simp [getD_setD]
    · cases p i <;> simp [getD_setD, hi]

/-- Keys that are not written read as before. -/
theorem getD_foldl_setD_other {α : Type} [DecidableEq α] (d : α) (key : Nat → Nat) (v : Nat → α)
    {l : List Nat} {n : Nat} (h : ∀ i ∈ l, n ≠ key i) (m : Sparse α) :
    getD d (l.foldl (fun r i => setD d r (key i) (v i)) m) n = getD d m n := by
  induction l generalizing m with
  | nil => rfl
  | cons i l ih =>
    obtain ⟨hi, hl⟩ := List.forall_mem_cons.mp h
    rw [List.foldl_cons, ih hl, getD_setD_other _ _ _ hi]

/-! ### The end of a context's holds (R119 step 2, R192) -/

/-- The reply registers of a context without its holds. -/
def lostReplies (s : State) (lc c : Nat) (m : Sparse Word) : Sparse Word :=
  (List.range 4).foldl (fun r y =>
    if namesHold s lc c y (getD 0#64 m y) then setD 0#64 r y (replyWord kindLost 0 0 0) else r) m

/-- A context whose holds are lost. -/
def lostCtx (s : State) (lc c : Nat) (x : Ctx) : Ctx := { x with y := lostReplies s lc c x.y }

theorem lostHolds_eq (s : State) (lc c : Nat) : lostHolds s lc c = modCtx s lc c (lostCtx s lc c) := by
  have h : ∀ (p : Nat → Bool) (v : Word) (l : List Nat) (x : Ctx),
      l.foldl (fun z y => if p y then setYreg z y v else z) x =
        { x with y := l.foldl (fun r y => if p y then setD 0#64 r y v else r) x.y } := fun p v l => by
    induction l with
    | nil => exact fun x => rfl
    | cons i l ih =>
      intro x
      rw [List.foldl_cons, List.foldl_cons, ih]
      split <;> rfl
  rw [lostHolds]
  refine congrArg (modCtx s lc c) (funext fun x => ?_)
  exact h (fun y => namesHold s lc c y (yreg x y)) _ _ x

theorem yreg_lostCtx (s : State) (lc c : Nat) (x : Ctx) {n : Nat} (hn : n < 4) : yreg (lostCtx s lc c x) n =
    if namesHold s lc c n (yreg x n) then BitVec.ofNat 64 kindLost else yreg x n := by
  have h := getD_foldl_setD 0#64 (replyWord kindLost 0 0 0) (fun y => namesHold s lc c y (getD 0#64 x.y y)) (List.range 4)
    x.y n
  simp only [List.mem_range, hn, true_and] at h
  exact h

/-- The end of holds changes the mills alone. -/
theorem foldl_endHoldsAt_eq (p : Nat → Hold → Bool) (r : Nat) (ms : List Nat) (s : State) :
    ∃ ml, ms.foldl (fun t m => endHoldsAt t m p r) s = { s with mills := ml } := by
  induction ms generalizing s with
  | nil => exact ⟨s.mills, rfl⟩
  | cons m ms ih =>
    obtain ⟨ml, h⟩ := ih (endHoldsAt s m p r)
    exact ⟨ml, h⟩

/-- Every mill of the list has lost the holds that p names, no other mill has changed. -/
theorem foldl_endHoldsAt_holds (p : Nat → Hold → Bool) (r : Nat) (ms : List Nat) (s : State) (n : Nat) :
    (millOf (ms.foldl (fun t m => endHoldsAt t m p r) s) n).holds =
      if n ∈ ms then (millOf s n).holds.filter (fun e => !p e.1 e.2) else (millOf s n).holds := by
  induction ms generalizing s with
  | nil => rfl
  | cons m ms ih =>
    rw [List.foldl_cons, ih, endHoldsAt, millOf_modMill]
    by_cases hn : n = m
    · subst hn
      simp
    · simp [hn]

/-- Mills apart, the end of a context's holds changes that context alone. -/
theorem endHoldsOf_eq (s : State) (lc c : Nat) :
    ∃ ml, endHoldsOf s lc c = { modCtx s lc c (lostCtx s lc c) with mills := ml } := by
  rw [endHoldsOf, lostHolds_eq]
  exact foldl_endHoldsAt_eq _ _ _ _

theorem endHoldsOf_holds (s : State) (lc c : Nat) {n : Nat} (hn : n < 64) :
    (millOf (endHoldsOf s lc c) n).holds = (millOf s n).holds.filter (fun e => !(e.2.lc == lc && e.2.ctx == c)) := by
  rw [endHoldsOf, foldl_endHoldsAt_holds, if_pos (List.mem_range.mpr hn), lostHolds_eq]
  rfl

/-- No hold of the context lives any more. -/
theorem endHoldsOf_none {s : State} {lc c n : Nat} (hn : n < 64) :
    ∀ e ∈ (millOf (endHoldsOf s lc c) n).holds, ¬(e.2.lc = lc ∧ e.2.ctx = c) := by
  intro e he
  rw [endHoldsOf_holds s lc c hn, List.mem_filter, Bool.not_eq_true', Bool.and_eq_false_iff, beq_eq_false_iff_ne,
    beq_eq_false_iff_ne] at he
  exact fun ⟨h1, h2⟩ => he.2.elim (fun h => h h1) (fun h => h h2)

theorem endHoldsOf_ctxOf (s : State) (lc c a b : Nat) :
    ctxOf (endHoldsOf s lc c) a b = if a = lc ∧ b = c then lostCtx s lc c (ctxOf s lc c) else ctxOf s a b := by
  obtain ⟨ml, h⟩ := endHoldsOf_eq s lc c
  rw [h]
  exact ctxOf_modCtx _ _ _ _ _ _

theorem endHoldsOf_view (s : State) (lc c : Nat) : SameView s (endHoldsOf s lc c) := by
  obtain ⟨ml, h⟩ := endHoldsOf_eq s lc c
  rw [h]
  exact (quiet_modCtx s lc c _).view.trans (.of_map ⟨rfl, rfl, rfl, rfl, rfl, rfl, rfl, rfl⟩ rfl rfl rfl rfl)

@[simp] theorem endHoldsOf_cur (s : State) (lc c : Nat) : (endHoldsOf s lc c).cur = s.cur := by
  obtain ⟨ml, h⟩ := endHoldsOf_eq s lc c
  rw [h]
  rfl

@[simp] theorem endHoldsOf_phys (s : State) (lc c : Nat) : (endHoldsOf s lc c).phys = s.phys := by
  obtain ⟨ml, h⟩ := endHoldsOf_eq s lc c
  rw [h]
  rfl

/-- The current context has lost its holds. -/
theorem endHoldsOf_me (s : State) : me (endHoldsOf s s.cur.1 s.cur.2) = lostCtx s s.cur.1 s.cur.2 (me s) := by
  rw [me, endHoldsOf_cur, endHoldsOf_ctxOf, if_pos ⟨rfl, rfl⟩, ← me]

/-! ### What an ended context leaves behind -/

/-- Contexts, holds, physical cores and everything that a byte is read from are the same. -/
structure LeavesContexts (s t : State) : Prop where
  cur : t.cur = s.cur
  ctxs : ∀ lc c, ctxOf t lc c = ctxOf s lc c
  holds : ∀ m, (millOf t m).holds = (millOf s m).holds
  phys : t.phys = s.phys
  view : SameView s t

theorem LeavesContexts.refl (s : State) : LeavesContexts s s := ⟨rfl, fun _ _ => rfl, fun _ => rfl, rfl, .refl s⟩

theorem LeavesContexts.trans {s t u : State} (h : LeavesContexts s t) (k : LeavesContexts t u) : LeavesContexts s u :=
  ⟨k.cur.trans h.cur, fun lc c => (k.ctxs lc c).trans (h.ctxs lc c), fun m => (k.holds m).trans (h.holds m),
    k.phys.trans h.phys, h.view.trans k.view⟩

/-- A change of other parts of the state than cores, mills and tasks. -/
theorem LeavesContexts.of_map {s t : State} (hc : t.cur = s.cur) (hk : t.cores = s.cores) (hm : t.mills = s.mills)
    (hp : t.phys = s.phys) (ht : t.tasks = s.tasks) (h : SameMap s t) (hg : t.gtags = s.gtags) (hl : t.l2 = s.l2) :
    LeavesContexts s t :=
  ⟨hc, fun lc c => by rw [ctxOf, coreOf, hk, ← coreOf, ← ctxOf], fun m => by rw [millOf, hm, ← millOf], hp,
    .of_map h hg hl ht hk⟩

theorem modCore_contexts (s : State) (lc : Nat) (f : LCore → LCore) (h : ∀ c, shown (f c) = shown c)
    (hx : ∀ c, (f c).ctxs = c.ctxs) : LeavesContexts s (modCore s lc f) :=
  ⟨rfl, fun a b => by
    rw [ctxOf, coreOf_modCore]
    split
    · next ha => rw [hx, ha, ← ctxOf]
    · rfl, fun _ => rfl, rfl, modCore_view s lc f h⟩

theorem dropDrain_shown (c : LCore) (j : Job) : shown (dropDrain c j) = shown c ∧ (dropDrain c j).ctxs = c.ctxs := by
  unfold dropDrain
  dsimp only
  split <;> exact ⟨rfl, rfl⟩

theorem dropDrains_shown (js : List Job) (c : LCore) :
    shown (js.foldl dropDrain c) = shown c ∧ (js.foldl dropDrain c).ctxs = c.ctxs := by
  induction js generalizing c with
  | nil => exact ⟨rfl, rfl⟩
  | cons j js ih =>
    obtain ⟨h1, h2⟩ := ih (dropDrain c j)
    obtain ⟨h3, h4⟩ := dropDrain_shown c j
    exact ⟨h1.trans h3, h2.trans h4⟩

theorem modYard_contexts (s : State) (y : Nat) (f : Yard → Yard) : LeavesContexts s (modYard s y f) :=
  .of_map rfl rfl rfl rfl rfl ⟨rfl, rfl, rfl, rfl, rfl, rfl, rfl, rfl⟩ rfl rfl

theorem retireHeld_contexts (s : State) (lc c : Nat) : LeavesContexts s (retireHeld s lc c) := by
  unfold retireHeld
  dsimp only
  split
  · exact .refl s
  · refine (modYard_contexts s _ _).trans (modCore_contexts _ _ _ (fun k => ?_) fun k => ?_)
    · exact (dropDrains_shown _ _).1
    · exact (dropDrains_shown _ _).2

/-- A mill whose offers of an ended context answer to none. -/
def orphanMill (lc c : Nat) (q : Mill) : Mill :=
  { q with queue := q.queue.map (orphanOffer lc c), slots := q.slots.map (orphanOffer lc c) }

theorem millOf_orphanAll (s : State) (lc c m : Nat) : (millOf (orphanAll s lc c) m).holds = (millOf s m).holds := by
  have hm : (orphanAll s lc c).mills = s.mills.map (fun e => (e.1, orphanMill lc c e.2)) := rfl
  rw [millOf, getD, hm, look_map_entries s.mills (fun _ => orphanMill lc c), millOf, getD]
  cases look s.mills m <;> rfl

theorem asidOf_orphanAll (s : State) (lc c k : Nat) : asidOf (orphanAll s lc c) k = asidOf s k := by
  have ht : (orphanAll s lc c).tasks =
    s.tasks.map (fun e => (e.1, if e.1 = taskNum lc then orphanTask lc c e.2 else e.2)) := rfl
  rw [asidOf_eq, asidOf_eq, taskOf, taskOf, ht,
    look_map_entries s.tasks (fun n q => if n = taskNum lc then orphanTask lc c q else q)]
  cases look s.tasks (taskNum k) with
  | none => rfl
  | some q =>
    simp only [Option.map_some, Option.elim_some]
    split <;> rfl

theorem orphanAll_contexts (s : State) (lc c : Nat) : LeavesContexts s (orphanAll s lc c) :=
  ⟨rfl, fun _ _ => rfl, millOf_orphanAll s lc c, rfl,
    ⟨rfl, rfl, rfl, rfl, rfl, rfl, rfl, rfl⟩, rfl, rfl, asidOf_orphanAll s lc c, fun _ => rfl⟩

theorem unpark_contexts (s : State) (r : Requester) : LeavesContexts s (unpark s r) :=
  .of_map rfl rfl rfl rfl rfl ⟨rfl, rfl, rfl, rfl, rfl, rfl, rfl, rfl⟩ rfl rfl

theorem dropWaiter_contexts (s : State) (lc c : Nat) : LeavesContexts s (dropWaiter s lc c) :=
  modCore_contexts _ _ _ (fun _ => rfl) fun _ => rfl

/-- A context that has halted: only its PC is kept, s1 to s7 are left open (R119). -/
def haltedCtx (s : State) (lc c : Nat) : Ctx := { Ctx.reset with pc := (ctxOf s lc c).pc, s := leftover s.taken }

/-- A context halts once what it left behind answers to none. -/
theorem haltCtx_eq (s : State) (lc c : Nat) : ∃ u, LeavesContexts s u ∧
    haltCtx s lc c = rearm { setCtx u lc c (haltedCtx s lc c) with taken := s.taken + 7 } lc c :=
  ⟨dropWaiter _ lc c, ((((retireHeld_contexts s lc c).trans (orphanAll_contexts _ lc c)).trans
    (unpark_contexts _ (.access lc c))).trans (unpark_contexts _ (.fetch lc c))).trans
    ((unpark_contexts _ (.launch lc c)).trans (dropWaiter_contexts _ lc c)), rfl⟩

theorem haltCtx_ctxOf (s : State) (lc c a b : Nat) :
    ctxOf (haltCtx s lc c) a b = if a = lc ∧ b = c then haltedCtx s lc c else ctxOf s a b := by
  obtain ⟨u, hu, h⟩ := haltCtx_eq s lc c
  rw [h, ← hu.ctxs a b]
  exact ctxOf_setCtx u lc c a b _

theorem haltCtx_cur (s : State) (lc c : Nat) : (haltCtx s lc c).cur = s.cur := by
  obtain ⟨u, hu, h⟩ := haltCtx_eq s lc c
  rw [h]
  exact hu.cur

theorem haltCtx_holds (s : State) (lc c m : Nat) : (millOf (haltCtx s lc c) m).holds = (millOf s m).holds := by
  obtain ⟨u, hu, h⟩ := haltCtx_eq s lc c
  rw [h]
  exact hu.holds m

theorem haltCtx_phys (s : State) (lc c : Nat) : (haltCtx s lc c).phys = s.phys := by
  obtain ⟨u, hu, h⟩ := haltCtx_eq s lc c
  rw [h]
  exact hu.phys

theorem haltCtx_view (s : State) (lc c : Nat) : SameView s (haltCtx s lc c) := by
  obtain ⟨u, hu, h⟩ := haltCtx_eq s lc c
  rw [h]
  exact (hu.view.trans (quiet_setCtx u lc c (haltedCtx s lc c)).view).trans
    (.of_map ⟨rfl, rfl, rfl, rfl, rfl, rfl, rfl, rfl⟩ rfl rfl rfl rfl)

/-- Above s7 nothing is left of a halted context's registers. -/
theorem sreg_haltedCtx (s : State) (lc c : Nat) {n : Nat} (hn : 8 ≤ n) : sreg (haltedCtx s lc c) n = 0#64 := by
  have h : ∀ i ∈ List.range 7, n ≠ i + 1 := fun i hi => by
    have := List.mem_range.mp hi
    omega
  rw [sreg, haltedCtx, leftover, getD_foldl_setD_other _ _ _ h, getD_nil, ite_self]

theorem Counted.millOf {s t : State} (h : Counted s t) (m : Nat) : millOf t m = millOf s m := by
  rw [Machine.millOf, show t.mills = s.mills from h.quiet.get State.mills, ← Machine.millOf]

/-! ### HALT -/

theorem exec_halt (s : State) : exec .halt s = haltSteps 0 [] s := rfl

section halt
variable {s : State} (hs : (me s).stage = .idle)
include hs

theorem haltSteps_waits (hr : haltReady s s.cur.1 s.cur.2 = false) (keep : Nat) (srcs : List Opnd) :
    haltSteps keep srcs s = waitAt s (repliesWait s 6) := by
  simp [haltSteps, hs, hr]

/-- With nothing under way and no walk's fault to report, the context's holds end; a helper then ends, a head goes on. -/
theorem haltSteps_ready (hr : haltReady s s.cur.1 s.cur.2 = true) (hw : (me s).walkFaults = []) (keep : Nat)
    (srcs : List Opnd) : haltSteps keep srcs s =
      if s.cur.2 ≠ 0 then .next (haltCtx (countIssue (endHoldsOf s s.cur.1 s.cur.2) 0x02) s.cur.1 s.cur.2)
      else haltHead keep srcs (endHoldsOf s s.cur.1 s.cur.2) := by
  simp [haltSteps, hs, hr, hw]

end halt

theorem repliesWait_issued {code : Nat} (h : 2 ≤ code ∧ code ≤ 6) (s : State) :
    waitIssued (repliesWait s code) = true := by
  unfold repliesWait
  simp only [waitIssued, Bool.and_eq_true, decide_eq_true_eq]
  split
  · rw [parkedWait]; omega
  · omega

/-- Settles O19: `haltCtx` leaves the other contexts and what every byte is read from; the holds have ended before it. -/
theorem helperHaltEndsContext : Obligations.HelperHaltEndsContext := by
  refine ⟨fun s h0 hs hr hw => ?_, fun s hs hr => ?_⟩
  · have hcnt := countIssue_counted (endHoldsOf s s.cur.1 s.cur.2) 0x02
    have hcur : (haltCtx (countIssue (endHoldsOf s s.cur.1 s.cur.2) 0x02) s.cur.1 s.cur.2).cur = s.cur := by
      rw [haltCtx_cur, hcnt.cur, endHoldsOf_cur]
    have hme : me (haltCtx (countIssue (endHoldsOf s s.cur.1 s.cur.2) 0x02) s.cur.1 s.cur.2) =
        haltedCtx (countIssue (endHoldsOf s s.cur.1 s.cur.2) 0x02) s.cur.1 s.cur.2 := by
      rw [me, hcur, haltCtx_ctxOf, if_pos ⟨rfl, rfl⟩]
    rw [exec_halt, haltSteps_ready hs hr hw, if_pos h0]
    refine ⟨_, rfl, hcur, by rw [hme]; rfl, by rw [hme]; rfl,
      by rw [hme]; rfl, ?_, fun n hn => by rw [hme]; exact sreg_haltedCtx _ _ _ hn, fun m hm => ?_, fun lc c ho => ?_, ?_,
      fun p => ?_⟩
    · rw [hme, haltedCtx, hcnt.ctxOf, endHoldsOf_ctxOf, if_pos ⟨rfl, rfl⟩]
      rfl
    · rw [haltCtx_holds, hcnt.millOf]
      exact endHoldsOf_none hm
    · have hne : ¬(lc = s.cur.1 ∧ c = s.cur.2) := fun ⟨h1, h2⟩ => ho (Prod.ext h1 h2)
      rw [haltCtx_ctxOf, if_neg hne, hcnt.ctxOf, endHoldsOf_ctxOf, if_neg hne]
    · exact (((endHoldsOf_view s _ _).trans hcnt.quiet.view).trans (haltCtx_view _ _ _)).memory
    · rw [physOf, haltCtx_phys, ← physOf, hcnt.quiet.units p, physOf, endHoldsOf_phys, ← physOf]
  · rw [exec_halt, haltSteps_waits hs hr, ← hs]
    exact waitAt_waits s (repliesWait_issued (by decide) s)

end Sys2Proof.Machine
end

section
/-! SUPPORT. The wait of a head's HALT for its helpers (R119 step 3), after the holds of its context have ended (step 2). -/

namespace Sys2Proof.Machine

/-! ### The entries of a finite map after a write -/

theorem mem_erase {α : Type} {m : Sparse α} {a : Nat} {e : Nat × α} : e ∈ erase m a ↔ e ∈ m ∧ e.1 ≠ a := by
  simp [erase]

theorem insertAt_perm {α : Type} (a : Nat) (v : α) (m : Sparse α) : (insertAt a v m).Perm ((a, v) :: m) := by
  induction m with
  | nil => exact .refl _
  | cons e m ih =>
    unfold insertAt
    split
    · exact .refl _
    · exact (ih.cons _).trans (.swap _ _ _)

/-- A write touches no entry of another key. -/
theorem mem_setD_other {α : Type} [DecidableEq α] {d v : α} {m : Sparse α} {a : Nat} {e : Nat × α} (h : e.1 ≠ a) :
    e ∈ setD d m a v ↔ e ∈ m := by
  have he : e ≠ (a, v) := fun he => h (congrArg Prod.fst he)
  unfold setD put
  split
  · simp [mem_erase, h]
  · rw [(insertAt_perm _ _ _).mem_iff, List.mem_cons, mem_erase]
    simp [h, he]

/-- A write keeps the keys distinct. -/
theorem keys_setD_nodup {α : Type} [DecidableEq α] {d v : α} {m : Sparse α} {a : Nat} (h : (keys m).Nodup) :
    (keys (setD d m a v)).Nodup := by
  have he : (keys (erase m a)).Nodup := h.sublist (List.filter_sublist.map _)
  unfold setD put
  split
  · exact he
  · refine (((insertAt_perm a v (erase m a)).map Prod.fst).nodup_iff).mpr (List.nodup_cons.mpr ⟨?_, he⟩)
    rw [List.mem_map]
    rintro ⟨e, hm, rfl⟩
    exact (mem_erase.mp hm).2 rfl

/-! ### What a head's last steps look at, once its holds have ended -/

/-- Which helpers are live is not for the head's own context to say. -/
theorem helpersDone_setHead (s : State) (lc : Nat) (x : Ctx) : helpersDone (setCtx s lc 0 x) lc = helpersDone s lc := by
  rw [helpersDone, helpersDone, setCtx, coreOf_setCore_same, Bool.eq_iff_iff, List.all_eq_true, List.all_eq_true]
  refine forall_congr' fun e => ?_
  by_cases h : e.1 = 0
  · simp [h]
  · rw [mem_setD_other h]

theorem endHoldsOf_helpersDone (s : State) (lc : Nat) : helpersDone (endHoldsOf s lc 0) lc = helpersDone s lc := by
  obtain ⟨ml, h⟩ := endHoldsOf_eq s lc 0
  rw [h]
  exact helpersDone_setHead s lc _

/-- A head whose helpers have not halted waits, its holds lost already. -/
theorem halt_waits_lost {s : State} (h0 : s.cur.2 = 0) (hs : (me s).stage = .idle)
    (hr : haltReady s s.cur.1 s.cur.2 = true) (hw : (me s).walkFaults = []) (hh : helpersDone s s.cur.1 = false) :
    ∃ t, exec .halt s = .next t ∧ Waits (endHoldsOf s s.cur.1 s.cur.2) t 6 (.halting 3) := by
  have hd : helpersDone (endHoldsOf s s.cur.1 s.cur.2) (endHoldsOf s s.cur.1 s.cur.2).cur.1 = false := by
    rw [endHoldsOf_cur, h0, endHoldsOf_helpersDone, hh]
  rw [exec_halt, haltSteps_ready hs hr hw, if_neg (not_not_intro h0), haltHead, hd]
  exact waitStage_waits _ 6 (.halting 3)

/-! ### A head that waits for a helper while it holds a line -/

/-- A hold of the head of task 1 at mill 0, named by y0 (R192). -/
def headsHold : Hold := ⟨lcKey 1 0, 0, 0, 1, 0x20000, 1024, .scalar, false, 1, 0, codePage⟩

/-- A head whose y0 names a hold that lives, its first helper live too. -/
def holdingHead : State :=
  { State.reset with
    tasks := [(1, soloTask)]
    cores := [(lcKey 1 0, { soloCore with ctxs :=
      [(0, { startedCtx 0#64 0 0 (word codeVa) 0#64 with y := [(0, replyWord kindDecl 1 0 0)] }),
       (1, startedCtx 0#64 0 1 (word codeVa) 0#64)] })]
    mills := [(0, { Mill.reset with holds := [(0, headsHold)] })]
    cur := (lcKey 1 0, 0) }

/-- The end of its holds writes LOST over y0. -/
theorem holdingHead_loses :
    yreg (me (endHoldsOf holdingHead holdingHead.cur.1 holdingHead.cur.2)) 0 ≠ yreg (me holdingHead) 0 := by
  rw [endHoldsOf_me, yreg_lostCtx _ _ _ _ (by decide)]
  decide

/-- Refutes O20: its second clause has a head that waits for its helpers change no register, but step 2 of R119 has ended its
holds by then, so that a reply register that named one says LOST (`holdingHead`). -/
theorem not_headHaltRetiresCore : ¬ Obligations.HeadHaltRetiresCore := by
  rintro ⟨-, h⟩
  have hr : haltReady holdingHead holdingHead.cur.1 0 = true := by decide
  have hh : helpersDone holdingHead holdingHead.cur.1 = false := by decide
  obtain ⟨t, hx, ht⟩ := h holdingHead rfl rfl hr rfl hh
  obtain ⟨u, hy, hu⟩ := halt_waits_lost (s := holdingHead) rfl rfl hr rfl hh
  obtain rfl : t = u := by rw [hx] at hy; exact Host.Outcome.next.inj hy
  have hlost : yreg (me t) 0 = yreg (me (endHoldsOf holdingHead holdingHead.cur.1 holdingHead.cur.2)) 0 := by
    rw [hu.context]; rfl
  have hkept : yreg (me t) 0 = yreg (me holdingHead) 0 := by rw [ht.context]; rfl
  exact holdingHead_loses (hlost.symm.trans hkept)

end Sys2Proof.Machine
end

section
/-! SUPPORT. The retirement of a logical core (R49, R119 step 5, R125, R222, R290, R291): what is left of it on its physical
core, in its yard and in its task. -/

namespace Sys2Proof.Machine

/-! ### The contexts that stay on the physical core (R119, R312) -/

theorem mem_of_look {α : Type} {m : Sparse α} {a : Nat} {v : α} (h : look m a = some v) : (a, v) ∈ m := by
  induction m with
  | nil => exact absurd h (by simp [look])
  | cons e m ih =>
    obtain ⟨k, w⟩ := e
    rw [look] at h
    split at h
    · next hk => cases h; simp [hk]
    · exact List.mem_cons_of_mem _ (ih h)

/-- Entries copied under other keys: a key of its own reads its own entry. -/
theorem getD_foldl_copy {α β : Type} [DecidableEq β] (d : β) {f : Nat → Nat} (hf : Function.Injective f)
    (g : α → β) {m : Sparse α} (hn : (keys m).Nodup) {a : Nat} {v : α} (hm : (a, v) ∈ m) (r : Sparse β) :
    getD d (m.foldl (fun r e => setD d r (f e.1) (g e.2)) r) (f a) = g v := by
  have hother : ∀ (l : Sparse α) (r : Sparse β), a ∉ keys l →
      getD d (l.foldl (fun r e => setD d r (f e.1) (g e.2)) r) (f a) = getD d r (f a) := fun l => by
    induction l with
    | nil => exact fun _ _ => rfl
    | cons e l ih =>
      intro r ha
      simp only [keys, List.map_cons, List.mem_cons, not_or] at ha
      rw [List.foldl_cons, ih _ ha.2, getD_setD_other _ _ _ fun h => ha.1 (hf h)]
  induction m generalizing r with
  | nil => exact absurd hm (by simp)
  | cons e m ih =>
    obtain ⟨he, hn⟩ := List.nodup_cons.mp hn
    rw [List.foldl_cons]
    rcases List.mem_cons.mp hm with rfl | hm
    · rw [hother m _ he, getD_setD_same]
    · exact ih hn hm _

theorem physIndex_injective (half : Bool) : Function.Injective (physIndex half) := fun a b h => by
  cases half
  · exact h
  · exact Nat.add_left_cancel h

/-- A live head's registers stay on its physical core. -/
theorem leaveRest_head {c : LCore} (hn : (keys c.ctxs).Nodup) (hl : (getD Ctx.reset c.ctxs 0).live = true)
    (r : Sparse Ctx) :
    getD Ctx.reset (leaveRest c r) (if c.half then 5 else 0) = restCtx (getD Ctx.reset c.ctxs 0) := by
  have hlook : look c.ctxs 0 = some (getD Ctx.reset c.ctxs 0) := by
    cases hx : look c.ctxs 0 with
    | none => rw [getD, hx] at hl; exact absurd hl (by decide)
    | some x => rw [getD, hx, Option.getD_some]
  have h := getD_foldl_copy Ctx.reset (physIndex_injective c.half) restCtx hn (mem_of_look hlook) r
  rw [show (if c.half then 5 else 0) = physIndex c.half 0 by rw [physIndex]]
  exact h

/-! ### The accumulators (R222) -/

/-- Each of a list of keys is written. -/
theorem look_foldl_put {α : Type} (v : Nat → α) (l : List (Nat × Nat)) (m : Sparse α) {a : Nat}
    (h : (look m a).isSome ∨ a ∈ l.map Prod.fst) :
    ∃ x, look (l.foldl (fun m e => put m e.1 (v e.2)) m) a = some x := by
  induction l generalizing m with
  | nil => exact Option.isSome_iff_exists.mp (h.resolve_right (by simp))
  | cons e l ih =>
    refine ih _ ?_
    by_cases ha : a = e.1
    · exact .inl (by rw [ha, look_put_same]; rfl)
    · rw [look_put_other _ _ ha]
      exact h.imp_right fun hm => (List.mem_cons.mp hm).resolve_left ha

/-- The accumulators that a logical core owns in a yard. -/
def ownedAccs (y : Yard) (lc : Nat) : List Nat := (y.owner.filter (fun e => e.2 == lc + 1)).map (·.1)

/-- A yard without the accumulators of a logical core, their contents lost. -/
def lostYard (taken lc : Nat) (y : Yard) : Yard :=
  { y with owner := y.owner.filter (fun e => e.2 != lc + 1)
           acc := y.acc.filter (fun e => !(ownedAccs y lc).contains e.1)
           lost := (ownedAccs y lc).zipIdx.foldl (fun m e => put m e.1 (taken + accElems * e.2)) y.lost }

theorem lostYard_freed (taken lc : Nat) (y : Yard) : ∀ e ∈ (lostYard taken lc y).owner, e.2 ≠ lc + 1 := fun e he => by
  simpa using (List.mem_filter.mp he).2

/-- A free value stands for each element of a lost accumulator (log 5). -/
theorem lostYard_lost (taken lc : Nat) (y : Yard) {n : Nat} (hn : (n, lc + 1) ∈ y.owner) :
    ∃ k, ∀ i, accElem (lostYard taken lc y) n i = BitVec.setWidth 32 (Config.freeValue (k + i)) := by
  have hown : n ∈ ownedAccs y lc := List.mem_map.mpr ⟨(n, lc + 1), List.mem_filter.mpr ⟨hn, by simp⟩, rfl⟩
  obtain ⟨k, hk⟩ := look_foldl_put (fun j => taken + accElems * j) (ownedAccs y lc).zipIdx y.lost (a := n)
    (.inr (by rw [List.zipIdx_map_fst]; exact hown))
  have hacc : getD [] (lostYard taken lc y).acc n = [] := by
    have h := getD_filter_key ([] : Sparse (BitVec 32)) (fun j => !(ownedAccs y lc).contains j) y.acc n
    rw [if_neg (by simpa using hown)] at h
    exact h
  have hlost : look (lostYard taken lc y).lost n = some k := hk
  refine ⟨k, fun i => ?_⟩
  rw [accElem, hacc, getD_nil, lostElem, hlost, BitVec.zero_xor]

/-! ### A core that retires -/

theorem freeHost_eq (s : State) (host : Option Nat) : ∃ ph, freeHost s host = { s with phys := ph } := by
  cases host with
  | none => exact ⟨s.phys, rfl⟩
  | some n => exact ⟨_, rfl⟩

/-- Of a physical core, freeHost changes the start of its idle time alone. -/
theorem freeHost_phys (s : State) (host : Option Nat) (p : Nat) :
    physOf (freeHost s host) p =
      { physOf s p with idleSince := if host = some p then s.ticks else (physOf s p).idleSince } := by
  cases host with
  | none => rfl
  | some n =>
    rw [freeHost, physOf_modPhys]
    split
    · next h => subst h; simp
    · next h => rw [if_neg (by simpa using Ne.symm h)]

/-- A physical core whose logical core has retired: it is idle from now on, keeps the contexts' registers, and the ways for
the task at a record that waits for its placement. -/
def leftPhys (s : State) (lc keep : Nat) (q : PCore) : PCore :=
  { q with idleSince := s.ticks
           rest := leaveRest (coreOf s lc) q.rest
           kept := if keep ≠ 0 ∧ awaitsPlacement s (asidOf s lc) keep = true then
               some ⟨keep, asidOf s lc, lcnOf lc, (coreOf s lc).ways, (coreOf s lc).stash, keptTiles (coreOf s lc),
                 s.ticks⟩
             else q.kept }

/-- The words that wait in a logical core's queues. -/
def queuedWords (c : LCore) : Nat := c.queues.foldl (fun n q => n + q.2.length) 0

theorem queuedWords_eq (c : LCore) : queuedWords c = (c.queues.map (fun q => q.2.length)).sum := by
  have h : ∀ (l : Sparse (List Word)) (k : Nat),
      l.foldl (fun n q => n + q.2.length) k = k + (l.map (fun q => q.2.length)).sum := fun l => by
    induction l with
    | nil => exact fun _ => rfl
    | cons q l ih => exact fun k => by rw [List.foldl_cons, ih, List.map_cons, List.sum_cons, Nat.add_assoc]
  rw [queuedWords, h, Nat.zero_add]

/-- The words of a logical core's queues count as dropped by its task (R125, R290). -/
def wordsDropped (s : State) (lc : Nat) : State :=
  modTask s (taskNum lc) (fun t => { t with dropped := t.dropped + queuedWords (coreOf s lc) })

/-- The state before the core's own entry is cleared: its words are counted, its accumulators lost. -/
def droppedState (s : State) (lc : Nat) : State := loseAccs (wordsDropped s lc) lc (yardNum (homePhys (coreOf s lc)))

/-- The state before the core's own entry is cleared, with what it leaves on its physical core. -/
def leftState (s : State) (lc keep : Nat) : State :=
  if (standsOn s lc).isNone then droppedState s lc
  else modPhys (droppedState s lc) (homePhys (coreOf s lc)) (leftPhys s lc keep)

/-- The entry of a logical core that has retired. -/
def retiredCore (c : LCore) : LCore := { LCore.reset with retired := true, phys := homePhys c }

theorem retireCore_eq (s : State) (lc keep : Nat) : retireCore s lc keep =
    rearm (freeHost (setCore (leftState s lc keep) lc (retiredCore (coreOf s lc))) (coreOf s lc).storedIn) lc 0 := rfl

section left
variable (s : State) (lc keep : Nat)

/-- The free values aside, what is dropped changes the task and the yard. -/
theorem droppedState_lost : ∃ k n, droppedState s lc =
    { modYard (wordsDropped s lc) (yardNum (homePhys (coreOf s lc))) (lostYard k lc) with taken := n } := ⟨_, _, rfl⟩

/-- The parts of the state that the loss of words and accumulators does not touch. -/
theorem droppedState_eq : ∃ ts ys n, droppedState s lc = { s with tasks := ts, yards := ys, taken := n } := by
  obtain ⟨k, n, h⟩ := droppedState_lost s lc
  rw [h, wordsDropped, modTask_eq]
  exact ⟨_, _, n, rfl⟩

theorem leftState_eq : ∃ ts ys n ph,
    leftState s lc keep = { s with tasks := ts, yards := ys, taken := n, phys := ph } := by
  obtain ⟨ts, ys, n, h⟩ := droppedState_eq s lc
  unfold leftState
  rw [h]
  split
  · exact ⟨ts, ys, n, s.phys, rfl⟩
  · exact ⟨ts, ys, n, _, rfl⟩

theorem leftState_tasks : (leftState s lc keep).tasks = (droppedState s lc).tasks := by
  unfold leftState
  split <;> rfl

theorem leftState_yards : (leftState s lc keep).yards = (droppedState s lc).yards := by
  unfold leftState
  split <;> rfl

theorem droppedState_taskOf : taskOf (droppedState s lc) (taskNum lc) =
    (taskOf s (taskNum lc)).map (fun t => { t with dropped := t.dropped + queuedWords (coreOf s lc) }) := by
  obtain ⟨k, n, h⟩ := droppedState_lost s lc
  rw [h]
  exact (taskOf_modTask _ _ _ _).trans (if_pos rfl)

theorem droppedState_yardOf : ∃ k, yardOf (droppedState s lc) (yardNum (homePhys (coreOf s lc))) =
    lostYard k lc (yardOf s (yardNum (homePhys (coreOf s lc)))) := by
  obtain ⟨k, n, h⟩ := droppedState_lost s lc
  rw [h, wordsDropped, modTask_eq]
  exact ⟨k, (yardOf_modYard _ _ _ _).trans (if_pos rfl)⟩

end left

section retired
variable (s : State) (lc keep : Nat)

/-- What follows once the core's entry is cleared touches physical cores and halt groups alone. -/
theorem retireCore_fields : ∃ ph tr, retireCore s lc keep =
    { setCore (leftState s lc keep) lc (retiredCore (coreOf s lc)) with phys := ph, tripped := tr } := by
  obtain ⟨ph, h⟩ := freeHost_eq (setCore (leftState s lc keep) lc (retiredCore (coreOf s lc))) (coreOf s lc).storedIn
  rw [retireCore_eq, h]
  exact ⟨ph, _, rfl⟩

theorem retireCore_coreOf (k : Nat) :
    coreOf (retireCore s lc keep) k = if k = lc then retiredCore (coreOf s lc) else coreOf s k := by
  obtain ⟨ph, tr, h⟩ := retireCore_fields s lc keep
  obtain ⟨ts, ys, n, ph', h'⟩ := leftState_eq s lc keep
  rw [h, h']
  exact coreOf_setCore _ _ _ _

theorem retireCore_taskOf : taskOf (retireCore s lc keep) (taskNum lc) =
    (taskOf s (taskNum lc)).map (fun t => { t with dropped := t.dropped + queuedWords (coreOf s lc) }) := by
  obtain ⟨ph, tr, h⟩ := retireCore_fields s lc keep
  rw [h, ← droppedState_taskOf, taskOf, taskOf, ← leftState_tasks s lc keep]
  rfl

theorem retireCore_yardOf : ∃ k, yardOf (retireCore s lc keep) (yardNum (homePhys (coreOf s lc))) =
    lostYard k lc (yardOf s (yardNum (homePhys (coreOf s lc)))) := by
  obtain ⟨ph, tr, h⟩ := retireCore_fields s lc keep
  obtain ⟨k, hk⟩ := droppedState_yardOf s lc
  refine ⟨k, hk ▸ ?_⟩
  rw [h, yardOf, yardOf, ← leftState_yards s lc keep]
  rfl

/-- A core that stands somewhere has its accumulators there. -/
theorem homePhys_of_standsOn {s : State} {lc p : Nat} (h : standsOn s lc = some p) : homePhys (coreOf s lc) = p := by
  simp only [standsOn] at h
  split at h
  · next hl =>
    rw [homePhys, if_neg (by omega)]
    exact Option.some.inj h
  · exact absurd h (by simp)

theorem retireCore_physOf {p : Nat} (h : standsOn s lc = some p) :
    physOf (retireCore s lc keep) p = leftPhys s lc keep (physOf s p) := by
  have hleft : leftState s lc keep = modPhys (droppedState s lc) p (leftPhys s lc keep) := by
    rw [leftState, h, homePhys_of_standsOn h]
    rfl
  obtain ⟨ts, ys, n, hd⟩ := droppedState_eq s lc
  have hp : physOf (leftState s lc keep) p = leftPhys s lc keep (physOf s p) := by
    rw [hleft, physOf_modPhys, if_pos rfl, hd]
    rfl
  have ht : (leftState s lc keep).ticks = s.ticks := by rw [hleft, hd]; rfl
  have hf := freeHost_phys (setCore (leftState s lc keep) lc (retiredCore (coreOf s lc))) (coreOf s lc).storedIn p
  rw [retireCore_eq]
  refine Eq.trans hf ?_
  rw [setCore_ticks, ht, show physOf (setCore (leftState s lc keep) lc (retiredCore (coreOf s lc))) p =
    physOf (leftState s lc keep) p from rfl, hp]
  simp [leftPhys]

end retired

end Sys2Proof.Machine
end

section
/-! SUPPORT. HALT.keep (R46, R119, R290, R291): the release of a head whose holds have ended, and its logical core's
retirement. -/

namespace Sys2Proof.Machine

/-! ### A release after the holds have ended (R166, R167) -/

section view
variable {s t : State} (h : SameView s t)
include h

theorem SameView.mapLine (lc : Nat) (m : Mapping) (i : Nat) (p : Page) : mapLine t lc m i p = mapLine s lc m i p := by
  simp only [Machine.mapLine, stashNat, stashByte, h.stash]

theorem SameView.outLine (w : WriteReq) (p : Page) : outLine t w p = outLine s w p := by
  simp only [Machine.outLine, coreDirty, cacheDirty, mappingOf, h.mapLine, h.l1, h.l2, h.maps, h.coreDie]

theorem SameView.releaseWrites (lc c scope : Nat) (all : Bool) :
    releaseWrites t lc c scope all = releaseWrites s lc c scope all := by
  have hm : mapWrites t lc c (scopeDest scope) all = mapWrites s lc c (scopeDest scope) all := by
    funext m
    simp only [mapWrites, h.mapLine, h.asid, h.map.translate]
  simp only [Machine.releaseWrites, hm, h.l1, h.l2, h.maps, h.coreDie]

theorem SameView.crossing (hw : t.writes = s.writes) (lc : Nat) (d : WriteDest) : crossing t lc d = crossing s lc d := by
  simp only [Machine.crossing, hw, h.outLine]

end view

theorem endHoldsOf_writes (s : State) (lc c : Nat) : (endHoldsOf s lc c).writes = s.writes := by
  obtain ⟨ml, h⟩ := endHoldsOf_eq s lc c
  rw [h]
  rfl

theorem endHoldsOf_engineBusy (s : State) (lc c : Nat) : engineBusy (endHoldsOf s lc c) lc = engineBusy s lc := by
  obtain ⟨ml, h⟩ := endHoldsOf_eq s lc c
  rw [h]
  rfl

/-- A release that is complete stays so when its context's holds end. -/
theorem ReleaseComplete.endHolds {s : State} {scope : Nat} {all : Bool} (h : ReleaseComplete s scope all) :
    ReleaseComplete (endHoldsOf s s.cur.1 s.cur.2) scope all := by
  have hv := endHoldsOf_view s s.cur.1 s.cur.2
  have hw := endHoldsOf_writes s s.cur.1 s.cur.2
  refine ⟨by rw [endHoldsOf_me]; exact h.done, ?_, ?_⟩
  · rw [writesOut, hw, endHoldsOf_cur]
    exact h.landed
  · rw [endHoldsOf_me, endHoldsOf_cur, hv.releaseWrites, hv.crossing hw]
    exact h.sent

/-! ### The core about to retire -/

/-- A logical core without its contexts. -/
def noCtxs (c : LCore) : LCore := { c with ctxs := [] }

/-- A logical core with another context in the place of one. -/
def putCtx (k : LCore) (c : Nat) (x : Ctx) : LCore := { k with ctxs := setD Ctx.reset k.ctxs c x }

@[simp] theorem noCtxs_putCtx (k : LCore) (c : Nat) (x : Ctx) : noCtxs (putCtx k c x) = noCtxs k := rfl

theorem putCtx_distinct {k : LCore} {c : Nat} {x : Ctx} (h : (keys k.ctxs).Nodup) : (keys (putCtx k c x).ctxs).Nodup :=
  keys_setD_nodup h

theorem coreOf_setCtx (s : State) (lc c k : Nat) (x : Ctx) :
    coreOf (setCtx s lc c x) k = if k = lc then putCtx (coreOf s lc) c x else coreOf s k := coreOf_setCore _ _ _ _

theorem consume_putCtx (n : Nat) (ps : List Nat) (k : LCore) (c : Nat) (x : Ctx) :
    ps.foldl (consumePort n) (putCtx k c x) = putCtx (ps.foldl (consumePort n) k) c x := by
  induction ps generalizing k with
  | nil => rfl
  | cons p ps ih => exact ih (consumePort n k p)

theorem endHoldsOf_coreOf (s : State) (lc c k : Nat) : coreOf (endHoldsOf s lc c) k =
    if k = lc then putCtx (coreOf s lc) c (lostCtx s lc c (ctxOf s lc c)) else coreOf s k := by
  obtain ⟨ml, h⟩ := endHoldsOf_eq s lc c
  rw [h]
  exact coreOf_setCtx _ _ _ _ _

/-- What a core that is about to retire has changed from r: its head's holds and its pending extension. -/
structure ReadyToRetire (r w : State) : Prop where
  others : ∀ k, k ≠ r.cur.1 → coreOf w k = coreOf r k
  core : noCtxs (coreOf w r.cur.1) = noCtxs (coreOf r r.cur.1)
  head : ctxOf w r.cur.1 r.cur.2 = endExtension (lostCtx r r.cur.1 r.cur.2 (me r))
  distinct : (keys (myCore r).ctxs).Nodup → (keys (coreOf w r.cur.1).ctxs).Nodup
  tasks : w.tasks = r.tasks
  yards : w.yards = r.yards
  ticks : w.ticks = r.ticks
  phys : SamePhys r w

/-- The state in which a head's logical core retires: its holds have ended, what the HALT reads is consumed, it is counted,
and its pending extension is gone. -/
def retiring (s : State) (srcs : List Opnd) : State :=
  modMe (countIssue (consumePorts (endHoldsOf s s.cur.1 s.cur.2) srcs) 0x02) endExtension

theorem consumePorts_cur (s : State) (srcs : List Opnd) : (consumePorts s srcs).cur = s.cur := rfl

/-- What a HALT reads is consumed whether its context's holds have ended or not. -/
theorem consume_endHolds_coreOf (s : State) (srcs : List Opnd) (k : Nat) :
    coreOf (consumePorts (endHoldsOf s s.cur.1 s.cur.2) srcs) k =
      if k = s.cur.1 then
        putCtx (coreOf (consumePorts s srcs) s.cur.1) s.cur.2 (lostCtx s s.cur.1 s.cur.2 (me s))
      else coreOf (consumePorts s srcs) k := by
  rw [consumePorts, consumePorts, endHoldsOf_cur]
  by_cases hk : k = s.cur.1
  · rw [if_pos hk, hk, coreOf_modCore_same, coreOf_modCore_same, endHoldsOf_coreOf, if_pos rfl]
    exact consume_putCtx _ _ _ _ _
  · rw [if_neg hk, coreOf_modCore, if_neg hk, coreOf_modCore, if_neg hk, endHoldsOf_coreOf, if_neg hk]

/-- Counting apart, `retiring` changes the current context alone. -/
theorem retiring_coreOf (s : State) (srcs : List Opnd) (k : Nat) : coreOf (retiring s srcs) k =
    if k = s.cur.1 then
      putCtx (putCtx (coreOf (consumePorts s srcs) s.cur.1) s.cur.2 (lostCtx s s.cur.1 s.cur.2 (me s))) s.cur.2
        (endExtension (lostCtx s s.cur.1 s.cur.2 (me s)))
    else coreOf (consumePorts s srcs) k := by
  have hu := consume_endHolds_coreOf s srcs
  have hme : me (consumePorts (endHoldsOf s s.cur.1 s.cur.2) srcs) = lostCtx s s.cur.1 s.cur.2 (me s) := by
    rw [consumePorts_me, endHoldsOf_me]
  have hcur : (consumePorts (endHoldsOf s s.cur.1 s.cur.2) srcs).cur = s.cur :=
    (consumePorts_cur _ _).trans (endHoldsOf_cur s s.cur.1 s.cur.2)
  rw [retiring]
  generalize consumePorts (endHoldsOf s s.cur.1 s.cur.2) srcs = u at hu hme hcur ⊢
  have hcnt := countIssue_counted u 0x02
  rw [modMe, setMe, coreOf_setCtx, hcnt.cur, hcnt.coreOf, hcnt.coreOf, hcnt.me, hcur, hu, hu, if_pos rfl, hme]
  by_cases hk : k = s.cur.1
  · rw [if_pos hk, if_pos hk]
  · rw [if_neg hk, if_neg hk, if_neg hk]

/-- Tasks, yards and the clock stand as they stood. -/
theorem retiring_rest (s : State) (srcs : List Opnd) :
    (retiring s srcs).tasks = s.tasks ∧ (retiring s srcs).yards = s.yards ∧ (retiring s srcs).ticks = s.ticks ∧
      SamePhys s (retiring s srcs) := by
  obtain ⟨ml, h⟩ := endHoldsOf_eq s s.cur.1 s.cur.2
  rw [retiring, h]
  obtain ⟨u, hu⟩ : ∃ u,
      consumePorts { modCtx s s.cur.1 s.cur.2 (lostCtx s s.cur.1 s.cur.2) with mills := ml } srcs = u := ⟨_, rfl⟩
  have ht : u.tasks = s.tasks := by rw [← hu]; rfl
  have hy : u.yards = s.yards := by rw [← hu]; rfl
  have hk : u.ticks = s.ticks := by rw [← hu]; rfl
  have hph : SamePhys s u := .of_phys (by rw [← hu]; rfl)
  have hq := (countIssue_counted u 0x02).quiet
  rw [hu, modMe_tasks, modMe_yards, modMe_ticks]
  exact ⟨(hq.get State.tasks).trans ht, (hq.get State.yards).trans hy, (hq.get State.ticks).trans hk,
    (hph.trans (countIssue_samePhys u 0x02)).trans (.of_phys rfl)⟩

theorem retiring_ready (s : State) (srcs : List Opnd) : ReadyToRetire (consumePorts s srcs) (retiring s srcs) := by
  have hcore := retiring_coreOf s srcs
  obtain ⟨htask, hyard, htick, hphys⟩ := retiring_rest s srcs
  generalize retiring s srcs = w at hcore htask hyard htick hphys ⊢
  refine ⟨fun k hk => ?_, ?_, ?_, fun hn => ?_, htask, hyard, htick, hphys⟩
  · rw [hcore]; exact if_neg hk
  · rw [consumePorts_cur, hcore, if_pos rfl, noCtxs_putCtx, noCtxs_putCtx]
  · rw [consumePorts_cur, ctxOf, hcore, if_pos rfl, putCtx, getD_setD_same, consumePorts_me]
    rfl
  · rw [consumePorts_cur, hcore, if_pos rfl]
    exact putCtx_distinct (putCtx_distinct hn)

/-! ### What has retired -/

section retired
variable {r w : State} (h : ReadyToRetire r w)
include h

theorem ReadyToRetire.part {α : Type} (f : LCore → α) (hf : ∀ c, f c = f (noCtxs c)) :
    f (coreOf w r.cur.1) = f (coreOf r r.cur.1) := by rw [hf, h.core, ← hf]

theorem ReadyToRetire.standsOn : standsOn w r.cur.1 = standsOn r r.cur.1 :=
  h.part (fun c => if c.lstate = 1 ∨ c.lstate = 2 ∨ c.lstate = 3 then some c.phys else none) fun _ => rfl

/-- The head's registers after the retirement of its core (R49, R119). -/
theorem ReadyToRetire.rest {p keep : Nat} (h0 : r.cur.2 = 0) (hp : Machine.standsOn r r.cur.1 = some p)
    (hl : (me r).live = true) (hn : (keys (myCore r).ctxs).Nodup) :
    getD Ctx.reset (physOf (retireCore w r.cur.1 keep) p).rest (if (myCore r).half then 5 else 0) =
      restCtx (endExtension (lostCtx r r.cur.1 r.cur.2 (me r))) := by
  have hhead : getD Ctx.reset (coreOf w r.cur.1).ctxs 0 = endExtension (lostCtx r r.cur.1 r.cur.2 (me r)) := by
    rw [← h.head, h0]; rfl
  have hlive : (getD Ctx.reset (coreOf w r.cur.1).ctxs 0).live = true := by rw [hhead, ← hl]; generalize me r = x; rfl
  rw [retireCore_physOf w r.cur.1 keep (h.standsOn.trans hp), ← hhead, ← leaveRest_head (h.distinct hn) hlive,
    h.part LCore.half fun _ => rfl]
  rfl

theorem ReadyToRetire.retired {task : Task} (h0 : r.cur.2 = 0) (ht : taskOf r (taskNum r.cur.1) = some task) (keep : Nat) :
    Retired r (retireCore w r.cur.1 keep) task := by
  have hhome : homePhys (coreOf w r.cur.1) = homePhys (myCore r) := h.part homePhys fun _ => rfl
  obtain ⟨k, hk⟩ := retireCore_yardOf w r.cur.1 keep
  rw [hhome, show yardOf w _ = yardOf r _ by rw [yardOf, h.yards, ← yardOf]] at hk
  refine ⟨?_, fun lc hlc => ?_, ?_, ?_, fun e he hown => ?_, fun p hp hl hn => ?_⟩
  · rw [retireCore_coreOf, if_pos rfl, retiredCore, hhome]
  · rw [retireCore_coreOf, if_neg hlc, h.others lc hlc]
  · rw [retireCore_taskOf, taskOf, h.tasks, ← taskOf, ht, h.part queuedWords fun _ => rfl, queuedWords_eq]
    rfl
  · rw [hk]
    exact lostYard_freed k r.cur.1 _
  · rw [hk]
    exact lostYard_lost k r.cur.1 _ (hown ▸ he)
  · rw [h.rest h0 hp hl hn]
    generalize me r = x
    refine ⟨rfl, rfl, rfl, rfl, rfl, fun n hn => yreg_lostCtx r _ _ _ hn, fun i => ?_, rfl, rfl, rfl, rfl, rfl, rfl⟩
    have hb := bit_setBits x.barst 0 i (show 0 ≤ 7 by decide) (by decide)
    simp only [Nat.zero_testBit, Nat.zero_le, true_and] at hb
    refine hb.trans ?_
    by_cases h8 : 8 ≤ i
    · rw [if_neg (by omega), decide_eq_true h8, Bool.true_and, bit_eq_getLsbD]
    · rw [if_pos (by omega), decide_eq_false h8, Bool.false_and]

end retired

/-! ### HALT.keep -/

/-- A head with all its helpers halted, nothing of its core in the engines and its release complete retires its core. -/
theorem haltHead_retires {s : State} (h0 : s.cur.2 = 0) (hh : helpersDone s s.cur.1 = true)
    (hb : engineBusy s s.cur.1 = false) (hr : ReleaseComplete s scopeSys true) (keep : Nat) (srcs : List Opnd) :
    haltHead keep srcs (endHoldsOf s s.cur.1 s.cur.2) = .next (retireCore (retiring s srcs) s.cur.1 keep) := by
  have hd : helpersDone (endHoldsOf s s.cur.1 s.cur.2) s.cur.1 = true := by rw [h0, endHoldsOf_helpersDone, hh]
  rw [haltHead, endHoldsOf_cur, hd, endHoldsOf_engineBusy, hb, tryRelease_done hr.endHolds, retiring]
  rfl

theorem exec_haltKeep (a : Opnd) (s : State) : exec (.haltKeep a) s = execHaltKeep a s := rfl

section keep
variable {a : Opnd} {s : State}

theorem execHaltKeep_helper (hh : allHeld (me s) ⟨[a], none, [], []⟩ = true) (h0 : s.cur.2 ≠ 0) :
    execHaltKeep a s = trap s causeIllegalInsn :=
  if_pos (by simp [hh, h0])

theorem execHaltKeep_unheld (hh : allHeld (me s) ⟨[a], none, [], []⟩ = false) :
    execHaltKeep a s = trap s causeIllegalReg := by
  rw [execHaltKeep, hh, issue_unheld hh]
  rfl

variable (h0 : s.cur.2 = 0) (hi : Issues ⟨[a], none, [], []⟩ s)
include h0 hi

theorem execHaltKeep_head : execHaltKeep a s =
    if (valB s a).toNat ≠ 0 ∧ (valB s a).toNat % 128 ≠ 0 then trapAddr s causeMisaligned (valB s a).toNat
    else haltSteps (valB s a).toNat [a] s := by
  rw [execHaltKeep, issue_ready hi, if_neg (by simp [h0])]

end keep

/-- HALT reads nothing, so that its core is ready as it stands. -/
theorem retiring_ready_halt (s : State) : ReadyToRetire s (retiring s []) := by
  have h := retiring_ready s []
  have hc : ∀ k, coreOf (consumePorts s []) k = coreOf s k := fun k => by
    rw [consumePorts, coreOf_modCore]
    split
    · next hk => rw [hk]; rfl
    · rfl
  generalize retiring s [] = w at h ⊢
  exact ⟨fun k hk => (h.others k hk).trans (hc k), h.core.trans (congrArg noCtxs (hc _)),
    h.head.trans (by rw [consumePorts_me]; rfl), fun hn => h.distinct (by rwa [myCore, hc]), h.tasks, h.yards, h.ticks,
    h.phys⟩

/-- HALT of the last head retires its core as R119 and R290 say: it is the second clause of O20 alone that fails
(`not_headHaltRetiresCore`). -/
theorem halt_retires {s : State} {task : Task} (h0 : s.cur.2 = 0) (hs : (me s).stage = .idle)
    (hr : haltReady s s.cur.1 0 = true) (hw : (me s).walkFaults = []) (ht : taskOf s (taskNum s.cur.1) = some task)
    (hh : helpersDone s s.cur.1 = true) (hb : engineBusy s s.cur.1 = false) (hrel : ReleaseComplete s scopeSys true) :
    ∃ t, exec .halt s = .next t ∧ Retired s t task := by
  rw [← h0] at hr
  rw [exec_halt, haltSteps_ready hs hr hw, if_neg (not_not_intro h0), haltHead_retires h0 hh hb hrel]
  exact ⟨_, rfl, (retiring_ready_halt s).retired h0 ht 0⟩

/-- The physical core of a head that has retired by HALT.keep: idle from now on, with the ways kept for the successor. -/
theorem retiring_leftPhys (s : State) (srcs : List Opnd) {p keep : Nat} (hp : standsOn s s.cur.1 = some p) :
    (physOf (retireCore (retiring s srcs) s.cur.1 keep) p).idleSince = s.ticks ∧
    (physOf (retireCore (retiring s srcs) s.cur.1 keep) p).kept =
      if keep ≠ 0 ∧ awaitsPlacement s (asidOf s s.cur.1) keep = true then
        some ⟨keep, asidOf s s.cur.1, lcnOf s.cur.1, (myCore s).ways, (myCore s).stash, keptTiles (myCore s), s.ticks⟩
      else (physOf s p).kept := by
  have hw := retiring_ready s srcs
  generalize retiring s srcs = w at hw ⊢
  have hpart : ∀ {α : Type} (f : LCore → α), (∀ c, f c = f (stripCore c)) → f (coreOf w s.cur.1) = f (myCore s) :=
    fun f hf => (hw.part f fun c => (hf c).trans (hf (noCtxs c)).symm).trans
      ((consumePorts_quiet s srcs).part f hf s.cur.1)
  have hstands : standsOn w s.cur.1 = some p := (hpart (fun c => if c.lstate = 1 ∨ c.lstate = 2 ∨ c.lstate = 3
    then some c.phys else none) fun _ => rfl).trans hp
  have hticks : w.ticks = s.ticks := hw.ticks
  have htasks : w.tasks = s.tasks := hw.tasks
  have hasid : asidOf w s.cur.1 = asidOf s s.cur.1 := by rw [asidOf_eq, taskOf, htasks, ← taskOf, ← asidOf_eq]
  rw [retireCore_physOf w s.cur.1 keep hstands]
  refine ⟨hticks, ?_⟩
  rw [leftPhys, hasid, hticks, awaitsPlacement, htasks, ← awaitsPlacement, hpart LCore.ways fun _ => rfl,
    hpart LCore.stash fun _ => rfl, hpart keptTiles fun _ => rfl, hw.phys.part PCore.kept (fun _ => rfl) p]
  rfl

/-- Settles O21: past its checks HALT.keep takes HALT's steps, and the physical core keeps what `leftPhys` says. -/
theorem haltKeepRetainsWays : Obligations.HaltKeepRetainsWays := by
  refine ⟨fun a s h0 hh => ?_, fun a s hh => ?_, fun a s h0 hi hv hm => ?_,
    fun a s task p h0 hi hm hs hr hw ht hh hb hrel hp => ?_⟩
  · rw [exec_haltKeep, execHaltKeep_helper hh h0]
    exact trap_trapped s (by decide)
  · rw [exec_haltKeep, execHaltKeep_unheld hh]
    exact trap_trapped s (by decide)
  · rw [exec_haltKeep, execHaltKeep_head h0 hi, if_pos ⟨hv, hm⟩]
    exact trapAddr_trapped s _ (by decide)
  · rw [← h0] at hr
    rw [exec_haltKeep, execHaltKeep_head h0 hi, if_neg fun h => h.2 hm, haltSteps_ready hs hr hw,
      if_neg (not_not_intro h0), haltHead_retires h0 hh hb hrel]
    exact ⟨_, rfl, (retiring_ready s [a]).retired h0 ht _, retiring_leftPhys s [a] hp⟩

end Sys2Proof.Machine
end

section
/-! SUPPORT. How a vector instruction completes (R77, R83, R133, R137): past its checks it counts, ungates its core's
lanes and ends by a change of its own context. -/

namespace Sys2Proof.Machine

/-- Ungating the lanes changes no register of a unit that a context can read (R155). -/
theorem ungate_counted (s : State) : Counted s (ungate s) := by
  unfold ungate
  split
  · exact counted_modPhys s _ _ fun _ => rfl
  · exact .refl s

/-- A vector instruction whose registers may issue and whose tags it takes runs its effect. -/
theorem vIssue_ready {n : Names} {s : State} {ok : Ctx → Bool} (h : Issues n s) (ho : ok (me s) = true)
    (k : State → Res) : vIssue n ok s k = k s := by
  rw [vIssue, ho, Bool.not_true, Bool.and_false]
  exact issue_ready h k

theorem vFinish_changed (n : Names) (len : Nat) (d : F6) (r : VRes) (s : State) :
    ∃ t, vFinish n len d r s = .next t ∧
      Changed n s t (fun x =>
        { setVreg x d.toNat r.tag r.data with fmode := x.fmode ||| flagBits r.flags, srg := r.srg })
        ((me s).pc + word len) :=
  finishCtx_own n len ((countV_counted s).trans (ungate_counted _)) _

/-- Settles O29: every row is `vector` of its result, which `vFinish` writes. -/
theorem vectorInstructionsComplete : Obligations.VectorInstructionsComplete := by
  intro i r s hr hi ho
  rw [exec_vectorRow hr, vector, vIssue_ready hi ho]
  exact vFinish_changed r.names r.len r.d (r.res s) s

end Sys2Proof.Machine
end

section
/-! SUPPORT. A register by its lanes (R61, R86): what `elem` reads of packed lanes, and the lanes that `runLanes`
computes in ascending order, each with the generator that the lanes before it have left (R83). -/

namespace Sys2Proof.Machine

/-! ### Lanes of a register (R61, R86) -/

theorem elem_eq (x : Vec) (t : Tag) (i : Nat) : elem x t i = x.toNat / 2 ^ (i * width t) % 2 ^ width t := by
  rw [elem, BitVec.toNat_ushiftRight, Nat.shiftRight_eq_div_pow]

theorem elem_lt (x : Vec) (t : Tag) (i : Nat) : elem x t i < 2 ^ width t := Nat.mod_lt _ (Nat.two_pow_pos _)

theorem width_pos (t : Tag) : 0 < width t := by cases t <;> decide

theorem two_pow_width (t : Tag) : 2 ^ width t = 2 * 2 ^ (width t - 1) := by
  rw [← Nat.pow_succ', Nat.succ_eq_add_one, Nat.sub_add_cancel (width_pos t)]

theorem lanes_mul_width_le (t : Tag) : lanes t * width t ≤ 512 := by cases t <;> decide

theorem packLanes_lane (w : Nat) (xs : List Nat) (i : Nat) :
    packLanes w xs / 2 ^ (i * w) % 2 ^ w = xs.getD i 0 % 2 ^ w := by
  induction xs generalizing i with
  | nil => simp [packLanes]
  | cons x xs ih =>
    cases i with
    | zero => simp [packLanes, Nat.add_mul_mod_self_left]
    | succ i =>
      have hdiv : (x % 2 ^ w + 2 ^ w * packLanes w xs) / 2 ^ w = packLanes w xs := by
        rw [Nat.add_mul_div_left _ _ (Nat.two_pow_pos w), Nat.div_eq_of_lt (Nat.mod_lt _ (Nat.two_pow_pos w)), zero_add]
      rw [packLanes, Nat.succ_mul, Nat.add_comm (i * w), Nat.pow_add, ← Nat.div_div_eq_div_mul, hdiv, ih,
        List.getD_cons_succ]

/-- A field below bit n of a number is that of its low n bits. -/
theorem mod_two_pow_div_mod {n k w : Nat} (h : k + w ≤ n) (x : Nat) :
    x % 2 ^ n / 2 ^ k % 2 ^ w = x / 2 ^ k % 2 ^ w := by
  apply Nat.eq_of_testBit_eq
  intro j
  simp only [Nat.testBit_mod_two_pow, Nat.testBit_div_two_pow]
  by_cases hj : j < w
  · rw [decide_eq_true (show j + k < n by omega)]
    simp
  · simp [hj]

theorem elem_vecOf {t : Tag} {i : Nat} (h : (i + 1) * width t ≤ 512) (xs : List Nat) :
    elem (vecOf t xs) t i = xs.getD i 0 % 2 ^ width t := by
  rw [elem_eq, vecOf, BitVec.toNat_ofNat, mod_two_pow_div_mod (n := 512) ((Nat.succ_mul i (width t)).symm.le.trans h),
    packLanes_lane]

theorem lane_fits {t : Tag} {i : Nat} (h : i < lanes t) : (i + 1) * width t ≤ 512 :=
  (Nat.mul_le_mul_right _ h).trans (lanes_mul_width_le t)

/-! ### Lanes computed in ascending order (R83) -/

section run
variable (g : Word) (f : Nat → Word → Nat × Flags × Word)

/-- What lane i computes from the generator that the lanes before it have left. -/
def laneOut (i : Nat) : Nat × Flags × Word := f i (runLanes i g f).srg

theorem runLanes_succ (n : Nat) : runLanes (n + 1) g f =
    ⟨(laneOut g f n).1 :: (runLanes n g f).out, (laneOut g f n).2.2,
      orFlags (runLanes n g f).flags (laneOut g f n).2.1⟩ := by
  unfold laneOut runLanes
  rw [List.range_succ, List.foldl_append]
  rfl

theorem runLanes_out (n : Nat) : (runLanes n g f).out.reverse = (List.range n).map fun i => (laneOut g f i).1 := by
  induction n with
  | zero => rfl
  | succ n ih => rw [runLanes_succ, List.reverse_cons, ih, List.range_succ, List.map_append]; rfl

variable {g f}

theorem lanesRes_elem {t : Tag} {n i : Nat} (hn : i < n) (h : (i + 1) * width t ≤ 512) :
    elem (lanesRes t (runLanes n g f)).data t i = (laneOut g f i).1 % 2 ^ width t := by
  rw [lanesRes, elem_vecOf h, runLanes_out, List.getD_eq_getElem?_getD, List.getElem?_map, List.getElem?_range hn]
  rfl

/-- A lane whose computation does not use the generator. -/
theorem lanesRes_elem_pure {t : Tag} {n i c : Nat} (hn : i < n) (h : (i + 1) * width t ≤ 512)
    (hc : ∀ h, (f i h).1 = c) (hlt : c < 2 ^ width t) : elem (lanesRes t (runLanes n g f)).data t i = c := by
  rw [lanesRes_elem hn h, laneOut, hc, Nat.mod_eq_of_lt hlt]

theorem runLanes_nv {n i : Nat} (hn : i < n) (h : (laneOut g f i).2.1.nv = true) :
    (runLanes n g f).flags.nv = true := by
  induction n with
  | zero => omega
  | succ n ih =>
    rw [runLanes_succ]
    rcases Nat.lt_succ_iff_lt_or_eq.mp hn with hi | rfl
    · simp [orFlags, ih hi]
    · simp [orFlags, h]

/-- Lanes that leave the generator. -/
theorem runLanes_srg_same (h : ∀ i k, (f i k).2.2 = k) (n : Nat) : (runLanes n g f).srg = g := by
  induction n with
  | zero => rfl
  | succ n ih => rw [runLanes_succ, laneOut, h, ih]

theorem runLanes_noFlags (h : ∀ i k, (f i k).2.1 = noFlags) (n : Nat) : (runLanes n g f).flags = noFlags := by
  induction n with
  | zero => rfl
  | succ n ih => rw [runLanes_succ, laneOut, h, ih]; rfl

theorem lanesRes_quiet {u : Tag} (n : Nat) (h : ∀ i k, (f i k).2 = (noFlags, k)) :
    (lanesRes u (runLanes n g f)).flags = noFlags ∧ (lanesRes u (runLanes n g f)).srg = g ∧
      (lanesRes u (runLanes n g f)).tag = u :=
  ⟨runLanes_noFlags (fun i k => by rw [h]) n, runLanes_srg_same (fun i k => by rw [h]) n, rfl⟩

end run

/-! ### The generator along the lanes (R83) -/

/-- The generator after k rounded lanes: it has stepped only under RSTO. -/
def laneSrg (rm : RoundMode) (g : Word) (k : Nat) : Word := if rm = .rsto then srgNext^[k] g else g

theorem laneSrg_zero (rm : RoundMode) (g : Word) : laneSrg rm g 0 = g := by
  unfold laneSrg
  split <;> rfl

theorem encStep_srg (fm : Word) (rm : RoundMode) (t : Tag) (g : Word) (k : Nat) (v : Val) :
    (encStep fm rm t (laneSrg rm g k) v).2.2 = laneSrg rm g (k + 1) := by
  unfold encStep laneSrg
  split
  · exact (Function.iterate_succ_apply' srgNext k g).symm
  · rfl

theorem srgBits_eq (g : Word) : srgBits g = g.toNat % 2 ^ 24 := by simp [srgBits, bits]

theorem encStep_code (fm : Word) (rm : RoundMode) (t : Tag) (g : Word) (k : Nat) (v : Val) :
    (encStep fm rm t (laneSrg rm g k) v).1 = roundedTo fm t rm g (k + 1) v := by
  unfold encStep laneSrg roundedTo roundBits
  split
  · rw [srgBits_eq, Function.iterate_succ_apply']
  · rfl

/-- The generator before lane n, where the lanes that p picks round and the others leave it. -/
theorem runLanes_srg {rm : RoundMode} {g : Word} {f : Nat → Word → Nat × Flags × Word} {p : Nat → Bool}
    (h : ∀ i k, (f i (laneSrg rm g k)).2.2 = laneSrg rm g (if p i then k + 1 else k)) (n : Nat) :
    (runLanes n g f).srg = laneSrg rm g ((List.range n).countP p) := by
  induction n with
  | zero => exact (laneSrg_zero rm g).symm
  | succ n ih =>
    rw [runLanes_succ, laneOut, ih, h, List.range_succ, List.countP_append, List.countP_singleton]
    split <;> rfl

/-- As runLanes_srg, where every lane rounds. -/
theorem runLanes_srg_all {rm : RoundMode} {g : Word} {f : Nat → Word → Nat × Flags × Word}
    (h : ∀ i k, (f i (laneSrg rm g k)).2.2 = laneSrg rm g (k + 1)) (n : Nat) :
    (runLanes n g f).srg = laneSrg rm g n := by
  rw [runLanes_srg (p := fun _ => true) h, List.countP_true, List.length_range]

end Sys2Proof.Machine
end

section
/-! SUPPORT. Integer lanes (R138, R140, R141, R143 to R145, R148, R150): lanes modulo 2^width, and what each integer
operation leaves in one lane. -/

namespace Sys2Proof.Machine

/-! ### Codes of w bits and the integers they stand for (R60, R86) -/

theorem lowBits_lt (w : Nat) (n : Int) : lowBits w n < 2 ^ w := by
  have h : (0 : Int) < ((2 ^ w : Nat) : Int) := by exact_mod_cast Nat.two_pow_pos w
  have hlt := Int.emod_lt_of_pos n h
  have hnn := Int.emod_nonneg n h.ne'
  unfold lowBits
  omega

theorem lowBits_congr {w : Nat} {m n : Int} (h : m ≡ n [ZMOD ((2 ^ w : Nat) : Int)]) : lowBits w m = lowBits w n :=
  congrArg Int.toNat h

@[simp] theorem lowBits_natCast (w n : Nat) : lowBits w n = n % 2 ^ w := by
  rw [lowBits, ← Int.natCast_emod, Int.toNat_natCast]

/-- Integers that are the same modulo 2^w as a number have its code. -/
theorem lowBits_of_modEq {w n : Nat} {m : Int} (h : m ≡ (n : Int) [ZMOD ((2 ^ w : Nat) : Int)]) :
    lowBits w m = n % 2 ^ w := (lowBits_congr h).trans (lowBits_natCast w n)

theorem lowBits_toInt {w : Nat} (v : BitVec w) : lowBits w v.toInt = v.toNat := by
  rw [lowBits_of_modEq (n := v.toNat), Nat.mod_eq_of_lt v.isLt]
  rw [BitVec.toInt_eq_toNat_bmod]
  exact Int.bmod_emod

theorem sx_eq_toInt_ofNat {w : Nat} (hw : 0 < w) (x : Nat) : sx x w = (BitVec.ofNat w x).toInt := by
  obtain ⟨n, rfl⟩ := Nat.exists_eq_succ_of_ne_zero hw.ne'
  rw [BitVec.toInt_eq_toNat_cond, BitVec.toNat_ofNat, sx, Nat.succ_eq_add_one, Nat.add_sub_cancel]
  refine if_congr ?_ rfl rfl
  rw [Nat.pow_succ]
  omega

theorem sx_modEq (x w : Nat) : sx x w ≡ (x : Int) [ZMOD ((2 ^ w : Nat) : Int)] := by
  have h : ((x % 2 ^ w : Nat) : Int) ≡ x [ZMOD ((2 ^ w : Nat) : Int)] := by
    rw [Int.natCast_emod]; exact Int.mod_modEq _ _
  unfold sx
  dsimp only
  split
  · exact h
  · exact Int.sub_modulus_modEq_iff.mpr h

theorem laneInt_modEq (t : Tag) (x : Nat) : laneInt t x ≡ (x : Int) [ZMOD ((2 ^ width t : Nat) : Int)] := by
  unfold laneInt
  split
  · exact sx_modEq x (width t)
  · rfl

/-- The complement to 2^w stands for the negation. -/
theorem sub_modEq_neg {n y : Nat} (h : y ≤ n) : -(y : Int) ≡ ((n - y : Nat) : Int) [ZMOD (n : Int)] := by
  rw [Nat.cast_sub h]
  exact (Int.modEq_iff_dvd).mpr ⟨1, by ring⟩

/-- Codes of one width that stand for the same integer are the same. -/
theorem laneInt_inj {t : Tag} {x y : Nat} (hx : x < 2 ^ width t) (hy : y < 2 ^ width t) :
    laneInt t x = laneInt t y ↔ x = y := by
  refine ⟨fun h => ?_, congrArg _⟩
  have hm := (laneInt_modEq t x).symm.trans (h ▸ laneInt_modEq t y)
  exact Nat.ModEq.eq_of_lt_of_lt (Int.natCast_modEq_iff.mp hm) hx hy

theorem laneInt_neg_iff {t : Tag} {x : Nat} (hx : x < 2 ^ width t) :
    laneInt t x < 0 ↔ isSigned t = true ∧ 2 ^ (width t - 1) ≤ x := by
  have h := two_pow_width t
  unfold laneInt
  split
  · next hs =>
    rw [sx, Nat.mod_eq_of_lt hx]
    split <;> simp only [hs, true_and] <;> omega
  · next hs => simp [hs]

/-! ### What a lane of an integer result holds -/

/-- The shift amount is taken modulo the width (R143). -/
theorem two_pow_log2Width {t : Tag} (h : isInt t = true) : 2 ^ log2Width t = width t := by
  cases t with
  | i8 | i16 | i32 | n8 | n16 | n32 => decide
  | raw | fp16 | bf16 | fp32 | dm8 | mask => cases h

theorem shiftLane_lt {t : Tag} (k : ShiftKind) {x : Nat} (hx : x < 2 ^ width t) (n : Nat) :
    shiftLane k t x n < 2 ^ width t := by
  cases k with
  | left => exact Nat.mod_lt _ (Nat.two_pow_pos _)
  | right => exact (Nat.div_le_self _ _).trans_lt hx
  | arith => exact lowBits_lt _ _

section shifts
variable {t : Tag} (ht : isInt t = true) (x n : Nat)
include ht

theorem shiftLane_left : shiftLane .left t x n = x * 2 ^ (n % width t) % 2 ^ width t := by
  rw [shiftLane, two_pow_log2Width ht]

theorem shiftLane_right : shiftLane .right t x n = x / 2 ^ (n % width t) := by
  rw [shiftLane, two_pow_log2Width ht]

theorem shiftLane_arith :
    shiftLane .arith t x n = ((BitVec.ofNat (width t) x).sshiftRight (n % width t)).toNat := by
  rw [shiftLane, two_pow_log2Width ht, sx_eq_toInt_ofNat (width_pos t), ← Int.shiftRight_eq_div_pow,
    ← BitVec.toInt_sshiftRight, lowBits_toInt]

end shifts

section lane
variable {t : Tag} {i : Nat} (ht : isInt t = true) (hi : i < lanes t) (fm g e0 : Word) (a b d : Vec)

include hi

theorem vMasked_lane {src : Nat → Nat} (hs : src i < 2 ^ width t) :
    elem (vMasked g e0 t src d).data t i = if bit e0 i then src i else elem d t i := by
  refine lanesRes_elem_pure hi (lane_fits hi) (fun _ => rfl) ?_
  split
  · exact hs
  · exact elem_lt _ _ _

theorem vBroadcast_lane (hm : t ≠ .mask) : elem (vBroadcast g t e0).data t i = e0.toNat % 2 ^ width t := by
  rw [vBroadcast, if_neg hm]
  exact lanesRes_elem_pure hi (lane_fits hi) (fun _ => rfl) (Nat.mod_lt _ (Nat.two_pow_pos _))

include ht in
theorem vArith_int (opI : Int → Int → Int) (opV : RoundMode → Val → Val → Val × Flags) :
    elem (vArith fm g t opI opV a b).data t i =
      lowBits (width t) (opI (laneInt t (elem a t i)) (laneInt t (elem b t i))) :=
  lanesRes_elem_pure hi (lane_fits hi) (fun _ => by rw [if_pos ht]) (lowBits_lt _ _)

include ht in
theorem vFused_int (k : FusedKind) : elem (vFused fm g e0 k t a b d).data t i =
    if bit e0 i then
      lowBits (width t) (fusedInt k (laneInt t (elem a t i)) (laneInt t (elem b t i)) (laneInt t (elem d t i)))
    else elem d t i := by
  refine lanesRes_elem_pure hi (lane_fits hi) (fun _ => ?_) ?_
  · rw [fusedLane, if_pos ht]; split <;> rfl
  · split
    · exact lowBits_lt _ _
    · exact elem_lt _ _ _

include ht in
theorem vPick_int (wantMax : Bool) : elem (vPick fm g t wantMax a b).data t i =
    if wantMax then (if laneInt t (elem a t i) < laneInt t (elem b t i) then elem b t i else elem a t i)
    else (if laneInt t (elem b t i) < laneInt t (elem a t i) then elem b t i else elem a t i) := by
  refine lanesRes_elem_pure hi (lane_fits hi) (fun _ => by rw [pickLane, if_pos ht]) ?_
  split <;> split <;> exact elem_lt _ _ _

include ht in
theorem vSign_int (negate : Bool) : elem (vSign fm g e0 t negate a d).data t i =
    if bit e0 i then lowBits (width t) (if negate then -laneInt t (elem a t i)
      else if isSigned t && decide (laneInt t (elem a t i) < 0) then -laneInt t (elem a t i)
      else laneInt t (elem a t i))
    else elem d t i := by
  refine lanesRes_elem_pure hi (lane_fits hi) (fun _ => ?_) ?_
  · rw [signLane, if_pos ht]; split <;> rfl
  · split
    · exact lowBits_lt _ _
    · exact elem_lt _ _ _

theorem vShift_lane (k : ShiftKind) (amount : Nat → Nat) :
    elem (vShift g k t a amount).data t i = shiftLane k t (elem a t i) (amount i) :=
  lanesRes_elem_pure hi (lane_fits hi) (fun _ => rfl) (shiftLane_lt k (elem_lt _ _ _) _)

end lane

/-! ### Comparisons (R144) -/

theorem lanes_le (t : Tag) : lanes t ≤ 64 := by cases t <;> decide

theorem vCompare_lane {t : Tag} {i : Nat} (hi : i < lanes t) (fm g : Word) (r : Relation) (a b : Vec) :
    elem (vCompare fm g r t a b).data .mask i = if relates r (laneVal fm t a i) (laneVal fm t b i) then 1 else 0 := by
  have hm : (i + 1) * width .mask ≤ 512 := by
    have := lanes_le t
    rw [width]
    omega
  refine lanesRes_elem_pure hi hm (fun _ => rfl) ?_
  split <;> decide

section relates
variable (n m : Bool) (p q : Rat)

@[simp] theorem relates_eq_fin : relates .eq (.fin n p) (.fin m q) = decide (p = q) := rfl

@[simp] theorem relates_lt_fin : relates .lt (.fin n p) (.fin m q) = decide (p < q) := by
  simp [relates, ltVal]

@[simp] theorem relates_le_fin : relates .le (.fin n p) (.fin m q) = decide (p ≤ q) := by
  rw [decide_eq_decide.mpr (le_iff_lt_or_eq (a := p) (b := q)), Bool.decide_or]
  simp [relates, ltVal, eqVal]

end relates

/-- finVal is the finite value q, whatever its sign. -/
theorem finVal_fin (n : Bool) (q : Rat) : ∃ m, finVal n q = .fin m q := by
  unfold finVal
  split
  · next h => exact ⟨n, by rw [h]⟩
  · exact ⟨_, rfl⟩

/-- An integer lane's value is its integer (R86). -/
theorem laneVal_int {t : Tag} (h : isInt t = true) (fm : Word) (a : Vec) (i : Nat) :
    ∃ n, laneVal fm t a i = .fin n (laneInt t (elem a t i)) := by
  have hlt : ((elem a t i % 2 ^ width t : Nat) : Rat) = ((elem a t i : Int) : Rat) := by
    rw [Nat.mod_eq_of_lt (elem_lt a t i), Int.cast_natCast]
  have hv : laneVal fm t a i = finVal false (laneInt t (elem a t i)) := by
    cases t with
    | i8 | i16 | i32 => rfl
    | n8 | n16 | n32 => exact congrArg (finVal false) hlt
    | raw | fp16 | bf16 | fp32 | dm8 | mask => cases h
  rw [hv]
  exact finVal_fin _ _

/-! ### The integer clauses -/

theorem vArith_quiet {t : Tag} (ht : isInt t = true) (fm g : Word) (opI : Int → Int → Int)
    (opV : RoundMode → Val → Val → Val × Flags) (a b : Vec) :
    (vArith fm g t opI opV a b).flags = noFlags ∧ (vArith fm g t opI opV a b).srg = g ∧
      (vArith fm g t opI opV a b).tag = t :=
  lanesRes_quiet _ fun _ _ => by rw [if_pos ht]

theorem vFused_quiet {t : Tag} (ht : isInt t = true) (fm g e0 : Word) (k : FusedKind) (a b d : Vec) :
    (vFused fm g e0 k t a b d).flags = noFlags ∧ (vFused fm g e0 k t a b d).srg = g ∧
      (vFused fm g e0 k t a b d).tag = t :=
  lanesRes_quiet _ fun _ _ => by rw [fusedLane, if_pos ht]; split <;> rfl

section codes
variable {t : Tag} {x y z : Nat} (hx : x < 2 ^ width t) (hy : y < 2 ^ width t) (hz : z < 2 ^ width t)

theorem lowBits_add : lowBits (width t) (laneInt t x + laneInt t y) = (x + y) % 2 ^ width t :=
  lowBits_of_modEq (by rw [Nat.cast_add]; exact (laneInt_modEq t x).add (laneInt_modEq t y))

theorem lowBits_mul : lowBits (width t) (laneInt t x * laneInt t y) = x * y % 2 ^ width t :=
  lowBits_of_modEq (by rw [Nat.cast_mul]; exact (laneInt_modEq t x).mul (laneInt_modEq t y))

theorem lowBits_mul_add : lowBits (width t) (laneInt t x * laneInt t y + laneInt t z) = (x * y + z) % 2 ^ width t :=
  lowBits_of_modEq (by
    rw [Nat.cast_add, Nat.cast_mul]; exact ((laneInt_modEq t x).mul (laneInt_modEq t y)).add (laneInt_modEq t z))

theorem laneInt_neg_modEq {y : Nat} (hy : y < 2 ^ width t) :
    -laneInt t y ≡ ((2 ^ width t - y : Nat) : Int) [ZMOD ((2 ^ width t : Nat) : Int)] :=
  (laneInt_modEq t y).neg.trans (sub_modEq_neg hy.le)

include hx in
theorem lowBits_neg : lowBits (width t) (-laneInt t x) = (2 ^ width t - x) % 2 ^ width t :=
  lowBits_of_modEq (laneInt_neg_modEq hx)

include hy in
theorem lowBits_sub : lowBits (width t) (laneInt t x - laneInt t y) = (x + (2 ^ width t - y)) % 2 ^ width t :=
  lowBits_of_modEq (by rw [Int.sub_eq_add_neg, Nat.cast_add]; exact (laneInt_modEq t x).add (laneInt_neg_modEq hy))

include hz in
theorem lowBits_mul_sub :
    lowBits (width t) (laneInt t x * laneInt t y - laneInt t z) = (x * y + (2 ^ width t - z)) % 2 ^ width t :=
  lowBits_of_modEq (by
    rw [Int.sub_eq_add_neg, Nat.cast_add, Nat.cast_mul]
    exact ((laneInt_modEq t x).mul (laneInt_modEq t y)).add (laneInt_neg_modEq hz))

theorem lowBits_sub_mul :
    lowBits (width t) (laneInt t z - laneInt t x * laneInt t y) =
      (z + (2 ^ width t - x * y % 2 ^ width t)) % 2 ^ width t := by
  have hp : laneInt t x * laneInt t y ≡ ((x * y % 2 ^ width t : Nat) : Int) [ZMOD ((2 ^ width t : Nat) : Int)] := by
    rw [Int.natCast_emod, Nat.cast_mul]
    exact ((laneInt_modEq t x).mul (laneInt_modEq t y)).trans (Int.mod_modEq _ _).symm
  refine lowBits_of_modEq ?_
  rw [Int.sub_eq_add_neg, Nat.cast_add]
  exact (laneInt_modEq t z).add (hp.neg.trans (sub_modEq_neg (Nat.mod_lt _ (Nat.two_pow_pos _)).le))

include hx in
theorem lowBits_laneInt : lowBits (width t) (laneInt t x) = x := by
  rw [lowBits_of_modEq (laneInt_modEq t x), Nat.mod_eq_of_lt hx]

include hx in
/-- The magnitude of a signed lane, whose least value has none of its width (R148). -/
theorem lowBits_abs : lowBits (width t) (if isSigned t && decide (laneInt t x < 0) then -laneInt t x else laneInt t x) =
    if isSigned t && decide (2 ^ (width t - 1) ≤ x) then 2 ^ width t - x else x := by
  have hpos := Nat.two_pow_pos (width t - 1)
  have hiff := laneInt_neg_iff hx
  by_cases hs : isSigned t = true
  · simp only [hs, Bool.true_and, true_and] at hiff ⊢
    rw [decide_eq_decide.mpr hiff]
    split
    · next h => rw [lowBits_neg hx, Nat.mod_eq_of_lt (by have := of_decide_eq_true h; omega)]
    · exact lowBits_laneInt hx
  · simp only [hs, Bool.false_and]
    exact lowBits_laneInt hx

end codes

theorem integerLanes {t : Tag} {i : Nat} (ht : isInt t = true) (hi : i < lanes t) (fm g e0 : Word) (a b d : Vec) :
    IntegerLanes fm g e0 t a b d i := by
  have ha := elem_lt a t i
  have hb := elem_lt b t i
  have hd := elem_lt d t i
  obtain ⟨n, hx⟩ := laneVal_int ht fm a i
  obtain ⟨m, hy⟩ := laneVal_int ht fm b i
  have hm : t ≠ .mask := by rintro rfl; cases ht
  simp only [IntegerLanes, vArith_int ht hi, vFused_int ht hi, vPick_int ht hi, vSign_int ht hi, vShift_lane hi,
    vMasked_lane hi _ _ _ ha, vBroadcast_lane hi _ _ hm, vCompare_lane hi, hx, hy, relates_eq_fin, relates_lt_fin,
    relates_le_fin, Int.cast_inj, Int.cast_lt, Int.cast_le, laneInt_inj ha hb, decide_eq_true_eq]
  refine ⟨lowBits_add, lowBits_sub hb, lowBits_mul, rfl, rfl, shiftLane_left ht _ _, shiftLane_right ht _ _,
    shiftLane_arith ht _ _, if_congr .rfl lowBits_mul_add rfl, if_congr .rfl (lowBits_mul_sub hd) rfl,
    if_congr .rfl lowBits_sub_mul rfl, if_congr .rfl (lowBits_abs ha) rfl, if_congr .rfl (lowBits_neg ha) rfl,
    trivial, trivial, trivial, trivial, trivial, ?_⟩
  simp only [List.forall_mem_cons]
  exact ⟨vArith_quiet ht .., vArith_quiet ht .., vArith_quiet ht .., vFused_quiet ht .., vFused_quiet ht ..,
    vFused_quiet ht .., by simp⟩

end Sys2Proof.Machine
end

section
/-! SUPPORT. Codes of values (R62, R64, R68, R80, R81, R86): powers, the codes of the binary formats, the order of the
DM8 magnitudes, and that every code fits its lane. -/

namespace Sys2Proof.Machine

/-! ### Powers -/

theorem pow2_eq_zpow (e : Int) : pow2 e = (2 : Rat) ^ e := by
  unfold pow2
  split
  · next h =>
    obtain ⟨n, rfl⟩ := Int.eq_ofNat_of_zero_le h
    simp
  · next h =>
    obtain ⟨n, hn⟩ := Int.eq_ofNat_of_zero_le (show 0 ≤ -e by omega)
    rw [hn, show e = -(n : Int) by omega]
    simp

theorem pow10_eq_zpow (e : Int) : pow10 e = (10 : Rat) ^ e := by
  unfold pow10
  split
  · next h =>
    obtain ⟨n, rfl⟩ := Int.eq_ofNat_of_zero_le h
    simp
  · next h =>
    obtain ⟨n, hn⟩ := Int.eq_ofNat_of_zero_le (show 0 ≤ -e by omega)
    rw [hn, show e = -(n : Int) by omega]
    simp

/-! ### The magnitudes of DM8 (R64, R66) -/

/-- A DM8 magnitude in units of 10^-6 / 64. -/
def dm8Units (b : Nat) : Nat :=
  if b = 0 then 0 else
    (2 ^ (6 - dm8Run b) + 9 * (b % 2 ^ (6 - dm8Run b))) * 2 ^ (6 - (6 - dm8Run b)) *
      10 ^ (if b.testBit 6 then dm8Run b + 5 else 6 - dm8Run b)

/-- Only the code 0 has seven bits equal to 0. -/
theorem dm8Run_le : ∀ b, b < 128 → b ≠ 0 → b.testBit 6 = false → dm8Run b ≤ 6 := by decide

theorem dm8Mag_eq {b : Nat} (hb : b < 128) : dm8Mag b = (dm8Units b : Rat) / 64000000 := by
  unfold dm8Mag dm8Units
  by_cases h0 : b = 0
  · simp [h0]
  have hexp : (if b.testBit 6 then (dm8Run b : Int) - 1 else -(dm8Run b : Int)) =
      ((if b.testBit 6 then dm8Run b + 5 else 6 - dm8Run b : Nat) : Int) - 6 := by
    have := dm8Run_le b hb h0
    split
    · push_cast; ring
    · next h => have := this (by simpa using h); omega
  have hm : (2 : Rat) ^ (6 - (6 - dm8Run b)) * 2 ^ (6 - dm8Run b) = 64 := by
    rw [← pow_add, Nat.sub_add_cancel (Nat.sub_le _ _)]; norm_num
  rw [if_neg h0, if_neg h0]
  dsimp only
  rw [hexp, pow10_eq_zpow, zpow_sub₀ (by norm_num), zpow_natCast]
  have h2 : (2 : Rat) ^ (6 - dm8Run b) ≠ 0 := by positivity
  have hf : ∀ f : Rat,
      1 + f / 2 ^ (6 - dm8Run b) = (2 ^ (6 - dm8Run b) + f) * 2 ^ (6 - (6 - dm8Run b)) / 64 := fun f => by
    field_simp
    linear_combination -(2 ^ (6 - dm8Run b) + f) * hm
  push_cast
  rw [hf]
  ring

theorem dm8Units_lt_succ : ∀ b, b < 127 → dm8Units b < dm8Units (b + 1) := by decide

theorem dm8Mag_lt {b c : Nat} (h : b < c) (hc : c < 128) : dm8Mag b < dm8Mag c := by
  have hu : dm8Units b < dm8Units c := by
    induction c, h using Nat.le_induction with
    | base => exact dm8Units_lt_succ b (by omega)
    | succ n _ ih => exact (ih (by omega)).trans (dm8Units_lt_succ n (by omega))
  rw [dm8Mag_eq (h.trans hc), dm8Mag_eq hc]
  gcongr

theorem dm8Mag_le {b c : Nat} (h : b ≤ c) (hc : c < 128) : dm8Mag b ≤ dm8Mag c := by
  rcases h.eq_or_lt with rfl | h
  · exact le_rfl
  · exact (dm8Mag_lt h hc).le

theorem dm8Mag_pos {b : Nat} (h : 0 < b) (hb : b < 128) : 0 < dm8Mag b := dm8Mag_lt h hb

theorem dm8Mag_max : dm8Mag 127 = 1000000 := by
  rw [dm8Mag_eq (by decide), show dm8Units 127 = 64000000000000 by decide]
  norm_num

/-- The last of the numbers below n that satisfy P, where those are 0 to c. -/
theorem foldl_last {P : Nat → Prop} [DecidablePred P] {c : Nat} (n : Nat) (hc : c < n)
    (h : ∀ b, b < n → (P b ↔ b ≤ c)) : (List.range n).foldl (fun best b => if P b then b else best) 0 = c := by
  induction n with
  | zero => omega
  | succ n ih =>
    rw [List.range_succ, List.foldl_append, List.foldl_cons, List.foldl_nil]
    rcases Nat.lt_succ_iff_lt_or_eq.mp hc with hlt | rfl
    · rw [if_neg (by rw [h n (by omega)]; omega), ih hlt fun b hb => h b (by omega)]
    · rw [if_pos ((h _ (by omega)).mpr le_rfl)]

/-- The code below a magnitude that lies between two neighbours (R66). -/
theorem dm8Below_eq {c : Nat} {q : Rat} (hc : c < 128) (hlo : dm8Mag c ≤ q) (hhi : c < 127 → q < dm8Mag (c + 1)) :
    dm8Below q = c := by
  refine foldl_last 128 hc fun b hb => ⟨fun h => ?_, fun h => (dm8Mag_le h hc).trans hlo⟩
  by_contra hcb
  exact absurd ((dm8Mag_le (by omega) hb).trans h) (not_le.mpr (hhi (by omega)))

/-- Every magnitude up to the greatest has its code below it. -/
theorem dm8Below_spec {q : Rat} (h0 : 0 ≤ q) : dm8Below q < 128 ∧ dm8Mag (dm8Below q) ≤ q ∧
    (dm8Below q < 127 → q < dm8Mag (dm8Below q + 1)) := by
  have hex : ∃ c, c < 128 ∧ dm8Mag c ≤ q ∧ (c < 127 → q < dm8Mag (c + 1)) := by
    by_contra hno
    have hall : ∀ c, c < 128 → dm8Mag c ≤ q := fun c => by
      induction c with
      | zero => exact fun _ => h0
      | succ c ih =>
        intro hc
        by_contra hq
        exact hno ⟨c, by omega, ih (by omega), fun _ => not_le.mp hq⟩
    exact hno ⟨127, by decide, hall 127 (by decide), fun h => absurd h (by decide)⟩
  obtain ⟨c, hc, hlo, hhi⟩ := hex
  rw [dm8Below_eq hc hlo hhi]
  exact ⟨hc, hlo, hhi⟩

/-! ### The codes of the binary formats (R62) -/

theorem isInt_of_isFloat {t : Tag} (h : isFloat t = true) : isInt t = false := by
  cases t with
  | fp16 | bf16 | fp32 | dm8 => rfl
  | raw | i8 | i16 | i32 | n8 | n16 | n32 | mask => cases h

section binary
variable {t : Tag} (hf : isFloat t = true) (hd : t ≠ .dm8)
include hf hd

theorem width_binary : width t = fracBits t + expBits t + 1 := by
  cases t with
  | fp16 | bf16 | fp32 => rfl
  | raw | i8 | i16 | i32 | n8 | n16 | n32 | dm8 | mask => simp [isFloat] at hf hd

theorem width_sub_one : width t - 1 = fracBits t + expBits t := by rw [width_binary hf hd]; rfl

theorem signBit_eq (n : Bool) : signBit t n = if n then 2 ^ (width t - 1) else 0 := by
  rw [width_sub_one hf hd]; rfl

theorem val_binary (fm : Word) (x : Nat) : val fm t x = fpVal fm t x := by
  cases t with
  | fp16 | bf16 | fp32 => rfl
  | raw | i8 | i16 | i32 | n8 | n16 | n32 | dm8 | mask => simp [isFloat] at hf hd

theorem enc_binary (fm : Word) (v : Val) (rm : RoundMode) (r : Nat) : enc fm v t rm r = encFloat fm v t rm r := by
  rw [enc, isInt_of_isFloat hf, if_neg hd]
  rfl

theorem signBit_add_lt (neg : Bool) {c : Nat} (hc : c < 2 ^ (fracBits t + expBits t)) :
    signBit t neg + c < 2 ^ width t := by
  rw [width_binary hf hd, Nat.pow_succ, signBit]
  split <;> omega

end binary

/-- The code of the infinity lies below the sign bit, and above every finite code (R62). -/
theorem infCode_false (t : Tag) : infCode t false = (2 ^ expBits t - 1) * 2 ^ fracBits t := by
  simp [infCode, signBit]

theorem infCode_eq (t : Tag) (neg : Bool) : infCode t neg = signBit t neg + infCode t false := by
  simp [infCode, signBit]

theorem infCode_lt (t : Tag) : infCode t false < 2 ^ (fracBits t + expBits t) := by
  rw [infCode_false, Nat.add_comm, Nat.pow_add]
  have h := Nat.two_pow_pos (expBits t)
  exact Nat.mul_lt_mul_of_pos_right (by omega) (Nat.two_pow_pos _)

/-! ### Every code fits its lane -/

theorem nanCode_lt (t : Tag) : nanCode t < 2 ^ width t := by cases t <;> decide

theorem dm8Code_lt (neg : Bool) {b : Nat} (hb : b < 128) : dm8Code neg b < 256 := by
  unfold dm8Code
  split
  · decide
  · split <;> omega

theorem encInt_lt (v : Val) (t : Tag) (rm : RoundMode) (r : Nat) : (encInt v t rm r).1 < 2 ^ width t := by
  cases v with
  | nan | nar => exact Nat.two_pow_pos _
  | inf n => exact lowBits_lt _ _
  | fin n q => dsimp only [encInt]; split_ifs <;> simp only [lowBits_lt]

/-- The magnitude of a finite value, as the encoders take it. -/
theorem ite_neg_eq_abs (q : Rat) : (if decide (q < 0) = true then -q else q) = |q| := by
  split
  · next h => exact (abs_of_neg (of_decide_eq_true h)).symm
  · next h => exact (abs_of_nonneg (not_lt.mp (by simpa using h))).symm

theorem encDm8_lt (fm : Word) (v : Val) (rm : RoundMode) (r : Nat) : (encDm8 fm v rm r).1 < 256 := by
  cases v with
  | nan | nar => exact (by decide : (0x80 : Nat) < 256)
  | inf n => rw [encDm8]; split <;> decide
  | fin n q =>
    simp only [encDm8, ite_neg_eq_abs]
    split
    · decide
    split
    · decide
    split
    · split <;> decide
    next hle =>
    obtain ⟨hb, hlo, -⟩ := dm8Below_spec (abs_nonneg q)
    split
    · exact dm8Code_lt _ hb
    · next hne =>
      have hlt : dm8Below |q| < 127 := by
        by_contra h
        have h127 : dm8Below |q| = 127 := by omega
        rw [h127, dm8Mag_max] at hlo hne
        exact hne (le_antisymm hlo (not_lt.mp hle))
      refine dm8Code_lt _ ?_
      split <;> omega

theorem overflowCode_lt {t : Tag} (hf : isFloat t = true) (hd : t ≠ .dm8) (rm : RoundMode) (neg : Bool) :
    overflowCode t rm neg < 2 ^ width t := by
  have hi : ∀ n, infCode t n < 2 ^ width t := fun n => by
    rw [infCode_eq]; exact signBit_add_lt hf hd n (infCode_lt t)
  have hm : ∀ n, maxCode t n < 2 ^ width t := fun n => (Nat.sub_le _ _).trans_lt (hi n)
  cases rm with
  | rne => exact hi neg
  | rtz | rsto => exact hm neg
  | rdn => rw [overflowCode]; split; exacts [hi _, hm _]
  | rup => rw [overflowCode]; split; exacts [hm _, hi _]

theorem encFloat_lt {t : Tag} (hf : isFloat t = true) (hd : t ≠ .dm8) (fm : Word) (v : Val) (rm : RoundMode) (r : Nat) :
    (encFloat fm v t rm r).1 < 2 ^ width t := by
  have hs : ∀ n, signBit t n < 2 ^ width t := fun n => signBit_add_lt hf hd n (Nat.two_pow_pos _)
  cases v with
  | nan | nar => exact nanCode_lt t
  | inf n => rw [encFloat, infCode_eq]; exact signBit_add_lt hf hd n (infCode_lt t)
  | fin n q =>
    simp only [encFloat, ite_neg_eq_abs]
    split
    · exact hs _
    split
    · exact hs _
    split
    · exact overflowCode_lt hf hd rm _
    · next h =>
      rw [← infCode_false] at h
      exact signBit_add_lt hf hd _ ((not_le.mp h).trans (infCode_lt t))

/-- A code of an arithmetic format fits its lane (R86). -/
theorem enc_lt {t : Tag} (ht : isArith t = true) (fm : Word) (v : Val) (rm : RoundMode) (r : Nat) :
    (enc fm v t rm r).1 < 2 ^ width t := by
  unfold enc
  split
  · exact encInt_lt v t rm r
  · next hi =>
    have hf : isFloat t = true := by simpa [isArith, hi] using ht
    split
    · next hd => subst hd; exact encDm8_lt fm v rm r
    · next hd => exact encFloat_lt hf hd fm v rm r

/-! ### The codes of NaN, NaR and the infinities (R63, R68, R81) -/

theorem enc_nan {t : Tag} (hf : isFloat t = true) (fm : Word) {v : Val} (hv : isNanVal v = true) (rm : RoundMode)
    (r : Nat) : (enc fm v t rm r).1 = nanCode t := by
  by_cases hd : t = .dm8
  · subst hd
    cases v with
    | nan | nar => rfl
    | inf | fin => cases hv
  · rw [enc_binary hf hd]
    cases v with
    | nan | nar => rfl
    | inf | fin => cases hv

theorem enc_inf {t : Tag} (hf : isFloat t = true) (hd : t ≠ .dm8) (fm : Word) (n : Bool) (rm : RoundMode) (r : Nat) :
    (enc fm (.inf n) t rm r).1 = infCode t n := by
  rw [enc_binary hf hd]
  rfl

/-- DM8 has no infinities (R64). -/
theorem dm8Val_ne_inf (fm : Word) (x : Nat) (n : Bool) : dm8Val fm x ≠ .inf n := by
  unfold dm8Val
  dsimp only
  split
  · split <;> simp
  · split
    · simp
    · obtain ⟨m, hm⟩ := finVal_fin false (if x.testBit 7 then -dm8Mag (x % 128) else dm8Mag (x % 128))
      rw [hm]; simp

end Sys2Proof.Machine
end

section
/-! SUPPORT. Float lanes (R138 to R141, R144, R145, R148): sums, products, choices and sign changes of values, and what
each operation leaves in one lane. -/

namespace Sys2Proof.Machine

/-! ### Operations on values (R138, R139, R141) -/

section values
variable (rm : RoundMode) (n m : Bool) (p q : Rat)

theorem finVal_ne_zero {q : Rat} (h : q ≠ 0) : finVal n q = nonzero q := if_neg h

theorem addVal_fin : (addVal rm (.fin n p) (.fin m q)).1 =
    if p + q = 0 then zeroOf rm n p m q else nonzero (p + q) := by
  simp only [addVal, sumVal, sumAdd, sumStart, zero_add, Bool.false_eq_true, Bool.false_and, if_false, Bool.true_and]
  split
  · rw [zeroOf]
    cases n <;> cases m <;> simp [and_comm]
  · next h => exact finVal_ne_zero false h

theorem negVal_fin : negVal (.fin m q) = .fin (!m) (-q) := rfl

theorem mulVal_fin : (mulVal (.fin n p) (.fin m q)).1 = finVal (n != m) (p * q) := rfl

theorem mulOp_fin : (mulOp rm (.fin n p) (.fin m q)).1 = if p * q = 0 then .fin (n != m) 0 else nonzero (p * q) := rfl

/-- A sum with a product, when it is not zero (R145). -/
theorem fmaVal_fin (l : Bool) {o : Rat} (h : p * q + o ≠ 0) :
    (fmaVal rm (.fin n p) (.fin m q) (.fin l o)).1 = nonzero (p * q + o) := by
  obtain ⟨k, hk⟩ := finVal_fin (n != m) (p * q)
  rw [fmaVal, mulVal_fin, hk, addVal_fin, if_neg h]

theorem pickVal_min_of_lt (h : p < q) : pickVal false (.fin n p) (.fin m q) = .fin n p := by
  simp [pickVal, ltVal, h.not_gt, h.ne']

theorem pickVal_max_of_lt (h : p < q) : pickVal true (.fin n p) (.fin m q) = .fin m q := by
  simp [pickVal, ltVal, h]

end values

/-! ### NaN and NaR (R138) -/

/-- A sum that has met a NaN or a NaR. -/
def metNan (s : Sum) : Bool := s.nan || s.nar

theorem metNan_sumAdd (s : Sum) (v : Val) : metNan (sumAdd s v) = (metNan s || isNanVal v) := by
  cases v with
  | nan | nar => simp [metNan, sumAdd, isNanVal]
  | inf n => cases n <;> simp [metNan, sumAdd, isNanVal]
  | fin n q => simp [metNan, sumAdd, isNanVal]

theorem sumVal_nan (rm : RoundMode) {s : Sum} (h : metNan s = true) : isNanVal (sumVal rm s).1 = true := by
  unfold sumVal
  split
  · rfl
  split
  · rfl
  split
  · rfl
  · simp_all [metNan]

theorem addVal_nan (rm : RoundMode) {x y : Val} (h : isNanVal x = true ∨ isNanVal y = true) :
    isNanVal (addVal rm x y).1 = true :=
  sumVal_nan rm (by rw [metNan_sumAdd, metNan_sumAdd]; rcases h with h | h <;> simp [h])

theorem isNanVal_negVal (y : Val) : isNanVal (negVal y) = isNanVal y := by cases y <;> rfl

theorem subOp_nan (rm : RoundMode) {x y : Val} (h : isNanVal x = true ∨ isNanVal y = true) :
    isNanVal (subOp rm x y).1 = true := addVal_nan rm (by rwa [isNanVal_negVal])

theorem mulVal_nan {x y : Val} (h : isNanVal x = true ∨ isNanVal y = true) : isNanVal (mulVal x y).1 = true := by
  unfold mulVal
  split <;> simp_all [isNanVal]

theorem pickVal_nan (wantMax : Bool) {x y : Val} (h : isNanVal x = true ∨ isNanVal y = true) :
    isNanVal (pickVal wantMax x y) = true := by
  have hor : ∀ v : Val, isNanVal v = true → v = .nar ∨ v = .nan := fun v hv => by cases v <;> simp_all [isNanVal]
  unfold pickVal
  split
  · rfl
  split
  · rfl
  · rcases h with h | h <;> rcases hor _ h with rfl | rfl <;> simp_all

theorem relates_nan (r : Relation) {x y : Val} (h : isNanVal x = true ∨ isNanVal y = true) : relates r x y = false := by
  have he : eqVal x y = false := by unfold eqVal; split <;> simp_all [isNanVal]
  have hl : ltVal false x y = false := by unfold ltVal; split <;> simp_all [isNanVal]
  cases r <;> simp [relates, he, hl]

/-! ### Infinities (R138, R139) -/

theorem addVal_inf_inf (rm : RoundMode) (n m : Bool) : addVal rm (.inf n) (.inf m) =
    if n = m then (.inf n, noFlags) else (.nan, flagNV) := by
  cases n <;> cases m <;> rfl

theorem addVal_inf_fin (rm : RoundMode) (n m : Bool) (q : Rat) : addVal rm (.inf n) (.fin m q) = (.inf n, noFlags) := by
  cases n <;> rfl

theorem mulVal_inf_inf (n m : Bool) : mulVal (.inf n) (.inf m) = (.inf (n != m), noFlags) := rfl

theorem mulVal_inf_fin (n m : Bool) (q : Rat) : mulVal (.inf n) (.fin m q) =
    if q = 0 then (.nan, flagNV) else (.inf (n != m), noFlags) := rfl

/-! ### What a lane of a float result holds -/

theorem isArith_of_isFloat {t : Tag} (h : isFloat t = true) : isArith t = true := by simp [isArith, h]

theorem roundedTo_lt {t : Tag} (ht : isArith t = true) (fm : Word) (rm : RoundMode) (g : Word) (k : Nat) (v : Val) :
    roundedTo fm t rm g k v < 2 ^ width t := enc_lt ht fm v rm _

section lane
variable {t : Tag} {i : Nat} (hf : isFloat t = true) (hi : i < lanes t) (fm g e0 : Word) (a b d : Vec)
include hi

theorem vFused_inactive (k : FusedKind) (h : bit e0 i = false) :
    elem (vFused fm g e0 k t a b d).data t i = elem d t i :=
  lanesRes_elem_pure hi (lane_fits hi) (fun _ => by rw [if_neg (by simp [h])]) (elem_lt _ _ _)

theorem vSign_inactive (negate : Bool) (h : bit e0 i = false) :
    elem (vSign fm g e0 t negate a d).data t i = elem d t i :=
  lanesRes_elem_pure hi (lane_fits hi) (fun _ => by rw [if_neg (by simp [h])]) (elem_lt _ _ _)

theorem vSign_active (negate : Bool) (h : bit e0 i = true) :
    elem (vSign fm g e0 t negate a d).data t i = (signLane fm t negate (elem a t i)).1 % 2 ^ width t := by
  rw [vSign, lanesRes_elem hi (lane_fits hi), laneOut, if_pos h]

include hf

theorem vPick_float (wantMax : Bool) : elem (vPick fm g t wantMax a b).data t i =
    (enc fm (pickVal wantMax (laneVal fm t a i) (laneVal fm t b i)) t (fmodeRM fm) 0).1 :=
  lanesRes_elem_pure hi (lane_fits hi) (fun _ => by rw [pickLane, isInt_of_isFloat hf]; rfl)
    (enc_lt (isArith_of_isFloat hf) _ _ _ _)

section arith
variable (opI : Int → Int → Int) (opV : RoundMode → Val → Val → Val × Flags)

theorem vArith_float : elem (vArith fm g t opI opV a b).data t i =
    roundedTo fm t (fmodeRM fm) g (i + 1) (opV (fmodeRM fm) (laneVal fm t a i) (laneVal fm t b i)).1 := by
  have hint := isInt_of_isFloat hf
  rw [vArith, lanesRes_elem hi (lane_fits hi), laneOut,
    runLanes_srg_all (rm := fmodeRM fm) fun j k => by rw [hint]; exact encStep_srg ..]
  rw [hint]
  exact (congrArg (· % _) (encStep_code ..)).trans (Nat.mod_eq_of_lt (roundedTo_lt (isArith_of_isFloat hf) ..))

theorem vArith_nv (h : (opV (fmodeRM fm) (laneVal fm t a i) (laneVal fm t b i)).2.nv = true) :
    (vArith fm g t opI opV a b).flags.nv = true :=
  runLanes_nv hi (by
    rw [laneOut, isInt_of_isFloat hf]
    simp only [laneVal] at h
    simp [orFlags, h])

end arith

theorem vFused_float (k : FusedKind) (h : bit e0 i = true) : elem (vFused fm g e0 k t a b d).data t i =
    roundedTo fm t (fmodeRM fm) g ((List.range (i + 1)).countP fun j => bit e0 j)
      (fusedVal k (fmodeRM fm) (laneVal fm t a i) (laneVal fm t b i) (laneVal fm t d i)).1 := by
  have hint := isInt_of_isFloat hf
  rw [vFused, lanesRes_elem hi (lane_fits hi), laneOut, if_pos h,
    runLanes_srg (rm := fmodeRM fm) (p := fun j => bit e0 j) fun j k => ?_, fusedLane, hint, List.range_succ,
    List.countP_append, List.countP_singleton, if_pos h]
  · exact (congrArg (· % _) (encStep_code ..)).trans (Nat.mod_eq_of_lt (roundedTo_lt (isArith_of_isFloat hf) ..))
  · split
    · rw [fusedLane, hint]; exact encStep_srg ..
    · rfl

end lane

/-! ### Codes and their signs (R62, R64) -/

theorem half_lt (t : Tag) : 2 ^ (width t - 1) < 2 ^ width t :=
  Nat.pow_lt_pow_right (by decide) (Nat.sub_lt (width_pos t) Nat.one_pos)

section halves
variable {x h : Nat} (hx : x < 2 * h)
include hx

theorem mod_half : x % h = if h ≤ x then x - h else x := by
  split
  · rw [Nat.mod_eq_sub_mod ‹_›, Nat.mod_eq_of_lt (by omega)]
  · exact Nat.mod_eq_of_lt (by omega)

theorem add_half_mod : (x + h) % (2 * h) = if h ≤ x then x - h else x + h := by
  split
  · rw [Nat.mod_eq_sub_mod (by omega), Nat.mod_eq_of_lt (by omega)]; omega
  · exact Nat.mod_eq_of_lt (by omega)

end halves

theorem testBit_top {x k : Nat} (h : x < 2 ^ (k + 1)) : x.testBit k = decide (2 ^ k ≤ x) := by
  rw [Nat.testBit_eq_decide_div_mod_eq, decide_eq_decide]
  have hp := Nat.two_pow_pos k
  have hlt : x / 2 ^ k < 2 := by rw [Nat.div_lt_iff_lt_mul hp, Nat.mul_comm, ← Nat.pow_succ]; exact h
  rw [Nat.mod_eq_of_lt hlt, ← Nat.one_le_div_iff hp]
  omega

/-- A signed magnitude that is not zero has the sign it was given. -/
theorem finVal_sign {k neg m : Bool} {q x : Rat} (hq : 0 ≤ q) (h : finVal k (if neg then -q else q) = .fin m x)
    (hx : x ≠ 0) : m = neg := by
  have hne : (if neg then -q else q) ≠ 0 := fun h0 => by
    rw [h0, finVal, if_pos rfl] at h
    cases h
    exact hx rfl
  rw [finVal, if_neg hne] at h
  cases h
  cases neg with
  | true => exact decide_eq_true (neg_lt_zero.mpr (hq.lt_of_ne fun h0 => hne (by simp [← h0])))
  | false => exact decide_eq_false (not_lt.mpr hq)

theorem dm8Mag_nonneg {b : Nat} (hb : b < 128) : 0 ≤ dm8Mag b := dm8Mag_le (Nat.zero_le b) hb

theorem dm8Val_sign {fm : Word} {x : Nat} {n : Bool} {q : Rat} (h : dm8Val fm x = .fin n q) (hq : q ≠ 0) :
    x.testBit 7 = n := by
  unfold dm8Val at h
  dsimp only at h
  split at h
  · split at h
    · cases h
    · cases h; exact absurd rfl hq
  split at h
  · cases h; exact absurd rfl hq
  · exact (finVal_sign (dm8Mag_nonneg (Nat.mod_lt _ (by decide))) h hq).symm

theorem pow2_pos (e : Int) : 0 < pow2 e := by rw [pow2_eq_zpow]; positivity

theorem fpVal_sign {fm : Word} {t : Tag} {x : Nat} {n : Bool} {q : Rat} (h : (fpVal fm t x).1 = .fin n q) (hq : q ≠ 0) :
    x.testBit (fracBits t + expBits t) = n := by
  have hnn : ∀ (k : Nat) (e : Int), 0 ≤ (k : Rat) * pow2 e := fun k e => mul_nonneg k.cast_nonneg (pow2_pos e).le
  unfold fpVal at h
  dsimp only at h
  split at h
  · split at h <;> cases h
  split at h
  · split at h
    · cases h; exact absurd rfl hq
    · exact (finVal_sign (hnn _ _) h hq).symm
  · exact (finVal_sign (hnn _ _) h hq).symm

/-- Only the infinity's code has an exponent of ones and no fraction (R62). -/
theorem fpVal_inf {fm : Word} {t : Tag} {x : Nat} {n : Bool} (hx : x < 2 ^ (fracBits t + expBits t + 1))
    (h : (fpVal fm t x).1 = .inf n) : x = infCode t n := by
  unfold fpVal at h
  dsimp only at h
  split at h
  · next he =>
    split at h
    · next hfrac =>
      cases h
      have hlow : x % 2 ^ (fracBits t + expBits t) = infCode t false := by
        have hdiv : x % 2 ^ (fracBits t + expBits t) / 2 ^ fracBits t = 2 ^ expBits t - 1 := by
          rw [Nat.pow_add, Nat.mod_mul_right_div_self, he]
        have hmod : x % 2 ^ (fracBits t + expBits t) % 2 ^ fracBits t = 0 := by
          rw [Nat.mod_mod_of_dvd _ (Nat.pow_dvd_pow 2 (Nat.le_add_right _ _)), hfrac]
        rw [infCode_false, ← hdiv, Nat.div_mul_cancel (Nat.dvd_of_mod_eq_zero hmod)]
      rw [infCode_eq, signBit, ← hlow, testBit_top hx, mod_half (by rwa [Nat.pow_succ'] at hx)]
      simp only [decide_eq_true_eq]
      split <;> omega
    · cases h
  · have hfin : ∀ (k : Bool) (y : Rat), finVal k y ≠ .inf n := fun k y => by
      obtain ⟨m, hm⟩ := finVal_fin k y
      rw [hm]; simp
    split at h
    · split at h
      · cases h
      · exact absurd h (hfin _ _)
    · exact absurd h (hfin _ _)

/-! ### VABS and VNEG on the codes of floats (R148) -/

section sign
variable {t : Tag} (hf : isFloat t = true) {fm : Word} {c : Nat} (negate : Bool)
include hf

theorem signLane_nan (h : isNanVal (val fm t c).1 = true) : (signLane fm t negate c).1 = nanCode t := by
  rw [signLane, isInt_of_isFloat hf]
  cases hv : (val fm t c).1 with
  | nan | nar => simp [hv]
  | inf | fin => rw [hv] at h; cases h

theorem signLane_zero {n : Bool} (h : (val fm t c).1 = .fin n 0) :
    (signLane fm t negate c).1 = if t = .dm8 then 0 else signBit t (if negate then !n else false) := by
  rw [signLane, isInt_of_isFloat hf]
  simp only [h, Bool.false_eq_true, if_false, if_true]

theorem val_sign {n : Bool} {q : Rat} (h : (val fm t c).1 = .fin n q) (hq : q ≠ 0) : c.testBit (width t - 1) = n := by
  by_cases hd : t = .dm8
  · subst hd; exact dm8Val_sign h hq
  · rw [val_binary hf hd] at h
    rw [width_binary hf hd]
    exact fpVal_sign h hq

theorem val_inf {n : Bool} (hc : c < 2 ^ width t) (h : (val fm t c).1 = .inf n) : t ≠ .dm8 ∧ c = infCode t n := by
  by_cases hd : t = .dm8
  · subst hd; exact absurd h (dm8Val_ne_inf fm c n)
  · rw [val_binary hf hd] at h
    rw [width_binary hf hd] at hc
    exact ⟨hd, fpVal_inf hc h⟩

/-- VABS clears the sign bit and VNEG inverts it, of an infinity or a finite value that is not zero. -/
theorem signLane_bit (hc : c < 2 ^ width t)
    (h : (∃ n, (val fm t c).1 = .inf n) ∨ ∃ n q, (val fm t c).1 = .fin n q ∧ q ≠ 0) :
    (signLane fm t false c).1 = c % 2 ^ (width t - 1) ∧
      (signLane fm t true c).1 = (c + 2 ^ (width t - 1)) % 2 ^ width t := by
  have hw := two_pow_width t
  rcases h with ⟨n, hn⟩ | ⟨n, q, hn, hq⟩
  · obtain ⟨hd, hcode⟩ := val_inf hf hc hn
    have hlt := infCode_lt t
    have hwb := width_sub_one hf hd
    simp only [signLane, isInt_of_isFloat hf, hn, Bool.false_eq_true, if_false, if_true]
    rw [infCode_eq t n] at hcode
    rw [← hwb] at hlt
    rw [infCode_eq t !n, hw, mod_half (hw ▸ hc), add_half_mod (hw ▸ hc), hcode, signBit_eq hf hd, signBit_eq hf hd]
    cases n <;> simp [hlt.not_ge, Nat.add_comm]
  · have hs := val_sign hf hn hq
    have htop : c.testBit (width t - 1) = decide (2 ^ (width t - 1) ≤ c) :=
      testBit_top (by rw [Nat.sub_add_cancel (width_pos t)]; exact hc)
    simp only [signLane, isInt_of_isFloat hf, hn, hq, Bool.false_eq_true, if_false]
    rw [← hs, htop, hw, mod_half (hw ▸ hc), add_half_mod (hw ▸ hc)]
    by_cases hb : 2 ^ (width t - 1) ≤ c
    · simp [hb]
    · simp [hb, Nat.add_comm]

end sign

/-! ### The float clauses -/

section clauses
variable {t : Tag} {i : Nat} (hf : isFloat t = true) (hi : i < lanes t) (fm g e0 : Word) (a b d : Vec)
include hf hi

theorem finiteLanes : FiniteLanes fm g e0 t a b d i := by
  intro n m l p q o hx hy hz
  simp only [vArith_float hf hi, vPick_float hf hi, vCompare_lane hi, hx, hy, addOp, subOp, negVal_fin, addVal_fin,
    mulOp_fin, relates_eq_fin, relates_lt_fin, relates_le_fin, decide_eq_true_eq, ← sub_eq_add_neg]
  refine ⟨fun h => by rw [if_neg h], fun h => by rw [if_pos h], fun h => by rw [if_neg h], fun h => ?_,
    fun h => by rw [if_neg h], fun h => by rw [if_pos h], fun he h => ?_, fun he h => ?_, fun he h => ?_,
    fun he k => vFused_inactive hi fm g e0 a b d k he,
    fun h => ⟨by rw [pickVal_min_of_lt n m p q h], by rw [pickVal_max_of_lt n m p q h]⟩, trivial, trivial, trivial⟩
  · rw [if_pos h]
    simp [zeroOf]
  · rw [vFused_float hf hi fm g e0 a b d _ he, hx, hy, hz, fusedVal, fmaVal_fin _ _ _ _ _ _ h]
  · rw [sub_eq_add_neg] at h ⊢
    rw [vFused_float hf hi fm g e0 a b d _ he, hx, hy, hz, fusedVal, negVal_fin, fmaVal_fin _ _ _ _ _ _ h]
  · rw [show o - p * q = -p * q + o by ring] at h ⊢
    rw [vFused_float hf hi fm g e0 a b d _ he, hx, hy, hz, fusedVal, negVal_fin, fmaVal_fin _ _ _ _ _ _ h]

theorem vArith_nan (opI : Int → Int → Int) (opV : RoundMode → Val → Val → Val × Flags)
    (h : isNanVal (opV (fmodeRM fm) (laneVal fm t a i) (laneVal fm t b i)).1 = true) :
    elem (vArith fm g t opI opV a b).data t i = nanCode t := by
  rw [vArith_float hf hi]
  exact enc_nan hf fm h _ _

theorem vPick_nan (wantMax : Bool) (h : isNanVal (laneVal fm t a i) = true ∨ isNanVal (laneVal fm t b i) = true) :
    elem (vPick fm g t wantMax a b).data t i = nanCode t := by
  rw [vPick_float hf hi]
  exact enc_nan hf fm (pickVal_nan wantMax h) _ _

theorem vSign_nan (he : bit e0 i = true) (h : isNanVal (laneVal fm t a i) = true) (negate : Bool) :
    elem (vSign fm g e0 t negate a d).data t i = nanCode t := by
  rw [vSign_active hi fm g e0 a d negate he, signLane_nan hf negate h, Nat.mod_eq_of_lt (nanCode_lt t)]

theorem vSign_nonzero (he : bit e0 i = true)
    (h : (∃ n, laneVal fm t a i = .inf n) ∨ ∃ n q, laneVal fm t a i = .fin n q ∧ q ≠ 0) :
    elem (vSign fm g e0 t false a d).data t i = elem a t i % 2 ^ (width t - 1) ∧
      elem (vSign fm g e0 t true a d).data t i = (elem a t i + 2 ^ (width t - 1)) % 2 ^ width t := by
  obtain ⟨habs, hneg⟩ := signLane_bit hf (elem_lt a t i) h
  rw [vSign_active hi fm g e0 a d _ he, vSign_active hi fm g e0 a d _ he, habs, hneg, Nat.mod_mod,
    Nat.mod_eq_of_lt ((Nat.mod_lt _ (Nat.two_pow_pos _)).trans (half_lt t))]
  exact ⟨rfl, rfl⟩

theorem vSign_zero (he : bit e0 i = true) {n : Bool} (h : laneVal fm t a i = .fin n 0) :
    elem (vSign fm g e0 t false a d).data t i = 0 ∧
      elem (vSign fm g e0 t true a d).data t i = if t = .dm8 ∨ n = true then 0 else 2 ^ (width t - 1) := by
  rw [vSign_active hi fm g e0 a d _ he, vSign_active hi fm g e0 a d _ he, signLane_zero hf _ h, signLane_zero hf _ h]
  by_cases hd : t = .dm8
  · simp [hd]
  · rw [if_neg hd, if_neg hd, signBit_eq hf hd, signBit_eq hf hd]
    cases n with
    | false => simp [hd, Nat.mod_eq_of_lt (half_lt t)]
    | true => simp

theorem specialLanes : SpecialLanes fm g e0 t a b d i := by
  refine ⟨fun h => ⟨?_, fun r => ?_⟩, fun n m hx hy => ?_, fun n m q hx hy => ?_,
    fun he => ⟨fun h => vSign_nan hf hi fm g e0 a d he h, vSign_nonzero hf hi fm g e0 a d he,
      fun n => vSign_zero hf hi fm g e0 a d he⟩, fun he negate => vSign_inactive hi fm g e0 a d negate he⟩
  · have hop := vArith_nan hf hi fm g a b
    simp only [List.forall_mem_cons]
    exact ⟨hop _ _ (addVal_nan _ h), hop _ _ (subOp_nan _ h), hop _ _ (mulVal_nan h), vPick_nan hf hi fm g a b _ h,
      vPick_nan hf hi fm g a b _ h, by simp⟩
  · rw [vCompare_lane hi, relates_nan r h]
    rfl
  · obtain ⟨hd, -⟩ := val_inf hf (elem_lt a t i) hx
    simp only [vArith_float hf hi, hx, hy, addOp, mulOp, addVal_inf_inf, mulVal_inf_inf]
    refine ⟨fun h => ?_, fun h => ⟨?_, vArith_nv hf hi fm g a b _ _ ?_⟩, enc_inf hf hd fm _ _ _⟩
    · rw [if_pos h]; exact enc_inf hf hd fm n _ _
    · rw [if_neg h]; exact enc_nan hf fm rfl _ _
    · rw [hx, hy, addOp, addVal_inf_inf, if_neg h]; rfl
  · obtain ⟨hd, -⟩ := val_inf hf (elem_lt a t i) hx
    simp only [vArith_float hf hi, hx, hy, addOp, mulOp, addVal_inf_fin, mulVal_inf_fin]
    refine ⟨enc_inf hf hd fm n _ _, fun h => ?_, fun h => ⟨?_, vArith_nv hf hi fm g a b _ _ ?_⟩⟩
    · rw [if_neg h]; exact enc_inf hf hd fm _ _ _
    · rw [if_pos h]; exact enc_nan hf fm rfl _ _
    · rw [hx, hy, mulOp, mulVal_inf_fin, if_pos h]; rfl

end clauses

end Sys2Proof.Machine
end

section
/-! SUPPORT. Instructions on a whole register (R147, R151 to R154): conversions, reductions and scans, with the fold
that keeps the least or the greatest of what it has met, and the exact sum. -/

namespace Sys2Proof.Machine

/-! ### Folds (R153) -/

section least
variable {α κ : Type} [Preorder κ] {f : α → α → α} (key : α → κ) (P : α → Prop)
  (hf : ∀ x y, P x → P y → (f x y = x ∨ f x y = y) ∧ key (f x y) ≤ key x ∧ key (f x y) ≤ key y)
include hf

/-- A fold that keeps one of its two arguments, of the lesser key where both satisfy P, ends at an element of least
key. -/
theorem foldl_least (l : List α) (x : α) (hx : P x) (hl : ∀ y ∈ l, P y) :
    l.foldl f x ∈ x :: l ∧ ∀ y ∈ x :: l, key (l.foldl f x) ≤ key y := by
  induction l generalizing x with
  | nil => simp
  | cons z l ih =>
    rw [List.forall_mem_cons] at hl
    obtain ⟨hz, hl⟩ := hl
    obtain ⟨hsel, hkx, hkz⟩ := hf x z hx hz
    have hP : P (f x z) := by rcases hsel with h | h <;> rwa [h]
    obtain ⟨hmem, hle⟩ := ih (f x z) hP hl
    rw [List.forall_mem_cons] at hle
    obtain ⟨hfz, hle⟩ := hle
    rw [List.foldl_cons]
    refine ⟨?_, ?_⟩
    · rw [List.mem_cons] at hmem
      rcases hmem with h | h
      · rw [h]; rcases hsel with h | h <;> simp [h]
      · simp [h]
    · rw [List.forall_mem_cons, List.forall_mem_cons]
      exact ⟨hfz.trans hkx, hfz.trans hkz, hle⟩

/-- The fold over the values of 0 to i ends at the value of one of them. -/
theorem foldl_least_range (u : Nat → α) (i : Nat) (hu : ∀ j, j ≤ i → P (u j)) {x : α} {l : List α}
    (hxl : x :: l = (List.range (i + 1)).map u) :
    ∃ j, j ≤ i ∧ l.foldl f x = u j ∧ ∀ k, k ≤ i → key (u j) ≤ key (u k) := by
  have hP : ∀ y ∈ x :: l, P y := fun y hy => by
    rw [hxl, List.mem_map] at hy
    obtain ⟨j, hj, rfl⟩ := hy
    exact hu j (by rw [List.mem_range] at hj; omega)
  rw [List.forall_mem_cons] at hP
  obtain ⟨hmem, hle⟩ := foldl_least key P hf l x hP.1 hP.2
  rw [hxl, List.mem_map] at hmem
  obtain ⟨j, hj, hju⟩ := hmem
  rw [List.mem_range] at hj
  refine ⟨j, by omega, hju.symm, fun k hk => ?_⟩
  rw [hju]
  exact hle _ (by rw [hxl, List.mem_map]; exact ⟨k, by rw [List.mem_range]; omega, rfl⟩)

end least

/-! ### Conversions (R152) -/

/-- Each converted lane is rounded in its turn; the lanes that the source lacks are 0. -/
theorem vConvert_lane {t u : Tag} (hu : isArith u = true) {i : Nat} (hi : i < lanes u) (fm g : Word) (rm : RoundMode)
    (a : Vec) : elem (vConvert fm g rm t u a).data u i =
      if i < lanes t then roundedTo fm u rm g (i + 1) (laneVal fm t a i) else 0 := by
  have hmin : i < min (lanes t) (lanes u) ↔ i < lanes t := by rw [lt_min_iff, and_iff_left hi]
  rw [vConvert, lanesRes_elem hi (lane_fits hi), laneOut,
    runLanes_srg (rm := rm) (p := fun j => decide (j < min (lanes t) (lanes u))) fun j k => ?_]
  · by_cases h : i < lanes t
    · have hall : (List.range i).countP (fun j => decide (j < min (lanes t) (lanes u))) = i := by
        conv_rhs => rw [← List.length_range (n := i)]
        rw [List.countP_eq_length]
        intro j hj
        rw [List.mem_range] at hj
        exact decide_eq_true (hj.trans (hmin.mpr h))
      rw [if_pos (hmin.mpr h), if_pos h, hall]
      exact (congrArg (· % _) (encStep_code ..)).trans (Nat.mod_eq_of_lt (roundedTo_lt hu ..))
    · rw [if_neg (mt hmin.mp h), if_neg h, Nat.zero_mod]
  · by_cases h : j < min (lanes t) (lanes u)
    · simp only [h, if_true, decide_true]; exact encStep_srg ..
    · simp only [h, if_false, decide_false, Bool.false_eq_true]

/-! ### Reductions and scans (R153, R154) -/

theorem lanes_pos (t : Tag) : 0 < lanes t := by cases t <;> decide

theorem vReduce_first {t : Tag} (fm g : Word) (op : Nat) (a : Vec) :
    elem (vReduce fm g op t a).data t 0 = (reduceLanes fm op (lanes t) t a g).1 % 2 ^ width t :=
  elem_vecOf (lane_fits (lanes_pos t)) _

theorem vReduce_rest {t : Tag} {i : Nat} (h0 : 0 < i) (hi : i < lanes t) (fm g : Word) (op : Nat) (a : Vec) :
    elem (vReduce fm g op t a).data t i = 0 := by
  obtain ⟨j, rfl⟩ := Nat.exists_eq_succ_of_ne_zero h0.ne'
  exact (elem_vecOf (lane_fits hi) _).trans (Nat.zero_mod _)

theorem reduceLanes_add_int {t : Tag} (ht : isInt t = true) (fm g : Word) (n : Nat) (a : Vec) :
    reduceLanes fm 0 n t a g = (((List.range n).map (elem a t)).sum % 2 ^ width t, noFlags, g) := by
  have hsum : ∀ xs : List Nat,
      (xs.map (laneInt t)).foldl (· + ·) 0 ≡ ((xs.sum : Nat) : Int) [ZMOD ((2 ^ width t : Nat) : Int)] := fun xs => by
    rw [← List.sum_eq_foldl]
    induction xs with
    | nil => rfl
    | cons x xs ih => simpa using (laneInt_modEq t x).add ih
  rw [reduceLanes, if_pos rfl, if_pos ht, lowBits_of_modEq (hsum _)]

/-- The exact sum of the first n lanes. -/
def laneSum (fm : Word) (t : Tag) (a : Vec) (n : Nat) : Sum :=
  (List.range n).foldl (fun s i => sumAdd s (laneVal fm t a i)) sumStart

theorem reduceLanes_add_float {t : Tag} (hf : isFloat t = true) (fm g : Word) (n : Nat) (a : Vec) :
    (reduceLanes fm 0 n t a g).1 = (encStep fm (fmodeRM fm) t g (sumVal (fmodeRM fm) (laneSum fm t a n)).1).1 ∧
      (reduceLanes fm 0 n t a g).2.2 =
        (encStep fm (fmodeRM fm) t g (sumVal (fmodeRM fm) (laneSum fm t a n)).1).2.2 := by
  have hs : (((List.range n).map (elem a t)).map (val fm t)).foldl (fun acc v => sumAdd acc v.1) sumStart =
      laneSum fm t a n := by
    rw [List.foldl_map, List.foldl_map]
    rfl
  rw [reduceLanes, if_pos rfl, isInt_of_isFloat hf]
  simp only [hs, Bool.false_eq_true, if_false, and_self]

theorem laneSum_fin {fm : Word} {t : Tag} {a : Vec} {q : Nat → Rat} (n : Nat)
    (h : ∀ j, j < n → ∃ k, laneVal fm t a j = .fin k (q j)) :
    (laneSum fm t a n).total = ((List.range n).map q).sum ∧ (laneSum fm t a n).nan = false ∧
      (laneSum fm t a n).nar = false ∧ (laneSum fm t a n).posInf = false ∧ (laneSum fm t a n).negInf = false := by
  induction n with
  | zero => exact ⟨rfl, rfl, rfl, rfl, rfl⟩
  | succ n ih =>
    obtain ⟨k, hk⟩ := h n (by omega)
    obtain ⟨htotal, hrest⟩ := ih fun j hj => h j (by omega)
    have hstep : laneSum fm t a (n + 1) = sumAdd (laneSum fm t a n) (.fin k (q n)) := by
      rw [laneSum, List.range_succ, List.foldl_append, ← laneSum, ← hk]
      rfl
    rw [hstep]
    refine ⟨?_, hrest⟩
    rw [List.range_succ, List.map_append, List.sum_append, ← htotal]
    simp [sumAdd]

theorem sumVal_laneSum {fm : Word} {t : Tag} {a : Vec} {q : Nat → Rat} {n : Nat} (rm : RoundMode)
    (h : ∀ j, j < n → ∃ k, laneVal fm t a j = .fin k (q j)) (hq : ((List.range n).map q).sum ≠ 0) :
    (sumVal rm (laneSum fm t a n)).1 = nonzero ((List.range n).map q).sum := by
  obtain ⟨htotal, hnan, hnar, hpos, hneg⟩ := laneSum_fin n h
  rw [sumVal, htotal, hnan, hnar, hpos, hneg]
  simp only [Bool.false_eq_true, Bool.false_and, if_false, if_neg hq]
  exact finVal_ne_zero false hq

theorem range_map_cons {α : Type} (u : Nat → α) (i : Nat) :
    ∃ x l, (List.range (i + 1)).map u = x :: l := ⟨_, _, by rw [List.range_succ_eq_map, List.map_cons]⟩

/-- The least and the greatest of lanes, op 1 and 2: the fold over the others, from the first. -/
theorem reduceLanes_pick {t : Tag} {a : Vec} {n op x : Nat} {l : List Nat} (hop : op ≠ 0)
    (h : (List.range n).map (elem a t) = x :: l) (fm g : Word) :
    (reduceLanes fm op n t a g).1 = (if isInt t then l.foldl (fun best y => (pickLane fm t (op == 2) best y).1) x
      else (enc fm (l.foldl (fun best y => pickVal (op == 2) best (val fm t y).1) (val fm t x).1) t (fmodeRM fm) 0).1) ∧
    (reduceLanes fm op n t a g).2.2 = g := by
  unfold reduceLanes
  simp only [if_neg hop, h]
  split <;> exact ⟨rfl, rfl⟩

/-- Only a rounded sum steps the generator (R83). -/
theorem reduceLanes_srg {t : Tag} {op : Nat} (h : op ≠ 0 ∨ isInt t = true) (fm g : Word) (n : Nat) (a : Vec) :
    (reduceLanes fm op (n + 1) t a g).2.2 = g := by
  by_cases hop : op = 0
  · subst hop
    rw [reduceLanes_add_int (h.resolve_left (by simp))]
  · obtain ⟨x, l, hxl⟩ := range_map_cons (elem a t) n
    exact (reduceLanes_pick hop hxl fm g).2

theorem vScan_lane {t : Tag} {i : Nat} (hi : i < lanes t) {op : Nat} (h : op ≠ 0 ∨ isInt t = true) (fm g : Word)
    (a : Vec) : elem (vScan fm g op t a).data t i = (reduceLanes fm op (i + 1) t a g).1 % 2 ^ width t := by
  rw [vScan, lanesRes_elem hi (lane_fits hi), laneOut, runLanes_srg_same fun n k => reduceLanes_srg h fm k n a]

/-- The last lane of a scan is the reduction (R154). -/
theorem vReduce_eq_vScan {t : Tag} (ht : isInt t = true) (fm g : Word) (op : Nat) (a : Vec) :
    elem (vReduce fm g op t a).data t 0 = elem (vScan fm g op t a).data t (lanes t - 1) := by
  rw [vReduce_first, vScan_lane (Nat.sub_lt (lanes_pos t) Nat.one_pos) (.inr ht), Nat.sub_add_cancel (lanes_pos t)]

/-! ### The least and the greatest value (R141) -/

/-- A finite value as a number. -/
def finPart : Val → Rat
  | .fin _ q => q
  | _ => 0

section order
variable {z n m : Bool} {p q : Rat}

theorem pickVal_min_fin : pickVal false (.fin n p) (.fin m q) =
    if ltVal true (.fin m q) (.fin n p) then .fin m q else .fin n p := by
  simp [pickVal]

theorem pickVal_max_fin : pickVal true (.fin n p) (.fin m q) =
    if ltVal true (.fin n p) (.fin m q) then .fin m q else .fin n p := by
  simp [pickVal]

theorem le_of_ltVal (h : ltVal z (.fin n p) (.fin m q) = true) : p ≤ q := by
  simp only [ltVal, Bool.or_eq_true, Bool.and_eq_true, decide_eq_true_eq] at h
  rcases h with h | h
  · exact h.le
  · exact h.1.1.1.2.le

theorem le_of_not_ltVal (h : ¬ ltVal z (.fin n p) (.fin m q) = true) : q ≤ p := by
  simp only [ltVal, Bool.or_eq_true, Bool.and_eq_true, decide_eq_true_eq] at h
  exact not_lt.mp fun hlt => h (.inl hlt)

theorem finPart_laneVal {fm : Word} {t : Tag} {a : Vec} {u : Nat → Rat} {k : Nat}
    (hu : ∀ j, j < k → ∃ n, laneVal fm t a j = .fin n (u j)) {j : Nat} (hj : j < k) :
    finPart (laneVal fm t a j) = u j := by
  obtain ⟨n, hn⟩ := hu j hj
  rw [hn]
  rfl

end order

section least
variable {t : Tag} {i : Nat} (hi : i < lanes t) (fm g : Word) (a : Vec)
include hi

/-- A scan of integer lanes ends at one of them, of least key where its choice between two lanes has. -/
theorem vScan_pick_int (ht : isInt t = true) {op : Nat} (hop : op ≠ 0) (key : Nat → Int)
    (hkey : ∀ x y, ((pickLane fm t (op == 2) x y).1 = x ∨ (pickLane fm t (op == 2) x y).1 = y) ∧
      key (pickLane fm t (op == 2) x y).1 ≤ key x ∧ key (pickLane fm t (op == 2) x y).1 ≤ key y) :
    ∃ j, j ≤ i ∧ elem (vScan fm g op t a).data t i = elem a t j ∧ ∀ k, k ≤ i → key (elem a t j) ≤ key (elem a t k) := by
  obtain ⟨x, l, hxl⟩ := range_map_cons (elem a t) i
  obtain ⟨j, hj, hfold, hle⟩ := foldl_least_range key (fun _ => True) (fun x y _ _ => hkey x y) (elem a t) i
    (fun _ _ => trivial) hxl.symm
  refine ⟨j, hj, ?_, hle⟩
  rw [vScan_lane hi (.inl hop), (reduceLanes_pick hop hxl fm g).1, if_pos ht, hfold, Nat.mod_eq_of_lt (elem_lt a t j)]

theorem vScan_min_int (ht : isInt t = true) : ∃ j, j ≤ i ∧ elem (vScan fm g 1 t a).data t i = elem a t j ∧
    ∀ k, k ≤ i → laneInt t (elem a t j) ≤ laneInt t (elem a t k) :=
  vScan_pick_int hi fm g a ht (by decide) (laneInt t) fun x y => by
    rw [pickLane, if_pos ht]
    dsimp only [Nat.reduceBEq]
    simp only [Bool.false_eq_true, if_false]
    split
    · next h => exact ⟨.inr rfl, h.le, le_rfl⟩
    · next h => exact ⟨.inl rfl, le_rfl, not_lt.mp h⟩

theorem vScan_max_int (ht : isInt t = true) : ∃ j, j ≤ i ∧ elem (vScan fm g 2 t a).data t i = elem a t j ∧
    ∀ k, k ≤ i → laneInt t (elem a t k) ≤ laneInt t (elem a t j) := by
  obtain ⟨j, hj, he, hle⟩ := vScan_pick_int hi fm g a ht (op := 2) (by decide) (fun x => -laneInt t x) fun x y => by
    rw [pickLane, if_pos ht]
    simp only [Nat.reduceBEq, if_true]
    split
    · next h => exact ⟨.inr rfl, neg_le_neg h.le, le_rfl⟩
    · next h => exact ⟨.inl rfl, le_rfl, neg_le_neg (not_lt.mp h)⟩
  exact ⟨j, hj, he, fun k hk => neg_le_neg_iff.mp (hle k hk)⟩

/-- As vScan_pick_int, of finite float lanes by their values. -/
theorem vScan_pick_float (hf : isFloat t = true) {op : Nat} (hop : op ≠ 0) (key : Val → Rat) {q : Nat → Rat}
    (hq : ∀ j, j < lanes t → ∃ n, laneVal fm t a j = .fin n (q j))
    (hkey : ∀ n m p r, let v := pickVal (op == 2) (.fin n p) (.fin m r)
      (v = .fin n p ∨ v = .fin m r) ∧ key v ≤ key (.fin n p) ∧ key v ≤ key (.fin m r)) :
    ∃ j, j ≤ i ∧ elem (vScan fm g op t a).data t i = (enc fm (laneVal fm t a j) t (fmodeRM fm) 0).1 ∧
      ∀ k, k ≤ i → key (laneVal fm t a j) ≤ key (laneVal fm t a k) := by
  obtain ⟨x, l, hxl⟩ := range_map_cons (elem a t) i
  have hvals : (val fm t x).1 :: l.map (fun y => (val fm t y).1) = (List.range (i + 1)).map (laneVal fm t a) := by
    rw [← List.map_cons (f := fun y => (val fm t y).1), ← hxl, List.map_map]
    rfl
  obtain ⟨j, hj, hfold, hle⟩ := foldl_least_range key (fun v => ∃ n p, v = .fin n p)
    (fun v w ⟨n, p, hv⟩ ⟨m, r, hw⟩ => by rw [hv, hw]; exact hkey n m p r) (laneVal fm t a) i
    (fun j hj => (hq j (by omega)).imp fun n hn => ⟨_, hn⟩) hvals
  refine ⟨j, hj, ?_, hle⟩
  rw [List.foldl_map] at hfold
  rw [vScan_lane hi (.inl hop), (reduceLanes_pick hop hxl fm g).1, isInt_of_isFloat hf, if_neg (by decide), hfold,
    Nat.mod_eq_of_lt (enc_lt (isArith_of_isFloat hf) _ _ _ _)]

theorem vScan_min_float (hf : isFloat t = true) {q : Nat → Rat}
    (hq : ∀ j, j < lanes t → ∃ n, laneVal fm t a j = .fin n (q j)) :
    ∃ j, j ≤ i ∧ elem (vScan fm g 1 t a).data t i = (enc fm (laneVal fm t a j) t (fmodeRM fm) 0).1 ∧
      ∀ k, k ≤ i → q j ≤ q k := by
  obtain ⟨j, hj, he, hle⟩ := vScan_pick_float hi fm g a hf (op := 1) (by decide) finPart hq fun n m p r => by
    rw [show ((1 : Nat) == 2) = false from rfl, pickVal_min_fin]
    dsimp only
    split
    · next h => exact ⟨.inr rfl, le_of_ltVal h, le_rfl⟩
    · next h => exact ⟨.inl rfl, le_rfl, le_of_not_ltVal h⟩
  refine ⟨j, hj, he, fun k hk => ?_⟩
  rw [← finPart_laneVal hq (show j < lanes t by omega), ← finPart_laneVal hq (show k < lanes t by omega)]
  exact hle k hk

theorem vScan_max_float (hf : isFloat t = true) {q : Nat → Rat}
    (hq : ∀ j, j < lanes t → ∃ n, laneVal fm t a j = .fin n (q j)) :
    ∃ j, j ≤ i ∧ elem (vScan fm g 2 t a).data t i = (enc fm (laneVal fm t a j) t (fmodeRM fm) 0).1 ∧
      ∀ k, k ≤ i → q k ≤ q j := by
  obtain ⟨j, hj, he, hle⟩ := vScan_pick_float hi fm g a hf (op := 2) (by decide) (fun v => -finPart v) hq
    fun n m p r => by
    rw [show ((2 : Nat) == 2) = true from rfl, pickVal_max_fin]
    dsimp only
    split
    · next h => exact ⟨.inr rfl, neg_le_neg (le_of_ltVal h), le_rfl⟩
    · next h => exact ⟨.inl rfl, le_rfl, neg_le_neg (le_of_not_ltVal h)⟩
  refine ⟨j, hj, he, fun k hk => ?_⟩
  rw [← finPart_laneVal hq (show j < lanes t by omega), ← finPart_laneVal hq (show k < lanes t by omega)]
  exact neg_le_neg_iff.mp (hle k hk)

theorem vScan_add_float (hf : isFloat t = true) : elem (vScan fm g 0 t a).data t i =
    roundedTo fm t (fmodeRM fm) g (i + 1) (sumVal (fmodeRM fm) (laneSum fm t a (i + 1))).1 := by
  have hsrg : ∀ j k, (reduceLanes fm 0 (j + 1) t a (laneSrg (fmodeRM fm) g k)).2.2 = laneSrg (fmodeRM fm) g (k + 1) :=
    fun j k => (reduceLanes_add_float hf ..).2.trans (encStep_srg ..)
  rw [vScan, lanesRes_elem hi (lane_fits hi), laneOut, runLanes_srg_all hsrg, (reduceLanes_add_float hf ..).1,
    encStep_code, Nat.mod_eq_of_lt (roundedTo_lt (isArith_of_isFloat hf) ..)]

end least

theorem vReduce_add_float {t : Tag} (hf : isFloat t = true) (fm g : Word) (a : Vec) :
    elem (vReduce fm g 0 t a).data t 0 =
      roundedTo fm t (fmodeRM fm) g 1 (sumVal (fmodeRM fm) (laneSum fm t a (lanes t))).1 := by
  have hcode := encStep_code fm (fmodeRM fm) t g 0 (sumVal (fmodeRM fm) (laneSum fm t a (lanes t))).1
  rw [laneSrg_zero] at hcode
  rw [vReduce_first, (reduceLanes_add_float hf ..).1, hcode, Nat.mod_eq_of_lt (roundedTo_lt (isArith_of_isFloat hf) ..)]

theorem wholeRegisterLanes {t u : Tag} (hu : isArith u = true) (fm g : Word) (rm : RoundMode) (a : Vec) (i : Nat) :
    WholeRegisterLanes fm g t u rm a i := by
  refine ⟨fun hi => vConvert_lane hu hi fm g rm a, fun h0 op hi => vReduce_rest h0 hi fm g op a,
    fun ht => ⟨?_, fun hi => ⟨?_, vScan_min_int hi fm g a ht, vScan_max_int hi fm g a ht⟩,
      fun op _ => vReduce_eq_vScan ht fm g op a⟩,
    fun hf q hq => ⟨fun hne => ?_, fun hi hne => ?_, fun hi =>
      ⟨vScan_min_float hi fm g a hf hq, vScan_max_float hi fm g a hf hq⟩⟩⟩
  · rw [vReduce_first, reduceLanes_add_int ht, Nat.mod_mod]
  · rw [vScan_lane hi (.inr ht), reduceLanes_add_int ht, Nat.mod_mod]
  · rw [vReduce_add_float hf, sumVal_laneSum _ hq hne]
  · rw [vScan_add_float hi fm g a hf, sumVal_laneSum _ (fun j hj => hq j (by omega)) hne]

/-! ### VPERM and VRETAG (R147, R151) -/

theorem width_indexTag {t : Tag} (h : t ≠ .mask) : width (indexTag t) = 512 / lanes t := by
  cases t with
  | mask => exact absurd rfl h
  | raw | i8 | i16 | i32 | n8 | n16 | n32 | fp16 | bf16 | fp32 | dm8 => rfl

theorem lanes_dvd_width (t : Tag) : lanes t ∣ 2 ^ width (indexTag t) := by cases t <;> decide

/-- A permutation's index is a lane of the register of indices, modulo the number of lanes. -/
theorem index_mod_lanes {t : Tag} (h : t ≠ .mask) (b : Vec) (i : Nat) :
    elem b (indexTag t) i % lanes t = b.toNat / 2 ^ (i * (512 / lanes t)) % lanes t := by
  rw [elem_eq, Nat.mod_mod_of_dvd _ (lanes_dvd_width t), width_indexTag h]

theorem vperm_lane {d a b : F6} {s : State} {r : VecRow} {i : Nat} (hr : vectorRow (.vperm d a b) = some r)
    (ho : r.ok (me s) = true) (hi : i < lanes (vtagOf (me s) a.toNat)) :
    elem (r.res s).data (vtagOf (me s) a.toNat) i = if bit (ereg (me s) 0) i then
      elem (vreg (me s) a.toNat) (vtagOf (me s) a.toNat) ((vreg (me s) b.toNat).toNat /
        2 ^ (i * (512 / lanes (vtagOf (me s) a.toNat))) % lanes (vtagOf (me s) a.toNat))
      else elem (vreg (me s) d.toNat) (vtagOf (me s) a.toNat) i := by
  cases hr
  have hm : vtagOf (me s) a.toNat ≠ .mask := by
    simp only [Bool.and_eq_true, bne_iff_ne] at ho
    exact ho.1.1
  rw [← index_mod_lanes hm]
  exact vMasked_lane hi _ _ _ (elem_lt _ _ _)

theorem vRetag_data (g : Word) (t : Tag) (a : Vec) :
    (vRetag g t a).data = if t = .mask then a &&& 0xFFFFFFFFFFFFFFFF#512 else a := by
  rw [vRetag, plainRes, tagBits]
  refine if_congr .rfl (BitVec.eq_of_toNat_eq ?_) rfl
  rw [BitVec.toNat_and, BitVec.toNat_setWidth, BitVec.toNat_setWidth]
  have hlt : 2 ^ 64 < 2 ^ 512 := Nat.pow_lt_pow_right (by decide) (by decide)
  have hmask : (0xFFFFFFFFFFFFFFFF#512).toNat = 2 ^ 64 - 1 :=
    (BitVec.toNat_ofNat _ _).trans (Nat.mod_eq_of_lt (lt_trans (by decide : 0xFFFFFFFFFFFFFFFF < 2 ^ 64) hlt))
  rw [hmask, Nat.and_two_pow_sub_one_eq_mod]
  exact Nat.mod_eq_of_lt ((Nat.mod_lt _ (Nat.two_pow_pos _)).trans hlt)

end Sys2Proof.Machine
end

section
/-! SUPPORT. Which of two neighbouring codes a value between them is rounded to (R66, R68, R79 to R81): the choice by
the mode, the codes on either side of a DM8 magnitude, and those of a binary format, whose codes count units of their
binade. -/

namespace Sys2Proof.Machine

/-! ### The choice between two neighbours (R80) -/

/-- A share of a gap beyond its middle lies nearer to its upper end. -/
theorem roundsUp_iff {rm : RoundMode} {r : Nat} {neg even : Bool} {lo v hi : Rat} (hlo : lo < v) (hhi : v < hi) :
    roundsUp rm r neg ((v - lo) / (hi - lo)) even = true ↔ takesUpper rm r neg even lo v hi := by
  have hd : 0 < hi - lo := by linarith
  cases rm with
  | rne =>
    have hlt : (v - lo) / (hi - lo) < 1 / 2 ↔ v - lo < hi - v := by
      rw [div_lt_iff₀ hd]; constructor <;> intro h <;> linarith
    have hgt : 1 / 2 < (v - lo) / (hi - lo) ↔ hi - v < v - lo := by
      rw [lt_div_iff₀ hd]; constructor <;> intro h <;> linarith
    simp only [roundsUp, takesUpper, hlt, hgt]
    rcases lt_trichotomy (v - lo) (hi - v) with h | h | h
    · simp [h, h.not_gt, h.ne']
    · simp [h]
    · simp [h, h.not_gt]
  | rtz => simp [roundsUp, takesUpper]
  | rdn => simp [roundsUp, takesUpper]
  | rup => simp [roundsUp, takesUpper]
  | rsto =>
    have h1 : 1 - (v - lo) / (hi - lo) = (hi - v) / (hi - lo) := by field_simp; ring
    have h2 : (2 : Rat) ^ 24 = 16777216 := by norm_num
    cases neg <;> simp [roundsUp, takesUpper, h1, h2]

/-- A signed magnitude, and the value that the encoders take its sign and its magnitude from. -/
theorem signed_neg_iff {neg : Bool} {v : Rat} (hv : 0 < v) : decide ((if neg then -v else v) < 0) = neg := by
  cases neg with
  | true => exact decide_eq_true (neg_lt_zero.mpr hv)
  | false => exact decide_eq_false hv.not_gt

theorem ite_neg_signed (neg : Bool) (v : Rat) :
    (if neg then -(if neg then -v else v) else (if neg then -v else v)) = v := by
  cases neg with
  | true => exact neg_neg v
  | false => rfl

/-- Nothing is flushed, if the format's bit is 0 or the value is not tiny (R79). -/
theorem not_flushed {fm : Word} {t : Tag} {v : Rat} (h : flushOut fm t = false ∨ tiny t ≤ v) :
    (flushOut fm t && decide (v < tiny t)) = false := by
  rcases h with h | h
  · rw [h]; rfl
  · rw [decide_eq_false h.not_gt, Bool.and_false]

/-- The flags of an inexact result (R77, R79). -/
theorem inexactFlags (p : Prop) [Decidable p] :
    (if p then flagUFNX else flagNX) = ⟨false, false, decide p, true⟩ := by
  by_cases h : p <;> simp [h, flagUFNX, flagNX]

/-! ### DM8 (R66, R68) -/

theorem val_dm8 {c : Nat} (hc : c < 128) : (val 0#64 .dm8 c).1 = .fin false (dm8Mag c) := by
  have htop : c.testBit 7 = false := Nat.testBit_lt_two_pow hc
  have hflush : flushIn 0#64 .dm8 = false := by decide
  rw [val, dm8Val, htop, hflush, Nat.mod_eq_of_lt hc]
  by_cases h0 : c = 0
  · subst h0; rfl
  · have hpos := dm8Mag_pos (Nat.pos_of_ne_zero h0) hc
    simp [h0, finVal, hpos.ne', hpos.le]

theorem encDm8_between {fm : Word} {rm : RoundMode} {r c : Nat} {neg : Bool} {v : Rat} (hc : c + 1 < 128)
    (hlo : dm8Mag c < v) (hhi : v < dm8Mag (c + 1)) (hfl : flushOut fm .dm8 = false ∨ tiny .dm8 ≤ v) :
    encDm8 fm (nonzero (if neg then -v else v)) rm r =
      (dm8Code neg (if roundsUp rm r neg ((v - dm8Mag c) / (dm8Mag (c + 1) - dm8Mag c)) (c % 2 == 0) then c + 1 else c),
        ⟨false, false, decide (v < tiny .dm8), true⟩) := by
  have hv : 0 < v := (dm8Mag_nonneg (by omega)).trans_lt hlo
  have hmax : ¬ 1000000 < v := by
    rw [← dm8Mag_max]
    exact (hhi.trans_le (dm8Mag_le (by omega) (by decide))).not_gt
  have hbelow : dm8Below v = c := dm8Below_eq (by omega) hlo.le fun _ => hhi
  simp only [encDm8, nonzero, signed_neg_iff hv, ite_neg_signed, if_neg hv.ne', not_flushed hfl, if_neg hmax, hbelow,
    if_neg hlo.ne, inexactFlags, Bool.false_eq_true, if_false]

/-! ### Binary formats (R62, R80, R81) -/

section binary
variable {t : Tag}

/-- The binade of a code above the least, subnormals being of the least, and the units of the binade that it counts. -/
def binade (t : Tag) (c : Nat) : Nat := c / 2 ^ fracBits t - 1
def binUnits (t : Tag) (c : Nat) : Nat := c - binade t c * 2 ^ fracBits t

/-- One unit of a code's binade. -/
def binUlp (t : Tag) (c : Nat) : Rat := pow2 (minExp t + binade t c - fracBits t)

theorem binUlp_pos (t : Tag) (c : Nat) : 0 < binUlp t c := pow2_pos _

theorem binade_mul_le (t : Tag) (c : Nat) : binade t c * 2 ^ fracBits t ≤ c :=
  (Nat.mul_le_mul_right _ (Nat.sub_le _ _)).trans (Nat.div_mul_le_self _ _)

theorem code_eq (t : Tag) (c : Nat) : binade t c * 2 ^ fracBits t + binUnits t c = c :=
  Nat.add_sub_cancel' (binade_mul_le t c)

theorem binUnits_eq (t : Tag) (c : Nat) : binUnits t c =
    if c / 2 ^ fracBits t = 0 then c % 2 ^ fracBits t else 2 ^ fracBits t + c % 2 ^ fracBits t := by
  have hc := Nat.div_add_mod' c (2 ^ fracBits t)
  unfold binUnits binade
  split
  · next h => rw [h] at hc ⊢; omega
  · next h =>
    obtain ⟨k, hk⟩ := Nat.exists_eq_succ_of_ne_zero h
    rw [hk, Nat.succ_eq_add_one, Nat.add_mul] at hc
    rw [hk, Nat.succ_eq_add_one, Nat.add_sub_cancel]
    omega

theorem binUnits_lt (t : Tag) (c : Nat) : binUnits t c < 2 * 2 ^ fracBits t := by
  have hm := Nat.mod_lt c (Nat.two_pow_pos (fracBits t))
  rw [binUnits_eq]
  split <;> omega

theorem binUnits_ge {c : Nat} (h : binade t c ≠ 0) : 2 ^ fracBits t ≤ binUnits t c := by
  have h0 : c / 2 ^ fracBits t ≠ 0 := fun h0 => h (by rw [binade, h0])
  rw [binUnits_eq, if_neg h0]
  exact Nat.le_add_right _ _

/-- One code more is one unit more, of the same binade even where the next begins. -/
theorem binUnits_succ (t : Tag) (c : Nat) :
    (binUnits t (c + 1) : Rat) * binUlp t (c + 1) = (binUnits t c + 1) * binUlp t c := by
  have h1 := code_eq t c
  have h2 := code_eq t (c + 1)
  by_cases hb : binade t (c + 1) = binade t c
  · rw [hb] at h2
    rw [binUlp, binUlp, hb, show binUnits t (c + 1) = binUnits t c + 1 by omega]
    push_cast; ring
  · have hs := Nat.succ_div (a := c) (b := 2 ^ fracBits t)
    have hb' : binade t (c + 1) = binade t c + 1 ∧ 2 ^ fracBits t ∣ c + 1 := by
      unfold binade at hb ⊢
      split at hs
      · next hd => exact ⟨by omega, hd⟩
      · omega
    obtain ⟨hb1, hd⟩ := hb'
    have hn : binUnits t (c + 1) = 2 ^ fracBits t := by
      have h0 : (c + 1) / 2 ^ fracBits t ≠ 0 := by unfold binade at hb1; omega
      rw [binUnits_eq, if_neg h0, Nat.mod_eq_zero_of_dvd hd, Nat.add_zero]
    have hn' : binUnits t c + 1 = 2 * 2 ^ fracBits t := by
      rw [hb1, Nat.add_mul, hn] at h2
      omega
    have hulp : binUlp t (c + 1) = 2 * binUlp t c := by
      rw [binUlp, binUlp, hb1, pow2_eq_zpow, pow2_eq_zpow, ← zpow_one_add₀ (by norm_num)]
      congr 1
      push_cast; ring
    rw [hulp, hn, show (binUnits t c : Rat) + 1 = ((binUnits t c + 1 : Nat) : Rat) by push_cast; rfl, hn']
    push_cast; ring

theorem flushIn_zero (t : Tag) : flushIn 0#64 t = false := by cases t <;> decide

theorem finVal_nonneg {q : Rat} (h : 0 ≤ q) : finVal false q = .fin false q := by
  unfold finVal
  split
  · next h0 => rw [h0]
  · rw [decide_eq_false h.not_gt]

theorem val_code (hf : isFloat t = true) (hd : t ≠ .dm8) {c : Nat} (hc : c < infCode t false) :
    (val 0#64 t c).1 = .fin false (binUnits t c * binUlp t c) := by
  have hlt := hc.trans (infCode_lt t)
  have htop : c.testBit (fracBits t + expBits t) = false := Nat.testBit_lt_two_pow hlt
  have he : c / 2 ^ fracBits t < 2 ^ expBits t - 1 := by
    rw [Nat.div_lt_iff_lt_mul (Nat.two_pow_pos _), ← infCode_false]; exact hc
  have hnn : (0 : Rat) ≤ binUnits t c * binUlp t c := mul_nonneg (Nat.cast_nonneg _) (binUlp_pos t c).le
  rw [val_binary hf hd, fpVal, htop, flushIn_zero, Nat.mod_eq_of_lt (he.trans_le (Nat.sub_le _ _))]
  rw [← finVal_nonneg hnn]
  simp only [if_neg he.ne, Bool.false_eq_true, if_false, binUnits_eq, binUlp, binade]
  split
  · next h0 => simp [h0]
  · next h0 => rw [Nat.cast_sub (Nat.one_le_iff_ne_zero.mpr h0)]; rfl

end binary

/-! ### The binade of a magnitude (R80) -/

theorem pow2_lt_iff {d e : Int} : pow2 d < pow2 e ↔ d < e := by
  rw [pow2_eq_zpow, pow2_eq_zpow]
  exact zpow_lt_zpow_iff_right₀ (by norm_num)

/-- The quotient of two powers of 2. -/
theorem pow2_sub (a b : Nat) : pow2 ((a : Int) - b) = (2 : Rat) ^ a / 2 ^ b := by
  rw [pow2_eq_zpow, zpow_sub₀ (by norm_num), zpow_natCast, zpow_natCast]

theorem log2Floor_spec {q : Rat} (hq : 0 < q) : pow2 (log2Floor q) ≤ q ∧ q < pow2 (log2Floor q + 1) := by
  have hnum := Rat.num_pos.mpr hq
  obtain ⟨n, hn⟩ := Int.eq_ofNat_of_zero_le hnum.le
  have hqn : q = (n : Rat) / q.den := by
    conv_lhs => rw [← Rat.num_div_den q, hn]
    rfl
  have hn0 : n ≠ 0 := by rintro rfl; omega
  have hn1 : (2 : Rat) ^ n.log2 ≤ n := by exact_mod_cast Nat.log2_self_le hn0
  have hn2 : (n : Rat) < 2 ^ (n.log2 + 1) := by exact_mod_cast Nat.lt_log2_self
  have hd1 : (2 : Rat) ^ q.den.log2 ≤ q.den := by exact_mod_cast Nat.log2_self_le q.den_nz
  have hd2 : (q.den : Rat) < 2 ^ (q.den.log2 + 1) := by exact_mod_cast Nat.lt_log2_self
  have hup : q < pow2 ((n.log2 : Int) - q.den.log2 + 1) := by
    rw [show (n.log2 : Int) - q.den.log2 + 1 = ((n.log2 + 1 : Nat) : Int) - q.den.log2 by push_cast; ring, pow2_sub]
    conv_lhs => rw [hqn]
    exact div_lt_div₀ hn2 hd1 (by positivity) (by positivity)
  have hdown : pow2 ((n.log2 : Int) - q.den.log2 - 1) < q := by
    rw [show (n.log2 : Int) - q.den.log2 - 1 = (n.log2 : Int) - ((q.den.log2 + 1 : Nat) : Int) by push_cast; ring,
      pow2_sub]
    conv_rhs => rw [hqn]
    exact div_lt_div₀' hn1 hd2 (Nat.cast_pos.mpr (Nat.pos_of_ne_zero hn0)) (by have := q.den_pos; positivity)
  have hk : log2Floor q = if pow2 ((n.log2 : Int) - q.den.log2) ≤ q then (n.log2 : Int) - q.den.log2
      else (n.log2 : Int) - q.den.log2 - 1 := by
    rw [log2Floor, hn]
    rfl
  rw [hk]
  split
  · next h => exact ⟨h, hup⟩
  · next h => exact ⟨hdown.le, by rw [Int.sub_add_cancel]; exact not_le.mp h⟩

theorem le_log2Floor {q : Rat} {e : Int} (hq : 0 < q) (h : pow2 e ≤ q) : e ≤ log2Floor q :=
  Int.lt_add_one_iff.mp (pow2_lt_iff.mp (h.trans_lt (log2Floor_spec hq).2))

theorem log2Floor_lt {q : Rat} {e : Int} (hq : 0 < q) (h : q < pow2 e) : log2Floor q < e :=
  pow2_lt_iff.mp ((log2Floor_spec hq).1.trans_lt h)

/-! ### Rounding in a binary format (R80, R81) -/

theorem roundUnits_between {n : Nat} {u : Rat} (h1 : (n : Rat) < u) (h2 : u < n + 1) (rm : RoundMode) (r : Nat)
    (neg : Bool) : roundUnits rm r neg u = (if roundsUp rm r neg (u - n) (n % 2 == 0) then n + 1 else n, true) := by
  have hfloor : u.floor = n := le_antisymm
    (Int.lt_add_one_iff.mp (by have := (Rat.le_floor_iff.mp (le_refl u.floor)).trans_lt h2; exact_mod_cast this))
    (Rat.le_floor_iff.mpr (by exact_mod_cast h1.le))
  rw [roundUnits, hfloor]
  exact if_neg (sub_ne_zero.mpr h1.ne')

section between
variable {t : Tag} {c : Nat} {v : Rat} (hlo : binUnits t c * binUlp t c < v) (hhi : v < (binUnits t c + 1) * binUlp t c)
include hlo

theorem between_pos : 0 < v := (mul_nonneg (Nat.cast_nonneg _) (binUlp_pos t c).le).trans_lt hlo

include hhi

/-- A magnitude between two codes has the binade of the lower one, or lies below all binades. -/
theorem max_log2Floor : max (log2Floor v) (minExp t) = minExp t + binade t c := by
  have hv := between_pos hlo
  have htop : pow2 (minExp t + binade t c + 1) = 2 * 2 ^ fracBits t * binUlp t c := by
    rw [binUlp, pow2_eq_zpow, pow2_eq_zpow, ← zpow_natCast, ← zpow_one_add₀ (by norm_num), ← zpow_add₀ (by norm_num)]
    congr 1
    ring
  have hbase : pow2 (minExp t + binade t c) = 2 ^ fracBits t * binUlp t c := by
    rw [binUlp, pow2_eq_zpow, pow2_eq_zpow, ← zpow_natCast, ← zpow_add₀ (by norm_num)]
    congr 1
    ring
  have hle : log2Floor v < minExp t + binade t c + 1 := by
    have hn : (binUnits t c : Rat) + 1 ≤ 2 * 2 ^ fracBits t := by exact_mod_cast binUnits_lt t c
    refine log2Floor_lt hv (hhi.trans_le ?_)
    rw [htop]
    exact mul_le_mul_of_nonneg_right hn (binUlp_pos t c).le
  by_cases hb : binade t c = 0
  · rw [hb] at hle ⊢
    omega
  · have hn : (2 : Rat) ^ fracBits t ≤ binUnits t c := by exact_mod_cast binUnits_ge hb
    have hge : minExp t + binade t c ≤ log2Floor v := le_log2Floor hv (by
      rw [hbase]
      exact (mul_le_mul_of_nonneg_right hn (binUlp_pos t c).le).trans hlo.le)
    omega

theorem encFloat_between {fm : Word} {rm : RoundMode} {r : Nat} {neg : Bool} (hp : 0 < fracBits t)
    (hc : c + 1 < infCode t false) (hfl : flushOut fm t = false ∨ tiny t ≤ v) :
    encFloat fm (nonzero (if neg then -v else v)) t rm r =
      (signBit t neg +
          (if roundsUp rm r neg ((v - binUnits t c * binUlp t c) / binUlp t c) (c % 2 == 0) then c + 1 else c),
        ⟨false, false, decide (v < tiny t), true⟩) := by
  have hv := between_pos hlo
  have hu := binUlp_pos t c
  have hround := roundUnits_between ((lt_div_iff₀ hu).mpr hlo) ((div_lt_iff₀ hu).mpr hhi) rm r neg
  have hfrac : v / binUlp t c - binUnits t c = (v - binUnits t c * binUlp t c) / binUlp t c := by field_simp
  have heven : binUnits t c % 2 = c % 2 := by
    obtain ⟨p, hp⟩ := Nat.exists_eq_succ_of_ne_zero hp.ne'
    have h := code_eq t c
    rw [hp, Nat.pow_succ, ← Nat.mul_assoc] at h
    omega
  have hulp : pow2 (minExp t + binade t c - fracBits t) = binUlp t c := rfl
  have hbinade : (minExp t + (binade t c : Int) - minExp t).toNat = binade t c := by
    rw [add_sub_cancel_left, Int.toNat_natCast]
  have hcode : ∀ b : Bool, binade t c * 2 ^ fracBits t + (if b then binUnits t c + 1 else binUnits t c) =
      if b then c + 1 else c := fun b => by
    have h := code_eq t c
    split <;> omega
  have hfinite : ∀ b : Bool, ¬ infCode t false ≤ if b then c + 1 else c := fun b => by split <;> omega
  rw [hfrac, heven] at hround
  simp only [encFloat, nonzero, signed_neg_iff hv, ite_neg_signed, if_neg hv.ne', not_flushed hfl,
    max_log2Floor hlo hhi, hulp, hround, hbinade, hcode, if_neg (hfinite _), Bool.false_eq_true, if_false, if_true,
    ← infCode_false, inexactFlags]

end between

/-! ### The codes on both sides -/

theorem dm8Code_eq (neg : Bool) (c : Nat) :
    dm8Code neg c = if c = 0 then 0 else (if neg then 2 ^ (width .dm8 - 1) else 0) + c := by
  unfold dm8Code
  cases neg with
  | true => rfl
  | false => simp

theorem enc_dm8 (fm : Word) (v : Val) (rm : RoundMode) (r : Nat) : enc fm v .dm8 rm r = encDm8 fm v rm r := rfl

theorem roundsToNeighbour_dm8 {c : Nat} (hc : c + 1 < 128) (fm : Word) (rm : RoundMode) (r : Nat) (neg : Bool)
    (v : Rat) : RoundsToNeighbour fm .dm8 rm r c neg v := by
  intro lo hi hlo hhi hlov hvhi hfl
  rw [val_dm8 (by omega)] at hlo hhi
  cases hlo
  cases hhi
  have henc := (enc_dm8 fm _ rm r).trans (encDm8_between (neg := neg) hc hlov hvhi hfl)
  dsimp only
  rw [← roundsUp_iff hlov hvhi, henc]
  refine ⟨fun h => ?_, fun h => ?_, rfl⟩
  · rw [if_pos h, dm8Code_eq, if_neg c.succ_ne_zero]
  · rw [if_neg h, dm8Code_eq]
    exact if_congr (by rw [eq_self_iff_true, true_and]) rfl rfl

theorem roundsToNeighbour_binary {t : Tag} (hf : isFloat t = true) (hd : t ≠ .dm8) {c : Nat}
    (hc : c + 1 < infCode t false) (fm : Word) (rm : RoundMode) (r : Nat) (neg : Bool) (v : Rat) :
    RoundsToNeighbour fm t rm r c neg v := by
  intro lo hi hlo hhi hlov hvhi hfl
  rw [val_code hf hd (by omega)] at hlo hhi
  rw [binUnits_succ] at hhi
  cases hlo
  cases hhi
  have hp : 0 < fracBits t := by cases t <;> decide
  have hgap : (binUnits t c + 1) * binUlp t c - binUnits t c * binUlp t c = binUlp t c := by ring
  have henc := (enc_binary hf hd fm _ rm r).trans (encFloat_between (neg := neg) hlov hvhi hp hc hfl)
  dsimp only
  rw [← roundsUp_iff hlov hvhi, hgap, henc, signBit_eq hf hd]
  refine ⟨fun h => ?_, fun h => ?_, rfl⟩
  · rw [if_pos h]
  · rw [if_neg h, if_neg (show ¬ (t = .dm8 ∧ c = 0) from fun hdc => hd hdc.1)]

/-- Settles O31, by the kind of tag: each operation's lane in turn, then the neighbours of a value by its format. -/
theorem integerLaneResults : Obligations.IntegerLaneResults := by
  refine ⟨fun fm g e0 t a b d i ht hi => integerLanes ht hi fm g e0 a b d,
    fun fm g e0 t a b d i hf hi => ⟨finiteLanes hf hi fm g e0 a b d, specialLanes hf hi fm g e0 a b d⟩,
    fun fm g t u rm a i _ hu => wholeRegisterLanes hu fm g rm a i, fun d a b s r i hr ho hi => vperm_lane hr ho hi,
    fun g t a => ⟨rfl, vRetag_data g t a⟩, fun fm t rm r c neg v hf _ hc => ?_⟩
  by_cases hd : t = .dm8
  · subst hd
    exact roundsToNeighbour_dm8 hc fm rm r neg v
  · rw [if_neg hd] at hc
    exact roundsToNeighbour_binary hf hd hc fm rm r neg v

end Sys2Proof.Machine
end

section
/-! SUPPORT. Bytes of numbers and of lines (R2, R14): what a number made of bytes holds at each place, what the masks of
spans and granules name, and what a byte of a merged line is. -/

namespace Sys2Proof.Machine

/-! ### Numbers made of bytes (R2) -/

theorem bytesNat_succ (f : Nat → Byte) (n : Nat) : bytesNat f (n + 1) = bytesNat f n + (f n).toNat * 256 ^ n := by
  rw [bytesNat, List.range_succ, List.foldl_append]
  rfl

theorem bytesNat_lt (f : Nat → Byte) (n : Nat) : bytesNat f n < 256 ^ n := by
  induction n with
  | zero => exact Nat.one_pos
  | succ n ih =>
    have hb : (f n).toNat + 1 ≤ 256 := (f n).isLt
    calc bytesNat f (n + 1) < 256 ^ n + (f n).toNat * 256 ^ n := by rw [bytesNat_succ]; omega
      _ = ((f n).toNat + 1) * 256 ^ n := by ring
      _ ≤ 256 * 256 ^ n := Nat.mul_le_mul_right _ hb
      _ = 256 ^ (n + 1) := by ring

/-- Place i of a number made of bytes. -/
theorem bytesNat_div (f : Nat → Byte) {n i : Nat} (hi : i < n) : bytesNat f n / 256 ^ i % 256 = (f i).toNat := by
  induction n with
  | zero => omega
  | succ n ih =>
    have hp : 0 < 256 ^ i := Nat.pow_pos (by decide)
    rw [bytesNat_succ]
    rcases Nat.lt_succ_iff_lt_or_eq.mp hi with h | rfl
    · have he : (f n).toNat * 256 ^ n = 256 ^ i * (256 * ((f n).toNat * 256 ^ (n - i - 1))) := by
        rw [show 256 ^ n = 256 ^ i * (256 * 256 ^ (n - i - 1)) by
          rw [← Nat.pow_succ', ← Nat.pow_add]; congr 1; omega]
        ring
      rw [he, Nat.add_mul_div_left _ _ hp, Nat.add_mul_mod_self_left, ih h]
    · rw [Nat.mul_comm, Nat.add_mul_div_left _ _ hp, Nat.div_eq_of_lt (bytesNat_lt f i), Nat.zero_add,
        Nat.mod_eq_of_lt (f i).isLt]

theorem bytesNat_congr {f g : Nat → Byte} {n : Nat} (h : ∀ i, i < n → f i = g i) : bytesNat f n = bytesNat g n := by
  induction n with
  | zero => rfl
  | succ n ih => rw [bytesNat_succ, bytesNat_succ, ih fun i hi => h i (by omega), h n (by omega)]

/-- The bytes of a number make it up, modulo 256^n. -/
theorem bytesNat_ofNat (x n : Nat) : bytesNat (fun i => BitVec.ofNat 8 (x / 256 ^ i)) n = x % 256 ^ n := by
  induction n with
  | zero => exact (Nat.mod_one x).symm
  | succ n ih =>
    rw [bytesNat_succ, ih, BitVec.toNat_ofNat, show 256 ^ (n + 1) = 256 ^ n * 256 from rfl, Nat.mod_mul (a := 256 ^ n) (b := 256),
      Nat.mul_comm (256 ^ n)]

theorem bytesNat_testBit (f : Nat → Byte) (n j : Nat) :
    (bytesNat f n).testBit j = (decide (j < 8 * n) && (f (j / 8)).getLsbD (j % 8)) := by
  by_cases hj : j < 8 * n
  · have h := congrArg (Nat.testBit · (j % 8)) (bytesNat_div f (show j / 8 < n by omega))
    rw [show (256 : Nat) = 2 ^ 8 by rfl, ← Nat.pow_mul] at h
    simp only [Nat.testBit_mod_two_pow, Nat.testBit_div_two_pow, Nat.mod_lt j (show 0 < 8 by decide), decide_true,
      Bool.true_and] at h
    rw [decide_eq_true hj, Bool.true_and, BitVec.getLsbD, ← h, Nat.mod_add_div]
  · rw [decide_eq_false hj, Bool.false_and]
    refine Nat.testBit_lt_two_pow ((bytesNat_lt f n).trans_le ?_)
    rw [show (256 : Nat) = 2 ^ 8 by rfl, ← Nat.pow_mul]
    exact Nat.pow_le_pow_right (by decide) (by omega)

/-! ### Lines and their bytes (R14, R165) -/

theorem getLsbD_lineByte (d : BitVec 1024) (i k : Nat) :
    (lineByte d i).getLsbD k = (decide (k < 8) && d.getLsbD (8 * i + k)) := by
  rw [lineByte, BitVec.getLsbD_extractLsb']

theorem getLsbD_line (d : BitVec 1024) (j : Nat) : d.getLsbD j = (lineByte d (j / 8)).getLsbD (j % 8) := by
  rw [getLsbD_lineByte, Nat.div_add_mod, decide_eq_true (Nat.mod_lt j (by decide)), Bool.true_and]

/-- A line is what its bytes are. -/
theorem line_ext {d e : BitVec 1024} (h : ∀ i, i < 128 → lineByte d i = lineByte e i) : d = e := by
  refine BitVec.eq_of_getLsbD_eq fun j hj => ?_
  rw [getLsbD_line, getLsbD_line, h _ (by omega)]

theorem byteBits_eq (m : BitVec 128) :
    byteBits m = BitVec.ofNat 1024 (bytesNat (fun i => if inMask m i then 255#8 else 0#8) 128) := by
  refine congrArg (BitVec.ofNat 1024) (congrArg (fun f => (List.range 128).foldl f 0) ?_)
  funext acc i
  by_cases h : inMask m i = true <;> simp [h]

theorem getLsbD_byteBits (m : BitVec 128) (j : Nat) : (byteBits m).getLsbD j = inMask m (j / 8) := by
  have h255 : (255#8).getLsbD (j % 8) = true := by
    have : ∀ k, k < 8 → (255#8).getLsbD k = true := by decide
    exact this _ (Nat.mod_lt _ (by decide))
  rw [byteBits_eq, BitVec.getLsbD_ofNat, bytesNat_testBit]
  by_cases hj : j < 1024
  · simp only [hj, decide_true, Bool.true_and]
    cases inMask m (j / 8) with
    | true => exact h255
    | false => simp
  · rw [decide_eq_false hj, Bool.false_and, inMask, BitVec.getLsbD_of_ge _ _ (by omega)]

theorem lineByte_mergeLine (d e : BitVec 1024) (m : BitVec 128) (i : Nat) :
    lineByte (mergeLine d e m) i = if inMask m i then lineByte e i else lineByte d i := by
  refine BitVec.eq_of_getLsbD_eq fun k hk => ?_
  have hdiv : (8 * i + k) / 8 = i := by omega
  have hlt : 8 * i + k < 1024 ∨ 128 ≤ i := by omega
  rw [apply_ite (fun b : Byte => b.getLsbD k), getLsbD_lineByte, getLsbD_lineByte, getLsbD_lineByte, mergeLine,
    BitVec.getLsbD_or, BitVec.getLsbD_and, BitVec.getLsbD_and, BitVec.getLsbD_not, getLsbD_byteBits, hdiv]
  rcases hlt with h | h
  · cases inMask m i <;> simp [h]
  · rw [BitVec.getLsbD_of_ge d _ (by omega), BitVec.getLsbD_of_ge e _ (by omega)]
    simp

theorem inMask_and {w : Nat} (a b : BitVec w) (i : Nat) : inMask (a &&& b) i = (inMask a i && inMask b i) :=
  BitVec.getLsbD_and

theorem inMask_or {w : Nat} (a b : BitVec w) (i : Nat) : inMask (a ||| b) i = (inMask a i || inMask b i) :=
  BitVec.getLsbD_or

theorem inMask_not (a : BitVec 128) {i : Nat} (hi : i < 128) : inMask (~~~a) i = !inMask a i := by
  rw [inMask, BitVec.getLsbD_not, decide_eq_true hi, Bool.true_and, inMask]

@[simp] theorem inMask_zero {w : Nat} (i : Nat) : inMask (0#w) i = false := BitVec.getLsbD_zero

theorem mask_ext {a b : BitVec 128} (h : ∀ i, i < 128 → inMask a i = inMask b i) : a = b :=
  BitVec.eq_of_getLsbD_eq h

/-- A mask has no byte outside another. -/
theorem mask_sub_iff (a b : BitVec 128) : a &&& ~~~b = 0 ↔ ∀ i, i < 128 → inMask a i = true → inMask b i = true := by
  constructor
  · intro h i hi ha
    have hb := congrArg (inMask · i) h
    simpa [inMask_and, inMask_not b hi, ha] using hb
  · intro h
    refine mask_ext fun i hi => ?_
    rw [inMask_and, inMask_not b hi]
    cases ha : inMask a i with
    | false => simp
    | true => simp [h i hi ha]

theorem inMask_spanMask (o n i : Nat) : inMask (spanMask o n) i = (decide (i < 128) && (decide (o ≤ i) && decide (i < o + n))) := by
  rw [inMask, spanMask, BitVec.getLsbD_ofNat, Nat.testBit_mul_two_pow, Nat.testBit_two_pow_sub_one]
  congr 1
  by_cases h : o ≤ i
  · rw [decide_eq_true h, Bool.true_and, Bool.true_and]
    exact decide_eq_decide.mpr (by omega)
  · simp [h]

theorem inMask_spanMask_iff {o n i : Nat} (hi : i < 128) : inMask (spanMask o n) i = true ↔ o ≤ i ∧ i < o + n := by
  simp [inMask_spanMask, hi]

/-- n bytes of a line as a number are its bytes. -/
theorem lineNat_eq (d : BitVec 1024) (o n : Nat) :
    lineNat d o n = bytesNat (fun i => lineByte d (o + i)) n := by
  apply Nat.eq_of_testBit_eq
  intro j
  rw [bytesNat_testBit, lineNat, show (256 : Nat) = 2 ^ 8 by rfl, ← Nat.pow_mul, ← Nat.pow_mul, Nat.testBit_mod_two_pow,
    Nat.testBit_div_two_pow]
  by_cases hj : j < 8 * n
  · rw [getLsbD_lineByte, decide_eq_true (Nat.mod_lt j (by decide)), Bool.true_and,
      show 8 * (o + j / 8) + j % 8 = j + 8 * o by omega]
    rfl
  · simp [hj]

theorem lineByte_natLine (v : Nat) {o n i : Nat} (h : o + n ≤ 128) (hi : i < n) :
    lineByte (natLine v o n) (o + i) = BitVec.ofNat 8 (v / 256 ^ i) := by
  refine BitVec.eq_of_getLsbD_eq fun k hk => ?_
  rw [getLsbD_lineByte, natLine, BitVec.getLsbD_ofNat, BitVec.getLsbD_ofNat, show (256 : Nat) = 2 ^ 8 by rfl,
    ← Nat.pow_mul, ← Nat.pow_mul, ← Nat.pow_mul, Nat.testBit_mul_two_pow, Nat.testBit_mod_two_pow,
    Nat.testBit_div_two_pow, show 8 * (o + i) + k - 8 * o = k + 8 * i by omega]
  simp [hk, show 8 * (o + i) + k < 1024 by omega, show 8 * o ≤ 8 * (o + i) + k by omega, show k + 8 * i < 8 * n by omega]

end Sys2Proof.Machine
end

section
/-! SUPPORT. Loads (R89, R160 to R165): what an access whose checks pass runs, the value that a load leaves in a scalar
register, and how a load completes at once or becomes outstanding. -/

namespace Sys2Proof.Machine

/-! ### The checks of an access (R158) -/

/-- An access that passes its checks goes on with what they answer. -/
theorem checkAccess_passes {s : State} {va n : Nat} {write vec : Bool} {v : Verdict} (h : Passes s va n write vec v)
    (k : Verdict → Res) : checkAccess s va n write vec k = k v := by
  obtain ⟨hb, hj, ha⟩ := h
  rw [checkAccess, hb]
  simp only [hj, ha, Bool.false_eq_true, if_false, if_true]

/-! ### The value of a load (R161, R162) -/

theorem stashNat_lt (c : LCore) (o n : Nat) : stashNat c o n < 256 ^ n := bytesNat_lt _ n

theorem lineNat_lt (d : BitVec 1024) (o n : Nat) : lineNat d o n < 256 ^ n := Nat.mod_lt _ (Nat.pow_pos (by decide))

/-- The bytes that a core holds are a number of their size. -/
theorem readNow_lt {s : State} {lc va n : Nat} {v : Verdict} {b : Nat} (h : readNow s lc va n v = some b) :
    b < 256 ^ n := by
  have no : ∀ {x : Nat}, (none : Option Nat) = some x → x < 256 ^ n := fun h => absurd h (Option.some_ne_none _).symm
  unfold readNow at h
  dsimp only at h
  split at h
  · exact Option.some.inj h ▸ stashNat_lt _ _ _
  · split at h
    · split at h
      · exact Option.some.inj h ▸ stashNat_lt _ _ _
      · exact no h
    · exact no h
  · split at h
    · exact no h
    · split at h
      · split at h
        · exact Option.some.inj h ▸ lineNat_lt _ _ _
        · exact no h
      · exact no h
  · exact no h

theorem toInt_ofNat_eq_sx (b w : Nat) : (BitVec.ofNat w b).toInt = sx b w := by
  rw [BitVec.toInt_eq_toNat_cond, BitVec.toNat_ofNat, sx]
  cases w with
  | zero => simp [Nat.mod_one]
  | succ w =>
    rw [Nat.add_sub_cancel, Nat.pow_succ']
    exact if_congr (by omega) rfl rfl

/-- n bytes extend to a word as the register's definition says. -/
theorem extendLoad_eq {n b : Nat} (h : b < 256 ^ n) (signed : Bool) : extendLoad signed n b = extended signed n b := by
  unfold extendLoad extended
  cases signed with
  | true => rw [if_pos rfl, if_pos rfl, BitVec.signExtend, toInt_ofNat_eq_sx]; rfl
  | false =>
    rw [show (256 : Nat) = 2 ^ 8 from rfl, ← Nat.pow_mul] at h
    apply BitVec.eq_of_toNat_eq
    simp [word, Nat.mod_eq_of_lt h]

/-! ### A load that becomes outstanding (R89) -/

theorem sendLoad_eq (s : State) (l : Load) : sendLoad s l = modMe s (awaiting · l) := by
  refine congrArg (modMe s) (funext fun x => ?_)
  unfold awaiting pendScalar
  by_cases hd : l.dst = 0
  · simp only [hd, if_true]
  · simp only [hd, if_false]

theorem awaiting_pc (x : Ctx) (l : Load) : (awaiting x l).pc = x.pc := by
  unfold awaiting
  split <;> rfl

theorem Changed.of_eq {n : Names} {s t : State} {f g : Ctx → Ctx} {pc : Word} (h : Changed n s t f pc)
    (he : f (me s) = g (me s)) : Changed n s t g pc :=
  ⟨⟨h.1.cur, h.1.context.trans (by rw [he]), h.1.words, h.1.queues⟩, h.2⟩

/-- A load that is sent completes, its destination awaited. -/
theorem sendLoad_changed (n : Names) (len : Nat) {s0 s : State} (h : Counted s0 s) (l : Load) :
    ∃ t, finishCtx n len (sendLoad s l) id = .next t ∧
      Changed n s0 t (awaiting · l) ((me s0).pc + word len) := by
  rw [sendLoad_eq]
  have h1 := h.own.trans (modMe_own s (awaiting · l))
  have hw : SameWaiters s0 (modMe s (awaiting · l)) := fun lc => (modMe_waiters s _ lc).trans (h.waiters lc)
  obtain ⟨t, ht, hc⟩ := finishCtx_changed n len h1 hw id
  rw [id, awaiting_pc, h.me] at hc
  exact ⟨t, ht, hc.of_eq rfl⟩

/-- Settles O32: a load's row runs `loadAny`, which reads the debug window, what the core holds, or sends the load. -/
theorem loadsWriteOrAwait : Obligations.LoadsWriteOrAwait := by
  intro i r s hr hi
  have hx : exec i s = loadAny r.names r.len r.d (r.va s) r.n r.signed s :=
    (exec_loadRow hr s).trans (issue_ready hi _)
  have hmem : (r.n = 8 → viaWindow s (r.va s) 8 watchLoad = none) →
      exec i s = loadScalar r.names r.len r.d (r.va s) r.n r.signed s := fun hw => by
    rw [hx, loadAny]
    split
    · next w hw' => split at hw' <;> simp_all
    · rfl
  refine ⟨fun v b hw hp hb => ?_, fun v hw hp hb => ?_, fun w hn hw => ?_⟩
  · rw [hmem hw, loadScalar, checkAccess_passes hp, hb]
    obtain ⟨t, ht, hc⟩ := finishCtx_own r.names r.len (.refl s) (fun c => setSreg c r.d (extendLoad r.signed r.n b))
    exact ⟨t, ht, hc.of_eq (by rw [extendLoad_eq (readNow_lt hb)])⟩
  · rw [hmem hw, loadScalar, checkAccess_passes hp, hb]
    exact sendLoad_changed r.names r.len (.refl s) _
  · rw [hx, loadAny, if_pos hn, hw]
    exact finishCtx_own r.names r.len (.refl s) (fun c => setSreg c r.d (word (windowRead s w.1 w.2 8)))

/-- Settles O33: as O32, `loadVecAny` being what a vector load's row runs. -/
theorem vectorLoadsWriteOrAwait : Obligations.VectorLoadsWriteOrAwait := by
  intro i r s hr hi
  have hx : exec i s = loadVecAny r.names r.d.toNat r.tag (r.va s) s :=
    (exec_vecLoadRow hr s).trans (issue_ready hi _)
  have hn : vecBytes r.tag = if r.tag = .mask then 8 else 64 := rfl
  rw [loadVecAny, hn] at hx
  refine ⟨fun v b hw hp hb => ?_, fun v hw hp hb => ?_, fun w hw => ?_⟩
  · simp only [hx, hw, loadVector, hn, checkAccess_passes hp, hb]
    exact finishCtx_own _ _ (countV_counted s) _
  · simp only [hx, hw, loadVector, hn, checkAccess_passes hp, hb]
    exact sendLoad_changed _ _ (countV_counted s) _
  · simp only [hx, hw]
    exact finishCtx_own _ _ (countV_counted s) _

end Sys2Proof.Machine
end

section
/-! SUPPORT. Gathers, scatters and the replies to loads (R161 to R164, R312): one lane of a register written, elements that
are read at once or awaited, and what a reply leaves of its context. -/

namespace Sys2Proof.Machine

/-! ### One lane of a register (R61, R164) -/

theorem getLsbD_setLane (v : Vec) (w i x : Nat) {j : Nat} (hj : j < 512) :
    (setLane v w i x).getLsbD j = if w * i ≤ j ∧ j < w * i + w then x.testBit (j - w * i) else v.getLsbD j := by
  rw [setLane, BitVec.getLsbD_or, BitVec.getLsbD_and, BitVec.getLsbD_not, BitVec.getLsbD_ofNat, BitVec.getLsbD_ofNat,
    Nat.testBit_mul_two_pow, Nat.testBit_mul_two_pow, Nat.testBit_two_pow_sub_one, Nat.testBit_mod_two_pow,
    decide_eq_true hj]
  by_cases h1 : w * i ≤ j
  · by_cases h2 : j < w * i + w
    · simp [h1, h2, show j - w * i < w by omega]
    · simp [h1, h2, show ¬ j - w * i < w by omega]
  · simp [h1]

theorem elem_testBit (v : Vec) (t : Tag) (i k : Nat) :
    (elem v t i).testBit k = (decide (k < width t) && v.getLsbD (i * width t + k)) := by
  rw [elem, Nat.testBit_mod_two_pow, BitVec.toNat_ushiftRight, Nat.testBit_shiftRight]
  rfl

/-- The lanes of a register after one of them is written. -/
theorem elem_setLane (v : Vec) (t : Tag) (x : Nat) {i k : Nat} (hi : i < lanes t) (hk : k < lanes t) :
    elem (setLane v (width t) i x) t k = if k = i then x % 2 ^ width t else elem v t k := by
  have hfit := lane_fits hk
  rw [Nat.succ_mul] at hfit
  apply Nat.eq_of_testBit_eq
  intro j
  rw [elem_testBit, apply_ite (fun n => Nat.testBit n j), Nat.testBit_mod_two_pow, elem_testBit]
  by_cases hj : j < width t
  · rw [getLsbD_setLane v _ _ _ (by omega), Nat.mul_comm (width t) i]
    by_cases he : k = i
    · subst he
      simp [hj]
    · rw [if_neg he, if_neg]
      rintro ⟨h1, h2⟩
      rcases Nat.lt_or_gt_of_ne he with h | h
      · have := Nat.mul_le_mul_right (width t) (Nat.succ_le_of_lt h)
        rw [Nat.succ_mul] at this
        omega
      · have := Nat.mul_le_mul_right (width t) (Nat.succ_le_of_lt h)
        rw [Nat.succ_mul] at this
        omega
  · simp [hj]

theorem vreg_setVreg (x : Ctx) (d k : Nat) (t : Tag) (v : Vec) :
    vreg (setVreg x d t v) k = if k = d then v else vreg x k := getD_setD _ _ _ _ _

theorem vtagOf_setVreg (x : Ctx) (d k : Nat) (t : Tag) (v : Vec) :
    vtagOf (setVreg x d t v) k = if k = d then t else vtagOf x k := getD_setD _ _ _ _ _

@[simp] theorem setVreg_counted (x : Ctx) (d : Nat) (t : Tag) (v : Vec) : (setVreg x d t v).counted = x.counted := rfl
@[simp] theorem setVreg_issuedAt (x : Ctx) (d : Nat) (t : Tag) (v : Vec) : (setVreg x d t v).issuedAt = x.issuedAt := rfl
@[simp] theorem setVreg_pc (x : Ctx) (d : Nat) (t : Tag) (v : Vec) : (setVreg x d t v).pc = x.pc := rfl

theorem vreg_landLane (x : Ctx) (d w i v k : Nat) :
    vreg (landLane x d w i v) k = if k = d then setLane (vreg x d) w i v else vreg x k := getD_setD _ _ _ _ _

theorem vtagOf_landLane (x : Ctx) (d w i v k : Nat) : vtagOf (landLane x d w i v) k = vtagOf x k := rfl

theorem sreg_setSreg (x : Ctx) (d k : Nat) (v : Word) :
    sreg (setSreg x d v) k = if k = d ∧ k ≠ 0 then v else sreg x k := by
  unfold sreg setSreg
  by_cases hd : d = 0
  · subst hd
    by_cases hk : k = 0 <;> simp [hk]
  · by_cases hk : k = 0
    · simp [hk]
    · simp [hk, hd, getD_setD]

/-! ### The elements of a gather (R164) -/

/-- Elements that pass their checks are what the checks of the elements answer. -/
theorem judgeElements_eq {s : State} {vas : List Nat} {n : Nat} {write : Bool} {js : List (Nat × Nat × Verdict)}
    (h : AllPass s vas n write js) : judgeElements s vas n write = js := by
  obtain ⟨hm, hp⟩ := h
  have hj : js = (js.map (fun j => (j.1, j.2.1))).map (fun e => (e.1, e.2,
      if lineBusy s e.2 && !inWindow e.2 then .waits else judge s s.cur.1 (me s) e.2 n write true)) := by
    rw [List.map_map]
    refine (List.map_id' js).symm.trans (List.map_congr_left fun j hj => ?_)
    obtain ⟨hb, hjudge, _⟩ := hp j hj
    simp only [Function.comp, hb, hjudge, Bool.false_eq_true, if_false]
  rw [hj, hm, List.map_map]
  rfl

theorem checkElements_passes {s : State} {vas : List Nat} {n : Nat} {write : Bool} {js : List (Nat × Nat × Verdict)}
    (h : AllPass s vas n write js) (k : List (Nat × Nat × Verdict) → Res) : checkElements s vas n write k = k js := by
  have hf : js.find? (fun j => !allowed j.2.2) = none :=
    List.find?_eq_none.mpr fun j hj => by simp [(h.2 j hj).2.2]
  unfold checkElements
  rw [judgeElements_eq h]
  simp only [hf]

theorem readNow_quiet {s t : State} (h : Quiet s t) (lc va n : Nat) (v : Verdict) :
    readNow t lc va n v = readNow s lc va n v := by
  simp only [readNow, stashNat, stashByte, mappingOf, h.asidOf, h.part LCore.stash (fun _ => rfl) lc,
    h.part LCore.maps (fun _ => rfl) lc, h.part LCore.l1 (fun _ => rfl) lc]

/-- What a context's loads in flight were issued at: the tick and whether it counts from an earlier issue. -/
theorem gatherLane_issue (s : State) (d : Nat) (t : Tag) (x : Ctx) (j : Nat × Nat × Verdict) :
    (gatherLane s d t x j).counted = x.counted ∧ (gatherLane s d t x j).issuedAt = x.issuedAt ∧
      (gatherLane s d t x j).pc = x.pc := by
  unfold gatherLane
  split
  · exact ⟨rfl, rfl, rfl⟩
  · exact ⟨rfl, rfl, rfl⟩

/-- One element of a gather changes the current context alone. -/
theorem gatherOne_own {s u : State} {x : Ctx} (h : OwnChange s u x) (d : Nat) (t : Tag) (j : Nat × Nat × Verdict)
    (hc : x.counted = (me s).counted) (hi : x.issuedAt = (me s).issuedAt) (hw : SameWaiters s u) :
    OwnChange s (gatherOne d (width t / 8) t u j) (gatherLane s d t x j) ∧
      SameWaiters s (gatherOne d (width t / 8) t u j) := by
  have hr := readNow_quiet h.quiet s.cur.1 j.2.1 (width t / 8) j.2.2
  have ht : issueTick u = issueTick s := by
    rw [issueTick, issueTick, h.me, hc, hi, show u.ticks = s.ticks from h.quiet.get State.ticks]
  have hmod : ∀ f, OwnChange s (modMe u f) (f x) ∧ SameWaiters s (modMe u f) := fun f =>
    ⟨h.me ▸ h.trans (modMe_own u f), fun lc => (modMe_waiters u f lc).trans (hw lc)⟩
  unfold gatherOne gatherLane
  rw [h.cur, hr]
  split
  · exact hmod _
  · rw [sendLoad_eq, ht]
    exact hmod _

theorem gatherAll_own {s u : State} {x : Ctx} (h : OwnChange s u x) (d : Nat) (t : Tag) (js : List (Nat × Nat × Verdict))
    (hc : x.counted = (me s).counted) (hi : x.issuedAt = (me s).issuedAt) (hw : SameWaiters s u) :
    OwnChange s (js.foldl (gatherOne d (width t / 8) t) u) (js.foldl (gatherLane s d t) x) ∧
      SameWaiters s (js.foldl (gatherOne d (width t / 8) t) u) := by
  induction js generalizing u x with
  | nil => exact ⟨h, hw⟩
  | cons j js ih =>
    obtain ⟨h1, hw1⟩ := gatherOne_own h d t j hc hi hw
    obtain ⟨hc1, hi1, _⟩ := gatherLane_issue s d t x j
    exact ih h1 (hc1.trans hc) (hi1.trans hi) hw1

theorem gatherAll_pc (s : State) (d : Nat) (t : Tag) (js : List (Nat × Nat × Verdict)) (x : Ctx) :
    (js.foldl (gatherLane s d t) x).pc = x.pc := by
  induction js generalizing x with
  | nil => rfl
  | cons j js ih => rw [List.foldl_cons, ih, (gatherLane_issue s d t x j).2.2]

/-- A gather whose elements pass completes with those that the core holds in their lanes and the others awaited. -/
theorem gather_changed (n : Names) (d : Nat) (t : Tag) {s : State} {vas : List Nat} {js : List (Nat × Nat × Verdict)}
    (h : AllPass s vas (width t / 8) false js) :
    ∃ u, gather n d t vas s = .next u ∧
      Changed n s u (fun x => js.foldl (gatherLane s d t) (setVreg x d t 0)) ((me s).pc + 4#64) := by
  have h0 : OwnChange s (modMe (countV s) (fun x => setVreg x d t 0)) (setVreg (me s) d t 0) :=
    (countV_counted s).me ▸ (countV_counted s).own.trans (modMe_own (countV s) (fun x => setVreg x d t 0))
  have hw : SameWaiters s (modMe (countV s) (fun x => setVreg x d t 0)) := fun lc =>
    (modMe_waiters _ _ lc).trans ((countV_counted s).waiters lc)
  obtain ⟨h1, hw1⟩ := gatherAll_own h0 d t js (setVreg_counted _ _ _ _) (setVreg_issuedAt _ _ _ _) hw
  obtain ⟨u, hu, hc⟩ := finishCtx_changed n long h1 hw1 id
  rw [gather, checkElements_passes h]
  rw [gatherAll_pc, setVreg_pc] at hc
  exact ⟨u, hu, hc.of_eq rfl⟩

/-- Elements that the core holds land in their lanes in turn. -/
theorem gathered_eq {s : State} {d : Nat} {t : Tag} {xs : List Nat} {js : List (Nat × Nat × Verdict)}
    (hx : js.map (fun j => readNow s s.cur.1 j.2.1 (width t / 8) j.2.2) = xs.map some)
    {k : Nat} (hk : js.map (·.1) = (List.range' k js.length)) (x : Ctx) :
    js.foldl (gatherLane s d t) x = (xs.zipIdx k).foldl (fun y e => landLane y d (8 * (width t / 8)) e.2 e.1) x := by
  induction js generalizing xs k x with
  | nil =>
    have : xs = [] := by simpa using hx.symm
    subst this
    rfl
  | cons j js ih =>
    cases xs with
    | nil => simp at hx
    | cons b xs =>
      simp only [List.map_cons, List.cons.injEq, List.length_cons, List.range'_succ] at hx hk
      obtain ⟨hb, hx⟩ := hx
      obtain ⟨hj, hk⟩ := hk
      rw [List.foldl_cons, List.zipIdx_cons, List.foldl_cons, ← ih hx hk, gatherLane, hb, hj]

/-- Lanes written in turn from lane i on: those written hold their values, the others are as they were. -/
theorem elem_landAll (d : Nat) (t : Tag) (xs : List Nat) (i : Nat) (hl : i + xs.length ≤ lanes t) (x : Ctx) {k : Nat}
    (hk : k < lanes t) :
    elem (vreg ((xs.zipIdx i).foldl (fun y e => landLane y d (width t) e.2 e.1) x) d) t k =
      if i ≤ k ∧ k < i + xs.length then xs.getD (k - i) 0 % 2 ^ width t else elem (vreg x d) t k := by
  induction xs generalizing i x with
  | nil => simp [show ¬ (i ≤ k ∧ k < i) by omega]
  | cons b xs ih =>
    rw [List.length_cons] at hl
    rw [List.zipIdx_cons, List.foldl_cons, ih (i + 1) (by omega), vreg_landLane, if_pos rfl,
      elem_setLane _ _ _ (show i < lanes t by omega) hk, List.length_cons]
    rcases Nat.lt_trichotomy k i with h | rfl | h
    · rw [if_neg (by omega), if_neg (by omega), if_neg (by omega)]
    · rw [if_neg (by omega), if_pos rfl, if_pos (by omega), Nat.sub_self, List.getD_cons_zero]
    · by_cases h2 : k < i + (xs.length + 1)
      · rw [if_pos (by omega), if_pos (by omega), show k - i = k - (i + 1) + 1 by omega, List.getD_cons_succ]
      · rw [if_neg (by omega), if_neg (by omega), if_neg (by omega)]

theorem vtagOf_landAll (d w : Nat) (es : List (Nat × Nat)) (x : Ctx) (k : Nat) :
    vtagOf (es.foldl (fun y e => landLane y d w e.2 e.1) x) k = vtagOf x k := by
  induction es generalizing x with
  | nil => rfl
  | cons e es ih => rw [List.foldl_cons, ih, vtagOf_landLane]

theorem gatherRow_not_mask {i : Instr} {t : Tag} {d a f : F6} (h : gatherRow i = some (t, d, a, f)) :
    8 * (width t / 8) = width t ∧ 16 ≤ lanes t := by
  unfold gatherRow at h
  split at h
  case h_12 => exact absurd h (by simp)
  all_goals
    obtain ⟨rfl, _⟩ := Prod.mk.inj (Option.some.inj h)
    decide

/-- The numbers of elements that pass are their lanes. -/
theorem lanes_of_allPass {s : State} {vas : List Nat} {n : Nat} {write : Bool} {js : List (Nat × Nat × Verdict)}
    (h : AllPass s vas n write js) : js.length = vas.length ∧ js.map (·.1) = List.range' 0 js.length := by
  have hl := congrArg List.length h.1
  simp only [List.length_map, List.length_zipIdx] at hl
  have hm := congrArg (List.map Prod.fst) h.1
  simp only [List.map_map] at hm
  refine ⟨hl, ?_⟩
  rw [hl, show js.map (·.1) = _ from hm]
  exact List.zipIdx_map_snd 0 vas

theorem elem_zero (t : Tag) (k : Nat) : elem 0 t k = 0 := by
  apply Nat.eq_of_testBit_eq
  intro j
  rw [elem_testBit]
  simp

/-- Settles O34: a gather's row issues and runs `gather`; its lanes are those that `landLane` has written in turn. -/
theorem gatherReadsSixteenElements : Obligations.GatherReadsSixteenElements := by
  intro i t d a f s js hr hi hx hp
  obtain ⟨hw, h16⟩ := gatherRow_not_mask hr
  refine ⟨?_, fun xs hxs => ?_⟩
  · rw [exec_gatherRow hr, vIssue_ready hi hx]
    exact gather_changed _ _ t hp
  · obtain ⟨hlen, hlanes⟩ := lanes_of_allPass hp
    have hxl : xs.length = 16 := by
      have := congrArg List.length hxs
      simp only [List.length_map] at this
      rw [← this, hlen, elementVas, List.length_map, List.length_range]
    have hg := gathered_eq hxs hlanes (setVreg (me s) d.toNat t 0) (d := d.toNat)
    have hlane := fun k hk => elem_landAll d.toNat t xs 0 (by omega) (setVreg (me s) d.toNat t 0) (k := k) hk
    rw [vreg_setVreg, if_pos rfl] at hlane
    refine ⟨hg, fun k hk => ?_, fun k hk hl => ?_, ?_⟩
    · rw [gathered, hw, hlane k (by omega), if_pos (by omega), Nat.sub_zero]
    · rw [gathered, hw, hlane k hl, if_neg (by omega), elem_zero]
    · rw [gathered, vtagOf_landAll, vtagOf_setVreg, if_pos rfl]

end Sys2Proof.Machine
end

section
/-! SUPPORT. What lies below the cores (R165, R166, R330, R348): the operations at the point of coherence and in a die's
second-level cache change memory, tags, heat, the MSC, undo logs and holds, and nothing of a core, a context or a unit. -/

namespace Sys2Proof.Machine

/-! ### What a fold keeps -/

theorem foldl_keeps {α β : Type} (f : State → β) {g : State → α → State} (h : ∀ s x, f (g s x) = f s) (l : List α)
    (s : State) : f (l.foldl g s) = f s := by
  induction l generalizing s with
  | nil => rfl
  | cons x l ih => rw [List.foldl_cons, ih, h]

/-! ### Heat (R338) -/

/-- Heat changes the generators and the counters alone. -/
theorem foldl_heatRead_eq (l : List Nat) (s : State) : ∃ g h, l.foldl heatRead s = { s with gens := g, heat := h } := by
  induction l generalizing s with
  | nil => exact ⟨s.gens, s.heat, rfl⟩
  | cons a l ih =>
    obtain ⟨g, h, e⟩ := ih (heatRead s a)
    rw [List.foldl_cons, e, heatRead]
    split
    · exact ⟨g, h, rfl⟩
    · exact ⟨g, h, rfl⟩

theorem heatMiss_eq (s : State) (asid va : Nat) : ∃ g h, heatMiss s asid va = { s with gens := g, heat := h } := by
  unfold heatMiss heatWalk
  split
  · exact ⟨s.gens, s.heat, rfl⟩
  · exact foldl_heatRead_eq _ s

theorem heatLookup_eq (s : State) (asid va : Nat) : ∃ g h, heatLookup s asid va = { s with gens := g, heat := h } := by
  unfold heatLookup
  split
  · exact ⟨s.gens, s.heat, rfl⟩
  · exact heatMiss_eq s asid va

/-- Bringing a line into the MSC changes the MSC and the heat alone. -/
theorem mscFill_eq (s : State) (key : Nat) (p : Page) :
    ∃ g h, (mscFill s key p).1 = { s with gens := g, heat := h, msc := (mscFill s key p).1.msc } := by
  unfold mscFill
  split
  · exact ⟨s.gens, s.heat, rfl⟩
  · obtain ⟨g, h, e⟩ := heatMiss_eq s (keyAsid key) (keyVa key)
    rw [e]
    exact ⟨_, _, rfl⟩

/-! ### The point of coherence -/

/-- The state without what lies at the point of coherence: frames with their keys, tags and heat, the MSC, compressed
pages, undo logs and holds. -/
def pocStrip (s : State) : State :=
  { s with mem := [], gtags := [], faulty := [], frameKeys := [], msc := [], mills := [], tasks := [], heat := [],
           heatDirty := [], gens := [], cmpPages := [] }

@[simp] theorem pocStrip_mscFill (s : State) (key : Nat) (p : Page) : pocStrip (mscFill s key p).1 = pocStrip s := by
  obtain ⟨g, h, e⟩ := mscFill_eq s key p
  rw [e]
  rfl

@[simp] theorem pocStrip_heatMiss (s : State) (asid va : Nat) : pocStrip (heatMiss s asid va) = pocStrip s := by
  obtain ⟨g, h, e⟩ := heatMiss_eq s asid va
  rw [e]
  rfl

@[simp] theorem pocStrip_writeFrame (s : State) (a : Nat) (d : BitVec 1024) (m : BitVec 128) :
    pocStrip (writeFrame s a d m) = pocStrip s :=
  foldl_keeps pocStrip (fun t i => by split <;> rfl) _ s

@[simp] theorem pocStrip_writePage (s : State) (p : Page) (a : Nat) (d : BitVec 1024) (m : BitVec 128) :
    pocStrip (writePage s p a d m) = pocStrip s := by
  have h : ∀ t : State, pocStrip { t with frameKeys := put t.frameKeys (a / 128) (pageKey s p) } = pocStrip t :=
    fun _ => rfl
  rw [writePage, h]
  split
  · exact pocStrip_writeFrame s a d m
  · split
    · exact pocStrip_writeFrame s a d m
    · exact pocStrip_writeFrame s a _ _

@[simp] theorem pocStrip_modTask (s : State) (n : Nat) (f : Task → Task) : pocStrip (modTask s n f) = pocStrip s := by
  rw [modTask_eq]
  rfl

@[simp] theorem pocStrip_logWrite (s : State) (key : Nat) (p : Page) (m : BitVec 128) (task : Nat) :
    pocStrip (logWrite s key p m task) = pocStrip s := by
  unfold logWrite logKeep
  dsimp only
  split
  · rfl
  · rw [pocStrip_modTask]
    rfl

@[simp] theorem pocStrip_cmpReserve (s : State) (p : Page) (a : Nat) (d : BitVec 1024) :
    pocStrip (cmpReserve s p a d) = pocStrip s := by
  unfold cmpReserve
  split <;> rfl

@[simp] theorem pocStrip_frameWrite (s : State) (key : Nat) (p : Page) (d : BitVec 1024) (m : BitVec 128) :
    pocStrip (frameWrite s key p d m) = pocStrip s := by
  have h : ∀ (t : State) ms a, pocStrip { heatAccess t a with msc := ms } = pocStrip t := fun _ _ _ => rfl
  rw [frameWrite, h, pocStrip_writePage, pocStrip_heatMiss]

@[simp] theorem pocStrip_mscStore (s : State) (key : Nat) (p : Page) (d : BitVec 1024) (m : BitVec 128) :
    pocStrip (mscStore s key p d m) = pocStrip s := by
  have h : ∀ (t : State) ms, pocStrip { t with msc := ms } = pocStrip t := fun _ _ => rfl
  rw [mscStore, h, pocStrip_mscFill]

@[simp] theorem pocStrip_heatWrite (s : State) (a : Nat) : pocStrip (heatWrite s a) = pocStrip s := by
  unfold heatWrite
  split
  · split <;> rfl
  · rfl

@[simp] theorem pocStrip_tagWrite (s : State) (a : Nat) (m : BitVec 128) : pocStrip (tagWrite s a m) = pocStrip s :=
  foldl_keeps pocStrip (fun t i => by split <;> rfl) _ s

@[simp] theorem pocStrip_endLineHolds (s : State) (key reason : Nat) (but : Option Nat) :
    pocStrip (endLineHolds s key reason but) = pocStrip s := rfl

/-- A write at the point of coherence changes only what lies there. -/
@[simp] theorem pocStrip_pocWriteVia (through : Bool) (s : State) (key : Nat) (p : Page) (d : BitVec 1024)
    (m : BitVec 128) (task : Nat) (but : Option Nat) : pocStrip (pocWriteVia through s key p d m task but) = pocStrip s := by
  unfold pocWriteVia
  dsimp only
  split
  · rfl
  · split <;> simp

@[simp] theorem pocStrip_pocWrite (s : State) (key : Nat) (p : Page) (d : BitVec 1024) (m : BitVec 128) (task : Nat)
    (but : Option Nat) : pocStrip (pocWrite s key p d m task but) = pocStrip s := pocStrip_pocWriteVia false s key p d m task but

/-- Any part of the state above the point of coherence is the same. -/
theorem pocStrip_get {α : Type} {s t : State} (h : pocStrip t = pocStrip s) (f : State → α) :
    f (pocStrip t) = f (pocStrip s) := by rw [h]

/-! ### The die's second-level cache -/

/-- The state without what lies below the cores' own caches. -/
def belowStrip (s : State) : State := { pocStrip s with l2 := [] }

theorem belowStrip_of_poc {s t : State} (h : pocStrip t = pocStrip s) : belowStrip t = belowStrip s := by
  rw [belowStrip, h, ← belowStrip]

theorem belowStrip_get {α : Type} {s t : State} (h : belowStrip t = belowStrip s) (f : State → α) :
    f (belowStrip t) = f (belowStrip s) := by rw [h]

@[simp] theorem belowStrip_l2Fetch (s : State) (die lc key : Nat) (m : BitVec 128) (p : Page) :
    belowStrip (l2Fetch s die lc key m p).1 = belowStrip s := by
  unfold l2Fetch
  dsimp only
  split
  · rfl
  · split
    · exact belowStrip_of_poc (t := (mscFill s key p).1) (pocStrip_mscFill s key p)
    · exact belowStrip_of_poc (pocStrip_mscFill s key p)

theorem l2Fetch_cores (s : State) (die lc key : Nat) (m : BitVec 128) (p : Page) :
    (l2Fetch s die lc key m p).1.cores = s.cores := belowStrip_get (belowStrip_l2Fetch s die lc key m p) State.cores

/-! ### A core without its contexts -/

/-- The contexts of every logical core are the same. -/
def SameCtxs (s t : State) : Prop := ∀ lc c, ctxOf t lc c = ctxOf s lc c

theorem SameCtxs.refl (s : State) : SameCtxs s s := fun _ _ => rfl

theorem SameCtxs.trans {s t u : State} (h : SameCtxs s t) (k : SameCtxs t u) : SameCtxs s u :=
  fun lc c => (k lc c).trans (h lc c)

theorem SameCtxs.of_cores {s t : State} (h : t.cores = s.cores) : SameCtxs s t := fun lc c => by
  rw [ctxOf, coreOf, h]
  rfl

theorem sameCtxs_setCore (s : State) (lc : Nat) (k : LCore) (h : k.ctxs = (coreOf s lc).ctxs) :
    SameCtxs s (setCore s lc k) := fun a b => by
  rw [ctxOf, coreOf_setCore]
  split
  · next ha => rw [h, ha]; rfl
  · rfl

theorem sameCtxs_modCore (s : State) (lc : Nat) (f : LCore → LCore) (h : ∀ c, (f c).ctxs = c.ctxs) :
    SameCtxs s (modCore s lc f) := sameCtxs_setCore s lc _ (h _)

theorem SameCtxs.me {s t : State} (h : SameCtxs s t) (hc : t.cur = s.cur) : me t = me s := by
  rw [Machine.me, hc, h, ← Machine.me]

/-! ### Loads through the caches (R165, R170) -/

theorem foldl_core_keeps {α β : Type} (f : LCore → β) {g : LCore → α → LCore} (h : ∀ c x, f (g c x) = f c) (l : List α)
    (c : LCore) : f (l.foldl g c) = f c := by
  induction l generalizing c with
  | nil => rfl
  | cons x l ih => rw [List.foldl_cons, ih, h]

theorem mapFilled_ctxs (c : LCore) (m : Mapping) (va : Nat) (d : BitVec 1024) : (mapFilled c m va d).ctxs = c.ctxs := by
  rw [mapFilled, setMap]
  exact foldl_core_keeps LCore.ctxs (fun k b => by split <;> rfl) _ c

/-- A load performed through the caches changes no context. -/
theorem performLoad_ctxs (s : State) (lc va n : Nat) (p : Page) : SameCtxs s (performLoad s lc va n p).1 := by
  unfold performLoad mapFill l1Fill
  dsimp only
  split
  · split
    · exact .refl s
    · split
      · exact (SameCtxs.of_cores (l2Fetch_cores _ _ _ _ _ _)).trans (sameCtxs_setCore _ _ _ (mapFilled_ctxs _ _ _ _))
      · exact .of_cores (l2Fetch_cores _ _ _ _ _ _)
  · split
    · exact .of_cores (pocStrip_get (pocStrip_heatMiss s _ _) State.cores)
    · split
      · exact .refl s
      · split
        · exact (SameCtxs.of_cores (l2Fetch_cores _ _ _ _ _ _)).trans (sameCtxs_modCore _ _ _ fun _ => rfl)
        · exact .of_cores (l2Fetch_cores _ _ _ _ _ _)

/-- The bytes that a load reads are a number of its size. -/
theorem performLoad_lt (s : State) (lc va n : Nat) (p : Page) : (performLoad s lc va n p).2.1 < 256 ^ n := by
  unfold performLoad mapFill l1Fill
  dsimp only
  split
  · split
    · next h => exact readNow_lt h
    · split <;> exact stashNat_lt _ _ _
  · split
    · exact lineNat_lt _ _ _
    · split
      · next h => exact readNow_lt h
      · split <;> exact lineNat_lt _ _ _

/-! ### LOAD_REPLY -/

theorem countLoad_counted (s : State) (lc level latency : Nat) : Counted s (countLoad s lc level latency) := by
  have h1 : ∀ (t : State) (b : Bool) (code : Nat), Counted t (if b then countAt t lc code 1 else t) := fun t b code => by
    split
    · exact countAt_counted t lc code 1
    · exact .refl t
  have h4 := (((h1 s (decide (1 ≤ level)) 0x04).trans (h1 _ (decide (2 ≤ level)) 0x05)).trans
    (h1 _ (decide (level = 2)) 0x06)).trans (h1 _ (decide (level = 3)) 0x07)
  unfold countLoad
  dsimp only
  split
  · exact h4.trans (countAt_counted _ _ _ _)
  · exact h4

/-- A context without one of its outstanding loads. -/
def withoutLoad (x : Ctx) (idx : Nat) : Ctx := { x with loads := x.loads.eraseIdx idx }

/-- A reply that may come performs its load, and its data lands in its context alone. -/
theorem execLoadReply_lands {lc c idx : Nat} {s : State} {l : Load} (hl : (ctxOf s lc c).loads[idx]? = some l)
    (hr : replyReady s lc l = true) :
    ∃ t, execLoadReply lc c idx s = .next t ∧ ∀ a b, ctxOf t a b = if a = lc ∧ b = c then
      landLoad (withoutLoad (ctxOf s lc c) idx) l (performLoad s lc l.addr l.size l.page).2.1
      else ctxOf s a b := by
  have hp := performLoad_ctxs s lc l.addr l.size l.page
  unfold execLoadReply
  simp only [hl, hr, if_true]
  refine ⟨_, rfl, fun a b => ?_⟩
  rw [(countLoad_counted _ _ _ _).ctxOf, ctxOf_modCtx, hp, hp]
  rfl

theorem landLoad_loads (x : Ctx) (l : Load) (v : Nat) : (landLoad x l v).loads = x.loads := by
  unfold landLoad setSreg
  dsimp only
  split
  · split
    · split <;> rfl
    · rfl
  · split
    · split <;> rfl
    · rfl

/-- The data of a scalar load lands in its register. -/
theorem landLoad_scalar {x : Ctx} {l : Load} (hv : l.vec = false) (hh : scalarHeld x l.dst = true) (v : Nat) :
    landLoad x l v = setSreg (unpendScalar x l.dst) l.dst (extendLoad l.signed l.size v) := by
  simp [landLoad, hv, hh]

theorem landLoad_vector {x : Ctx} {l : Load} (hv : l.vec = true) (hn : l.lane = none) (hh : vectorHeld x l.dst = true)
    (v : Nat) : landLoad x l v =
      setVreg { x with vpend := x.vpend.erase l.dst } l.dst l.tag (BitVec.ofNat 512 v) := by
  simp [landLoad, hv, hn, hh]

theorem landLoad_lane {x : Ctx} {l : Load} {i : Nat} (hv : l.vec = true) (hn : l.lane = some i)
    (hh : vectorHeld x l.dst = true) (v : Nat) : landLoad x l v =
      landLane { x with vpend := x.vpend.erase l.dst } l.dst (8 * l.size) i v := by
  simp [landLoad, hv, hn, hh]

theorem setSreg_vreg (x : Ctx) (d : Nat) (w : Word) (k : Nat) : vreg (setSreg x d w) k = vreg x k := by
  unfold setSreg
  split <;> rfl

/-- Settles O54: the reply's data lands by `landLoad`, whose three kinds of destination are read in turn. -/
theorem loadReplyLands : Obligations.LoadReplyLands := by
  intro lc c idx s l hl hr
  obtain ⟨t, ht, hctx⟩ := execLoadReply_lands hl hr
  have hx : ctxOf t lc c = landLoad (withoutLoad (ctxOf s lc c) idx) l
      (performLoad s lc l.addr l.size l.page).2.1 := (hctx lc c).trans (if_pos ⟨rfl, rfl⟩)
  have hlt := performLoad_lt s lc l.addr l.size l.page
  refine ⟨t, _, ht, rfl, ?_, fun hv h0 _ hh => ?_, fun hv hn hh => ?_, fun i hv hn hw hi hh => ?_, fun a b hab => ?_⟩
  · rw [hx, landLoad_loads]
    rfl
  · rw [hx, landLoad_scalar hv (show scalarHeld (withoutLoad _ idx) _ = true from hh)]
    refine ⟨?_, fun k hk => ?_, fun k => setSreg_vreg _ _ _ k⟩
    · rw [sreg_setSreg, if_pos ⟨rfl, by omega⟩, extendLoad_eq hlt]
    · rw [sreg_setSreg, if_neg fun h => hk h.1]
      rfl
  · rw [hx, landLoad_vector hv hn (show vectorHeld (withoutLoad _ idx) _ = true from hh)]
    refine ⟨?_, ?_, fun k hk => ?_, fun k => rfl⟩
    · rw [vreg_setVreg, if_pos rfl]
    · rw [vtagOf_setVreg, if_pos rfl]
    · rw [vreg_setVreg, if_neg hk]
      rfl
  · rw [hx, landLoad_lane hv hn (show vectorHeld (withoutLoad _ idx) _ = true from hh), ← hw]
    refine ⟨?_, fun k hk hkl => ?_, fun k hk => ?_, fun k => rfl, fun k => rfl⟩
    · rw [vreg_landLane, if_pos rfl, elem_setLane _ _ _ hi hi, if_pos rfl]
    · rw [vreg_landLane, if_pos rfl, elem_setLane _ _ _ hi hkl, if_neg hk]
      rfl
    · rw [vreg_landLane, if_neg hk]
      rfl
  · rw [hctx, if_neg]
    rintro ⟨rfl, rfl⟩
    exact hab rfl

end Sys2Proof.Machine
end

section
/-! SUPPORT. Stores (R161, R163, R164, R310): a store that may land is performed, and its instruction completes after it. -/

namespace Sys2Proof.Machine

/-- Writing stash bytes changes the stash alone. -/
theorem setStashNat_eq (c : LCore) (o n v : Nat) : setStashNat c o n v = { c with stash := (setStashNat c o n v).stash } := by
  have h : ∀ (l : List Nat) (k : LCore),
      l.foldl (fun k i => setStashByte k (o + i) (BitVec.ofNat 8 (v / 256 ^ i))) k =
        { k with stash := (l.foldl (fun k i => setStashByte k (o + i) (BitVec.ofNat 8 (v / 256 ^ i))) k).stash } := fun l => by
    induction l with
    | nil => exact fun k => rfl
    | cons i l ih =>
      intro k
      rw [List.foldl_cons, ih]
      rfl
  exact h _ c

/-- A store changes no context. -/
theorem performStore_ctxs (s : State) (lc va n v : Nat) (w : Verdict) : SameCtxs s (performStore s lc va n v w) := by
  unfold performStore
  split
  · exact sameCtxs_modCore _ _ _ fun c => by rw [setStashNat_eq]
  · refine sameCtxs_modCore _ _ _ fun c => ?_
    split
    · rw [setStashNat_eq]
      rfl
    · rfl
  · dsimp only
    split
    · exact .of_cores (pocStrip_get (pocStrip_pocWrite _ _ _ _ _ _ _) State.cores)
    · exact sameCtxs_modCore _ _ _ fun _ => rfl
  · exact .refl s

@[simp] theorem performStore_cur (s : State) (lc va n v : Nat) (w : Verdict) : (performStore s lc va n v w).cur = s.cur := by
  unfold performStore
  split
  · rfl
  · rfl
  · dsimp only
    split
    · exact pocStrip_get (pocStrip_pocWrite _ _ _ _ _ _ _) State.cur
    · rfl
  · rfl

theorem performStore_me (s : State) (lc va n v : Nat) (w : Verdict) : me (performStore s lc va n v w) = me s :=
  (performStore_ctxs s lc va n v w).me (performStore_cur s lc va n v w)

/-- Stores performed one after the other leave the current context as it is. -/
theorem foldl_performStore_me {α : Type} (lc n : Nat) (va x : α → Nat) (v : α → Verdict) (js : List α) (s : State) :
    me (js.foldl (fun u j => performStore u lc (va j) n (x j) (v j)) s) = me s :=
  foldl_keeps me (fun u _ => performStore_me u lc _ n _ _) js s

/-- An instruction whose effect leaves its own context alone completes after it. -/
theorem finishCtx_after (n : Names) (len : Nat) {s u : State} (h : me u = me s) :
    ∃ t, finishCtx n len u id = .next t ∧ Changed n u t id ((me s).pc + word len) := by
  rw [← h]
  exact finishCtx_own n len (.refl u) id

section storeScalar
variable {s : State} {va n : Nat} {v : Verdict} {w : Word} (h : Passes s va n true false v) (names : Names) (len : Nat)
include h

theorem storeScalar_lands (hd : storeReady s s.cur.1 va n w.toNat v = true) : storeScalar names len va n w s =
    finishCtx names len (performStore s s.cur.1 va n w.toNat v) id := by
  rw [storeScalar, checkAccess_passes h, if_pos hd]

theorem storeScalar_waits (hd : storeReady s s.cur.1 va n w.toNat v = false)
    (hf : storeFull s s.cur.1 va n w.toNat v = none) : storeScalar names len va n w s = waitBegun s 0 := by
  rw [storeScalar, checkAccess_passes h, if_neg (by simp [hd]), hf]

end storeScalar

theorem exec_storeRow_scalar {i : Instr} {r : StoreRow} {s : State} (hr : storeRow i = some r) (hi : Issues r.names s)
    (hw : r.n = 8 → viaWindow s (r.va s) 8 watchStore = none) :
    exec i s = storeScalar r.names r.len (r.va s) r.n (r.value s) s := by
  rw [exec_storeRow hr, issue_ready hi, storeAny]
  split
  · next w hw' => split at hw' <;> simp_all
  · rfl

/-- A store whose place is in the debug window goes there. -/
theorem exec_storeRow_window {i : Instr} {r : StoreRow} {s : State} (hr : storeRow i = some r) (hi : Issues r.names s)
    (hn : r.n = 8) {w : Nat × Nat} (hw : viaWindow s (r.va s) 8 watchStore = some w) :
    exec i s = finishCtx r.names r.len (windowWrite s w.1 w.2 8 (r.value s).toNat) id := by
  rw [exec_storeRow hr, issue_ready hi, storeAny, if_pos hn, hw]

/-- VST of an operand that is no index register stores one register. -/
theorem exec_vst_one {x a : F6} {b : Opnd} {s : State} (hi : Issues (vmemNames x a b) s) (hb : ∀ f, b ≠ .v f) :
    exec (.vst x a b) s = storeVecAny (vmemNames x a b) x.toNat (eaV s a b) s := by
  rw [show exec (.vst x a b) s = execVst x a b s from rfl]
  cases b with
  | v f => exact absurd rfl (hb f)
  | s f | c f | lit f => simp only [execVst]; exact issue_ready hi _

theorem exec_vst_scatter {x a f : F6} {s : State} (hi : Issues (vmemNames x a (.v f)) s)
    (hx : indexOk (me s) f.toNat = true) (ht : vtagOf (me s) x.toNat ≠ .mask) :
    exec (.vst x a (.v f)) s = scatter (vmemNames x a (.v f)) x.toNat (elementVas (me s) (valS s a) f.toNat) s := by
  have ho : (indexOk (me s) f.toNat && vtagOf (me s) x.toNat != .mask) = true := by
    rw [hx, Bool.true_and, bne_iff_ne]
    exact ht
  rw [show exec (.vst x a (.v f)) s = execVst x a (.v f) s from rfl]
  simp only [execVst]
  exact vIssue_ready (ok := fun y => indexOk y f.toNat && vtagOf y x.toNat != .mask) hi ho _

/-- Settles O35, by the kinds of store: scalar, vector, scatter. -/
theorem storesComplete : Obligations.StoresComplete := by
  refine ⟨fun i r s hr hi => ⟨fun v hw hp hd => ?_, fun v hw hp hd hf => ?_, fun w hn hw => ?_⟩,
    fun x a b s hi hb => ⟨fun v hw hp => ?_, fun w hw => ?_⟩, fun x a f s js hi hx ht hp => ?_⟩
  · rw [exec_storeRow_scalar hr hi hw, storeScalar_lands hp _ _ hd]
    exact finishCtx_after _ _ (performStore_me _ _ _ _ _ _)
  · rw [exec_storeRow_scalar hr hi hw, storeScalar_waits hp _ _ hd hf]
    exact waitBegun_waits s 0
  · rw [exec_storeRow_window hr hi hn hw]
    exact finishCtx_after _ _ rfl
  · have hv : vecBytes (vtagOf (me s) x.toNat) = if vtagOf (me s) x.toNat = .mask then 8 else 64 := rfl
    rw [exec_vst_one hi hb]
    simp only [storeVecAny, hv, hw, storeVector, checkAccess_passes hp]
    exact finishCtx_after _ _ ((performStore_me _ _ _ _ _ _).trans (countV_counted s).me)
  · have hv : vecBytes (vtagOf (me s) x.toNat) = if vtagOf (me s) x.toNat = .mask then 8 else 64 := rfl
    rw [exec_vst_one hi hb]
    simp only [storeVecAny, hv, hw]
    exact finishCtx_after _ _ rfl
  · rw [exec_vst_scatter hi hx ht, scatter, checkElements_passes hp]
    exact finishCtx_after _ _ ((foldl_performStore_me _ _ _ _ _ js _).trans (countV_counted s).me)

end Sys2Proof.Machine
end

section
/-! SUPPORT. The tile table (R172, R173, R176, R177): which ranges TDEF refuses, and the fields of an entry's word. -/

namespace Sys2Proof.Machine

/-- A form of TDEF runs `tdef` with its tag. -/
theorem exec_tdefRow {i : Instr} {tag : Tag} {k a : F6} {b : Opnd} (h : tdefRow i = some (tag, k, a, b)) (s : State) :
    exec i s = tdef tag k a b s := by
  unfold tdefRow at h
  split at h
  case h_13 => exact absurd h (by simp)
  all_goals cases h; rfl

theorem meetsTile_iff (t : Tile) (o n : Nat) : meetsTile t o n = true ↔ TileMeets t o n := by
  unfold meetsTile TileMeets Meet
  simp only [Bool.and_eq_true, decide_eq_true_eq]
  rw [and_assoc, and_comm (a := o < _)]
  rfl

theorem overlaps_iff (a n b m : Nat) : overlaps a n b m = true ↔ Meet a n b m := by
  simp only [overlaps, Meet, Bool.and_eq_true, decide_eq_true_eq]

/-- The ranges that TDEF refuses with PROTECT (R176). -/
theorem tdefDenies_iff (c : LCore) (t va n : Nat) : tdefDenies c t va n = true ↔
    (inWindow va = false ∨ (va - windowBase) % 64 ≠ 0 ∨ n = 0 ∨ c.ways * 32768 < va - windowBase + n ∨
      (∃ e ∈ c.tiles, e.1 ≠ t ∧ TileMeets e.2 (va - windowBase) n) ∨
      ∃ m ∈ c.maps, Meet m.off m.len (va - windowBase) n) := by
  unfold tdefDenies
  simp only [Bool.or_eq_true, Bool.not_eq_true', decide_eq_true_eq, List.any_eq_true, Bool.and_eq_true, bne_iff_ne,
    meetsTile_iff, overlaps_iff, or_assoc]
  rfl

theorem tagCode_lt (t : Tag) : t.code < 16 := by cases t <;> decide

theorem tileStateCode_lt (t : TileState) : t.code < 4 := by cases t <;> decide

/-- The fields of a tile-table entry's word (R172). -/
theorem bits_tileWord {t : Tile} (hw : t.wm < 2 ^ 20) (hs : t.size < 2 ^ 20) (hb : t.base < 2 ^ 13) :
    bits (tileWord t) 63 44 = t.wm ∧ bits (tileWord t) 43 24 = t.size ∧ bits (tileWord t) 23 11 = t.base ∧
      bits (tileWord t) 10 7 = t.tag.code ∧ bits (tileWord t) 6 2 = 0 ∧ bits (tileWord t) 1 0 = t.state.code := by
  have hc := tagCode_lt t.tag
  have hq := tileStateCode_lt t.state
  rw [tileWord, Nat.mod_eq_of_lt hw, Nat.mod_eq_of_lt hs, Nat.mod_eq_of_lt hb]
  generalize t.wm = w at hw ⊢
  generalize t.size = z at hs ⊢
  generalize t.base = b at hb ⊢
  generalize t.tag.code = c at hc ⊢
  generalize t.state.code = q at hq ⊢
  simp only [bits, word, BitVec.toNat_ofNat]
  omega

/-- An instruction without a result ends after a change of its core that leaves its context. -/
theorem finish_after (n : Names) (len : Nat) {s u : State} (h : me u = me s) (w : Word) :
    ∃ t, finish n len u w = .next t ∧ Wrote n u t w ((me s).pc + word len) := by
  rw [← h]
  exact finish_wrote n len u w

theorem modCore_me (s : State) (lc : Nat) (f : LCore → LCore) (h : ∀ c, (f c).ctxs = c.ctxs) : me (modCore s lc f) = me s :=
  (sameCtxs_modCore s lc f h).me rfl

theorem setTile_me (s : State) (k : Nat) (t : Tile) : me (modCore s s.cur.1 (fun c => setTile c k t)) = me s :=
  modCore_me s s.cur.1 _ fun _ => rfl

/-- Settles O41, by the branches of `tdef` and of TSTAT, TWAIT and TFREE. -/
theorem tilesDefinedAndFreed : Obligations.TilesDefinedAndFreed := by
  have tileTrap : ∀ s : State, ∃ t, trap s causeTile = .next t ∧ Trapped s t causeTile 0 0#64 [] :=
    fun s => trap_trapped s (by decide)
  refine ⟨fun i tag k a b s hr hi => ?_, fun d k s hi => scalar0_wrote hi _, fun t hw hs hb => bits_tileWord hw hs hb,
    fun k s => ⟨fun hm => ⟨?_, ?_⟩, fun hm => ⟨?_, ?_⟩⟩⟩
  · have hx : exec i s = if moving (tileOf (myCore s) k.toNat) then trap s causeTile
        else if tdefDenies (myCore s) k.toNat (valS s a).toNat (valB s b).toNat then
          trapAddr s causeProtect (valS s a).toNat
        else finish (tdefNames a b) long (modCore s s.cur.1 (fun c => setTile c k.toNat
          ⟨(valB s b).toNat, (valB s b).toNat, ((valS s a).toNat - windowBase) / 64, tag, .ready⟩)) 0#64 :=
      (exec_tdefRow hr s).trans (by rw [tdef]; exact issue_ready hi _)
    refine ⟨fun hm => ?_, fun hm hd => ?_, fun hm h1 h2 h3 h4 h5 h6 => ?_⟩
    · rw [hx, if_pos hm]
      exact tileTrap s
    · rw [hx, if_neg (by simp [hm]), if_pos ((tdefDenies_iff _ _ _ _).mpr hd)]
      exact trapAddr_trapped s _ (by decide)
    · have hn : ¬ tdefDenies (myCore s) k.toNat (valS s a).toNat (valB s b).toNat = true := by
        rw [tdefDenies_iff]
        rintro (h | h | h | h | ⟨e, he, hne, hm⟩ | ⟨m, hm, h⟩)
        · simp [h1] at h
        · exact h h2
        · exact h3 h
        · omega
        · exact (h5 e he).elim hne (fun h => h hm)
        · exact h6 m hm h
      rw [hx, if_neg (by simp [hm]), if_neg hn]
      exact finish_after (tdefNames a b) long (setTile_me s _ _) 0#64
  · rw [show exec (.twait k) s = execTwait k s from rfl, execTwait, if_neg (by simp [hm])]
    exact finish_wrote noNames long s 0#64
  · rw [show exec (.tfree k) s = execTfree k s from rfl, execTfree, if_neg (by simp [hm])]
    exact finish_after noNames long (setTile_me s _ _) 0#64
  · rw [show exec (.twait k) s = execTwait k s from rfl, execTwait, if_pos hm]
    exact waitAt_waits (code := 4) s rfl
  · rw [show exec (.tfree k) s = execTfree k s from rfl, execTfree, if_pos hm]
    exact tileTrap s

end Sys2Proof.Machine
end

section
/-! SUPPORT. The bytes that a store leaves (R157, R165, R170): in the stash, through a mapping or in a first-level line, and
what every other byte of its core is read from. -/

namespace Sys2Proof.Machine

/-! ### A byte as its core reads it -/

/-- What a core reads at an address whose line has a key, given its translation and what lies below the core. -/
def coreByte (c : LCore) (key va : Nat) (tr : Trans) (below frame : Page → Byte) : Option Byte :=
  if inWindow va then
    if va - windowBase < c.ways * wayBytes then some (stashByte c (va - windowBase)) else none
  else match tr with
    | .fail _ => none
    | .ok p =>
      match mappingOf c va with
      | some m =>
        let o := m.off + (va - m.addr)
        if m.filled.contains ((o - m.off) / 128 * 128) || m.dirty.contains o then some (stashByte c o) else some (below p)
      | none =>
        if p.aliased then some (frame p)
        else match look c.l1 key with
          | some l => if inMask l.valid (va % 128) then some (lineByte l.data (va % 128)) else some (below p)
          | none => some (below p)

theorem byteView_eq (s : State) (lc va : Nat) : byteView s lc va =
    coreByte (coreOf s lc) (lineKey (asidOf s lc) va) va (translate s (asidOf s lc) va) (byteBelow s lc va)
      (fun p => frameByte s p (frameOf p va)) := by
  unfold byteView coreByte <;> rfl

theorem byteBelow_modCore (s : State) (k : Nat) {f : LCore → LCore} (h : ∀ c, (f c).phys = c.phys) (lc va : Nat)
    (p : Page) : byteBelow (modCore s k f) lc va p = byteBelow s lc va p := by
  have hd : coreDie (modCore s k f) lc = coreDie s lc := by
    rw [coreDie, coreOf_modCore]
    split
    · next he => rw [h, he]; rfl
    · rfl
  have hl : ∀ key, dieLine (modCore s k f) lc key p = dieLine s lc key p := fun key => by
    rw [dieLine, hd]
    rfl
  rw [byteBelow]
  simp only [hl]
  rfl

/-- A change of one core changes what that core reads, as its own part says, and nothing below it. -/
theorem byteView_modCore (s : State) (k : Nat) {f : LCore → LCore} (h : ∀ c, (f c).phys = c.phys) (lc va : Nat) :
    byteView (modCore s k f) lc va = coreByte (if lc = k then f (coreOf s k) else coreOf s lc) (lineKey (asidOf s lc) va)
      va (translate s (asidOf s lc) va) (byteBelow s lc va) (fun p => frameByte s p (frameOf p va)) := by
  rw [byteView_eq, coreOf_modCore, show byteBelow (modCore s k f) lc va = byteBelow s lc va from
    funext fun p => byteBelow_modCore s k h lc va p]
  rfl

/-! ### Stash bytes (R157, R168) -/

theorem stashByte_setStashByte (c : LCore) (o a : Nat) (b : Byte) :
    stashByte (setStashByte c o b) a = if a = o then b else stashByte c a := getD_setD _ _ _ _ _

/-- The bytes of the stash after n of them are written from o on. -/
theorem stashByte_setStashNat (c : LCore) (o n v a : Nat) : stashByte (setStashNat c o n v) a =
    if o ≤ a ∧ a < o + n then BitVec.ofNat 8 (v / 256 ^ (a - o)) else stashByte c a := by
  unfold setStashNat
  induction n with
  | zero => simp [show ¬ (o ≤ a ∧ a < o) by omega]
  | succ n ih =>
    rw [List.range_succ, List.foldl_append, List.foldl_cons, List.foldl_nil, stashByte_setStashByte, ih]
    by_cases h : a = o + n
    · rw [if_pos h, if_pos (by omega), show a - o = n by omega]
    · rw [if_neg h]
      exact if_congr (by omega) rfl rfl

theorem stashNat_setStashNat (c : LCore) (o n v : Nat) : stashNat (setStashNat c o n v) o n = v % 256 ^ n := by
  rw [stashNat, ← bytesNat_ofNat]
  refine bytesNat_congr fun i hi => ?_
  rw [stashByte_setStashNat, if_pos (by omega), Nat.add_sub_cancel_left]

/-! ### A line with bytes written (R165) -/

theorem storeLine_valid (l : Line) (d : BitVec 1024) (m : BitVec 128) (task : Nat) (priv : BitVec 16) :
    (storeLine l d m task priv).valid = l.valid ||| m := rfl

theorem storeLine_data (l : Line) (d : BitVec 1024) (m : BitVec 128) (task : Nat) (priv : BitVec 16) :
    (storeLine l d m task priv).data = mergeLine l.data d m := rfl

theorem lineNat_merge_natLine (d : BitVec 1024) (v : Nat) {o n : Nat} (h : o + n ≤ 128) :
    lineNat (mergeLine d (natLine v o n) (spanMask o n)) o n = v % 256 ^ n := by
  rw [lineNat_eq, ← bytesNat_ofNat]
  refine bytesNat_congr fun i hi => ?_
  rw [lineByte_mergeLine, if_pos ((inMask_spanMask_iff (by omega)).mpr (by omega)), lineByte_natLine v h hi]

/-- The key of a line names its address space and the low bits of its address. -/
theorem lineKey_inj {asid a b : Nat} (h : lineKey asid a = lineKey asid b) : a % 2 ^ 48 / 128 = b % 2 ^ 48 / 128 := by
  unfold lineKey at h
  omega

/-- An aligned access lies in one line. -/
theorem access_fits {va n : Nat} (hn : n ∈ [1, 2, 4, 8, 64]) (hv : va % n = 0) : va % 128 + n ≤ 128 := by
  simp only [List.mem_cons, List.not_mem_nil, or_false] at hn
  rcases hn with rfl | rfl | rfl | rfl | rfl <;> omega

/-- Canonical addresses of one line whose byte lies in an access of it. -/
theorem access_of_line {asid a va n : Nat} (ha : canonicalVa a = true) (hv : canonicalVa va = true)
    (hk : lineKey asid a = lineKey asid va) (h1 : va % 128 ≤ a % 128)
    (h2 : a % 128 < va % 128 + n) : va ≤ a ∧ a < va + n := by
  have h := lineKey_inj hk
  simp only [canonicalVa, Bool.or_eq_true, beq_iff_eq] at ha hv
  omega

/-! ### What the checks have established -/

theorem ne_of_refused {u v : Verdict} (hu : allowed u = false) (hv : allowed v = true) : u ≠ v := fun he => by
  rw [he, hv] at hu
  exact Bool.noConfusion hu

theorem ownerRule_refuses {s : State} {task : Nat} {p : Page} {write : Bool} {g : Nat} {v : Verdict}
    (h : ownerRule s task p write g = some v) : allowed v = false := by
  have no : (none : Option Verdict) = some v → allowed v = false := fun h => absurd h (Option.some_ne_none _).symm
  unfold ownerRule at h
  split at h
  · exact no h
  · split at h
    · exact no h
    · split at h
      · split at h
        · exact no h
        · exact Option.some.inj h ▸ rfl
      · split at h
        · split at h
          · split at h
            · exact Option.some.inj h ▸ rfl
            · exact no h
          · exact Option.some.inj h ▸ rfl
        · exact no h

theorem firstSome_some {α β : Type} {f : α → Option β} {l : List α} {b : β} (h : firstSome f l = some b) :
    ∃ a ∈ l, f a = some b := by
  induction l with
  | nil => exact absurd h (by simp [firstSome])
  | cons x l ih =>
    rw [firstSome] at h
    split at h
    · next c hc => exact ⟨x, List.mem_cons_self, hc.trans h⟩
    · obtain ⟨a, ha, hf⟩ := ih h
      exact ⟨a, List.mem_cons_of_mem _ ha, hf⟩

theorem pageChecks_refuses {s : State} {task : Nat} {p : Page} {va n : Nat} {write special : Bool} {v : Verdict}
    (h : pageChecks s task p va n write special = some v) : allowed v = false := by
  unfold pageChecks at h
  dsimp only at h
  split at h
  · exact Option.some.inj h ▸ rfl
  · split at h
    · exact Option.some.inj h ▸ rfl
    · split at h
      · next u hu =>
        obtain ⟨g, -, hg⟩ := firstSome_some hu
        exact Option.some.inj h ▸ ownerRule_refuses hg
      · split at h
        · exact Option.some.inj h ▸ rfl
        · exact absurd h (Option.some_ne_none _).symm

section judged
variable {s : State} {lc : Nat} {x : Ctx} {va n : Nat} {write vec : Bool} {v : Verdict}

/-- Past the first check, an access is aligned. -/
theorem judge_aligned (h : judge s lc x va n write vec = v) (ha : allowed v = true) : va % n = 0 := by
  by_contra hn
  rw [judge, if_pos hn] at h
  exact ne_of_refused rfl ha h

/-- An access of the stash window that passes is answered its offset. -/
theorem judge_window (h : judge s lc x va n write vec = v) (ha : allowed v = true) (hw : inWindow va = true) :
    v = .window (va - windowBase) ∧ va - windowBase + n ≤ (coreOf s lc).ways * wayBytes := by
  have hn := judge_aligned h ha
  rw [judge, if_neg (not_not_intro hn), if_pos hw] at h
  dsimp only at h
  split at h
  · exact absurd h (ne_of_refused rfl ha)
  · split at h
    · exact absurd h (ne_of_refused rfl ha)
    · exact ⟨h.symm, by omega⟩

/-- An access outside the window that passes is canonical and translates; it is answered its place in a mapping, or its
page. -/
theorem judge_outside (h : judge s lc x va n write vec = v) (ha : allowed v = true) (hw : inWindow va = false) :
    canonicalVa va = true ∧ ∃ p, translate s (asidOf s lc) va = .ok p ∧
      ((∃ m, mappingOf (coreOf s lc) va = some m ∧ v = .mapped (m.off + (va - m.addr)) p) ∨
        (mappingOf (coreOf s lc) va = none ∧ v = .page p)) := by
  have hn := judge_aligned h ha
  rw [judge, if_neg (not_not_intro hn), if_neg (by simp [hw])] at h
  split at h
  · exact absurd h (ne_of_refused rfl ha)
  · split at h
    · exact absurd h (ne_of_refused rfl ha)
    · next hc =>
      have hcan : canonicalVa va = true := by
        cases hv : canonicalVa va with
        | true => rfl
        | false => simp [hv] at hc
      split at h
      · exact absurd h (ne_of_refused rfl ha)
      · next p hp =>
        refine ⟨hcan, p, hp, ?_⟩
        dsimp only at h
        split at h
        · next u hu =>
          exact absurd h (ne_of_refused (pageChecks_refuses hu) ha)
        · split at h
          · next m hm =>
            split at h
            · exact absurd h (ne_of_refused rfl ha)
            · exact .inl ⟨m, hm, h.symm⟩
          · next hm => exact .inr ⟨hm, h.symm⟩

end judged

end Sys2Proof.Machine
end

section
/-! SUPPORT. A store writes its bytes and no others (R161, R165, R170): the change of its core for each place that the checks
answer, and what the core reads after it. -/

namespace Sys2Proof.Machine

/-! ### The change of a core -/

theorem modCore_congr (s : State) (lc : Nat) {f g : LCore → LCore} (h : f (coreOf s lc) = g (coreOf s lc)) :
    modCore s lc f = modCore s lc g := by
  rw [modCore, h, ← modCore]

/-- A mapping whose bytes o to o + n − 1 are dirty (R170). -/
def dirtied (m : Mapping) (o n : Nat) : Mapping := { m with dirty := ((List.range n).map (fun i => o + i) ++ m.dirty).dedup }

theorem mem_dirtied (m : Mapping) (o n b : Nat) : b ∈ (dirtied m o n).dirty ↔ (o ≤ b ∧ b < o + n) ∨ b ∈ m.dirty := by
  simp only [dirtied, List.mem_dedup, List.mem_append, List.mem_map, List.mem_range]
  exact or_congr_left ⟨fun ⟨i, hi, he⟩ => by omega, fun h => ⟨b - o, by omega, by omega⟩⟩

/-- A mapping replaced by one of the same range lies where it lay. -/
theorem mappingOf_setMap (c : LCore) {m m' : Mapping} (ha : m'.addr = m.addr) (hl : m'.len = m.len) (a : Nat) :
    mappingOf (setMap c m m') a = (mappingOf c a).map (fun x => if x = m then m' else x) := by
  unfold mappingOf setMap
  rw [List.find?_map]
  refine congrArg (Option.map _) (congrArg (List.find? · c.maps) (funext fun x => ?_))
  simp only [Function.comp]
  split
  · next h => rw [h, ha, hl]
  · rfl

theorem mappingOf_setStashNat (c : LCore) (o n v a : Nat) : mappingOf (setStashNat c o n v) a = mappingOf c a := by
  rw [setStashNat_eq]
  rfl

/-- The core after a store through a mapping. -/
def mapStored (c : LCore) (m : Mapping) (o n x : Nat) : LCore := setMap (setStashNat c o n x) m (dirtied m o n)

theorem performStore_mapped {s : State} {lc va : Nat} {m : Mapping} (hm : mappingOf (coreOf s lc) va = some m)
    (n x o : Nat) (p : Page) :
    performStore s lc va n x (.mapped o p) = modCore s lc (fun c => mapStored c m o n x) :=
  modCore_congr s lc (f := fun c => match mappingOf c va with
    | some m => mapStored c m o n x
    | none => c) (by simp only [hm])

theorem mapStored_eq (c : LCore) (m : Mapping) (o n x : Nat) : mapStored c m o n x =
    { c with stash := (setStashNat c o n x).stash, maps := c.maps.map (fun k => if k = m then dirtied m o n else k) } := by
  unfold mapStored setMap
  rw [setStashNat_eq]

theorem mappingOf_mapStored (c : LCore) (m : Mapping) (o n x a : Nat) : mappingOf (mapStored c m o n x) a =
    (mappingOf c a).map (fun k => if k = m then dirtied m o n else k) := by
  rw [mapStored, mappingOf_setMap (m := m) (m' := dirtied m o n) _ rfl rfl, mappingOf_setStashNat]

/-- The class of a line's granules that a store touches first (R165). -/
def touchedClass (s : State) (lc va : Nat) (p : Page) (l : Line) (m : BitVec 128) : BitVec 16 :=
  BitVec.ofNat 16 ((List.range 16).foldl (fun acc i =>
    if spanMask (8 * i) 8 &&& m ≠ 0 ∧ spanMask (8 * i) 8 &&& l.valid = 0 ∧
      privGranule s p (taskNum lc) (frameOf p va / 128 * 128 + 8 * i) then acc + 2 ^ i else acc) 0)

/-- The first-level line of a store to a page. -/
def lineStored (s : State) (lc va n x : Nat) (p : Page) : Line :=
  let l := (look (coreOf s lc).l1 (lineKey (asidOf s lc) va)).getD (emptyLine p)
  storeLine l (natLine x (va % 128) n) (spanMask (va % 128) n) (taskNum lc)
    (touchedClass s lc va p l (spanMask (va % 128) n))

theorem performStore_page {p : Page} (hp : p.aliased = false) (s : State) (lc va n x : Nat) :
    performStore s lc va n x (.page p) = modCore s lc (fun c =>
      { c with l1 := put c.l1 (lineKey (asidOf s lc) va) (lineStored s lc va n x p) }) := by
  unfold performStore
  dsimp only
  rw [if_neg (by simp [hp])]
  rfl

/-! ### Other bytes of the core -/

/-- A core that holds the same at the place of an address reads the same there. -/
theorem coreByte_congr {c c' : LCore} {key a : Nat} {tr : Trans} {below frame : Page → Byte} (hw : c'.ways = c.ways)
    (hl : look c'.l1 key = look c.l1 key) (hs : ∀ o, stashPlaceOf c a = some o → stashByte c' o = stashByte c o)
    (hn : mappingOf c a = none → mappingOf c' a = none)
    (hm : inWindow a = false → ∀ m, mappingOf c a = some m → ∃ m', mappingOf c' a = some m' ∧ m'.off = m.off ∧ m'.addr = m.addr ∧
      m'.filled = m.filled ∧ m'.dirty.contains (m.off + (a - m.addr)) = m.dirty.contains (m.off + (a - m.addr))) :
    coreByte c' key a tr below frame = coreByte c key a tr below frame := by
  unfold coreByte
  unfold stashPlaceOf at hs
  cases hin : inWindow a with
  | true =>
    simp only [hin, if_true] at hs ⊢
    rw [hw, hs _ rfl]
  | false =>
    simp only [hin, Bool.false_eq_true, if_false] at hs ⊢
    cases hma : mappingOf c a with
    | none => rw [hn hma, hl]
    | some m =>
      obtain ⟨m', hm', ho, ha, hf, hd⟩ := hm hin m hma
      rw [hma] at hs
      rw [hm']
      simp only [ho, ha, hf, hd, hs _ rfl]

theorem coreByte_window {c : LCore} {key a o n x : Nat} {tr : Trans} {below frame : Page → Byte}
    (h : ∀ k, stashPlaceOf c a = some k → ¬ (o ≤ k ∧ k < o + n)) :
    coreByte (setStashNat c o n x) key a tr below frame = coreByte c key a tr below frame := by
  refine coreByte_congr ?_ ?_ (fun k hk => ?_) (fun hn => ?_) fun _ m hm => ⟨m, ?_, rfl, rfl, rfl, rfl⟩
  · rw [setStashNat_eq]
  · rw [setStashNat_eq]
  · rw [stashByte_setStashNat, if_neg (h k hk)]
  · rw [mappingOf_setStashNat, hn]
  · rw [mappingOf_setStashNat, hm]

theorem coreByte_mapped {c : LCore} {m : Mapping} {key a o n x : Nat} {tr : Trans} {below frame : Page → Byte}
    (h : ∀ k, stashPlaceOf c a = some k → ¬ (o ≤ k ∧ k < o + n)) :
    coreByte (mapStored c m o n x) key a tr below frame = coreByte c key a tr below frame := by
  refine coreByte_congr ?_ ?_ (fun k hk => ?_) (fun hn => ?_) fun hin k hk => ?_
  · rw [mapStored_eq]
  · rw [mapStored_eq]
  · rw [mapStored_eq]
    exact (stashByte_setStashNat c o n x k).trans (if_neg (h k hk))
  · rw [mappingOf_mapStored, hn]
    rfl
  · rw [mappingOf_mapStored, hk]
    by_cases hkm : k = m
    · subst hkm
      refine ⟨dirtied k o n, by simp, rfl, rfl, rfl, ?_⟩
      have hp : stashPlaceOf c a = some (k.off + (a - k.addr)) := by
        simp only [stashPlaceOf, hin, hk, Bool.false_eq_true, if_false]
      have hd := mem_dirtied k o n (k.off + (a - k.addr))
      rw [or_iff_right (h _ hp)] at hd
      rw [Bool.eq_iff_iff, List.contains_iff_mem, List.contains_iff_mem]
      exact hd
    · exact ⟨k, by simp [hkm], rfl, rfl, rfl, rfl⟩

/-- The bytes of a first-level line outside those stored read as they did. -/
theorem coreByte_line {c : LCore} {key k a off n x task : Nat} {p : Page} {gs : BitVec 16} {tr : Trans}
    {below frame : Page → Byte} (h : k = key → ¬ (off ≤ a % 128 ∧ a % 128 < off + n)) :
    coreByte { c with l1 := put c.l1 key (storeLine ((look c.l1 key).getD (emptyLine p)) (natLine x off n)
        (spanMask off n) task gs) } k a tr below frame = coreByte c k a tr below frame := by
  have hm : k = key → inMask (spanMask off n) (a % 128) = false := fun hk => by
    rw [← Bool.not_eq_true, inMask_spanMask_iff (Nat.mod_lt _ (by decide))]
    exact h hk
  unfold coreByte
  rw [look_put]
  by_cases hk : k = key
  · subst hk
    simp only [if_true, storeLine_valid, storeLine_data, inMask_or, lineByte_mergeLine, hm rfl, Bool.or_false,
      Bool.false_eq_true, if_false, mappingOf, stashByte]
    cases hl : look c.l1 k with
    | none => simp [emptyLine]
    | some l => rfl
  · simp only [hk, if_false, mappingOf, stashByte]

/-! ### The store read back -/

theorem readNow_lineStored {s : State} {lc va n x : Nat} {p : Page} (hp : p.aliased = false) (hf : va % 128 + n ≤ 128) :
    readNow (performStore s lc va n x (.page p)) lc va n (.page p) = some (x % 256 ^ n) := by
  have hv : spanMask (va % 128) n &&& ~~~(lineStored s lc va n x p).valid = 0 := by
    rw [mask_sub_iff]
    intro i hi h
    rw [lineStored, storeLine_valid, inMask_or, h, Bool.or_true]
  have hl : look (coreOf (performStore s lc va n x (.page p)) lc).l1
      (lineKey (asidOf (performStore s lc va n x (.page p)) lc) va) = some (lineStored s lc va n x p) := by
    rw [performStore_page hp, coreOf_modCore_same]
    exact look_put_same _ _ _
  unfold readNow
  simp only [hp, hl, hv, Bool.false_eq_true, if_false, if_true]
  rw [lineStored, storeLine_data, lineNat_merge_natLine _ _ hf]

theorem sameCores_modCore (s : State) (lc : Nat) {f : LCore → LCore} (hr : ∀ c n, coreReg (f c) n = coreReg c n)
    (ht : ∀ c, (f c).tiles = c.tiles) : SameCores s (modCore s lc f) := by
  refine ⟨fun k n => ?_, fun k i => ?_⟩
  · rw [coreOf_modCore]
    split
    · next h => rw [hr, h]
    · rfl
  · rw [coreOf_modCore]
    split
    · next h => rw [tileOf, ht, h, ← tileOf]
    · rfl

/-- What O36 states of a store whose change is that of its core's stash, mappings and first-level lines. -/
theorem store_frame (s : State) (lc : Nat) {f : LCore → LCore} (hctx : ∀ c, (f c).ctxs = c.ctxs)
    (hphys : ∀ c, (f c).phys = c.phys) (hr : ∀ c n, coreReg (f c) n = coreReg c n) (ht : ∀ c, (f c).tiles = c.tiles) :
    (∀ k a, k ≠ lc → byteView (modCore s lc f) k a = byteView s k a) ∧ SameCtxs s (modCore s lc f) ∧
      SameCores s (modCore s lc f) ∧ SameUnits s (modCore s lc f) ∧ SameModule s (modCore s lc f) := by
  refine ⟨fun k a hk => ?_, sameCtxs_modCore s lc f hctx, sameCores_modCore s lc hr ht, fun _ => rfl,
    rfl, fun _ => rfl, rfl, rfl, rfl, rfl, rfl⟩
  rw [byteView_modCore s lc hphys, if_neg hk, byteView_eq]

theorem byteView_modCore_same {s : State} {lc a : Nat} {f : LCore → LCore} (hphys : ∀ c, (f c).phys = c.phys)
    (h : ∀ tr below frame, coreByte (f (coreOf s lc)) (lineKey (asidOf s lc) a) a tr below frame =
      coreByte (coreOf s lc) (lineKey (asidOf s lc) a) a tr below frame) :
    byteView (modCore s lc f) lc a = byteView s lc a := by
  rw [byteView_modCore s lc hphys, if_pos rfl, h, byteView_eq]

section storedBytes
variable {s : State} {va n x : Nat}

theorem window_store (o : Nat) :
    let t := performStore s s.cur.1 va n x (.window o)
    readNow t t.cur.1 va n (.window o) = some (x % 256 ^ n) ∧
    (∀ a, ¬ Stored s va n (.window o) a → byteView t s.cur.1 a = byteView s s.cur.1 a) ∧
    (∀ lc a, lc ≠ s.cur.1 → byteView t lc a = byteView s lc a) ∧ SameCtxs s t ∧ SameCores s t ∧ SameUnits s t ∧
      SameModule s t := by
  refine ⟨?_, fun a ha => ?_, ?_⟩
  · show some (stashNat (coreOf (modCore s s.cur.1 fun c => setStashNat c o n x) s.cur.1) o n) = _
    rw [coreOf_modCore_same, stashNat_setStashNat]
  · refine byteView_modCore_same (f := fun c => setStashNat c o n x) (fun c => by rw [setStashNat_eq])
      fun tr below frame => coreByte_window fun k hk hks => ha ⟨k, hk, hks⟩
  · exact store_frame s s.cur.1 (f := fun c => setStashNat c o n x) (fun c => by rw [setStashNat_eq])
      (fun c => by rw [setStashNat_eq]) (fun c k => by rw [setStashNat_eq]; rfl) (fun c => by rw [setStashNat_eq])

theorem mapped_store {m : Mapping} (hm : mappingOf (myCore s) va = some m) (o : Nat) (p : Page) :
    let t := performStore s s.cur.1 va n x (.mapped o p)
    (stashNat (coreOf t s.cur.1) o n = x % 256 ^ n ∧
      ∃ m, mappingOf (coreOf t s.cur.1) va = some m ∧ ∀ i, i < n → o + i ∈ m.dirty) ∧
    (∀ a, ¬ Stored s va n (.mapped o p) a → byteView t s.cur.1 a = byteView s s.cur.1 a) ∧
    (∀ lc a, lc ≠ s.cur.1 → byteView t lc a = byteView s lc a) ∧ SameCtxs s t ∧ SameCores s t ∧ SameUnits s t ∧
      SameModule s t := by
  intro t
  have he : t = modCore s s.cur.1 (fun c => mapStored c m o n x) := performStore_mapped hm n x o p
  rw [he]
  refine ⟨⟨?_, dirtied m o n, ?_, fun i hi => (mem_dirtied _ _ _ _).mpr (.inl (by omega))⟩, fun a ha => ?_, ?_⟩
  · rw [coreOf_modCore_same, mapStored_eq]
    exact stashNat_setStashNat _ _ _ _
  · rw [coreOf_modCore_same, mappingOf_mapStored, show mappingOf (coreOf s s.cur.1) va = some m from hm]
    simp
  · exact byteView_modCore_same (f := fun c => mapStored c m o n x) (fun c => by rw [mapStored_eq])
      fun tr below frame => coreByte_mapped fun k hk hks => ha ⟨k, hk, hks⟩
  · refine store_frame s s.cur.1 (f := fun c => mapStored c m o n x) (fun c => by rw [mapStored_eq])
      (fun c => by rw [mapStored_eq]) (fun c k => ?_) (fun c => by rw [mapStored_eq])
    rw [mapStored_eq]
    simp only [coreReg, List.length_map]
    rfl

theorem page_store {p : Page} (hp : p.aliased = false) (hv : canonicalVa va = true) (hf : va % 128 + n ≤ 128) :
    let t := performStore s s.cur.1 va n x (.page p)
    readNow t t.cur.1 va n (.page p) = some (x % 256 ^ n) ∧
    (∀ a, canonicalVa a = true → ¬ Stored s va n (.page p) a → byteView t s.cur.1 a = byteView s s.cur.1 a) ∧
    (∀ lc a, lc ≠ s.cur.1 → byteView t lc a = byteView s lc a) ∧ SameCtxs s t ∧ SameCores s t ∧ SameUnits s t ∧
      SameModule s t := by
  intro t
  have he : t = modCore s s.cur.1 (fun c =>
      { c with l1 := put c.l1 (lineKey (asidOf s s.cur.1) va) (lineStored s s.cur.1 va n x p) }) :=
    performStore_page hp s s.cur.1 va n x
  refine ⟨?_, ?_⟩
  · rw [show t.cur.1 = s.cur.1 from congrArg Prod.fst (performStore_cur _ _ _ _ _ _)]
    exact readNow_lineStored hp hf
  rw [he]
  refine ⟨fun a ha hs => ?_, ?_⟩
  · refine byteView_modCore_same (f := fun c =>
      { c with l1 := put c.l1 (lineKey (asidOf s s.cur.1) va) (lineStored s s.cur.1 va n x p) }) (fun _ => rfl)
      fun tr below frame => coreByte_line fun hk hin => hs ?_
    exact access_of_line ha hv hk hin.1 hin.2
  · exact store_frame s s.cur.1 (f := fun c =>
      { c with l1 := put c.l1 (lineKey (asidOf s s.cur.1) va) (lineStored s s.cur.1 va n x p) }) (fun _ => rfl)
      (fun _ => rfl) (fun _ _ => rfl) (fun _ => rfl)

end storedBytes

/-- Settles O36, by the place that the checks answer: a byte of the stash window, of a mapping, or a page. -/
theorem storedBytesAndNoOthers : Obligations.StoredBytesAndNoOthers := by
  intro s va n x vec v hn ⟨_, hj, ha⟩ hp
  cases hin : inWindow va with
  | true =>
    obtain ⟨rfl, -⟩ := judge_window hj ha hin
    obtain ⟨h1, h2, h3⟩ := window_store (s := s) (va := va) (n := n) (x := x) (va - windowBase)
    exact ⟨fun _ => h1, fun o p he => absurd he (by simp), fun a _ => h2 a, h3⟩
  | false =>
    obtain ⟨hv, p, -, ⟨m, hm, rfl⟩ | ⟨-, rfl⟩⟩ := judge_outside hj ha hin
    · obtain ⟨h1, h2, h3⟩ := mapped_store (s := s) (n := n) (x := x) hm (m.off + (va - m.addr)) p
      refine ⟨fun hne => absurd rfl (hne _ p), fun o q he => ?_, fun a _ => h2 a, h3⟩
      obtain ⟨rfl, rfl⟩ := Verdict.mapped.inj he
      exact h1
    · obtain ⟨h1, h2, h3⟩ := page_store (s := s) (x := x) hp hv (access_fits hn (judge_aligned hj ha))
      exact ⟨fun _ => h1, fun o q he => absurd he (by simp), h2, h3⟩

end Sys2Proof.Machine
end

section
/-! SUPPORT. Changes that no core sees (R330, R336, R338): heat, generations, memory records and write requests on their
way; an instruction that traps, waits or completes after such a change does so as from the state before it. -/

namespace Sys2Proof.Machine

/-- The state with the parts of another that no core sees. -/
def withUnseen (t s : State) : State :=
  { t with gens := s.gens, heat := s.heat, heatDirty := s.heatDirty, records := s.records, writes := s.writes }

/-- Nothing has changed but heat, generations, memory records and write requests on their way. -/
def Unseen (s t : State) : Prop := withUnseen t s = s

theorem Unseen.get {α : Type} {s t : State} (h : Unseen s t) (f : State → α) : f (withUnseen t s) = f s :=
  congrArg f h

theorem Unseen.refl (s : State) : Unseen s s := rfl

theorem Unseen.trans {s t u : State} (h : Unseen s t) (k : Unseen t u) : Unseen s u := by
  have e : withUnseen u s = withUnseen (withUnseen u t) s := rfl
  rw [Unseen, e, k]
  exact h

theorem unseen_heatMiss (s : State) (asid va : Nat) : Unseen s (heatMiss s asid va) := by
  obtain ⟨g, h, e⟩ := heatMiss_eq s asid va
  rw [e]
  rfl

theorem unseen_heatLookup (s : State) (asid va : Nat) : Unseen s (heatLookup s asid va) := by
  obtain ⟨g, h, e⟩ := heatLookup_eq s asid va
  rw [e]
  rfl

theorem unseen_lookedUp (s : State) (va cause : Nat) : Unseen s (lookedUp s va cause) := by
  unfold lookedUp
  split
  · exact unseen_heatLookup _ _ _
  · exact .refl s

theorem unseen_parkIn (s : State) (kind req asid va size frame : Nat) (entry : Word) (task : Nat) (r : Waiter) :
    Unseen s (parkIn s kind req asid va size frame entry task r) := by
  unfold parkIn
  dsimp only
  split <;> rfl

theorem unseen_parkAs (s : State) (kind req asid va frame : Nat) (entry : Word) (task : Nat) (r : Waiter) :
    Unseen s (parkAs s kind req asid va frame entry task r) :=
  (unseen_heatMiss s asid va).trans (unseen_parkIn _ _ _ _ _ _ _ _ _ _)

section unseen
variable {s t : State} (h : Unseen s t)
include h

theorem Unseen.cur : t.cur = s.cur := h.get State.cur
theorem Unseen.cores : t.cores = s.cores := h.get State.cores
theorem Unseen.coreOf (lc : Nat) : coreOf t lc = coreOf s lc := h.get (Machine.coreOf · lc)
theorem Unseen.ctxOf (lc c : Nat) : ctxOf t lc c = ctxOf s lc c := h.get (Machine.ctxOf · lc c)
theorem Unseen.me : me t = me s := h.get Machine.me
theorem Unseen.ticks : t.ticks = s.ticks := h.get State.ticks
theorem Unseen.packets : t.packets = s.packets := h.get State.packets
theorem Unseen.words : sentWords t = sentWords s := h.get sentWords
theorem Unseen.tasks : t.tasks = s.tasks := h.get State.tasks

theorem Unseen.view : SameView s t :=
  .of_map ⟨h.get State.msc, h.get State.mem, h.get State.frameKeys, h.get State.keySlots, h.get State.memStacks,
    h.get State.tlb, h.get State.parts, h.get State.asidbase⟩ (h.get State.gtags) (h.get State.l2) h.tasks h.cores

theorem Unseen.kept : AllKept s t :=
  ⟨fun lc c _ => h.ctxOf lc c, h.view.memory, ⟨fun lc n => by rw [h.coreOf], fun lc i => by rw [h.coreOf]⟩,
    fun p => h.get fun u => unitRegs (physOf u p),
    ⟨h.get State.rows, fun n => h.get (packageReg · n), h.get State.melt, h.get State.rfz, h.get State.yards, h.tasks,
      h.ticks⟩⟩

end unseen

/-! ### The word at an address, and a packet's words -/

theorem SameMap.insnAt {s t : State} (h : SameMap s t) (ht : t.ticks = s.ticks) (asid va : Nat) :
    insnAt t asid va = insnAt s asid va := by
  have hh : ∀ a, halfAt t asid a = halfAt s asid a := fun a => by
    simp only [halfAt, h.translate, h.currentLine]
  simp only [Machine.insnAt, hh, ht]

theorem SameView.packetWords {s t : State} (h : SameView s t) (ht : t.ticks = s.ticks) {lc c : Nat}
    (hx : ctxOf t lc c = ctxOf s lc c) (cause sub : Nat) (d : Bool) (a : Word) (l : List Word) :
    packetWords t lc c cause sub d a l = packetWords s lc c cause sub d a l := by
  simp only [Machine.packetWords, packetHead, h.phys, hx, ht, h.asid, h.map.insnAt ht]

/-! ### Traps, waits and completions after an unseen change -/

theorem Unseen.trapped {s u t : State} (h : Unseen s u) {cause sub : Nat} {a : Word} {l : List Word}
    (k : Trapped u t cause sub a l) : Trapped s t cause sub a l where
  cur := k.cur.trans h.cur
  context := k.context.trans (by rw [h.me])
  packets := by
    rw [k.packets, h.packets, h.cur, h.view.packetWords h.ticks (h.ctxOf _ _)]
  words := k.words.trans h.words
  queues := fun lc => (k.queues lc).trans (by rw [h.coreOf])
  kept := h.kept.trans k.kept h.cur

theorem Unseen.waits {s u t : State} (h : Unseen s u) {code : Nat} {st : Stage} (k : Waits u t code st) :
    Waits s t code st where
  cur := k.cur.trans h.cur
  context := k.context.trans (by rw [h.me, h.ticks])
  words := k.words.trans h.words
  queues := fun lc => (k.queues lc).trans (by rw [h.coreOf])
  kept := h.kept.trans k.kept h.cur

theorem Unseen.completed {s u t : State} (h : Unseen s u) {n : Names} {f : Ctx → Ctx} {w pc : Word}
    (k : Completed n u t f w pc) : Completed n s t f w pc where
  cur := k.cur.trans h.cur
  context := k.context.trans (by rw [h.me])
  words := k.words.trans (by simp only [h.words, sends, h.cur, h.me])
  queues := fun lc p => (k.queues lc p).trans (by rw [h.coreOf, h.cur])

theorem Unseen.wrote {s u t : State} (h : Unseen s u) {n : Names} {w pc : Word} (k : Wrote n u t w pc) :
    Wrote n s t w pc := ⟨h.completed k.1, h.kept.trans k.2 h.cur⟩

theorem Unseen.changed {s u t : State} (h : Unseen s u) {n : Names} {f : Ctx → Ctx} {pc : Word} (k : Changed n u t f pc) :
    Changed n s t f pc := ⟨h.completed k.1, h.kept.trans k.2 h.cur⟩

end Sys2Proof.Machine
end

section
/-! SUPPORT. The checks of an access, in their order (R158, R206, R317, R318), and what an access does that they refuse
(R159, R285, R335, R350). -/

namespace Sys2Proof.Machine

/-! ### The checks before those of the page -/

section judged
variable {s : State} {lc : Nat} {x : Ctx} {va n : Nat} {write vec : Bool}

theorem judge_unaligned (h : va % n ≠ 0) : judge s lc x va n write vec = .trap causeMisaligned va [] := if_pos h

theorem judge_past_ways (h : va % n = 0) (hw : inWindow va = true)
    (ho : (coreOf s lc).ways * wayBytes < va - windowBase + n) :
    judge s lc x va n write vec = .trap causeProtect va [] := by
  rw [judge, if_neg (not_not_intro h), if_pos hw]
  exact if_pos ho

/-- An aligned access outside the window meets the watches first (R318). -/
theorem judge_watched {a : Nat} (h : va % n = 0) (hw : inWindow va = false)
    (ha : watched x (if write then watchStore else watchLoad) va n = some a) :
    judge s lc x va n write vec = .trap causeWatch a [] := by
  simp [judge, h, hw, ha]

theorem judge_noncanonical (h : va % n = 0) (hw : inWindow va = false)
    (ha : watched x (if write then watchStore else watchLoad) va n = none) (hc : canonicalVa va = false) :
    judge s lc x va n write vec = .trap causeProtect va [] := by
  simp [judge, h, hw, ha, hc]

theorem judge_untranslated {e : Word} (h : va % n = 0) (hw : inWindow va = false)
    (ha : watched x (if write then watchStore else watchLoad) va n = none) (hc : canonicalVa va = true)
    (hd : debugWindow s lc va = none) (ht : translate s (asidOf s lc) va = .fail e) :
    judge s lc x va n write vec = .parks e := by
  simp [judge, h, hw, ha, hc, hd, ht]

/-- What the checks of the page refuse is refused (R158 steps 3 to 5). -/
theorem judge_refused {p : Page} {v : Verdict} (h : Reaches s lc x va n write p)
    (hp : pageChecks s (taskNum lc) p va n write (vec || (mappingOf (coreOf s lc) va).isSome) = some v) :
    judge s lc x va n write vec = v := by
  obtain ⟨hv, hw, ha, hc, hd, ht⟩ := h
  simp [judge, hv, hw, ha, hc, hd, ht, hp]

end judged

/-! ### The checks of the page (R158 steps 3 to 5) -/

section page
variable {s : State} {task : Nat} {p : Page} {va n : Nat} {write special : Bool}

theorem pageChecks_page (h : (write && (!p.w || p.attr == attrFrozen)) || (special && p.aliased)) :
    pageChecks s task p va n write special = some (.trap causeProtect va []) := by
  rw [pageChecks, if_pos h]

/-- An aligned access of up to eight bytes touches one granule. -/
theorem granulesOf_aligned (hn : n ∈ [1, 2, 4, 8]) (hv : va % n = 0) : granulesOf va n = [va / 8 * 8] := by
  have h1 : (va % 8 + n + 7) / 8 = 1 := by
    simp only [List.mem_cons, List.not_mem_nil, or_false] at hn
    rcases hn with rfl | rfl | rfl | rfl <;> omega
  rw [granulesOf, h1]
  rfl

/-- The checks of one granule, past those of the page's entry. -/
theorem pageChecks_granule (hn : n ∈ [1, 2, 4, 8]) (hv : va % n = 0)
    (h : ((write && (!p.w || p.attr == attrFrozen)) || (special && p.aliased)) = false) :
    pageChecks s task p va n write special =
      if write = true ∧ readOnlyGranule s p (va / 8 * 8) = true then some (.trap causeProtect va [])
      else (ownerRule s task p write (va / 8 * 8)).or
        (if write = false ∧ isPoison s (frameOf p (va / 8 * 8)) = true then some (.trap causePoison va []) else none) := by
  have hm : max (va / 8 * 8) va = va := by omega
  rw [pageChecks, h, granulesOf_aligned hn hv]
  cases write with
  | true =>
    cases hr : readOnlyGranule s p (va / 8 * 8) <;> cases ho : ownerRule s task p true (va / 8 * 8) <;>
      simp [hr, ho, firstSome, hm]
  | false =>
    cases hr : isPoison s (frameOf p (va / 8 * 8)) <;> cases ho : ownerRule s task p false (va / 8 * 8) <;>
      simp [hr, ho, firstSome, hm]

theorem readOnlyGranule_iff (g : Nat) : readOnlyGranule s p g = true ↔
    granTag s (frameOf p g) = tagHeader ∨ granTag s (frameOf p g) = tagReference ∨
      ∃ o, p.attr ≠ attrPlain ∧ objectOf s p (frameOf p g) = some o ∧ o.state = objFrozen := by
  cases ho : objectOf s p (frameOf p g) <;> simp [readOnlyGranule, ho, or_assoc]

/-- Another task's object, PRIVATE or being published, refuses the access (R206). -/
theorem ownerRule_foreign {g : Nat} {o : Obj} (ha : p.attr ≠ attrPlain) (ho : objectOf s p (frameOf p g) = some o)
    (hs : o.state = objPrivate ∨ o.state = objPublishing) (hw : o.owner ≠ task) :
    ownerRule s task p write g = some (.trap causeEscape g [word o.owner]) := by
  rw [ownerRule, if_neg ha, ho]
  rcases hs with hs | hs <;> simp [hs, hw, objPublishing, objPrivate]

/-- No other task's object refuses a load. -/
theorem ownerRule_load {g : Nat} (h : ∀ o, ¬ (p.attr ≠ attrPlain ∧ objectOf s p (frameOf p g) = some o ∧
    (o.state = objPrivate ∨ o.state = objPublishing) ∧ o.owner ≠ task)) : ownerRule s task p false g = none := by
  unfold ownerRule
  split
  · rfl
  · next ha =>
    split
    · rfl
    · next o ho =>
      have hw : o.state = objPrivate ∨ o.state = objPublishing → o.owner = task := fun hs =>
        not_not.mp fun hw => h o ⟨ha, ho, hs, hw⟩
      split
      · next hs => rw [if_pos (hw (.inl hs))]
      · split
        · next hs => simp [hw (.inr hs)]
        · rfl

end page

/-! ### What becomes pending (R305, R306) -/

theorem quiet_pendCause (s : State) (lc c : Nat) (p : Pending) : Quiet s (pendCause s lc c p) := by
  unfold pendCause
  split
  · exact quiet_modCtx _ _ _ _
  · exact .refl s

theorem pendCause_ctxOf (s : State) (lc c : Nat) (p : Pending) (a b : Nat) : ctxOf (pendCause s lc c p) a b =
    if a = lc ∧ b = c ∧ (ctxOf s lc c).live = true then { ctxOf s a b with pend := (ctxOf s a b).pend ++ [p] }
    else ctxOf s a b := by
  unfold pendCause
  split
  · next h =>
    rw [ctxOf_modCtx]
    by_cases hc : a = lc ∧ b = c
    · obtain ⟨rfl, rfl⟩ := hc
      simp [h]
    · rw [if_neg hc, if_neg fun k => hc ⟨k.1, k.2.1⟩]
  · next h => rw [if_neg fun k => h k.2.2]

theorem quiet_foldl {α : Type} {f : State → α → State} (h : ∀ s a, Quiet s (f s a)) (l : List α) (s : State) :
    Quiet s (l.foldl f s) := by
  induction l generalizing s with
  | nil => exact .refl s
  | cons a l ih => exact (h s a).trans (ih _)

theorem quiet_freezePoisoned (s : State) (e : Nat × Nat) : Quiet s (freezePoisoned s e) := by
  have hp : Quiet s (if (ctxOf s e.1 e.2).pend.any isPoisonCause then s
      else pendCause s e.1 e.2 ⟨causePoison, 0, 0#64, []⟩) := by
    split
    · exact .refl s
    · exact quiet_pendCause _ _ _ _
  unfold freezePoisoned
  dsimp only
  generalize (if (ctxOf s e.1 e.2).pend.any isPoisonCause = true then s
      else pendCause s e.1 e.2 ⟨causePoison, 0, 0#64, []⟩) = u at hp ⊢
  split
  · exact .refl s
  · split
    · split
      · exact (hp.trans (quiet_setCtx _ _ _ _)).trans (freeze_quiet _ _ _ _ _ _ _ _)
      · exact hp
    · exact hp

theorem quiet_freezeCrew (s : State) (task : Nat) : Quiet s (freezeCrew s task) := quiet_foldl quiet_freezePoisoned _ s

/-- A placed task that meets a POISON rolls back (R350). -/
theorem poisonMet_rolling {s : State} {task : Nat} {t : Task} (h : taskOf s task = some t) (hp : t.stage = .placed) :
    (taskOf (poisonMet s task) task).map (·.rolling) = some true := by
  rw [poisonMet, h]
  dsimp only
  split
  · rw [show taskOf (freezeCrew (modTask s task fun q => { q with rolling := true }) task) =
        taskOf (modTask s task fun q => { q with rolling := true }) by
      unfold taskOf
      rw [(quiet_freezeCrew _ _).tasks], taskOf_modTask, if_pos rfl, h]
    rfl
  · next hn =>
    rw [h]
    have : t.rolling = true := by simpa [hp] using hn
    simp [this]

/-! ### LEASE_VIOLATION of a crew (R285, R309) -/

/-- What every other context of the crew is told. -/
def leaseCause : Pending := ⟨causeLease, 1, 0#64, []⟩

/-- A context of the crew, unless it is the faulting one, has LEASE_VIOLATION pending. -/
def leaseStep (but : Option (Nat × Nat)) (t : State) (x : Nat × Nat) : State :=
  if some x = but then t else pendCause t x.1 x.2 leaseCause

theorem leaseCrew_eq (s : State) (task : Nat) (but : Option (Nat × Nat)) :
    leaseCrew s task but = (crewContexts s task).foldl (leaseStep but) s := rfl

theorem quiet_leaseStep (but : Option (Nat × Nat)) (s : State) (x : Nat × Nat) : Quiet s (leaseStep but s x) := by
  unfold leaseStep
  split
  · exact .refl s
  · exact quiet_pendCause _ _ _ _

theorem quiet_leaseCrew (s : State) (task : Nat) (but : Option (Nat × Nat)) : Quiet s (leaseCrew s task but) :=
  quiet_foldl (quiet_leaseStep but) _ s

/-- A context told of the lease only has more pending. -/
theorem leaseStep_ctxOf (but : Option (Nat × Nat)) (s : State) (x : Nat × Nat) (lc c : Nat) :
    ctxOf (leaseStep but s x) lc c = if (lc, c) = x ∧ some x ≠ but ∧ (ctxOf s lc c).live = true
      then { ctxOf s lc c with pend := (ctxOf s lc c).pend ++ [leaseCause] } else ctxOf s lc c := by
  unfold leaseStep
  split
  · next h => rw [if_neg fun k => k.2.1 h]
  · next h =>
    rw [pendCause_ctxOf]
    by_cases hx : (lc, c) = x
    · subst hx
      simp [h]
    · rw [if_neg fun k => hx (Prod.ext k.1 k.2.1), if_neg fun k => hx k.1]

theorem leaseFold_but (but : Nat × Nat) (l : List (Nat × Nat)) (s : State) :
    ctxOf (l.foldl (leaseStep (some but)) s) but.1 but.2 = ctxOf s but.1 but.2 := by
  induction l generalizing s with
  | nil => rfl
  | cons x l ih =>
    rw [List.foldl_cons, ih, leaseStep_ctxOf, if_neg fun k => k.2.1 (congrArg some k.1.symm)]

/-- A context that is live and told of the lease stays both. -/
theorem leaseFold_keeps (but : Option (Nat × Nat)) (l : List (Nat × Nat)) {s : State} {lc c : Nat} :
    ((ctxOf s lc c).live = true → (ctxOf (l.foldl (leaseStep but) s) lc c).live = true) ∧
      (leaseCause ∈ (ctxOf s lc c).pend → leaseCause ∈ (ctxOf (l.foldl (leaseStep but) s) lc c).pend) := by
  induction l generalizing s with
  | nil => exact ⟨id, id⟩
  | cons x l ih =>
    rw [List.foldl_cons]
    refine ⟨fun h => ih.1 ?_, fun h => ih.2 ?_⟩ <;> rw [leaseStep_ctxOf]
    · split <;> exact h
    · split
      · exact List.mem_append_left _ h
      · exact h

theorem leaseFold_tells {but : Option (Nat × Nat)} {l : List (Nat × Nat)} {s : State} {lc c : Nat} (hm : (lc, c) ∈ l)
    (hb : some (lc, c) ≠ but) (hl : (ctxOf s lc c).live = true) :
    leaseCause ∈ (ctxOf (l.foldl (leaseStep but) s) lc c).pend := by
  obtain ⟨l1, l2, rfl⟩ := List.append_of_mem hm
  rw [List.foldl_append, List.foldl_cons]
  have h1 := (leaseFold_keeps but l1).1 hl
  refine (leaseFold_keeps but l2).2 ?_
  rw [leaseStep_ctxOf, if_pos ⟨rfl, hb, h1⟩]
  exact List.mem_append_right _ (List.mem_singleton_self _)

/-- A live context of a task's logical core is one of its crew. -/
theorem mem_crewContexts {s : State} {lc c : Nat} (h : (ctxOf s lc c).live = true) :
    (lc, c) ∈ crewContexts s (taskNum lc) := by
  have listed : ∀ {α : Type} (d : α) (m : Sparse α) (a : Nat), getD d m a = d ∨ (a, getD d m a) ∈ m := fun d m a => by
    unfold getD
    cases hl : look m a with
    | none => exact .inl rfl
    | some v => exact .inr (mem_of_look hl)
  have hx : (c, ctxOf s lc c) ∈ (coreOf s lc).ctxs := (listed Ctx.reset _ c).resolve_left fun he => by
    rw [ctxOf, he] at h
    exact absurd h (by decide)
  have hk : (lc, coreOf s lc) ∈ s.cores := (listed LCore.reset _ lc).resolve_left fun he => by
    rw [coreOf, he] at hx
    exact absurd hx (List.not_mem_nil)
  simp only [crewContexts, List.mem_flatMap, List.mem_filter, List.mem_map, beq_iff_eq]
  exact ⟨_, ⟨hk, rfl⟩, _, ⟨hx, h⟩, rfl⟩

theorem leaseEnds_iff {s : State} {task va : Nat} {t : Task} (h : taskOf s task = some t) :
    leaseEnds s task va = true ↔ (∃ g ∈ t.ranges, g.replay = false) ∧
      ¬ ∃ g ∈ t.ranges, g.replay = true ∧ g.base ≤ va ∧ va < g.base + g.len := by
  simp [leaseEnds, h, inRange]

/-! ### Parking (R335, R336) -/

/-- A record of the page of the address has the requester among its waiters. -/
theorem parkIn_parked (s : State) (req asid va frame : Nat) (entry : Word) (task : Nat) (r : Waiter) :
    ParkedAt (parkIn s 1 req asid va 65536 frame entry task r) asid va r.who := by
  unfold parkIn
  dsimp only
  split
  · next i hi =>
    obtain ⟨hlt, hp, -⟩ := List.findIdx?_eq_some_iff_getElem.mp hi
    simp only [Bool.and_eq_true, beq_iff_eq] at hp
    obtain ⟨⟨hk, ha⟩, hv⟩ := hp
    unfold modifyAt
    simp only [List.getElem?_eq_getElem hlt]
    refine ⟨_, List.mem_set hlt _, ?_⟩
    split
    · next hw =>
      obtain ⟨w, hw, hr⟩ := List.any_eq_true.mp hw
      exact ⟨hk, ha, hv, w, hw, beq_iff_eq.mp hr⟩
    · exact ⟨hk, ha, hv, r, List.mem_append_right _ (List.mem_singleton_self _), rfl⟩
  · exact ⟨_, List.mem_append_right _ (List.mem_singleton_self _), rfl, rfl, rfl, r, List.mem_singleton_self _, rfl⟩

theorem parkAs_parked (s : State) (req asid va frame : Nat) (entry : Word) (task : Nat) (r : Waiter) :
    ParkedAt (parkAs s 1 req asid va frame entry task r) asid va r.who := parkIn_parked _ _ _ _ _ _ _ _

/-- A change of the context alone leaves the records. -/
theorem Quiet.parkedAt {s t : State} (h : Quiet s t) {asid va : Nat} {who : Requester} (k : ParkedAt s asid va who) :
    ParkedAt t asid va who := by
  unfold ParkedAt
  rw [show t.records = s.records from h.get State.records]
  exact k

end Sys2Proof.Machine
end

section
/-! SUPPORT. An access that its checks refuse traps at once, parks, or ends its task (R158, R159, R285). -/

namespace Sys2Proof.Machine

/-! ### A trap of the checks -/

/-- A precise cause freezes the current context and sends its packet. -/
theorem freeze_trapped (s : State) (cause sub : Nat) (a : Word) (l : List Word) :
    Trapped s (freeze s s.cur.1 s.cur.2 cause sub false a l) cause sub a l := by
  have h := freeze_own s cause sub false a l
  exact ⟨h.cur, h.me, freeze_packets _ _ _ _ _ _ _ _, h.words, h.queues, h.quiet.kept h.others⟩

/-- A verdict that traps freezes the context; POISON also starts the rollback. -/
theorem refuse_trap (s : State) (va cause a : Nat) (l : List Word) : ∃ t,
    Trapped s t cause 0 (word a) (if cause = causeEscape then l else []) ∧
      refuse s va [] (.trap cause a l) = .next (if cause = causePoison then poisonMet t (taskNum s.cur.1) else t) := by
  have h := unseen_lookedUp s va cause
  refine ⟨_, h.trapped (freeze_trapped _ cause 0 (word a) (if cause = causeEscape then l else [])), ?_⟩
  rw [← h.cur]
  rfl

/-- The checks come before the access. -/
theorem checkAccess_refused {s : State} {va n : Nat} {write vec : Bool} {v : Verdict}
    (hb : (lineBusy s va && !inWindow va) = false) (hj : judge s s.cur.1 (me s) va n write vec = v)
    (ha : allowed v = false) (k : Verdict → Res) : checkAccess s va n write vec k = refuse s va [] v := by
  rw [checkAccess, hb]
  simp only [hj, ha, Bool.false_eq_true, if_false]

/-- Outside the debug window no access goes there. -/
theorem viaWindow_none {s : State} {va : Nat} (h : debugWindow s s.cur.1 va = none) (n kind : Nat) :
    viaWindow s va n kind = none := by
  rw [viaWindow, h, ite_self]

theorem exec_loadRow_scalar {i : Instr} {r : LoadRow} {s : State} (hr : loadRow i = some r) (hi : Issues r.names s)
    (hw : r.n = 8 → viaWindow s (r.va s) 8 watchLoad = none) :
    exec i s = loadScalar r.names r.len r.d (r.va s) r.n r.signed s := by
  rw [exec_loadRow hr, issue_ready hi, loadAny]
  split
  · next w hw' => split at hw' <;> simp_all
  · rfl

/-! ### A failed translation -/

/-- An access whose translation fails parks behind a record of the page. -/
theorem parkMineAs_parks {s : State} {va : Nat} (h : leaseEnds s (taskNum s.cur.1) va = false) (e : Word) (a : Nat)
    (l : List Word) : ∃ t, parkMineAs s va e a l = .next t ∧ Waits s t 7 (begunStage (me s)) ∧
      ParkedAt t (asidOf s s.cur.1) va (.access s.cur.1 s.cur.2) := by
  have hu := unseen_parkAs s 1 1 (asidOf s s.cur.1) va 0 e (taskNum s.cur.1) ⟨.access s.cur.1 s.cur.2, a, l⟩
  have hp := parkAs_parked s 1 (asidOf s s.cur.1) va 0 e (taskNum s.cur.1) ⟨.access s.cur.1 s.cur.2, a, l⟩
  generalize hg : parkAs s 1 1 (asidOf s s.cur.1) va 0 e (taskNum s.cur.1) ⟨.access s.cur.1 s.cur.2, a, l⟩ = u at hu hp
  have hn := (noteIssue_own u).quiet.trans (quiet_modMe _ fun x =>
    { x with wait := 7, stage := if (me u).stage = .idle then .begun else (me u).stage })
  obtain ⟨t, ht, hw⟩ := waitBegun_waits u 7
  have hq : Quiet u t := Host.Outcome.next.inj ht ▸ hn
  rw [hu.me] at hw
  refine ⟨t, ?_, hu.waits hw, hq.parkedAt hp⟩
  rw [parkMineAs, h, ← ht, ← hg]
  rfl

/-- A STRICT task ends there: its context takes LEASE_VIOLATION and the others of the crew have it pending. -/
theorem parkMineAs_ends {s : State} {va : Nat} (h : leaseEnds s (taskNum s.cur.1) va = true) (e : Word) (a : Nat)
    (l : List Word) : ∃ t, parkMineAs s va e a l = .next t ∧ me t = frozenAt (me s) causeLease 0 ∧
      t.packets = s.packets ++
        [⟨s.cur.1, s.cur.2, packetWords s s.cur.1 s.cur.2 causeLease 0 false (BitVec.ofNat 64 va) []⟩] ∧
      (∀ lc c, taskNum lc = taskNum s.cur.1 → (ctxOf s lc c).live = true → (lc, c) ≠ s.cur →
        ∃ p ∈ (ctxOf t lc c).pend, p.cause = causeLease ∧ p.sub = 1) ∧ SameMemory s t := by
  have hh := unseen_heatMiss s (asidOf s s.cur.1) va
  generalize hm : heatMiss s (asidOf s s.cur.1) va = w at hh
  have hq := quiet_leaseCrew w (taskNum s.cur.1) (some s.cur)
  generalize hl : leaseCrew w (taskNum s.cur.1) (some s.cur) = u at hq
  have hcur : u.cur = s.cur := (hq.get State.cur).trans hh.cur
  have hctx : ctxOf u s.cur.1 s.cur.2 = ctxOf s s.cur.1 s.cur.2 := by
    rw [← hl, leaseCrew_eq, leaseFold_but, hh.ctxOf]
  have hme : me u = me s := by rw [me, hcur, hctx, me]
  have hpk : u.packets = s.packets := by
    have hp : ∀ (xs : List (Nat × Nat)) (v : State),
        (xs.foldl (leaseStep (some s.cur)) v).packets = v.packets := fun xs v =>
      foldl_keeps State.packets (fun v x => by
        unfold leaseStep pendCause
        split
        · rfl
        · split <;> rfl) xs v
    rw [← hl, leaseCrew_eq, hp, hh.packets]
  have ho := freeze_own u causeLease 0 false (word va) []
  refine ⟨_, by rw [parkMineAs, h, hm, hl]; rfl, ?_, ?_, fun lc c ht hlive hne => ⟨leaseCause, ?_, rfl, rfl⟩, ?_⟩
  · exact ho.me.trans (congrArg (frozenAt · causeLease 0) hme)
  · have hw := (hh.view.trans hq.view).packetWords ((hq.get State.ticks).trans hh.ticks) hctx causeLease 0 false (word va) []
    refine (freeze_packets _ _ _ _ _ _ _ _).trans ?_
    rw [hpk, hcur, hw]
    rfl
  · refine (ho.others lc c (hcur ▸ hne)).symm ▸ ?_
    rw [← hl, leaseCrew_eq, ← ht]
    have hlw : (ctxOf w lc c).live = true := (hh.ctxOf lc c).symm ▸ hlive
    exact leaseFold_tells (mem_crewContexts hlw) (fun k => hne (Option.some.inj k)) hlw
  · exact ((hh.view.trans hq.view).trans ho.quiet.view).memory

/-- An access whose translation fails does what R159 and R285 say. -/
theorem checkAccess_fails {s : State} {va n : Nat} {write vec : Bool} (h : Untranslated s va n write)
    (k : Verdict → Res) : Fails s va (checkAccess s va n write vec k) := by
  obtain ⟨hb, hv, hw, ha, hc, hd, e, ht⟩ := h
  rw [checkAccess_refused (by rw [hb]; rfl) (judge_untranslated hv hw ha hc hd ht) rfl]
  exact ⟨fun hl => parkMineAs_parks hl e va [], fun hl => parkMineAs_ends hl e va []⟩

theorem Untranslated.window {s : State} {va n : Nat} {write : Bool} (h : Untranslated s va n write) :
    debugWindow s s.cur.1 va = none := by
  obtain ⟨-, -, -, -, -, hd, -⟩ := h
  exact hd

/-! ### A fetch whose translation fails -/

/-- No byte depends on whose turn it is. -/
theorem view_cur (s : State) (e : Nat × Nat) : SameView s { s with cur := e } :=
  .of_map ⟨rfl, rfl, rfl, rfl, rfl, rfl, rfl, rfl⟩ rfl rfl rfl rfl

/-- A fetch that does not translate parks, whatever its task declares (R285). -/
theorem fetchFails_parks (s : State) (va : Nat) (e : Word) : ∃ t, fetchFails s s.cur.1 s.cur.2 va e = .next t ∧
    me t = { me s with wait := 7 } ∧ ParkedAt t (asidOf s s.cur.1) va (.fetch s.cur.1 s.cur.2) ∧ SameView s t ∧
      t.cur = s.cur := by
  unfold fetchFails
  have hu := unseen_parkAs s 1 2 (asidOf s s.cur.1) va 0 e (taskNum s.cur.1)
    ⟨.fetch s.cur.1 s.cur.2, (ctxOf s s.cur.1 s.cur.2).pc.toNat, []⟩
  have hp := parkAs_parked s 2 (asidOf s s.cur.1) va 0 e (taskNum s.cur.1)
    ⟨.fetch s.cur.1 s.cur.2, (ctxOf s s.cur.1 s.cur.2).pc.toNat, []⟩
  generalize parkAs s 1 2 (asidOf s s.cur.1) va 0 e (taskNum s.cur.1)
    ⟨.fetch s.cur.1 s.cur.2, (ctxOf s s.cur.1 s.cur.2).pc.toNat, []⟩ = u at hu hp
  have hm := modMe_own u fun x => { x with wait := 7 }
  exact ⟨_, rfl, hm.me.trans (by rw [hu.me]), hm.quiet.parkedAt hp, hu.view.trans hm.quiet.view,
    hm.cur.trans hu.cur⟩

end Sys2Proof.Machine
end

section
/-! SUPPORT. The causes of an access, clause by clause. -/

namespace Sys2Proof.Machine

/-- The five causes that come before the granules, in their order. -/
theorem judge_early (s : State) (lc : Nat) (x : Ctx) (va n : Nat) (write vec : Bool) :
    (va % n ≠ 0 → judge s lc x va n write vec = .trap causeMisaligned va []) ∧
    (va % n = 0 → inWindow va = true → (coreOf s lc).ways * 32768 < va - windowBase + n →
      judge s lc x va n write vec = .trap causeProtect va []) ∧
    (∀ a, va % n = 0 → inWindow va = false → watched x (if write then watchStore else watchLoad) va n = some a →
      judge s lc x va n write vec = .trap causeWatch a []) ∧
    (va % n = 0 → inWindow va = false → watched x (if write then watchStore else watchLoad) va n = none →
      canonicalVa va = false → judge s lc x va n write vec = .trap causeProtect va []) ∧
    (∀ p, Reaches s lc x va n write p →
      (write = true ∧ (p.w = false ∨ p.attr = attrFrozen)) ∨
        ((vec = true ∨ (mappingOf (coreOf s lc) va).isSome = true) ∧ p.aliased = true) →
      judge s lc x va n write vec = .trap causeProtect va []) :=
  ⟨judge_unaligned, judge_past_ways, fun _ => judge_watched, judge_noncanonical, fun p h hp =>
    judge_refused h (pageChecks_page (by simpa using hp))⟩

section granule
variable {s : State} {lc : Nat} {x : Ctx} {va n : Nat} {p : Page} (hn : n ∈ [1, 2, 4, 8])
  (hm : mappingOf (coreOf s lc) va = none ∨ p.aliased = false)
include hn hm

/-- Past the page's entry, the granule of an access of up to eight bytes decides. -/
theorem judge_granule {write : Bool} {v : Verdict} (h : Reaches s lc x va n write p)
    (hw : write = true → p.w = true ∧ p.attr ≠ attrFrozen)
    (hv : (if write = true ∧ readOnlyGranule s p (va / 8 * 8) = true then some (.trap causeProtect va [])
      else (ownerRule s (taskNum lc) p write (va / 8 * 8)).or
        (if write = false ∧ isPoison s (frameOf p (va / 8 * 8)) = true then some (.trap causePoison va []) else none)) =
      some v) : judge s lc x va n write false = v := by
  refine judge_refused h ((pageChecks_granule hn h.1 ?_).trans hv)
  cases write <;> cases ha : p.aliased <;> simp_all

theorem judge_readOnly (h : Reaches s lc x va n true p) (hw : p.w = true) (hf : p.attr ≠ attrFrozen)
    (hr : readOnlyGranule s p (va / 8 * 8) = true) : judge s lc x va n true false = .trap causeProtect va [] :=
  judge_granule hn hm h (fun _ => ⟨hw, hf⟩) (if_pos ⟨rfl, hr⟩)

theorem judge_foreign {write : Bool} {v : Verdict} (h : Reaches s lc x va n write p)
    (hw : write = true → p.w = true ∧ p.attr ≠ attrFrozen) (hr : write = true → readOnlyGranule s p (va / 8 * 8) = false)
    (ho : ownerRule s (taskNum lc) p write (va / 8 * 8) = some v) : judge s lc x va n write false = v := by
  refine judge_granule hn hm h hw ?_
  rw [if_neg (fun k => by simp [hr k.1] at k), ho, Option.some_or]

theorem judge_poison (h : Reaches s lc x va n false p) (ho : ownerRule s (taskNum lc) p false (va / 8 * 8) = none)
    (hp : isPoison s (frameOf p (va / 8 * 8)) = true) : judge s lc x va n false false = .trap causePoison va [] := by
  refine judge_granule hn hm h (fun k => absurd k (by simp)) ?_
  rw [if_neg (by simp), ho, Option.none_or, if_pos ⟨rfl, hp⟩]

end granule

/-- An object that another task holds PRIVATE or publishes is not FROZEN. -/
theorem foreign_not_frozen {o : Obj} (h : o.state = objPrivate ∨ o.state = objPublishing) : o.state ≠ objFrozen := by
  rcases h with h | h <;> rw [h] <;> decide

section fails
variable {s : State}

theorem load_fails {i : Instr} {r : LoadRow} (hr : loadRow i = some r) (hi : Issues r.names s)
    (hu : Untranslated s (r.va s) r.n false) : Fails s (r.va s) (exec i s) := by
  rw [exec_loadRow_scalar hr hi fun _ => viaWindow_none hu.window _ _, loadScalar]
  exact checkAccess_fails hu _

theorem store_fails {i : Instr} {r : StoreRow} (hr : storeRow i = some r) (hi : Issues r.names s)
    (hu : Untranslated s (r.va s) r.n true) : Fails s (r.va s) (exec i s) := by
  rw [exec_storeRow_scalar hr hi fun _ => viaWindow_none hu.window _ _, storeScalar]
  exact checkAccess_fails hu _

theorem vecLoad_fails {i : Instr} {r : VecLoadRow} (hr : vecLoadRow i = some r) (hi : Issues r.names s)
    (hu : Untranslated s (r.va s) (vecBytes r.tag) false) : Fails s (r.va s) (exec i s) := by
  rw [exec_vecLoadRow hr, issue_ready hi, loadVecAny, viaWindow_none hu.window]
  exact checkAccess_fails hu _

theorem vecStore_fails {x a : F6} {b : Opnd} (hi : Issues (vmemNames x a b) s) (hb : ∀ f, b ≠ .v f)
    (hu : Untranslated s (eaV s a b) (vecBytes (vtagOf (me s) x.toNat)) true) :
    Fails s (eaV s a b) (exec (.vst x a b) s) := by
  rw [exec_vst_one hi hb]
  simp only [storeVecAny, viaWindow_none hu.window, storeVector]
  exact checkAccess_fails hu _

theorem fetchState_unfenced {lc c : Nat} (h : (ctxOf s lc c).fence = false) : fetchState s lc c = s := by
  rw [fetchState, h]
  rfl

theorem runWord_parks {lc c va : Nat} {e : Word} (h : fetchWord s lc (ctxOf s lc c).pc.toNat = .parks va e) :
    runWord lc c s = fetchFails s lc c va e := by
  rw [runWord, h]

theorem turn_fetchFails {lc c va : Nat} {e : Word} (hr : runnable s lc c = true)
    (hd : deliverable (ctxOf s lc c) = false) (hf : (ctxOf s lc c).fence = false)
    (hw : fetchWord { s with cur := (lc, c) } lc (ctxOf s lc c).pc.toNat = .parks va e) :
    turnContext lc c s = fetchFails { s with cur := (lc, c) } lc c va e := by
  rw [turnContext_fetches hr hd (.inl hf), fetchState_unfenced (s := { s with cur := (lc, c) }) hf]
  exact runWord_parks (s := { s with cur := (lc, c) }) hw

end fails

/-- Settles O38: the checks of `judge` one by one, then what `refuse` does with a trap and with a failed translation. -/
theorem accessChecksTrap : Obligations.AccessChecksTrap := by
  refine ⟨judge_early, ?_, ?_, ?_, fun _ _ _ => poisonMet_rolling, fun _ _ _ _ => leaseEnds_iff,
    fun _ _ _ => load_fails, fun _ _ _ => store_fails, fun _ _ _ => vecLoad_fails, fun _ _ _ _ => vecStore_fails, ?_⟩
  · intro s lc x va n p hn hm g tag frozen foreign
    refine ⟨fun h hw hf hr => judge_readOnly hn hm h hw hf ((readOnlyGranule_iff g).mpr hr),
      fun o h hw hf h1 h2 ⟨ha, ho, hs, hx⟩ => ?_, fun o h ⟨ha, ho, hs, hx⟩ => ?_, fun h hp hx => ?_⟩
    · refine judge_foreign hn hm h (fun _ => ⟨hw, hf⟩) (fun _ => ?_) (ownerRule_foreign ha ho hs hx)
      rw [Bool.eq_false_iff, Ne, readOnlyGranule_iff]
      rintro (k | k | ⟨o', -, ho', hz⟩)
      · exact h1 k
      · exact h2 k
      · rw [ho] at ho'
        exact foreign_not_frozen hs (Option.some.inj ho' ▸ hz)
    · exact judge_foreign hn hm h (fun k => absurd k (by simp)) (fun k => absurd k (by simp))
        (ownerRule_foreign ha ho hs hx)
    · refine judge_poison hn hm h (ownerRule_load hx) ?_
      simpa [isPoison, tag, g] using hp
  · intro i r s cause a l hr hi hb hw hj
    rw [exec_loadRow_scalar hr hi fun hn => hn ▸ hw, loadScalar, checkAccess_refused hb hj rfl]
    exact refuse_trap s (r.va s) cause a l
  · intro i r s cause a l hr hi hb hw hj hp
    rw [exec_storeRow_scalar hr hi fun hn => hn ▸ hw, storeScalar, checkAccess_refused hb hj rfl]
    obtain ⟨t, ht, he⟩ := refuse_trap s (r.va s) cause a l
    exact ⟨t, by rw [he, if_neg hp], ht⟩
  · intro s lc c va e hr hd hf hw
    rw [turn_fetchFails hr hd hf hw]
    obtain ⟨t, ht, hme, hp, hv, hc⟩ := fetchFails_parks { s with cur := (lc, c) } va e
    refine ⟨t, ht, ?_, hp, ((view_cur s (lc, c)).trans hv).memory⟩
    rw [me, hc] at hme
    exact hme

end Sys2Proof.Machine
end

section
/-! SUPPORT. Lines that a core gives up, and the ways, mappings and pages that RESIZE, SMAP and SUNMAP concern (R165, R168
to R171). -/

namespace Sys2Proof.Machine

/-! ### A line leaves the first-level cache (R165) -/

theorem toL2_eq (s : State) (k : Nat) (l : Line) (m : BitVec 128) : ∃ x, toL2 s k l m = { s with l2 := x } := by
  unfold toL2
  dsimp only
  split
  · exact ⟨s.l2, rfl⟩
  · exact ⟨_, rfl⟩

/-- A key that reads as nothing is not listed. -/
theorem erase_of_look_none {α : Type} {m : Sparse α} {a : Nat} (h : look m a = none) : erase m a = m := by
  induction m with
  | nil => rfl
  | cons e m ih =>
    obtain ⟨k, v⟩ := e
    rw [look] at h
    split at h
    · exact absurd h (by simp)
    · next hk =>
      have hm := ih h
      rw [erase] at hm ⊢
      rw [List.filter_cons_of_pos (by simp [hk]), hm]

/-- A line that leaves changes the second-level cache and its own core. -/
theorem evictL1_some {s : State} {lc key : Nat} {l : Line} (h : look (coreOf s lc).l1 key = some l) :
    ∃ x, evictL1 s lc key = modCore { s with l2 := x } lc (fun c => { c with l1 := erase c.l1 key }) := by
  unfold evictL1
  rw [h]
  dsimp only
  obtain ⟨x, hx⟩ := toL2_eq s (l2Key (coreDie s lc) key) l (~~~(granBytes l.priv ||| onTheWay s lc key))
  obtain ⟨y, hy⟩ := toL2_eq { s with l2 := x } (l2Own (coreDie s lc) lc key) l (granBytes l.priv ||| onTheWay s lc key)
  exact ⟨y, by rw [hx, hy]⟩

theorem evictL1_none {s : State} {lc key : Nat} (h : look (coreOf s lc).l1 key = none) : evictL1 s lc key = s := by
  unfold evictL1
  rw [h]

theorem evictL1_coreOf (s : State) (lc key k : Nat) : coreOf (evictL1 s lc key) k =
    if k = lc then { coreOf s lc with l1 := erase (coreOf s lc).l1 key } else coreOf s k := by
  cases h : look (coreOf s lc).l1 key with
  | some l =>
    obtain ⟨x, hx⟩ := evictL1_some h
    rw [hx, coreOf_modCore]
    rfl
  | none =>
    rw [evictL1_none h, erase_of_look_none h]
    split
    · next hk => rw [hk]
    · rfl

@[simp] theorem evictL1_cur (s : State) (lc key : Nat) : (evictL1 s lc key).cur = s.cur := by
  cases h : look (coreOf s lc).l1 key with
  | some l =>
    obtain ⟨x, hx⟩ := evictL1_some h
    rw [hx]
    rfl
  | none => rw [evictL1_none h]

/-- Any part of a core but its first-level cache is as it was. -/
theorem evictL1_part {β : Type} (f : LCore → β) (hf : ∀ c l, f { c with l1 := l } = f c) (s : State) (lc key k : Nat) :
    f (coreOf (evictL1 s lc key) k) = f (coreOf s k) := by
  rw [evictL1_coreOf]
  split
  · next h => rw [hf, h]
  · rfl

/-- What the heat of pages is, an eviction does not look at. -/
theorem evictL1_heat (s : State) (g : Sparse Nat) (h : Sparse Nat) (lc key : Nat) :
    evictL1 { s with gens := g, heat := h } lc key = { evictL1 s lc key with gens := g, heat := h } := by
  have hl : ∀ (u : State) k l m, toL2 { u with gens := g, heat := h } k l m = { toL2 u k l m with gens := g, heat := h } :=
    fun u k l m => by
      unfold toL2
      dsimp only
      split <;> rfl
  unfold evictL1
  rw [show look (coreOf { s with gens := g, heat := h } lc).l1 key = look (coreOf s lc).l1 key from rfl]
  split
  · dsimp only
    rw [hl, hl]
    rfl
  · rfl

/-! ### The first-level cache gives up ways (R11, R169) -/

/-- One victim of a trim. -/
def trimOne (lc : Nat) (t : State) : State :=
  evictL1 (takeFree t).2 lc ((keys (coreOf t lc).l1).getD ((takeFree t).1.toNat % (keys (coreOf t lc).l1).length) 0)

theorem trimL1_eq (s : State) (lc cap : Nat) :
    trimL1 s lc cap = (List.range ((coreOf s lc).l1.length - cap)).foldl (fun t _ => trimOne lc t) s := rfl

theorem erase_length_lt {α : Type} {m : Sparse α} {a : Nat} (h : a ∈ keys m) : (erase m a).length < m.length := by
  obtain ⟨e, he, rfl⟩ := List.mem_map.mp h
  exact List.length_filter_lt_length_iff_exists.mpr ⟨e, he, by simp⟩

/-- A victim makes the cache smaller, unless it is empty. -/
theorem trimOne_length (lc : Nat) (t : State) :
    (coreOf (trimOne lc t) lc).l1.length ≤ (coreOf t lc).l1.length - 1 := by
  unfold trimOne
  rw [evictL1_coreOf, if_pos rfl]
  change (erase (coreOf t lc).l1 _).length ≤ _
  generalize (coreOf t lc).l1 = m
  by_cases hm : keys m = []
  · have h0 : m = [] := List.map_eq_nil_iff.mp hm
    rw [h0]
    rfl
  · have hlt : (takeFree t).1.toNat % (keys m).length < (keys m).length :=
      Nat.mod_lt _ (List.length_pos_iff.mpr hm)
    have hk : (keys m).getD ((takeFree t).1.toNat % (keys m).length) 0 ∈ keys m := by
      rw [List.getD_eq_getElem _ _ hlt]
      exact List.getElem_mem hlt
    have := erase_length_lt hk
    omega

theorem foldl_trimOne_length (lc n : Nat) (s : State) :
    (coreOf ((List.range n).foldl (fun t _ => trimOne lc t) s) lc).l1.length ≤ (coreOf s lc).l1.length - n := by
  induction n with
  | zero => exact le_rfl
  | succ n ih =>
    rw [List.range_succ, List.foldl_append, List.foldl_cons, List.foldl_nil]
    have := trimOne_length lc ((List.range n).foldl (fun t _ => trimOne lc t) s)
    omega

theorem trimL1_length (s : State) (lc cap : Nat) : (coreOf (trimL1 s lc cap) lc).l1.length ≤ cap := by
  have := foldl_trimOne_length lc ((coreOf s lc).l1.length - cap) s
  rw [trimL1_eq]
  omega

theorem trimL1_within {s : State} {lc cap : Nat} (h : (coreOf s lc).l1.length ≤ cap) : trimL1 s lc cap = s := by
  rw [trimL1_eq, Nat.sub_eq_zero_of_le h]
  rfl

theorem trimL1_part {β : Type} (f : LCore → β) (hf : ∀ c l, f { c with l1 := l } = f c) (s : State) (lc cap k : Nat) :
    f (coreOf (trimL1 s lc cap) k) = f (coreOf s k) :=
  foldl_keeps (fun t => f (coreOf t k)) (fun t _ => evictL1_part f hf (takeFree t).2 lc _ k) _ s

theorem trimL1_cur (s : State) (lc cap : Nat) : (trimL1 s lc cap).cur = s.cur :=
  foldl_keeps State.cur (fun t _ => evictL1_cur (takeFree t).2 lc _) _ s

/-! ### The lines of a range leave (R170) -/

theorem dropRange_heat (s : State) (g : Sparse Nat) (h : Sparse Nat) (lc va n : Nat) :
    dropRange { s with gens := g, heat := h } lc va n = { dropRange s lc va n with gens := g, heat := h } := by
  have hf : ∀ (ks : List Nat) (u : State), ks.foldl (fun t k => evictL1 t lc k) { u with gens := g, heat := h } =
      { ks.foldl (fun t k => evictL1 t lc k) u with gens := g, heat := h } := fun ks => by
    induction ks with
    | nil => exact fun _ => rfl
    | cons k ks ih =>
      intro u
      rw [List.foldl_cons, List.foldl_cons, evictL1_heat, ih]
  exact hf _ s

theorem dropRange_part {β : Type} (f : LCore → β) (hf : ∀ c l, f { c with l1 := l } = f c) (s : State) (lc va n k : Nat) :
    f (coreOf (dropRange s lc va n) k) = f (coreOf s k) :=
  foldl_keeps (fun t => f (coreOf t k)) (fun t a => evictL1_part f hf t lc a k) _ s

theorem dropRange_cur (s : State) (lc va n : Nat) : (dropRange s lc va n).cur = s.cur :=
  foldl_keeps State.cur (fun t a => evictL1_cur t lc a) _ s

theorem look_foldl_evict (lc : Nat) (ks : List Nat) (s : State) (key : Nat) :
    look (coreOf (ks.foldl (fun t k => evictL1 t lc k) s) lc).l1 key =
      if key ∈ ks then none else look (coreOf s lc).l1 key := by
  induction ks generalizing s with
  | nil => simp
  | cons k ks ih =>
    rw [List.foldl_cons, ih, evictL1_coreOf, if_pos rfl]
    by_cases hk : key = k
    · subst hk
      simp [look_erase_same]
    · simp [look_erase_other _ hk, hk]

/-- The lines of the range are gone, the others stay. -/
theorem look_dropRange (s : State) (lc va n key : Nat) : look (coreOf (dropRange s lc va n) lc).l1 key =
    if lineKey (asidOf s lc) va ≤ key ∧ key < lineKey (asidOf s lc) va + n / 128 then none
    else look (coreOf s lc).l1 key := by
  rw [dropRange, look_foldl_evict]
  by_cases hr : lineKey (asidOf s lc) va ≤ key ∧ key < lineKey (asidOf s lc) va + n / 128
  · rw [if_pos hr]
    split
    · rfl
    · next hk =>
      refine look_eq_none fun hm => hk ?_
      simp only [List.mem_filter, Bool.and_eq_true, decide_eq_true_eq]
      exact ⟨hm, hr⟩
  · rw [if_neg hr, if_neg]
    simp only [List.mem_filter, Bool.and_eq_true, decide_eq_true_eq]
    exact fun h => hr h.2

end Sys2Proof.Machine
end

section
/-! SUPPORT. RESIZE, SMAP and SUNMAP (R169 to R171). -/

namespace Sys2Proof.Machine

/-! ### What is left after RESIZE (R169) -/

theorem getD_filter_keys {α : Type} (d : α) (m : Sparse α) (p : Nat → Bool) (a : Nat) :
    getD d (m.filter (fun e => p e.1)) a = if p a then getD d m a else d := by
  have h : look (m.filter (fun e => p e.1)) a = if p a then look m a else none := by
    induction m with
    | nil => simp [look]
    | cons e m ih =>
      obtain ⟨k, v⟩ := e
      by_cases hk : k = a
      · subst hk
        cases hp : p k with
        | true => simp [hp, look]
        | false => simpa [hp] using ih
      · cases hp : p k with
        | true => simpa [hp, look, hk] using ih
        | false => simpa [hp, look, hk] using ih
  rw [getD, h]
  cases p a <;> rfl

theorem stashByte_resized (c : LCore) (n o : Nat) : stashByte (resized c n) o =
    if o < min n c.ways * 32768 then stashByte c o else 0#8 := by
  refine (getD_filter_keys 0#8 c.stash (fun k => decide (k < min n c.ways * wayBytes)) o).trans ?_
  simp only [decide_eq_true_eq]
  rfl

theorem meetsWays_iff (o n lo hi : Nat) : meetsWays o n lo hi = true ↔ n ≠ 0 ∧ o < hi * 32768 ∧ lo * 32768 < o + n := by
  simp only [meetsWays, Bool.and_eq_true, decide_eq_true_eq, and_assoc]
  rfl

/-- Bytes that meet none of the ways lie below or above them. -/
theorem clear_of_ways {o n lo hi : Nat} (h : meetsWays o n lo hi = false) (hn : n ≠ 0) :
    o + n ≤ lo * 32768 ∨ hi * 32768 ≤ o := by
  have := mt (meetsWays_iff o n lo hi).mpr (by simp [h])
  omega

theorem resized_maps (c : LCore) (n : Nat) (m : Mapping) (h : m ∈ (resized c n).maps) (hl : m.len ≠ 0) :
    m.off + m.len ≤ n * 32768 ∨ c.ways * 32768 ≤ m.off := by
  have hm := (List.mem_filter.mp h).2
  exact clear_of_ways (by simpa using hm) hl

theorem resized_tiles (c : LCore) (n : Nat) (e : Nat × Tile) (h : e ∈ (resized c n).tiles) (hl : e.2.size ≠ 0) :
    e.2.base * 64 + e.2.size ≤ n * 32768 ∨ c.ways * 32768 ≤ e.2.base * 64 := by
  have hm := (List.mem_filter.mp h).2
  exact clear_of_ways (by simpa [tileInWays, tileStart] using hm) hl

/-! ### RESIZE under way -/

/-- An instruction that waits after a change that leaves its context alone waits as from the state before it. -/
theorem OwnChange.waits {s u t : State} (h : OwnChange s u (Machine.me s)) {code : Nat} {st : Stage}
    (k : Waits u t code st) : Waits s t code st where
  cur := k.cur.trans h.cur
  context := k.context.trans (congrArg₂ (waitingCtx · code st ·) h.me (h.quiet.get State.ticks))
  words := k.words.trans h.words
  queues := fun lc => (k.queues lc).trans (h.queues lc)
  kept := (h.quiet.kept h.others).trans k.kept h.cur

theorem modMe_part {β : Type} (f : LCore → β) (hf : ∀ c l, f { c with ctxs := l } = f c) (s : State) (g : Ctx → Ctx)
    (lc : Nat) : f (coreOf (modMe s g) lc) = f (coreOf s lc) := by
  rw [modMe, setMe, setCtx, coreOf_setCore]
  split
  · next h => rw [hf, h]
  · rfl

theorem noteIssue_part {β : Type} (f : LCore → β) (hf : ∀ c l, f { c with ctxs := l } = f c) (s : State) (lc : Nat) :
    f (coreOf (noteIssue s) lc) = f (coreOf s lc) := by
  unfold noteIssue
  split
  · rfl
  · exact (congrArg f ((countAll_counted _ _ _).coreOf lc)).trans (modMe_part f hf s _ lc)

/-- A wait changes the contexts of the cores alone, and sends nothing. -/
theorem waitStage_waiting (s : State) (code : Nat) (st : Stage) : ∃ t, waitStage s code st = .next t ∧ Waits s t code st ∧
    t.writes = s.writes ∧ (myCore t).resizing = (myCore s).resizing := by
  obtain ⟨t, ht, hw⟩ := waitStage_waits s code st
  have hq := (noteIssue_own s).quiet.trans (quiet_modMe _ fun x => { x with wait := code, stage := st })
  have hr := (modMe_part LCore.resizing (fun _ _ => rfl) (noteIssue s) (fun x => { x with wait := code, stage := st })
    s.cur.1).trans (noteIssue_part LCore.resizing (fun _ _ => rfl) s s.cur.1)
  cases Host.Outcome.next.inj ht
  exact ⟨_, rfl, hw, hq.get State.writes, by rw [myCore, hw.cur]; exact hr⟩

/-- RESIZE under way: the core notes the ways alone. -/
theorem startResize_own (s : State) (lo hi : Nat) : OwnChange s (startResize s lo hi) (me s) := by
  have hx := sameCtxs_modCore s s.cur.1 (fun c => { c with resizing := some (s.cur.2, lo, hi) }) fun _ => rfl
  refine ⟨quiet_modCore _ _ _ fun _ => rfl, hx.me rfl, fun lc c _ => hx lc c, rfl, fun lc => ?_⟩
  rw [startResize, coreOf_modCore]
  split
  · next h => rw [h]
  · rfl

theorem myCore_startResize (s : State) (lo hi : Nat) :
    (myCore (startResize s lo hi)).resizing = some (s.cur.2, lo, hi) := by
  have h : myCore (startResize s lo hi) = { myCore s with resizing := some (s.cur.2, lo, hi) } := coreOf_modCore_same _ _ _
  rw [h]

/-! ### SMAP's conditions (R170) -/

theorem stashDenies_iff (c : LCore) (vo n : Nat) : stashDenies c vo n = true ↔ ¬ StashFree c vo n := by
  have h : stashDenies c vo n = true ↔ (inWindow vo = false ∨ c.ways * 32768 < vo - windowBase + n ∨
      (∃ m ∈ c.maps, Meet m.off m.len (vo - windowBase) n) ∨ (∃ e ∈ c.tiles, TileMeets e.2 (vo - windowBase) n) ∨
      16 ≤ c.maps.length) := by
    unfold stashDenies
    simp only [Bool.or_eq_true, Bool.not_eq_true', decide_eq_true_eq, List.any_eq_true, overlaps_iff, meetsTile_iff,
      or_assoc]
    rfl
  rw [h, StashFree, not_and_or, not_and_or, not_and_or, not_and_or, not_le, not_lt, Bool.not_eq_true]
  push Not
  exact or_congr_right (or_congr_right (by rw [← or_assoc, or_comm]))

theorem globalDenies_iff (c : LCore) (va n : Nat) : globalDenies c va n = true ↔ ¬ GlobalFree c va n := by
  unfold globalDenies GlobalFree
  simp only [Bool.or_eq_true, decide_eq_true_eq, List.any_eq_true, overlaps_iff]
  rw [not_and_or, not_le]
  push Not
  rfl

theorem mappable_maps {s : State} {x : Nat} (h : PageMaps s x) : mappable s x = .fine := by
  obtain ⟨hc, hd, p, hp, ha, ho⟩ := h
  simp [mappable, hc, hd, hp, ha, ho]

theorem mappable_denies {s : State} {x : Nat} (h : PageDenies s x) : mappable s x = .denied := by
  unfold mappable
  by_cases hd : (!canonicalVa x || (debugWindow s s.cur.1 x).isSome) = true
  · rw [if_pos hd]
  · rw [if_neg hd]
    rcases h with h | h | ⟨p, hp, h⟩
    · simp [h] at hd
    · simp [Option.isSome_iff_ne_none.mpr h] at hd
    · rw [hp]
      refine if_pos ?_
      rw [Bool.or_eq_true, beq_iff_eq]
      exact h

/-- The first page that is not fine decides. -/
theorem firstBad_denied {s : State} {va n x : Nat} {before after : List Nat} (hl : pagesOf va n = before ++ x :: after)
    (hb : ∀ y ∈ before, PageMaps s y) (hx : PageDenies s x) : firstBad s va n = some (x, .denied) := by
  rw [firstBad, hl, List.findSome?_append, List.findSome?_eq_none_iff.mpr fun y hy => if_pos (mappable_maps (hb y hy)),
    Option.none_or, List.findSome?_cons, mappable_denies hx]
  rfl

theorem firstBad_none {s : State} {va n : Nat} (h : ∀ x ∈ pagesOf va n, PageMaps s x) : firstBad s va n = none :=
  List.findSome?_eq_none_iff.mpr fun x hx => if_pos (mappable_maps (h x hx))

/-- Every byte of a range lies on one of its pages. -/
theorem pagesOf_covers {va n x : Nat} (h1 : va ≤ x) (h2 : x < va + n) : ∃ y ∈ pagesOf va n, y / 65536 = x / 65536 := by
  refine ⟨_, List.mem_map.mpr ⟨x / 65536 - va / 65536, List.mem_range.mpr (by omega), rfl⟩, ?_⟩
  omega

/-! ### What the mapping adds -/

theorem heatPages_eq (s : State) (a n : Nat) : ∃ g h, heatPages s a n = { s with gens := g, heat := h } := by
  have hf : ∀ (ps : List Nat) (u : State), ∃ g h, ps.foldl (fun t x => heatLookup t (asidOf t t.cur.1) x) u =
      { u with gens := g, heat := h } := fun ps => by
    induction ps with
    | nil => exact fun u => ⟨u.gens, u.heat, rfl⟩
    | cons p ps ih =>
      intro u
      obtain ⟨g, h, e⟩ := heatLookup_eq u (asidOf u u.cur.1) p
      obtain ⟨g', h', e'⟩ := ih { u with gens := g, heat := h }
      exact ⟨g', h', by rw [List.foldl_cons, e, e']⟩
  exact hf _ s

/-- A mapping added after its pages were walked is one added before, but for their heat. -/
theorem unseen_withMap (s : State) (m : Mapping) : Unseen (withMap s m)
    (modCore (dropRange (heatPages s m.addr m.len) s.cur.1 m.addr m.len) s.cur.1 (fun c => { c with maps := c.maps ++ [m] })) := by
  obtain ⟨g, h, e⟩ := heatPages_eq s m.addr m.len
  rw [e, dropRange_heat, withMap]
  generalize dropRange s s.cur.1 m.addr m.len = d
  rfl

theorem dropRange_me (s : State) (va n : Nat) : me (dropRange s s.cur.1 va n) = me s := by
  rw [me, dropRange_cur, ctxOf, dropRange_part LCore.ctxs fun _ _ => rfl]
  rfl

theorem withMap_me (s : State) (m : Mapping) : me (withMap s m) = me s :=
  (modCore_me (dropRange s s.cur.1 m.addr m.len) s.cur.1 (fun c => { c with maps := c.maps ++ [m] }) fun _ => rfl).trans
    (dropRange_me s m.addr m.len)

theorem withMap_maps (s : State) (m : Mapping) : (coreOf (withMap s m) s.cur.1).maps = (myCore s).maps ++ [m] := by
  rw [withMap, coreOf_modCore_same]
  exact congrArg (· ++ [m]) (dropRange_part LCore.maps (fun _ _ => rfl) s s.cur.1 m.addr m.len s.cur.1)

end Sys2Proof.Machine
end

section
/-! SUPPORT. RESIZE, SMAP and SUNMAP, branch by branch. -/

namespace Sys2Proof.Machine

/-- Writes are sent. -/
def sending (s : State) (ws : List WriteReq) : State := { s with writes := s.writes ++ ws }

theorem unseen_sending (s : State) (ws : List WriteReq) : Unseen s (sending s ws) := rfl

/-! ### RESIZE (R169) -/

/-- The state from which RESIZE completes. -/
def afterResize (s : State) (n : Nat) : State :=
  modCore (trimL1 s s.cur.1 (waysLines n)) s.cur.1 (fun c => resized c n)

theorem afterResize_me (s : State) (n : Nat) : me (afterResize s n) = me s := by
  have h : me (trimL1 s s.cur.1 (waysLines n)) = me s := by
    rw [me, trimL1_cur, ctxOf, trimL1_part LCore.ctxs fun _ _ => rfl]
    rfl
  exact (modCore_me (trimL1 s s.cur.1 (waysLines n)) s.cur.1 (fun c => resized c n) fun _ => rfl).trans h

theorem afterResize_maps (s : State) (n : Nat) : (coreOf (afterResize s n) s.cur.1).maps =
    (myCore s).maps.filter (fun m => !meetsWays m.off m.len n (myCore s).ways) := by
  rw [afterResize, coreOf_modCore_same]
  exact trimL1_part (fun c => c.maps.filter (fun m => !meetsWays m.off m.len n c.ways)) (fun _ _ => rfl) s s.cur.1 _ s.cur.1

/-- A completion changes its context, queues and words alone. -/
theorem finishTo_quiet (n : Names) (s : State) (w pc : Word) : ∃ t, finishTo n s w pc = .next t ∧ Quiet s t := by
  have h := consumePorts_quiet s n.srcs
  refine ⟨_, rfl, ?_⟩
  cases n.dst with
  | none => exact h.trans (advance_own _ pc).quiet
  | some d => exact (h.trans (writeDest_quiet _ d w)).trans (advance_own _ pc).quiet

/-- A completion leaves the mappings of the core as they are. -/
theorem finish_maps (n : Names) (len : Nat) {s u : State} (hc : u.cur = s.cur) (h : me u = me s) (w : Word) :
    ∃ t, finish n len u w = .next t ∧ (myCore t).maps = (coreOf u s.cur.1).maps ∧
      Wrote n u t w ((me s).pc + word len) := by
  obtain ⟨t, ht, hw⟩ := finish_after n len h w
  obtain ⟨t', ht', hq⟩ := finishTo_quiet n u w (pcAfter u len)
  cases Host.Outcome.next.inj (ht.symm.trans ht')
  refine ⟨t, ht, ?_, hw⟩
  rw [myCore, show t.cur = u.cur from hq.get State.cur, hc]
  exact hq.part LCore.maps (fun _ => rfl) s.cur.1

section resize
variable {d : F6} {a : Opnd} {s : State} {n w : Nat} (hi : Issues ⟨[a], some d.toNat, [], []⟩ s)
  (ho : otherResize s = false) (hn : min (valB s a).toNat (mostWays s) = n) (hw : (myCore s).ways = w)
include hi ho hn hw

theorem exec_resize_waits (h : (resizeBusy s s.cur.1 (min n w) (max n w) (decide (n < w)) || writesOut s s.cur.1 s.cur.2) = true) :
    exec (.resize d a) s = waitStage (startResize s (min n w) (max n w)) 0 .sent := by
  rw [show exec (.resize d a) s = execResize d a s from rfl, execResize, issue_ready hi]
  simp only [ho, hn, hw, h, Bool.false_eq_true, if_false, if_true]

theorem exec_resize_writes
    (h : (resizeBusy s s.cur.1 (min n w) (max n w) (decide (n < w)) || writesOut s s.cur.1 s.cur.2) = false)
    (hws : (mapsInWays (myCore s) n w).flatMap (unmapWrites s s.cur.1 s.cur.2) ≠ []) :
    exec (.resize d a) s = waitStage (startResize (sending s
      ((mapsInWays (myCore s) n w).flatMap (unmapWrites s s.cur.1 s.cur.2))) (min n w) (max n w)) 0 .sent := by
  rw [show exec (.resize d a) s = execResize d a s from rfl, execResize, issue_ready hi]
  simp only [ho, hn, hw, h, List.isEmpty_iff, hws, Bool.false_eq_true, if_false]
  rfl

theorem exec_resize_done
    (h : (resizeBusy s s.cur.1 (min n w) (max n w) (decide (n < w)) || writesOut s s.cur.1 s.cur.2) = false)
    (hws : (mapsInWays (myCore s) n w).flatMap (unmapWrites s s.cur.1 s.cur.2) = []) :
    exec (.resize d a) s = finish ⟨[a], some d.toNat, [], []⟩ long (afterResize s n) (word n) := by
  rw [show exec (.resize d a) s = execResize d a s from rfl, execResize, issue_ready hi]
  simp only [ho, hn, hw, h, List.isEmpty_iff, hws, Bool.false_eq_true, if_false, if_true]
  rfl

end resize

/-- What RESIZE does, whether it completes, sends writes or waits. -/
theorem resize_clause (d : F6) (a : Opnd) (s : State) (hi : Issues ⟨[a], some d.toNat, [], []⟩ s)
    (ho : otherResize s = false) :
    let n := min (valB s a).toNat (if foldable s s.cur.1 then 7 else 14)
    let w := (myCore s).ways
    let busy := resizeBusy s s.cur.1 (min n w) (max n w) (decide (n < w)) || writesOut s s.cur.1 s.cur.2
    (busy = false → (∀ m ∈ mapsInWays (myCore s) n w, unmapWrites s s.cur.1 s.cur.2 m = []) →
      ∃ t, exec (.resize d a) s = .next t ∧ (myCore t).maps = (myCore s).maps.filter (fun m => !meetsWays m.off m.len n w) ∧
        Wrote ⟨[a], some d.toNat, [], []⟩
          (modCore (trimL1 s s.cur.1 ((16 - n) * 256)) s.cur.1 (fun c => resized c n)) t (BitVec.ofNat 64 n)
          ((me s).pc + 4#64)) ∧
    (busy = false → (∃ m ∈ mapsInWays (myCore s) n w, unmapWrites s s.cur.1 s.cur.2 m ≠ []) →
      ∃ t, exec (.resize d a) s = .next t ∧ Waits s t 0 .sent ∧
        (myCore t).resizing = some (s.cur.2, min n w, max n w) ∧
        t.writes = s.writes ++ (mapsInWays (myCore s) n w).flatMap (unmapWrites s s.cur.1 s.cur.2)) ∧
    (busy = true → ∃ t, exec (.resize d a) s = .next t ∧ Waits s t 0 .sent ∧ t.writes = s.writes ∧
      (myCore t).resizing = some (s.cur.2, min n w, max n w)) := by
  intro n w busy
  have hn : min (valB s a).toNat (mostWays s) = n := rfl
  have hw : (myCore s).ways = w := rfl
  refine ⟨fun hb he => ?_, fun hb ⟨m, hm, hne⟩ => ?_, fun hb => ?_⟩
  · rw [exec_resize_done hi ho hn hw hb (List.flatMap_eq_nil_iff.mpr he)]
    obtain ⟨t, ht, hm, hx⟩ := finish_maps (u := afterResize s n) ⟨[a], some d.toNat, [], []⟩ long
      (trimL1_cur s s.cur.1 (waysLines n)) (afterResize_me s n) (word n)
    exact ⟨t, ht, hm.trans (afterResize_maps s n), hx⟩
  · rw [exec_resize_writes hi ho hn hw hb fun he => hne (List.flatMap_eq_nil_iff.mp he m hm)]
    generalize (mapsInWays (myCore s) n w).flatMap (unmapWrites s s.cur.1 s.cur.2) = ws
    obtain ⟨t, ht, hx, hs, hr⟩ := waitStage_waiting (startResize (sending s ws) (min n w) (max n w)) 0 .sent
    exact ⟨t, ht, (unseen_sending s ws).waits ((startResize_own _ _ _).waits hx), hr.trans (myCore_startResize _ _ _), hs⟩
  · rw [exec_resize_waits hi ho hn hw hb]
    obtain ⟨t, ht, hx, hs, hr⟩ := waitStage_waiting (startResize s (min n w) (max n w)) 0 .sent
    exact ⟨t, ht, (startResize_own _ _ _).waits hx, hs, hr.trans (myCore_startResize _ _ _)⟩

/-! ### SMAP (R170) -/

/-- SMAP ends with its mapping, from the state that has it. -/
theorem finish_withMap (s : State) (n : Names) (m : Mapping) :
    ∃ t, finish n long (modCore (dropRange (heatPages s m.addr m.len) s.cur.1 m.addr m.len) s.cur.1
        (fun c => { c with maps := c.maps ++ [m] })) 0#64 = .next t ∧ (myCore t).maps = (myCore s).maps ++ [m] ∧
      Wrote n (withMap s m) t 0#64 ((me s).pc + 4#64) := by
  have hu := unseen_withMap s m
  have hc : (withMap s m).cur = s.cur := dropRange_cur s s.cur.1 m.addr m.len
  generalize modCore (dropRange (heatPages s m.addr m.len) s.cur.1 m.addr m.len) s.cur.1
    (fun c => { c with maps := c.maps ++ [m] }) = u at hu ⊢
  obtain ⟨t, ht, hm, hw⟩ := finish_maps n long (hu.cur.trans hc) (hu.me.trans (withMap_me s m)) 0#64
  exact ⟨t, ht, hm.trans (by rw [hu.coreOf, withMap_maps]), hu.wrote hw⟩

section smap
variable {o a : F6} {b : Opnd} {s : State} (hi : Issues (smapNames o a b) s)
include hi

theorem exec_smap : exec (.smap o a b) s =
    if (valS s o).toNat % 128 ≠ 0 then trapAddr s causeMisaligned (valS s o).toNat
    else if (valS s a).toNat % 128 ≠ 0 ∨ (valB s b).toNat % 128 ≠ 0 ∨ (valB s b).toNat = 0 then
      trapAddr s causeMisaligned (valS s a).toNat
    else if stashDenies (myCore s) (valS s o).toNat (valB s b).toNat then trapAddr s causeProtect (valS s o).toNat
    else if globalDenies (myCore s) (valS s a).toNat (valB s b).toNat then trapAddr s causeProtect (valS s a).toNat
    else match firstBad s (valS s a).toNat (valB s b).toNat with
      | some (x, .parks e) => parkMine s x e
      | some (x, _) => trapAddr (heatLookup s (asidOf s s.cur.1) x) causeProtect x
      | none =>
        finish (smapNames o a b) long (modCore (dropRange (heatPages s (valS s a).toNat (valB s b).toNat) s.cur.1
          (valS s a).toNat (valB s b).toNat) s.cur.1 (fun c => { c with maps := c.maps ++
            [⟨(valS s o).toNat - windowBase, (valS s a).toNat, (valB s b).toNat, [], []⟩] })) 0#64 := by
  rw [show exec (.smap o a b) s = execSmap o a b s from rfl, execSmap]
  exact issue_ready hi _

section aligned
variable (h1 : (valS s o).toNat % 128 = 0) (h2 : (valS s a).toNat % 128 = 0) (h3 : (valB s b).toNat % 128 = 0)
  (h4 : (valB s b).toNat ≠ 0)
include h1 h2 h3 h4

theorem smap_stashDenied (h : ¬ StashFree (myCore s) (valS s o).toNat (valB s b).toNat) :
    exec (.smap o a b) s = trapAddr s causeProtect (valS s o).toNat := by
  rw [exec_smap hi, if_neg (not_not_intro h1), if_neg (by simp [h2, h3, h4]), if_pos ((stashDenies_iff _ _ _).mpr h)]

variable (hf : StashFree (myCore s) (valS s o).toNat (valB s b).toNat)
include hf

theorem smap_globalDenied (h : ¬ GlobalFree (myCore s) (valS s a).toNat (valB s b).toNat) :
    exec (.smap o a b) s = trapAddr s causeProtect (valS s a).toNat := by
  rw [exec_smap hi, if_neg (not_not_intro h1), if_neg (by simp [h2, h3, h4]),
    if_neg (mt (stashDenies_iff _ _ _).mp (not_not_intro hf)), if_pos ((globalDenies_iff _ _ _).mpr h)]

variable (hg : GlobalFree (myCore s) (valS s a).toNat (valB s b).toNat)
include hg

theorem smap_pageDenied {x : Nat} (h : firstBad s (valS s a).toNat (valB s b).toNat = some (x, .denied)) :
    exec (.smap o a b) s = trapAddr (heatLookup s (asidOf s s.cur.1) x) causeProtect x := by
  rw [exec_smap hi, if_neg (not_not_intro h1), if_neg (by simp [h2, h3, h4]),
    if_neg (mt (stashDenies_iff _ _ _).mp (not_not_intro hf)),
    if_neg (mt (globalDenies_iff _ _ _).mp (not_not_intro hg)), h]

theorem smap_maps (h : firstBad s (valS s a).toNat (valB s b).toNat = none) : exec (.smap o a b) s =
    finish (smapNames o a b) long (modCore (dropRange (heatPages s (valS s a).toNat (valB s b).toNat) s.cur.1
      (valS s a).toNat (valB s b).toNat) s.cur.1 (fun c => { c with maps := c.maps ++
        [⟨(valS s o).toNat - windowBase, (valS s a).toNat, (valB s b).toNat, [], []⟩] })) 0#64 := by
  rw [exec_smap hi, if_neg (not_not_intro h1), if_neg (by simp [h2, h3, h4]),
    if_neg (mt (stashDenies_iff _ _ _).mp (not_not_intro hf)),
    if_neg (mt (globalDenies_iff _ _ _).mp (not_not_intro hg)), h]

end aligned

end smap

theorem smap_clause (o a : F6) (b : Opnd) (s : State) (hi : Issues (smapNames o a b) s) :
    let vo := (valS s o).toNat
    let va := (valS s a).toNat
    let n := (valB s b).toNat
    (vo % 128 ≠ 0 → ∃ t, exec (.smap o a b) s = .next t ∧ Trapped s t causeMisaligned 0 (word vo) []) ∧
    (vo % 128 = 0 → (va % 128 ≠ 0 ∨ n % 128 ≠ 0 ∨ n = 0) →
      ∃ t, exec (.smap o a b) s = .next t ∧ Trapped s t causeMisaligned 0 (word va) []) ∧
    (vo % 128 = 0 → va % 128 = 0 → n % 128 = 0 → n ≠ 0 →
      (¬ StashFree (myCore s) vo n → ∃ t, exec (.smap o a b) s = .next t ∧ Trapped s t causeProtect 0 (word vo) []) ∧
      (StashFree (myCore s) vo n → ¬ GlobalFree (myCore s) va n →
        ∃ t, exec (.smap o a b) s = .next t ∧ Trapped s t causeProtect 0 (word va) []) ∧
      (∀ before x after, StashFree (myCore s) vo n → GlobalFree (myCore s) va n →
        pagesOf va n = before ++ x :: after → (∀ y ∈ before, PageMaps s y) → PageDenies s x →
        ∃ t, exec (.smap o a b) s = .next t ∧ Trapped s t causeProtect 0 (word x) []) ∧
      (StashFree (myCore s) vo n → GlobalFree (myCore s) va n → (∀ x ∈ pagesOf va n, PageMaps s x) →
        ∃ t, exec (.smap o a b) s = .next t ∧ (myCore t).maps = (myCore s).maps ++ [⟨vo - windowBase, va, n, [], []⟩] ∧
          Wrote (smapNames o a b) (withMap s ⟨vo - windowBase, va, n, [], []⟩) t 0#64 ((me s).pc + 4#64))) := by
  intro vo va n
  have traps : ∀ (u : State) (cause x : Nat), cause ≠ causePoison →
      ∃ t, trapAddr u cause x = .next t ∧ Trapped u t cause 0 (word x) [] := fun u cause x => trapAt_trapped u 0 (word x) []
  refine ⟨fun h => ?_, fun h1 h => ?_, fun h1 h2 h3 h4 => ⟨fun h => ?_, fun hf h => ?_, fun before x after hf hg hl hb hx => ?_,
    fun hf hg h => ?_⟩⟩
  · rw [exec_smap hi, if_pos h]
    exact traps s _ _ (by decide)
  · rw [exec_smap hi, if_neg (not_not_intro h1), if_pos h]
    exact traps s _ _ (by decide)
  · rw [smap_stashDenied hi h1 h2 h3 h4 h]
    exact traps s _ _ (by decide)
  · rw [smap_globalDenied hi h1 h2 h3 h4 hf h]
    exact traps s _ _ (by decide)
  · rw [smap_pageDenied hi h1 h2 h3 h4 hf hg (firstBad_denied hl hb hx)]
    obtain ⟨t, ht, hx⟩ := traps (heatLookup s (asidOf s s.cur.1) x) causeProtect x (by decide)
    exact ⟨t, ht, (unseen_heatLookup _ _ _).trapped hx⟩
  · rw [smap_maps hi h1 h2 h3 h4 hf hg (firstBad_none h)]
    exact finish_withMap s (smapNames o a b) ⟨vo - windowBase, va, n, [], []⟩

/-! ### SUNMAP (R171) -/

theorem sunmap_clause (o : F6) (s : State) (hi : Issues ⟨[.s o], none, [], []⟩ s) :
    (mapAt (myCore s) (valS s o).toNat = none →
      ∃ t, exec (.sunmap o) s = .next t ∧ Trapped s t causeProtect 0 (valS s o) []) ∧
    (∀ m, mapAt (myCore s) (valS s o).toNat = some m → accessesDone (me s) = true →
      writesOut s s.cur.1 s.cur.2 = false →
      (unmapWrites s s.cur.1 s.cur.2 m = [] →
        ∃ t, exec (.sunmap o) s = .next t ∧ (myCore t).maps = (myCore s).maps.filter (fun k => k.off != m.off) ∧
          Wrote ⟨[.s o], none, [], []⟩ (modCore s s.cur.1 (fun c =>
            { c with maps := c.maps.filter (fun k => k.off != m.off) })) t 0#64 ((me s).pc + 4#64)) ∧
      (unmapWrites s s.cur.1 s.cur.2 m ≠ [] →
        ∃ t, exec (.sunmap o) s = .next t ∧ Waits s t 0 .sent ∧
          t.writes = s.writes ++ unmapWrites s s.cur.1 s.cur.2 m)) := by
  have hx : exec (.sunmap o) s = execSunmap o s := rfl
  rw [hx, execSunmap, issue_ready hi]
  refine ⟨fun hm => ?_, fun m hm hd hw => ⟨fun he => ?_, fun he => ?_⟩⟩
  · rw [hm]
    exact trapAddr_trapped s _ (by decide)
  · simp only [hm, hd, hw, he, Bool.not_true, Bool.or_false, Bool.false_eq_true, if_false, List.isEmpty_nil, if_true]
    obtain ⟨t, ht, hmaps, hwr⟩ := finish_maps (s := s) (u := modCore s s.cur.1 fun c =>
      { c with maps := c.maps.filter (fun k => k.off != m.off) }) ⟨[.s o], none, [], []⟩ long rfl
      (modCore_me _ _ _ fun _ => rfl) 0#64
    exact ⟨t, ht, hmaps.trans (by rw [coreOf_modCore_same]; rfl), hwr⟩
  · simp only [hm, hd, hw, List.isEmpty_iff, he, Bool.not_true, Bool.or_false, Bool.false_eq_true, if_false]
    obtain ⟨t, ht, hwait, hs, -⟩ := waitStage_waiting (sending s (unmapWrites s s.cur.1 s.cur.2 m)) 0 .sent
    exact ⟨t, ht, (unseen_sending s _).waits hwait, hs⟩

/-- Settles O40: RESIZE, what it leaves, SMAP with its checks in order, and SUNMAP. -/
theorem stashWaysAndMappings : Obligations.StashWaysAndMappings :=
  ⟨resize_clause, fun c n o => ⟨rfl, stashByte_resized c n o, fun _ => ⟨resized_maps c n, resized_tiles c n⟩⟩,
    fun s lc cap => ⟨trimL1_length s lc cap, trimL1_within⟩, smap_clause, look_dropRange,
    fun _ _ _ _ _ => pagesOf_covers, sunmap_clause⟩

end Sys2Proof.Machine
end

section
/-! SUPPORT. Releases that send or wait, the write-through of a release store, and what an acquire leaves (R166, R167,
R258, R259). -/

namespace Sys2Proof.Machine

/-! ### An acquire (R166) -/

theorem acquire_me (s : State) (lc scope : Nat) : me (acquire s lc scope) = me s := by
  rw [me, acquire_cur, ctxOf_acquire, me]

theorem acquire_core (s : State) (lc : Nat) : acquire s lc 0 = s := if_pos rfl

/-- A mapping with the filled lines of FROZEN pages alone. -/
def keepFrozen (s : State) (lc : Nat) (m : Mapping) : Mapping :=
  { m with filled := m.filled.filter (fun i =>
      match translate s (asidOf s lc) (m.addr + i) with
      | .ok p => p.attr == attrFrozen
      | .fail _ => false) }

/-- What an acquire beyond CORE makes of the core. -/
theorem coreOf_acquire (s : State) (lc : Nat) {scope : Nat} (h : 1 ≤ scope) : coreOf (acquire s lc scope) lc =
    { coreOf s lc with
      l1 := (coreOf s lc).l1.map (fun e => (e.1, dropClean e.2))
      maps := (coreOf s lc).maps.map (keepFrozen s lc) } := by
  have hl : ∀ (u : State) x, coreOf { u with l2 := x } lc = coreOf u lc := fun _ _ => rfl
  unfold acquire
  rw [if_neg (show ¬ scope = scopeCore by unfold scopeCore; omega)]
  dsimp only
  split
  · exact coreOf_modCore_same _ _ _
  · rw [hl]
    exact coreOf_modCore_same _ _ _

theorem look_acquire_l1 {s : State} {lc scope key : Nat} {l : Line} (h : 1 ≤ scope)
    (hl : look (coreOf s lc).l1 key = some l) : look (coreOf (acquire s lc scope) lc).l1 key = some (dropClean l) := by
  rw [coreOf_acquire s lc h]
  exact (look_map_entries _ (fun _ => dropClean) key).trans (by rw [hl]; rfl)

/-- The lines that a mapping keeps filled are those of FROZEN pages. -/
theorem acquire_filled {s : State} {lc scope : Nat} (h : 1 ≤ scope) {m : Mapping}
    (hm : m ∈ (coreOf (acquire s lc scope) lc).maps) {i : Nat} (hi : i ∈ m.filled) :
    ∃ p, translate s (asidOf s lc) (m.addr + i) = .ok p ∧ p.attr = attrFrozen := by
  rw [coreOf_acquire s lc h] at hm
  obtain ⟨m', -, rfl⟩ := List.mem_map.mp hm
  have hf := (List.mem_filter.mp hi).2
  change ∃ p, translate s (asidOf s lc) (m'.addr + i) = .ok p ∧ p.attr = attrFrozen
  split at hf
  · next p hp => exact ⟨p, hp, beq_iff_eq.mp hf⟩
  · exact absurd hf Bool.false_ne_true

theorem look_acquire_l2 {s : State} {lc scope key : Nat} {l : Line} (hl : look s.l2 key = some l) :
    look (acquire s lc scope).l2 key = some (if 3 ≤ scope ∧ l2Die key = coreDie s lc then dropClean l else l) := by
  unfold acquire
  by_cases h0 : scope = scopeCore
  · rw [if_pos h0, hl, if_neg (by unfold scopeCore at h0; omega)]
  · rw [if_neg h0]
    dsimp only
    by_cases h3 : scope < scopePkg
    · rw [if_pos h3, if_neg (by unfold scopePkg at h3; omega)]
      exact hl
    · have he : (fun e : Nat × Line => if l2Die e.1 = coreDie s lc then (e.1, dropClean e.2) else e) =
          fun e => (e.1, (fun k x => if l2Die k = coreDie s lc then dropClean x else x) e.1 e.2) := funext fun e => by
        dsimp only
        split <;> rfl
      rw [if_neg h3, he]
      refine (look_map_entries s.l2 (fun k x => if l2Die k = coreDie s lc then dropClean x else x) key).trans ?_
      rw [hl]
      unfold scopePkg at h3
      simp only [Option.map_some, show 3 ≤ scope by omega, true_and]

/-! ### A release that sends its writes, or waits for others (R167) -/

/-- The writes of a release are no REFST's. -/
theorem releaseWrites_refst {s : State} {lc c scope : Nat} {all : Bool} {w : WriteReq}
    (h : w ∈ releaseWrites s lc c scope all) : w.refst = none := by
  unfold releaseWrites at h
  split at h
  · exact absurd h List.not_mem_nil
  · simp only [List.mem_append] at h
    rcases h with (h | h) | h
    · split at h
      · exact absurd h List.not_mem_nil
      · obtain ⟨e, -, he⟩ := List.mem_filterMap.mp h
        split at he
        · exact Option.some.inj he ▸ rfl
        · exact absurd he (by simp)
    · obtain ⟨e, -, he⟩ := List.mem_filterMap.mp h
      split at he
      · exact absurd he (by simp)
      · exact Option.some.inj he ▸ rfl
    · obtain ⟨m, -, hm⟩ := List.mem_flatMap.mp h
      obtain ⟨i, -, he⟩ := List.mem_filterMap.mp hm
      dsimp only at he
      generalize outMask all _ = out at he
      split at he
      · exact absurd he (by simp)
      · exact Option.some.inj he ▸ rfl

/-- A context without replies to come and without a REFST on its way waits under the plain code. -/
theorem repliesWait_plain {s : State} (hd : accessesDone (me s) = true)
    (hw : ∀ w ∈ s.writes, w.lc = s.cur.1 → w.ctx = s.cur.2 → w.refst = none) (code : Nat) : repliesWait s code = code := by
  have hy : (me s).ypend = [] := by
    simp only [accessesDone, Bool.and_eq_true, List.isEmpty_iff] at hd
    exact hd.2
  have hr : myRefstParked s s.cur.1 s.cur.2 = false := by
    rw [myRefstParked, List.any_eq_false]
    intro w hm
    simp only [Bool.and_eq_true, beq_iff_eq, not_and]
    intro ⟨⟨h1, h2⟩, h3⟩
    rw [hw w hm h1 h2] at h3
    exact absurd h3 (by simp)
  rw [repliesWait, hy, hr]
  rfl

theorem waitBegun_waiting (s : State) (code : Nat) : ∃ t, waitBegun s code = .next t ∧
    Waits s t code (begunStage (me s)) ∧ t.writes = s.writes := by
  obtain ⟨t, ht, hw, hs, -⟩ := waitStage_waiting s code (begunStage (me s))
  exact ⟨t, ht, hw, hs⟩

theorem writesOut_false {s : State} {lc c : Nat} (h : writesOut s lc c = false) {w : WriteReq} (hm : w ∈ s.writes)
    (h1 : w.lc = lc) : w.ctx ≠ c := fun h2 => by
  have := List.any_eq_false.mp h w hm
  simp [h1, h2] at this

section release
variable {s : State} {scope : Nat} (hd : accessesDone (me s) = true) (hw : writesOut s s.cur.1 s.cur.2 = false)
  (hs : (me s).stage ≠ .released)
include hd hw hs

/-- A release with bytes to write sends them once. -/
theorem tryRelease_sends {all : Bool} (hr : releaseWrites s s.cur.1 s.cur.2 scope all ≠ [])
    (hc : crossing s s.cur.1 (scopeDest scope) = false) : tryRelease s scope all =
      .waits (modMe (sending s (releaseWrites s s.cur.1 s.cur.2 scope all)) (fun y => { y with stage := .released })) := by
  simp [tryRelease, hd, hw, hs, hc, hr, sending]

/-- Bytes of the core that cross its own make it wait (R258, R259). -/
theorem tryRelease_crossed {all : Bool} (h0 : scope ≠ 0) (hc : crossing s s.cur.1 (scopeDest scope) = true) :
    tryRelease s scope all = .waits s := by
  have : (scope != scopeCore) = true := bne_iff_ne.mpr h0
  simp [tryRelease, hd, hw, hs, hc, this]

theorem releaseThen_sends (hr : releaseWrites s s.cur.1 s.cur.2 scope false ≠ [])
    (hc : crossing s s.cur.1 (scopeDest scope) = false) (k : State → Res) : ∃ t, releaseThen s scope 0 k = .next t ∧
      Waits s t 0 .released ∧ t.writes = s.writes ++ releaseWrites s s.cur.1 s.cur.2 scope false := by
  have hu := unseen_sending s (releaseWrites s s.cur.1 s.cur.2 scope false)
  have hm := modMe_own (sending s (releaseWrites s s.cur.1 s.cur.2 scope false)) fun y => { y with stage := .released }
  have he := tryRelease_sends hd hw hs hr hc
  generalize hv : modMe (sending s (releaseWrites s s.cur.1 s.cur.2 scope false)) (fun y => { y with stage := .released }) = v
    at hm he
  have hme : me v = { me s with stage := .released } := hm.me.trans (by rw [hu.me])
  have hcode : repliesWait v 0 = 0 := by
    refine repliesWait_plain (by rw [hme]; exact hd) (fun w hmem h1 h2 => ?_) 0
    rw [hm.cur, hu.cur] at h1 h2
    rw [show v.writes = s.writes ++ releaseWrites s s.cur.1 s.cur.2 scope false from hm.quiet.get State.writes] at hmem
    rcases List.mem_append.mp hmem with h | h
    · exact absurd h2 (writesOut_false hw h h1)
    · exact releaseWrites_refst h
  obtain ⟨t, ht, hwait, hwr⟩ := waitBegun_waiting v 0
  have hstage : begunStage (me v) = .released := by rw [hme]; rfl
  rw [hstage] at hwait
  refine ⟨t, by rw [releaseThen, he]; dsimp only; rw [hcode, ht], hu.waits ?_, hwr.trans (hm.quiet.get State.writes)⟩
  exact ⟨hwait.cur.trans hm.cur, hwait.context.trans
      ((congrArg₂ (waitingCtx · 0 .released ·) hm.me (hm.quiet.get State.ticks)).trans rfl),
    hwait.words.trans hm.words, fun lc => (hwait.queues lc).trans (hm.queues lc),
    (hm.quiet.kept hm.others).trans hwait.kept hm.cur⟩

theorem releaseThen_crossed (h0 : scope ≠ 0) (hc : crossing s s.cur.1 (scopeDest scope) = true) (k : State → Res) :
    ∃ t, releaseThen s scope 0 k = .next t ∧ Waits s t 0 (begunStage (me s)) ∧ t.writes = s.writes := by
  have hcode : repliesWait s 0 = 0 :=
    repliesWait_plain hd (fun w hm h1 h2 => absurd h2 (writesOut_false hw hm h1)) 0
  obtain ⟨t, ht, hx⟩ := waitBegun_waiting s 0
  refine ⟨t, ?_, hx⟩
  rw [releaseThen, tryRelease_crossed hd hw hs h0 hc]
  dsimp only
  rw [hcode, ht]

end release

/-! ### The write-through of a release store (R259) -/

theorem throughWrites_core (s : State) (va : Nat) (v : Verdict) : throughWrites s 0 va v = [] := by
  cases v <;> simp [throughWrites, scopeCore]

theorem spanMask_eight_ne (va : Nat) : spanMask (va % 128) 8 ≠ 0 := fun h0 => by
  have hi : va % 128 < 128 := Nat.mod_lt _ (by decide)
  have := (inMask_spanMask_iff (o := va % 128) (n := 8) hi).mpr (by omega)
  rw [h0] at this
  simp [inMask] at this

theorem throughWrites_page {s : State} {scope va : Nat} {p : Page} (ha : p.aliased = false) (h1 : 1 ≤ scope)
    (hp : granBytes ((look (myCore s).l1 (lineKey (asidOf s s.cur.1) va)).getD (emptyLine p)).priv = 0) :
    throughWrites s scope va (.page p) = [⟨s.cur.1, s.cur.2, if scope < 3 then .l2 else .msc, none,
      lineKey (asidOf s s.cur.1) va, spanMask (va % 128) 8, none⟩] := by
  have h0 : ¬ scope = scopeCore := by unfold scopeCore; omega
  have hm : spanMask (va % 128) 8 &&& ~~~(0 : BitVec 128) = spanMask (va % 128) 8 := by
    rw [show ~~~(0 : BitVec 128) = BitVec.allOnes 128 from rfl, BitVec.and_allOnes]
  simp only [throughWrites, ha, hp, hm, h0, spanMask_eight_ne va, Bool.false_eq_true, if_false, or_self]
  rfl

end Sys2Proof.Machine
end

section
/-! SUPPORT. FENCE, LD.acq and ST.rel (R167, R259). -/

namespace Sys2Proof.Machine

/-! ### FENCE -/

theorem acquireThen_done {s : State} (h : accessesDone (me s) = true) (scope : Nat) : ∃ t, acquireThen s scope = .next t ∧
    Changed noNames (acquire s s.cur.1 scope) t id ((me s).pc + 4#64) := by
  rw [acquireThen, if_pos h]
  exact finishCtx_after noNames long (acquire_me s s.cur.1 scope)

/-! ### LD.acq -/

section ldAcq
variable {d a scope : F6} {s : State} (hi : Issues (memNames d a) s)
include hi

theorem exec_ldAcq : exec (.ldAcq d a scope) s = loadAcquire (memNames d a) d.toNat (valS s a).toNat scope.toNat
    (fun u k => checkAccess u (valS u a).toNat 8 false false k) s := by
  rw [show exec (.ldAcq d a scope) s = execLdAcq d a scope s from rfl, execLdAcq]
  exact issue_ready hi _

variable {v : Verdict} (hs : (me s).stage ≠ .sent) (hp : Passes s (valS s a).toNat 8 false false v)
include hs hp

theorem ldAcq_held {b : Nat} (hb : readNow s s.cur.1 (valS s a).toNat 8 v = some b) :
    ∃ t, exec (.ldAcq d a scope) s = .next t ∧ Changed (memNames d a) (acquire s s.cur.1 scope.toNat) t
      (fun x => setSreg x d.toNat (word b)) ((me s).pc + 4#64) := by
  rw [exec_ldAcq hi, loadAcquire, if_neg hs, checkAccess_passes hp, hb, ← acquire_me s s.cur.1 scope.toNat]
  exact finishCtx_own (memNames d a) long (.refl (acquire s s.cur.1 scope.toNat)) fun x => setSreg x d.toNat (word b)

theorem ldAcq_awaits (hb : readNow s s.cur.1 (valS s a).toNat 8 v = none) :
    ∃ t, exec (.ldAcq d a scope) s = .next t ∧
      Waits (modMe s (awaiting · ⟨false, d.toNat, .raw, 8, false, (valS s a).toNat, verdictPage v, none, issueTick s⟩)) t 0
        .sent := by
  rw [exec_ldAcq hi, loadAcquire, if_neg hs, checkAccess_passes hp, hb, ← sendLoad_eq]
  exact waitStage_waits _ 0 .sent

end ldAcq

theorem ldAcq_arrived {d a scope : F6} {s : State} (hi : Issues (memNames d a) s) (hs : (me s).stage = .sent)
    (hl : ∀ l ∈ (me s).loads, l.addr / 128 ≠ (valS s a).toNat / 128) : ∃ t, exec (.ldAcq d a scope) s = .next t ∧
      Changed (memNames d a) (acquire s s.cur.1 scope.toNat) t id ((me s).pc + 4#64) := by
  have hb : loadBusy (me s) (valS s a).toNat = false :=
    List.any_eq_false.mpr fun l hm => by simpa using hl l hm
  rw [exec_ldAcq hi, loadAcquire, if_pos hs, hb]
  exact finishCtx_after (memNames d a) long (acquire_me s s.cur.1 scope.toNat)

/-! ### ST.rel -/

/-- A store sends no write. -/
theorem performStore_writes (s : State) (lc va n v : Nat) (w : Verdict) :
    (performStore s lc va n v w).writes = s.writes := by
  unfold performStore
  split
  · rfl
  · rfl
  · dsimp only
    split
    · exact pocStrip_get (pocStrip_pocWrite _ _ _ _ _ _ _) State.writes
    · rfl
  · rfl

section stRel
variable {x a scope : F6} {s : State} (hi : Issues (memNames x a) s)
include hi

theorem exec_stRel : exec (.stRel x a scope) s =
    if (me s).stage = .sent then
      if writesOut s s.cur.1 s.cur.2 then waitBegun s 0 else finishCtx (memNames x a) long s id
    else checkAccess s (valS s a).toNat 8 true false (fun _ => releaseThen s scope.toNat 0 (fun u =>
      storeThrough (memNames x a) scope.toNat (valS s a).toNat (valS u x) u)) := by
  rw [show exec (.stRel x a scope) s = execStRel x a scope s from rfl, execStRel]
  exact issue_ready hi _

theorem stRel_sent (hs : (me s).stage = .sent) :
    (writesOut s s.cur.1 s.cur.2 = false →
      ∃ t, exec (.stRel x a scope) s = .next t ∧ Changed (memNames x a) s t id ((me s).pc + 4#64)) ∧
    (writesOut s s.cur.1 s.cur.2 = true → ∃ t, exec (.stRel x a scope) s = .next t ∧ Waits s t 0 .sent) := by
  rw [exec_stRel hi, if_pos hs]
  refine ⟨fun h => ?_, fun h => ?_⟩
  · rw [if_neg (by simp [h])]
    exact finishCtx_after (memNames x a) long rfl
  · rw [if_pos h]
    have hst : begunStage (me s) = .sent := by rw [begunStage, hs]; rfl
    obtain ⟨t, ht, hw⟩ := waitBegun_waits s 0
    exact ⟨t, ht, hst ▸ hw⟩

variable {v : Verdict} (hs : (me s).stage ≠ .sent) (hp : Passes s (valS s a).toNat 8 true false v)
  (hr : ReleaseComplete s scope.toNat false)
include hs hp hr

/-- Its release done, ST.rel stores, unless bytes of the core cross its own. -/
theorem exec_stRel_released : exec (.stRel x a scope) s =
    if (scope.toNat != scopeCore && crossing s s.cur.1 (scopeDest scope.toNat)) = true then waitBegun s 0
    else if storeReady s s.cur.1 (valS s a).toNat 8 (valS s x).toNat v then
      match throughWrites (performStore s s.cur.1 (valS s a).toNat 8 (valS s x).toNat v) scope.toNat (valS s a).toNat v with
      | [] => finishCtx (memNames x a) long (performStore s s.cur.1 (valS s a).toNat 8 (valS s x).toNat v) id
      | ws => waitStage (sending (performStore s s.cur.1 (valS s a).toNat 8 (valS s x).toNat v) ws) 0 .sent
    else match storeFull s s.cur.1 (valS s a).toNat 8 (valS s x).toNat v with
      | some p => parkMineFull s (valS s a).toNat p
      | none => waitBegun s 0 := by
  rw [exec_stRel hi, if_neg hs, checkAccess_passes hp, releaseThen_done hr, storeThrough]
  exact checkAccess_passes hp _

theorem stRel_crossed (h0 : scope.toNat ≠ 0) (hc : crossing s s.cur.1 (scopeDest scope.toNat) = true) :
    ∃ t, exec (.stRel x a scope) s = .next t ∧ Waits s t 0 (begunStage (me s)) ∧ t.writes = s.writes := by
  rw [exec_stRel_released hi hs hp hr, if_pos (by rw [hc, Bool.and_true]; exact bne_iff_ne.mpr h0)]
  exact waitBegun_waiting s 0

variable (hd : storeReady s s.cur.1 (valS s a).toNat 8 (valS s x).toNat v = true)
  (hc : ¬ (scope.toNat ≠ 0 ∧ crossing s s.cur.1 (scopeDest scope.toNat) = true))
include hd hc

theorem stRel_stores (hw : throughWrites (performStore s s.cur.1 (valS s a).toNat 8 (valS s x).toNat v) scope.toNat
    (valS s a).toNat v = []) : ∃ t, exec (.stRel x a scope) s = .next t ∧ Changed (memNames x a)
      (performStore s s.cur.1 (valS s a).toNat 8 (valS s x).toNat v) t id ((me s).pc + 4#64) := by
  rw [exec_stRel_released hi hs hp hr, if_neg (by simpa [scopeCore] using hc), if_pos hd, hw]
  exact finishCtx_after (memNames x a) long (performStore_me _ _ _ _ _ _)

theorem stRel_sends (hw : throughWrites (performStore s s.cur.1 (valS s a).toNat 8 (valS s x).toNat v) scope.toNat
    (valS s a).toNat v ≠ []) : ∃ t, exec (.stRel x a scope) s = .next t ∧
      Waits (performStore s s.cur.1 (valS s a).toNat 8 (valS s x).toNat v) t 0 .sent ∧ t.writes = s.writes ++
        throughWrites (performStore s s.cur.1 (valS s a).toNat 8 (valS s x).toNat v) scope.toNat (valS s a).toNat v := by
  rw [exec_stRel_released hi hs hp hr, if_neg (by simpa [scopeCore] using hc), if_pos hd]
  rw [← performStore_writes s s.cur.1 (valS s a).toNat 8 (valS s x).toNat v]
  generalize performStore s s.cur.1 (valS s a).toNat 8 (valS s x).toNat v = u at hw ⊢
  cases he : throughWrites u scope.toNat (valS s a).toNat v with
  | nil => exact absurd he hw
  | cons w ws =>
    obtain ⟨t, ht, hx, hwr, -⟩ := waitStage_waiting (sending u (w :: ws)) 0 .sent
    exact ⟨t, ht, (unseen_sending u _).waits hx, hwr⟩

end stRel

/-- Settles O39: the fences, LD.acq and ST.rel, the write-through, and what an acquire leaves. -/
theorem fencesAcquireAndRelease : Obligations.FencesAcquireAndRelease := by
  have fence : ∀ (scope : F6) (s : State), exec (.fence scope) s = execFence scope s := fun _ _ => rfl
  have rel : ∀ (scope : F6) (s : State), exec (.fenceRel scope) s = execFenceRel scope s := fun _ _ => rfl
  refine ⟨fun scope s hr => ?_, fun scope s hd => acquireThen_done hd _, fun scope s hr => ?_,
    fun scope s hd hw hs => ⟨fun hr hc => ?_, fun h0 hc => ?_⟩, fun d a scope s v b hi hs hp => ldAcq_held hi hs hp,
    fun d a scope s v hi hs hp => ldAcq_awaits hi hs hp, fun d a scope s hi hs => ldAcq_arrived hi hs,
    fun x a scope s v hi hs hp hr hd => ⟨fun hc => stRel_crossed hi hs hp hr hc.1 hc.2,
      fun hc => stRel_stores hi hs hp hr hd hc, fun hc => stRel_sends hi hs hp hr hd hc⟩,
    fun x a scope s hi hs => stRel_sent hi hs,
    fun s scope va v p => ⟨throughWrites_core s va v, rfl, fun ha => if_pos ha, fun ha h1 _ => throughWrites_page ha h1⟩,
    acquire_core, fun _ _ _ _ _ => look_acquire_l1, fun _ _ _ h _ hm _ => acquire_filled h hm,
    fun _ _ _ _ _ => look_acquire_l2⟩
  · rw [fence, execFence, releaseThen_done hr]
    exact acquireThen_done hr.done _
  · rw [rel, execFenceRel, releaseThen_done hr]
    exact finishCtx_after noNames long rfl
  · rw [rel, execFenceRel]
    exact releaseThen_sends hd hw hs hr hc _
  · rw [rel, execFenceRel]
    exact releaseThen_crossed hd hw hs h0 hc _

end Sys2Proof.Machine
end

section
/-! SUPPORT. A write request that does not leave its bytes clean (R166). -/

namespace Sys2Proof.Machine

/-! ### A mapping that names a dirty byte twice -/

/-- A mapping of the line at 0 that lists its dirty byte 5 twice. -/
def twiceDirty : Mapping := ⟨0, 0, 128, [], [5, 5]⟩

/-- The write of byte 6 of that line to the MSC. -/
def byteSixWrite : WriteReq := ⟨0, 0, .msc, none, 0, spanMask 6 1, none⟩

/-- A core with that mapping, and that write on its way; the line lies in the MSC. -/
def twiceDirtyState : State :=
  { State.reset with
    cores := [(0, { LCore.reset with maps := [twiceDirty] })]
    msc := [(0, ⟨0, default, false⟩)]
    writes := [byteSixWrite] }

/-- The write lands. The mask of a mapping's line is a sum over the bytes listed, in which byte 5 twice reads as byte 6: that
is what the write carries, and byte 6, which is not listed, is what it cleans. -/
theorem twiceDirty_lands : exec (.writeAcknowledgement 0) twiceDirtyState =
    .next (landMsc { twiceDirtyState with writes := [] } byteSixWrite default) := rfl

theorem twiceDirty_stays : dirtyMask (outLine (landMsc { twiceDirtyState with writes := [] } byteSixWrite default)
    byteSixWrite default) ≠ 0 := by decide

/-- Refutes O51: its clause of a write request that lands at the MSC has what it carried clean then, in every state; where a
mapping lists a dirty byte twice (`twiceDirtyState`), the byte that its mask reads as dirty is none that it lists, and stays
so. The model's own stores list a byte once (`performStore`): the clause wants that as a hypothesis. -/
theorem not_memorySystemEvents : ¬ Obligations.MemorySystemEvents := by
  rintro ⟨h, -⟩
  obtain ⟨-, -, hland, -⟩ := h 0 byteSixWrite twiceDirtyState rfl (by decide) (by decide) rfl
  obtain ⟨t, ht, -, hclean, -⟩ := hland default rfl (by decide) rfl (by decide)
  obtain rfl := Host.Outcome.next.inj (twiceDirty_lands.symm.trans ht)
  exact twiceDirty_stays hclean

end Sys2Proof.Machine
end

section
/-! SUPPORT. What a write at the point of coherence leaves in its line (R166, R331): in the MSC, or in its frame and in the
MSC line that holds it. -/

namespace Sys2Proof.Machine

/-! ### What no line is read from -/

theorem sameMap_modTask (s : State) (n : Nat) (f : Task → Task) : SameMap s (modTask s n f) := by
  rw [modTask_eq]
  exact ⟨rfl, rfl, rfl, rfl, rfl, rfl, rfl, rfl⟩

theorem sameMap_logKeep (s : State) (key : Nat) (p : Page) (m : BitVec 128) (task : Nat) :
    SameMap s (logKeep s key p m task) := by
  unfold logKeep
  dsimp only
  split
  · exact .refl s
  · exact sameMap_modTask _ _ _

theorem sameMap_logWrite (s : State) (key : Nat) (p : Page) (m : BitVec 128) (task : Nat) :
    SameMap s (logWrite s key p m task) :=
  SameMap.trans (t := logForget s key (frameOf p (keyVa key)) m task) ⟨rfl, rfl, rfl, rfl, rfl, rfl, rfl, rfl⟩
    (sameMap_logKeep _ _ _ _ _)

theorem sameMap_cmpReserve (s : State) (p : Page) (a : Nat) (d : BitVec 1024) : SameMap s (cmpReserve s p a d) := by
  unfold cmpReserve
  split
  · exact ⟨rfl, rfl, rfl, rfl, rfl, rfl, rfl, rfl⟩
  · exact .refl s

theorem sameMap_heatWrite (s : State) (a : Nat) : SameMap s (heatWrite s a) := by
  unfold heatWrite
  split
  · split
    · exact .refl s
    · exact ⟨rfl, rfl, rfl, rfl, rfl, rfl, rfl, rfl⟩
  · exact .refl s

theorem sameMap_setGranTag (s : State) (a t : Nat) : SameMap s (setGranTag s a t) :=
  ⟨rfl, rfl, rfl, rfl, rfl, rfl, rfl, rfl⟩

theorem sameMap_foldl {α : Type} {f : State → α → State} (h : ∀ s a, SameMap s (f s a)) (l : List α) (s : State) :
    SameMap s (l.foldl f s) := by
  induction l generalizing s with
  | nil => exact .refl s
  | cons a l ih => exact (h s a).trans (ih _)

theorem sameMap_tagWrite (s : State) (a : Nat) (m : BitVec 128) : SameMap s (tagWrite s a m) :=
  sameMap_foldl (fun t i => by
    split
    · exact .refl t
    · exact sameMap_setGranTag _ _ _) _ s

theorem sameMap_endHoldsAt (s : State) (m : Nat) (p : Nat → Hold → Bool) (r : Nat) : SameMap s (endHoldsAt s m p r) :=
  ⟨rfl, rfl, rfl, rfl, rfl, rfl, rfl, rfl⟩

theorem SameMap.pageLine {s t : State} (h : SameMap s t) (p : Page) (a : Nat) : pageLine t p a = pageLine s p a := by
  unfold Machine.pageLine pageKey frameLine memNat memByte
  rw [h.mem, h.frameKeys, h.keySlots]

/-! ### A line in the MSC -/

theorem mscFill_hit {s : State} {key : Nat} {l : MscLine} (h : look s.msc key = some l) (p : Page) :
    mscFill s key p = (s, true) := by
  rw [mscFill, h]

theorem mscFill_miss {s : State} {key : Nat} (h : look s.msc key = none) (p : Page) : ∃ g q, (mscFill s key p).1 =
    { s with gens := g, heat := q, msc := put s.msc key ⟨pageLine s p (frameOf p (keyVa key)), p, false⟩ } := by
  obtain ⟨g, q, e⟩ := heatMiss_eq s (keyAsid key) (keyVa key)
  rw [mscFill, h]
  simp only [e, heatAccess]
  exact ⟨_, _, rfl⟩

/-- What the MSC holds once it has brought a line in does not depend on what no line is read from. -/
theorem SameMap.mscFill {s t : State} (h : SameMap s t) (key : Nat) (p : Page) :
    (mscFill t key p).1.msc = (mscFill s key p).1.msc := by
  cases hl : look s.msc key with
  | some l => rw [mscFill_hit hl, mscFill_hit (h.msc ▸ hl), h.msc]
  | none =>
    obtain ⟨g, q, e⟩ := mscFill_miss hl p
    obtain ⟨g', q', e'⟩ := mscFill_miss (s := t) (h.msc ▸ hl) p
    rw [e, e', h.msc, h.pageLine]

/-- A line that the MSC has brought in is there. -/
theorem look_mscFill (s : State) (key : Nat) (p : Page) : ∃ l, look (mscFill s key p).1.msc key = some l := by
  cases hl : look s.msc key with
  | some l => exact ⟨l, by rw [mscFill_hit hl, hl]⟩
  | none =>
    obtain ⟨g, q, e⟩ := mscFill_miss hl p
    exact ⟨_, by rw [e, look_put_same]⟩

theorem pocLine_of_msc {s : State} {key : Nat} {l : MscLine} (h : look s.msc key = some l) (p : Page) :
    pocLine s key p = l.data := by
  rw [pocLine, h]

theorem SameMap.pocLine_mscFill {s t : State} (h : SameMap s t) (key : Nat) (p : Page) :
    Machine.pocLine (Machine.mscFill t key p).1 key p = Machine.pocLine (Machine.mscFill s key p).1 key p := by
  obtain ⟨l, hl⟩ := look_mscFill s key p
  rw [pocLine_of_msc hl, pocLine_of_msc ((h.mscFill key p).symm ▸ hl)]

theorem mscFill_memory (s : State) (key : Nat) (p : Page) : (mscFill s key p).1.mem = s.mem := by
  obtain ⟨g, h, e⟩ := mscFill_eq s key p
  have h := congrArg State.mem e
  exact h

theorem pocLine_mscStore (s : State) (key : Nat) (p : Page) (d : BitVec 1024) (m : BitVec 128) :
    pocLine (mscStore s key p d m) key p = mergeLine (pocLine (mscFill s key p).1 key p) d m :=
  pocLine_of_msc (l := ⟨mergeLine (pocLine (mscFill s key p).1 key p) d m, p, true⟩) (look_put_same _ _ _) p

theorem mscStore_memory (s : State) (key : Nat) (p : Page) (d : BitVec 1024) (m : BitVec 128) :
    (mscStore s key p d m).mem = s.mem := mscFill_memory s key p

/-! ### A line in its frame -/

theorem memByte_setMemByte (s : State) (a b : Nat) (x : Byte) :
    memByte (setMemByte s a x) b = if b = a then x else memByte s b := getD_setD _ _ _ _ _

theorem writeFrame_eq (s : State) (a : Nat) (d : BitVec 1024) (m : BitVec 128) :
    writeFrame s a d m = { s with mem := (writeFrame s a d m).mem } := by
  have h : ∀ (l : List Nat) (t : State), ∃ x, l.foldl (fun t i => if inMask m i then setMemByte t (a + i) (lineByte d i) else t) t =
      { t with mem := x } := fun l => by
    induction l with
    | nil => exact fun t => ⟨t.mem, rfl⟩
    | cons i l ih =>
      intro t
      rw [List.foldl_cons]
      split
      · exact ih _
      · exact ih t
  obtain ⟨x, e⟩ := h (List.range 128) s
  rw [writeFrame, e]

theorem memByte_writeFrame (s : State) (a : Nat) (d : BitVec 1024) (m : BitVec 128) {i : Nat} (hi : i < 128) :
    memByte (writeFrame s a d m) (a + i) = if inMask m i then lineByte d i else memByte s (a + i) := by
  have h : ∀ n, n ≤ 128 → memByte ((List.range n).foldl (fun t i =>
      if inMask m i then setMemByte t (a + i) (lineByte d i) else t) s) (a + i) =
        if i < n ∧ inMask m i = true then lineByte d i else memByte s (a + i) := fun n hn => by
    induction n with
    | zero => rfl
    | succ n ih =>
      rw [List.range_succ, List.foldl_append, List.foldl_cons, List.foldl_nil]
      by_cases hm : inMask m n = true
      · rw [if_pos hm, memByte_setMemByte]
        by_cases he : i = n
        · subst he
          rw [if_pos rfl, if_pos ⟨Nat.lt_succ_self i, hm⟩]
        · rw [if_neg (by omega), ih (by omega)]
          exact if_congr (by rw [show i < n + 1 ↔ i < n by omega]) rfl rfl
      · rw [if_neg hm, ih (by omega)]
        by_cases he : i = n
        · subst he
          rw [if_neg fun k => hm k.2, if_neg fun k => hm k.2]
        · exact if_congr (by rw [show i < n + 1 ↔ i < n by omega]) rfl rfl
  rw [writeFrame, h 128 le_rfl]
  exact if_congr (by simp [hi]) rfl rfl

theorem lineByte_frameLine (s : State) (a : Nat) {i : Nat} (hi : i < 128) :
    lineByte (frameLine s a) i = memByte s (a + i) := by
  refine BitVec.eq_of_getLsbD_eq fun k hk => ?_
  rw [getLsbD_lineByte, frameLine, BitVec.getLsbD_ofNat, memNat, bytesNat_testBit]
  have h1 : (8 * i + k) / 8 = i := by omega
  have h2 : (8 * i + k) % 8 = k := by omega
  rw [h1, h2]
  simp [hk, show 8 * i + k < 1024 by omega]

theorem frameLine_writeFrame (s : State) (a : Nat) (d : BitVec 1024) (m : BitVec 128) :
    frameLine (writeFrame s a d m) a = mergeLine (frameLine s a) d m := by
  refine line_ext fun i hi => ?_
  rw [lineByte_frameLine _ _ hi, memByte_writeFrame s a d m hi, lineByte_mergeLine, lineByte_frameLine s a hi]

end Sys2Proof.Machine
end

section
/-! SUPPORT. A write at the point of coherence is taken by its line (R166, R193, R331). -/

namespace Sys2Proof.Machine

/-! ### Through the keys of frames (R359) -/

theorem writeFrame_keys (s : State) (a : Nat) (d : BitVec 1024) (m : BitVec 128) :
    (writeFrame s a d m).frameKeys = s.frameKeys ∧ (writeFrame s a d m).keySlots = s.keySlots := by
  rw [writeFrame_eq]
  exact ⟨rfl, rfl⟩

theorem mergeLine_all (l d : BitVec 1024) : mergeLine l d (BitVec.allOnes 128) = d := by
  refine line_ext fun i hi => ?_
  rw [lineByte_mergeLine, if_pos]
  simp only [inMask]
  rw [BitVec.getLsbD_allOnes]
  exact decide_eq_true hi

/-- The memory that a page's write leaves is a frame's write. -/
theorem writePage_writes (s : State) (p : Page) (a : Nat) (d : BitVec 1024) (m : BitVec 128) : ∃ e n,
    writePage s p a d m = { writeFrame s a e n with frameKeys := put (writeFrame s a e n).frameKeys (a / 128) (pageKey s p) } ∧
      mergeLine (frameLine s a) e n = mergeLine (pageLine s p a) d m := by
  unfold writePage pageLine
  cases look s.frameKeys (a / 128) with
  | none => exact ⟨d, m, rfl, rfl⟩
  | some k =>
    by_cases hk : k = pageKey s p
    · simp only [hk, if_true]
      exact ⟨d, m, rfl, rfl⟩
    · simp only [hk, if_false]
      exact ⟨_, _, rfl, mergeLine_all _ _⟩

theorem pageLine_writePage (s : State) (p : Page) (a : Nat) (d : BitVec 1024) (m : BitVec 128) :
    pageLine (writePage s p a d m) p a = mergeLine (pageLine s p a) d m := by
  obtain ⟨e, n, h, hm⟩ := writePage_writes s p a d m
  have hk : pageKey (writePage s p a d m) p = pageKey s p := by
    rw [h, pageKey, pageKey, (writeFrame_keys s a e n).2]
  have hl : look (writePage s p a d m).frameKeys (a / 128) = some (pageKey s p) := by
    rw [h, look_put_same]
  have hf : frameLine (writePage s p a d m) a = mergeLine (frameLine s a) e n := by
    rw [h, ← frameLine_writeFrame]
    rfl
  unfold pageLine at hm ⊢
  rw [hl, hk, ← hm, ← hf]
  exact if_pos rfl

theorem sameMap_heatMiss (s : State) (asid va : Nat) : SameMap s (heatMiss s asid va) := by
  obtain ⟨g, h, e⟩ := heatMiss_eq s asid va
  rw [e]
  exact ⟨rfl, rfl, rfl, rfl, rfl, rfl, rfl, rfl⟩

theorem writePage_msc (s : State) (p : Page) (a : Nat) (d : BitVec 1024) (m : BitVec 128) :
    (writePage s p a d m).msc = s.msc := by
  obtain ⟨e, n, h, -⟩ := writePage_writes s p a d m
  rw [h, writeFrame_eq]

theorem pageLine_frameWrite (s : State) (key : Nat) (p : Page) (d : BitVec 1024) (m : BitVec 128) :
    pageLine (frameWrite s key p d m) p (frameOf p (keyVa key)) = mergeLine (pageLine s p (frameOf p (keyVa key))) d m := by
  rw [← (sameMap_heatMiss s (keyAsid key) (keyVa key)).pageLine, ← pageLine_writePage]
  rfl

theorem look_frameWrite {s : State} {key : Nat} {l : MscLine} (h : look s.msc key = some l) {p : Page}
    (ha : frameOf l.page (keyVa key) = frameOf p (keyVa key)) (d : BitVec 1024) (m : BitVec 128) :
    look (frameWrite s key p d m).msc key = some { l with data := mergeLine l.data d m } := by
  have e : (frameWrite s key p d m).msc = s.msc.map (fun e => (e.1,
      if frameOf e.2.page (keyVa e.1) = frameOf p (keyVa key) then { e.2 with data := mergeLine e.2.data d m } else e.2)) := by
    rw [frameWrite, ← (sameMap_heatMiss s (keyAsid key) (keyVa key)).msc,
      ← writePage_msc (heatMiss s (keyAsid key) (keyVa key)) p (frameOf p (keyVa key)) d m]
    refine List.map_congr_left fun e _ => ?_
    split <;> rfl
  rw [e, look_map_entries _ (fun k (x : MscLine) =>
    if frameOf x.page (keyVa k) = frameOf p (keyVa key) then { x with data := mergeLine x.data d m } else x), h]
  exact congrArg some (if_pos ha)

/-! ### The line takes the bytes -/

theorem SameMap.symm {s t : State} (h : SameMap s t) : SameMap t s :=
  ⟨h.msc.symm, h.mem.symm, h.frameKeys.symm, h.keySlots.symm, h.memStacks.symm, h.tlb.symm, h.parts.symm, h.asidbase.symm⟩

/-- What a line takes does not depend on what no line is read from. -/
theorem LineTakes.congr {s s' t t' : State} {key : Nat} {p : Page} {through : Bool} {d : BitVec 1024} {m : BitVec 128}
    (h : LineTakes s t key p through d m) (hs : SameMap s s') (ht : SameMap t t') : LineTakes s' t' key p through d m := by
  refine ⟨fun ha hw => ?_, fun ha => ?_⟩
  · obtain ⟨hl, hm⟩ := h.1 ha hw
    rw [ht.mem, hs.mem, hs.pocLine_mscFill, ← hl, pocLine, pocLine, ht.msc, ht.currentLine]
    exact ⟨rfl, hm⟩
  · obtain ⟨hl, hm⟩ := h.2 ha
    rw [ht.pageLine, hs.pageLine, hs.msc, ht.msc]
    exact ⟨hl, hm⟩

theorem lineTakes_mscStore (s : State) (key : Nat) {p : Page} (hp : p.aliased = false) (d : BitVec 1024) (m : BitVec 128) :
    LineTakes s (mscStore s key p d m) key p false d m :=
  ⟨fun _ _ => ⟨pocLine_mscStore s key p d m, mscStore_memory s key p d m⟩, fun h => by simp [hp] at h⟩

theorem lineTakes_frameWrite (s : State) (key : Nat) {p : Page} (hp : p.aliased = true) (d : BitVec 1024)
    (m : BitVec 128) : LineTakes s (frameWrite s key p d m) key p false d m :=
  ⟨fun h => by simp [hp] at h, fun _ => ⟨pageLine_frameWrite s key p d m, fun _ hl ha => look_frameWrite hl ha d m⟩⟩

/-- A write at the point of coherence is taken by its line. -/
theorem lineTakes_pocWrite (s : State) (key : Nat) (p : Page) (d : BitVec 1024) {m : BitVec 128} (hm : m ≠ 0) (task : Nat)
    (but : Option Nat) : LineTakes s (pocWrite s key p d m task but) key p false d m := by
  have h1 := (sameMap_logWrite s key p m task).trans (sameMap_cmpReserve (logWrite s key p m task) p (frameOf p (keyVa key))
    (mergeLine (pocLine s key p) d m))
  have h2 : ∀ t : State, SameMap t (endLineHolds (tagWrite (heatWrite t (frameOf p (keyVa key))) (frameOf p (keyVa key)) m)
      key 10 but) := fun t =>
    ((sameMap_heatWrite t _).trans (sameMap_tagWrite _ _ _)).trans (sameMap_endHoldsAt _ _ _ _)
  unfold pocWrite pocWriteVia
  dsimp only
  rw [if_neg hm]
  cases hp : p.aliased with
  | true => exact (lineTakes_frameWrite _ key hp d m).congr h1.symm (h2 _)
  | false => exact (lineTakes_mscStore _ key hp d m).congr h1.symm (h2 _)

theorem accessMask_eight (va : Nat) : accessMask va 8 ≠ 0 := spanMask_eight_ne _

end Sys2Proof.Machine
end

section
/-! SUPPORT. What the write of a REFST leaves at the MSC (R209, R392): its line gone from its core and its die, its granule
and tag written, or the tags of a freed object cleared. -/

namespace Sys2Proof.Machine

/-! ### Granule tags (R202) -/

theorem granTag_setGranTag (s : State) (a t : Nat) : granTag (setGranTag s a t) a = t := by
  rw [granTag, setGranTag, getD_setD, if_pos rfl]

theorem writeGranule_takes (s : State) (task key va : Nat) (p : Page) (w : Word) (tag : Nat) :
    LineTakes s (writeGranule s task key va p w tag) key p false (natLine w.toNat (va % 128) 8) (accessMask va 8) :=
  (lineTakes_pocWrite s key p _ (accessMask_eight va) task none).congr (.refl s) (sameMap_setGranTag _ _ _)

@[simp] theorem pocStrip_setGranTag (s : State) (a t : Nat) : pocStrip (setGranTag s a t) = pocStrip s := rfl

@[simp] theorem pocStrip_writeGranule (s : State) (task key va : Nat) (p : Page) (w : Word) (tag : Nat) :
    pocStrip (writeGranule s task key va p w tag) = pocStrip s := by
  rw [writeGranule, pocStrip_setGranTag, pocStrip_pocWrite]

/-! ### Writes that land (R166) -/

theorem toPoc_strip (s : State) (key : Nat) (l : Line) (m : BitVec 128) : pocStrip (toPoc s key l m) = pocStrip s :=
  foldl_keeps pocStrip (fun _ _ => pocStrip_pocWrite _ _ _ _ _ _ _) _ s

/-- The contexts and the writes on their way are the same. -/
def SameFlow (s t : State) : Prop := SameCtxs s t ∧ t.writes = s.writes

theorem SameFlow.refl (s : State) : SameFlow s s := ⟨.refl s, rfl⟩

theorem SameFlow.trans {s t u : State} (h : SameFlow s t) (k : SameFlow t u) : SameFlow s u :=
  ⟨h.1.trans k.1, k.2.trans h.2⟩

theorem sameFlow_l2 (s : State) (x : Sparse Line) : SameFlow s { s with l2 := x } := ⟨.of_cores rfl, rfl⟩

theorem SameFlow.of_poc {s t : State} (h : pocStrip t = pocStrip s) : SameFlow s t :=
  ⟨.of_cores (pocStrip_get h State.cores), pocStrip_get h State.writes⟩

theorem cleanCore_flow (s : State) (lc key : Nat) (m : BitVec 128) : SameFlow s (cleanCore s lc key m) :=
  ⟨sameCtxs_modCore _ _ _ fun c => by
    dsimp only [cleanMap]
    split <;> rfl, rfl⟩

theorem cleanL2Line_flow (s : State) (k : Nat) (m : BitVec 128) : SameFlow s (cleanL2Line s k m) := by
  unfold cleanL2Line
  split
  · dsimp only
    split
    · exact sameFlow_l2 s _
    · exact sameFlow_l2 s _
  · exact .refl s

theorem refreshL2_flow (s : State) (die key : Nat) (l : Line) (m : BitVec 128) : SameFlow s (refreshL2 s die key l m) := by
  unfold refreshL2
  split
  · exact sameFlow_l2 s _
  · exact .refl s

theorem cleanSources_flow (s : State) (w : WriteReq) : SameFlow s (cleanSources s w) := by
  unfold cleanSources
  split
  · exact cleanL2Line_flow _ _ _
  · exact cleanCore_flow _ _ _ _
  · exact ((cleanL2Line_flow _ _ _).trans (cleanL2Line_flow _ _ _)).trans (cleanCore_flow _ _ _ _)

theorem landMsc_flow (s : State) (w : WriteReq) (p : Page) : SameFlow s (landMsc s w p) := by
  unfold landMsc
  exact ((SameFlow.of_poc (toPoc_strip _ _ _ _)).trans (cleanSources_flow _ w)).trans (refreshL2_flow _ _ _ _ _)

theorem landAll_flow (p : Page) (ws : List WriteReq) (s : State) : SameFlow s (landAll p s ws).1 := by
  induction ws generalizing s with
  | nil => exact .refl s
  | cons w ws ih =>
    rw [landAll]
    split
    · exact (landMsc_flow s w p).trans (ih _)
    · exact .refl s

/-! ### A line is dropped -/

theorem look_foldl_erase {α : Type} (ks : List Nat) (m : Sparse α) (k : Nat) (h : k ∈ ks ∨ look m k = none) :
    look (ks.foldl erase m) k = none := by
  induction ks generalizing m with
  | nil => exact h.resolve_left (by simp)
  | cons a ks ih =>
    rw [List.foldl_cons]
    refine ih _ ?_
    by_cases hk : k = a
    · exact .inr (hk ▸ look_erase_same m a)
    · rw [look_erase_other m hk]
      exact h.imp_left fun hm => (List.mem_cons.mp hm).resolve_left hk

theorem dropLine_flow (s : State) (lc key : Nat) : SameFlow s (dropLine s lc key) :=
  SameFlow.trans (t := modCore s lc fun c => { c with l1 := erase c.l1 key })
    ⟨sameCtxs_modCore _ _ _ fun _ => rfl, rfl⟩ (sameFlow_l2 _ _)

theorem look_dropLine_l1 (s : State) (lc key : Nat) : look (coreOf (dropLine s lc key) lc).l1 key = none := by
  have h : coreOf (dropLine s lc key) lc = coreOf (modCore s lc fun c => { c with l1 := erase c.l1 key }) lc := rfl
  rw [h, coreOf_modCore_same]
  exact look_erase_same _ _

theorem coreDie_dropLine (s : State) (lc key : Nat) : coreDie (dropLine s lc key) lc = coreDie s lc := by
  have h : coreDie (dropLine s lc key) lc = coreDie (modCore s lc fun c => { c with l1 := erase c.l1 key }) lc := rfl
  rw [h, coreDie, coreOf_modCore_same, coreDie]

theorem noneInDie_dropLine (s : State) (lc key : Nat) :
    NoneInDie (dropLine s lc key) (coreDie (dropLine s lc key) lc) key := by
  intro k hd hl
  rw [coreDie_dropLine] at hd
  refine look_foldl_erase _ _ _ ?_
  by_cases h : k ∈ keys s.l2
  · exact .inl (List.mem_filter.mpr ⟨h, by simp [hd, hl]⟩)
  · exact .inr (look_eq_none h)

end Sys2Proof.Machine
end

section
/-! SUPPORT. What a write at the point of coherence leaves of the tasks, and what a carving and a freeing do (R209, R348,
R392). -/

namespace Sys2Proof.Machine

/-! ### Tasks keep their walks (R348) -/

/-- Every task has the walks it had, and no task comes or goes. -/
def SameWalks (s t : State) : Prop := ∀ n, (taskOf t n).map Task.walks = (taskOf s n).map Task.walks

theorem SameWalks.refl (s : State) : SameWalks s s := fun _ => rfl

theorem SameWalks.trans {s t u : State} (h : SameWalks s t) (k : SameWalks t u) : SameWalks s u :=
  fun n => (k n).trans (h n)

theorem SameWalks.of_tasks {s t : State} (h : t.tasks = s.tasks) : SameWalks s t := fun n => by
  rw [taskOf, h, taskOf]

theorem sameWalks_modTask (s : State) (n : Nat) {f : Task → Task} (hf : ∀ t, (f t).walks = t.walks) :
    SameWalks s (modTask s n f) := fun k => by
  rw [taskOf_modTask]
  split
  · next hk =>
    subst hk
    rw [Option.map_map]
    exact congrArg (fun g => Option.map g _) (funext hf)
  · rfl

theorem sameWalks_logKeep (s : State) (key : Nat) (p : Page) (m : BitVec 128) (task : Nat) :
    SameWalks s (logKeep s key p m task) := by
  unfold logKeep
  dsimp only
  split
  · exact .refl s
  · refine sameWalks_modTask _ _ fun t => ?_
    split
    · rfl
    · split
      · rfl
      · split <;> rfl

theorem sameWalks_logForget (s : State) (key a : Nat) (m : BitVec 128) (task : Nat) :
    SameWalks s (logForget s key a m task) := fun n => by
  have h : (logForget s key a m task).tasks = s.tasks.map (fun e => (e.1, if e.1 = task then e.2 else
      { e.2 with log := e.2.log.map (fun r =>
          if r.key = key ∨ r.frame = a then { r with mask := r.mask &&& ~~~m } else r) })) := by
    refine List.map_congr_left fun e _ => ?_
    split <;> rfl
  rw [taskOf, h, look_map_entries _ (fun k (x : Task) => if k = task then x else
    { x with log := x.log.map (fun r => if r.key = key ∨ r.frame = a then { r with mask := r.mask &&& ~~~m } else r) }),
    Option.map_map, taskOf]
  refine congrArg (fun g => Option.map g _) (funext fun x => ?_)
  rw [Function.comp_apply]
  split <;> rfl

theorem foldl_tasks {α : Type} {g : State → α → State} (h : ∀ s x, (g s x).tasks = s.tasks) (l : List α) (s : State) :
    (l.foldl g s).tasks = s.tasks := foldl_keeps State.tasks h l s

theorem tagWrite_tasks (s : State) (a : Nat) (m : BitVec 128) : (tagWrite s a m).tasks = s.tasks :=
  foldl_tasks (fun t i => by split <;> rfl) _ s

theorem heatWrite_tasks (s : State) (a : Nat) : (heatWrite s a).tasks = s.tasks := by
  unfold heatWrite
  split
  · split <;> rfl
  · rfl

theorem cmpReserve_tasks (s : State) (p : Page) (a : Nat) (d : BitVec 1024) : (cmpReserve s p a d).tasks = s.tasks := by
  unfold cmpReserve
  split <;> rfl

theorem writePage_tasks (s : State) (p : Page) (a : Nat) (d : BitVec 1024) (m : BitVec 128) :
    (writePage s p a d m).tasks = s.tasks := by
  obtain ⟨e, n, h, -⟩ := writePage_writes s p a d m
  rw [h, writeFrame_eq]

theorem frameWrite_tasks (s : State) (key : Nat) (p : Page) (d : BitVec 1024) (m : BitVec 128) :
    (frameWrite s key p d m).tasks = s.tasks := by
  obtain ⟨g, h, e⟩ := heatMiss_eq s (keyAsid key) (keyVa key)
  have ht := writePage_tasks (heatMiss s (keyAsid key) (keyVa key)) p (frameOf p (keyVa key)) d m
  rw [e] at ht
  exact (congrArg (fun u => (writePage u p (frameOf p (keyVa key)) d m).tasks) e).trans ht

theorem mscStore_tasks (s : State) (key : Nat) (p : Page) (d : BitVec 1024) (m : BitVec 128) :
    (mscStore s key p d m).tasks = s.tasks := by
  obtain ⟨g, h, e⟩ := mscFill_eq s key p
  have ht := congrArg State.tasks e
  exact ht

theorem sameWalks_pocWrite (s : State) (key : Nat) (p : Page) (d : BitVec 1024) (m : BitVec 128) (task : Nat)
    (but : Option Nat) : SameWalks s (pocWrite s key p d m task but) := by
  unfold pocWrite pocWriteVia
  dsimp only
  split
  · exact .refl s
  · have h1 : SameWalks s (logWrite s key p m task) :=
      (sameWalks_logForget s key _ m task).trans (sameWalks_logKeep _ _ _ _ _)
    refine h1.trans (.of_tasks ?_)
    refine (tagWrite_tasks _ _ _).trans ((heatWrite_tasks _ _).trans ?_)
    split
    · exact (frameWrite_tasks _ _ _ _ _).trans (cmpReserve_tasks _ _ _ _)
    · exact (mscStore_tasks _ _ _ _ _).trans (cmpReserve_tasks _ _ _ _)

theorem sameWalks_writeGranule (s : State) (task key va : Nat) (p : Page) (w : Word) (tag : Nat) :
    SameWalks s (writeGranule s task key va p w tag) := sameWalks_pocWrite s key p _ _ task none

theorem SameWalks.task {s t : State} (h : SameWalks s t) {n : Nat} {q : Task} (hq : taskOf s n = some q) :
    ∃ r, taskOf t n = some r ∧ r.walks = q.walks := by
  have hn := h n
  rw [hq] at hn
  obtain ⟨r, hr, e⟩ := Option.map_eq_some_iff.mp hn
  exact ⟨r, hr, e⟩

/-! ### A carving (R209, R348) -/

/-- The task's log stands as before a carving. -/
theorem keepLog_log {s t : State} {n : Nat} {q r : Task} (hq : taskOf s n = some q) (hr : taskOf t n = some r) :
    (taskOf (keepLog s t n) n).map (·.log) = some q.log := by
  rw [keepLog, hq]
  dsimp only
  rw [taskOf_modTask, if_pos rfl, hr]
  rfl

theorem pocStrip_keepLog (s t : State) (n : Nat) : pocStrip (keepLog s t n) = pocStrip t := by
  unfold keepLog
  split
  · exact pocStrip_modTask _ _ _
  · rfl

theorem sameMap_keepLog (s t : State) (n : Nat) : SameMap t (keepLog s t n) := by
  unfold keepLog
  split
  · exact sameMap_modTask _ _ _
  · exact .refl t

theorem granTag_keepLog (s t : State) (n a : Nat) : granTag (keepLog s t n) a = granTag t a := by
  unfold keepLog
  split
  · rw [modTask_eq]
    rfl
  · rfl

/-! ### A freeing (R209, R216) -/

/-- A line that holds no byte but dirty ones, each of them listed for one task. -/
def DirtyOnly (l : Line) : Prop := (keys l.dirty).Nodup ∧ l.valid &&& ~~~dirtyMask l = 0

theorem mem_or_foldl (l : List (Nat × BitVec 128)) (m : BitVec 128) (i : Nat) :
    (l.foldl (fun m e => m ||| e.2) m).getLsbD i = (m.getLsbD i || l.any (fun e => e.2.getLsbD i)) := by
  induction l generalizing m with
  | nil => simp
  | cons e l ih => rw [List.foldl_cons, ih, BitVec.getLsbD_or, List.any_cons, Bool.or_assoc]

theorem getLsbD_dirtyMask (l : Line) (i : Nat) : (dirtyMask l).getLsbD i = l.dirty.any (fun e => e.2.getLsbD i) := by
  rw [dirtyMask, mem_or_foldl]
  simp

theorem dirtyOnly_iff (l : Line) : DirtyOnly l ↔ (keys l.dirty).Nodup ∧
    ∀ i < 128, l.valid.getLsbD i = true → ∃ e ∈ l.dirty, e.2.getLsbD i = true := by
  refine and_congr_right fun _ => ⟨fun h i hi hv => ?_, fun h => BitVec.eq_of_getLsbD_eq fun i hi => ?_⟩
  · have hb := congrArg (fun m => m.getLsbD i) h
    simp only [BitVec.getLsbD_and, BitVec.getLsbD_not, hv, hi, getLsbD_dirtyMask] at hb
    simpa using hb
  · rw [BitVec.getLsbD_and, BitVec.getLsbD_not, getLsbD_dirtyMask]
    cases hv : l.valid.getLsbD i with
    | false => simp
    | true =>
      have ha := List.any_eq_true.mpr (h i hi hv)
      simp [ha]

theorem dirtyOnly_empty (p : Page) : DirtyOnly (emptyLine p) := ⟨List.nodup_nil, BitVec.zero_and⟩

theorem look_of_mem {α : Type} {m : Sparse α} (h : (keys m).Nodup) {e : Nat × α} (he : e ∈ m) : look m e.1 = some e.2 := by
  induction m with
  | nil => exact absurd he (by simp)
  | cons x m ih =>
    obtain ⟨k, v⟩ := x
    obtain ⟨hk, hm⟩ := List.nodup_cons.mp h
    rw [look]
    rcases List.mem_cons.mp he with rfl | he
    · exact if_pos rfl
    · rw [if_neg fun hn : k = e.1 => hk (List.mem_map.mpr ⟨e, he, hn.symm⟩)]
      exact ih hm he

theorem keys_put_nodup {α : Type} {m : Sparse α} {a : Nat} {v : α} (h : (keys m).Nodup) : (keys (put m a v)).Nodup := by
  have he : (keys (erase m a)).Nodup := h.sublist (List.filter_sublist.map _)
  refine (((insertAt_perm a v (erase m a)).map Prod.fst).nodup_iff).mpr (List.nodup_cons.mpr ⟨?_, he⟩)
  rw [List.mem_map]
  rintro ⟨e, hm, rfl⟩
  exact (mem_erase.mp hm).2 rfl

theorem mem_put {α : Type} {m : Sparse α} {a : Nat} {v : α} {e : Nat × α} :
    e ∈ put m a v ↔ e = (a, v) ∨ (e ∈ m ∧ e.1 ≠ a) := by
  rw [put, (insertAt_perm _ _ _).mem_iff, List.mem_cons, mem_erase]

/-- A map that keeps keys leaves them distinct. -/
theorem keys_filterMap_nodup {α : Type} {f : Nat × α → Option (Nat × α)} (hf : ∀ e x, f e = some x → x.1 = e.1)
    {m : Sparse α} (h : (keys m).Nodup) : (keys (m.filterMap f)).Nodup := by
  have hs : ∀ m : Sparse α, (keys (m.filterMap f)).Sublist (keys m) := fun m => by
    induction m with
    | nil => exact .slnil
    | cons e m ih =>
      cases hx : f e with
      | none => rw [List.filterMap_cons_none hx]; exact ih.cons _
      | some x =>
        rw [List.filterMap_cons_some hx, keys, keys, List.map_cons, List.map_cons, hf e x hx]
        exact ih.cons_cons _
  exact h.sublist (hs m)

/-- The dirty bytes that stay of other tasks after a store. -/
def othersDirty (m : BitVec 128) (task : Nat) (e : Nat × BitVec 128) : Option (Nat × BitVec 128) :=
  if e.1 = task ∨ e.2 &&& ~~~m = 0 then none else some (e.1, e.2 &&& ~~~m)

theorem storeLine_dirty (l : Line) (d : BitVec 1024) (m : BitVec 128) (task : Nat) (priv : BitVec 16) :
    (storeLine l d m task priv).dirty = put (l.dirty.filterMap (othersDirty m task)) task (getD 0 l.dirty task ||| m) := rfl

theorem dirtyOnly_storeLine {l : Line} (h : DirtyOnly l) (d : BitVec 1024) (m : BitVec 128) (task : Nat) (priv : BitVec 16) :
    DirtyOnly (storeLine l d m task priv) := by
  rw [dirtyOnly_iff] at h ⊢
  obtain ⟨hn, hv⟩ := h
  rw [storeLine_dirty]
  refine ⟨keys_put_nodup (keys_filterMap_nodup (fun e x hx => ?_) hn), fun i hi hb => ?_⟩
  · unfold othersDirty at hx
    split at hx
    · exact absurd hx (by simp)
    · rw [← Option.some.inj hx]
  · have hb : (l.valid ||| m).getLsbD i = true := hb
    have own : ∀ e : BitVec 128, e = getD 0 l.dirty task → (e ||| m).getLsbD i = true →
        ∃ x ∈ put (l.dirty.filterMap (othersDirty m task)) task (getD 0 l.dirty task ||| m), x.2.getLsbD i = true :=
      fun e he hb => ⟨_, mem_put.mpr (.inl rfl), he ▸ hb⟩
    cases hm : m.getLsbD i with
    | true => exact own _ rfl (by rw [BitVec.getLsbD_or, hm, Bool.or_true])
    | false =>
      rw [BitVec.getLsbD_or, hm, Bool.or_false] at hb
      obtain ⟨e, he, hei⟩ := hv i hi hb
      by_cases ht : e.1 = task
      · refine own e.2 ?_ (by rw [BitVec.getLsbD_or, hei, Bool.true_or])
        rw [getD, ← ht, look_of_mem hn he, Option.getD_some]
      · have hk : (e.2 &&& ~~~m).getLsbD i = true := by
          rw [BitVec.getLsbD_and, BitVec.getLsbD_not, hei, hm]
          simp [hi]
        refine ⟨(e.1, e.2 &&& ~~~m), mem_put.mpr (.inr ⟨List.mem_filterMap.mpr ⟨e, he, if_neg ?_⟩, ht⟩), hk⟩
        rintro (h1 | h0)
        · exact ht h1
        · rw [h0] at hk
          simp at hk

theorem dirtyOnly_addDirty {x : Line} (h : DirtyOnly x) (l : Line) : DirtyOnly (addDirty x l) := by
  unfold addDirty
  generalize l.dirty = es
  induction es generalizing x with
  | nil => exact h
  | cons e es ih => exact ih (dirtyOnly_storeLine h _ _ _ _)

theorem dirtyOnly_freedLine {l : Line} (h : DirtyOnly l) (o : Obj) (key : Nat) : DirtyOnly (freedLine o key l) := by
  rw [dirtyOnly_iff] at h ⊢
  refine ⟨h.1, fun i hi hb => h.2 i hi ?_⟩
  have hb : (l.valid &&& ~~~(objectMask o l.page key &&& ~~~dirtyMask l)).getLsbD i = true := hb
  rw [BitVec.getLsbD_and, Bool.and_eq_true] at hb
  exact hb.1

/-- What a die's second-level cache holds of a line is dirty. -/
def DieDirty (s : State) (die key : Nat) : Prop :=
  ∀ k l, l2Die k = die → l2Line k = key → look s.l2 k = some l → DirtyOnly l

theorem dieDirty_toL2 {s : State} {die key : Nat} (h : DieDirty s die key) (k : Nat) (l : Line) (m : BitVec 128) :
    DieDirty (toL2 s k l m) die key := by
  unfold toL2
  dsimp only
  split
  · exact h
  · intro k' l' hd hk hl
    have hl : look (put s.l2 k (addDirty { (look s.l2 k).getD (emptyLine l.page) with page := l.page } (dirtyPart l m))) k' =
      some l' := hl
    rw [look_put] at hl
    split at hl
    · next he =>
      subst he
      rw [← Option.some.inj hl]
      refine dirtyOnly_addDirty ?_ _
      cases hx : look s.l2 k' with
      | none => exact dirtyOnly_empty _
      | some x => exact h k' x hd hk hx
    · exact h k' l' hd hk hl

theorem evictL1_keeps {s : State} {die key : Nat} (h : DieDirty s die key) (lc k : Nat) :
    DieDirty (evictL1 s lc k) die key := by
  unfold evictL1
  split
  · exact dieDirty_toL2 (dieDirty_toL2 h _ _ _) _ _ _
  · exact h

theorem evictL1_flow (s : State) (lc key : Nat) : SameFlow s (evictL1 s lc key) := by
  refine ⟨fun a c => ?_, ?_⟩
  · exact congrArg (fun x => (getD Ctx.reset x c)) (evictL1_part LCore.ctxs (fun _ _ => rfl) s lc key a)
  · cases h : look (coreOf s lc).l1 key with
    | none => rw [evictL1_none h]
    | some l =>
      obtain ⟨x, e⟩ := evictL1_some h
      rw [e]
      rfl

theorem evictL1_l1 {s : State} {a key : Nat} (h : look (coreOf s a).l1 key = none) (lc k : Nat) :
    look (coreOf (evictL1 s lc k) a).l1 key = none := by
  rw [evictL1_coreOf]
  split
  · next he =>
    subst he
    by_cases hk : key = k
    · exact hk ▸ look_erase_same _ _
    · exact (look_erase_other _ hk).trans h
  · exact h

/-- What a core and its die hold of a line once it has left: nothing but dirty bytes in the second-level cache, and the
contexts and writes as they were. -/
structure Gone (s t : State) (lc die key : Nat) : Prop where
  flow : SameFlow s t
  l1 : look (coreOf t lc).l1 key = none
  l2 : DieDirty t die key

theorem Gone.refl {s : State} {lc die key : Nat} (h1 : look (coreOf s lc).l1 key = none) (h2 : NoneInDie s die key) :
    Gone s s lc die key :=
  ⟨.refl s, h1, fun k _ hd hk hl => absurd hl (by rw [h2 k hd hk]; simp)⟩

/-- What changes no core, no second-level line and no write keeps a line gone. -/
theorem Gone.congr {s t u : State} {lc die key : Nat} (h : Gone s t lc die key) (hc : u.cores = t.cores) (hl : u.l2 = t.l2)
    (hw : u.writes = t.writes) : Gone s u lc die key :=
  ⟨h.flow.trans ⟨.of_cores hc, hw⟩, by rw [coreOf, hc]; exact h.l1, by rw [DieDirty, hl]; exact h.l2⟩

theorem Gone.of_poc {s t u : State} {lc die key : Nat} (h : Gone s t lc die key) (hp : pocStrip u = pocStrip t) :
    Gone s u lc die key :=
  h.congr (pocStrip_get hp State.cores) (pocStrip_get hp State.l2) (pocStrip_get hp State.writes)

theorem foldl_evictL1_gone {s t : State} {lc die key : Nat} (h : Gone s t lc die key) (es : List (Nat × Nat)) :
    Gone s (es.foldl (fun t e => evictL1 t e.1 e.2) t) lc die key := by
  induction es generalizing t with
  | nil => exact h
  | cons e es ih => exact ih ⟨h.flow.trans (evictL1_flow _ _ _), evictL1_l1 h.l1 _ _, evictL1_keeps h.l2 _ _⟩

theorem freeLines_gone {s t : State} {lc die key : Nat} (h : Gone s t lc die key) (o : Obj) :
    Gone s (freeLines t o) lc die key := by
  unfold freeLines
  dsimp only
  generalize List.flatMap (fun k : Nat × LCore => _) t.cores = es
  have hs := foldl_evictL1_gone h es
  generalize List.foldl (fun t e => evictL1 t e.1 e.2) t es = u at hs ⊢
  refine ⟨hs.flow.trans (sameFlow_l2 _ _), hs.l1, fun k l hd hk hl => ?_⟩
  have hl : look (u.l2.map fun e => (e.1, freedLine o (l2Line e.1) e.2)) k = some l := hl
  rw [look_map_entries _ (fun k x => freedLine o (l2Line k) x)] at hl
  obtain ⟨x, hx, rfl⟩ := Option.map_eq_some_iff.mp hl
  exact dirtyOnly_freedLine (hs.l2 k x hd hk hx) o _

theorem pocStrip_freeObject (s : State) (o : Obj) : pocStrip (freeObject s o) = pocStrip (freeLines s o) := by
  have hg : ∀ (t : State) g, pocStrip { t with gtags := g } = pocStrip t := fun _ _ => rfl
  rw [freeObject, hg, foldl_keeps pocStrip fun t _ => pocStrip_heatWrite t _]
  exact foldl_keeps pocStrip (g := fun t m => endHoldsAt t m (fun _ h => holdInObject s o h) 10) (fun _ _ => rfl)
    (List.range 64) (freeLines s o)

theorem freeObject_gone {s t : State} {lc die key : Nat} (h : Gone s t lc die key) (o : Obj) :
    Gone s (freeObject t o) lc die key :=
  (freeLines_gone h o).of_poc (pocStrip_freeObject t o)

/-- The granules of a freed object are data. -/
theorem granTag_freeObject (s : State) (o : Obj) {k : Nat} (h1 : o.hdr / 8 ≤ k) (h2 : k < o.hdr / 8 + o.len) :
    granTag (freeObject s o) (8 * k) = tagData := by
  unfold freeObject granTag
  dsimp only
  rw [getD_filter_keys _ _ fun a => !(decide (o.hdr / 8 ≤ a) && decide (a < o.hdr / 8 + o.len)), if_neg]
  rw [show 8 * k / 8 = k by omega]
  simp [h1, h2]

/-! ### The write of a REFST (R209, R392) -/

/-- The granule with its tag. -/
def refstGranuleAt (s : State) (w : WriteReq) (r : RefstReq) : State :=
  writeGranule s (taskNum w.lc) w.key r.addr r.page r.word (refstTag r.kind)

section kinds
variable {r : RefstReq} {n : Nat}

theorem refstWrite_carve (h : r.kind = .carve n) (s : State) (w : WriteReq) :
    refstWrite s w r = keepLog s (refstGranuleAt s w r) (taskNum w.lc) := by
  unfold refstWrite refstGranuleAt
  rw [h]

theorem refstWrite_store (h : r.kind = .store) (s : State) (w : WriteReq) :
    refstWrite s w r = refstGranuleAt s w r := by
  unfold refstWrite refstGranuleAt
  rw [h]

theorem refstWrite_free (h : r.kind = .free) (s : State) (w : WriteReq) :
    refstWrite s w r = freeObject (refstGranuleAt s w r) ⟨frameOf r.page r.addr, r.word⟩ := by
  unfold refstWrite refstGranuleAt
  rw [h]

end kinds

theorem refstWrite_gone {s t : State} {lc die key : Nat} (h : Gone s t lc die key) (w : WriteReq) (r : RefstReq) :
    Gone s (refstWrite t w r) lc die key := by
  have hg : Gone s (refstGranuleAt t w r) lc die key := h.of_poc (pocStrip_writeGranule _ _ _ _ _ _ _)
  cases hk : r.kind with
  | carve n =>
    rw [refstWrite_carve hk]
    exact hg.of_poc (pocStrip_keepLog _ _ _)
  | store => rwa [refstWrite_store hk]
  | free =>
    rw [refstWrite_free hk]
    exact freeObject_gone hg _

/-- Unless it frees, the write of a REFST leaves the second-level caches as they are. -/
theorem refstWrite_l2 (s : State) (w : WriteReq) {r : RefstReq} (h : r.kind ≠ .free) : (refstWrite s w r).l2 = s.l2 := by
  have hg : (refstGranuleAt s w r).l2 = s.l2 :=
    pocStrip_get (pocStrip_writeGranule s (taskNum w.lc) w.key r.addr r.page r.word (refstTag r.kind)) State.l2
  cases hk : r.kind with
  | carve n =>
    rw [refstWrite_carve hk, ← hg]
    exact pocStrip_get (pocStrip_keepLog _ _ _) State.l2
  | store => rwa [refstWrite_store hk]
  | free => exact absurd hk h

theorem refstGranuleAt_takes (s : State) (w : WriteReq) (r : RefstReq) : LineTakes s (refstGranuleAt s w r) w.key r.page
    false (natLine r.word.toNat (r.addr % 128) 8) (accessMask r.addr 8) := writeGranule_takes _ _ _ _ _ _ _

theorem granTag_refstGranuleAt (s : State) (w : WriteReq) (r : RefstReq) :
    granTag (refstGranuleAt s w r) (frameOf r.page r.addr) = refstTag r.kind := granTag_setGranTag _ _ _

/-- The write of a REFST at the MSC, its line gone from its core and its die. -/
theorem refstWrite_landed {d u : State} {w : WriteReq} {r : RefstReq} (hu : u = { d with writes := u.writes })
    (h1 : look (coreOf d w.lc).l1 w.key = none) (h2 : NoneInDie d (coreDie d w.lc) w.key) :
    RefstLanded d (refstWrite u w r) w r := by
  have hm : SameMap u d := by rw [hu]; exact ⟨rfl, rfl, rfl, rfl, rfl, rfl, rfl, rfl⟩
  have hc : u.cores = d.cores := by rw [hu]
  have hl : u.l2 = d.l2 := by rw [hu]
  have hg : Gone u (refstWrite u w r) w.lc (coreDie d w.lc) w.key :=
    refstWrite_gone (.refl (by rw [coreOf, hc]; exact h1) (by rw [NoneInDie, hl]; exact h2)) w r
  have ht := refstGranuleAt_takes u w r
  refine ⟨hg.l1, ?_⟩
  cases hk : r.kind with
  | carve n =>
    refine ⟨?_, ⟨?_, ?_⟩, fun q hq => ?_⟩
    · rw [refstWrite_carve hk, granTag_keepLog, granTag_refstGranuleAt, hk]
      rfl
    · rw [refstWrite_carve hk]
      exact ht.congr hm (sameMap_keepLog _ _ _)
    · rw [NoneInDie, refstWrite_l2 u w (by rw [hk]; simp), hl]
      exact h2
    · have hq : taskOf u (taskNum w.lc) = some q := by rw [hu]; exact hq
      obtain ⟨q', hq', -⟩ := (sameWalks_writeGranule u (taskNum w.lc) w.key r.addr r.page r.word (refstTag r.kind)).task hq
      rw [refstWrite_carve hk]
      exact keepLog_log hq hq'
  | store =>
    refine ⟨?_, ?_, ?_⟩
    · rw [refstWrite_store hk, granTag_refstGranuleAt, hk]
      rfl
    · rw [refstWrite_store hk]
      exact ht.congr hm (.refl _)
    · rw [NoneInDie, refstWrite_l2 u w (by rw [hk]; simp), hl]
      exact h2
  | free =>
    refine ⟨fun k ha hb => ?_, fun k l hd hk' hl' => (hg.l2 k l hd hk' hl').2⟩
    rw [refstWrite_free hk]
    exact granTag_freeObject _ _ ha hb

end Sys2Proof.Machine
end

section
/-! SUPPORT. The acknowledgement of a REFST, and the headers of objects (R204, R209, R392). -/

namespace Sys2Proof.Machine

/-! ### The acknowledgement of a REFST (R392) -/

section acknowledgement
variable {idx : Nat} {w : WriteReq} {r : RefstReq} {s : State} (hw : s.writes[idx]? = some w) (hr : w.refst = some r)
include hw hr

theorem exec_refstAck : exec (.writeAcknowledgement idx) s =
    if !firstOfLine s idx w.key || isParked s (.write w.lc w.ctx w.key) then .next s else .next (refstLands s idx w r) := by
  change execWriteAcknowledgement idx s = _
  unfold execWriteAcknowledgement
  simp only [hw, hr]

theorem refstAck_waits (h : firstOfLine s idx w.key = false ∨ isParked s (.refst w.lc w.ctx w.key) = true ∨
    carveWaits s w r = true) : exec (.writeAcknowledgement idx) s = .next s := by
  rw [exec_refstAck hw hr]
  rcases h with h | h | h
  · rw [if_pos (by simp [h])]
  · rw [refstLands, if_pos (c := carveWaits s w r || isParked s (.refst w.lc w.ctx w.key)) (by simp [h]), ite_self]
  · rw [refstLands, if_pos (c := carveWaits s w r || isParked s (.refst w.lc w.ctx w.key)) (by simp [h]), ite_self]

variable (h1 : firstOfLine s idx w.key = true) (h2 : isParked s (.write w.lc w.ctx w.key) = false)
  (h3 : isParked s (.refst w.lc w.ctx w.key) = false) (h4 : carveWaits s w r = false)
  {u : State} (hl : landAll r.page s (lineWrites s w.lc w.ctx w.key) = (u, none))
include h1 h2 h3 h4 hl

theorem exec_refstAck_cleaned : exec (.writeAcknowledgement idx) s =
    .next (if granuleReady (dropLine u w.lc w.key) (keyAsid w.key) r.addr r.page r.word then
      refstWrite { dropLine u w.lc w.key with writes := (dropLine u w.lc w.key).writes.eraseIdx idx } w r
    else refstStays (dropLine u w.lc w.key) w r (granuleFull (dropLine u w.lc w.key) (keyAsid w.key) r.addr r.page r.word)) := by
  rw [exec_refstAck hw hr, if_neg (by simp [h1, h2]), refstLands, if_neg (by simp [h3, h4]), hl]

theorem refstAck_lands (hg : granuleReady (dropLine u w.lc w.key) (keyAsid w.key) r.addr r.page r.word = true) :
    ∃ t, exec (.writeAcknowledgement idx) s = .next t ∧ t.writes = s.writes.eraseIdx idx ∧
      RefstLanded (dropLine u w.lc w.key) t w r ∧ ∀ lc c, ctxOf t lc c = ctxOf s lc c := by
  have hu : SameFlow s u := by
    have h := landAll_flow r.page (lineWrites s w.lc w.ctx w.key) s
    rwa [hl] at h
  have hd := hu.trans (dropLine_flow u w.lc w.key)
  have hg' := refstWrite_gone (s := { dropLine u w.lc w.key with writes := (dropLine u w.lc w.key).writes.eraseIdx idx })
    (lc := w.lc) (key := w.key) (.refl (look_dropLine_l1 u w.lc w.key) (noneInDie_dropLine u w.lc w.key)) w r
  refine ⟨_, by rw [exec_refstAck_cleaned hw hr h1 h2 h3 h4 hl, if_pos hg], ?_, ?_, fun lc c => ?_⟩
  · exact hg'.flow.2.trans (congrArg (List.eraseIdx · idx) hd.2)
  · exact refstWrite_landed rfl (look_dropLine_l1 u w.lc w.key) (noneInDie_dropLine u w.lc w.key)
  · exact (hg'.flow.1 lc c).trans (hd.1 lc c)

theorem refstAck_stays (hg : granuleReady (dropLine u w.lc w.key) (keyAsid w.key) r.addr r.page r.word = false)
    (hf : granuleFull (dropLine u w.lc w.key) (keyAsid w.key) r.addr r.page r.word = false) :
    exec (.writeAcknowledgement idx) s = .next (dropLine u w.lc w.key) := by
  rw [exec_refstAck_cleaned hw hr h1 h2 h3 h4 hl, if_neg (by simp [hg]), hf]
  rfl

end acknowledgement

/-! ### Headers (R204, R209) -/

/-- The number of a header with another STATE and SCOPE: its parts below and above the two fields stay. -/
theorem toNat_headerState (h : Word) {st sc : Nat} (h1 : st < 4) (h2 : sc < 4) : (headerState h st sc).toNat =
    h.toNat % 2 ^ 44 + st * 2 ^ 44 + sc * 2 ^ 46 + h.toNat / 2 ^ 48 * 2 ^ 48 := by
  have e1 : (setBits h 45 44 st).toNat = h.toNat % 2 ^ 44 + st * 2 ^ 44 + h.toNat / 2 ^ 46 * 2 ^ 46 := by
    have hl := h.isLt
    simp only [setBits, bits, BitVec.toNat_ofNat]
    omega
  have e2 : ∀ g : Word, (setBits g 47 46 sc).toNat = g.toNat % 2 ^ 46 + sc * 2 ^ 46 + g.toNat / 2 ^ 48 * 2 ^ 48 := fun g => by
    have hl := g.isLt
    simp only [setBits, bits, BitVec.toNat_ofNat]
    omega
  rw [headerState, e2, e1]
  omega

theorem bits_headerState (h : Word) {st sc : Nat} (h1 : st < 4) (h2 : sc < 4) :
    bits (headerState h st sc) 45 44 = st ∧ bits (headerState h st sc) 47 46 = sc ∧
      bits (headerState h st sc) 43 0 = bits h 43 0 ∧ bits (headerState h st sc) 63 48 = bits h 63 48 := by
  have hl := h.isLt
  simp only [bits, toNat_headerState h h1 h2]
  refine ⟨?_, ?_, ?_, ?_⟩
  all_goals omega

theorem bits_carvedHeader {task n : Nat} (p : Nat) (ht : task < 2 ^ 20) (hn : n < 2 ^ 24) :
    bits (carvedHeader task n p) 23 0 = n ∧ bits (carvedHeader task n p) 43 24 = task ∧
      bits (carvedHeader task n p) 47 44 = 0 ∧ bits (carvedHeader task n p) 63 48 = p / 2 ^ 48 % 2 ^ 16 := by
  simp only [carvedHeader, word, bits, BitVec.toNat_ofNat]
  norm_num at *
  refine ⟨?_, ?_, ?_, ?_⟩
  all_goals omega

end Sys2Proof.Machine
end

section
/-! SUPPORT. What REFST finds it has to do: its checks, carving, freeing and storing (R209, R309, R318). -/

namespace Sys2Proof.Machine

/-! ### Before g's page -/

theorem refstPlan_unaligned {s : State} {g : Nat} (p : Nat) (h : g % 8 ≠ 0) :
    refstPlan s g p = .traps causeMisaligned g [] := by
  rw [refstPlan, if_pos h]

theorem refstPlan_window {s : State} {g : Nat} (p : Nat) (ha : g % 8 = 0) (h : inWindow g = true) :
    refstPlan s g p = .traps causeProtect g [word p, 0#64] := by
  rw [refstPlan, if_neg (not_not.mpr ha), if_pos h]
  rfl

theorem refstPlan_mapped {s : State} {g : Nat} (p : Nat) (ha : g % 8 = 0) (hw : inWindow g = false)
    (hc : watched (me s) watchStore g 8 = none) (h : (mappingOf (myCore s) g).isSome = true) :
    refstPlan s g p = .traps causeProtect g [word p, 0#64] := by
  rw [refstPlan, if_neg (not_not.mpr ha), if_neg (by simp [hw]), hc]
  dsimp only
  rw [if_pos (by simp [h])]
  rfl

/-- REFST comes to the checks of g's page. -/
theorem refstPlan_page {s : State} {g : Nat} {page : Page} (h : RefstReaches s g page) (p : Nat) :
    refstPlan s g p = refstPage s (taskNum s.cur.1) g p page := by
  obtain ⟨ha, hw, hc, hm, hv, hd, ht⟩ := h
  rw [refstPlan, if_neg (not_not.mpr ha), if_neg (by simp [hw]), hc]
  dsimp only
  rw [if_neg (by simp [hm, hv, hd]), ht]

/-! ### Following other REFSTs (R209) -/

theorem afterRefsts_none {s : State} {a n : Nat} (h : refstsMeeting s a n = []) (plan : RefstPlan) :
    afterRefsts s a n plan = plan := by
  rw [afterRefsts, h]

theorem afterRefsts_some {s : State} {a n : Nat} {ws : List WriteReq} (h : refstsMeeting s a n = ws) (hne : ws ≠ [])
    (plan : RefstPlan) : afterRefsts s a n plan = .follows ws := by
  rw [afterRefsts, h]
  cases ws with
  | nil => exact absurd rfl hne
  | cons w ws => rfl

/-! ### The granule g (R203, R209) -/

theorem isFree_iff (s : State) (page : Page) (a : Nat) : isFree s page a = true ↔ FreeGranule s page a := by
  unfold isFree FreeGranule
  simp [attrObject, tagData, and_assoc]

theorem inPrivateOf_iff (s : State) (g : Nat) (page : Page) :
    inPrivateOf s (taskNum s.cur.1) page (frameOf page g) = true ↔ InOwnPrivate s g page := by
  unfold inPrivateOf InOwnPrivate
  cases objectOf s page (frameOf page g) with
  | none => simp
  | some o => simp [objPrivate]

/-- Granules whose places list no tag are free to be carved; a tag in their places is listed. -/
theorem allFree_iff (s : State) (a n : Nat) : allFree s a n = true ↔ ∀ e ∈ s.gtags, e.1 < a / 8 ∨ a / 8 + n ≤ e.1 := by
  unfold allFree
  simp only [Bool.not_eq_true', List.any_eq_false, Bool.and_eq_true, decide_eq_true_eq]
  exact forall₂_congr fun e _ => by omega

theorem allFree_tagged {s : State} {a n k : Nat} (hk : k < n) (ht : granTag s (a + 8 * k) ≠ 0) : allFree s a n = false := by
  rw [Bool.eq_false_iff]
  intro h
  rw [allFree_iff] at h
  cases hl : look s.gtags ((a + 8 * k) / 8) with
  | none => exact ht (by rw [granTag, getD, hl]; rfl)
  | some v =>
    have := h _ (mem_of_look hl)
    dsimp only at this
    omega

theorem notPrivate {s : State} {g : Nat} {page : Page} (hg : ¬ InOwnPrivate s g page) : inPrivateOf s (taskNum s.cur.1) page (frameOf page g) = false :=
  Bool.eq_false_iff.mpr (mt (inPrivateOf_iff s g page).mp hg)

/-- What REFST does by R206's rule on the object of g. -/
def ownedPlan (s : State) (g p : Nat) (page : Page) : Option Verdict → RefstPlan
  | some (.trap _ _ _) => .traps causeEscape g [word p, 0#64]
  | some _ => .waits
  | none => refstTarget s (taskNum s.cur.1) g p page

/-- What REFST does once the page of p is known, no other REFST concerning what p names. -/
def targetPlan (s : State) (g p : Nat) (page q : Page) : RefstPlan :=
  if granTag s (frameOf q p) ≠ tagHeader ∨ q.attr = attrPlain then .traps causeProtect g [word p, 1#64]
  else if ((objAt s q (frameOf q p)).state = objPrivate ∨ (objAt s q (frameOf q p)).state = objPublishing) ∧
      (objAt s q (frameOf q p)).owner ≠ taskNum s.cur.1 then .traps causeEscape g [word p, 1#64]
  else if (objAt s q (frameOf q p)).owner = taskNum s.cur.1 ∧
      inPrivateOf s (taskNum s.cur.1) page (frameOf page g) = false then
    if (objAt s q (frameOf q p)).state = objPublishing then .waits
    else if (objAt s q (frameOf q p)).state = objPrivate then .traps causeEscape g [word p, 1#64]
    else .stores page
  else .stores page

section named
variable {s : State} {g p : Nat} {page q : Page}

theorem targetPlan_noHeader (h : ¬ (granTag s (frameOf q p) = 2 ∧ q.attr ≠ attrPlain)) :
    targetPlan s g p page q = .traps causeProtect g [word p, 1#64] := by
  rw [targetPlan, if_pos]
  by_cases h2 : granTag s (frameOf q p) = 2
  · exact .inr (not_not.mp fun ha => h ⟨h2, ha⟩)
  · exact .inl h2

variable (hh : granTag s (frameOf q p) = 2 ∧ q.attr ≠ attrPlain)
include hh

theorem targetPlan_header : targetPlan s g p page q =
    if ((objAt s q (frameOf q p)).state = 0 ∨ (objAt s q (frameOf q p)).state = 1) ∧
      (objAt s q (frameOf q p)).owner ≠ taskNum s.cur.1 then .traps causeEscape g [word p, 1#64]
    else if (objAt s q (frameOf q p)).owner = taskNum s.cur.1 ∧
        inPrivateOf s (taskNum s.cur.1) page (frameOf page g) = false then
      if (objAt s q (frameOf q p)).state = 1 then .waits
      else if (objAt s q (frameOf q p)).state = 0 then .traps causeEscape g [word p, 1#64]
      else .stores page
    else .stores page := by
  rw [targetPlan, if_neg (by simp [hh.1, hh.2, tagHeader])]
  rfl

theorem targetPlan_foreign (hs : (objAt s q (frameOf q p)).state = 0 ∨ (objAt s q (frameOf q p)).state = 1)
    (ho : (objAt s q (frameOf q p)).owner ≠ taskNum s.cur.1) :
    targetPlan s g p page q = .traps causeEscape g [word p, 1#64] := by
  rw [targetPlan_header hh, if_pos ⟨hs, ho⟩]

section own
variable (ho : (objAt s q (frameOf q p)).owner = taskNum s.cur.1)
include ho

theorem targetPlan_escapes (hg : ¬ InOwnPrivate s g page) (hs : (objAt s q (frameOf q p)).state = 0) :
    targetPlan s g p page q = .traps causeEscape g [word p, 1#64] := by
  rw [targetPlan_header hh, if_neg fun h => h.2 ho, if_pos ⟨ho, notPrivate hg⟩, if_neg (by omega), if_pos hs]

theorem targetPlan_waits (hg : ¬ InOwnPrivate s g page) (hs : (objAt s q (frameOf q p)).state = 1) :
    targetPlan s g p page q = .waits := by
  rw [targetPlan_header hh, if_neg fun h => h.2 ho, if_pos ⟨ho, notPrivate hg⟩, if_pos hs]

theorem targetPlan_within (hg : InOwnPrivate s g page) : targetPlan s g p page q = .stores page := by
  rw [targetPlan_header hh, if_neg fun h => h.2 ho, if_neg (by simp [(inPrivateOf_iff s g page).mpr hg])]

end own

theorem targetPlan_public (hs : 2 ≤ (objAt s q (frameOf q p)).state) : targetPlan s g p page q = .stores page := by
  rw [targetPlan_header hh, if_neg (by omega), if_neg (c := _ = 1) (by omega), if_neg (c := _ = 0) (by omega), ite_self]

end named

section page
variable {s : State} {g p : Nat} {page : Page} (hr : RefstReaches s g page)
include hr

theorem refstPlan_denied (h : page.attr = attrFrozen ∨ page.w = false) :
    refstPlan s g p = .traps causeProtect g [word p, 0#64] := by
  rw [refstPlan_page hr, refstPage, if_pos h]
  rfl

variable (hf : page.attr ≠ attrFrozen) (hw : page.w = true)
include hf hw

theorem refstPlan_follows {ws : List WriteReq} (h : refstsMeeting s (frameOf page g) 8 = ws) (hne : ws ≠ []) :
    refstPlan s g p = .follows ws := by
  rw [refstPlan_page hr, refstPage, if_neg (by simp [hf, hw]), afterRefsts_some h hne]

variable (hm : refstsMeeting s (frameOf page g) 8 = [])
include hm

theorem refstPlan_granule : refstPlan s g p = refstGranule s (taskNum s.cur.1) g p page := by
  rw [refstPlan_page hr, refstPage, if_neg (by simp [hf, hw]), afterRefsts_none hm]

/-! ### Carving (R209) -/

section free
variable (hfree : FreeGranule s page (frameOf page g))
include hfree

theorem refstPlan_free : refstPlan s g p =
    if p % 2 ^ 24 = 0 ∨ pageSize page < g % pageSize page + 8 * (p % 2 ^ 24) ∨
        allFree s (frameOf page g) (p % 2 ^ 24) = false then .traps causeProtect g [word p, 0#64]
    else afterRefsts s (frameOf page g) (8 * (p % 2 ^ 24)) (.carves page (p % 2 ^ 24)) := by
  rw [refstPlan_granule hr hf hw hm, refstGranule]
  dsimp only
  rw [if_pos ((isFree_iff _ _ _).mpr hfree)]
  rfl

theorem refstPlan_uncarvable (h : p % 2 ^ 24 = 0 ∨ pageSize page < g % pageSize page + 8 * (p % 2 ^ 24) ∨
    (∃ k, k < p % 2 ^ 24 ∧ granTag s (frameOf page g + 8 * k) ≠ 0)) :
    refstPlan s g p = .traps causeProtect g [word p, 0#64] := by
  rw [refstPlan_free hr hf hw hm hfree, if_pos]
  exact h.imp_right (.imp_right fun ⟨_, hk, ht⟩ => allFree_tagged hk ht)

theorem refstPlan_carvable (h0 : p % 2 ^ 24 ≠ 0) (h1 : g % pageSize page + 8 * (p % 2 ^ 24) ≤ pageSize page)
    (h2 : ∀ e ∈ s.gtags, e.1 < frameOf page g / 8 ∨ frameOf page g / 8 + p % 2 ^ 24 ≤ e.1) : refstPlan s g p =
    afterRefsts s (frameOf page g) (8 * (p % 2 ^ 24)) (.carves page (p % 2 ^ 24)) := by
  rw [refstPlan_free hr hf hw hm hfree, if_neg]
  rintro (h | h | h)
  · exact h0 h
  · omega
  · rw [(allFree_iff _ _ _).mpr h2] at h
    cases h

end free

/-! ### Freeing (R209) -/

theorem refstPlan_header (ht : granTag s (frameOf page g) = 2) : refstPlan s g p =
    if p = 0 ∧ (objAt s page (frameOf page g)).state = 0 ∧ (objAt s page (frameOf page g)).owner = taskNum s.cur.1 then
      afterRefsts s (frameOf page g) (8 * (objAt s page (frameOf page g)).len) (.frees page (objAt s page (frameOf page g)))
    else .traps causeProtect g [word p, 0#64] := by
  have hn : isFree s page (frameOf page g) = false := by
    rw [Bool.eq_false_iff, Ne, isFree_iff]
    exact fun h => by simp [h.2.1] at ht
  rw [refstPlan_granule hr hf hw hm, refstGranule]
  dsimp only
  rw [if_neg (by simp [hn]), if_pos (c := _ = tagHeader) ht]
  rfl

theorem refstPlan_poison (ht : granTag s (frameOf page g) = 3) : refstPlan s g p = .traps causePoison g [] := by
  have hn : isFree s page (frameOf page g) = false := by
    rw [Bool.eq_false_iff, Ne, isFree_iff]
    exact fun h => by simp [h.2.1] at ht
  rw [refstPlan_granule hr hf hw hm, refstGranule]
  dsimp only
  rw [if_neg (by simp [hn]), if_neg (by simp [ht, tagHeader]), if_pos (c := _ = tagPoison) ht]

/-! ### Storing (R206, R209) -/

section stored
variable (h2 : granTag s (frameOf page g) ≠ 2) (h3 : granTag s (frameOf page g) ≠ 3)
  (hn : ¬ FreeGranule s page (frameOf page g))
include h2 h3 hn

theorem refstPlan_stored : refstPlan s g p =
    if inFrozen s page (frameOf page g) then .traps causeProtect g [word p, 0#64]
    else ownedPlan s g p page (ownerRule s (taskNum s.cur.1) page true g) := by
  rw [← isFree_iff, Bool.not_eq_true] at hn
  rw [refstPlan_granule hr hf hw hm, refstGranule]
  dsimp only
  rw [if_neg (by simp [hn]), if_neg (c := _ = tagHeader) h2, if_neg (c := _ = tagPoison) h3]
  cases ownerRule s (taskNum s.cur.1) page true g with
  | none => rfl
  | some v => cases v <;> rfl

end stored

section object
variable (h2 : granTag s (frameOf page g) ≠ 2) (h3 : granTag s (frameOf page g) ≠ 3) {o : Obj}
  (ho : objectOf s page (frameOf page g) = some o)
include h2 h3 ho

theorem refstPlan_object : refstPlan s g p = if o.state = 3 then .traps causeProtect g [word p, 0#64]
    else ownedPlan s g p page (ownerRule s (taskNum s.cur.1) page true g) := by
  have hn : ¬ FreeGranule s page (frameOf page g) := fun h => by simp [h.2.2] at ho
  rw [refstPlan_stored hr hf hw hm h2 h3 hn, inFrozen, ho]
  exact if_congr (by simp [objFrozen]) rfl rfl

theorem refstPlan_frozen (hs : o.state = 3) : refstPlan s g p = .traps causeProtect g [word p, 0#64] := by
  rw [refstPlan_object hr hf hw hm h2 h3 ho, if_pos hs]

theorem refstPlan_foreign (ha : page.attr ≠ attrPlain) (hs : o.state = 0 ∨ o.state = 1) (hw' : o.owner ≠ taskNum s.cur.1) :
    refstPlan s g p = .traps causeEscape g [word p, 0#64] := by
  rw [refstPlan_object hr hf hw hm h2 h3 ho, if_neg (by omega), ownerRule_foreign ha ho hs hw']
  rfl

theorem refstPlan_publishing (ha : page.attr ≠ attrPlain) (hs : o.state = 1) (hw' : o.owner = taskNum s.cur.1) :
    refstPlan s g p = .waits := by
  rw [refstPlan_object hr hf hw hm h2 h3 ho, if_neg (by omega), ownerRule, if_neg ha, ho]
  dsimp only
  rw [if_neg (by simp [hs, objPrivate]), if_pos (c := _ = objPublishing) hs, if_pos hw', if_pos rfl]
  rfl

end object

/-! ### What p names (R209) -/

section target
variable (ht : RefstWritable s g page)
include ht

theorem refstPlan_target : refstPlan s g p = refstTarget s (taskNum s.cur.1) g p page := by
  obtain ⟨hn, h2, h3, ho⟩ := ht
  have hz : inFrozen s page (frameOf page g) = false := by
    unfold inFrozen
    cases h : objectOf s page (frameOf page g) with
    | none => rfl
    | some o => simp [objFrozen, (ho o h).1]
  have hr' : ownerRule s (taskNum s.cur.1) page true g = none := by
    unfold ownerRule
    cases h : objectOf s page (frameOf page g) with
    | none => simp
    | some o =>
      obtain ⟨-, ha | hs | ⟨hs, hw⟩⟩ := ho o h
      · simp [ha]
      · simp [hs, objPrivate, objPublishing]
      · simp [hs, hw, objPrivate]
  rw [refstPlan_stored hr hf hw hm h2 h3 hn, hz, hr']
  rfl

theorem refstPlan_null (h : p = 0) : refstPlan s g p = .stores page := by
  rw [refstPlan_target hr hf hw hm ht, refstTarget, if_pos h]

variable (h0 : p ≠ 0)
include h0

theorem refstPlan_badTarget (h : canonicalVa p = false ∨ inWindow p = true ∨ p % 8 ≠ 0) :
    refstPlan s g p = .traps causeProtect g [word p, 1#64] := by
  rw [refstPlan_target hr hf hw hm ht, refstTarget, if_neg h0, if_pos]
  · rfl
  · rcases h with h | h | h <;> simp [h]

variable (hv : canonicalVa p = true) (hi : inWindow p = false) (ha : p % 8 = 0)
include hv hi ha

theorem refstPlan_untranslated {e : Word} (h : translate s (asidOf s s.cur.1) p = .fail e) :
    refstPlan s g p = .parksP e := by
  rw [refstPlan_target hr hf hw hm ht, refstTarget, if_neg h0, if_neg (by simp [hv, hi, ha]), h]

variable {q : Page} (hq : translate s (asidOf s s.cur.1) p = .ok q) (hh : headerHeld s (asidOf s s.cur.1) p = false)
include hq hh

theorem refstPlan_looks : refstPlan s g p = afterRefsts s (frameOf q p) 8 (targetPlan s g p page q) := by
  rw [refstPlan_target hr hf hw hm ht, refstTarget, if_neg h0, if_neg (by simp [hv, hi, ha]), hq]
  dsimp only
  rw [if_neg (by simp [hh])]
  rfl

end target

end page

/-! ### The rules together (R209, R309) -/

theorem refst_target {s : State} {g p : Nat} {page : Page} (hr : RefstReaches s g page) (hf : page.attr ≠ attrFrozen)
    (hw : page.w = true) (hm : refstsMeeting s (frameOf page g) 8 = []) (ht : RefstWritable s g page) (h0 : p ≠ 0)
    (hv : canonicalVa p = true) (hi : inWindow p = false) (ha : p % 8 = 0) {q : Page}
    (hq : translate s (asidOf s s.cur.1) p = .ok q) (hh : headerHeld s (asidOf s s.cur.1) p = false)
    (hz : refstsMeeting s (frameOf q p) 8 = []) : refstPlan s g p = targetPlan s g p page q := by
  rw [refstPlan_looks hr hf hw hm ht h0 hv hi ha hq hh, afterRefsts_none hz]

theorem refstRules {s : State} {g : Nat} {page : Page} (hr : RefstReaches s g page) (p : Nat) : RefstRules s g p page where
  denies := refstPlan_denied hr
  follows hf hw _ := refstPlan_follows hr hf hw
  carving hf hw hm hfree := by
    refine ⟨refstPlan_uncarvable hr hf hw hm hfree, fun h0 h1 h2 => ⟨fun hz => ?_, fun ws hz hne => ?_⟩⟩
    · rw [refstPlan_carvable hr hf hw hm hfree h0 h1 h2, afterRefsts_none hz]
    · rw [refstPlan_carvable hr hf hw hm hfree h0 h1 h2, afterRefsts_some hz hne]
  header hf hw hm ht := by
    refine ⟨fun h => ?_, fun h hz => ?_, fun h ws hz hne => ?_⟩
    · rw [refstPlan_header hr hf hw hm ht, if_neg h]
    · rw [refstPlan_header hr hf hw hm ht, if_pos h, afterRefsts_none hz]
    · rw [refstPlan_header hr hf hw hm ht, if_pos h, afterRefsts_some hz hne]
  poison hf hw hm := refstPlan_poison hr hf hw hm
  object hf hw hm h2 h3 _ ho :=
    ⟨refstPlan_frozen hr hf hw hm h2 h3 ho, refstPlan_foreign hr hf hw hm h2 h3 ho,
      refstPlan_publishing hr hf hw hm h2 h3 ho⟩
  target hf hw hm ht := by
    refine ⟨refstPlan_null hr hf hw hm ht, refstPlan_badTarget hr hf hw hm ht, fun h0 hv hi ha =>
      ⟨fun _ => refstPlan_untranslated hr hf hw hm ht h0 hv hi ha, fun q hq hh => ⟨fun ws hz hne => ?_, fun hz => ?_⟩⟩⟩
    · rw [refstPlan_looks hr hf hw hm ht h0 hv hi ha hq hh, afterRefsts_some hz hne]
    · rw [refst_target hr hf hw hm ht h0 hv hi ha hq hh hz]
      exact ⟨targetPlan_noHeader, fun hd => targetPlan_foreign hd, fun hd ho hg => targetPlan_escapes hd ho hg,
        fun hd ho hg => targetPlan_waits hd ho hg, fun hd h =>
          h.elim (targetPlan_public hd) fun h => targetPlan_within hd h.1 h.2⟩

end Sys2Proof.Machine
end

section
/-! SUPPORT. REFLD, PUB, PUBW and the numbering of a walk (R207, R208, R210 to R213). -/

namespace Sys2Proof.Machine

/-- A completion from a context's own registers changes contexts, queues and words alone. -/
theorem finishCtx_quiet (n : Names) (len : Nat) (s : State) (f : Ctx → Ctx) :
    ∃ t, finishCtx n len s f = .next t ∧ Quiet s t :=
  ⟨_, rfl, ((consumePorts_quiet s n.srcs).trans (modMe_own _ f).quiet).trans (advance_own _ _).quiet⟩

/-! ### REFLD (R207, R208) -/

section refld
variable {d a : F6} {s : State} (hi : Issues (refldNames d a) s)

theorem checkRefld_allowed {s : State} {va : Nat} {v : Verdict} (hb : lineBusy s va = false) (hv : judgeRefld s va = v)
    (ha : allowed v = true) (k : Verdict → Res) : checkRefld s va k = k v := by
  rw [checkRefld, hb]
  simp only [hv, ha, if_true, Bool.false_eq_true, if_false]

variable {v : Verdict} (hb : lineBusy s (valS s a).toNat = false) (hv : judgeRefld s (valS s a).toNat = v)
  (ha : allowed v = true)
include hi hb hv ha

theorem refld_held {b : Nat} (hn : readNow s s.cur.1 (valS s a).toNat 8 v = some b) :
    ∃ t, exec (.refld d a) s = .next t ∧
      Changed (refldNames d a) s t (fun x => setSreg x d.toNat (word b)) ((me s).pc + 4#64) := by
  rw [show exec (.refld d a) s = execRefld d a s from rfl, execRefld, issue_ready hi]
  dsimp only
  rw [checkRefld_allowed hb hv ha, hn]
  exact finishCtx_own (refldNames d a) long (.refl s) _

theorem refld_awaits (hn : readNow s s.cur.1 (valS s a).toNat 8 v = none) :
    ∃ t, exec (.refld d a) s = .next t ∧ Changed (refldNames d a) s t
      (awaiting · ⟨false, d.toNat, .raw, 8, false, (valS s a).toNat, verdictPage v, none, issueTick s⟩)
        ((me s).pc + 4#64) := by
  rw [show exec (.refld d a) s = execRefld d a s from rfl, execRefld, issue_ready hi]
  dsimp only
  rw [checkRefld_allowed hb hv ha, hn]
  exact sendLoad_changed (refldNames d a) long (.refl s) _

variable (scope : F6) (hs : (me s).stage ≠ .sent)
include hs

theorem refldAcq_held {b : Nat} (hn : readNow s s.cur.1 (valS s a).toNat 8 v = some b) :
    ∃ t, exec (.refldAcq d a scope) s = .next t ∧
      Changed (refldNames d a) (acquire s s.cur.1 scope.toNat) t (fun x => setSreg x d.toNat (word b))
        ((me s).pc + 4#64) := by
  rw [show exec (.refldAcq d a scope) s = execRefldAcq d a scope s from rfl, execRefldAcq, issue_ready hi]
  dsimp only
  rw [loadAcquire, if_neg hs, checkRefld_allowed hb hv ha, hn, ← acquire_me s s.cur.1 scope.toNat]
  exact finishCtx_own (refldNames d a) long (.refl (acquire s s.cur.1 scope.toNat)) fun x => setSreg x d.toNat (word b)

theorem refldAcq_awaits (hn : readNow s s.cur.1 (valS s a).toNat 8 v = none) :
    ∃ t, exec (.refldAcq d a scope) s = .next t ∧ Waits (sendLoad s
      ⟨false, d.toNat, .raw, 8, false, (valS s a).toNat, verdictPage v, none, issueTick s⟩) t 0 .sent := by
  rw [show exec (.refldAcq d a scope) s = execRefldAcq d a scope s from rfl, execRefldAcq, issue_ready hi]
  dsimp only
  rw [loadAcquire, if_neg hs, checkRefld_allowed hb hv ha, hn]
  exact waitStage_waits _ 0 .sent

end refld

theorem refldAcq_arrived {d a : F6} {s : State} (hi : Issues (refldNames d a) s) (scope : F6) (hs : (me s).stage = .sent)
    (hl : loadBusy (me s) (valS s a).toNat = false) : ∃ t, exec (.refldAcq d a scope) s = .next t ∧
      Changed (refldNames d a) (acquire s s.cur.1 scope.toNat) t id ((me s).pc + 4#64) := by
  rw [show exec (.refldAcq d a scope) s = execRefldAcq d a scope s from rfl, execRefldAcq, issue_ready hi]
  dsimp only
  rw [loadAcquire, if_pos hs, hl]
  exact finishCtx_after (refldNames d a) long (acquire_me s s.cur.1 scope.toNat)

/-- REFLD comes to the checks of its page. -/
theorem judgeRefld_page {s : State} {va : Nat} {p : Page} (h8 : va % 8 = 0) (hw : inWindow va = false)
    (hc : watched (me s) watchLoad va 8 = none) (hv : canonicalVa va = true) (hd : debugWindow s s.cur.1 va = none)
    (ht : translate s (asidOf s s.cur.1) va = .ok p) : judgeRefld s va = refldPage s va p := by
  rw [judgeRefld, if_neg (not_not.mpr h8), if_neg (by simp [hw]), hc]
  dsimp only
  rw [if_neg (by simp [hv, hd]), ht]

theorem refldPage_noReference {s : State} {va : Nat} {p : Page} (h : granTag s (frameOf p va) ≠ 1) :
    refldPage s va p = .trap causeProtect va [] := by
  rw [refldPage, if_pos (c := _ ≠ tagReference) h]

theorem refldPage_poison {s : State} {va : Nat} {p : Page} (ht : granTag s (frameOf p va) = 1)
    (ho : ownerRule s (taskNum s.cur.1) p false va = none) (hf : isFaulty s (frameOf p va) = true) :
    refldPage s va p = .trap causePoison va [] := by
  rw [refldPage, if_neg (c := _ ≠ tagReference) (not_not.mpr ht), ho]
  dsimp only
  rw [if_pos (by simp [isPoison, hf])]

/-! ### PUB (R210) -/

/-- The request of a PUB stands before the dispatcher. -/
def asking (s : State) (r : PubReq) : State := { s with pubs := s.pubs ++ [r] }

/-- No core sees a request. -/
theorem asking_changed {n : Names} {s t : State} {r : PubReq} {f : Ctx → Ctx} {pc : Word}
    (h : Changed n (asking s r) t f pc) : Changed n s t f pc := by
  have hm : SameMap s (asking s r) := ⟨rfl, rfl, rfl, rfl, rfl, rfl, rfl, rfl⟩
  have hk : AllKept s (asking s r) := ⟨fun _ _ _ => rfl, (SameView.of_map hm rfl rfl rfl rfl).memory,
    ⟨fun _ _ => rfl, fun _ _ => rfl⟩, fun _ => rfl, ⟨rfl, fun _ => rfl, rfl, rfl, rfl, rfl, rfl⟩⟩
  exact ⟨⟨h.1.cur, h.1.context, h.1.words, h.1.queues⟩, hk.trans h.2 rfl⟩

section pub
variable {d a scope : F6} {s : State} (hi : Issues ⟨[], none, [d.toNat, a.toNat], []⟩ s)
include hi

theorem exec_pub : exec (.pub d a scope) s =
    if (valS s a).toNat % 8 ≠ 0 then trapAddr s causeMisaligned (valS s a).toNat
    else if inWindow (valS s a).toNat then trapAddr s causeProtect (valS s a).toNat
    else if !(me s).ypend.isEmpty || writesOut s s.cur.1 s.cur.2 then waitBegun s (repliesWait s 0)
    else finishCtx ⟨[], none, [d.toNat, a.toNat], []⟩ long
      (asking s ⟨s.cur.1, s.cur.2, d.toNat, (valS s a).toNat, scope.toNat, taskNum s.cur.1⟩) (pendScalar · d.toNat) := by
  rw [show exec (.pub d a scope) s = execPub d a scope s from rfl, execPub, issue_ready hi]
  rfl

theorem pub_unaligned (h : (valS s a).toNat % 8 ≠ 0) :
    ∃ t, exec (.pub d a scope) s = .next t ∧ Trapped s t causeMisaligned 0 (valS s a) [] := by
  rw [exec_pub hi, if_pos h]
  exact trapAddr_trapped s _ (by decide)

variable (h8 : (valS s a).toNat % 8 = 0)
include h8

theorem pub_window (h : inWindow (valS s a).toNat = true) :
    ∃ t, exec (.pub d a scope) s = .next t ∧ Trapped s t causeProtect 0 (valS s a) [] := by
  rw [exec_pub hi, if_neg (not_not.mpr h8), if_pos h]
  exact trapAddr_trapped s _ (by decide)

variable (hw : inWindow (valS s a).toNat = false)
include hw

theorem pub_waits (h : (me s).ypend ≠ [] ∨ writesOut s s.cur.1 s.cur.2 = true) :
    ∃ t, exec (.pub d a scope) s = .next t ∧ Waits s t (repliesWait s 0) (begunStage (me s)) := by
  rw [exec_pub hi, if_neg (not_not.mpr h8), if_neg (by simp [hw]), if_pos (by simpa using h)]
  exact waitBegun_waits s _

theorem pub_asks (hy : (me s).ypend = []) (ho : writesOut s s.cur.1 s.cur.2 = false) :
    ∃ t, exec (.pub d a scope) s = .next t ∧
      t.pubs = s.pubs ++ [⟨s.cur.1, s.cur.2, d.toNat, (valS s a).toNat, scope.toNat, taskNum s.cur.1⟩] ∧
      Changed ⟨[], none, [d.toNat, a.toNat], []⟩ s t (fun x => pendScalar x d.toNat) ((me s).pc + 4#64) := by
  rw [exec_pub hi, if_neg (not_not.mpr h8), if_neg (by simp [hw]), if_neg (by simp [hy, ho])]
  generalize hr : (⟨s.cur.1, s.cur.2, d.toNat, (valS s a).toNat, scope.toNat, taskNum s.cur.1⟩ : PubReq) = r
  obtain ⟨t, ht, hc⟩ := finishCtx_own ⟨[], none, [d.toNat, a.toNat], []⟩ long (.refl (asking s r)) (pendScalar · d.toNat)
  obtain ⟨t', ht', hq⟩ := finishCtx_quiet ⟨[], none, [d.toNat, a.toNat], []⟩ long (asking s r) (pendScalar · d.toNat)
  cases Host.Outcome.next.inj (ht.symm.trans ht')
  exact ⟨t, ht, hq.get State.pubs, asking_changed hc⟩

end pub

/-! ### PUBW (R212) -/

section pubw
variable {a : F6} {s : State} (hi : Issues ⟨[], none, [a.toNat], []⟩ s)
include hi

theorem exec_pubw : exec (.pubw a) s =
    if walkOutstanding s (taskNum s.cur.1) ((valS s a).toNat % 65536) then waitBegun s 0
    else ((me s).walkFaults.find? (fun f => f.walk == (valS s a).toNat % 65536)).elim
      (finishCtx ⟨[], none, [a.toNat], []⟩ long s id) (reportWalk s) := by
  rw [show exec (.pubw a) s = execPubw a s from rfl, execPubw, issue_ready hi]
  dsimp only
  cases (me s).walkFaults.find? (fun f => f.walk == (valS s a).toNat % 65536) <;> rfl

theorem pubw_waits (h : walkOutstanding s (taskNum s.cur.1) ((valS s a).toNat % 65536) = true) :
    ∃ t, exec (.pubw a) s = .next t ∧ Waits s t 0 (begunStage (me s)) := by
  rw [exec_pubw hi, if_pos h]
  exact waitBegun_waits s 0

variable (h : walkOutstanding s (taskNum s.cur.1) ((valS s a).toNat % 65536) = false)
include h

theorem pubw_done (hf : ∀ f ∈ (me s).walkFaults, f.walk ≠ (valS s a).toNat % 65536) :
    ∃ t, exec (.pubw a) s = .next t ∧ Changed ⟨[], none, [a.toNat], []⟩ s t id ((me s).pc + 4#64) := by
  rw [exec_pubw hi, if_neg (by simp [h]), List.find?_eq_none.mpr (by simpa using hf)]
  exact finishCtx_after ⟨[], none, [a.toNat], []⟩ long rfl

theorem pubw_reports {f : WalkFault} (hf : (me s).walkFaults.find? (fun f => f.walk == (valS s a).toNat % 65536) = some f)
    (hp : f.cause ≠ causePoison) : ∃ t, exec (.pubw a) s = .next t ∧
      Trapped (modMe s (fun x => { x with walkFaults := x.walkFaults.filter (fun g => g != f) })) t f.cause 1
        (word f.granule) [word f.walk] := by
  rw [exec_pubw hi, if_neg (by simp [h]), hf]
  exact trapAt_trapped _ 1 _ _ hp

end pubw

/-! ### WALK_ID_ASSIGN (R210, R211) -/

/-- The dispatcher numbers a walk, and its context has the identifier. -/
theorem walkId_assigned {idx : Nat} {r : PubReq} {q : Task} {s : State} (hr : s.pubs[idx]? = some r)
    (hq : taskOf s r.task = some q) (hl : q.walks.length < 64)
    (hb : ∀ e ∈ s.pubs.take idx, (e.lc, e.ctx) ≠ (r.lc, r.ctx)) (hv : (ctxOf s r.lc r.ctx).live = true) :
    ∃ t, exec (.walkIdAssign idx) s = .next t ∧ t.pubs = s.pubs.eraseIdx idx ∧
      taskOf t r.task = some { q with
        nextWalk := (q.nextWalk + 1) % 65536, walks := q.walks ++ [⟨q.nextWalk, r.addr, r.scope, r.lc, r.ctx, false, [], none⟩] } ∧
      ctxOf t r.lc r.ctx = setSreg (unpendScalar (ctxOf s r.lc r.ctx) r.dst) r.dst (word q.nextWalk) := by
  have hn : ¬ (64 ≤ q.walks.length ∨ (s.pubs.take idx).any (fun e => e.lc == r.lc && e.ctx == r.ctx) = true) := by
    rintro (h | h)
    · omega
    · obtain ⟨e, he, h⟩ := List.any_eq_true.mp h
      simp only [Bool.and_eq_true, beq_iff_eq] at h
      exact hb e he (Prod.ext h.1 h.2)
  have hx : ∀ (u : State) f, ctxOf (modTask u r.task f) r.lc r.ctx = ctxOf u r.lc r.ctx := fun u f => by
    rw [modTask_eq]
    rfl
  change ∃ t, execWalkIdAssign idx s = .next t ∧ _
  unfold execWalkIdAssign
  simp only [hr, hq, if_neg hn]
  rw [if_pos (by rw [hx]; exact hv)]
  refine ⟨_, rfl, ?_, ?_, ?_⟩
  · rw [modTask_eq]
    rfl
  · have ht : ∀ (u : State) f, taskOf (modCtx u r.lc r.ctx f) r.task = taskOf u r.task := fun _ _ => rfl
    rw [ht, taskOf_modTask, if_pos rfl]
    exact congrArg (Option.map _) hq
  · rw [ctxOf_modCtx_same, hx]
    rfl

end Sys2Proof.Machine
end

section
/-! SUPPORT. REFST at its issue (R167, R209, R309, R392): its write leaves for the MSC, or it waits or traps, what it looks at
having been read. -/

namespace Sys2Proof.Machine

/-! ### What a read of a header changes (R209, R338) -/

/-- Nothing has changed but the MSC and heat. -/
def MscChange (s t : State) : Prop := t = { s with gens := t.gens, heat := t.heat, msc := t.msc }

theorem MscChange.refl (s : State) : MscChange s s := rfl

theorem mscChange_mscFill (s : State) (key : Nat) (p : Page) : MscChange s (mscFill s key p).1 := by
  obtain ⟨g, h, e⟩ := mscFill_eq s key p
  unfold MscChange
  conv_lhs => rw [e]
  rw [congrArg State.gens e, congrArg State.heat e]

theorem mscChange_headerRead (s : State) (asid va : Nat) : MscChange s (headerRead s asid va) := by
  unfold headerRead
  split
  · exact mscChange_mscFill _ _ _
  · exact .refl s

theorem MscChange.get {α : Type} {s t : State} (h : MscChange s t) (f : State → α)
    (hf : ∀ (u : State) g e m, f { u with gens := g, heat := e, msc := m } = f u) : f t = f s := by
  rw [h, hf]

/-- A change that no core sees is none to a read of a header. -/
theorem Unseen.headerRead {s t : State} (h : Unseen s t) (asid va : Nat) :
    Unseen (Machine.headerRead s asid va) (Machine.headerRead t asid va) := by
  unfold Machine.headerRead
  rw [h.view.map.translate]
  split
  · next p _ =>
    obtain ⟨g, e, hs⟩ := mscFill_eq s (lineKey asid va) p
    obtain ⟨g', e', ht⟩ := mscFill_eq t (lineKey asid va) p
    rw [h.view.map.mscFill] at ht
    generalize (mscFill s (lineKey asid va) p).1.msc = m at hs ht
    rw [hs, ht]
    exact congrArg (fun u : State => { u with gens := g, heat := e, msc := m }) h
  · exact h

/-- What a REFST that traps has looked at. -/
def looksAt (s : State) (p : Nat) (l : List Word) : State :=
  if l.getD 1 0#64 = 1#64 ∧ p % 8 = 0 ∧ inWindow p = false then headerRead s (asidOf s s.cur.1) p else s

theorem unseen_refstLooked (s : State) (g p cause : Nat) (l : List Word) :
    Unseen (looksAt s p l) (refstLooked s g p cause l) := by
  have h : Unseen s (if (mappingOf (myCore s) g).isSome then s else lookedUp s g cause) := by
    split
    · exact .refl s
    · exact unseen_lookedUp s g cause
  unfold looksAt refstLooked
  dsimp only
  split
  · exact h.headerRead _ _
  · exact h

/-! ### Its write leaves (R167, R392) -/

theorem unseen_sendRefst (g : Nat) (page : Page) (w : Word) (k : RefstKind) (s : State) :
    Unseen s (sendRefst g page w k s) := rfl

/-- The release of a REFST.rel is complete; a plain REFST makes none. -/
def ReleasesFor (s : State) (scope : Option Nat) : Prop := ∀ n, scope = some n → ReleaseComplete s n false

/-- What REFST does, by its plan. -/
def refstDoes (x a : F6) (scope : Option Nat) (s : State) : RefstPlan → Res
  | .traps cause addr l => trapAt (refstLooked s (valS s a).toNat (valS s x).toNat cause l) cause 0 (word addr) l
  | .parksG e => parkMineAs s (valS s a).toNat e (valS s a).toNat [word (valS s x).toNat, 0#64]
  | .parksP e => parkMineAs s (valS s x).toNat e (valS s a).toNat [word (valS s x).toNat, 1#64]
  | .waits => waitBegun s 0
  | .follows ws => waitBegun s (followWait s ws)
  | .carves page n => refstGoes x a scope (valS s a).toNat page
      (carvedHeader (taskNum s.cur.1) n (valS s x).toNat) (.carve n) id s
  | .frees page o => refstGoes x a scope (valS s a).toNat page o.head .free id s
  | .stores page => refstGoes x a scope (valS s a).toNat page (word (valS s x).toNat) .store
      (targetRead (valS s x).toNat) s

section issue
variable {x a : F6} {s : State} {scope : Option Nat}

theorem refstGoes_sends (h : ReleasesFor s scope) (g : Nat) (page : Page) (w : Word) (k : RefstKind) (look : State → State) :
    refstGoes x a scope g page w k look s = finishCtx (refstNames x a) long (sendRefst g page w k (look s)) id := by
  unfold refstGoes
  cases scope with
  | none => rfl
  | some n => exact releaseThen_done (h n rfl) _

/-- What REFST sends after a look at what p names. -/
theorem sendRefst_sent {u : State} (hu : MscChange s u) {i : Instr} {g : Nat} {page : Page} {w : Word} {k : RefstKind}
    (he : exec i s = finishCtx (refstNames x a) long (sendRefst g page w k u) id) : RefstSent x a s u i g page w k := by
  have hn := unseen_sendRefst g page w k u
  have hm : me (sendRefst g page w k u) = me s := hn.me.trans (hu.get me fun _ _ _ _ => rfl)
  obtain ⟨t, ht, hc⟩ := finishCtx_after (refstNames x a) long hm
  obtain ⟨t', ht', hq⟩ := finishCtx_quiet (refstNames x a) long (sendRefst g page w k u) id
  cases Host.Outcome.next.inj (ht.symm.trans ht')
  refine ⟨t, he.trans ht, ?_, hn.changed hc⟩
  have hw : (sendRefst g page w k u).writes = (sendRefst g page w k s).writes :=
    hu.get (fun v => (sendRefst g page w k v).writes) fun _ _ _ _ => rfl
  exact (hq.get State.writes).trans hw

variable (hi : Issues (refstNames x a) s) (hb : lineBusy s (valS s a).toNat = false)
include hi hb

theorem refst_eq : refst x a scope s = refstDoes x a scope s (refstPlan s (valS s a).toNat (valS s x).toNat) := by
  rw [refst, issue_ready hi]
  dsimp only
  rw [hb]
  cases refstPlan s (valS s a).toNat (valS s x).toNat <;> rfl

variable {i : Instr} (he : exec i s = refst x a scope s)
include he

theorem exec_refst {plan : RefstPlan} (hp : refstPlan s (valS s a).toNat (valS s x).toNat = plan) :
    exec i s = refstDoes x a scope s plan := by
  rw [he, refst_eq hi hb, hp]

theorem refst_waits (hp : refstPlan s (valS s a).toNat (valS s x).toNat = .waits) :
    ∃ t, exec i s = .next t ∧ Waits s t 0 (begunStage (me s)) := by
  rw [exec_refst hi hb he hp]
  exact waitBegun_waits s 0

theorem refst_follows {ws : List WriteReq} (hp : refstPlan s (valS s a).toNat (valS s x).toNat = .follows ws) :
    ∃ t, exec i s = .next t ∧ Waits s t (followWait s ws) (begunStage (me s)) := by
  rw [exec_refst hi hb he hp]
  exact waitBegun_waits s _

theorem refst_traps {cause addr : Nat} {l : List Word}
    (hp : refstPlan s (valS s a).toNat (valS s x).toNat = .traps cause addr l) (hc : cause ≠ causePoison) :
    ∃ t, exec i s = .next t ∧ Trapped (looksAt s (valS s x).toNat l) t cause 0 (word addr) l := by
  rw [exec_refst hi hb he hp]
  obtain ⟨t, ht, hx⟩ := trapAt_trapped (refstLooked s (valS s a).toNat (valS s x).toNat cause l) 0 (word addr) l hc
  exact ⟨t, ht, (unseen_refstLooked _ _ _ _ _).trapped hx⟩

variable (hr : ReleasesFor s scope)
include hr

theorem refst_carves {page : Page} {n : Nat} (hp : refstPlan s (valS s a).toNat (valS s x).toNat = .carves page n) :
    RefstSent x a s s i (valS s a).toNat page (carvedHeader (taskNum s.cur.1) n (valS s x).toNat) (.carve n) :=
  sendRefst_sent (.refl s) ((exec_refst hi hb he hp).trans (refstGoes_sends hr _ _ _ _ id))

theorem refst_frees {page : Page} {o : Obj} (hp : refstPlan s (valS s a).toNat (valS s x).toNat = .frees page o) :
    RefstSent x a s s i (valS s a).toNat page o.head .free :=
  sendRefst_sent (.refl s) ((exec_refst hi hb he hp).trans (refstGoes_sends hr _ _ _ _ id))

theorem refst_stores {page : Page} (hp : refstPlan s (valS s a).toNat (valS s x).toNat = .stores page) :
    RefstSent x a s (targetRead (valS s x).toNat s) i (valS s a).toNat page (word (valS s x).toNat) .store := by
  refine sendRefst_sent ?_ ((exec_refst hi hb he hp).trans (refstGoes_sends hr _ _ _ _ _))
  unfold targetRead
  split
  · exact .refl s
  · exact mscChange_headerRead _ _ _

end issue

/-- Either form of REFST, its release complete. -/
theorem refst_forms {x a : F6} {s : State} {i : Instr}
    (h : i = .refst x a ∨ ∃ scope : F6, i = .refstRel x a scope ∧ ReleaseComplete s scope.toNat false) :
    ∃ scope, exec i s = refst x a scope s ∧ ReleasesFor s scope := by
  rcases h with rfl | ⟨scope, rfl, hc⟩
  · exact ⟨none, rfl, fun _ hn => by cases hn⟩
  · exact ⟨some scope.toNat, rfl, fun n hn => by cases hn; exact hc⟩

end Sys2Proof.Machine
end

section
/-! SUPPORT. The walks of the dispatcher (R204, R211, R214 to R216). -/

namespace Sys2Proof.Machine

/-! ### What a walk's own record, and the MSC, leave as they are -/

theorem modWalk_eq (s : State) (task : Nat) (f : Walk → Walk) : ∃ l, modWalk s task f = { s with tasks := l } :=
  ⟨_, modTask_eq s task _⟩

/-- Nothing has changed but tasks' records and, where a line was brought in, the MSC and heat. -/
def WalkChange (s t : State) : Prop := ∃ g e m l, t = { s with gens := g, heat := e, msc := m, tasks := l }

theorem WalkChange.get {α : Type} {s t : State} (h : WalkChange s t) (f : State → α)
    (hf : ∀ (u : State) g e m l, f { u with gens := g, heat := e, msc := m, tasks := l } = f u) : f t = f s := by
  obtain ⟨g, e, m, l, rfl⟩ := h
  exact hf s g e m l

theorem walkChange_modWalk (s : State) (task : Nat) (f : Walk → Walk) : WalkChange s (modWalk s task f) := by
  obtain ⟨l, h⟩ := modWalk_eq s task f
  exact ⟨s.gens, s.heat, s.msc, l, h⟩

theorem WalkChange.read {s t : State} (h : WalkChange s t) (asid va : Nat) : WalkChange s (headerRead t asid va) := by
  obtain ⟨g, e, m, l, rfl⟩ := h
  exact ⟨_, _, _, _, mscChange_headerRead _ asid va⟩

theorem sameMap_modWalk (s : State) (task : Nat) (f : Walk → Walk) : SameMap s (modWalk s task f) :=
  sameMap_modTask _ _ _

/-! ### Reclassing (R214, R216) -/

theorem dirtyMask_cleanLine (l : Line) (m : BitVec 128) : dirtyMask (cleanLine l m) &&& m = 0 := by
  refine BitVec.eq_of_getLsbD_eq fun i hi => ?_
  rw [BitVec.getLsbD_and, getLsbD_dirtyMask]
  cases hm : m.getLsbD i with
  | false => simp
  | true =>
    have : (cleanLine l m).dirty.any (fun e => e.2.getLsbD i) = false := by
      rw [List.any_eq_false]
      intro e he
      obtain ⟨x, -, hx⟩ := List.mem_filterMap.mp he
      dsimp only at hx
      split at hx
      · cases hx
      · rw [← Option.some.inj hx]
        simp [hm]
    simp [this]

theorem reclass_clean (l : Line) (va o len : Nat) :
    dirtyMask (reclass l va o len) &&& objectBytes va o len = 0 := dirtyMask_cleanLine l _

theorem and_not_and {n : Nat} (x y : BitVec n) : x &&& ~~~y &&& y = 0 := by
  rw [BitVec.and_assoc, BitVec.and_comm (~~~y), BitVec.and_not_self]
  exact BitVec.and_zero

theorem reclassL2_valid (l : Line) (va o len : Nat) : (reclassL2 l va o len).valid &&& objectBytes va o len = 0 :=
  and_not_and _ _

theorem reclass_priv (l : Line) (va o len : Nat) : (reclass l va o len).priv &&& objectGranules va o len = 0 :=
  and_not_and _ _

theorem look_reclassAll_l2 (s : State) (q : Task) (o len k : Nat) : look (reclassAll s q o len).l2 k =
    (look s.l2 k).map fun l => if keyAsid (l2Line k) = q.asid then reclassL2 l (keyVa (l2Line k)) o len else l :=
  look_map_entries _ (fun k l => if keyAsid (l2Line k) = q.asid then reclassL2 l (keyVa (l2Line k)) o len else l) k

/-- A task's core whose lines are reclassed. -/
def reclassCore (q : Task) (o len : Nat) (c : LCore) : LCore :=
  { c with l1 := c.l1.map (fun e => (e.1, if keyAsid e.1 = q.asid then reclass e.2 (keyVa e.1) o len else e.2)) }

theorem coreOf_reclassAll (s : State) (q : Task) (o len lc : Nat) : coreOf (reclassAll s q o len) lc =
    if taskNum lc = q.num then reclassCore q o len (coreOf s lc) else coreOf s lc := by
  have h : look (reclassAll s q o len).cores lc =
      (look s.cores lc).map fun c => if taskNum lc = q.num then reclassCore q o len c else c :=
    look_map_entries s.cores (fun k c => if taskNum k = q.num then reclassCore q o len c else c) lc
  rw [coreOf, coreOf, getD, getD, h]
  cases look s.cores lc with
  | none =>
    split <;> rfl
  | some c => rfl

theorem reclassed_reclassAll (s : State) (q : Task) (o len : Nat) : Reclassed (reclassAll s q o len) q o len := by
  refine ⟨fun k l hl ha => ?_, fun lc k l hn ha hl => ?_⟩
  · rw [look_reclassAll_l2] at hl
    obtain ⟨x, -, rfl⟩ := Option.map_eq_some_iff.mp hl
    rw [if_pos ha]
    exact reclassL2_valid _ _ _ _
  · rw [coreOf_reclassAll, if_pos hn, reclassCore,
      look_map_entries _ (fun k x => if keyAsid k = q.asid then reclass x (keyVa k) o len else x)] at hl
    obtain ⟨x, -, rfl⟩ := Option.map_eq_some_iff.mp hl
    rw [if_pos ha]
    exact ⟨reclass_clean _ _ _ _, reclass_priv _ _ _ _⟩

/-- What is reclassed stays so while caches and cores do. -/
theorem Reclassed.modWalk {s : State} {q : Task} {o len : Nat} (h : Reclassed s q o len) (task : Nat) (f : Walk → Walk) :
    Reclassed (Machine.modWalk s task f) q o len := by
  have e := walkChange_modWalk s task f
  rw [Reclassed, e.get State.l2 fun _ _ _ _ _ => rfl]
  exact ⟨h.1, fun lc => by rw [e.get (coreOf · lc) fun _ _ _ _ _ => rfl]; exact h.2 lc⟩

/-! ### clean(o) (R214) -/

theorem walkClean_done {s v : State} {q : Task} {o len : Nat} {p : Page}
    (h : landAll p s (objectWrites s q o len) = (v, none)) : walkClean s q o len p =
      modWalk (reclassAll v q o len) q.num (fun x => { x with path := modifyAt x.path 0 (fun f => { f with next := o + 8 }) }) := by
  rw [walkClean, h]

theorem walkClean_stays {s v : State} {q : Task} {o len : Nat} {p : Page} {r : WriteReq}
    (h : landAll p s (objectWrites s q o len) = (v, some r)) (hf : landFull v r p = false) : walkClean s q o len p = v := by
  rw [walkClean, h]
  dsimp only
  rw [walkWaits, hf]
  rfl

/-! ### Headers (R205) -/

theorem granTag_writeHeader (s : State) (q : Task) (va : Nat) (p : Page) (st sc : Nat) :
    granTag (writeHeader s q va p st sc) (frameOf p va) = 2 := granTag_setGranTag _ _ _

theorem writeHeader_takes (s : State) (q : Task) (va : Nat) (p : Page) (st sc : Nat) :
    LineTakes s (writeHeader s q va p st sc) (lineKey q.asid va) p false
      (natLine (headerWord s p va st sc).toNat (va % 128) 8) (accessMask va 8) :=
  (lineTakes_pocWrite _ _ _ _ (accessMask_eight va) _ _).congr (sameMap_logKeep _ _ _ _ _).symm (sameMap_setGranTag _ _ _)

theorem writeHeader_ctxOf (s : State) (q : Task) (va : Nat) (p : Page) (st sc lc c : Nat) :
    ctxOf (writeHeader s q va p st sc) lc c = ctxOf s lc c := by
  have h : pocStrip (writeHeader s q va p st sc) = pocStrip s := by
    unfold writeHeader
    rw [pocStrip_setGranTag, pocStrip_pocWrite]
    unfold logKeep
    dsimp only
    split
    · rfl
    · exact pocStrip_modTask _ _ _
  exact (SameFlow.of_poc h).1 lc c

theorem sameWalks_writeHeader (s : State) (q : Task) (va : Nat) (p : Page) (st sc : Nat) :
    SameWalks s (writeHeader s q va p st sc) :=
  (sameWalks_logKeep s _ _ _ _).trans (sameWalks_pocWrite _ _ _ _ _ _ _)

/-! ### A walk that ends in a fault (R215) -/

theorem pathHeader_keeps (q : Task) (path : List WalkFrame) (s : State) :
    SameCtxs s (path.foldl (pathHeader q objPrivate 0) s) ∧ SameWalks s (path.foldl (pathHeader q objPrivate 0) s) := by
  induction path generalizing s with
  | nil => exact ⟨.refl s, .refl s⟩
  | cons f path ih =>
    have h : SameCtxs s (pathHeader q objPrivate 0 s f) ∧ SameWalks s (pathHeader q objPrivate 0 s f) := by
      unfold pathHeader
      split
      · exact ⟨writeHeader_ctxOf _ _ _ _ _ _, sameWalks_writeHeader _ _ _ _ _ _⟩
      · exact ⟨.refl s, .refl s⟩
    obtain ⟨h1, h2⟩ := ih (pathHeader q objPrivate 0 s f)
    exact ⟨h.1.trans h1, h.2.trans h2⟩

theorem walkDone_ctxOf (s : State) (n lc c : Nat) : ctxOf (walkDone s n) lc c = ctxOf s lc c := by
  rw [walkDone, modTask_eq]
  rfl

/-- A walk that fails reports to its context, and is the task's no more. -/
theorem walkFails_reports {s : State} {q : Task} {w : Walk} {cause g : Nat} (hc : cause ≠ causePoison)
    (hl : (ctxOf s w.lc w.ctx).live = true) (hq : taskOf s q.num = some q) :
    (ctxOf (walkFails s q w cause g) w.lc w.ctx).walkFaults = (ctxOf s w.lc w.ctx).walkFaults ++ [⟨w.id, cause, g⟩] ∧
      (taskOf (walkFails s q w cause g) q.num).map Task.walks = some (q.walks.drop 1) := by
  obtain ⟨hx, hw⟩ := pathHeader_keeps q w.path s
  generalize hu : w.path.foldl (pathHeader q objPrivate 0) s = u at hx hw
  have he : ctxOf (walkDone u q.num) w.lc w.ctx = ctxOf s w.lc w.ctx := (walkDone_ctxOf _ _ _ _).trans (hx _ _)
  have hf : walkFails s q w cause g = modCtx (walkDone u q.num) w.lc w.ctx
      (fun x => { x with walkFaults := x.walkFaults ++ [⟨w.id, cause, g⟩] }) := by
    rw [walkFails, hu, if_neg hc, if_pos (he ▸ hl)]
  obtain ⟨r, hr, hrw⟩ := hw.task hq
  have ht : ∀ (v : State) f, taskOf (modCtx v w.lc w.ctx f) q.num = taskOf v q.num := fun _ _ => rfl
  rw [hf, ctxOf_modCtx_same, he, ht, walkDone, taskOf_modTask, if_pos rfl, hr, ← hrw]
  exact ⟨rfl, rfl⟩

end Sys2Proof.Machine
end

section
/-! SUPPORT. The first step of a walk and the steps after it (R211, R214). -/

namespace Sys2Proof.Machine

/-- A walk with no object on its path fails at once. -/
theorem walkFault_begun {s : State} {q : Task} {w : Walk} (h : w.path = []) (cause g : Nat) :
    walkFault s q w cause g = walkFails s q w cause g := by
  rw [walkFault, h, List.find?_nil]

theorem walkOr_goes {s : State} {q : Task} {w : Walk} (h : w.ending = none) (t : State) : walkOr s q w t = t := by
  rw [walkOr, h]

/-! ### WALK_START (R211, R214) -/

section root
variable {u : State} {q : Task} {w : Walk} {p : Page} (hp : isPoison u (frameOf p w.root) = false)
include hp

theorem walkRoot_noHeader (hn : w.path = []) (h : granTag u (frameOf p w.root) ≠ 2) :
    walkRoot u q w p = walkFails u q w causeProtect w.root := by
  rw [walkRoot, if_neg (by simp [hp]), if_pos (c := _ ≠ tagHeader) h, walkFault_begun hn]

variable (h2 : granTag u (frameOf p w.root) = 2)
include h2

theorem walkRoot_header : walkRoot u q w p =
    if (objAt u p (frameOf p w.root)).state = 2 ∨ (objAt u p (frameOf p w.root)).state = 3 then walkDone u q.num
    else if (objAt u p (frameOf p w.root)).owner ≠ q.num then walkFault u q w causeEscape w.root
    else walkArrive u q w w.root p := by
  rw [walkRoot, if_neg (by simp [hp]), if_neg (c := _ ≠ tagHeader) (not_not.mpr h2)]
  rfl

theorem walkRoot_published (h : 2 ≤ (objAt u p (frameOf p w.root)).state) : walkRoot u q w p = walkDone u q.num := by
  have hl : (objAt u p (frameOf p w.root)).state < 4 := Nat.mod_lt _ (by decide)
  rw [walkRoot_header hp h2, if_pos (by omega)]

variable (hs : (objAt u p (frameOf p w.root)).state < 2)
include hs

theorem walkRoot_foreign (hn : w.path = []) (h : (objAt u p (frameOf p w.root)).owner ≠ q.num) :
    walkRoot u q w p = walkFails u q w causeEscape w.root := by
  rw [walkRoot_header hp h2, if_neg (by omega), if_pos h, walkFault_begun hn]

theorem walkRoot_own (h : (objAt u p (frameOf p w.root)).owner = q.num) : walkRoot u q w p = walkArrive u q w w.root p := by
  rw [walkRoot_header hp h2, if_neg (by omega), if_neg (not_not.mpr h)]

end root

section arrive
variable {u : State} {q : Task} {w : Walk} {p : Page} (hn : w.path = []) (o : Nat)
include hn

theorem walkArrive_waits (h : refstsMeeting u (frameOf p o) (8 * (objAt u p (frameOf p o)).len) ≠ []) :
    walkArrive u q w o p = u := by
  rw [walkArrive, if_neg (by simp [hn])]
  dsimp only
  rw [if_pos (by simpa using h)]

/-- The walk stands at an object, whose header reads PUBLISHING. -/
def arrived (u : State) (q : Task) (o : Nat) (p : Page) : State :=
  modWalk (writeHeader u q o p 1 0) q.num
    (fun x => { x with path := ⟨o, (objAt u p (frameOf p o)).len, o⟩ :: advancePath x.path })

theorem walkArrive_cleans (h : refstsMeeting u (frameOf p o) (8 * (objAt u p (frameOf p o)).len) = [])
    (hg : granuleReady u q.asid o p (headerWord u p o 1 0) = true) :
    walkArrive u q w o p = walkClean (arrived u q o p) q o (objAt u p (frameOf p o)).len p := by
  rw [walkArrive, if_neg (by simp [hn])]
  dsimp only
  rw [if_neg (by simp [h])]
  exact if_pos hg

end arrive

theorem granTag_arrived (u : State) (q : Task) (o : Nat) (p : Page) : granTag (arrived u q o p) (frameOf p o) = 2 := by
  rw [arrived, (walkChange_modWalk _ _ _).get (granTag · _) fun _ _ _ _ _ => rfl]
  exact granTag_writeHeader _ _ _ _ _ _

theorem arrived_takes (u : State) (q : Task) (o : Nat) (p : Page) : LineTakes u (arrived u q o p) (lineKey q.asid o) p false
    (natLine (headerWord u p o 1 0).toNat (o % 128) 8) (accessMask o 8) :=
  (writeHeader_takes u q o p 1 0).congr (.refl u) (sameMap_modWalk _ _ _)

section start
variable {task : Nat} {q : Task} {w : Walk} {s : State} {p : Page} (hq : taskOf s task = some q)
  (hw : q.walks.head? = some w) (hs : w.started = false) (hk : isParked s (.walk task) = false)
  (hr : walksRunning s (homeStack s w.root q.asid) < 8) (hv : canonicalVa w.root = true)
  (ht : translate s q.asid w.root = .ok p) (hh : headerHeld s q.asid w.root = false) (hn : w.path = [])
  (he : w.ending = none)
include hq hw hs hk hr hv ht hh hn he

/-- The walker takes the walk up, reads its root's header, and looks at the root. -/
theorem exec_walkStart : exec (.walkStart task) s =
    .next (walkRoot (headerRead (modWalk s task takeUp) q.asid w.root) q (takeUp w) p) := by
  have hm := sameMap_modWalk s task takeUp
  have hc := walkChange_modWalk s task takeUp
  change execWalkStart task s = _
  unfold execWalkStart
  simp only [hq, hw]
  rw [if_neg (by simp [hn, hk, hs, hr])]
  rw [walkOr_goes (w := takeUp w) he, walkBegin]
  rw [show (takeUp w).root = w.root from rfl, if_neg (by simp [hv]), hm.translate, ht]
  dsimp only
  rw [if_neg]
  rw [hc.get (headerHeld · q.asid w.root) fun _ _ _ _ _ => rfl, hh]
  simp

end start

section rooted
variable {task : Nat} {q : Task} {w : Walk} {s u : State} {p : Page} (hc : WalkChange s u)
  (hr : exec (.walkStart task) s = .next (walkRoot u q (takeUp w) p))
  (hp : isPoison s (frameOf p w.root) = false)
include hc hr hp

theorem walkStart_noHeader (hn : w.path = []) (h : granTag s (frameOf p w.root) ≠ 2) :
    exec (.walkStart task) s = .next (walkFails u q (takeUp w) causeProtect w.root) := by
  rw [← hc.get (granTag · _) fun _ _ _ _ _ => rfl] at h
  rw [← hc.get (isPoison · _) fun _ _ _ _ _ => rfl] at hp
  rw [hr, walkRoot_noHeader (w := takeUp w) hp hn h]
  rfl

variable (h2 : granTag s (frameOf p w.root) = 2)
include h2

theorem walkStart_published (h : 2 ≤ bits (currentWord u p (frameOf p w.root)) 45 44) :
    exec (.walkStart task) s = .next (walkDone u q.num) := by
  rw [← hc.get (granTag · _) fun _ _ _ _ _ => rfl] at h2
  rw [← hc.get (isPoison · _) fun _ _ _ _ _ => rfl] at hp
  rw [hr, walkRoot_published (w := takeUp w) hp h2 h]

variable (hs : bits (currentWord u p (frameOf p w.root)) 45 44 < 2)
include hs

theorem walkStart_foreign (hn : w.path = []) (h : bits (currentWord u p (frameOf p w.root)) 43 24 ≠ q.num) :
    exec (.walkStart task) s = .next (walkFails u q (takeUp w) causeEscape w.root) := by
  rw [← hc.get (granTag · _) fun _ _ _ _ _ => rfl] at h2
  rw [← hc.get (isPoison · _) fun _ _ _ _ _ => rfl] at hp
  rw [hr, walkRoot_foreign (w := takeUp w) hp h2 hs hn h]
  rfl

variable (ho : bits (currentWord u p (frameOf p w.root)) 43 24 = q.num)
include ho

theorem walkStart_arrives : exec (.walkStart task) s = .next (walkArrive u q (takeUp w) w.root p) := by
  rw [← hc.get (granTag · _) fun _ _ _ _ _ => rfl] at h2
  rw [← hc.get (isPoison · _) fun _ _ _ _ _ => rfl] at hp
  rw [hr, walkRoot_own (w := takeUp w) hp h2 hs ho]
  rfl

theorem walkStart_waits (hn : w.path = [])
    (h : refstsMeeting s (frameOf p w.root) (8 * bits (currentWord u p (frameOf p w.root)) 23 0) ≠ []) :
    exec (.walkStart task) s = .next u := by
  rw [← hc.get (refstsMeeting · _ _) fun _ _ _ _ _ => rfl] at h
  rw [walkStart_arrives hc hr hp h2 hs ho, walkArrive_waits (w := takeUp w) hn w.root h]

/-- A walk arrives at its root and cleans it. -/
theorem walkStart_cleans (hn : w.path = [])
    (h : refstsMeeting s (frameOf p w.root) (8 * bits (currentWord u p (frameOf p w.root)) 23 0) = [])
    (hg : granuleReady u q.asid w.root p (headerState (currentWord u p (frameOf p w.root)) 1 0) = true) :
    exec (.walkStart task) s = .next (walkClean (arrived u q w.root p) q w.root
      (bits (currentWord u p (frameOf p w.root)) 23 0) p) := by
  rw [← hc.get (refstsMeeting · _ _) fun _ _ _ _ _ => rfl] at h
  rw [walkStart_arrives hc hr hp h2 hs ho, walkArrive_cleans (w := takeUp w) hn w.root h hg]
  rfl

end rooted

/-! ### WALK_STEP (R214) -/

section step
variable {task : Nat} {q : Task} {w : Walk} {f : WalkFrame} {s : State} {p : Page} (hq : taskOf s task = some q)
  (hw : q.walks.head? = some w) (hf : w.path.head? = some f) (hk : isParked s (.walk task) = false) (he : w.ending = none)
include hq hw hf hk he

theorem exec_walkStep : exec (.walkStep task) s = .next (
    if f.next = f.obj then walkGoesClean s q f
    else if f.obj + 8 * f.len ≤ f.next then walkLeave s q w f
    else walkRead s q w f) := by
  change execWalkStep task s = _
  unfold execWalkStep
  simp only [hq, hw, hf, hk, walkOr_goes he, Bool.false_eq_true, if_false]
  split
  · rfl
  · split <;> rfl

theorem walkStep_cleans {v : State} (hn : f.next = f.obj) (ht : translate s q.asid f.obj = .ok p)
    (hl : landAll p s (objectWrites s q f.obj f.len) = (v, none)) : exec (.walkStep task) s =
      .next (modWalk (reclassAll v q f.obj f.len) q.num
        (fun x => { x with path := modifyAt x.path 0 (fun g => { g with next := f.obj + 8 }) })) := by
  rw [exec_walkStep hq hw hf hk he, if_pos hn, walkGoesClean, ht]
  exact congrArg _ (walkClean_done hl)

variable (hn : f.next ≠ f.obj)
include hn

theorem walkStep_leaves (hd : f.obj + 8 * f.len ≤ f.next) (ht : translate s q.asid f.obj = .ok p)
    (hg : granuleReady s q.asid f.obj p (headerState (currentWord s p (frameOf p f.obj)) 2 (w.scope - 1)) = true) :
    exec (.walkStep task) s = .next (if w.path.length ≤ 1 then walkDone (writeHeader s q f.obj p 2 (w.scope - 1)) q.num
      else modWalk (writeHeader s q f.obj p 2 (w.scope - 1)) q.num (fun x => { x with path := x.path.drop 1 })) := by
  rw [exec_walkStep hq hw hf hk he, if_neg hn, if_pos hd, walkLeave, ht]
  exact congrArg _ (if_pos hg)

theorem walkStep_passes (hd : f.next < f.obj + 8 * f.len) (ht : translate s q.asid f.next = .ok p)
    (hb : halfBlocks s (lineKey q.asid f.next) (accessMask f.next 8) false = false)
    (hp : isPoison s (frameOf p f.next) = false) (hg : granTag s (frameOf p f.next) ≠ 1) :
    exec (.walkStep task) s = .next (walkNext (mscFill s (lineKey q.asid f.next) p).1 q) := by
  have hm := mscChange_mscFill s (lineKey q.asid f.next) p
  rw [exec_walkStep hq hw hf hk he, if_neg hn, if_neg (by omega), walkRead, ht]
  dsimp only
  rw [if_neg (by simp [hb]), hm.get (isPoison · _) fun _ _ _ _ => rfl, if_neg (by simp [hp]),
    hm.get (granTag · _) fun _ _ _ _ => rfl, if_neg fun h => hg h.1]

end step

end Sys2Proof.Machine
end

section
/-! SUPPORT. References, publication and walks (R204, R208 to R217). -/

namespace Sys2Proof.Machine

/-- Settles O44: REFLD, REFST at its issue and at the MSC, PUB, PUBW, and the walks, each by the lemmas of its part. -/
theorem referencesAndWalks : Obligations.ReferencesAndWalks := by
  refine ⟨fun d a s v hi => ?_, fun d a scope s hi hs hl => refldAcq_arrived hi scope hs hl,
    fun s va p h8 hw hc hv hd ht => ⟨fun h => ?_, fun h1 ho hf => ?_⟩,
    fun x a s hi => ?_, fun idx w r s hw hr => ⟨refstAck_waits hw hr, fun h1 h2 h3 h4 u hl => ?_⟩,
    fun s g p => ⟨refstPlan_unaligned p, refstPlan_window p, refstPlan_mapped p, fun page h => refstRules h p⟩,
    fun h st sc => bits_headerState h, fun task n p => bits_carvedHeader p,
    fun d a scope s hi => ⟨pub_unaligned hi, pub_window hi, pub_waits hi, pub_asks hi⟩,
    fun a s hi => ⟨pubw_waits hi, pubw_done hi, fun f h => pubw_reports hi h⟩,
    fun idx r q s => walkId_assigned,
    fun task q w s p hq hw hs hk hr hv ht hh hp hn he => ?_,
    fun task q w f s hq hw hf hk he => ⟨fun p v hn ht hl => ?_, fun p hn hd ht hg => ?_, fun p => walkStep_passes hq hw hf hk he⟩,
    fun s q w cause g hc hl hq _ => walkFails_reports hc hl hq⟩
  · exact fun hb hv ha => ⟨fun b hn => refld_held hi hb hv ha hn, fun hn => refld_awaits hi hb hv ha hn,
      fun scope b hs hn => refldAcq_held hi hb hv ha scope hs hn, fun scope hs hn => refldAcq_awaits hi hb hv ha scope hs hn⟩
  · rw [judgeRefld_page h8 hw hc hv hd ht]
    exact refldPage_noReference h
  · rw [judgeRefld_page h8 hw hc hv hd ht]
    exact refldPage_poison h1 ho hf
  · intro g p asid hb i hform
    obtain ⟨scope, he, hr⟩ := refst_forms hform
    exact ⟨fun _ _ => refst_carves hi hb he hr, fun _ _ => refst_frees hi hb he hr, fun _ => refst_stores hi hb he hr,
      refst_waits hi hb he, fun _ => refst_follows hi hb he, fun _ _ _ => refst_traps hi hb he⟩
  · exact ⟨refstAck_lands hw hr h1 h2 h3 h4 hl, refstAck_stays hw hr h1 h2 h3 h4 hl⟩
  · intro a u h len key
    have hr := exec_walkStart hq hw hs hk hr hv ht hh hn he
    have hc : WalkChange s u := (walkChange_modWalk s task takeUp).read q.asid w.root
    refine ⟨walkStart_noHeader hc hr hp hn, walkStart_published hc hr hp, fun h2 hs => walkStart_foreign hc hr hp h2 hs hn,
      fun h2 hs ho => walkStart_waits hc hr hp h2 hs ho hn, fun h2 hs ho hz hg => ⟨granTag_arrived u q w.root p, arrived_takes u q w.root p,
        fun v r hl hf => ?_, fun v hl => ⟨_, ?_, rfl, (reclassed_reclassAll v q w.root len).modWalk _ _⟩⟩⟩
    · exact (walkStart_cleans hc hr hp h2 hs ho hn hz hg).trans (congrArg _ (walkClean_stays hl hf))
    · exact (walkStart_cleans hc hr hp h2 hs ho hn hz hg).trans (congrArg _ (walkClean_done hl))
  · exact ⟨_, walkStep_cleans hq hw hf hk he hn ht hl, rfl, (reclassed_reclassAll v q f.obj f.len).modWalk _ _⟩
  · exact ⟨_, walkStep_leaves hq hw hf hk he hn hd ht hg, rfl⟩

end Sys2Proof.Machine
end

section
/-! SUPPORT. A SETL whose own line unmaps itself while it is cleaned (R121, R183, R193, R285): the word of a port that it was
to settle with is gone when the settle leaves. -/

namespace Sys2Proof.Machine

/-! ### A SETL that names a hold (R193) -/

/-- Once a line has left its core and die, what follows goes on from there. -/
theorem cleanThen_of_gone {s w : State} {va : Nat} (h : lineGone s va = some w) (k : State → Res) :
    cleanThen s va k = k w := by
  unfold lineGone at h
  unfold cleanThen
  dsimp only at h ⊢
  split at h
  · next hc =>
    rw [if_pos (by rw [hc]; rfl)]
    exact congrArg k (Option.some.inj h)
  next hc =>
  rw [if_neg (by simpa using hc)]
  split at h
  · next hw =>
    rw [if_pos hw]
    exact congrArg k (Option.some.inj h)
  next hw =>
  rw [if_neg hw]
  split at h
  · next ht =>
    rw [ht]
    dsimp only
    split at h
    · next hf =>
      rw [hf]
      exact congrArg k (Option.some.inj h)
    · cases h
  · cases h

/-- No check of an offer or a settle stops an access that R182, R193 and R318 let through. -/
theorem offerTrap_none {s : State} {va n al : Nat} (h : OfferAddress s va n al) : offerTrap s va n al = none := by
  unfold offerTrap
  simp [h.aligned, h.outside, h.unwatched, h.unmapped, h.memory]

/-- A SETL that names a hold sends its settle once its line has left, with the operand as it then reads. -/
theorem exec_setl_sends {y : F2} {a : F6} {b : Opnd} {s w : State} (hi : Issues ⟨[b], none, [a.toNat], []⟩ s)
    (hy : y.toNat ∉ (me s).ypend) (ha : OfferAddress s (valS s a).toNat (settleBytes (valS s a).toNat b) 4)
    (hh : holdsEntry (me s) y = true) (hl : loadBusy (me s) (valS s a).toNat = false)
    (hr : refstOut s s.cur.1 (valS s a).toNat = false) (hc : settleCleans s y (valS s a).toNat b = true)
    (hw : lineGone s (valS s a).toNat = some w) :
    exec (.setl y a b) s = finishCtx ⟨[b], none, [a.toNat], []⟩ long (sendSettle y (valS s a).toNat b w) id := by
  have hd : declHeld (yreg (me s) y.toNat) = true := hh
  have he : exec (.setl y a b) s = execSetl y a b s := rfl
  rw [he, execSetl, issue_ready hi]
  dsimp only
  rw [if_neg (by simpa using hy), offerTrap_none ha]
  dsimp only
  rw [if_pos hd, if_neg (by simp [hl]), if_neg (by simp [hr]), if_pos hc]
  exact cleanThen_of_gone hw _

/-- What a completion leaves on its way to the mills. -/
theorem finishCtx_flights (n : Names) (len : Nat) (s : State) (f : Ctx → Ctx) :
    ∃ t, finishCtx n len s f = .next t ∧ t.flights = s.flights := by
  obtain ⟨t, ht, hq⟩ := finishCtx_quiet n len s f
  exact ⟨t, ht, hq.get State.flights⟩

/-! ### The line that holds the root of its own page tables -/

/-- An address of a page of 32 MiB whose frame is 0, where the tables of `selfMapped` lie. -/
def rootVa : Nat := 2 ^ 25

/-- The key of its line in address space 0. -/
def rootKey : Nat := lineKey 0 rootVa

/-- A task of address space 0 with a STRICT range and no REPLAY range. -/
def strictTask : Task := { (default : Task) with num := 1, ranges := [⟨0, 0, false⟩], stage := .placed }

/-- A context whose y0 holds a declined offer's hold and whose s1 has the address. -/
def settler : Ctx := { Ctx.reset with live := true, s := [(1, word rootVa)], y := [(0, replyWord 1 0 1 0)] }

/-- A line that holds a zero byte at o, dirty on task 1's account. -/
def dirtyByte (o : Nat) : Line := ⟨0, spanMask o 1, [(1, spanMask o 1)], 0, default⟩

/-- Memory in which the word at 0 is the root of address space 0: a table at 1024 whose first entry leads to the table
itself, and whose second maps `rootVa` to frame 0 as an ALIAS page. The die holds byte 1 of that line dirty, the core byte
16. Context 0 of the core stands first among the readers of port 0, where one word lies, and context 1 behind it. -/
def selfMapped : State :=
  { State.reset with
    mem := [(1, 0x04#8), (1025, 0x04#8), (1031, 0xE0#8), (1039, 0x94#8)]
    tasks := [(1, strictTask)]
    l2 := [(rootKey, dirtyByte 1)]
    cores := [(lcKey 1 0, { LCore.reset with
      ctxs := [(0, settler)], queues := [(0, [5#64])], waiters := [(0, 0), (0, 1)], l1 := [(rootKey, dirtyByte 16)] })]
    cur := (lcKey 1 0, 0) }

theorem selfMapped_issues : Issues ⟨[.s 56], none, [(1 : F6).toNat], []⟩ selfMapped :=
  ⟨by decide, by decide, by decide, by decide⟩

theorem selfMapped_address : OfferAddress selfMapped rootVa (settleBytes rootVa (.s 56)) 4 :=
  ⟨by decide, by decide, by decide, by decide, by decide⟩

/-- SETL y0, s1, port 0 cleans the line: the die's byte lands at frame 0 and takes the root from the tables, the core's byte
then has no page, and the lease ends: the context freezes and leaves the readers of its port, where the next reader's turn
has now come. -/
theorem selfMapped_hides : ∃ w, lineGone selfMapped rootVa = some w ∧ offerVal w .scalar (.s 56) = 0 := by
  have h : (lineGone selfMapped rootVa).map (offerVal · .scalar (.s 56)) = some 0 := by decide +kernel
  cases hw : lineGone selfMapped rootVa with
  | none => simp [hw] at h
  | some w =>
    rw [hw] at h
    exact ⟨w, rfl, Option.some.inj h⟩

/-- Refutes O42: its clause of SETL has the settle carry the operand as it stood before the line was cleaned, in every state.
Where cleaning the line ends the lease of its task (`selfMapped`), the context leaves the readers of its port, and the
settle carries 0 and not the word that lay there. -/
theorem not_offersAndSettlesIssue : ¬ Obligations.OffersAndSettlesIssue := by
  rintro ⟨-, -, -, h, -⟩
  obtain ⟨w, hw, hs⟩ := selfMapped_hides
  have hc : settleCleans selfMapped 0 rootVa (.s 56) = true := by decide
  obtain ⟨hsend, -⟩ := h 0 1 (.s 56) selfMapped selfMapped_issues (by decide) selfMapped_address
  obtain ⟨t, r, ht, -, hf, -, -, -, -, -, -, hd⟩ := hsend w (by decide) (by decide) (by decide) ((if_pos hc).trans hw)
  have he := exec_setl_sends selfMapped_issues (by decide) selfMapped_address (by decide) (by decide) (by decide) hc hw
  obtain ⟨u, hu, hflights⟩ := finishCtx_flights ⟨[.s 56], none, [(1 : F6).toNat], []⟩ long
    (sendSettle 0 rootVa (.s 56) w) id
  have hut : u = t := Host.Outcome.next.inj (hu.symm.trans (he.symm.trans ht))
  have hsent := List.append_cancel_left (hf.symm.trans (hut ▸ hflights))
  obtain rfl := MillReq.settle.inj (List.cons.inj hsent).1
  have hd' : offerVal w .scalar (.s 56) = offerVal selfMapped .scalar (.s 56) := Option.some.inj hd
  rw [hs] at hd'
  exact absurd hd' (by decide +kernel)

end Sys2Proof.Machine
end

section
/-! SUPPORT. What an offer computes (R184): over 64 bits where it is scalar, else lane by lane. -/

namespace Sys2Proof.Machine

/-! ### By lanes -/

/-- The lanes that an ADD, FMA, MIN or MAX of shape f32 or vector computes. -/
def offerLanes (o : Offer) (old : Vec) : LaneAcc :=
  runLanes (shapeLanes o.shape o.tag) 0#64 fun i g =>
    let e := offerLane o.op o.fm o.tag (o.r.getD i 0) (elem old o.tag i) (elem o.b o.tag i) (elem o.b2 o.tag i)
    (e.1, e.2, g)

/-- The 64 bits that a scalar one of them computes. -/
def offerScalar (o : Offer) (old : Vec) : Word :=
  wordOfInt (offer64 o.op (old.setWidth 64).toInt (o.b.setWidth 64).toInt (o.b2.setWidth 64).toInt)

/-- What an ADD, FMA, MIN or MAX leaves is what it returns. -/
theorem offerResult_arith {o : Offer} (old : Vec) (hop : o.op ∈ [OfferOp.add, .fma, .min, .max]) : offerResult o old =
    if o.shape = .scalar then ⟨(offerScalar o old).setWidth 512, (offerScalar o old).setWidth 512, true, noFlags⟩
    else ⟨vecOf o.tag (offerLanes o old).out.reverse, vecOf o.tag (offerLanes o old).out.reverse, true,
      (offerLanes o old).flags⟩ := by
  unfold offerResult offerScalar offerLanes
  simp only [List.mem_cons, List.not_mem_nil, or_false] at hop
  rcases hop with h | h | h | h <;> rw [h]

theorem offerResult_returns {o : Offer} (old : Vec) (hop : o.op ∈ [OfferOp.add, .fma, .min, .max]) :
    (offerResult o old).ret = (offerResult o old).new ∧ (offerResult o old).writes = true := by
  rw [offerResult_arith old hop]
  split
  · exact ⟨rfl, rfl⟩
  · exact ⟨rfl, rfl⟩

theorem shapeLane_fits {sh : Shape} {t : Tag} {i : Nat} (hi : i < shapeLanes sh t) : (i + 1) * width t ≤ 512 := by
  refine lane_fits ?_
  cases sh with
  | vector => exact hi
  | scalar | f32 => exact lt_of_lt_of_le hi (lanes_pos t)

/-- A lane's code fits the lane. -/
theorem offerLane_lt {t : Tag} (ht : isArith t = true) (op : OfferOp) (fm : Word) (r : Nat) {x y : Nat}
    (hx : x < 2 ^ width t) (hy : y < 2 ^ width t) (z : Nat) : (offerLane op fm t r x y z).1 < 2 ^ width t := by
  have hpick : ∀ b, (pickLane fm t b x y).1 < 2 ^ width t := fun b => by
    unfold pickLane
    dsimp only
    split
    · show (ite _ _ _) < _
      split <;> split <;> assumption
    · exact enc_lt ht _ _ _ _
  unfold offerLane
  dsimp only
  split
  · exact hpick false
  · exact hpick true
  · split
    · exact lowBits_lt _ _
    · exact enc_lt ht _ _ _ _

/-- A lane of the result is the operation's on the operands' lanes. -/
theorem elem_offerResult {o : Offer} (old : Vec) (hop : o.op ∈ [OfferOp.add, .fma, .min, .max]) (hs : o.shape ≠ .scalar)
    (ht : isArith o.tag = true) {i : Nat} (hi : i < shapeLanes o.shape o.tag) : elem (offerResult o old).new o.tag i =
      (offerLane o.op o.fm o.tag (o.r.getD i 0) (elem old o.tag i) (elem o.b o.tag i) (elem o.b2 o.tag i)).1 := by
  rw [offerResult_arith old hop, if_neg hs]
  exact lanesRes_elem_pure hi (shapeLane_fits hi) (fun _ => rfl)
    (offerLane_lt ht _ _ _ (elem_lt _ _ _) (elem_lt _ _ _) _)

theorem pickLane_int {t : Tag} (hi : isInt t = true) (fm : Word) (b : Bool) (x y : Nat) : pickLane fm t b x y =
    (if b then (if laneInt t x < laneInt t y then y else x) else (if laneInt t y < laneInt t x then y else x), noFlags) :=
  if_pos hi

theorem pickLane_float {t : Tag} (hf : isFloat t = true) (fm : Word) (b : Bool) (x y : Nat) :
    (pickLane fm t b x y).1 = (enc fm (pickVal b (val fm t x).1 (val fm t y).1) t (fmodeRM fm) 0).1 := by
  unfold pickLane
  simp [isInt_of_isFloat hf]

/-- An operation on integer lanes raises no flag. -/
theorem offerLane_int_flags {t : Tag} (hi : isInt t = true) (op : OfferOp) (fm : Word) (r x y z : Nat) :
    (offerLane op fm t r x y z).2 = noFlags := by
  unfold offerLane
  split
  · rw [pickLane_int hi]
  · rw [pickLane_int hi]
  · rw [if_pos hi]

section int
variable {t : Tag} (hi : isInt t = true) (fm : Word) (r x y z : Nat)
include hi

theorem offerLane_add_int : (offerLane .add fm t r x y z).1 = (x + y) % 2 ^ width t := by
  have h : offerLane .add fm t r x y z = (lowBits (width t) (laneInt t x + laneInt t y), noFlags) := if_pos hi
  rw [h]
  exact lowBits_add

theorem offerLane_fma_int : (offerLane .fma fm t r x y z).1 = (y * z + x) % 2 ^ width t := by
  have h : offerLane .fma fm t r x y z = (lowBits (width t) (laneInt t y * laneInt t z + laneInt t x), noFlags) :=
    if_pos hi
  rw [h]
  exact lowBits_mul_add

end int

/-- A minimum or a maximum is VMIN's or VMAX's (R141). -/
theorem offerLane_min (fm : Word) (t : Tag) (r x y z : Nat) :
    offerLane .min fm t r x y z = pickLane fm t false x y := rfl

theorem offerLane_max (fm : Word) (t : Tag) (r x y z : Nat) :
    offerLane .max fm t r x y z = pickLane fm t true x y := rfl

section float
variable {t : Tag} (hf : isFloat t = true) (fm : Word) (r x y z : Nat)
include hf

theorem offerLane_add_float : (offerLane .add fm t r x y z).1 =
    (enc fm (addVal (fmodeRM fm) (val fm t x).1 (val fm t y).1).1 t (fmodeRM fm) r).1 := by
  unfold offerLane
  simp [isInt_of_isFloat hf]

theorem offerLane_fma_float : (offerLane .fma fm t r x y z).1 =
    (enc fm (fmaVal (fmodeRM fm) (val fm t y).1 (val fm t z).1 (val fm t x).1).1 t (fmodeRM fm) r).1 := by
  unfold offerLane
  simp [isInt_of_isFloat hf]

end float

theorem pickVal_min_of_gt {n m : Bool} {p q : Rat} (h : q < p) : pickVal false (.fin n p) (.fin m q) = .fin m q := by
  simp [pickVal_min_fin, ltVal, h]

theorem pickVal_max_of_gt {n m : Bool} {p q : Rat} (h : q < p) : pickVal true (.fin n p) (.fin m q) = .fin n p := by
  simp [pickVal_max_fin, ltVal, h.not_gt, h.ne']

/-- R184 of every lane: integers modulo 2^width, floats the exact result rounded once. -/
theorem offerLanes_spec {o : Offer} (old : Vec) (hop : o.op ∈ [OfferOp.add, .fma, .min, .max]) (hs : o.shape ≠ .scalar)
    (ht : isArith o.tag = true) {i : Nat} (hi : i < shapeLanes o.shape o.tag) : OfferLanes o old i := by
  have he := elem_offerResult old hop hs ht hi
  refine ⟨fun hint => ⟨fun h => ?_, fun h => ?_, fun h => ?_, fun h => ?_, ?_⟩,
    fun hf n m l p q u hx hy hz => ⟨fun h hn => ?_, fun h hn => ?_, fun h hl => ?_, fun h hl => ?_, fun h hl => ?_, fun h hl => ?_⟩⟩
  · rw [he, h, offerLane_add_int hint]
  · rw [he, h, offerLane_fma_int hint]
  · rw [he, h, offerLane_min, pickLane_int hint]
    rfl
  · rw [he, h, offerLane_max, pickLane_int hint]
    rfl
  · rw [offerResult_arith old hop, if_neg hs]
    exact runLanes_noFlags (fun _ _ => offerLane_int_flags hint _ _ _ _ _ _) _
  all_goals unfold laneVal at hx hy hz
  · rw [he, h, offerLane_add_float hf, hx, hy, addVal_fin, if_neg hn]
  · rw [he, h, offerLane_fma_float hf, hx, hy, hz, fmaVal_fin _ _ _ _ _ _ hn]
  · rw [he, h, offerLane_min, pickLane_float hf, hx, hy, pickVal_min_of_lt _ _ _ _ hl]
  · rw [he, h, offerLane_min, pickLane_float hf, hx, hy, pickVal_min_of_gt hl]
  · rw [he, h, offerLane_max, pickLane_float hf, hx, hy, pickVal_max_of_lt _ _ _ _ hl]
  · rw [he, h, offerLane_max, pickLane_float hf, hx, hy, pickVal_max_of_gt hl]

/-! ### Over 64 bits -/

/-- A scalar operation of the four is that of R184 on the operands as integers. -/
theorem offerResult_scalar {o : Offer} (old : Vec) (hop : o.op ∈ [OfferOp.add, .fma, .min, .max]) (hs : o.shape = .scalar) :
    (offerResult o old).new.setWidth 64 = BitVec.ofInt 64
      (offer64 o.op (old.setWidth 64).toInt (o.b.setWidth 64).toInt (o.b2.setWidth 64).toInt) := by
  rw [offerResult_arith old hop, if_pos hs, BitVec.setWidth_setWidth_of_le _ (by decide), BitVec.setWidth_eq]
  rfl

/-- A choice by the order of two words as integers. -/
theorem ofInt_ite_slt (a b x y : Word) : BitVec.ofInt 64 (if a.toInt < b.toInt then x.toInt else y.toInt) =
    if a.slt b then x else y := by
  rw [BitVec.slt]
  by_cases h : a.toInt < b.toInt <;> simp [h]

/-- What the four operations that compute no sum leave and return (R184). -/
theorem offerResult_plain (old : Vec) (o : Offer) : let r := offerResult o old
    (o.op = .xchg → r.new = o.b ∧ r.ret = old ∧ r.writes = true) ∧
    (o.op = .cas → r.ret = old ∧ r.writes = decide (old = o.b) ∧ (old = o.b → r.new = o.b2)) ∧
    (o.op = .and → r.new = old &&& o.b ∧ r.ret = r.new ∧ r.writes = true) ∧
    (o.op = .or → r.new = old ||| o.b ∧ r.ret = r.new ∧ r.writes = true) := by
  unfold offerResult
  refine ⟨fun h => ?_, fun h => ?_, fun h => ?_, fun h => ?_⟩
  · rw [h]
    exact ⟨rfl, rfl, rfl⟩
  · rw [h]
    by_cases he : old = o.b
    · simp [he]
    · simp [he]
  · rw [h]
    exact ⟨rfl, rfl, rfl⟩
  · rw [h]
    exact ⟨rfl, rfl, rfl⟩

section scalar
variable {o : Offer} (old : Vec) (hs : o.shape = .scalar)
include hs

theorem offer_add_scalar (h : o.op = .add) :
    (offerResult o old).new.setWidth 64 = old.setWidth 64 + o.b.setWidth 64 := by
  rw [offerResult_scalar old (by simp [h]) hs, h, offer64, BitVec.ofInt_add, BitVec.ofInt_toInt, BitVec.ofInt_toInt]

theorem offer_fma_scalar (h : o.op = .fma) :
    (offerResult o old).new.setWidth 64 = o.b.setWidth 64 * o.b2.setWidth 64 + old.setWidth 64 := by
  rw [offerResult_scalar old (by simp [h]) hs, h, offer64, BitVec.ofInt_add, BitVec.ofInt_mul, BitVec.ofInt_toInt,
    BitVec.ofInt_toInt, BitVec.ofInt_toInt]

theorem offer_min_scalar (h : o.op = .min) : (offerResult o old).new.setWidth 64 =
    if (o.b.setWidth 64).slt (old.setWidth 64) then o.b.setWidth 64 else old.setWidth 64 := by
  rw [offerResult_scalar old (by simp [h]) hs, h, offer64, ofInt_ite_slt]

theorem offer_max_scalar (h : o.op = .max) : (offerResult o old).new.setWidth 64 =
    if (old.setWidth 64).slt (o.b.setWidth 64) then o.b.setWidth 64 else old.setWidth 64 := by
  rw [offerResult_scalar old (by simp [h]) hs, h, offer64, ofInt_ite_slt]

end scalar

end Sys2Proof.Machine
end

section
/-! SUPPORT. Offers arrive at their mills, replies land, and holds end (R179, R189, R192, R193, R195, R200). -/

namespace Sys2Proof.Machine

/-! ### Arrivals (R179, R188, R195) -/

theorem sameMills_modMill (s : State) (m : Nat) (f : Mill → Mill) : SameMills s (modMill s m f) m := fun k hk => by
  rw [millOf_modMill, if_neg hk]

theorem millOf_modMill_same (s : State) (m : Nat) (f : Mill → Mill) : millOf (modMill s m f) m = f (millOf s m) := by
  rw [millOf_modMill, if_pos rfl]

/-- A mill whose queue has accepted an offer in a mill cycle. -/
def accepting (o : Offer) (now : Nat) (q : Mill) : Mill :=
  { q with arrivals := q.arrivals + 1, accepted := some now, queue := q.queue ++ [{ o with turn := q.arrivals + 1 }] }

/-- The place among the arrivals of a priority offer: 0 behind a hold on its line. -/
def slotTurn (o : Offer) (q : Mill) : Nat := if (holdOn q (offerKey o)).isSome then 0 else q.arrivals + 1

/-- A mill with one more offer in its slots. -/
def slotted (o : Offer) (q : Mill) : Mill :=
  { q with arrivals := q.arrivals + 1, slots := q.slots ++ [{ o with turn := slotTurn o q }] }

section arrival
variable {idx : Nat} {o : Offer} {s : State} (hf : s.flights[idx]? = some (.offer o)) (ht : inTurn s idx (.offer o) = true)
include hf ht

theorem exec_offerArrival (hp : o.prio = false) : exec (.offerArrival idx) s =
    if 32 ≤ (millOf s (homeMill s o.addr o.asid)).queue.length then .next (sendReply (landed s idx) (bareReply o 1 1))
    else if (millOf s (homeMill s o.addr o.asid)).accepted = some (millCycle s) then .next s
    else .next (modMill (landed s idx) (homeMill s o.addr o.asid) (accepting o (millCycle s))) := by
  have he : exec (.offerArrival idx) s = execOfferArrival idx s := rfl
  rw [he, execOfferArrival, hf]
  dsimp only
  rw [if_neg (by simp [hp, ht])]
  exact if_congr Iff.rfl rfl (if_congr beq_iff_eq rfl rfl)

/-- An offer enters its mill's queue, once in a mill cycle. -/
theorem offerArrival_enters (hp : o.prio = false) (hq : (millOf s (homeMill s o.addr o.asid)).queue.length < 32)
    (ha : (millOf s (homeMill s o.addr o.asid)).accepted ≠ some (millCycle s)) :
    ∃ t, exec (.offerArrival idx) s = .next t ∧
      (millOf t (homeMill s o.addr o.asid)).accepted = some (millCycle t) ∧ t.flights = s.flights.eraseIdx idx ∧
      (millOf t (homeMill s o.addr o.asid)).queue = (millOf s (homeMill s o.addr o.asid)).queue ++
        [{ o with turn := (millOf s (homeMill s o.addr o.asid)).arrivals + 1 }] ∧
      SameMills s t (homeMill s o.addr o.asid) ∧ t.cores = s.cores := by
  refine ⟨_, (exec_offerArrival hf ht hp).trans ((if_neg (by omega)).trans (if_neg ha)), ?_, rfl, ?_,
    sameMills_modMill (landed s idx) _ _, rfl⟩
  · rw [millOf_modMill_same]
    rfl
  · rw [millOf_modMill_same]
    rfl

theorem exec_priorityOfferArrival (hp : o.prio = true) (hl : (millOf s (homeMill s o.addr o.asid)).slots.length < 4)
    (hq : ownQueued s (homeMill s o.addr o.asid) o = false) : exec (.priorityOfferArrival idx) s =
    .next (modMill (landed s idx) (homeMill s o.addr o.asid) (slotted o)) := by
  have he : exec (.priorityOfferArrival idx) s = execPriorityOfferArrival idx s := rfl
  rw [he, execPriorityOfferArrival, hf]
  dsimp only
  rw [if_neg (by simp [hp, ht, hq, hl])]
  rfl

/-- A priority offer enters a slot, to be taken first where a hold lies on its line. -/
theorem priorityOfferArrival_enters (hp : o.prio = true) (hl : (millOf s (homeMill s o.addr o.asid)).slots.length < 4)
    (hq : ownQueued s (homeMill s o.addr o.asid) o = false) : ∃ t n, exec (.priorityOfferArrival idx) s = .next t ∧
      t.flights = s.flights.eraseIdx idx ∧
      (millOf t (homeMill s o.addr o.asid)).slots = (millOf s (homeMill s o.addr o.asid)).slots ++ [{ o with turn := n }] ∧
      SameMills s t (homeMill s o.addr o.asid) ∧ t.cores = s.cores ∧
      ((holdOn (millOf s (homeMill s o.addr o.asid)) (offerKey o)).isSome = true → n = 0) ∧
      (holdOn (millOf s (homeMill s o.addr o.asid)) (offerKey o) = none →
        n = (millOf s (homeMill s o.addr o.asid)).arrivals + 1) := by
  refine ⟨_, slotTurn o (millOf s (homeMill s o.addr o.asid)), exec_priorityOfferArrival hf ht hp hl hq, rfl, ?_,
    sameMills_modMill (landed s idx) _ _, rfl, fun h => if_pos h, fun h => if_neg (by simp [h])⟩
  rw [millOf_modMill_same]
  rfl

end arrival

/-! ### Replies (R185, R189, R193, R200) -/

theorem yreg_setYreg (x : Ctx) (n k : Nat) (w : Word) : yreg (setYreg x n w) k = if k = n then w else yreg x k :=
  getD_setD _ _ _ _ _

/-- What a reply to an offer lands is no reply register's. -/
theorem landOffer_y (x : Ctx) (r : Reply) : (landOffer x r).y = x.y := by
  have hu : ∀ n, (unpendScalar x n).y = x.y := fun n => by
    unfold unpendScalar
    rfl
  have hs : ∀ (z : Ctx) n w, (setSreg z n w).y = z.y := fun z n w => by
    unfold setSreg
    split <;> rfl
  unfold landOffer
  split
  · dsimp only
    split <;> rfl
  · dsimp only
    split
    · rw [hs, hu]
    · exact hu _
  · dsimp only
    split
    · rw [hs, hu]
    · exact hu _

theorem countLost_y (x : Ctx) (a : Word) : (countLost x a).y = x.y := by
  unfold countLost
  dsimp only
  split <;> rfl

/-- A reply of either kind writes the reply register it names. -/
theorem yreg_landReply (x : Ctx) (r : Reply) :
    yreg (landReply x r) r.y = replyWord r.kind r.reason r.hold r.mill := by
  have hy : ∀ z : Ctx, z.y = (setYreg x r.y (replyWord r.kind r.reason r.hold r.mill)).y →
      yreg z r.y = replyWord r.kind r.reason r.hold r.mill := fun z hz => by
    rw [yreg, hz, ← yreg, yreg_setYreg, if_pos rfl]
  refine hy _ ?_
  unfold landReply
  dsimp only
  have hz : ∀ z : Ctx, (if r.settle = true then z else landOffer z r).y = z.y := fun z => by
    split
    · rfl
    · exact landOffer_y z r
  split
  · exact hz _
  · split
    · rw [countLost_y]
      exact hz _
    · exact hz _

/-- The LOST that answers an RLS counts for nothing (R194). -/
theorem landReply_ofrst {x : Ctx} {r : Reply} (hr : r.release = true) (hs : r.settle = true) (hk : r.kind = 3) :
    (landReply x r).ofrst = x.ofrst := by
  unfold landReply
  dsimp only
  rw [if_neg (by rw [hk]; decide), if_neg (by simp [lostSettle, hr]), if_pos hs]
  rfl

/-- A reply has left those on their way. -/
def withoutReply (s : State) (idx : Nat) : State := { s with replies := s.replies.eraseIdx idx }

/-- A reply lands in the context it is for, and in no other. -/
theorem reply_lands {idx : Nat} {r : Reply} {s : State} (hr : s.replies[idx]? = some r)
    (hs : (standsOn s r.lc).isSome = true) (hl : (ctxOf s r.lc r.ctx).live = true) :
    ∃ t, exec (if r.settle then .settleReply idx else .offerReply idx) s = .next t ∧
      t.replies = s.replies.eraseIdx idx ∧
      ∀ lc c, ctxOf t lc c = if lc = r.lc ∧ c = r.ctx then landReply (ctxOf s r.lc r.ctx) r else ctxOf s lc c := by
  have he : exec (if r.settle then .settleReply idx else .offerReply idx) s = replyLands r.settle idx s := by
    cases r.settle <;> rfl
  have hc : ∀ lc c, ctxOf (modCtx (withoutReply s idx) r.lc r.ctx fun x => landReply x r) lc c =
      if lc = r.lc ∧ c = r.ctx then landReply (ctxOf s r.lc r.ctx) r else ctxOf s lc c := fun lc c => by
    rw [ctxOf_modCtx]
    rfl
  have hl' : (ctxOf (withoutReply s idx) r.lc r.ctx).live = true := hl
  rw [he, replyLands, hr]
  dsimp only
  rw [← withoutReply, if_pos ⟨rfl, hs⟩, if_pos hl']
  cases replyEvent r with
  | none => exact ⟨_, rfl, rfl, hc⟩
  | some e =>
    have hk := countAt_counted (modCtx (withoutReply s idx) r.lc r.ctx fun x => landReply x r) r.lc e 1
    exact ⟨_, rfl, hk.quiet.get State.replies, fun lc c => (hk.ctxOf lc c).trans (hc lc c)⟩

/-! ### Holds end by time and sleep (R192) -/

theorem look_filter_key {α : Type} (m : Sparse α) (e : Nat) : look (m.filter fun x => !(x.1 == e)) e = none :=
  look_erase_same m e

/-- An ended hold is gone. -/
theorem dropHold_holds (s : State) (m e reason : Nat) : look (millOf (dropHold s m e reason) m).holds e = none := by
  rw [dropHold, endHoldsAt, millOf_modMill_same]
  exact look_filter_key _ e

theorem sameMills_dropHold (s : State) (m e reason : Nat) : SameMills s (dropHold s m e reason) m :=
  sameMills_modMill s m _

/-- One reason written for every entry of a list. -/
theorem getD_foldl_put_same {α : Type} (f : α → Nat) (v : Nat) (l : List α) (m : Sparse Nat) {x : α}
    (h : x ∈ l ∨ getD 0 m (f x) = v) : getD 0 (l.foldl (fun r e => put r (f e) v) m) (f x) = v := by
  induction l generalizing m with
  | nil => exact h.resolve_left (by simp)
  | cons a l ih =>
    refine ih _ ?_
    by_cases hx : f x = f a
    · exact .inr (by rw [getD, look_put, if_pos hx]; rfl)
    · refine h.imp (fun hm => (List.mem_cons.mp hm).resolve_left fun e => hx (congrArg f e)) fun hv => ?_
      rw [getD, look_put, if_neg hx]
      exact hv

/-- An ended hold leaves word of how it ended (R186). -/
theorem dropHold_ended {s : State} {m e : Nat} {h : Hold} (hh : look (millOf s m).holds e = some h) (reason : Nat) :
    getD 0 (millOf (dropHold s m e reason) m).ended (ownerKey h.lc h.ctx h.y) = reason := by
  rw [dropHold, endHoldsAt, millOf_modMill_same]
  exact getD_foldl_put_same (fun x : Nat × Hold => ownerKey x.2.lc x.2.ctx x.2.y) reason _ _ (x := (e, h))
    (.inl (List.mem_filter.mpr ⟨mem_of_look hh, by simp⟩))

theorem exec_holdAgeExpiry {m e : Nat} {h : Hold} {s : State} (hh : look (millOf s m).holds e = some h)
    (ha : h.since + (if h.prio then 4096 else 1024) ≤ millCycle s) :
    exec (.holdAgeExpiry m e) s = .next (dropHold s m e 13) := by
  have he : exec (.holdAgeExpiry m e) s = execHoldAgeExpiry m e s := rfl
  rw [he, execHoldAgeExpiry, hh]
  exact if_pos (decide_eq_true ha)

section slice
variable {k : Nat} {s : State} (hp : prioHoldLives s k = false)
include hp

theorem exec_sliceRetentionEntry (ha : (stackOf s k).asleep = false) (hk : (stackOf s k).skipped = false) :
    exec (.sliceRetentionEntry k) s = .next (modStack ((millsOf k).foldl (fun t m => endHoldsAt t m (fun _ _ => true) 12) s) k
      fun q => { q with asleep := true }) := by
  have he : exec (.sliceRetentionEntry k) s = execSliceRetentionEntry k s := rfl
  rw [he, execSliceRetentionEntry, if_neg (by simp [ha, hk, hp])]

theorem exec_sliceWake (ha : (stackOf s k).asleep = true) :
    exec (.sliceWake k) s = .next (modStack ((millsOf k).foldl (fun t m => endHoldsAt t m (fun _ h => h.reason == 9) 12) s) k
      fun q => { q with asleep := false }) := by
  have he : exec (.sliceWake k) s = execSliceWake k s := rfl
  rw [he, execSliceWake, if_neg (by simp [ha, hp])]

/-- A slice that sleeps has ended every hold. -/
theorem sliceRetentionEntry_ends (ha : (stackOf s k).asleep = false) (hk : (stackOf s k).skipped = false) :
    ∃ t, exec (.sliceRetentionEntry k) s = .next t ∧ (stackOf t k).asleep = true ∧
      ∀ m ∈ millsOf k, (millOf t m).holds = [] := by
  refine ⟨_, exec_sliceRetentionEntry hp ha hk, by rw [stackOf_modStack, if_pos rfl], fun m hm => ?_⟩
  refine (foldl_endHoldsAt_holds (fun _ _ => true) 12 (millsOf k) s m).trans ?_
  rw [if_pos hm]
  simp

/-- A slice that wakes has ended the holds that its sleep had installed. -/
theorem sliceWake_ends (ha : (stackOf s k).asleep = true) :
    ∃ t, exec (.sliceWake k) s = .next t ∧ (stackOf t k).asleep = false ∧
      ∀ m ∈ millsOf k, ∀ e ∈ (millOf t m).holds, e.2.reason ≠ 9 := by
  refine ⟨_, exec_sliceWake hp ha, by rw [stackOf_modStack, if_pos rfl], fun m hm e he => ?_⟩
  have h := (foldl_endHoldsAt_holds (fun _ h => h.reason == 9) 12 (millsOf k) s m).trans (if_pos hm)
  have hm := List.mem_filter.mp (h ▸ he : e ∈ (millOf s m).holds.filter fun e => !(e.2.reason == 9))
  simpa using hm.2

end slice

end Sys2Proof.Machine
end

section
/-! SUPPORT. How a mill judges an offer (R188, R190, R191, R195, R206): the faults in their order, then the reasons of the
table. -/

namespace Sys2Proof.Machine

/-! ### Lists of checks -/

theorem firstSome_none {α β : Type} {f : α → Option β} {l : List α} (h : ∀ a ∈ l, f a = none) : firstSome f l = none := by
  induction l with
  | nil => rfl
  | cons x l ih =>
    rw [firstSome, h x List.mem_cons_self]
    exact ih fun a ha => h a (List.mem_cons_of_mem _ ha)

theorem firstSome_answers {α β : Type} {f : α → Option β} {l : List α} {a : α} (ha : a ∈ l) {b : β} (h : f a = some b) :
    ∃ c, firstSome f l = some c := by
  cases hf : firstSome f l with
  | some c => exact ⟨c, rfl⟩
  | none =>
    induction l with
    | nil => simp at ha
    | cons x l ih =>
      rw [firstSome] at hf
      split at hf
      · cases hf
      · next hx =>
        rcases List.mem_cons.mp ha with rfl | hm
        · rw [h] at hx
          cases hx
        · exact ih hm hf

/-- The code of the first condition of a table that holds. -/
def firstCode (l : List (Nat × Bool)) : Option Nat := (l.find? (·.2)).map (·.1)

theorem firstCode_cons (c : Nat) (b : Bool) (l : List (Nat × Bool)) :
    firstCode ((c, b) :: l) = if b = true then some c else firstCode l := by
  cases b <;> rfl

theorem declineReason_eq (s : State) (m : Nat) (o : Offer) (p : Page) :
    declineReason s m o p = firstCode (declineTable s m o p) := by
  unfold declineReason declineTable
  simp only [firstCode_cons, Bool.and_eq_true, Bool.or_eq_true, bne_iff_ne, beq_iff_eq, and_assoc]
  rfl

/-! ### Granules of an offer (R206) -/

section granule
variable (s : State) (p : Page) (g : Nat)

theorem readOnlyGranule_offer : readOnlyGranule s p g = true ↔
    granTag s (frameOf p g) = 1 ∨ granTag s (frameOf p g) = 2 ∨ InObject s p g (fun b => b.state = 3) := by
  rw [readOnlyGranule_iff]
  have hi : InObject s p g (fun b => b.state = 3) ↔
      ∃ o, p.attr ≠ attrPlain ∧ objectOf s p (frameOf p g) = some o ∧ o.state = objFrozen :=
    ⟨fun ⟨ha, o, h⟩ => ⟨o, ha, h⟩, fun ⟨o, ha, h⟩ => ⟨ha, o, h⟩⟩
  rw [hi, or_left_comm]
  rfl

/-- g lies in a PRIVATE or PUBLISHING object of another task. -/
def OffersForeign (task : Nat) : Prop := InObject s p g fun b => (b.state = 0 ∨ b.state = 1) ∧ b.owner ≠ task

/-- g lies in an object that the task is publishing. -/
def OffersOwn (task : Nat) : Prop := InObject s p g fun b => b.state = 1 ∧ b.owner = task

/-- The owner rule of a write: another task's object refuses, one that the task publishes makes it wait. -/
theorem ownerRule_write (task : Nat) :
    (ownerRule s task p true g = none ∧ ¬ OffersForeign s p g task ∧ ¬ OffersOwn s p g task) ∨
    ((∃ c a d, ownerRule s task p true g = some (.trap c a d)) ∧ OffersForeign s p g task) ∨
    (ownerRule s task p true g = some .waits ∧ OffersOwn s p g task) := by
  unfold OffersForeign OffersOwn InObject
  by_cases ha : p.attr = attrPlain
  · exact .inl ⟨if_pos ha, fun h => h.1 ha, fun h => h.1 ha⟩
  rw [ownerRule, if_neg ha]
  cases ho : objectOf s p (frameOf p g) with
  | none => simp
  | some b =>
    by_cases h0 : b.state = 0
    · by_cases hw : b.owner = task
      · simp [h0, hw, objPrivate]
      · simp [h0, hw, ha, objPrivate]
    · by_cases h1 : b.state = 1
      · by_cases hw : b.owner = task
        · simp [h1, hw, ha, objPrivate, objPublishing]
        · simp [h1, hw, ha, objPrivate, objPublishing]
      · simp [h0, h1, objPrivate, objPublishing]

theorem isPoison_iff : isPoison s (frameOf p g) = true ↔
    granTag s (frameOf p g) = 3 ∨ isFaulty s (frameOf p g) = true := by
  simp [isPoison, tagPoison]

end granule

/-! ### An offer whose page is known -/

section judged
variable {s : State} {m : Nat} {o : Offer} (hk : isParked s (.offer o.lc o.ctx o.y) = false)
  (hb : takenBefore s m o = false)
include hk hb

theorem answerOffer_noncanonical (hc : canonicalVa o.addr = false) : answerOffer s m o = .faults 33 := by
  rw [answerOffer, if_neg (by simp [hk, hb]), if_pos (by simp [hc])]

theorem answerOffer_untranslated (hc : canonicalVa o.addr = true) {e : Word} (ht : translate s o.asid o.addr = .fail e) :
    answerOffer s m o = if leaseEnds s o.task o.addr then .lease else .parks e := by
  rw [answerOffer, if_neg (by simp [hk, hb]), if_neg (by simp [hc]), ht]

section page
variable (hc : canonicalVa o.addr = true) {p : Page} (ht : translate s o.asid o.addr = .ok p)
include hc ht

/-- What the page and the granules do not let the offer write (R190). -/
theorem answerOffer_denied (h : p.w = false ∨ p.attr = attrFrozen ∨
    ∃ g ∈ granulesOf o.addr (shapeBytes o.shape), readOnlyGranule s p g = true) : answerOffer s m o = .faults 33 := by
  rw [answerOffer, if_neg (by simp [hk, hb]), if_neg (by simp [hc]), ht]
  dsimp only
  rw [if_pos]
  simp only [Bool.or_eq_true, Bool.not_eq_true', beq_iff_eq, List.any_eq_true, or_assoc]
  exact h

/-- A writable page whose granules are no headers, references or parts of a frozen object. -/
def Writable (s : State) (o : Offer) (p : Page) : Prop :=
  p.w = true ∧ p.attr ≠ attrFrozen ∧ ∀ g ∈ granulesOf o.addr (shapeBytes o.shape), readOnlyGranule s p g = false

theorem answerOffer_owned (h : Writable s o p) {v : Verdict}
    (hv : firstSome (ownerRule s o.task p true) (granulesOf o.addr (shapeBytes o.shape)) = some v) :
    answerOffer s m o = if v = .waits then .waits else .faults 34 := by
  obtain ⟨hw, ha, hg⟩ := h
  rw [answerOffer, if_neg (by simp [hk, hb]), if_neg (by simp [hc]), ht]
  dsimp only
  rw [if_neg (by simpa [hw, ha] using hg), hv]
  cases v <;> rfl

/-- No granule lies in an object of another task or in one that the task is publishing. -/
def Unowned (s : State) (o : Offer) (p : Page) : Prop :=
  ∀ g ∈ granulesOf o.addr (shapeBytes o.shape), ¬ OffersForeign s p g o.task ∧ ¬ OffersOwn s p g o.task

theorem answerOffer_unowned (h : Writable s o p) (hu : Unowned s o p) : answerOffer s m o =
    if (granulesOf o.addr (shapeBytes o.shape)).any (fun g => isPoison s (frameOf p g)) then .faults 35
    else answerOnPage s m o p := by
  obtain ⟨hw, ha, hg⟩ := h
  have hn : firstSome (ownerRule s o.task p true) (granulesOf o.addr (shapeBytes o.shape)) = none :=
    firstSome_none fun g hm => by
      obtain ⟨h, -, -⟩ | ⟨-, h⟩ | ⟨-, h⟩ := ownerRule_write s p g o.task
      · exact h
      · exact absurd h (hu g hm).1
      · exact absurd h (hu g hm).2
  rw [answerOffer, if_neg (by simp [hk, hb]), if_neg (by simp [hc]), ht]
  dsimp only
  rw [if_neg (by simpa [hw, ha] using hg), hn]

theorem answerOffer_foreign (h : Writable s o p) {g : Nat} (hg : g ∈ granulesOf o.addr (shapeBytes o.shape))
    (hf : OffersForeign s p g o.task)
    (hn : ∀ g ∈ granulesOf o.addr (shapeBytes o.shape), ¬ OffersOwn s p g o.task) : answerOffer s m o = .faults 34 := by
  have hv : ∃ v, ownerRule s o.task p true g = some v := by
    obtain ⟨-, h, -⟩ | ⟨⟨c, a, d, h⟩, -⟩ | ⟨h, -⟩ := ownerRule_write s p g o.task
    · exact absurd hf h
    · exact ⟨_, h⟩
    · exact ⟨_, h⟩
  obtain ⟨v, hv⟩ := hv
  obtain ⟨w, hw⟩ := firstSome_answers hg hv
  rw [answerOffer_owned hk hb hc ht h hw, if_neg]
  rintro rfl
  obtain ⟨a, ha, hfa⟩ := firstSome_some hw
  obtain ⟨h, -, -⟩ | ⟨⟨c, b, d, h⟩, -⟩ | ⟨-, h⟩ := ownerRule_write s p a o.task
  · rw [h] at hfa
    cases hfa
  · rw [h] at hfa
    cases hfa
  · exact hn a ha h

theorem answerOffer_publishing (h : Writable s o p) {g : Nat} (hg : g ∈ granulesOf o.addr (shapeBytes o.shape))
    (hf : OffersOwn s p g o.task)
    (hn : ∀ g ∈ granulesOf o.addr (shapeBytes o.shape), ¬ OffersForeign s p g o.task) : answerOffer s m o = .waits := by
  have hv : ∃ v, ownerRule s o.task p true g = some v := by
    obtain ⟨-, -, h⟩ | ⟨⟨c, a, d, h⟩, -⟩ | ⟨h, -⟩ := ownerRule_write s p g o.task
    · exact absurd hf h
    · exact ⟨_, h⟩
    · exact ⟨_, h⟩
  obtain ⟨v, hv⟩ := hv
  obtain ⟨w, hw⟩ := firstSome_answers hg hv
  rw [answerOffer_owned hk hb hc ht h hw, if_pos]
  obtain ⟨a, ha, hfa⟩ := firstSome_some hw
  obtain ⟨h, -, -⟩ | ⟨-, h⟩ | ⟨h, -⟩ := ownerRule_write s p a o.task
  · rw [h] at hfa
    cases hfa
  · exact absurd h (hn a ha)
  · exact (Option.some.inj (h.symm.trans hfa)).symm

end page

end judged

/-! ### The reasons of the table (R188) -/

section reasons
variable {s : State} {m : Nat} {o : Offer} (p : Page)

theorem answerOnPage_held {e : Nat × Hold} (h : holdOn (millOf s m) (offerKey o) = some e) :
    answerOnPage s m o p = if o.prio || e.2.prio then .waits else .declines 4 := by
  rw [answerOnPage, h]

variable (hn : holdOn (millOf s m) (offerKey o) = none)
include hn

theorem answerOnPage_full (ht : tableFull (millOf s m) = true) (hp : o.prio = false) : answerOnPage s m o p = .declines 1 := by
  rw [answerOnPage, hn]
  exact if_pos (by simp [ht, hp])

variable (ht : tableFull (millOf s m) = false)
include ht

theorem answerOnPage_declines {r : Nat × Bool} (hr : (declineTable s m o p).find? (·.2) = some r)
    (hh : halfBlocks s (offerKey o) (accessMask o.addr (shapeBytes o.shape)) false = false) :
    answerOnPage s m o p = .holds r.1 p := by
  have hd : declineReason s m o p = some r.1 := (declineReason_eq s m o p).trans (congrArg (Option.map _) hr)
  rw [answerOnPage, hn]
  dsimp only
  rw [if_neg (by simp [ht]), hd]
  exact if_neg (by simp [ht, hh])

theorem answerOnPage_executes (hr : (declineTable s m o p).find? (·.2) = none) (hc : p.cmp = false) :
    answerOnPage s m o p = .executes p := by
  have hd : declineReason s m o p = none := (declineReason_eq s m o p).trans (congrArg (Option.map _) hr)
  rw [answerOnPage, hn]
  dsimp only
  rw [if_neg (by simp [ht]), hd]
  exact if_neg (by simp [cmpRoom, hc])

end reasons

/-- What a mill finds of an offer that waits behind no other and whose page is known (R188, R190, R191, R195). -/
theorem offerJudged {s : State} {m : Nat} {o : Offer} (hk : isParked s (.offer o.lc o.ctx o.y) = false)
    (hb : takenBefore s m o = false) (hc : canonicalVa o.addr = true) {p : Page} (ht : translate s o.asid o.addr = .ok p) :
    OfferJudged s m o p := by
  refine ⟨fun g h => answerOffer_denied hk hb hc ht ?_, fun hw ha hg => ?_⟩
  · rcases h with h | h | ⟨hm, h⟩
    · exact .inl h
    · exact .inr (.inl h)
    · exact .inr (.inr ⟨g, hm, (readOnlyGranule_offer s p g).mpr h⟩)
  · have hwr : Writable s o p := ⟨hw, ha, fun g hm => by
      obtain ⟨h1, h2, h3⟩ := hg g hm
      exact Bool.eq_false_iff.mpr fun h => by simpa [h1, h2, h3] using (readOnlyGranule_offer s p g).mp h⟩
    refine ⟨fun ⟨g, hm, hf⟩ hn => answerOffer_foreign hk hb hc ht hwr hm hf hn,
      fun ⟨g, hm, hf⟩ hn => answerOffer_publishing hk hb hc ht hwr hm hf hn, fun hu => ?_⟩
    rw [answerOffer_unowned hk hb hc ht hwr hu]
    refine ⟨fun ⟨g, hm, hp⟩ => if_pos (List.any_eq_true.mpr ⟨g, hm, (isPoison_iff s p g).mpr hp⟩), fun hp => ?_⟩
    rw [if_neg fun h => ?_]
    · exact ⟨fun e he => answerOnPage_held p he, fun hn => ⟨answerOnPage_full p hn,
        fun hf => ⟨fun r hr hh => answerOnPage_declines p hn hf hr hh, answerOnPage_executes p hn hf⟩⟩⟩
    · obtain ⟨g, hm, h⟩ := List.any_eq_true.mp h
      obtain ⟨h3, hf⟩ := hp g hm
      exact ((isPoison_iff s p g).mp h).elim h3 (by simp [hf])

theorem shapeAgrees_iff (h b : Shape) :
    shapeAgrees h b = true ↔ (h = .scalar → b = .scalar) ∧ (h = .vector → b = .vector) := by
  cases h <;> simp [shapeAgrees]

end Sys2Proof.Machine
end

section
/-! SUPPORT. What an offer or a settle leaves of its line at the point of coherence, and of the copies that its core and die
hold (R193, R199, R258, R331). -/

namespace Sys2Proof.Machine

/-! ### Writes that may go through to the frame (R193, R331) -/

theorem lineTakes_through {s : State} {key : Nat} {p : Page} {through : Bool} (h : p.aliased = true ∨ through = true)
    (d : BitVec 1024) (m : BitVec 128) : LineTakes s (frameWrite s key p d m) key p through d m :=
  ⟨fun ha ht => by simp [ha, ht] at h, fun _ => ⟨pageLine_frameWrite s key p d m, fun _ hl ha => look_frameWrite hl ha d m⟩⟩

theorem lineTakes_pocWriteVia (through : Bool) (s : State) (key : Nat) (p : Page) (d : BitVec 1024) {m : BitVec 128}
    (hm : m ≠ 0) (task : Nat) (but : Option Nat) :
    LineTakes s (pocWriteVia through s key p d m task but) key p through d m := by
  have h1 := (sameMap_logWrite s key p m task).trans (sameMap_cmpReserve (logWrite s key p m task) p (frameOf p (keyVa key))
    (mergeLine (pocLine s key p) d m))
  have h2 : ∀ t : State, SameMap t (endLineHolds (tagWrite (heatWrite t (frameOf p (keyVa key))) (frameOf p (keyVa key)) m)
      key 10 but) := fun t =>
    ((sameMap_heatWrite t _).trans (sameMap_tagWrite _ _ _)).trans (sameMap_endHoldsAt _ _ _ _)
  unfold pocWriteVia
  dsimp only
  rw [if_neg hm]
  cases hp : p.aliased with
  | true => exact (lineTakes_through (.inl hp) d m).congr h1.symm (h2 _)
  | false =>
    cases ht : through with
    | true => exact (lineTakes_through (.inr rfl) d m).congr h1.symm (h2 _)
    | false => exact (lineTakes_mscStore _ key hp d m).congr h1.symm (h2 _)

theorem accessMask_shape_ne (va : Nat) (sh : Shape) : accessMask va (shapeBytes sh) ≠ 0 := fun h => by
  have hi : va % 128 < 128 := Nat.mod_lt _ (by decide)
  have hn : 0 < shapeBytes sh := by cases sh <;> decide
  have := (inMask_spanMask_iff (o := va % 128) (n := shapeBytes sh) hi).mpr (by omega)
  rw [← accessMask, h] at this
  simp [inMask] at this

/-! ### The operand that is read (R330, R331) -/

/-- The read of an operand changes the MSC and the heat alone. -/
theorem readOperand_eq (s : State) (m : Nat) (o : Offer) (p : Page) : ∃ g h,
    readOperand s m o p = { s with gens := g, heat := h, msc := (readOperand s m o p).msc } := by
  unfold readOperand
  split
  · obtain ⟨g, h, e⟩ := heatLookup_eq s o.asid o.addr
    rw [e]
    exact ⟨_, _, rfl⟩
  · exact mscFill_eq s _ p

theorem sameMap_heatLookup (s : State) (asid va : Nat) : SameMap s (heatLookup s asid va) := by
  obtain ⟨g, h, e⟩ := heatLookup_eq s asid va
  rw [e]
  exact ⟨rfl, rfl, rfl, rfl, rfl, rfl, rfl, rfl⟩

theorem sameMap_heatAccess (s : State) (a : Nat) : SameMap s (heatAccess s a) := ⟨rfl, rfl, rfl, rfl, rfl, rfl, rfl, rfl⟩

/-- What takes bytes after the operand has been read takes them of the line as it was. -/
theorem LineTakes.of_readOperand {s t : State} {m : Nat} {o : Offer} {p : Page} {d : BitVec 1024} {k : BitVec 128}
    (h : LineTakes (readOperand s m o p) t (offerKey o) p false d k) : LineTakes s t (offerKey o) p false d k := by
  unfold readOperand at h
  split at h
  · exact h.congr ((sameMap_heatLookup s _ _).trans (sameMap_heatAccess _ _)).symm (.refl t)
  · next hp =>
    have ha : p.aliased = false := by
      cases hp' : p.aliased <;> simp_all
    refine ⟨fun _ ht => ?_, fun hw => by simp [ha] at hw⟩
    obtain ⟨l, hl⟩ := look_mscFill s (offerKey o) p
    obtain ⟨h1, h2⟩ := h.1 ha ht
    rw [mscFill_hit hl] at h1
    exact ⟨h1, h2.trans (mscFill_memory s _ p)⟩

/-! ### The copies of the core and the die (R199, R258) -/

theorem refreshL2_eq (s : State) (die key : Nat) (l : Line) (m : BitVec 128) :
    ∃ x, refreshL2 s die key l m = { s with l2 := x } := by
  unfold refreshL2
  split
  · exact ⟨_, rfl⟩
  · exact ⟨s.l2, rfl⟩

/-- The refresh of an issuer's copies changes second-level lines and its core alone. -/
theorem refreshIssuer_eq (s : State) (lc key : Nat) (p : Page) :
    ∃ x y, refreshIssuer s lc key p = { s with l2 := x, cores := y } := by
  obtain ⟨x, e⟩ := refreshL2_eq s (coreDie s lc) key { emptyLine p with data := pocLine s key p } fullMask
  unfold refreshIssuer
  dsimp only
  rw [e]
  exact ⟨_, _, rfl⟩

theorem sameMap_refreshIssuer (s : State) (lc key : Nat) (p : Page) : SameMap s (refreshIssuer s lc key p) := by
  obtain ⟨x, y, e⟩ := refreshIssuer_eq s lc key p
  rw [e]
  exact ⟨rfl, rfl, rfl, rfl, rfl, rfl, rfl, rfl⟩

theorem refreshStash_keeps {β : Type} (f : LCore → β) (h : ∀ c o b, f (setStashByte c o b) = f c) (c : LCore) (va : Nat)
    (d : BitVec 1024) : f (refreshStash c va d) = f c := by
  unfold refreshStash
  split
  · split
    · refine foldl_core_keeps f (fun k b => ?_) _ c
      dsimp only
      split
      · rfl
      · exact h _ _ _
    · rfl
  · rfl

theorem look_refreshL1 (c : LCore) (key : Nat) (d : BitVec 1024) :
    look (refreshL1 c key d).l1 key = (look c.l1 key).map (refreshLine · d) := by
  have h := refreshStash_keeps LCore.l1 (fun _ _ _ => rfl) c (keyVa key) d
  unfold refreshL1
  dsimp only
  rw [h]
  cases hl : look c.l1 key with
  | none => rw [h, hl]; rfl
  | some x => exact look_put_same _ _ _

theorem refreshL1_ctxs (c : LCore) (key : Nat) (d : BitVec 1024) : (refreshL1 c key d).ctxs = c.ctxs := by
  have h := refreshStash_keeps LCore.ctxs (fun _ _ _ => rfl) c (keyVa key) d
  unfold refreshL1
  dsimp only
  split
  · exact h
  · exact h

theorem refreshIssuer_ctxs (s : State) (lc key : Nat) (p : Page) : SameCtxs s (refreshIssuer s lc key p) := by
  obtain ⟨x, e⟩ := refreshL2_eq s (coreDie s lc) key { emptyLine p with data := pocLine s key p } fullMask
  unfold refreshIssuer
  dsimp only
  rw [e]
  exact SameCtxs.trans (t := { s with l2 := x }) (.of_cores rfl) (sameCtxs_modCore _ _ _ fun c => refreshL1_ctxs c _ _)

theorem mergeLine_zero (d e : BitVec 1024) : mergeLine d e 0 = d :=
  line_ext fun i _ => by
    rw [lineByte_mergeLine]
    exact if_neg (by simp [inMask])

/-- Where the die holds no copy of its own, the clean bytes of the issuer's copy are those at the point of coherence. -/
theorem refreshIssuer_fresh {s : State} {lc key : Nat} {p : Page} (h2 : look s.l2 (l2Key (coreDie s lc) key) = none)
    (ho : look s.l2 (l2Own (coreDie s lc) lc key) = none) {l : Line}
    (hl : look (coreOf (refreshIssuer s lc key p) lc).l1 key = some l) {i : Nat} (hi : i < 128)
    (hv : inMask l.valid i = true) (hd : inMask (dirtyMask l) i = false) :
    lineByte l.data i = lineByte (pocLine s key p) i := by
  obtain ⟨x, e⟩ := refreshL2_eq s (coreDie s lc) key { emptyLine p with data := pocLine s key p } fullMask
  have hc : coreOf (refreshIssuer s lc key p) lc = refreshL1 (coreOf s lc) key (pocLine s key p) := by
    have hw : withOwn s (coreDie s lc) lc key ((look s.l2 (l2Key (coreDie s lc) key)).getD (emptyLine p)) = emptyLine p := by
      rw [h2, withOwn, ho]
      rfl
    unfold refreshIssuer
    dsimp only
    rw [hw, ho, e, coreOf_modCore_same, Option.getD_none, BitVec.or_self, show dirtyMask (emptyLine p) = 0 from rfl,
      mergeLine_zero]
    rfl
  rw [hc, look_refreshL1] at hl
  obtain ⟨y, -, rfl⟩ := Option.map_eq_some_iff.mp hl
  have hd' : inMask (dirtyMask y) i = false := hd
  have hm : inMask (y.valid &&& ~~~dirtyMask y) i = true := by
    rw [inMask_and, inMask_not _ hi]
    exact Bool.and_eq_true_iff.mpr ⟨hv, by rw [hd']; rfl⟩
  exact (lineByte_mergeLine _ _ _ _).trans (if_pos hm)

end Sys2Proof.Machine
end

section
/-! SUPPORT. A mill takes an offer (R179, R184, R188 to R190, R192, R199), and settles and releases are taken (R193, R194,
R197). -/

namespace Sys2Proof.Machine

/-! ### Taking an offer -/

/-- A state whose mill has taken the offer at a place of its queue, or of its slots. -/
def taken (s : State) (m i : Nat) (prio : Bool) : State :=
  modMill s m fun q => if prio then { q with slots := q.slots.eraseIdx i } else { q with queue := q.queue.eraseIdx i }

section take
variable {s : State} {m i : Nat} {prio : Bool} {o : Offer}
  (hi : firstTakable s m (if prio then (millOf s m).slots else (millOf s m).queue) = some i)
  (ho : (if prio then (millOf s m).slots else (millOf s m).queue)[i]? = some o)
include hi ho

theorem exec_millTakeOffer :
    exec (.millTakeOffer m prio) s = .next (actOffer s m o fun t => taken t m i prio) := by
  have he : exec (.millTakeOffer m prio) s = execMillTakeOffer m prio s := rfl
  rw [he, execMillTakeOffer, hi]
  simp only [ho]
  rfl

theorem millTakeOffer_executes {p : Page} (ha : answerOffer s m o = .executes p) :
    exec (.millTakeOffer m prio) s = .next (executeOffer (taken s m i prio) m o p) := by
  rw [exec_millTakeOffer hi ho, actOffer, ha]

theorem millTakeOffer_faults {c : Nat} (ha : answerOffer s m o = .faults c) : exec (.millTakeOffer m prio) s =
    .next (if c = 35 then poisonMet (sendReply (heatLookup (taken s m i prio) o.asid o.addr) (bareReply o 2 c)) o.task
      else sendReply (heatLookup (taken s m i prio) o.asid o.addr) (bareReply o 2 c)) := by
  rw [exec_millTakeOffer hi ho, actOffer, ha]
  rfl

theorem millTakeOffer_declines {c : Nat} (ha : answerOffer s m o = .declines c) : exec (.millTakeOffer m prio) s =
    .next (sendReply (heatLookup (taken s m i prio) o.asid o.addr) (bareReply o 1 c)) := by
  rw [exec_millTakeOffer hi ho, actOffer, ha]
  rfl

theorem millTakeOffer_holds {c : Nat} {p : Page} (ha : answerOffer s m o = .holds c p) :
    exec (.millTakeOffer m prio) s = .next (installHold (taken s m i prio) m o p c) := by
  rw [exec_millTakeOffer hi ho, actOffer, ha]

end take

/-! ### An offer is executed (R184, R189, R199) -/

/-- What an executed offer leaves at the point of coherence. -/
def offerWritten (s : State) (m : Nat) (o : Offer) (p : Page) : State :=
  let res := offerResult o (oldOperand s o p)
  if res.writes then pocWrite (readOperand s m o p) (offerKey o) p
    (natLine res.new.toNat (o.addr % 128) (shapeBytes o.shape)) (accessMask o.addr (shapeBytes o.shape)) o.task none
  else readOperand s m o p

/-- The reply to an executed offer. -/
def execReply (s : State) (o : Offer) (p : Page) : Reply :=
  let res := offerResult o (oldOperand s o p)
  { bareReply o kindExec 0 with data := res.ret, writes := true, flags := res.flags }

theorem executeOffer_eq (s : State) (m : Nat) (o : Offer) (p : Page) : executeOffer s m o p =
    sendReply (refreshIssuer (offerWritten s m o p) o.lc (offerKey o) p) (execReply s o p) := rfl

theorem pocStrip_offerWritten (s : State) (m : Nat) (o : Offer) (p : Page) :
    pocStrip (offerWritten s m o p) = pocStrip s := by
  have h : pocStrip (readOperand s m o p) = pocStrip s := by
    obtain ⟨g, q, e⟩ := readOperand_eq s m o p
    rw [e]
    rfl
  unfold offerWritten
  dsimp only
  split
  · rw [pocStrip_pocWrite, h]
  · exact h

/-- Beside the line and its copies, an executed offer changes the replies alone. -/
theorem executeOffer_keeps (s : State) (m : Nat) (o : Offer) (p : Page) :
    (executeOffer s m o p).replies = s.replies ++ [execReply s o p] ∧ SameCtxs s (executeOffer s m o p) ∧
      SameMap (offerWritten s m o p) (executeOffer s m o p) := by
  have hp := pocStrip_offerWritten s m o p
  have hr := sameMap_refreshIssuer (offerWritten s m o p) o.lc (offerKey o) p
  have hc := (SameCtxs.of_cores (pocStrip_get hp State.cores)).trans
    (refreshIssuer_ctxs (offerWritten s m o p) o.lc (offerKey o) p)
  obtain ⟨x, y, e⟩ := refreshIssuer_eq (offerWritten s m o p) o.lc (offerKey o) p
  rw [executeOffer_eq]
  refine ⟨?_, hc.trans (.of_cores rfl), hr.trans ⟨rfl, rfl, rfl, rfl, rfl, rfl, rfl, rfl⟩⟩
  rw [e]
  exact congrArg (· ++ [execReply s o p]) (pocStrip_get hp State.replies)

theorem executeOffer_takes {s : State} (m : Nat) {o : Offer} {p : Page}
    (hw : (offerResult o (oldOperand s o p)).writes = true) : LineTakes s (executeOffer s m o p) (offerKey o) p false
      (natLine (offerResult o (oldOperand s o p)).new.toNat (o.addr % 128) (shapeBytes o.shape))
      (accessMask o.addr (shapeBytes o.shape)) := by
  have he : offerWritten s m o p = _ := if_pos hw
  have h := lineTakes_pocWrite (readOperand s m o p) (offerKey o) p
    (natLine (offerResult o (oldOperand s o p)).new.toNat (o.addr % 128) (shapeBytes o.shape))
    (accessMask_shape_ne o.addr o.shape) o.task none
  rw [← he] at h
  exact (h.congr (.refl _) (executeOffer_keeps s m o p).2.2).of_readOperand

theorem executeOffer_reads {s : State} {m : Nat} {o : Offer} {p : Page}
    (hw : (offerResult o (oldOperand s o p)).writes = false) : (executeOffer s m o p).mem = s.mem ∧
      pocLine (executeOffer s m o p) (offerKey o) p = pocLine (readOperand s m o p) (offerKey o) p := by
  have he : offerWritten s m o p = readOperand s m o p := if_neg (by rw [hw]; decide)
  have h := (executeOffer_keeps s m o p).2.2
  rw [he] at h
  obtain ⟨g, q, e⟩ := readOperand_eq s m o p
  have hm := congrArg State.mem e
  exact ⟨h.mem.trans hm, h.pocLine _ _⟩

/-- After an executed offer its core holds no older clean copy of the line. -/
theorem executeOffer_fresh {s : State} {m : Nat} {o : Offer} {p : Page}
    (h2 : look s.l2 (l2Key (coreDie s o.lc) (offerKey o)) = none)
    (ho : look s.l2 (l2Own (coreDie s o.lc) o.lc (offerKey o)) = none) {l : Line}
    (hl : look (coreOf (executeOffer s m o p) o.lc).l1 (offerKey o) = some l) {i : Nat} (hi : i < 128)
    (hv : inMask l.valid i = true) (hd : inMask (dirtyMask l) i = false) :
    lineByte l.data i = lineByte (pocLine (executeOffer s m o p) (offerKey o) p) i := by
  have hp := pocStrip_offerWritten s m o p
  have h2' : (offerWritten s m o p).l2 = s.l2 := pocStrip_get hp State.l2
  have hc : (offerWritten s m o p).cores = s.cores := pocStrip_get hp State.cores
  have hd' : coreDie (offerWritten s m o p) o.lc = coreDie s o.lc := by
    rw [coreDie, coreOf, hc]
    rfl
  rw [(executeOffer_keeps s m o p).2.2.pocLine]
  exact refreshIssuer_fresh (h2' ▸ hd' ▸ h2) (h2' ▸ hd' ▸ ho) hl hi hv hd

/-! ### An offer is faulted (R190, R349) -/

/-- A task that meets a POISON changes in the dispatcher, and its contexts with it: what a mill answers is no part of it. -/
theorem poisonMet_keeps {β : Type} (f : State → β) (hf : ∀ s t, Quiet s t → f t = f s)
    (ht : ∀ (s : State) x, f { s with tasks := x } = f s) (s : State) (n : Nat) : f (poisonMet s n) = f s := by
  unfold poisonMet
  split
  · split
    · rw [hf _ _ (quiet_freezeCrew _ _), modTask_eq, ht]
    · rfl
  · rfl

/-! ### An offer is declined with a hold (R179, R189, R192) -/

/-- The entry that a new hold gets. -/
def allotted (s : State) (m : Nat) : Nat :=
  (freeEntries (millOf s m)).getD (Config.freeEntry s.taken % (freeEntries (millOf s m)).length) 0

/-- The reply to an offer that is declined with a hold. -/
def holdReply (s : State) (m : Nat) (o : Offer) (p : Page) (c : Nat) : Reply :=
  { bareReply o kindDecl c with data := oldOperand s o p, writes := true, hold := allotted s m, mill := m }

theorem installHold_holds (s : State) (m : Nat) (o : Offer) (p : Page) (c : Nat) :
    (installHold s m o p c).replies = s.replies ++ [holdReply s m o p c] ∧
      look (millOf (installHold s m o p c) m).holds (allotted s m) =
        some ⟨o.lc, o.ctx, o.y, o.task, o.addr, o.asid, o.shape, o.prio, c, millCycle s, p⟩ := by
  obtain ⟨g, q, e⟩ := readOperand_eq s m o p
  have hr : ∀ (t : State) k, (sendReply (refreshIssuer t o.lc (offerKey o) p) k).replies = t.replies ++ [k] ∧
      millOf (sendReply (refreshIssuer t o.lc (offerKey o) p) k) m = millOf t m := fun t k => by
    obtain ⟨x, y, e⟩ := refreshIssuer_eq t o.lc (offerKey o) p
    rw [e]
    exact ⟨rfl, rfl⟩
  unfold installHold
  dsimp only
  refine ⟨(hr _ _).1.trans ?_, ?_⟩
  · rw [e]
    rfl
  · rw [(hr _ _).2, millOf_modMill_same]
    exact look_put_same _ _ _

/-! ### Settles (R193, R197) -/

section settle
variable {idx : Nat} {r : Settle} {s : State} (hf : s.flights[idx]? = some (.settle r))
include hf

/-- A settle or a release is taken after its context's offers to the line. -/
theorem settle_behind {o : Offer} (ho : o ∈ (millOf s r.mill).queue ++ (millOf s r.mill).slots) (hl : o.lc = r.lc)
    (hc : o.ctx = r.ctx) (hk : offerKey o = reqKey s (.settle r)) :
    exec (.settleArrival idx) s = .next s ∧ exec (.releaseArrival idx) s = .next s := by
  have hb : ownOfferBefore s r.mill r.lc r.ctx (reqKey s (.settle r)) = true := by
    unfold ownOfferBefore
    dsimp only
    rw [← List.any_append]
    exact List.any_eq_true.mpr ⟨o, ho, by simp [hl, hc, hk]⟩
  have ht : settleTurn s idx r = false := by
    simp [settleTurn, hb]
  have hs : exec (.settleArrival idx) s = execSettleArrival idx s := rfl
  have hr : exec (.releaseArrival idx) s = execReleaseArrival idx s := rfl
  rw [hs, hr, execSettleArrival, execReleaseArrival, hf]
  dsimp only
  refine ⟨?_, if_neg fun h => by simp [ht] at h⟩
  cases r.data with
  | none => rfl
  | some b => exact if_neg (by simp [ht])

theorem exec_settleArrival {b : Vec} (hd : r.data = some b) (ht : settleTurn s idx r = true) :
    exec (.settleArrival idx) s = .next (settleAt s idx r b) := by
  have he : exec (.settleArrival idx) s = execSettleArrival idx s := rfl
  rw [he, execSettleArrival, hf]
  dsimp only
  rw [hd]
  exact if_pos ht

theorem exec_releaseArrival (hd : r.data = none) (ht : settleTurn s idx r = true) :
    exec (.releaseArrival idx) s = .next (releaseAt s idx r) := by
  have he : exec (.releaseArrival idx) s = execReleaseArrival idx s := rfl
  rw [he, execReleaseArrival, hf]
  exact if_pos ⟨hd, ht⟩

end settle

section settled
variable {s : State} {r : Settle} (idx : Nat) (b : Vec)

theorem settleAt_lost (hn : namedHold s r = none) : settleAt s idx r b =
    sendReply (landed s idx) (settleAnswer r kindLost (getD 0 (millOf s r.mill).ended (ownerKey r.lc r.ctx r.y))) := by
  rw [settleAt, hn]

variable {h : Hold} (hn : namedHold s r = some h)
include hn

theorem settleAt_mismatch (hm : r.addr ≠ h.addr ∨ shapeAgrees h.shape r.shape = false) : settleAt s idx r b =
    sendReply (dropHold (landed s idx) r.mill r.hold 14) (settleAnswer r kindLost 14) := by
  rw [settleAt, hn]
  exact if_pos hm

theorem settleAt_writes (ha : r.addr = h.addr) (hs : shapeAgrees h.shape r.shape = true) {p : Page}
    (ht : translate s r.asid r.addr = .ok p)
    (hb : settleBlocked s h (lineKey r.asid r.addr) (accessMask r.addr (shapeBytes h.shape)) = false)
    (hc : cmpRoom s p (frameOf p (keyVa (lineKey r.asid r.addr)))
      (mergeLine (pocLine s (lineKey r.asid r.addr) p) (natLine b.toNat (r.addr % 128) (shapeBytes h.shape))
        (accessMask r.addr (shapeBytes h.shape))) = true) :
    settleAt s idx r b = settleWrite (landed s idx) r h b p := by
  rw [settleAt, hn]
  dsimp only
  rw [if_neg (by simp [ha, hs]), ht]
  dsimp only
  rw [if_neg (by simp [hb]), if_neg (by simp [hc])]

theorem releaseAt_drops {p : Page} (ht : translate s h.asid h.addr = .ok p) : releaseAt s idx r =
    answerRelease (dropHold (heatLookup (landed s idx) h.asid h.addr) r.mill r.hold 0) r := by
  rw [releaseAt, hn]
  dsimp only
  rw [ht]

end settled

/-- A settle that writes is answered, its hold is gone, and its line has taken the bytes. -/
theorem settleWrite_settles (s : State) (r : Settle) (h : Hold) (b : Vec) (p : Page) :
    (settleWrite s r h b p).replies = s.replies ++ [settleAnswer r kindExec 0] ∧
      look (millOf (settleWrite s r h b p) r.mill).holds r.hold = none ∧
      (settleWrite s r h b p).flights = s.flights ∧
      LineTakes s (settleWrite s r h b p) (lineKey r.asid r.addr) p (settlesThrough h.reason)
        (natLine b.toNat (r.addr % 128) (shapeBytes h.shape)) (accessMask r.addr (shapeBytes h.shape)) := by
  have hp := pocStrip_pocWriteVia (settlesThrough h.reason) s (lineKey r.asid r.addr) p
    (natLine b.toNat (r.addr % 128) (shapeBytes h.shape)) (accessMask r.addr (shapeBytes h.shape)) r.task (some r.hold)
  have hl := lineTakes_pocWriteVia (settlesThrough h.reason) s (lineKey r.asid r.addr) p
    (natLine b.toNat (r.addr % 128) (shapeBytes h.shape)) (accessMask_shape_ne r.addr h.shape) r.task (some r.hold)
  unfold settleWrite
  dsimp only
  generalize pocWriteVia (settlesThrough h.reason) s (lineKey r.asid r.addr) p
    (natLine b.toNat (r.addr % 128) (shapeBytes h.shape)) (accessMask r.addr (shapeBytes h.shape)) r.task
    (some r.hold) = u at hp hl
  have hm := (sameMap_refreshIssuer u r.lc (lineKey r.asid r.addr) p).trans
    (sameMap_endHoldsAt (refreshIssuer u r.lc (lineKey r.asid r.addr) p) r.mill (fun k _ => k == r.hold) 0)
  refine ⟨?_, dropHold_holds _ _ _ _, ?_,
    hl.congr (.refl s) (hm.trans ⟨rfl, rfl, rfl, rfl, rfl, rfl, rfl, rfl⟩)⟩
  · obtain ⟨x, y, e⟩ := refreshIssuer_eq u r.lc (lineKey r.asid r.addr) p
    rw [e]
    exact congrArg (· ++ [settleAnswer r kindExec 0]) (pocStrip_get hp State.replies)
  · obtain ⟨x, y, e⟩ := refreshIssuer_eq u r.lc (lineKey r.asid r.addr) p
    rw [e]
    exact pocStrip_get hp State.flights

theorem namedHold_reqKey {s : State} {r : Settle} {h : Hold} (hn : namedHold s r = some h) :
    reqKey s (.settle r) = holdKey h := by
  rw [reqKey, hn]

theorem settleTurn_iff (s : State) (idx : Nat) (r : Settle) : settleTurn s idx r = true ↔
    inTurn s idx (.settle r) = true ∧ offerAhead s r.mill (reqKey s (.settle r)) = false ∧
      ownOfferBefore s r.mill r.lc r.ctx (reqKey s (.settle r)) = false ∧ isParked s (.settle r.lc r.ctx r.y) = false := by
  simp [settleTurn, and_assoc]

end Sys2Proof.Machine
end

section
/-! O43. What mills do with offers, settles, releases and holds (R179, R184, R188 to R195, R197, R199, R327). -/

namespace Sys2Proof.Machine

/-! ### Arrivals that wait or find the queue full (R188) -/

section arrival
variable {idx : Nat} {o : Offer} {s : State} (hf : s.flights[idx]? = some (.offer o)) (ht : inTurn s idx (.offer o) = true)
include hf ht

theorem offerArrival_waits (hp : o.prio = false) (hq : (millOf s (homeMill s o.addr o.asid)).queue.length < 32)
    (ha : (millOf s (homeMill s o.addr o.asid)).accepted = some (millCycle s)) :
    exec (.offerArrival idx) s = .next s := by
  rw [exec_offerArrival hf ht hp, if_neg (by omega), if_pos ha]

theorem offerArrival_full (hp : o.prio = false) (hq : 32 ≤ (millOf s (homeMill s o.addr o.asid)).queue.length) :
    ∃ t, exec (.offerArrival idx) s = .next t ∧ t.flights = s.flights.eraseIdx idx ∧ t.mills = s.mills ∧
      t.replies = s.replies ++ [bareReply o 1 1] := by
  rw [exec_offerArrival hf ht hp, if_pos hq]
  exact ⟨_, rfl, rfl, rfl, rfl⟩

end arrival

/-! ### The mill's answers to an offer that it takes -/

/-- A reply that changes nothing, after the walk of the address. -/
def answeredBare (s : State) (o : Offer) (kind reason : Nat) : State :=
  sendReply (heatLookup s o.asid o.addr) (bareReply o kind reason)

theorem answeredBare_eq (s : State) (o : Offer) (kind reason : Nat) : ∃ g h, answeredBare s o kind reason =
    { s with gens := g, heat := h, replies := s.replies ++ [bareReply o kind reason] } := by
  obtain ⟨g, h, e⟩ := heatLookup_eq s o.asid o.addr
  rw [answeredBare, e]
  exact ⟨g, h, rfl⟩

section take
variable {s : State} {m i : Nat} {prio : Bool} {o : Offer}
  (hi : firstTakable s m (if prio then (millOf s m).slots else (millOf s m).queue) = some i)
  (ho : (if prio then (millOf s m).slots else (millOf s m).queue)[i]? = some o)
include hi ho

/-- An executed offer (R184, R189, R199). -/
theorem takenOffer_executes {p : Page} (ha : answerOffer s m o = .executes p) :
    ∃ t r, exec (.millTakeOffer m prio) s = .next t ∧
      t.replies = s.replies ++ [r] ∧ r.kind = 0 ∧ r.reason = 0 ∧ r.hold = 0 ∧ r.writes = true ∧
      r.data = (offerResult o (oldOperand (taken s m i prio) o p)).ret ∧ (∀ lc c, ctxOf t lc c = ctxOf s lc c) ∧
      (look s.l2 (l2Key (coreDie s o.lc) (offerKey o)) = none → look s.l2 (l2Own (coreDie s o.lc) o.lc (offerKey o)) = none →
        ∀ l, look (coreOf t o.lc).l1 (offerKey o) = some l → ∀ i, i < 128 → inMask l.valid i = true →
          inMask (dirtyMask l) i = false → lineByte l.data i = lineByte (pocLine t (offerKey o) p) i) ∧
      ((offerResult o (oldOperand (taken s m i prio) o p)).writes = true →
        LineTakes (taken s m i prio) t (offerKey o) p false
          (natLine (offerResult o (oldOperand (taken s m i prio) o p)).new.toNat (o.addr % 128) (shapeBytes o.shape))
          (accessMask o.addr (shapeBytes o.shape))) ∧
      ((offerResult o (oldOperand (taken s m i prio) o p)).writes = false → t.mem = s.mem ∧
        pocLine t (offerKey o) p = pocLine (readOperand (taken s m i prio) m o p) (offerKey o) p) := by
  obtain ⟨hr, hc, -⟩ := executeOffer_keeps (taken s m i prio) m o p
  exact ⟨_, _, millTakeOffer_executes hi ho ha, hr, rfl, rfl, rfl, rfl, rfl, hc,
    fun h2 h3 _ hl _ => executeOffer_fresh (s := taken s m i prio) h2 h3 hl,
    fun hw => executeOffer_takes m hw, fun hw => executeOffer_reads hw⟩

/-- A faulted offer: a POISON makes its task roll back (R190, R349). -/
theorem takenOffer_faults {c : Nat} (ha : answerOffer s m o = .faults c) :
    ∃ t, exec (.millTakeOffer m prio) s = .next t ∧ t.mills = (taken s m i prio).mills ∧
      t.replies = s.replies ++ [bareReply o 2 c] ∧ t.mem = s.mem ∧ t.msc = s.msc ∧
      (c = 35 → ∀ q, taskOf s o.task = some q → q.stage = .placed →
        (taskOf t o.task).map (·.rolling) = some true) := by
  obtain ⟨g, h, e⟩ := answeredBare_eq (taken s m i prio) o 2 c
  refine ⟨_, millTakeOffer_faults hi ho ha, ?_⟩
  rw [← answeredBare, e]
  by_cases hc : c = 35
  · rw [if_pos hc]
    refine ⟨poisonMet_keeps State.mills (fun _ _ q => q.get State.mills) (fun _ _ => rfl) _ _,
      poisonMet_keeps State.replies (fun _ _ q => q.get State.replies) (fun _ _ => rfl) _ _,
      poisonMet_keeps State.mem (fun _ _ q => q.get State.mem) (fun _ _ => rfl) _ _,
      poisonMet_keeps State.msc (fun _ _ q => q.get State.msc) (fun _ _ => rfl) _ _, fun _ q hq hs => ?_⟩
    exact poisonMet_rolling hq hs
  · rw [if_neg hc]
    exact ⟨rfl, rfl, rfl, rfl, fun h => absurd h hc⟩

theorem takenOffer_declines {c : Nat} (ha : answerOffer s m o = .declines c) :
    ∃ t, exec (.millTakeOffer m prio) s = .next t ∧ t.mills = (taken s m i prio).mills ∧
      t.replies = s.replies ++ [bareReply o 1 c] ∧ t.mem = s.mem ∧ t.msc = s.msc ∧ t.cores = s.cores := by
  obtain ⟨g, h, e⟩ := answeredBare_eq (taken s m i prio) o 1 c
  refine ⟨_, millTakeOffer_declines hi ho ha, ?_⟩
  rw [← answeredBare, e]
  exact ⟨rfl, rfl, rfl, rfl, rfl⟩

theorem takenOffer_holds {c : Nat} {p : Page} (ha : answerOffer s m o = .holds c p) :
    ∃ t r, exec (.millTakeOffer m prio) s = .next t ∧
      t.replies = s.replies ++ [r] ∧ r.kind = 1 ∧ r.reason = c ∧ r.mill = m ∧
      r.data = oldOperand (taken s m i prio) o p ∧ look (millOf t m).holds r.hold =
        some ⟨o.lc, o.ctx, o.y, o.task, o.addr, o.asid, o.shape, o.prio, c, millCycle s, p⟩ := by
  obtain ⟨hr, hh⟩ := installHold_holds (taken s m i prio) m o p c
  exact ⟨_, _, millTakeOffer_holds hi ho ha, hr, rfl, rfl, rfl, rfl, hh⟩

end take

/-! ### Settles and releases -/

section settle
variable {idx : Nat} {r : Settle} {s : State} (hf : s.flights[idx]? = some (.settle r))
include hf

section write
variable {b : Vec} (hd : r.data = some b) (ht : settleTurn s idx r = true)
include hd ht

theorem settleArrival_lost (hn : namedHold s r = none) :
    ∃ t a, exec (.settleArrival idx) s = .next t ∧ t.replies = s.replies ++ [a] ∧ a.kind = 3 ∧
      a.reason = getD 0 (millOf s r.mill).ended (ownerKey r.lc r.ctx r.y) ∧ t.mem = s.mem ∧ t.msc = s.msc := by
  have he := exec_settleArrival hf hd ht
  rw [settleAt_lost idx b hn] at he
  exact ⟨_, _, he, rfl, rfl, rfl, rfl, rfl⟩

theorem settleArrival_mismatch {h : Hold} (hn : namedHold s r = some h)
    (hm : r.addr ≠ h.addr ∨ shapeAgrees h.shape r.shape = false) :
    ∃ t a, exec (.settleArrival idx) s = .next t ∧ t.replies = s.replies ++ [a] ∧ a.kind = 3 ∧ a.reason = 14 ∧
      a.settle = true ∧ look (millOf t r.mill).holds r.hold = none ∧ t.mem = s.mem ∧ t.msc = s.msc := by
  have he := exec_settleArrival hf hd ht
  rw [settleAt_mismatch idx b hn hm] at he
  exact ⟨_, _, he, rfl, rfl, rfl, rfl, dropHold_holds _ _ _ _, rfl, rfl⟩

theorem settleArrival_settles {h : Hold} (hn : namedHold s r = some h) (ha : r.addr = h.addr)
    (hs : shapeAgrees h.shape r.shape = true) {p : Page} (hp : translate s r.asid r.addr = .ok p)
    (hb : settleBlocked s h (lineKey r.asid r.addr) (accessMask r.addr (shapeBytes h.shape)) = false)
    (hc : cmpRoom s p (frameOf p (keyVa (lineKey r.asid r.addr)))
      (mergeLine (pocLine s (lineKey r.asid r.addr) p) (natLine b.toNat (r.addr % 128) (shapeBytes h.shape))
        (accessMask r.addr (shapeBytes h.shape))) = true) :
    ∃ t a, exec (.settleArrival idx) s = .next t ∧ t.replies = s.replies ++ [a] ∧ a.kind = 0 ∧ a.settle = true ∧
      look (millOf t r.mill).holds r.hold = none ∧ t.flights = s.flights.eraseIdx idx ∧
      LineTakes s t (lineKey r.asid r.addr) p (settlesThrough h.reason)
        (natLine b.toNat (r.addr % 128) (shapeBytes h.shape)) (accessMask r.addr (shapeBytes h.shape)) := by
  obtain ⟨hr, hh, hl, ht'⟩ := settleWrite_settles (landed s idx) r h b p
  have he := exec_settleArrival hf hd ht
  rw [settleAt_writes idx b hn ha hs hp hb hc] at he
  have hm : SameMap (landed s idx) s := ⟨rfl, rfl, rfl, rfl, rfl, rfl, rfl, rfl⟩
  exact ⟨_, _, he, hr, rfl, rfl, hh, hl, ht'.congr hm (.refl _)⟩

end write

/-- A release ends its hold: an RLS is answered, an OFR's own release is not (R182, R194). -/
theorem releaseArrival_ends (hd : r.data = none) (ht : settleTurn s idx r = true) {h : Hold}
    (hn : namedHold s r = some h) {p : Page} (hp : translate s h.asid h.addr = .ok p) :
    ∃ t, exec (.releaseArrival idx) s = .next t ∧ look (millOf t r.mill).holds r.hold = none ∧
      t.flights = s.flights.eraseIdx idx ∧ SameMills s t r.mill ∧
      (r.answered = false → t.replies = s.replies) ∧
      (r.answered = true → ∃ a, t.replies = s.replies ++ [a] ∧ a.lc = r.lc ∧ a.ctx = r.ctx ∧ a.y = r.y ∧ a.kind = 3 ∧
        a.reason = 0 ∧ a.hold = 0 ∧ a.mill = 0 ∧ a.settle = true ∧ a.release = true ∧ a.writes = false) := by
  obtain ⟨g, q, e⟩ := heatLookup_eq (landed s idx) h.asid h.addr
  refine ⟨_, exec_releaseArrival hf hd ht, ?_⟩
  rw [releaseAt_drops idx hn hp, e]
  unfold answerRelease
  cases ha : r.answered with
  | false => exact ⟨dropHold_holds _ _ _ _, rfl, sameMills_dropHold _ _ _ _, fun _ => rfl, nofun⟩
  | true => exact ⟨dropHold_holds _ _ _ _, rfl, sameMills_dropHold _ _ _ _, nofun, fun _ =>
      ⟨settleAnswer r kindLost 0, rfl, rfl, rfl, rfl, rfl, rfl, rfl, rfl, rfl, by rw [settleAnswer, hd]; rfl, rfl⟩⟩

end settle

end Sys2Proof.Machine

open Sys2Proof.Machine

/-- Settles O43: each event of a mill's by its equation. -/
theorem millsAnswer : Obligations.MillsAnswer := by
  unfold Obligations.MillsAnswer
  refine ⟨?arrivals, ?taking, ?results, ?settles, ?releases, ?behind, ?replies, ?ages, ?slices, ?judging, ?shapes⟩
  case arrivals =>
    intro idx o s hf ht
    exact ⟨offerArrival_enters hf ht, fun hp hq ha => offerArrival_waits hf ht hp hq ha,
      offerArrival_full hf ht, priorityOfferArrival_enters hf ht⟩
  case taking =>
    intro m i prio o s l hi ho
    exact ⟨fun p ha => takenOffer_executes hi ho ha, fun c ha => takenOffer_faults hi ho ha,
      fun c ha => takenOffer_declines hi ho ha, fun c p ha => takenOffer_holds hi ho ha⟩
  case results =>
    intro old o
    obtain ⟨hx, hc, ha, ho⟩ := offerResult_plain old o
    exact ⟨hx, hc, ha, ho, fun h hs => ⟨offer_add_scalar old hs h, (offerResult_returns old (by simp [h])).1⟩,
      fun h hs => ⟨offer_fma_scalar old hs h, (offerResult_returns old (by simp [h])).1⟩,
      fun h hs => offer_min_scalar old hs h, fun h hs => offer_max_scalar old hs h,
      fun hop => ⟨(offerResult_returns old hop).1, (offerResult_returns old hop).2,
        fun hs ht i hi => offerLanes_spec old hop hs ht hi⟩⟩
  case settles =>
    intro idx r b s hf hd h1 h2 h3 h4
    have ht := (settleTurn_iff s idx r).mpr ⟨h1, h2, h3, h4⟩
    exact ⟨settleArrival_lost hf hd ht, fun h hn => settleArrival_mismatch hf hd ht hn,
      fun h p hn ha hs hp => settleArrival_settles hf hd ht hn ha hs hp⟩
  case releases =>
    intro idx r h s hf hd h1 h2 h3 h4 hn ⟨p, hp⟩
    have ht := (settleTurn_iff s idx r).mpr (by rw [namedHold_reqKey hn]; exact ⟨h1, h2, h3, h4⟩)
    exact releaseArrival_ends hf hd ht hn hp
  case behind => exact fun idx r s o hf ho hl hc hk => settle_behind hf ho hl hc hk
  case replies =>
    intro idx r s hr hs hl
    obtain ⟨t, he, ht, hc⟩ := reply_lands hr hs hl
    have hx : ctxOf t r.lc r.ctx = landReply (ctxOf s r.lc r.ctx) r := (hc _ _).trans (if_pos ⟨rfl, rfl⟩)
    refine ⟨t, he, ht, hx, hx ▸ yreg_landReply _ r, fun h1 h2 h3 => hx ▸ landReply_ofrst h1 h2 h3, fun lc c hn => ?_⟩
    exact (hc lc c).trans (if_neg fun ⟨h1, h2⟩ => hn (by rw [h1, h2]))
  case ages =>
    intro m e h s hh ha
    exact ⟨_, exec_holdAgeExpiry hh ha, dropHold_holds _ _ _ _, dropHold_ended hh 13, sameMills_dropHold _ _ _ _⟩
  case slices => exact fun k s hp => ⟨sliceRetentionEntry_ends hp, sliceWake_ends hp⟩
  case judging =>
    intro s m o hk hb
    exact ⟨answerOffer_noncanonical hk hb, fun hc => ⟨fun e he => answerOffer_untranslated hk hb hc he,
      fun p hp => offerJudged hk hb hc hp⟩⟩
  case shapes => exact shapeAgrees_iff
end

section
/-! SUPPORT. Module reset (R307, R361, R366) and the entry to IDLE (R192, R361). -/

namespace Sys2Proof.Machine

/-! ### What boot sets up before the reeves start -/

/-- A state without what the steps of boot before the sixth set up. -/
def bootStrip (s : State) : State :=
  { s with memStacks := [], phys := [], journal := [], mem := [], asidbase := 0#64, vfs := [], parts := [] }

/-- Any part of the state but those that boot sets up is the same. -/
theorem bootStrip_get {α : Type} {s t : State} (h : bootStrip t = bootStrip s) (f : State → α) :
    f (bootStrip t) = f (bootStrip s) := by
  rw [h]

theorem bootStrip_foldl {α : Type} {g : State → α → State} (h : ∀ s x, bootStrip (g s x) = bootStrip s) (l : List α)
    (s : State) : bootStrip (l.foldl g s) = bootStrip s := foldl_keeps bootStrip h l s

theorem bootStrip_journalStep (s : State) (step outcome : Nat) (units : List Nat) :
    bootStrip (journalStep s step outcome units) = bootStrip s := rfl

theorem bootStrip_channels (s : State) (b : BootInput) : bootStrip (bootChannels s b) = bootStrip s := by
  have h : bootStrip (bootChannels s b) = bootStrip (journalStep (b.badChannels.foldl (fun t c => modStack t (c / 32)
      fun k => { k with degraded := (List.range 256).map (fun i => c % 32 * 256 + i) ++ k.degraded })
      (b.rates.foldl (fun t e => modStack t (e.1 / 32) fun k => { k with rates := setD 0 k.rates (e.1 % 32) e.2 }) s))
      1 bootSkipped b.badChannels) := by
    unfold bootChannels
    dsimp only
    split <;> rfl
  rw [h, bootStrip_journalStep, bootStrip_foldl, bootStrip_foldl]
  all_goals exact fun _ _ => rfl

theorem bootStrip_units (s : State) (b : BootInput) : bootStrip (bootUnits s b) = bootStrip s := by
  unfold bootUnits
  dsimp only
  simp only [bootStrip_journalStep]
  rw [bootStrip_foldl, bootStrip_foldl]
  all_goals exact fun _ _ => rfl

theorem bootStrip_firmware (s : State) (b : BootInput) : bootStrip (bootFirmware s b) = bootStrip s := by
  have h : ∀ (u : State) (a : Word), bootStrip { u with asidbase := a } = bootStrip u := fun _ _ => rfl
  unfold bootFirmware
  dsimp only
  rw [bootStrip_foldl, bootStrip_foldl, bootStrip_foldl, h, bootStrip_foldl]
  all_goals exact fun _ _ => rfl

/-- The module before its reeves start. -/
def bootPrepared (b : BootInput) (s : State) : State :=
  bootUnits (bootChannels { bootStart s b with
    journal := [⟨0, if b.firmwareOk then bootOk else bootFatal, 0, (bootStart s b).ticks⟩]
    security := if b.firmwareOk then .verified else .unverified } b) b

theorem exec_moduleReset (b : BootInput) (s : State) : exec (.moduleReset b) s =
    .next (if b.firmwareOk then bootReeves (bootFirmware (bootPrepared b s) b) b else bootPrepared b s) := rfl

theorem bootStrip_prepared (b : BootInput) (s : State) : bootStrip (bootPrepared b s) =
    bootStrip { bootStart s b with security := if b.firmwareOk then .verified else .unverified } :=
  (bootStrip_units _ b).trans (bootStrip_channels _ b)

/-! ### The reeves start -/

/-- The core of a die's reeve as it starts. -/
def reeveCore (b : BootInput) (d : Nat) : LCore :=
  { LCore.reset with
    lstate := 1, phys := b.reeves.getD d 0, ctxs := setD Ctx.reset [] 0 (startedCtx 0#64 d 0 b.entry 0#64) }

theorem coreOf_startReeve (b : BootInput) (s : State) (d k : Nat) :
    coreOf (startReeve b s d) (lcKey 0 k) = if k = d then reeveCore b d else coreOf s (lcKey 0 k) := by
  have h := coreOf_setCore (modPhys s (b.reeves.getD d 0) fun x => { x with power := .on }) (lcKey 0 d) (lcKey 0 k)
    (reeveCore b d)
  refine h.trans ?_
  simp only [lcKey, Nat.zero_mul, Nat.zero_add]
  rfl

theorem coreOf_startReeves (b : BootInput) (up : List Nat) (s : State) (k : Nat) :
    coreOf (up.foldl (startReeve b) s) (lcKey 0 k) = if k ∈ up then reeveCore b k else coreOf s (lcKey 0 k) := by
  induction up generalizing s with
  | nil => rfl
  | cons d up ih =>
    rw [List.foldl_cons, ih, coreOf_startReeve]
    by_cases hk : k = d
    · simp [hk]
    · simp [hk]

theorem look_filterMap_keyed {α : Type} (f : Nat → Option α) (l : List Nat) (a : Nat) :
    look (l.filterMap fun d => (f d).map fun e => (d, e)) a = if a ∈ l then f a else none := by
  induction l with
  | nil => rfl
  | cons d l ih =>
    cases hf : f d with
    | none =>
      rw [List.filterMap_cons_none (by simp [hf]), ih]
      by_cases ha : a = d
      · simp [ha, hf]
      · simp [ha]
    | some e =>
      rw [List.filterMap_cons_some (b := (d, e)) (by simp [hf]), look, ih]
      by_cases ha : a = d
      · simp [ha, hf]
      · simp [ha, Ne.symm ha]

/-- A die whose own reeve started is served by it. -/
theorem servingDie_own {up : List Nat} {d : Nat} (hd : d < 8) (h : d ∈ up) : servingDie up d = some d := by
  have he : (d + 0) % 8 = d := Nat.mod_eq_of_lt hd
  have hr : (List.range 8).map (fun i => (d + i) % 8) = (d + 0) % 8 :: [1, 2, 3, 4, 5, 6, 7].map fun i => (d + i) % 8 := rfl
  rw [servingDie, hr, he]
  exact List.find?_cons_of_pos (by simpa using h)

section reeves
variable (s : State) (b : BootInput)

theorem bootReeves_none (h : reevesUp b = []) : bootReeves s b =
    { s with journal := s.journal ++ [⟨6, bootFatal, 0, s.ticks⟩], modPower := .standby } :=
  if_pos (by simp [h])

/-- The table of the dies and their reeves. -/
def reeveTable : Sparse Nat :=
  (List.range 8).filterMap fun d => ((servingDie (reevesUp b) d).map (lcKey 0)).map fun e => (d, e)

theorem bootReeves_some (h : reevesUp b ≠ []) : ∃ j, bootReeves s b =
    { (reevesUp b).foldl (startReeve b) s with journal := j, reeves := reeveTable b } := by
  have ht : (List.range 8).filterMap (fun d => (servingDie (reevesUp b) d).map (fun e => (d, lcKey 0 e))) = reeveTable b :=
    List.filterMap_congr fun d _ => by rw [Option.map_map]; rfl
  rw [bootReeves]
  dsimp only
  rw [if_neg (by simp [h]), ht]
  exact ⟨_, rfl⟩

theorem look_reeveTable {d : Nat} (h : d ∈ reevesUp b) : look (reeveTable b) d = some (lcKey 0 d) := by
  have hd : d < 8 := List.mem_range.mp (List.mem_filter.mp h).1
  rw [reeveTable, look_filterMap_keyed (fun d => (servingDie (reevesUp b) d).map (lcKey 0)),
    if_pos (List.mem_range.mpr hd), servingDie_own hd h]
  rfl

end reeves

/-! ### The three outcomes of a reset -/

section reset
variable {b : BootInput} (s : State)

theorem moduleReset_unverified (h : b.firmwareOk = false) : ∃ t, exec (.moduleReset b) s = .next t ∧
    t.security = .unverified ∧ t.reeves = [] ∧ t.tasks = [] ∧ t.cores = [] := by
  have hp := bootStrip_prepared b s
  rw [h] at hp
  refine ⟨_, (exec_moduleReset b s).trans (congrArg _ (if_neg (by simp [h]))), bootStrip_get hp State.security,
    bootStrip_get hp State.reeves, bootStrip_get hp State.tasks, bootStrip_get hp State.cores⟩

variable (h : b.firmwareOk = true)
include h

theorem bootStrip_verified : bootStrip (bootFirmware (bootPrepared b s) b) =
    bootStrip { bootStart s b with security := .verified } := by
  have hp := bootStrip_prepared b s
  rw [h] at hp
  exact (bootStrip_firmware _ b).trans hp

theorem moduleReset_verified (hu : reevesUp b ≠ []) : ∃ t, exec (.moduleReset b) s = .next t ∧ t.security = .verified ∧
    t.modPower = .active ∧ t.tasks = [] ∧ t.heatk = 8#64 ∧
    ∀ d ∈ reevesUp b, ctxOf t (lcKey 0 d) 0 = startedCtx 0#64 d 0 b.entry 0#64 ∧ reeveOf t d = some (lcKey 0 d) := by
  have hv := bootStrip_verified s h
  obtain ⟨j, hr⟩ := bootReeves_some (bootFirmware (bootPrepared b s) b) b hu
  refine ⟨_, (exec_moduleReset b s).trans (congrArg _ (if_pos h)), ?_⟩
  generalize bootFirmware (bootPrepared b s) b = u at hv hr
  rw [hr]
  refine ⟨(foldl_keeps State.security (g := startReeve b) (fun _ _ => rfl) _ u).trans (bootStrip_get hv State.security),
    (foldl_keeps State.modPower (g := startReeve b) (fun _ _ => rfl) _ u).trans (bootStrip_get hv State.modPower),
    (foldl_keeps State.tasks (g := startReeve b) (fun _ _ => rfl) _ u).trans (bootStrip_get hv State.tasks),
    (foldl_keeps State.heatk (g := startReeve b) (fun _ _ => rfl) _ u).trans (bootStrip_get hv State.heatk),
    fun d hd => ⟨?_, look_reeveTable b hd⟩⟩
  have hc := coreOf_startReeves b (reevesUp b) u d
  rw [if_pos hd] at hc
  exact (congrArg (fun c => getD Ctx.reset c.ctxs 0) hc).trans 
    (getD_setD_same Ctx.reset [] 0 (startedCtx 0#64 d 0 b.entry 0#64))

theorem moduleReset_noReeve (hu : reevesUp b = []) : ∃ t, exec (.moduleReset b) s = .next t ∧ t.modPower = .standby ∧
    t.reeves = [] := by
  refine ⟨_, (exec_moduleReset b s).trans (congrArg _ (if_pos h)), ?_⟩
  rw [bootReeves_none _ b hu]
  exact ⟨rfl, bootStrip_get (bootStrip_verified s h) State.reeves⟩

end reset

/-! ### The entry to IDLE -/

theorem goodStacks_iff (s : State) (k : Nat) : k ∈ goodStacks s ↔ k < 16 ∧ (stackOf s k).skipped = false := by
  simp [goodStacks]

/-- The slices of a list enter retention. -/
def asleepAll (ks : List Nat) (s : State) : State := ks.foldl (fun t k => modStack t k fun q => { q with asleep := true }) s

theorem asleepAll_asleep (ks : List Nat) (s : State) {k : Nat} (h : k ∈ ks ∨ (stackOf s k).asleep = true) :
    (stackOf (asleepAll ks s) k).asleep = true := by
  induction ks generalizing s with
  | nil => exact h.resolve_left (by simp)
  | cons a ks ih =>
    refine ih _ ?_
    rw [stackOf_modStack]
    by_cases hk : k = a
    · simp [hk]
    · rw [if_neg hk]
      exact h.imp_left fun hm => (List.mem_cons.mp hm).resolve_left hk

def powerOff (q : PCore) : PCore := { q with power := .off }

/-- Every core is powered down. -/
def poweredDown (s : State) : State :=
  { s with phys := s.phys.map (fun e => (e.1, powerOff e.2))
           rows := s.rows.map (fun e => (e.1, { e.2 with inrush := [] })) }

theorem physOf_poweredDown (s : State) (p : Nat) : physOf (poweredDown s) p = powerOff (physOf s p) := by
  have h : look (poweredDown s).phys p = (look s.phys p).map powerOff :=
    look_map_entries s.phys (fun _ => powerOff) p
  rw [physOf, getD, h, physOf, getD]
  cases look s.phys p <;> rfl

/-- An idle module whose good slices are in retention. -/
def retained (s : State) : State := { asleepAll (goodStacks s) s with modPower := .idle }

/-- An idle module whose cores are powered down: ml is what stands of the mills once the holds are ended. -/
def idled (s : State) (ml : Sparse Mill) : State := retained { poweredDown s with mills := ml }

theorem physOf_idled (s : State) (ml : Sparse Mill) (p : Nat) : physOf (idled s ml) p = powerOff (physOf s p) := by
  have h : (idled s ml).phys = (poweredDown s).phys :=
    foldl_keeps State.phys (g := fun t k => modStack t k fun q => { q with asleep := true }) (fun _ _ => rfl) _ _
  rw [physOf, h, ← physOf, physOf_poweredDown]

theorem exec_idleEntry {s : State} (hv : s.security = .verified) (ha : s.modPower = .active) (hn : nothingToDo s = true) :
    ∃ ml, exec .idleEntry s = .next (idled s ml) := by
  have he : exec .idleEntry s = execIdleEntry s := rfl
  obtain ⟨ml, hm⟩ := foldl_endHoldsAt_eq (fun _ _ => true) 12 (List.range 64) (poweredDown s)
  exact ⟨ml, he.trans ((if_pos ⟨hv, ha, hn⟩).trans (congrArg (fun u => (Host.Outcome.next (retained u) : Res)) hm))⟩

theorem idleEntry_enters {s : State} (hv : s.security = .verified) (ha : s.modPower = .active) (hn : nothingToDo s = true) :
    ∃ t, exec .idleEntry s = .next t ∧ t.modPower = .idle ∧ (∀ p, (physOf t p).power = .off) ∧
      (∀ p, (physOf t p).kept = (physOf s p).kept) ∧
      ∀ k, k < 16 → (stackOf s k).skipped = false → (stackOf t k).asleep = true := by
  obtain ⟨ml, he⟩ := exec_idleEntry hv ha hn
  refine ⟨_, he, rfl, fun p => by rw [physOf_idled]; rfl, fun p => by rw [physOf_idled]; rfl, fun k hk hs => ?_⟩
  exact asleepAll_asleep _ _ (.inl ((goodStacks_iff s k).mpr ⟨hk, hs⟩))

end Sys2Proof.Machine
end

section
/-! SUPPORT. The host's accesses to its window (R351, R352, R355) and what it gives up (R352). -/

namespace Sys2Proof.Machine

/-! ### Canonical addresses (R327) -/

theorem canonicalVa_canonVa {x : Nat} (h : x < 2 ^ 48) : canonicalVa (canonVa x) = true := by
  unfold canonVa canonicalVa
  split
  · simp only [Bool.or_eq_true, beq_iff_eq]
    omega
  · simp only [Bool.or_eq_true, beq_iff_eq]
    omega

theorem canonVa_mod {x : Nat} (h : x < 2 ^ 48) : canonVa x % 2 ^ 48 = x := by
  unfold canonVa
  split <;> omega

/-! ### The window (R351) -/

section window
variable {vf a : Nat} {s : State}

theorem windowByte_invalid (h : bit (getD 0#64 (vfOf s vf).window (a / 65536)) 63 = false) : windowByte s vf a = none :=
  if_neg fun hv => by simp [h] at hv

theorem windowByte_valid (ha : a / 65536 < 65536) (h : bit (getD 0#64 (vfOf s vf).window (a / 65536)) 63 = true) :
    ∃ va, windowByte s vf a = some (bits (getD 0#64 (vfOf s vf).window (a / 65536)) 15 0, va) ∧ canonicalVa va = true ∧
      va % 2 ^ 48 = bits (getD 0#64 (vfOf s vf).window (a / 65536)) 47 16 * 65536 + a % 65536 := by
  have hb : bits (getD 0#64 (vfOf s vf).window (a / 65536)) 47 16 < 2 ^ 32 := Nat.mod_lt _ (by decide)
  have hx : bits (getD 0#64 (vfOf s vf).window (a / 65536)) 47 16 * 65536 + a % 65536 < 2 ^ 48 := by omega
  exact ⟨_, if_pos ⟨ha, h⟩, canonicalVa_canonVa hx, canonVa_mod hx⟩

end window

/-! ### The halves of a line -/

theorem halfOf_setHalf (s : State) (key : Nat) (h : HalfHeld) : halfOf (setHalf s key h) key = h :=
  getD_setD_same _ _ _ _

theorem sameMap_setHalf (s : State) (key : Nat) (h : HalfHeld) : SameMap s (setHalf s key h) :=
  ⟨rfl, rfl, rfl, rfl, rfl, rfl, rfl, rfl⟩

theorem halfState_setHalfState (h : HalfHeld) (half : Nat) (x : Half2) : halfState (setHalfState h half x) half = x := by
  unfold halfState setHalfState
  split <;> rfl

theorem setHalfState_host (h : HalfHeld) (half : Nat) (x : Half2) :
    (setHalfState h half x).hostData = h.hostData ∧ (setHalfState h half x).hostMask = h.hostMask := by
  unfold setHalfState
  split <;> exact ⟨rfl, rfl⟩

theorem halfState_dropHalf (s : State) (key half : Nat) (x : Half2) :
    halfState (halfOf (dropHalf s key half x) key) half = x := by
  rw [dropHalf, halfOf_setHalf, halfState_setHalfState]

/-! ### The host writes (R352) -/

/-- The line's record at the bridge once the host has written a byte. -/
def hostWritten (h : HalfHeld) (va : Nat) (b : Byte) : HalfHeld :=
  setHalfState { h with hostData := mergeLine h.hostData (natLine b.toNat (va % 128) 1) (spanMask (va % 128) 1)
                        hostMask := h.hostMask ||| spanMask (va % 128) 1 } (va % 128 / 64) .e

theorem hostWrite_eq (s : State) (asid va : Nat) (b : Byte) : hostWrite s asid va b =
    setHalf s (lineKey asid va) (hostWritten (halfOf s (lineKey asid va)) va b) := rfl

theorem halfState_hostWrite (s : State) (asid va : Nat) (b : Byte) :
    halfState (halfOf (hostWrite s asid va b) (lineKey asid va)) (va % 128 / 64) = .e := by
  rw [hostWrite_eq, halfOf_setHalf, hostWritten, halfState_setHalfState]

/-- The host sees the byte it has written. -/
theorem hostByte_hostWrite (s : State) (asid va : Nat) (b : Byte) (p : Page) :
    hostByte (hostWrite s asid va b) asid va p = b := by
  have hi : va % 128 < 128 := Nat.mod_lt _ (by decide)
  have hm : inMask (spanMask (va % 128) 1) (va % 128) = true := (inMask_spanMask_iff hi).mpr ⟨le_rfl, by omega⟩
  have hb := lineByte_natLine b.toNat (o := va % 128) (n := 1) (i := 0) (by omega) (by omega)
  rw [Nat.add_zero, Nat.pow_zero, Nat.div_one, BitVec.ofNat_toNat, BitVec.setWidth_eq] at hb
  obtain ⟨hd, hk⟩ := setHalfState_host { halfOf s (lineKey asid va) with
    hostData := mergeLine (halfOf s (lineKey asid va)).hostData (natLine b.toNat (va % 128) 1) (spanMask (va % 128) 1)
    hostMask := (halfOf s (lineKey asid va)).hostMask ||| spanMask (va % 128) 1 } (va % 128 / 64) .e
  rw [hostByte, hostWrite_eq, halfOf_setHalf, hostWritten]
  rw [hk, hd, if_pos (by rw [inMask_or, hm, Bool.or_true]), lineByte_mergeLine, if_pos hm, hb]

/-! ### An access of the window (R355) -/

section access
variable {a : HostAccess} {s : State} (hc : cxlUp s = true) (hp : s.modPower ≠ .standby)
include hc hp

theorem hostWindowAccess_invalid (hb : hostBytes s a = none) : ∃ t, exec (.hostWindowAccess a) s = .next t ∧
    t.hostErrors = s.hostErrors ++ [(a.vf, a.addr)] ∧ t.mem = s.mem := by
  have he : exec (.hostWindowAccess a) s = execHostWindowAccess a s := rfl
  rw [he, execHostWindowAccess, if_neg (by simp [hc]), if_neg hp, hb]
  exact ⟨_, rfl, rfl, rfl⟩

section byte
variable {asid va : Nat} {p : Page} {b : Byte} (hb : hostBytes s a = some (some [(asid, va, p, b)]))
include hb

theorem hostWindowAccess_reads (hw : a.write = false) : ∃ t, exec (.hostWindowAccess a) s = .next t ∧
    t.hostReads = s.hostReads ++ [(a.vf, [hostByte s asid va p])] := by
  have he : exec (.hostWindowAccess a) s = execHostWindowAccess a s := rfl
  rw [he, execHostWindowAccess, if_neg (by simp [hc]), if_neg hp, hb]
  exact ⟨_, if_neg (by simp [hw]), rfl⟩

theorem hostWindowAccess_writes (hw : a.write = true) : exec (.hostWindowAccess a) s = .next (hostWrite s asid va b) := by
  have he : exec (.hostWindowAccess a) s = execHostWindowAccess a s := rfl
  rw [he, execHostWindowAccess, if_neg (by simp [hc]), if_neg hp, hb]
  exact if_pos hw

end byte

end access

/-! ### The host gives up a half (R352) -/

section invalidate
variable {key half : Nat} {data : Bool} {s : State} (hk : isParked s (.bridge key) = false)
include hk

/-- A half that the host has not modified is given up as it is. -/
theorem backInvalidate_clean (he : halfState (halfOf s key) half ≠ .e) : ∃ t,
    exec (.backInvalidate key half data) s = .next t ∧ t.mem = s.mem ∧
      halfState (halfOf t key) half = if data && halfState (halfOf s key) half != .i then .s else .i := by
  have hx : exec (.backInvalidate key half data) s = execBackInvalidate key half data s := rfl
  rw [hx, execBackInvalidate]
  rw [if_neg (by simp [hk]), if_neg fun h => he h.1]
  exact ⟨_, rfl, rfl, halfState_dropHalf _ _ _ _⟩

/-- What the host has modified is written back first. -/
theorem backInvalidate_writes {p : Page} (he : halfState (halfOf s key) half = .e)
    (hm : (halfOf s key).hostMask &&& halfMask half ≠ 0) (ht : translate s (keyAsid key) (keyVa key) = .ok p)
    (hc : cmpRoom s p (frameOf p (keyVa key))
      (mergeLine (pocLine s key p) (halfOf s key).hostData ((halfOf s key).hostMask &&& halfMask half)) = true) :
    ∃ t, exec (.backInvalidate key half data) s = .next t ∧ halfState (halfOf t key) half = (if data then .s else .i) ∧
      (p.aliased = false → pocLine t key p = mergeLine (pocLine (mscFill s key p).1 key p) (halfOf s key).hostData
        ((halfOf s key).hostMask &&& halfMask half)) := by
  have hx : exec (.backInvalidate key half data) s = execBackInvalidate key half data s := rfl
  rw [hx, execBackInvalidate]
  rw [if_neg (by simp [hk]), if_pos ⟨he, hm⟩, ht]
  dsimp only
  rw [if_pos hc, he]
  refine ⟨_, rfl, by cases data <;> exact halfState_dropHalf _ _ _ _, fun ha => ?_⟩
  have hl := (lineTakes_pocWrite s key p (halfOf s key).hostData hm 0
    (straddleSettle s key ((halfOf s key).hostMask &&& halfMask half))).1 ha rfl
  exact ((sameMap_setHalf _ _ _).pocLine key p).trans hl.1

end invalidate

end Sys2Proof.Machine
end

section
/-! SUPPORT. Keys and their slots, quotes and the unlock (R192, R359 to R361): which lines and holds a key's entry leaves,
and that the end of a task leaves the stages of the others. -/

namespace Sys2Proof.Machine

/-! ### Lines are dropped (R192, R359) -/

theorem cmpWriteBack_eq (s : State) (p : Page) : ∃ c, cmpWriteBack s p = { s with cmpPages := c } := by
  unfold cmpWriteBack
  split
  · split
    · split
      · exact ⟨_, rfl⟩
      · exact ⟨_, rfl⟩
    · exact ⟨_, rfl⟩
  · exact ⟨_, rfl⟩

/-- A write-back leaves the lines of the MSC and its mills: the line is dirty no more. -/
theorem mscWriteBack_keeps (s : State) (key : Nat) : (mscWriteBack s key).mills = s.mills ∧
    ((mscWriteBack s key).msc = s.msc ∨ ∃ l, (mscWriteBack s key).msc = put s.msc key l) := by
  unfold mscWriteBack
  split
  · next l hl =>
    split
    · have hm : (writePage s l.page (frameOf l.page (keyVa key)) l.data fullMask).mills = s.mills := by
        obtain ⟨e, n, h, -⟩ := writePage_writes s l.page (frameOf l.page (keyVa key)) l.data fullMask
        rw [h, writeFrame_eq]
      obtain ⟨c, h⟩ := cmpWriteBack_eq { writePage s l.page (frameOf l.page (keyVa key)) l.data fullMask with
        msc := put s.msc key { l with dirty := false } } l.page
      dsimp only
      rw [h]
      exact ⟨hm, .inr ⟨_, rfl⟩⟩
    · exact ⟨rfl, .inl rfl⟩
  · exact ⟨rfl, .inl rfl⟩

/-- A line that the MSC holds once one is dropped is another, and it was there. -/
theorem mem_mscDrop {s : State} {key : Nat} {e : Nat × MscLine} (h : e ∈ (mscDrop s key).msc) :
    e ∈ s.msc ∧ e.1 ≠ key := by
  obtain ⟨hm, hk⟩ := mem_erase.mp h
  have hw : (endLineHolds (mscWriteBack s key) key 11 none).msc = (mscWriteBack s key).msc := rfl
  rw [hw] at hm
  rcases (mscWriteBack_keeps s key).2 with hs | ⟨l, hs⟩
  · exact ⟨hs ▸ hm, hk⟩
  · rw [hs] at hm
    exact ⟨((mem_put.mp hm).resolve_left fun he => hk (congrArg Prod.fst he)).1, hk⟩

/-- A hold that stands once a line is dropped stood before. -/
theorem holds_mscDrop {s : State} {key m : Nat} {h : Nat × Hold} (hh : h ∈ (millOf (mscDrop s key) m).holds) :
    h ∈ (millOf s m).holds := by
  have he : millOf (mscDrop s key) m = millOf (endLineHolds (mscWriteBack s key) key 11 none) m := rfl
  rw [he, endLineHolds, endHoldsAt, millOf_modMill] at hh
  have hx : millOf (mscWriteBack s key) m = millOf s m := by
    rw [millOf, (mscWriteBack_keeps s key).1, millOf]
  split at hh
  · next hm =>
    subst hm
    exact hx ▸ (List.mem_filter.mp hh).1
  · exact hx ▸ hh

theorem mem_mscDrops {ks : List Nat} {s : State} {e : Nat × MscLine} (h : e ∈ (ks.foldl mscDrop s).msc) :
    e ∈ s.msc ∧ e.1 ∉ ks := by
  induction ks generalizing s with
  | nil => exact ⟨h, by simp⟩
  | cons k ks ih =>
    obtain ⟨hm, hk⟩ := ih h
    obtain ⟨hm, hn⟩ := mem_mscDrop hm
    exact ⟨hm, by simp [hk, hn]⟩

theorem holds_mscDrops {ks : List Nat} {s : State} {m : Nat} {h : Nat × Hold}
    (hh : h ∈ (millOf (ks.foldl mscDrop s) m).holds) : h ∈ (millOf s m).holds := by
  induction ks generalizing s with
  | nil => exact hh
  | cons k ks ih => exact holds_mscDrop (ih hh)

section drop
variable {s : State} {f : Page → Bool}

/-- No line is left whose page satisfies f. -/
theorem mem_dropLines {e : Nat × MscLine} (h : e ∈ (dropLines s f).msc) : f e.2.page = false := by
  obtain ⟨ml, hm⟩ := foldl_endHoldsAt_eq (fun _ h => f (holdPage s h)) 11 (List.range 64) s
  obtain ⟨he, hk⟩ := mem_mscDrops h
  have he' : e ∈ s.msc := by
    rw [flushHolds, hm] at he
    exact he
  by_contra hf
  exact hk (List.mem_map_of_mem (List.mem_filter.mpr ⟨he', by simpa using hf⟩))

/-- No hold is left whose page satisfied f. -/
theorem holds_dropLines {m : Nat} (hm : m < 64) {h : Nat × Hold} (hh : h ∈ (millOf (dropLines s f) m).holds) :
    f (holdPage s h.2) = false := by
  have hf := (foldl_endHoldsAt_holds (fun _ h => f (holdPage s h)) 11 (List.range 64) s m).trans
    (if_pos (List.mem_range.mpr hm))
  have hg : h ∈ (millOf (flushHolds s fun _ p => f p) m).holds := holds_mscDrops hh
  rw [flushHolds, hf] at hg
  simpa using (List.mem_filter.mp hg).2

end drop

/-! ### A key enters a slot (R359, R361) -/

section slot
variable {vf slot key : Nat} {dbg : Bool} {s : State} (hv : s.security = .verified) (hs : slot ≠ 0)
  (hp : (partOf s (vfOf s vf).part).slots.contains slot = true)

theorem keySlotWrite_refused (h : s.debug = .port) (hd : dbg = false) :
    exec (.keySlotWrite vf slot ⟨key, dbg⟩) s = .next s := by
  have he : exec (.keySlotWrite vf slot ⟨key, dbg⟩) s = execKeySlotWrite vf slot ⟨key, dbg⟩ s := rfl
  rw [he, execKeySlotWrite, if_neg (by simp [h, hd])]

include hv hs hp

theorem keySlotWrite_enters (h : s.debug = .window ∨ dbg = true) : ∃ t,
    exec (.keySlotWrite vf slot ⟨key, dbg⟩) s = .next t ∧ look t.keySlots slot = some key ∧
      (∀ e ∈ t.msc, e.2.page.key ≠ slot) ∧
      ∀ m, m < 64 → ∀ h ∈ (millOf t m).holds, (holdPage s h.2).key ≠ slot := by
  have he : exec (.keySlotWrite vf slot ⟨key, dbg⟩) s = execKeySlotWrite vf slot ⟨key, dbg⟩ s := rfl
  refine ⟨_, he.trans (if_pos ⟨hv, hs, h, hp⟩), look_put_same _ _ _, fun e hm => ?_, fun m hm e hh => ?_⟩
  · simpa using mem_dropLines (f := fun p => p.key == slot) hm
  · simpa using holds_dropLines (f := fun p => p.key == slot) hm hh

end slot

/-! ### Quotes (R360) -/

section quote
variable (vf nonce : Nat) {s : State} (hv : s.security = .verified)
include hv

theorem attestationQuote_signs (h : s.quoteIndex < 65536) : ∃ t q, exec (.attestationQuote vf nonce) s = .next t ∧
    t.quotes = s.quotes ++ [q] ∧ q.vf = vf ∧ q.nonce = nonce % 2 ^ 256 ∧ q.index = some s.quoteIndex ∧
      t.quoteIndex = s.quoteIndex + 1 := by
  have he : exec (.attestationQuote vf nonce) s = execAttestationQuote vf nonce s := rfl
  rw [he, execAttestationQuote, if_neg (by simp [hv])]
  exact ⟨_, _, if_neg (Nat.not_le.mpr h), rfl, rfl, rfl, rfl, rfl⟩

theorem attestationQuote_noKeys (h : 65536 ≤ s.quoteIndex) : ∃ t q, exec (.attestationQuote vf nonce) s = .next t ∧
    t.quotes = s.quotes ++ [q] ∧ q.index = none ∧ t.quoteIndex = s.quoteIndex := by
  have he : exec (.attestationQuote vf nonce) s = execAttestationQuote vf nonce s := rfl
  rw [he, execAttestationQuote, if_neg (by simp [hv])]
  exact ⟨_, _, if_pos h, rfl, rfl, rfl⟩

end quote

/-! ### The stages of the tasks -/

/-- The stage of a task, if there is such a task. -/
def stageOf (s : State) (n : Nat) : Option TaskStage := (taskOf s n).map Task.stage

/-- Every task is at the stage it was at, no task comes or goes, and the key slots are the same. -/
structure SameStages (s t : State) : Prop where
  stages : ∀ n, stageOf t n = stageOf s n
  keySlots : t.keySlots = s.keySlots

theorem SameStages.refl (s : State) : SameStages s s := ⟨fun _ => rfl, rfl⟩

theorem SameStages.trans {s t u : State} (h : SameStages s t) (k : SameStages t u) : SameStages s u :=
  ⟨fun n => (k.stages n).trans (h.stages n), k.keySlots.trans h.keySlots⟩

theorem SameStages.of_tasks {s t : State} (h : t.tasks = s.tasks) (hk : t.keySlots = s.keySlots) : SameStages s t :=
  ⟨fun n => by rw [stageOf, taskOf, h, stageOf, taskOf], hk⟩

theorem Quiet.stages {s t : State} (h : Quiet s t) : SameStages s t := .of_tasks h.tasks (h.get State.keySlots)

theorem sameStages_foldl {α : Type} {g : State → α → State} (h : ∀ s x, SameStages s (g s x)) (l : List α) (s : State) :
    SameStages s (l.foldl g s) := by
  induction l generalizing s with
  | nil => exact .refl s
  | cons x l ih => exact (h s x).trans (ih _)

theorem stageOf_modTask (s : State) (n k : Nat) (f : Task → Task) :
    stageOf (modTask s n f) k = if k = n then (taskOf s n).map fun t => (f t).stage else stageOf s k := by
  rw [stageOf, taskOf_modTask]
  split
  · rw [Option.map_map]
    rfl
  · rfl

theorem sameStages_modTask (s : State) (n : Nat) {f : Task → Task} (hf : ∀ t, (f t).stage = t.stage) :
    SameStages s (modTask s n f) := by
  refine ⟨fun k => ?_, (sameMap_modTask s n f).keySlots⟩
  rw [stageOf_modTask]
  split
  · next hk =>
    subst hk
    simp only [hf]
    rfl
  · rfl

/-! ### Writes that land keep the stages (R348) -/

theorem sameStages_logKeep (s : State) (key : Nat) (p : Page) (m : BitVec 128) (task : Nat) :
    SameStages s (logKeep s key p m task) := by
  unfold logKeep
  dsimp only
  split
  · exact .refl s
  · refine sameStages_modTask _ _ fun t => ?_
    split
    · rfl
    · split
      · rfl
      · split <;> rfl

/-- A task whose log has forgotten what another has written. -/
def logForgotten (key a : Nat) (m : BitVec 128) (task n : Nat) (x : Task) : Task :=
  if n = task then x else
    { x with log := x.log.map fun r => if r.key = key ∨ r.frame = a then { r with mask := r.mask &&& ~~~m } else r }

theorem sameStages_logForget (s : State) (key a : Nat) (m : BitVec 128) (task : Nat) :
    SameStages s (logForget s key a m task) := by
  refine ⟨fun n => ?_, rfl⟩
  have h : (logForget s key a m task).tasks = s.tasks.map fun e => (e.1, logForgotten key a m task e.1 e.2) :=
    List.map_congr_left fun e _ => by
      unfold logForgotten
      split <;> rfl
  rw [stageOf, taskOf, h, look_map_entries, Option.map_map]
  refine congrArg (fun g => Option.map g _) (funext fun x => ?_)
  rw [Function.comp_apply, logForgotten]
  split <;> rfl

theorem sameStages_pocWrite (s : State) (key : Nat) (p : Page) (d : BitVec 1024) (m : BitVec 128) (task : Nat)
    (but : Option Nat) : SameStages s (pocWrite s key p d m task but) := by
  refine ⟨?_, pocStrip_get (pocStrip_pocWrite s key p d m task but) State.keySlots⟩
  unfold pocWrite pocWriteVia
  dsimp only
  split
  · exact fun _ => rfl
  · have h : SameStages s (logWrite s key p m task) :=
      (sameStages_logForget s key _ m task).trans (sameStages_logKeep _ _ _ _ _)
    have ht : ∀ t : State, t.tasks = (logWrite s key p m task).tasks → ∀ n, stageOf t n = stageOf s n := fun t ht n => by
      rw [← h.stages n, stageOf, taskOf, ht, stageOf, taskOf]
    refine ht _ ((tagWrite_tasks _ _ _).trans ((heatWrite_tasks _ _).trans ?_))
    split
    · exact (frameWrite_tasks _ _ _ _ _).trans (cmpReserve_tasks _ _ _ _)
    · exact (mscStore_tasks _ _ _ _ _).trans (cmpReserve_tasks _ _ _ _)

theorem sameStages_cleanL2Line (s : State) (k : Nat) (m : BitVec 128) : SameStages s (cleanL2Line s k m) := by
  unfold cleanL2Line
  split
  · dsimp only
    split
    · exact .of_tasks rfl rfl
    · exact .of_tasks rfl rfl
  · exact .refl s

theorem sameStages_cleanSources (s : State) (w : WriteReq) : SameStages s (cleanSources s w) := by
  have hc : ∀ u : State, SameStages u (cleanCore u w.lc w.key w.mask) := fun _ => .of_tasks rfl rfl
  unfold cleanSources
  split
  · exact sameStages_cleanL2Line _ _ _
  · exact hc s
  · exact ((sameStages_cleanL2Line _ _ _).trans (sameStages_cleanL2Line _ _ _)).trans (hc _)

theorem sameStages_landMsc (s : State) (w : WriteReq) (p : Page) : SameStages s (landMsc s w p) := by
  have h := (sameStages_foldl (fun t (e : Nat × BitVec 128) =>
    sameStages_pocWrite t w.key (outLine s w p).page (outLine s w p).data (e.2 &&& fullMask) e.1 none)
    (outLine s w p).dirty s).trans (sameStages_cleanSources _ w)
  unfold landMsc
  dsimp only
  split
  · obtain ⟨x, e⟩ := refreshL2_eq _ _ _ _ _
    rw [e]
    exact h.trans (.of_tasks rfl rfl)
  · obtain ⟨x, e⟩ := refreshL2_eq _ _ _ _ _
    rw [e]
    exact h.trans (.of_tasks rfl rfl)

theorem sameStages_leaseSender (s : State) (lc c task va : Nat) : SameStages s (leaseSender s lc c task va) := by
  have h0 : SameStages s (heatMiss s (asidOf s lc) va) := by
    obtain ⟨g, h, e⟩ := heatMiss_eq s (asidOf s lc) va
    rw [e]
    exact .of_tasks rfl rfl
  have h1 := h0.trans (quiet_leaseCrew (heatMiss s (asidOf s lc) va) task (some (lc, c))).stages
  unfold leaseSender
  dsimp only
  split
  · exact h0
  · split
    · exact h1.trans (freeze_quiet _ _ _ _ _ _ _ _).stages
    · exact h1.trans (quiet_pendCause _ _ _ _).stages

theorem sameStages_flushAll (ws : List WriteReq) (s : State) : SameStages s (flushAll s ws).1 := by
  induction ws generalizing s with
  | nil => exact .refl s
  | cons w ws ih =>
    have h1 : SameStages s (flushOne s w) := by
      unfold flushOne
      split
      · exact sameStages_landMsc _ _ _
      · exact .refl s
    rw [flushAll]
    split
    · exact h1.trans (ih _)
    · split
      · exact (sameStages_leaseSender _ _ _ _ _).trans (ih _)
      · exact .refl s

/-! ### Cores that retire keep the stages (R119, R350) -/

theorem sameStages_retireCore (s : State) (lc keep : Nat) : SameStages s (retireCore s lc keep) := by
  obtain ⟨ph, tr, h⟩ := retireCore_fields s lc keep
  obtain ⟨k, n, hd⟩ := droppedState_lost s lc
  have hw : SameStages s (wordsDropped s lc) := sameStages_modTask _ _ fun _ => rfl
  have hl : (leftState s lc keep).keySlots = s.keySlots := by
    obtain ⟨ts, ys, n, ph, e⟩ := leftState_eq s lc keep
    rw [e]
  have ht : (leftState s lc keep).tasks = (wordsDropped s lc).tasks := by
    rw [leftState_tasks, hd]
    rfl
  rw [h]
  exact hw.trans (.of_tasks ht (hl.trans hw.keySlots.symm))

theorem sameStages_retireCrew (s : State) (task : Nat) : SameStages s (retireCrew s task) := by
  refine sameStages_foldl (fun t lc => ?_) _ s
  have hr := sameStages_foldl (fun u c => (.of_tasks rfl rfl : SameStages u (rearm u lc c))) (keys (coreOf t lc).ctxs) t
  dsimp only
  split
  · exact hr
  · exact hr.trans (sameStages_retireCore _ _ _)

theorem sameStages_settleClock (s : State) (yard : Nat) : SameStages s (settleClock s yard) := by
  unfold settleClock
  dsimp only
  split
  · unfold lowerRail
    split
    · exact .of_tasks rfl rfl
    · exact .of_tasks rfl rfl
  · exact .refl s

theorem sameStages_abandonTask (s : State) (task : Nat) : SameStages s (abandonTask s task) := by
  unfold abandonTask
  dsimp only
  refine SameStages.trans ?_ (sameStages_modTask _ _ fun _ => rfl)
  refine SameStages.trans ?_ (sameStages_foldl sameStages_settleClock _ _)
  exact .of_tasks rfl rfl

/-! ### The unlock ends every task (R361) -/

/-- A task's end, but for its stage. -/
def endedCrew (s : State) (task : Nat) : State :=
  let s1 := (taskCores s task).foldl (fun t lc => (flushCore t lc).1) s
  (takeFree ((List.range 64).foldl (fun u m => endHoldsAt u m (fun _ h => h.task == task) 0)
    (retireCrew (abandonTask s1 task) task))).2

theorem sameStages_endedCrew (s : State) (task : Nat) : SameStages s (endedCrew s task) := by
  have h1 := sameStages_foldl (fun t lc => sameStages_flushAll (releaseWrites t lc 0 scopeSys true) t) (taskCores s task) s
  have h2 := (h1.trans (sameStages_abandonTask _ task)).trans (sameStages_retireCrew _ task)
  unfold endedCrew
  dsimp only
  obtain ⟨ml, e⟩ := foldl_endHoldsAt_eq (fun _ h => h.task == task) 0 (List.range 64) (retireCrew (abandonTask
    ((taskCores s task).foldl (fun t lc => (flushCore t lc).1) s) task) task)
  rw [e]
  exact h2.trans (.of_tasks rfl rfl)

theorem endTask_eq (s : State) (task : Nat) : ∃ c, endTask s task =
    modTask (endedCrew s task) task (fun t => { t with stage := .done, cause := c, rolling := false }) := ⟨_, rfl⟩

theorem stageOf_endTask (s : State) (task n : Nat) :
    stageOf (endTask s task) n = if n = task then (stageOf s n).map fun _ => .done else stageOf s n := by
  obtain ⟨c, h⟩ := endTask_eq s task
  have hs := (sameStages_endedCrew s task).stages n
  rw [h, stageOf_modTask, hs]
  split
  · next hn =>
    subst hn
    rw [← hs, stageOf, Option.map_map]
    rfl
  · rfl

theorem endTask_keySlots (s : State) (task : Nat) : (endTask s task).keySlots = s.keySlots := by
  obtain ⟨c, h⟩ := endTask_eq s task
  rw [h]
  exact (sameMap_modTask _ _ _).keySlots.trans (sameStages_endedCrew s task).keySlots

theorem stageOf_endTasks (l : List Nat) (s : State) {n : Nat} {g : TaskStage} (h : stageOf (l.foldl endTask s) n = some g)
    (hn : n ∈ l ∨ ∀ g, stageOf s n = some g → g = .done) : g = .done := by
  induction l generalizing s with
  | nil => exact hn.resolve_left (by simp) g h
  | cons a l ih =>
    refine ih _ h ?_
    rw [stageOf_endTask]
    by_cases ha : n = a
    · rw [if_pos ha]
      refine .inr fun g hg => ?_
      obtain ⟨_, -, e⟩ := Option.map_eq_some_iff.mp hg
      exact e.symm
    · rw [if_neg ha]
      exact hn.imp_left fun hm => (List.mem_cons.mp hm).resolve_left ha

theorem debugUnlock_granted (s : State) : ∃ t, exec (.debugUnlock true) s = .next t ∧ t.debug = .port ∧
    t.keySlots = [] ∧ ∀ n q, taskOf t n = some q → q.stage = .done := by
  have he : exec (.debugUnlock true) s = execDebugUnlock true s := rfl
  refine ⟨_, he.trans (if_pos rfl), rfl, foldl_keeps State.keySlots endTask_keySlots _ _, fun n q hq => ?_⟩
  have hg := congrArg (Option.map Task.stage) hq
  refine stageOf_endTasks _ { dropLines s (fun p => p.key != 0) with keySlots := [] } hg ?_
  by_cases hk : n ∈ keys (dropLines s fun p => p.key != 0).tasks
  · exact .inl hk
  · have hn : stageOf { dropLines s (fun p => p.key != 0) with keySlots := [] } n = none :=
      congrArg (Option.map Task.stage) (look_eq_none hk)
    exact .inr fun g hg => by simp [hn] at hg

end Sys2Proof.Machine
end

section
/-! O53. Module reset, the host's accesses, keys, quotes, the unlock and the entry to IDLE. -/

open Sys2Proof.Machine

/-- Settles O53: each event by its equation. -/
theorem hostAndModule : Obligations.HostAndModule := by
  unfold Obligations.HostAndModule
  refine ⟨?resets, ?window, ?accesses, ?halves, ?slots, ?quotes, ?unlock, ?idle⟩
  case resets => exact fun b s => ⟨moduleReset_unverified s, moduleReset_verified s, moduleReset_noReeve s⟩
  case window => exact fun vf a s ha => ⟨windowByte_invalid, windowByte_valid ha⟩
  case accesses =>
    intro a s
    refine ⟨hostWindowAccess_invalid, fun asid va p b hc hp hb => ⟨hostWindowAccess_reads hc hp hb, fun hw => ?_⟩⟩
    exact ⟨_, hostWindowAccess_writes hc hp hb hw, hostByte_hostWrite s asid va b p, rfl, rfl, halfState_hostWrite s asid va b⟩
  case halves => exact fun key half data s hk => ⟨backInvalidate_clean hk, fun p => backInvalidate_writes hk⟩
  case slots =>
    exact fun vf slot key dbg s hv hs hp => ⟨keySlotWrite_refused, keySlotWrite_enters hv hs hp⟩
  case quotes => exact fun vf nonce s hv => ⟨attestationQuote_signs vf nonce hv, attestationQuote_noKeys vf nonce hv⟩
  case unlock => exact fun s => ⟨debugUnlock_granted s, rfl⟩
  case idle => exact fun s => idleEntry_enters
end

section
/-! SUPPORT. Enqueuing a matrix job (R222 to R224, R232, R236, R237): the checks in their order, what a job's acceptance
leaves, and which identifiers are pending. -/

namespace Sys2Proof.Machine

/-! ### An instruction of the V class that ends (R110, R386) -/

/-- An instruction that ends after its class has been counted ends as it would have without. -/
theorem Counted.wrote {s u t : State} (h : Counted s u) {n : Names} {w pc : Word} (k : Wrote n u t w pc) :
    Wrote n s t w pc := by
  obtain ⟨hcur, hctx, hwords, hqueues⟩ := k.1
  refine ⟨⟨hcur.trans h.cur, hctx.trans (by rw [h.me]), ?_, fun lc p => ?_⟩,
    AllKept.trans (h.quiet.kept fun lc c _ => h.ctxOf lc c) k.2 h.cur⟩
  · rw [hwords, h.words, sends_congr h.cur h.me]
  · rw [hqueues lc p, h.coreOf, h.cur]

theorem finish_countV (n : Names) (len : Nat) (s : State) (w : Word) :
    ∃ t, finish n len (countV s) w = .next t ∧ Wrote n s t w ((me s).pc + word len) := by
  obtain ⟨t, ht, hw⟩ := finish_after n len (countV_counted s).me w
  exact ⟨t, ht, (countV_counted s).wrote hw⟩

/-! ### The checks of a job (R232) -/

theorem factorTag_false (t : Tag) : factorTag t = false ↔ t ∉ [Tag.i8, .dm8, .fp16, .bf16] := by
  simp [factorTag, and_assoc]

theorem tilesCheck_one (c : LCore) (t : Nat) (next : JobCheck) : tilesCheck c [t] next =
    if (tileOf c t).state = .empty then .trap causeTile else if moving (tileOf c t) = true then .waits else next := by
  simp [tilesCheck]

theorem tilesCheck_two (c : LCore) (a b : Nat) (next : JobCheck) : tilesCheck c [a, b] next =
    if (tileOf c b).state = .empty ∨ (tileOf c a).state = .empty then .trap causeTile
    else if moving (tileOf c b) = true ∨ moving (tileOf c a) = true then .waits else next := by
  simp [tilesCheck, or_comm]

/-- The checks of MXMM with a tile op. -/
theorem mmCheck_tile (c : LCore) (op tb : Nat) : mmCheck c false op tb =
    if (tileOf c tb).tag ∉ [Tag.i8, .dm8, .fp16, .bf16] ∨ (tileOf c op).tag ≠ (tileOf c tb).tag then .trap causeFormat
    else if (tileOf c tb).state = .empty ∨ (tileOf c op).state = .empty then .trap causeTile
    else if moving (tileOf c tb) = true ∨ moving (tileOf c op) = true then .waits
    else if (tileOf c tb).size % (2048 * (width (tileOf c tb).tag / 8)) ≠ 0 ∨
        (tileOf c op).size ≠ (tileOf c tb).size then .trap causeProtect
    else .ok := by
  simp [mmCheck, tilesCheck_two, factorTag_false]

/-- The checks of MXMM with an accumulator op. -/
theorem mmCheck_acc (c : LCore) (op tb : Nat) : mmCheck c true op tb =
    if (tileOf c tb).tag ∉ [Tag.i8, .dm8, .fp16, .bf16] then .trap causeFormat
    else if (tileOf c tb).state = .empty then .trap causeTile
    else if moving (tileOf c tb) = true then .waits
    else if (tileOf c tb).size % (2048 * (width (tileOf c tb).tag / 8)) ≠ 0 ∨
        (tileOf c tb).size ≠ 16384 * (width (tileOf c tb).tag / 8) then .trap causeProtect
    else .ok := by
  simp [mmCheck, tilesCheck_one, factorTag_false, accElems]

theorem drainCheck_eq (c : LCore) (t : Tag) (tile : Nat) : drainCheck c t tile =
    if (tileOf c tile).tag ≠ t then .trap causeFormat
    else if (tileOf c tile).state = .empty then .trap causeTile
    else if moving (tileOf c tile) = true then .waits
    else if (tileOf c tile).size ≠ 16384 * (width t / 8) then .trap causeProtect
    else .ok := by
  rw [drainCheck, tilesCheck_one]
  exact if_congr bne_iff_ne rfl rfl

/-- No check of a job answers POISON. -/
theorem jobCheck_cause {c : LCore} {k : JobKind} {cause : Nat} (h : jobCheck c k = .trap cause) :
    cause ≠ causePoison := by
  have hd : causeFormat ≠ causePoison ∧ causeTile ≠ causePoison ∧ causeProtect ≠ causePoison := by decide
  obtain ⟨hf, ht, hp⟩ := hd
  cases k with
  | mxz acc => cases h
  | mm dup acc opAcc op tb =>
    cases opAcc
    · rw [jobCheck, mmCheck_tile] at h
      split_ifs at h <;> cases h <;> assumption
    · rw [jobCheck, mmCheck_acc] at h
      split_ifs at h <;> cases h <;> assumption
  | drain t tile acc =>
    rw [jobCheck, drainCheck_eq] at h
    split_ifs at h <;> cases h <;> assumption

/-! ### Pending identifiers (R236) -/

/-- How far an identifier lies behind the next one, as the machine computes it. -/
theorem idDistance (n i : Nat) : (((n + 65536 - i % 65536) % 65536 : Nat) : Int) = ((n : Int) - i) % 65536 := by omega

theorem jobPending_iff {c : LCore} (hi : ∀ i ∈ c.mxOut, i < 65536) (j : Nat) :
    jobPending c j = true ↔ ((c.mxNext : Int) - j) % 65536 ≠ 0 ∧ ((c.mxNext : Int) - j) % 65536 ≤ 32768 ∧
      ∃ i ∈ c.mxOut, ((c.mxNext : Int) - j) % 65536 ≤ ((c.mxNext : Int) - i) % 65536 := by
  simp only [jobPending, Bool.and_eq_true, decide_eq_true_eq, List.any_eq_true, ← idDistance, and_assoc]
  refine and_congr (by omega) (and_congr (by omega) (exists_congr fun i => and_congr_right fun hm => ?_))
  rw [Nat.mod_eq_of_lt (hi i hm)]
  omega

theorem jobChecks (c : LCore) : JobChecks c := by
  refine ⟨fun dup opAcc acc op tb => ?_, fun t tile acc => drainCheck_eq c t tile, fun acc => rfl,
    fun j _ hi => jobPending_iff hi j⟩
  cases opAcc
  · simpa [jobCheck] using mmCheck_tile c op tb
  · simpa [jobCheck] using mmCheck_acc c op tb

/-! ### The forms that enqueue (R223, R224) -/

theorem exec_jobRow {i : Instr} {d : F6} {k : JobKind} (h : jobRow i = some (d, k)) (s : State) :
    exec i s = enqueueJob d k s := by
  unfold jobRow at h
  split at h
  case h_9 => cases h
  all_goals cases h; rfl

theorem enqueueJob_unowned {s : State} {k : JobKind} (d : F6) (h : (jobAccs k).all (ownsAcc (myCore s)) = false) :
    ∃ t, enqueueJob d k s = .next t ∧ Trapped s t causeIllegalReg 0 0#64 [] := by
  rw [enqueueJob, if_pos h]
  exact trap_trapped s (by decide)

/-- What becomes of an instruction that enqueues by the answer of its job's checks, when the queue has a place. -/
def answerJob (d : F6) (k : JobKind) (s : State) : JobCheck → Res
  | .trap cause => trap s cause
  | .waits => waitAt s 0
  | .ok =>
    if jobBehindResize (myCore s) k then waitAt s 0
    else finish (destNames d) long (countV (acceptJob s (myYard s) k)) (word (myCore s).mxNext)

section enqueue
variable {d : F6} {k : JobKind} {s : State} (ho : (jobAccs k).all (ownsAcc (myCore s)) = true)
  (hi : Issues (destNames d) s)
include ho hi

/-- An instruction whose core owns its accumulators and whose names are ready: the place in the queue, then the
checks. -/
theorem enqueueJob_issued : enqueueJob d k s =
    if queueFull (yardOf s (myYard s)) then waitAt s 0 else answerJob d k s (jobCheck (myCore s) k) := by
  rw [enqueueJob, if_neg (by simp [ho])]
  refine (issue_ready hi _).trans (if_congr Iff.rfl rfl ?_)
  cases jobCheck (myCore s) k <;> rfl

theorem enqueueJob_full (hq : 16 ≤ (yardOf s (myYard s)).jobs.length) :
    ∃ t, enqueueJob d k s = .next t ∧ HeldBack s t 0 := by
  rw [enqueueJob_issued ho hi, if_pos (by simpa [queueFull] using hq)]
  exact waitAt_heldBack s rfl

section placed
variable (hq : (yardOf s (myYard s)).jobs.length < 16)
include hq

theorem enqueueJob_placed : enqueueJob d k s = answerJob d k s (jobCheck (myCore s) k) := by
  rw [enqueueJob_issued ho hi, if_neg (by simpa [queueFull] using hq)]

theorem enqueueJob_traps {cause : Nat} (hc : jobCheck (myCore s) k = .trap cause) :
    ∃ t, enqueueJob d k s = .next t ∧ Trapped s t cause 0 0#64 [] := by
  rw [enqueueJob_placed ho hi hq, hc]
  exact trap_trapped s (jobCheck_cause hc)

theorem enqueueJob_waits
    (hc : jobCheck (myCore s) k = .waits ∨ (jobCheck (myCore s) k = .ok ∧ jobBehindResize (myCore s) k = true)) :
    ∃ t, enqueueJob d k s = .next t ∧ HeldBack s t 0 := by
  rw [enqueueJob_placed ho hi hq]
  rcases hc with hc | ⟨hc, hb⟩
  · rw [hc]
    exact waitAt_heldBack s rfl
  · rw [hc, answerJob, if_pos hb]
    exact waitAt_heldBack s rfl

end placed
end enqueue

/-! ### What the queue's acceptance leaves (R223, R224, R227, R231) -/

/-- The job stands in the queue, counted among the core's outstanding ones; the generator has not stepped yet. -/
def queuedJob (s : State) (yard : Nat) (k : JobKind) : State :=
  modCore (modYard s yard (fun y => { y with jobs := y.jobs ++ [newJob s k], jobTurn := (myCore s).phys % 8 })) s.cur.1
    (fun c => startDrain { c with mxNext := (c.mxNext + 1) % 65536, mxOut := c.mxOut ++ [c.mxNext] } k)

theorem acceptJob_eq (s : State) (yard : Nat) (k : JobKind) : acceptJob s yard k =
    if jobSteps k (me s).fmode then modMe (queuedJob s yard k) (fun x => { x with srg := srgAfter accElems x.srg })
    else queuedJob s yard k := rfl

theorem startDrain_eq (c : LCore) (k : JobKind) : startDrain c k = { c with tiles := (startDrain c k).tiles } := by
  cases k <;> rfl

theorem queuedJob_me (s : State) (yard : Nat) (k : JobKind) : me (queuedJob s yard k) = me s :=
  ((SameCtxs.of_cores rfl).trans (sameCtxs_modCore _ _ _ fun c => by rw [startDrain_eq])).me rfl

/-- A job's acceptance leaves its context where it stands. -/
theorem acceptJob_pc (s : State) (yard : Nat) (k : JobKind) : (me (acceptJob s yard k)).pc = (me s).pc := by
  rw [acceptJob_eq]
  split
  · rw [me_modMe, queuedJob_me]
  · rw [queuedJob_me]

theorem acceptJob_yards (s : State) (yard : Nat) (k : JobKind) :
    (acceptJob s yard k).yards = (queuedJob s yard k).yards := by
  rw [acceptJob_eq]
  split <;> rfl

/-- What a change of a context leaves of a core. -/
theorem setCtx_part {β : Type} {f : LCore → β} (hf : ∀ (c : LCore) xs, f { c with ctxs := xs } = f c) (s : State)
    (lc c : Nat) (x : Ctx) (a : Nat) : f (coreOf (setCtx s lc c x) a) = f (coreOf s a) := by
  rw [setCtx, coreOf_setCore]
  split
  · next h => rw [hf, h]
  · rfl

/-- What a job's acceptance leaves of its core, but for the contexts. -/
theorem acceptJob_part {β : Type} {f : LCore → β} (hf : ∀ (c : LCore) xs, f { c with ctxs := xs } = f c) (s : State)
    (yard : Nat) (k : JobKind) : f (coreOf (acceptJob s yard k) s.cur.1) =
      f (startDrain { myCore s with mxNext := ((myCore s).mxNext + 1) % 65536
                                    mxOut := (myCore s).mxOut ++ [(myCore s).mxNext] } k) := by
  have hq : coreOf (queuedJob s yard k) s.cur.1 = startDrain { myCore s with
      mxNext := ((myCore s).mxNext + 1) % 65536, mxOut := (myCore s).mxOut ++ [(myCore s).mxNext] } k :=
    coreOf_modCore_same _ _ _
  rw [acceptJob_eq, ← hq]
  split
  · exact setCtx_part hf (queuedJob s yard k) _ _ _ _
  · rfl

theorem acceptJob_jobs (s : State) (y : Nat) (k : JobKind) :
    (yardOf (acceptJob s y k) y).jobs = (yardOf s y).jobs ++ [newJob s k] := by
  rw [yardOf, acceptJob_yards, queuedJob, modCore_yards, ← yardOf, yardOf_modYard, if_pos rfl]

theorem acceptJob_next (s : State) (y : Nat) (k : JobKind) :
    (coreOf (acceptJob s y k) s.cur.1).mxNext = ((myCore s).mxNext + 1) % 65536 := by
  rw [acceptJob_part (f := LCore.mxNext) (fun _ _ => rfl), startDrain_eq]

theorem acceptJob_outstanding (s : State) (y : Nat) (k : JobKind) :
    (coreOf (acceptJob s y k) s.cur.1).mxOut = (myCore s).mxOut ++ [(myCore s).mxNext] := by
  rw [acceptJob_part (f := LCore.mxOut) (fun _ _ => rfl), startDrain_eq]

theorem tileOf_setTile_same (c : LCore) (k : Nat) (t : Tile) : tileOf (setTile c k t) k = t := getD_setD_same _ _ _ _

theorem acceptJob_filling (s : State) (y : Nat) (t : Tag) (tile acc : Nat) :
    (tileOf (coreOf (acceptJob s y (.drain t tile acc)) s.cur.1) tile).state = .filling := by
  rw [acceptJob_part (f := (tileOf · tile)) (fun _ _ => rfl), startDrain, tileOf_setTile_same]

/-- A job whose checks pass is accepted, its identifier written. -/
theorem enqueueJob_accepts {d : F6} {k : JobKind} {s : State} (ho : (jobAccs k).all (ownsAcc (myCore s)) = true)
    (hi : Issues (destNames d) s) (hq : (yardOf s (myYard s)).jobs.length < 16) (hc : jobCheck (myCore s) k = .ok)
    (hb : jobBehindResize (myCore s) k = false) : ∃ t, enqueueJob d k s = .next t ∧
      Wrote (destNames d) (acceptJob s (myYard s) k) t (word (myCore s).mxNext) ((me s).pc + 4#64) := by
  rw [enqueueJob_placed ho hi hq, hc, answerJob, if_neg (by simp [hb]), ← acceptJob_pc s (myYard s) k]
  exact finish_countV _ long _ _

/-! ### WAITJ and POLLJ (R236) -/

section waitj
variable {a : Opnd} {s : State} (hi : Issues ⟨[a], none, [], []⟩ s)
include hi

theorem exec_waitj_ready : exec (.waitj a) s = if jobPending (myCore s) (valB s a).toNat then waitAt s 5
    else finish ⟨[a], none, [], []⟩ long (countV s) 0#64 := by
  rw [show exec (.waitj a) s = execWaitj a s from rfl, execWaitj, issue_ready hi]

theorem waitj_done (h : jobPending (myCore s) (valB s a).toNat = false) : ∃ t, exec (.waitj a) s = .next t ∧
    Wrote ⟨[a], none, [], []⟩ s t 0#64 ((me s).pc + 4#64) := by
  rw [exec_waitj_ready hi, if_neg (by simp [h])]
  exact finish_countV _ long s _

theorem waitj_waits (h : jobPending (myCore s) (valB s a).toNat = true) : ∃ t, exec (.waitj a) s = .next t ∧
    Waits s t 5 (me s).stage := by
  rw [exec_waitj_ready hi, if_pos h]
  exact waitAt_waits s rfl

end waitj

theorem pollj_answers {d : F6} {a : Opnd} {s : State} (hi : Issues ⟨[a], some d.toNat, [], []⟩ s) :
    ∃ t, exec (.pollj d a) s = .next t ∧ Wrote ⟨[a], some d.toNat, [], []⟩ s t
      (if jobPending (myCore s) (valB s a).toNat then 1#64 else 0#64) ((me s).pc + 4#64) := by
  rw [show exec (.pollj d a) s = execPollj d a s from rfl, execPollj, issue_ready hi]
  exact finish_countV _ long s _

end Sys2Proof.Machine
end

section
/-! SUPPORT. What a matrix job computes (R226 to R228, R231), and what it has read of a changed byte (R238). -/

namespace Sys2Proof.Machine

/-! ### The generator's values (R83, R227) -/

theorem srgAfter_eq (n : Nat) (g : Word) : srgAfter n g = srgNext^[n] g := by
  rw [srgAfter, List.foldl_const, List.length_range]

theorem jobRandom_eq (j : Job) (i : Nat) : jobRandom j i = roundBits (fmodeRM j.fm) j.srg (i + 1) := by
  rw [jobRandom, roundBits, srgAfter_eq, srgBits_eq]

/-- An element through the down-converter (R227, R231). -/
theorem convertAcc_code (j : Job) (t : Tag) (a : Sparse (BitVec 32)) (i : Nat) : (convertAcc j t a i).1 =
    (enc j.fm (val j.fm .fp32 (getD 0#32 a i).toNat).1 t (fmodeRM j.fm)
      (roundBits (fmodeRM j.fm) j.srg (i + 1))).1 := by
  rw [← jobRandom_eq]
  rfl

/-! ### The operands (R226, R227) -/

theorem factors (j : Job) : Factors j := by
  unfold Factors
  intro t at_ a kk m k n
  refine ⟨fun h => ?_, rfl, ?_⟩
  · rw [factorA, snapElem, h]
    rfl
  · rw [← convertAcc_code]
    rfl

/-! ### A group of sixteen products (R227, R228) -/

/-- A product of two finite values is their exact product, whatever sign a zero has. -/
theorem product_fin (t : Tag) (m n : Bool) (x y : Rat) : ∃ l, (product t (.fin m x) (.fin n y)).1 = .fin l (x * y) := by
  obtain ⟨l, hl⟩ := finVal_fin (m != n) (x * y)
  have hp : product t (.fin m x) (.fin n y) =
      (if isInt t then .fin (decide (x * y < 0)) (x * y) else .fin l (x * y), noFlags) := by
    simp only [product, mulVal, hl]
  rw [hp]
  dsimp only
  split
  · exact ⟨_, rfl⟩
  · exact ⟨_, rfl⟩

/-- The sum of the first n products of a group, as `groupSum` gathers it. -/
def groupPart (j : Job) (a b : Nat → Valued) (g n : Nat) : Sum × Flags :=
  (List.range n).foldl (fun (acc : Sum × Flags) i =>
    let x := a (16 * g + i)
    let y := b (16 * g + i)
    let p := product j.tileB.tag x.1 y.1
    (sumAdd acc.1 p.1, orFlags acc.2 (orFlags (orFlags x.2 y.2) p.2))) (sumStart, noFlags)

theorem groupPart_succ (j : Job) (a b : Nat → Valued) (g n : Nat) : (groupPart j a b g (n + 1)).1 =
    sumAdd (groupPart j a b g n).1 (product j.tileB.tag (a (16 * g + n)).1 (b (16 * g + n)).1).1 := by
  rw [groupPart, List.range_succ, List.foldl_append]
  rfl

theorem groupSum_code (j : Job) (a b : Nat → Valued) (g : Nat) :
    (groupSum j a b g).1 = (enc j.fm (sumVal .rne (groupPart j a b g 16).1).1 .fp32 .rne 0).1 := by
  unfold groupSum groupPart
  rfl

section group
variable {j : Job} {a b : Nat → Valued} {g : Nat} {x y : Nat → Rat}

/-- Finite factors: the exact sum of their products, and no special term. -/
theorem groupPart_fin (n : Nat) (h : ∀ k, k < n → (∃ m, (a (16 * g + k)).1 = .fin m (x k)) ∧
      ∃ m, (b (16 * g + k)).1 = .fin m (y k)) :
    (groupPart j a b g n).1.total = ((List.range n).map (fun k => x k * y k)).sum ∧
      (groupPart j a b g n).1.nan = false ∧ (groupPart j a b g n).1.nar = false ∧
      (groupPart j a b g n).1.posInf = false ∧ (groupPart j a b g n).1.negInf = false := by
  induction n with
  | zero => exact ⟨rfl, rfl, rfl, rfl, rfl⟩
  | succ n ih =>
    obtain ⟨⟨ma, ha⟩, mb, hb⟩ := h n (by omega)
    obtain ⟨htotal, hrest⟩ := ih fun k hk => h k (by omega)
    obtain ⟨l, hl⟩ := product_fin j.tileB.tag ma mb (x n) (y n)
    rw [groupPart_succ, ha, hb, hl]
    refine ⟨?_, hrest⟩
    rw [List.range_succ, List.map_append, List.sum_append, ← htotal]
    simp [sumAdd]

/-- A group of finite factors whose exact sum is not zero rounds that sum once. -/
theorem groupSum_fin (h : ∀ k, k < 16 → (∃ m, (a (16 * g + k)).1 = .fin m (x k)) ∧
      ∃ m, (b (16 * g + k)).1 = .fin m (y k)) (hq : ((List.range 16).map (fun k => x k * y k)).sum ≠ 0) :
    (groupSum j a b g).1 =
      (enc j.fm (nonzero ((List.range 16).map (fun k => x k * y k)).sum) .fp32 .rne 0).1 := by
  obtain ⟨htotal, hnan, hnar, hpos, hneg⟩ := groupPart_fin (j := j) 16 h
  rw [groupSum_code, sumVal, htotal, hnan, hnar, hpos, hneg]
  simp only [Bool.false_eq_true, Bool.false_and, if_false, if_neg hq]
  rw [finVal_ne_zero false hq]

end group

/-! ### The groups in ascending K (R227, R228) -/

/-- The accumulator after n groups. -/
def partialSum (j : Job) (old : BitVec 32) (a b : Nat → Valued) (n : Nat) : Valued :=
  (List.range n).foldl (fun (acc : Valued) g =>
    let q := groupSum j a b g
    let v := val j.fm .fp32 q.1
    let sum := addVal .rne acc.1 v.1
    let e := enc j.fm sum.1 .fp32 .rne 0
    let n := val j.fm .fp32 e.1
    (n.1, orFlags acc.2 (orFlags (orFlags q.2 v.2) (orFlags (orFlags sum.2 e.2) n.2)))) (val j.fm .fp32 old.toNat)

theorem partialSum_succ (j : Job) (old : BitVec 32) (a b : Nat → Valued) (n : Nat) :
    (partialSum j old a b (n + 1)).1 = (val j.fm .fp32 (enc j.fm (addVal .rne (partialSum j old a b n).1
      (val j.fm .fp32 (groupSum j a b n).1).1).1 .fp32 .rne 0).1).1 := by
  rw [partialSum, List.range_succ, List.foldl_append]
  rfl

theorem mmElem_code (j : Job) (old : BitVec 32) (kk : Nat) (a b : Nat → Valued) :
    (mmElem j old kk a b).1 = (enc j.fm (partialSum j old a b (kk / 16)).1 .fp32 .rne 0).1 := rfl

/-- Every element of a job is the product's element. -/
theorem mmElems_product (s : State) (j : Job) (acc : Nat) (opAcc : Bool) (op : Nat) {i : Nat} (hi : i < 16384) :
    ∃ r f, (mmElems s j acc opAcc op)[i]? = some (i, r, f) ∧ ProductElement s j acc opAcc op i r := by
  refine ⟨_, _, by rw [mmElems, List.getElem?_map, List.getElem?_range (show i < accElems from hi)]; rfl, ?_⟩
  unfold ProductElement
  intro kk src
  refine ⟨fun g => (partialSum j (getD 0#32 (accOf s j.lc acc) i) (factorA j opAcc src kk (i / 128))
    (fun k => factorB j kk k (i % 128)) g).1,
    fun g => (groupSum j (factorA j opAcc src kk (i / 128)) (fun k => factorB j kk k (i % 128)) g).1,
    rfl, mmElem_code _ _ _ _ _, fun g _ => partialSum_succ _ _ _ _ _, fun g _ x y h hq => groupSum_fin h hq⟩

/-! ### What a job reads of a changed byte (R238) -/

theorem mixByte_either (n : Nat) (old new : Byte) : mixByte n old new = old ∨ mixByte n old new = new := by
  unfold mixByte
  split
  · exact .inl rfl
  · split
    · exact .inl rfl
    · exact .inr rfl

/-- Bytes written one by one, each with one of two values of its place, are each one of the two. -/
theorem getD_foldl_either {A B f : Nat → Byte} (hf : ∀ o, f o = A o ∨ f o = B o) (l : List Nat) (m : Sparse Byte)
    (hm : ∀ o, getD 0#8 m o = A o ∨ getD 0#8 m o = B o) (o : Nat) :
    getD 0#8 (l.foldl (fun m o => setD 0#8 m o (f o)) m) o = A o ∨
      getD 0#8 (l.foldl (fun m o => setD 0#8 m o (f o)) m) o = B o := by
  induction l generalizing m with
  | nil => exact hm o
  | cons a l ih =>
    refine ih _ fun b => ?_
    rw [getD_setD]
    split
    · next h => rw [h]; exact hf a
    · exact hm b

theorem mixSnap_either (s : State) (n : Nat) (j : Job) (o : Nat) :
    getD 0#8 (mixSnap s n j).snap o = getD 0#8 j.snap o ∨ getD 0#8 (mixSnap s n j).snap o = getD 0#8 (tilesNow s j) o :=
  getD_foldl_either (fun _ => mixByte_either _ _ _) _ _ (fun _ => .inl rfl) o

end Sys2Proof.Machine
end

section
/-! SUPPORT. The steps of a matrix engine (R220, R225, R229 to R231, R234, R235, R239): a job starts, completes or
faults; the engine's clock. -/

namespace Sys2Proof.Machine

/-! ### Accumulators (R222) -/

/-- What the names of a core's accumulators and their elements lie in is the same. -/
theorem accOf_congr {s t : State} {lc : Nat} (hy : ∀ y, (yardOf t y).acc = (yardOf s y).acc)
    (hp : (coreOf t lc).phys = (coreOf s lc).phys) (hm : (coreOf t lc).mxacc = (coreOf s lc).mxacc) (n : Nat) :
    accOf t lc n = accOf s lc n := by
  rw [accOf, accOf, hp, hy, accPhys, hm, ← accPhys]

theorem coreOf_setAcc (s : State) (lc n : Nat) (m : Sparse (BitVec 32)) (k : Nat) :
    coreOf (setAcc s lc n m) k = coreOf s k := rfl

theorem accOf_setAcc_same (s : State) (lc n : Nat) (m : Sparse (BitVec 32)) : accOf (setAcc s lc n m) lc n = m := by
  have h : yardOf (setAcc s lc n m) (yardNum (coreOf s lc).phys) = _ := (yardOf_modYard _ _ _ _).trans (if_pos rfl)
  rw [accOf, coreOf_setAcc, h, getD_setD_same]

/-- A part of a yard that an update leaves. -/
theorem modYard_part {β : Type} {f : Yard → β} {g : Yard → Yard} (h : ∀ q, f (g q) = f q) (s : State) (a b : Nat) :
    f (yardOf (modYard s a g) b) = f (yardOf s b) := by
  rw [yardOf_modYard]
  split
  · next hb => rw [h, hb]
  · rfl

theorem setAcc_jobs (s : State) (lc n : Nat) (m : Sparse (BitVec 32)) (y : Nat) :
    (yardOf (setAcc s lc n m) y).jobs = (yardOf s y).jobs := by
  refine modYard_part (f := Yard.jobs) (fun _ => ?_) s _ y
  rfl

/-! ### The engine's clock (R220, R239) -/

theorem lowerRail_yards (s : State) (row : Nat) : (lowerRail s row).yards = s.yards := by
  unfold lowerRail
  split <;> rfl

theorem lowerRail_cores (s : State) (row : Nat) : (lowerRail s row).cores = s.cores := by
  unfold lowerRail
  split <;> rfl

theorem yardOf_lowerRail (s : State) (row y : Nat) : yardOf (lowerRail s row) y = yardOf s y := by
  rw [yardOf, lowerRail_yards, ← yardOf]

theorem settleClock_cores (s : State) (y : Nat) : (settleClock s y).cores = s.cores := by
  unfold settleClock
  dsimp only
  split
  · exact lowerRail_cores _ _
  · rfl

/-- Only the clock of a yard's engine changes. -/
theorem settleClock_part {β : Type} {f : Yard → β} (hf : ∀ (q : Yard) b, f { q with sprint := b } = f q) (s : State)
    (y z : Nat) : f (yardOf (settleClock s y) z) = f (yardOf s z) := by
  unfold settleClock
  dsimp only
  split
  · rw [yardOf_lowerRail]
    exact modYard_part (fun q => hf q _) s y z
  · rfl

/-- An idle engine has the clock of its row. -/
theorem settleClock_idle {s : State} {y : Nat} (h : engineIdle (yardOf s y) = true) :
    (yardOf (settleClock s y) y).sprint = (rowOf s (y / 2)).sprint := by
  unfold settleClock
  dsimp only
  split
  · rw [yardOf_lowerRail, yardOf_modYard, if_pos rfl]
  · next hn => simpa [h] using hn

theorem engineSprintClock_takes {y : Nat} {s : State} (h : (rowOf s (y / 2)).sprint = true) :
    ∃ t, exec (.engineSprintClock y) s = .next t ∧ (yardOf t y).sprint = true := by
  have he : exec (.engineSprintClock y) s = execEngineSprintClock y s := rfl
  rw [he, execEngineSprintClock, if_pos h]
  exact ⟨_, rfl, by rw [yardOf_modYard, if_pos rfl]⟩

theorem engineClockDrop_leaves {y : Nat} {s : State} (hr : (rowOf s (y / 2)).sprint = false)
    (hy : (yardOf s y).sprint = true) : ∃ t, exec (.engineClockDrop y) s = .next t ∧ (yardOf t y).sprint = false := by
  have he : exec (.engineClockDrop y) s = execEngineClockDrop y s := rfl
  rw [he, execEngineClockDrop, if_pos (by simp [hr, hy])]
  exact ⟨_, rfl, by rw [yardOf_lowerRail, yardOf_modYard, if_pos rfl]⟩

/-! ### A job starts (R225) -/

theorem mxJobStart_runs {y idx : Nat} {j : Job} {s : State} (hj : (yardOf s y).jobs[idx]? = some j)
    (hm : jobMayStart s y idx j = true) : ∃ t k, exec (.mxJobStart y idx) s = .next t ∧
      (yardOf t y).jobs[idx]? = some k ∧ k.running = true ∧ k.id = j.id ∧ k.kind = j.kind := by
  have he : exec (.mxJobStart y idx) s = execMxJobStart y idx s := rfl
  obtain ⟨hidx, -⟩ := List.getElem?_eq_some_iff.mp hj
  refine ⟨_, { j with running := true }, by rw [he, execMxJobStart, hj]; exact if_pos hm, ?_, rfl, rfl, rfl⟩
  rw [yardOf_modYard, if_pos rfl]
  exact List.getElem?_set_self hidx

/-! ### A job leaves the queue (R224) -/

theorem dropJob_jobs (s : State) (y idx : Nat) (j : Job) :
    (yardOf (dropJob s y idx j) y).jobs = (yardOf s y).jobs.eraseIdx idx := by
  have h := settleClock_part (f := Yard.jobs) (fun _ _ => rfl)
    (modYard s y (fun q => { q with jobs := q.jobs.eraseIdx idx })) y y
  rw [yardOf_modYard, if_pos rfl] at h
  exact h

theorem dropJob_core (s : State) (y idx : Nat) (j : Job) (lc : Nat) : coreOf (dropJob s y idx j) lc =
    if lc = j.lc then { coreOf s lc with mxOut := (coreOf s lc).mxOut.erase j.id } else coreOf s lc := by
  have h : ∀ k, coreOf (settleClock (modYard s y (fun q => { q with jobs := q.jobs.eraseIdx idx })) y) k = coreOf s k :=
    fun k => by rw [coreOf, settleClock_cores]; rfl
  rw [dropJob]
  dsimp only
  rw [coreOf_modCore, h, h]
  split
  · next hl => rw [hl]
  · rfl

theorem dropJob_accOf (s : State) (y idx : Nat) (j : Job) (n : Nat) :
    accOf (dropJob s y idx j) j.lc n = accOf s j.lc n := by
  refine accOf_congr (fun z => ?_) (by rw [dropJob_core, if_pos rfl]) (by rw [dropJob_core, if_pos rfl]) n
  refine (settleClock_part (f := Yard.acc) (fun _ _ => rfl) _ y z).trans
    (modYard_part (f := Yard.acc) (fun _ => ?_) s y z)
  rfl

theorem dropJob_ctxs (s : State) (y idx : Nat) (j : Job) : SameCtxs s (dropJob s y idx j) := fun lc c => by
  rw [ctxOf, dropJob_core]
  split <;> rfl

/-! ### A job completes (R225, R227, R229 to R231) -/

theorem jobFlags_yards (s : State) (j : Job) (f : Flags) : (jobFlags s j f).yards = s.yards := by
  unfold jobFlags
  split <;> rfl

theorem jobFlags_part {β : Type} {f : LCore → β} (hf : ∀ (c : LCore) xs, f { c with ctxs := xs } = f c) (s : State)
    (j : Job) (fl : Flags) (lc : Nat) : f (coreOf (jobFlags s j fl) lc) = f (coreOf s lc) := by
  unfold jobFlags
  split
  · rfl
  · exact setCtx_part hf s _ _ _ _

theorem jobFlags_accOf (s : State) (j : Job) (f : Flags) (lc n : Nat) : accOf (jobFlags s j f) lc n = accOf s lc n :=
  accOf_congr (fun y => by rw [yardOf, jobFlags_yards, ← yardOf])
    (jobFlags_part (f := LCore.phys) (fun _ _ => rfl) s j f lc)
    (jobFlags_part (f := LCore.mxacc) (fun _ _ => rfl) s j f lc) n

/-- The state with a job's result and flags, the job still in its queue. -/
def jobResult (s : State) (j : Job) : State :=
  match j.kind with
  | .mm _ acc opAcc op _ =>
    jobFlags (setAcc s j.lc acc (accFrom (mmElems s j acc opAcc op))) j (flagsFrom (mmElems s j acc opAcc op))
  | .mxz acc => setAcc s j.lc acc []
  | .drain t tile acc =>
    let s1 := modCore s j.lc (fun c => drainInto c j.tileA (width t / 8) (drainElems s j t acc))
    jobFlags (tileReady s1 j.lc tile) j (flagsFrom (drainElems s j t acc))

theorem completeJob_eq (s : State) (y idx : Nat) (j : Job) :
    completeJob s y idx j = dropJob (jobResult s j) y idx j := by
  unfold completeJob jobResult
  cases j.kind <;> rfl

theorem drainInto_eq (c : LCore) (t : Tile) (w : Nat) (rs : List (Nat × Coded)) :
    drainInto c t w rs = { c with stash := (drainInto c t w rs).stash } := by
  unfold drainInto
  induction rs generalizing c with
  | nil => rfl
  | cons e rs ih =>
    rw [List.foldl_cons, ih, setStashNat_eq]

/-- A job's result leaves the queues as they are. -/
theorem jobResult_jobs (s : State) (j : Job) (y : Nat) : (yardOf (jobResult s j) y).jobs = (yardOf s y).jobs := by
  unfold jobResult
  split
  · rw [yardOf, jobFlags_yards, ← yardOf, setAcc_jobs]
  · exact setAcc_jobs _ _ _ _ _
  · rw [yardOf, jobFlags_yards, tileReady, modCore_yards, modCore_yards, ← yardOf]

/-- A job's result leaves the identifiers that are outstanding. -/
theorem jobResult_outstanding (s : State) (j : Job) : (coreOf (jobResult s j) j.lc).mxOut = (coreOf s j.lc).mxOut := by
  unfold jobResult
  split
  · rw [jobFlags_part (f := LCore.mxOut) (fun _ _ => rfl), coreOf_setAcc]
  · rw [coreOf_setAcc]
  · rw [jobFlags_part (f := LCore.mxOut) (fun _ _ => rfl), tileReady, coreOf_modCore_same, coreOf_modCore_same, setTile,
      drainInto_eq]

/-! ### The bytes of a drain (R231) -/

theorem drainInto_append (c : LCore) (t : Tile) (w : Nat) (rs : List (Nat × Coded)) (e : Nat × Coded) :
    drainInto c t w (rs ++ [e]) = setStashNat (drainInto c t w rs) (tileStart t + e.1 * w) w e.2.1 := by
  rw [drainInto, List.foldl_append]
  rfl

/-- Bytes written beside n others leave these. -/
theorem stashNat_setStashNat_beside (c : LCore) {o n a m : Nat} (v : Nat) (h : o + n ≤ a) :
    stashNat (setStashNat c a m v) o n = stashNat c o n :=
  bytesNat_congr fun i hi => by rw [stashByte_setStashNat, if_neg (by omega)]

theorem stashNat_setTile (c : LCore) (k : Nat) (t : Tile) (o n : Nat) :
    stashNat (setTile c k t) o n = stashNat c o n := rfl

/-- Each element of a drain lies at its place of the tile, in row-major order. -/
theorem stashNat_drainInto (c : LCore) (t : Tile) (w : Nat) (e : Nat → Coded) {n i : Nat} (hi : i < n) :
    stashNat (drainInto c t w ((List.range n).map (fun i => (i, e i)))) (tileStart t + i * w) w =
      (e i).1 % 256 ^ w := by
  induction n with
  | zero => omega
  | succ n ih =>
    rw [List.range_succ, List.map_append, List.map_cons, List.map_nil, drainInto_append]
    rcases Nat.lt_succ_iff_lt_or_eq.mp hi with h | rfl
    · have hw : i * w + w ≤ n * w := by
        rw [← Nat.succ_mul]
        exact Nat.mul_le_mul_right w h
      rw [stashNat_setStashNat_beside _ _ (by dsimp only; omega), ih h]
    · exact stashNat_setStashNat _ _ _ _

/-! ### MX_JOB_COMPLETE without a fault -/

theorem exec_mxJobComplete {y idx : Nat} {j : Job} {s : State} (hj : (yardOf s y).jobs[idx]? = some j)
    (hr : j.running = true) : exec (.mxJobComplete y idx .none) s = .next (dropJob (jobResult s j) y idx j) := by
  have he : exec (.mxJobComplete y idx .none) s = execMxJobComplete y idx .none s := rfl
  rw [he, execMxJobComplete, hj, ← completeJob_eq]
  exact if_pos (by simp [hr, errorFits])

theorem mxz_clears {s : State} {y idx acc : Nat} {j : Job} (hk : j.kind = .mxz acc) :
    accOf (dropJob (jobResult s j) y idx j) j.lc acc = [] := by
  rw [dropJob_accOf, jobResult, hk]
  exact accOf_setAcc_same _ _ _ _

theorem mm_writes {s : State} {y idx acc op tb : Nat} {dup opAcc : Bool} {j : Job}
    (hk : j.kind = .mm dup acc opAcc op tb) :
    accOf (dropJob (jobResult s j) y idx j) j.lc acc = accFrom (mmElems s j acc opAcc op) := by
  rw [dropJob_accOf, jobResult, hk]
  exact (jobFlags_accOf _ _ _ _ _).trans (accOf_setAcc_same _ _ _ _)

section drain
variable {s : State} {y idx tile acc : Nat} {tag : Tag} {j : Job} (hk : j.kind = .drain tag tile acc)
include hk

/-- What a drain's completion leaves of its core, but for contexts and identifiers. -/
theorem drain_part {β : Type} {f : LCore → β} (hf : ∀ (c : LCore) xs os, f { c with ctxs := xs, mxOut := os } = f c) :
    f (coreOf (dropJob (jobResult s j) y idx j) j.lc) =
      f (coreOf (tileReady (modCore s j.lc (fun c => drainInto c j.tileA (width tag / 8) (drainElems s j tag acc)))
        j.lc tile) j.lc) := by
  have hx : ∀ (c : LCore) xs, f { c with ctxs := xs } = f c := fun c xs => hf c xs c.mxOut
  rw [dropJob_core, if_pos rfl, jobResult, hk, ← jobFlags_part hx _ j (flagsFrom (drainElems s j tag acc))]
  exact hf _ (coreOf _ j.lc).ctxs _

theorem drain_ready : (tileOf (coreOf (dropJob (jobResult s j) y idx j) j.lc) tile).state = .ready := by
  rw [drain_part hk (f := (tileOf · tile)) fun _ _ _ => rfl, tileReady, coreOf_modCore_same, tileOf_setTile_same]

theorem drain_writes {i : Nat} (hi : i < 16384) :
    stashNat (coreOf (dropJob (jobResult s j) y idx j) j.lc) (tileStart j.tileA + i * (width tag / 8)) (width tag / 8) =
      (enc j.fm (val j.fm .fp32 (getD 0#32 (accOf s j.lc acc) i).toNat).1 tag (fmodeRM j.fm)
        (roundBits (fmodeRM j.fm) j.srg (i + 1))).1 % 256 ^ (width tag / 8) := by
  rw [drain_part hk (f := (stashNat · (tileStart j.tileA + i * (width tag / 8)) (width tag / 8))) fun _ _ _ => rfl,
    ← convertAcc_code, tileReady, coreOf_modCore_same, coreOf_modCore_same, stashNat_setTile]
  exact stashNat_drainInto (n := accElems) _ _ _ (convertAcc j tag (accOf s j.lc acc)) hi

end drain

/-! ### A duplicate job whose computations differ (R234, R235) -/

/-- The state u in which a faulted job has left the queue, its accumulator held behind it. -/
def heldAfter (u : State) (j : Job) (acc : Nat) : State :=
  modCore (takeFree u).2 j.lc (fun c => { c with blocked := c.blocked ++ [(j.ctx, acc)] })

theorem heldAfter_ctxs (u : State) (j : Job) (acc : Nat) : SameCtxs u (heldAfter u j acc) :=
  (SameCtxs.of_cores rfl).trans (sameCtxs_modCore (takeFree u).2 _ _ fun _ => rfl)

theorem heldAfter_core (u : State) (j : Job) (acc : Nat) : coreOf (heldAfter u j acc) j.lc =
    { coreOf u j.lc with blocked := (coreOf u j.lc).blocked ++ [(j.ctx, acc)] } :=
  coreOf_modCore_same (takeFree u).2 _ _

theorem heldAfter_yards (u : State) (j : Job) (acc : Nat) : (heldAfter u j acc).yards = u.yards := rfl

theorem heldAfter_accOf (u : State) (j : Job) (acc n : Nat) : accOf (heldAfter u j acc) j.lc n = accOf u j.lc n :=
  accOf_congr (s := u) (fun z => by rw [yardOf, heldAfter_yards, ← yardOf]) (by rw [heldAfter_core])
    (by rw [heldAfter_core]) n

/-- A cause that becomes pending leaves the accumulators. -/
theorem pendCause_accOf (s : State) (lc c : Nat) (p : Pending) (a n : Nat) :
    accOf (pendCause s lc c p) a n = accOf s a n := by
  have hq := quiet_pendCause s lc c p
  have hy : (pendCause s lc c p).yards = s.yards := hq.get State.yards
  exact accOf_congr (fun z => by rw [yardOf, hy, ← yardOf]) (hq.part LCore.phys (fun _ => rfl) a)
    (hq.part LCore.mxacc (fun _ => rfl) a) n

section mismatch
variable {y idx acc op tb : Nat} {opAcc : Bool} {j : Job} {s : State}

/-- The fault of a duplicate job becomes pending for its context. -/
theorem faultJob_mismatch (hk : j.kind = .mm true acc opAcc op tb) (ho : j.orphan = false) :
    ∃ detail, faultJob s y idx j causeMxMismatch 0 =
      pendCause (heldAfter (dropJob s y idx j) j acc) j.lc j.ctx ⟨causeMxMismatch, 0, 0#64, detail⟩ := by
  have ha : ((jobAccs j.kind).take 1).map (fun a => (j.ctx, a)) = [(j.ctx, acc)] := by
    rw [hk]
    cases opAcc <;> rfl
  unfold faultJob
  rw [ha]
  simp only [hk, ho, Bool.false_eq_true, if_false, if_neg (show causeMxMismatch ≠ causePoison by decide)]
  exact ⟨_, rfl⟩

theorem mxJobComplete_mismatch (hj : (yardOf s y).jobs[idx]? = some j) (hr : j.running = true)
    (hk : j.kind = .mm true acc opAcc op tb) (ho : j.orphan = false) (hl : (ctxOf s j.lc j.ctx).live = true) :
    ∃ t p, exec (.mxJobComplete y idx .mismatch) s = .next t ∧
      (ctxOf t j.lc j.ctx).pend = (ctxOf s j.lc j.ctx).pend ++ [p] ∧ p.cause = 9 ∧
      accOf t j.lc acc = accOf s j.lc acc ∧ (j.ctx, acc) ∈ (coreOf t j.lc).blocked := by
  have he : exec (.mxJobComplete y idx .mismatch) s = execMxJobComplete y idx .mismatch s := rfl
  obtain ⟨detail, hf⟩ := faultJob_mismatch (s := s) (y := y) (idx := idx) hk ho
  have hx : ctxOf (heldAfter (dropJob s y idx j) j acc) j.lc j.ctx = ctxOf s j.lc j.ctx :=
    ((dropJob_ctxs s y idx j).trans (heldAfter_ctxs _ j acc)) _ _
  refine ⟨faultJob s y idx j causeMxMismatch 0, ⟨causeMxMismatch, 0, 0#64, detail⟩, ?_, ?_, rfl, ?_, ?_⟩
  · rw [he, execMxJobComplete, hj]
    exact if_pos (by simp [hr, hk, errorFits])
  · rw [hf, pendCause_ctxOf, hx, if_pos ⟨rfl, rfl, hl⟩]
  · rw [hf, pendCause_accOf, heldAfter_accOf, dropJob_accOf]
  · rw [hf, (quiet_pendCause _ _ _ _).part LCore.blocked (fun _ => rfl), heldAfter_core]
    exact List.mem_append_right _ (List.mem_singleton_self _)

end mismatch

end Sys2Proof.Machine
end

section
/-! O45. Matrix jobs: enqueuing, WAITJ and POLLJ, the engine's steps and its clock. -/

open Sys2Proof.Machine

/-- Settles O45: a form that enqueues is `enqueueJob` of its row, a job completes by `dropJob` of its result, and each
clause is the lemma of its part. -/
theorem matrixJobs : Obligations.MatrixJobs := by
  unfold Obligations.MatrixJobs
  refine ⟨?enqueue, jobChecks, factors, fun s j acc opAcc op i => mmElems_product s j acc opAcc op, mixSnap_either,
    ?accept, ?waitj, fun d a s => pollj_answers, ?steps, ?clock⟩
  case enqueue =>
    intro i d k s hrow
    rw [exec_jobRow hrow]
    exact ⟨enqueueJob_unowned d, enqueueJob_full, fun ho hi hq =>
      ⟨enqueueJob_waits ho hi hq, fun _ => enqueueJob_traps ho hi hq, enqueueJob_accepts ho hi hq⟩⟩
  case accept =>
    intro s y k
    exact ⟨⟨newJob s k, acceptJob_jobs s y k, rfl, rfl, rfl, rfl⟩, acceptJob_next s y k, acceptJob_outstanding s y k,
      fun t tile acc hk => hk ▸ acceptJob_filling s y t tile acc⟩
  case waitj => exact fun a s hi => ⟨waitj_done hi, waitj_waits hi⟩
  case steps =>
    intro y idx j s hj
    refine ⟨mxJobStart_runs hj, fun hr => ⟨_, exec_mxJobComplete hj hr, ?_, ?_, fun _ => mxz_clears,
      fun _ _ _ _ _ => mm_writes, fun tag tile acc hk _ => ⟨drain_ready hk, fun i => drain_writes hk⟩⟩,
      fun acc opAcc op tb hr hk ho hl => mxJobComplete_mismatch hj hr hk ho hl⟩
    · rw [dropJob_jobs, jobResult_jobs]
    · rw [dropJob_core, if_pos rfl, jobResult_outstanding]
  case clock => exact fun y s => ⟨engineSprintClock_takes, engineClockDrop_leaves, settleClock_idle⟩
end

section
/-! SUPPORT. Pushing a copy request (R240 to R243, R247): the checks in their order, what becomes of a push that they let
pass, and what a request's acceptance and its completion leave of the core and the FIFO. -/

namespace Sys2Proof.Machine

/-! ### The checks of a push (R242) -/

theorem copyTensor_iff (w : Word) : copyTensor w = true ↔ 2 ≤ bits w 1 0 := decide_eq_true_iff

theorem pushChecks (s : State) (ws : List Word) : PushChecks s ws := by
  have hc : (ws.getD 0 0#64).toNat < 2 ^ 64 := (ws.getD 0 0#64).isLt
  have hr : bits (ws.getD 0 0#64) 63 16 = (ws.getD 0 0#64).toNat / 65536 := by
    unfold bits
    omega
  have hl : ∀ l, ¬ declares s l = true ↔ (levelsOf s (taskNum s.cur.1)).length ≤ l := fun l => by simp [declares]
  refine if_congr ?format rfl (if_congr beq_iff_eq rfl (if_congr ?aligned rfl (if_congr ?protect rfl rfl)))
  case format =>
    simp only [copyTensor_iff, copyWidth, copyTile, Bool.and_eq_true, Bool.or_eq_true, bne_iff_ne, beq_iff_eq, and_assoc]
  case aligned =>
    simp only [copyTensor_iff]
  case protect =>
    simp only [copyTensor_iff, copyTransposes, copyArrives, copyLevel, copyTile, hr, hl]
    tauto

/-- No check of a push answers POISON. -/
theorem pushCheck_cause {s : State} {ws : List Word} {cause : Nat} (h : pushCheck s ws = some cause) :
    cause ≠ causePoison := by
  have hd : causeFormat ≠ causePoison ∧ causeTile ≠ causePoison ∧ causeMisaligned ≠ causePoison ∧
      causeProtect ≠ causePoison := by decide
  obtain ⟨hf, ht, hm, hp⟩ := hd
  unfold pushCheck at h
  dsimp only at h
  split_ifs at h <;> cases h <;> assumption

/-! ### What becomes of a push (R243) -/

/-- The tile that a push of the words ws names. -/
def pushTile (s : State) (ws : List Word) : Tile := tileOf (myCore s) (copyTile (ws.getD 0 0#64))

/-- The FIFO or the tile of a push is busy. -/
def PushBusy (s : State) (ws : List Word) : Prop :=
  moving (pushTile s ws) = true ∨ 32 ≤ (yardOf s (myYard s)).copies.length

/-- A push stands behind a RESIZE of its tile's ways (R169). -/
def pushBehind (s : State) (ws : List Word) : Bool :=
  resizeWaits (myCore s) (tileStart (pushTile s ws)) (pushTile s ws).size

section push
variable {n : Names} {a : F6} {busy done : State → Res} {s : State} (hi : Issues n s)
include hi

theorem push_traps {cause : Nat} (hc : pushCheck s (pushWords s a) = some cause) :
    ∃ t, push n a busy done s = .next t ∧ Trapped s t cause 0 (pushAddr cause (pushWords s a)) [] := by
  rw [push, issue_ready hi]
  simp only [hc]
  exact trapAt_trapped s 0 _ [] (pushCheck_cause hc)

variable (hc : pushCheck s (pushWords s a) = none)
include hc

/-- A push that its checks let pass: busy, behind a RESIZE, or accepted. -/
theorem push_passes : push n a busy done s =
    if moving (pushTile s (pushWords s a)) || fifoFull (yardOf s (myYard s)) then busy s
    else if pushBehind s (pushWords s a) then waitAt s 0
    else done (countV (acceptCopy s (myYard s) (pushWords s a))) := by
  rw [push, issue_ready hi]
  simp only [hc]
  rfl

theorem push_busy (hb : PushBusy s (pushWords s a)) : push n a busy done s = busy s := by
  rw [push_passes hi hc, if_pos]
  simpa [fifoFull, PushBusy] using hb

theorem push_behind (hb : ¬ PushBusy s (pushWords s a)) (hr : pushBehind s (pushWords s a) = true) :
    push n a busy done s = waitAt s 0 := by
  rw [push_passes hi hc, if_neg, if_pos hr]
  simpa [fifoFull, PushBusy] using hb

theorem push_accepts (hb : ¬ PushBusy s (pushWords s a)) (hr : pushBehind s (pushWords s a) = false) :
    push n a busy done s = done (countV (acceptCopy s (myYard s) (pushWords s a))) := by
  rw [push_passes hi hc, if_neg, if_neg (by simp [hr])]
  simpa [fifoFull, PushBusy] using hb

end push

/-! ### A request completes (R246) -/

theorem copyArrival_cores (s : State) (lc : Nat) (ctl : Word) : (copyArrival s lc ctl).cores = s.cores := by
  unfold copyArrival
  split
  · exact arriveAt_cores _ _ _
  · rfl

theorem copyArrival_yards (s : State) (lc : Nat) (ctl : Word) : (copyArrival s lc ctl).yards = s.yards := by
  unfold copyArrival
  split
  · rw [arriveAt, modTask_eq]
  · rfl

/-- The tile of a request that has completed: READY, and after a copy in with WM = SIZE (R173). -/
def readyTile (k : Copy) (t : Tile) : Tile := { t with state := .ready, wm := if copyIn k.ctl then t.size else t.wm }

theorem copiedTile_eq (s : State) (k : Copy) :
    copiedTile s k = modCore s k.lc (fun c => setTile c k.tile (readyTile k (tileOf c k.tile))) := by
  unfold copiedTile tileReady readyTile
  cases copyIn k.ctl <;> rfl

theorem finishCopy_yards (s : State) (k : Copy) : (finishCopy s k).yards = s.yards := by
  rw [finishCopy, modCore_yards, copyArrival_yards, copiedTile_eq, modCore_yards]

theorem finishCopy_core (s : State) (k : Copy) : coreOf (finishCopy s k) k.lc =
    { setTile (coreOf s k.lc) k.tile (readyTile k (tileOf (coreOf s k.lc) k.tile)) with
      mxOut := (coreOf s k.lc).mxOut.erase k.id } := by
  have ha : coreOf (copyArrival (copiedTile s k) k.lc k.ctl) k.lc = coreOf (copiedTile s k) k.lc := by
    rw [coreOf, copyArrival_cores, ← coreOf]
  rw [finishCopy, coreOf_modCore_same, ha, copiedTile_eq, coreOf_modCore_same]
  rfl

theorem finishCopy_tile (s : State) (k : Copy) :
    tileOf (coreOf (finishCopy s k) k.lc) k.tile = readyTile k (tileOf (coreOf s k.lc) k.tile) := by
  rw [finishCopy_core]
  exact tileOf_setTile_same (coreOf s k.lc) _ _

theorem finishCopy_outstanding (s : State) (k : Copy) :
    (coreOf (finishCopy s k) k.lc).mxOut = (coreOf s k.lc).mxOut.erase k.id := by
  rw [finishCopy_core]

theorem finishCopy_ctxs (s : State) (k : Copy) : SameCtxs s (finishCopy s k) := by
  have ht : SameCtxs s (copiedTile s k) := by
    rw [copiedTile_eq]
    exact sameCtxs_modCore s _ _ fun _ => rfl
  have ha := ht.trans (.of_cores (copyArrival_cores (copiedTile s k) k.lc k.ctl))
  exact ha.trans (sameCtxs_modCore _ _ _ fun _ => rfl)

/-! ### A request is accepted (R243, R247) -/

/-- The request's identifier is counted and its tile moves; it does not stand in the FIFO yet. -/
def startedCopy (s : State) (yard : Nat) (ws : List Word) : State :=
  modCore (modYard s yard (fun y => { y with copyTurn := (myCore s).phys % 8 })) s.cur.1 (fun c =>
    startCopy { c with mxNext := (c.mxNext + 1) % 65536, mxOut := c.mxOut ++ [c.mxNext] } (newCopy s ws).ctl)

theorem acceptCopy_eq (s : State) (yard : Nat) (ws : List Word) : acceptCopy s yard ws =
    if !copyTensor (newCopy s ws).ctl && (newCopy s ws).word 2 == 0#64 then
      finishCopy (startedCopy s yard ws) (newCopy s ws)
    else modYard (startedCopy s yard ws) yard (fun y => { y with copies := y.copies ++ [newCopy s ws] }) := rfl

theorem startedCopy_ctxs (s : State) (yard : Nat) (ws : List Word) : SameCtxs s (startedCopy s yard ws) :=
  (SameCtxs.of_cores rfl).trans (sameCtxs_modCore _ _ _ fun _ => rfl)

/-- A request's acceptance leaves its context where it stands. -/
theorem acceptCopy_me (s : State) (yard : Nat) (ws : List Word) : me (acceptCopy s yard ws) = me s := by
  rw [acceptCopy_eq]
  split
  · refine ((startedCopy_ctxs s yard ws).trans (finishCopy_ctxs _ _)).me ?_
    rw [finishCopy, modCore_cur, copyArrival]
    split
    · rw [arriveAt_cur, copiedTile_eq]
      rfl
    · rw [copiedTile_eq]
      rfl
  · exact ((startedCopy_ctxs s yard ws).trans (.of_cores rfl)).me rfl

/-- An instruction that has pushed its request ends. -/
theorem acceptCopy_finish (n : Names) (s : State) (yard : Nat) (ws : List Word) (w : Word) :
    ∃ t, finish n long (countV (acceptCopy s yard ws)) w = .next t ∧
      Wrote n (acceptCopy s yard ws) t w ((me s).pc + 4#64) := by
  rw [← acceptCopy_me s yard ws]
  exact finish_countV n long _ w

section accept
variable {s : State} {y : Nat} {ws : List Word}
  (h : copyTensor (ws.getD 0 0#64) = true ∨ ws.getD 2 0#64 ≠ 0#64)
include h

/-- A request of bytes or of elements enters the FIFO. -/
theorem acceptCopy_enters : acceptCopy s y ws =
    modYard (startedCopy s y ws) y (fun q => { q with copies := q.copies ++ [newCopy s ws] }) := by
  have hn : ¬ (!copyTensor (newCopy s ws).ctl && (newCopy s ws).word 2 == 0#64) = true := by
    rw [Bool.and_eq_true, Bool.not_eq_true', beq_iff_eq]
    exact fun ⟨ht, hw⟩ => h.elim (fun h => Bool.false_ne_true (ht.symm.trans h)) (· hw)
  rw [acceptCopy_eq, if_neg hn]

theorem acceptCopy_copies : (yardOf (acceptCopy s y ws) y).copies = (yardOf s y).copies ++ [newCopy s ws] := by
  have hy : (yardOf (startedCopy s y ws) y).copies = (yardOf s y).copies :=
    modYard_part (f := Yard.copies) (g := fun q => { q with copyTurn := (myCore s).phys % 8 }) (fun _ => rfl) s y y
  rw [acceptCopy_enters h, yardOf_modYard, if_pos rfl, hy]

theorem acceptCopy_core : coreOf (acceptCopy s y ws) s.cur.1 = startCopy { myCore s with
    mxNext := ((myCore s).mxNext + 1) % 65536, mxOut := (myCore s).mxOut ++ [(myCore s).mxNext] } (ws.getD 0 0#64) := by
  have hs : coreOf (acceptCopy s y ws) s.cur.1 = coreOf (startedCopy s y ws) s.cur.1 := by
    rw [acceptCopy_enters h]
    rfl
  rw [hs, startedCopy, coreOf_modCore_same]
  rfl

theorem acceptCopy_moving : (tileOf (coreOf (acceptCopy s y ws) s.cur.1) (copyTile (ws.getD 0 0#64))).state =
    if copyIn (ws.getD 0 0#64) then .filling else .draining := by
  rw [acceptCopy_core h, startCopy]
  dsimp only
  rw [tileOf_setTile_same]
  split <;> rfl

theorem acceptCopy_outstanding :
    (coreOf (acceptCopy s y ws) s.cur.1).mxOut = (myCore s).mxOut ++ [(myCore s).mxNext] := by
  rw [acceptCopy_core h]
  rfl

end accept

/-! ### CPY and CPYT (R241, R243) -/

theorem exec_cpy (a : F6) (s : State) : exec (.cpy a) s =
    push (copyNames a) a (fun t => waitAt t 0) (fun t => finish (copyNames a) long t 0#64) s := rfl

/-- What CPYT names. -/
def copyDestNames (d a : F6) : Names := ⟨[], some d.toNat, pushRegs a, []⟩

theorem exec_cpyt (d a : F6) (s : State) : exec (.cpyt d a) s =
    push (copyDestNames d a) a (fun t => finish (copyDestNames d a) long (countV t) (BitVec.allOnes 64))
      (fun t => finish (copyDestNames d a) long t 0#64) s := rfl

theorem cpy_traps {a : F6} {s : State} {cause : Nat} (hi : Issues (copyNames a) s)
    (hc : pushCheck s (pushWords s a) = some cause) :
    ∃ t, exec (.cpy a) s = .next t ∧ Trapped s t cause 0 (pushAddr cause (pushWords s a)) [] := by
  rw [exec_cpy]
  exact push_traps hi hc

theorem cpyt_traps {d a : F6} {s : State} {cause : Nat} (hi : Issues (copyDestNames d a) s)
    (hc : pushCheck s (pushWords s a) = some cause) :
    ∃ t, exec (.cpyt d a) s = .next t ∧ Trapped s t cause 0 (pushAddr cause (pushWords s a)) [] := by
  rw [exec_cpyt]
  exact push_traps hi hc

section cpy
variable {d a : F6} {s : State} (hc : pushCheck s (pushWords s a) = none)
include hc

theorem cpy_accepts (hi : Issues (copyNames a) s) (hb : ¬ PushBusy s (pushWords s a))
    (hr : pushBehind s (pushWords s a) = false) : ∃ t, exec (.cpy a) s = .next t ∧
      Wrote (copyNames a) (acceptCopy s (myYard s) (pushWords s a)) t 0#64 ((me s).pc + 4#64) := by
  rw [exec_cpy, push_accepts hi hc hb hr]
  exact acceptCopy_finish _ s _ _ _

theorem cpy_heldBack (hi : Issues (copyNames a) s)
    (hb : PushBusy s (pushWords s a) ∨ pushBehind s (pushWords s a) = true) :
    ∃ t, exec (.cpy a) s = .next t ∧ HeldBack s t 0 := by
  have hw : exec (.cpy a) s = waitAt s 0 := by
    rw [exec_cpy]
    by_cases h : PushBusy s (pushWords s a)
    · exact push_busy hi hc h
    · exact push_behind hi hc h (hb.resolve_left h)
  rw [hw]
  exact waitAt_heldBack s rfl

variable (hi : Issues (copyDestNames d a) s)
include hi

theorem cpyt_accepts (hb : ¬ PushBusy s (pushWords s a)) (hr : pushBehind s (pushWords s a) = false) :
    ∃ t, exec (.cpyt d a) s = .next t ∧
      Wrote (copyDestNames d a) (acceptCopy s (myYard s) (pushWords s a)) t 0#64 ((me s).pc + 4#64) := by
  rw [exec_cpyt, push_accepts hi hc hb hr]
  exact acceptCopy_finish _ s _ _ _

theorem cpyt_heldBack (hb : ¬ PushBusy s (pushWords s a)) (hr : pushBehind s (pushWords s a) = true) :
    ∃ t, exec (.cpyt d a) s = .next t ∧ HeldBack s t 0 := by
  rw [exec_cpyt, push_behind hi hc hb hr]
  exact waitAt_heldBack s rfl

theorem cpyt_busy (hb : PushBusy s (pushWords s a)) : ∃ t, exec (.cpyt d a) s = .next t ∧
    Wrote (copyDestNames d a) s t 0xFFFFFFFFFFFFFFFF#64 ((me s).pc + 4#64) := by
  rw [exec_cpyt, push_busy hi hc hb]
  exact finish_countV _ long s _

end cpy

end Sys2Proof.Machine
end

section
/-! SUPPORT. The layout of a copy (R244, R245, R251): the conditions on a descriptor, the place of each element in the
tile, and the positions that have moved. -/

namespace Sys2Proof.Machine

/-! ### Descriptors (R245) -/

theorem descTotal_prod (d : Desc) : d.total = (d.dims.map (·.1)).prod := by
  rw [Desc.total, List.prod_eq_foldl, List.foldl_map]

theorem descRules (t : Tile) (ctl : Word) (d : Desc) : DescRules t ctl d := by
  refine ⟨descTotal_prod d, ?_⟩
  rw [descOk]
  simp only [Bool.and_eq_true, Bool.not_eq_true', ← Bool.not_eq_true, Bool.or_eq_true, beq_iff_eq, decide_eq_true_eq,
    List.all_eq_true, and_assoc]
  exact Iff.rfl

/-! ### The place of an element (R245) -/

theorem positionIndices_length (es : List Nat) (q : Nat) : (positionIndices es q).length = es.length := by
  induction es generalizing q with
  | nil => rfl
  | cons e es ih => rw [positionIndices, List.length_cons, ih, List.length_cons]

/-- Each index lies within its extent. -/
theorem positionIndices_lt {es : List Nat} {q : Nat} (h : q < es.prod) :
    ∀ e ∈ (positionIndices es q).zip es, e.1 < e.2 := by
  induction es generalizing q with
  | nil => simp
  | cons e es ih =>
    rw [List.prod_cons] at h
    have he : 0 < e := Nat.pos_of_mul_pos_right (Nat.zero_lt_of_lt h)
    rw [positionIndices, List.zip_cons_cons, List.forall_mem_cons]
    exact ⟨Nat.mod_lt q he, ih (Nat.div_lt_of_lt_mul h)⟩

/-- The indices of a position make it up, the first one innermost. -/
theorem positionIndices_value {es : List Nat} {q : Nat} (h : q < es.prod) :
    ((positionIndices es q).zip es).foldr (fun e a => e.1 + e.2 * a) 0 = q := by
  induction es generalizing q with
  | nil =>
    rw [List.prod_nil] at h
    exact (Nat.lt_one_iff.mp h).symm
  | cons e es ih =>
    rw [List.prod_cons] at h
    rw [positionIndices, List.zip_cons_cons, List.foldr_cons, ih (Nat.div_lt_of_lt_mul h)]
    exact Nat.mod_add_div q e

theorem swapFirst_perm {α : Type} (l : List α) : (swapFirst l).Perm l := by
  unfold swapFirst
  split
  · exact List.Perm.swap _ _ _
  · exact List.Perm.refl _

theorem swapFirst_swapFirst {α : Type} (l : List α) : swapFirst (swapFirst l) = l := by
  match l with
  | [] => rfl
  | [_] => rfl
  | _ :: _ :: _ => rfl

theorem zip_swapFirst {α β : Type} {l : List α} {m : List β} (h : l.length = m.length) :
    (swapFirst l).zip (swapFirst m) = swapFirst (l.zip m) := by
  match l, m, h with
  | [], [], _ => rfl
  | [_], [_], _ => rfl
  | _ :: _ :: _, _ :: _ :: _, _ => rfl

section element
variable {ctl : Word} {d : Desc} {q : Nat} (hq : q < d.total)

/-- With TR the indices of dimensions 0 and 1 change places. -/
theorem elementIndices_swapped (ht : copyTransposes ctl = true) : (elementIndices ctl d q).zip (d.dims.map (·.1)) =
    swapFirst ((positionIndices (swapFirst (d.dims.map (·.1))) q).zip (swapFirst (d.dims.map (·.1)))) := by
  rw [elementIndices, if_pos ht, ← zip_swapFirst (positionIndices_length _ q), swapFirst_swapFirst]

theorem elementIndices_plain (ht : copyTransposes ctl = false) :
    elementIndices ctl d q = positionIndices (d.dims.map (·.1)) q := by
  rw [elementIndices, if_neg (by simp [ht])]

theorem elementIndices_length : (elementIndices ctl d q).length = (d.dims.map (·.1)).length := by
  unfold elementIndices
  dsimp only
  split
  · rw [(swapFirst_perm _).length_eq, positionIndices_length, (swapFirst_perm _).length_eq]
  · exact positionIndices_length _ q

include hq

theorem lt_swapped : q < (swapFirst (d.dims.map (·.1))).prod := by
  rw [(swapFirst_perm _).prod_eq, ← descTotal_prod]
  exact hq

theorem elementIndices_lt : ∀ e ∈ (elementIndices ctl d q).zip (d.dims.map (·.1)), e.1 < e.2 := by
  cases ht : copyTransposes ctl with
  | true =>
    rw [elementIndices_swapped ht]
    exact fun e he => positionIndices_lt (lt_swapped hq) e ((swapFirst_perm _).mem_iff.mp he)
  | false =>
    rw [elementIndices_plain ht]
    exact positionIndices_lt (descTotal_prod d ▸ hq)

theorem elementIndices_value (ht : copyTransposes ctl = false) :
    ((elementIndices ctl d q).zip (d.dims.map (·.1))).foldr (fun e a => e.1 + e.2 * a) 0 = q := by
  rw [elementIndices_plain ht]
  exact positionIndices_value (descTotal_prod d ▸ hq)

theorem elementIndices_transposed (ht : copyTransposes ctl = true) :
    (swapFirst ((elementIndices ctl d q).zip (d.dims.map (·.1)))).foldr (fun e a => e.1 + e.2 * a) 0 = q := by
  rw [elementIndices_swapped ht, swapFirst_swapFirst]
  exact positionIndices_value (lt_swapped hq)

end element

/-- The address of an element as R244 gives it. -/
theorem elementAddr_eq (ctl : Word) (d : Desc) (is : List Nat) : elementAddr ctl d is =
    (wordOfInt ((d.base : Int) + ((is.zip d.dims).map (fun e => (e.1 : Int) * e.2.2)).sum +
      ((is.getD 0 0 * copyWidth ctl / 8 : Nat) : Int))).toNat := by
  rw [elementAddr, List.sum_eq_foldl, List.foldl_map]

/-! ### The positions that have moved (R246, R251) -/

/-- The frontier goes on until it meets a position that has not moved. -/
theorem sweep_stops (unit : Nat) {n pos : Nat} {l : List Nat} (h : l.length ≤ n) :
    (sweep unit n pos l).1 ∉ (sweep unit n pos l).2 := by
  induction n generalizing pos l with
  | zero =>
    rw [List.length_eq_zero_iff.mp (Nat.le_zero.mp h)]
    exact List.not_mem_nil
  | succ n ih =>
    rw [sweep]
    split
    · next hm =>
      have hp := List.length_erase_of_mem (List.contains_iff_mem.mp hm)
      exact ih (by omega)
    · next hm => exact fun hp => hm (List.contains_iff_mem.mpr hp)

theorem sweep_forward (unit n pos : Nat) (l : List Nat) : pos ≤ (sweep unit n pos l).1 := by
  induction n generalizing pos l with
  | zero => exact Nat.le_refl pos
  | succ n ih =>
    rw [sweep]
    split
    · exact (Nat.le_add_right pos unit).trans (ih _ _)
    · exact Nat.le_refl pos

/-- The positions behind the frontier, with those kept beyond it, are those that were given. -/
theorem sweep_moved {unit : Nat} (hu : 0 < unit) (n pos : Nat) (l : List Nat) (i : Nat) :
    pos + i * unit < (sweep unit n pos l).1 ∨ pos + i * unit ∈ (sweep unit n pos l).2 ↔ pos + i * unit ∈ l := by
  have hnot : ∀ i, ¬ pos + i * unit < pos := fun i => by omega
  induction n generalizing pos l i with
  | zero => simp [sweep, hnot]
  | succ n ih =>
    rw [sweep]
    split
    · next hm =>
      have hp := List.contains_iff_mem.mp hm
      cases i with
      | zero =>
        have hf := sweep_forward unit n (pos + unit) (l.erase pos)
        simp only [Nat.zero_mul, Nat.add_zero, hp, iff_true]
        exact .inl (by omega)
      | succ i =>
        have he : pos + (i + 1) * unit = pos + unit + i * unit := by ring
        rw [he]
        exact (ih (pos + unit) (l.erase pos) i fun i => by omega).trans (List.mem_erase_of_ne (by omega))
    · simp [hnot]

/-- A request whose position q has moved: what has moved is what had, and q. -/
theorem moved_positions {k : Copy} {unit : Nat} (hu : 0 < unit) (q : Nat) :
    (moved k unit q).pos ∉ (moved k unit q).landed ∧
      ∀ i, (k.pos + i * unit < (moved k unit q).pos ∨ k.pos + i * unit ∈ (moved k unit q).landed) ↔
        (k.pos + i * unit ∈ k.landed ∨ k.pos + i * unit = q) :=
  ⟨sweep_stops unit (Nat.le_refl _), fun i => (sweep_moved hu _ _ _ i).trans (List.mem_cons.trans or_comm)⟩

/-- The number of positions from the frontier on. -/
def positionsLeft (k : Copy) (unit total : Nat) : Nat := (total - k.pos + unit - 1) / unit

section landing
variable {k : Copy} {unit total : Nat}

theorem positionsLeft_iff (hu : 0 < unit) (i : Nat) : i < positionsLeft k unit total ↔ i * unit < total - k.pos := by
  rw [positionsLeft, Nat.lt_iff_add_one_le, Nat.le_div_iff_mul_le hu, Nat.add_mul, Nat.one_mul]
  omega

theorem landingPos_untried (hk : k.trying = none) (v : Nat) : landingPos k unit total v =
    if (copyIn k.ctl && !copyTensor k.ctl) || k.landed.contains (k.pos + v % positionsLeft k unit total * unit) then k.pos
    else k.pos + v % positionsLeft k unit total * unit := by
  rw [landingPos, hk]
  rfl

/-- The position that moves next has not moved; that of a linear copy is the first. -/
theorem landingPos_unmoved (hu : 0 < unit) (hk : k.trying = none) (hp : k.pos < total) (hl : k.pos ∉ k.landed)
    (v : Nat) : k.pos ≤ landingPos k unit total v ∧ landingPos k unit total v < total ∧
      (landingPos k unit total v - k.pos) % unit = 0 ∧ landingPos k unit total v ∉ k.landed ∧
      ((copyIn k.ctl && !copyTensor k.ctl) = true → landingPos k unit total v = k.pos) := by
  have hn : 0 < positionsLeft k unit total := (positionsLeft_iff hu 0).mpr (by omega)
  have hi := (positionsLeft_iff hu _).mp (Nat.mod_lt v hn)
  rw [landingPos_untried hk]
  split
  · exact ⟨Nat.le_refl _, hp, by rw [Nat.sub_self, Nat.zero_mod], hl, fun _ => rfl⟩
  · next h =>
    rw [Bool.or_eq_true, not_or, List.contains_iff_mem] at h
    refine ⟨Nat.le_add_right _ _, by omega, ?_, h.2, fun hlin => absurd hlin h.1⟩
    rw [Nat.add_sub_cancel_left, Nat.mul_mod_left]

/-- Any position of a copy that is not linear may move next. -/
theorem landingPos_any (hu : 0 < unit) (hk : k.trying = none) {q : Nat}
    (hlin : (copyIn k.ctl && !copyTensor k.ctl) = false) (h1 : k.pos ≤ q) (h2 : q < total)
    (hm : (q - k.pos) % unit = 0) (hq : q ∉ k.landed) : ∃ v, landingPos k unit total v = q := by
  have hmul : (q - k.pos) / unit * unit = q - k.pos := Nat.div_mul_cancel (Nat.dvd_of_mod_eq_zero hm)
  have hi : (q - k.pos) / unit < positionsLeft k unit total := (positionsLeft_iff hu _).mpr (by omega)
  refine ⟨(q - k.pos) / unit, ?_⟩
  rw [landingPos_untried hk, Nat.mod_eq_of_lt hi, hmul, Nat.add_sub_cancel' h1, if_neg]
  simp [hlin, hq]

end landing

end Sys2Proof.Machine
end

section
/-! SUPPORT. The accesses of a copy at the MSC (R248, R251): what its checks let pass, and that neither they nor what is
read depends on how many free values have been taken (log 5). -/

namespace Sys2Proof.Machine

/-! ### Reads at the MSC -/

/-- A read at the MSC changes the MSC and the heat alone. -/
theorem mscRead_eq (s : State) (asid va n : Nat) (p : Page) : ∃ g h, (mscRead s asid va n p).1 =
    { s with gens := g, heat := h, msc := (mscRead s asid va n p).1.msc } := by
  unfold mscRead
  split
  · obtain ⟨g, h, e⟩ := heatMiss_eq s asid va
    rw [e]
    exact ⟨_, _, rfl⟩
  · exact mscFill_eq s (lineKey asid va) p

theorem pocStrip_mscRead (s : State) (asid va n : Nat) (p : Page) :
    pocStrip (mscRead s asid va n p).1 = pocStrip s := by
  obtain ⟨g, h, e⟩ := mscRead_eq s asid va n p
  rw [e]
  rfl

theorem SameMap.mscRead_msc {s t : State} (h : SameMap s t) (asid va n : Nat) (p : Page) :
    (mscRead t asid va n p).1.msc = (mscRead s asid va n p).1.msc := by
  unfold mscRead
  split
  · exact ((sameMap_heatMiss t asid va).msc.trans h.msc).trans (sameMap_heatMiss s asid va).msc.symm
  · exact h.mscFill (lineKey asid va) p

/-- What is read at the MSC. -/
theorem SameMap.mscRead_value {s t : State} (h : SameMap s t) (asid va n : Nat) (p : Page) :
    (mscRead t asid va n p).2 = (mscRead s asid va n p).2 := by
  unfold mscRead
  split
  · exact congrArg (lineNat · (va % 128) n) (h.currentLine p (frameOf p va))
  · exact congrArg (lineNat · (va % 128) n) (h.pocLine_mscFill (lineKey asid va) p)

/-! ### Writes at the MSC -/

theorem spanMask_ne {va n : Nat} (hn : 0 < n) : spanMask (va % 128) n ≠ 0 := fun h0 => by
  have hi : va % 128 < 128 := Nat.mod_lt _ (by decide)
  have hm := (inMask_spanMask_iff (o := va % 128) (n := n) hi).mpr (by omega)
  rw [h0] at hm
  simp [inMask] at hm

theorem mscWrite_takes (s : State) (asid va v : Nat) {n : Nat} (hn : 0 < n) (p : Page) (task : Nat) :
    LineTakes s (mscWrite s asid va n v p task) (lineKey asid va) p false (natLine v (va % 128) n)
      (spanMask (va % 128) n) :=
  lineTakes_pocWrite s _ p _ (spanMask_ne hn) task none

theorem pocStrip_mscWrite (s : State) (asid va n v : Nat) (p : Page) (task : Nat) :
    pocStrip (mscWrite s asid va n v p task) = pocStrip s := pocStrip_pocWrite _ _ _ _ _ _ _

/-! ### After a free value has been taken -/

section takeFree
variable (s : State)

theorem sameMap_takeFree : SameMap s (takeFree s).2 := ⟨rfl, rfl, rfl, rfl, rfl, rfl, rfl, rfl⟩

theorem mscRead_takeFree (asid va n : Nat) (p : Page) :
    SameMap (mscRead (takeFree s).2 asid va n p).1 (mscRead s asid va n p).1 := by
  obtain ⟨g, h, e⟩ := mscRead_eq s asid va n p
  obtain ⟨g', h', e'⟩ := mscRead_eq (takeFree s).2 asid va n p
  rw [e, e', (sameMap_takeFree s).mscRead_msc]
  exact ⟨rfl, rfl, rfl, rfl, rfl, rfl, rfl, rfl⟩

theorem mscReady_read_takeFree (asid va n v : Nat) (p : Page) :
    mscReady (mscRead (takeFree s).2 asid va n p).1 asid va n v p =
      mscReady (mscRead s asid va n p).1 asid va n v p := by
  obtain ⟨g, h, e⟩ := mscRead_eq s asid va n p
  obtain ⟨g', h', e'⟩ := mscRead_eq (takeFree s).2 asid va n p
  rw [e, e', (sameMap_takeFree s).mscRead_msc]
  rfl

end takeFree

/-! ### The checks of an access (R248) -/

theorem CopyAccess.takeFree {s : State} {k : Copy} {va n : Nat} {write : Bool} {p : Page}
    (h : CopyAccess s k va n write p) : CopyAccess (takeFree s).2 k va n write p :=
  ⟨h.outside, h.canonical, h.memory, ((sameMap_takeFree s).translate _ _).trans h.page, h.allowed⟩

/-- An access of a request, a position tried, that no check stops. -/
theorem copyAccess_passes {s : State} {k : Copy} {va n : Nat} {write : Bool} {p : Page}
    (h : CopyAccess s k va n write p) (q : Option Nat) (go : Page → State) :
    copyAccess s { k with trying := q } va n write go = go p := by
  simp only [copyAccess, h.outside, h.canonical, h.memory, h.page, h.allowed]
  rfl

end Sys2Proof.Machine
end

section
/-! SUPPORT. The steps of a copy unit (R245 to R248, R251): a descriptor is read, a granule or an element moves, a request
completes or is abandoned. -/

namespace Sys2Proof.Machine

/-! ### A request in its FIFO -/

/-- A request that may go on stands in the FIFO. -/
theorem runningCopy_mem {s : State} {y idx : Nat} {k : Copy} (h : runningCopy s y idx = some k) :
    k ∈ (yardOf s y).copies := by
  unfold runningCopy at h
  split at h
  · next j hj =>
    split at h
    · cases h
      exact List.mem_of_getElem? hj
    · cases h
  · cases h

/-- A request that has changed stands in the FIFO, where its core is and its yard is as it was. -/
theorem mem_setCopy {s u : State} {k j : Copy} (hk : k ∈ (yardOf s (yardNum (coreOf s k.lc).phys)).copies)
    (hj : j.lc = k.lc ∧ j.id = k.id) (hy : u.yards = s.yards) (hp : (coreOf u k.lc).phys = (coreOf s k.lc).phys) :
    j ∈ (yardOf (setCopy u j) (yardNum (coreOf s k.lc).phys)).copies := by
  rw [setCopy, hj.1, hp, yardOf_modYard, if_pos rfl, yardOf, hy, ← yardOf]
  exact List.mem_map.mpr ⟨k, hk, if_pos ⟨rfl, hj.2.symm⟩⟩

theorem sameMap_setCopy (s : State) (k : Copy) : SameMap s (setCopy s k) := ⟨rfl, rfl, rfl, rfl, rfl, rfl, rfl, rfl⟩

theorem coreOf_of_poc {s t : State} (h : pocStrip t = pocStrip s) (lc : Nat) : coreOf t lc = coreOf s lc := by
  rw [coreOf, show t.cores = s.cores from pocStrip_get h State.cores, ← coreOf]

/-! ### Descriptors (R245, R247) -/

section descriptor
variable {s t : State} {y idx : Nat} {k : Copy} {d : Desc} (hr : runningCopy s y idx = some k)
  (ht : copyTensor k.ctl = true) (hd : k.desc = none) (h : DescRead s k t d)
include hr ht hd h

/-- A descriptor whose words can be read: refused, of no element, or kept. -/
theorem copyDescriptorRead_reads : exec (.copyDescriptorRead y idx) s = .next
    (if !descOk (tileOf (coreOf t k.lc) k.tile) k.ctl d then faultCopy t k 1 (k.word 1).toNat
    else if d.total = 0 then finishCopy (modYard t y (fun q => { q with copies := q.copies.eraseIdx idx })) k
    else setCopy t { k with desc := some d }) := by
  rw [show exec (.copyDescriptorRead y idx) s = execCopyDescriptorRead y idx s from rfl, execCopyDescriptorRead, hr]
  dsimp only
  rw [if_pos (by simp [ht, hd]), h]

theorem copyDescriptorRead_keeps (hok : descOk (tileOf (coreOf t k.lc) k.tile) k.ctl d = true) (hn : d.total ≠ 0) :
    exec (.copyDescriptorRead y idx) s = .next (setCopy t { k with desc := some d }) := by
  rw [copyDescriptorRead_reads hr ht hd h, if_neg (by simp [hok]), if_neg hn]

theorem copyDescriptorRead_refuses (hok : descOk (tileOf (coreOf t k.lc) k.tile) k.ctl d = false) :
    exec (.copyDescriptorRead y idx) s = .next (faultCopy t k 1 (k.word 1).toNat) := by
  rw [copyDescriptorRead_reads hr ht hd h, if_pos (by simp [hok])]

end descriptor

/-! ### The bytes of a tile -/

theorem stashTakes_setStashNat (c : LCore) (o n v : Nat) : StashTakes c (setStashNat c o n v) o n v := by
  refine ⟨fun b hb => ?_, fun q hq => ?_⟩
  · rw [stashByte_setStashNat, if_pos (by omega), Nat.add_sub_cancel_left]
  · rw [stashByte_setStashNat, if_neg (by omega)]

theorem setStashNat_phys (c : LCore) (o n v : Nat) : (setStashNat c o n v).phys = c.phys := by rw [setStashNat_eq]

/-! ### A granule of a bulk copy (R246, R247) -/

/-- The address of the granule from byte q on. -/
def granuleAddr (k : Copy) (q : Nat) : Nat := ((k.word 1).toNat + q) % 2 ^ 64
/-- Its size: the last one is masked. -/
def granuleSize (k : Copy) (q : Nat) : Nat := min 32 ((k.word 2).toNat - q)
/-- Its place in the stash. -/
def granulePlace (s : State) (k : Copy) (q : Nat) : Nat := tileStart (tileOf (coreOf s k.lc) k.tile) + q

/-- A core whose tile has taken the granule from byte q on, of value v, the watermark following (R173). -/
def granuleLanded (c : LCore) (k : Copy) (o q v : Nat) : LCore :=
  let x := setStashNat c o (granuleSize k q) v
  setTile x k.tile { tileOf x k.tile with wm := min (moved k 32 q).pos (k.word 2).toNat }

section granule
variable {s : State} {k : Copy} {p : Page} {q : Nat}

theorem moveGranule_in (hin : copyIn k.ctl = true)
    (ha : CopyAccess s k (granuleAddr k q) (granuleSize k q) false p)
    (hb : halfBlocks s (lineKey (asidOf s k.lc) (granuleAddr k q)) (spanMask (granuleAddr k q % 128) (granuleSize k q))
      false = false) :
    let r := mscRead s (asidOf s k.lc) (granuleAddr k q) (granuleSize k q) p
    moveGranule s k q =
      setCopy (modCore r.1 k.lc (fun c => granuleLanded c k (granulePlace s k q) q r.2)) (moved k 32 q) := by
  simp only [granuleAddr, granuleSize] at ha hb ⊢
  rw [moveGranule]
  simp only [hin, Bool.not_true, if_true]
  rw [copyAccess_passes ha, hb]
  rfl

theorem moveGranule_out (hin : copyIn k.ctl = false)
    (ha : CopyAccess s k (granuleAddr k q) (granuleSize k q) true p)
    (hm : mscReady s (asidOf s k.lc) (granuleAddr k q) (granuleSize k q)
      (stashNat (coreOf s k.lc) (granulePlace s k q) (granuleSize k q)) p = true) :
    moveGranule s k q = setCopy (mscWrite s (asidOf s k.lc) (granuleAddr k q) (granuleSize k q)
      (stashNat (coreOf s k.lc) (granulePlace s k q) (granuleSize k q)) p (taskNum k.lc)) (moved k 32 q) := by
  simp only [granuleAddr, granuleSize, granulePlace] at ha hm ⊢
  rw [moveGranule]
  simp only [hin, Bool.not_false, Bool.false_eq_true, if_false]
  rw [copyAccess_passes ha, hm]
  rfl

end granule

/-! ### An element of a tensor copy (R244, R245) -/

/-- The size of an element in bytes, two elements of four bits in one. -/
def elementSize (k : Copy) : Nat := (copyWidth k.ctl + 7) / 8
/-- The place in the stash of the element at position q. -/
def elementPlace (s : State) (k : Copy) (q : Nat) : Nat :=
  tileStart (tileOf (coreOf s k.lc) k.tile) + q * copyWidth k.ctl / 8

theorem elementSize_pos (k : Copy) : 0 < elementSize k := by
  have h : 0 < 2 ^ bits k.ctl 11 10 := Nat.two_pow_pos _
  rw [elementSize, copyWidth]
  omega

/-- The element of index j in bytes of value x, put as element i into bytes of value old: half a byte goes from its half
to its half (R244). -/
def placedPart (w i j old x : Nat) : Nat := if w = 4 then withNibble (i % 2) old (x / 16 ^ (j % 2) % 16) else x

theorem setPart_getPart (w i j old x : Nat) : setPart w i old (getPart w j x) = placedPart w i j old x := by
  unfold setPart getPart placedPart
  split <;> rfl

/-- What the stash of a core takes for the element at position q, its memory bytes being x. -/
def elementIn (k : Copy) (d : Desc) (o q x : Nat) (c : LCore) : Nat :=
  placedPart (copyWidth k.ctl) q ((elementIndices k.ctl d q).getD 0 0) (stashNat c o (elementSize k)) x

/-- What memory, its bytes being x, takes for the element at position q. -/
def elementOut (k : Copy) (d : Desc) (o q x : Nat) (c : LCore) : Nat :=
  placedPart (copyWidth k.ctl) ((elementIndices k.ctl d q).getD 0 0) q x (stashNat c o (elementSize k))

section element
variable {s : State} {k : Copy} {d : Desc} {p : Page} {q va : Nat}
  (hva : elementAddr k.ctl d (elementIndices k.ctl d q) = va)
include hva

theorem moveElement_in (hin : copyIn k.ctl = true) (ha : CopyAccess s k va (elementSize k) false p)
    (hb : halfBlocks s (lineKey (asidOf s k.lc) va) (spanMask (va % 128) (elementSize k)) false = false) :
    let r := mscRead s (asidOf s k.lc) va (elementSize k) p
    let o := elementPlace s k q
    moveElement s k d q = setCopy (modCore r.1 k.lc (fun c => setStashNat c o (elementSize k) (elementIn k d o q r.2 c)))
      (moved k 1 q) := by
  simp only [elementSize, elementIn, ← setPart_getPart] at ha hb ⊢
  rw [moveElement]
  simp only [hin, hva, Bool.not_true, if_true]
  rw [copyAccess_passes ha, hb]
  rfl

theorem moveElement_out (hin : copyIn k.ctl = false) (ha : CopyAccess s k va (elementSize k) true p) {v : Nat}
    (hv : elementOut k d (elementPlace s k q) q (mscRead s (asidOf s k.lc) va (elementSize k) p).2 (coreOf s k.lc) = v)
    (hm : mscReady (mscRead s (asidOf s k.lc) va (elementSize k) p).1 (asidOf s k.lc) va (elementSize k) v p = true) :
    moveElement s k d q = setCopy (mscWrite (mscRead s (asidOf s k.lc) va (elementSize k) p).1 (asidOf s k.lc) va
      (elementSize k) v p (taskNum k.lc)) (moved k 1 q) := by
  subst hv
  simp only [elementSize, elementOut, elementPlace, ← setPart_getPart] at ha hm ⊢
  rw [moveElement]
  simp only [hin, hva, Bool.not_false, Bool.false_eq_true, if_false]
  rw [copyAccess_passes ha, hm]
  rfl

end element

/-! ### COPY_LANDING (R245, R246, R251) -/

theorem moved_same (k : Copy) (unit q : Nat) : (moved k unit q).lc = k.lc ∧ (moved k unit q).id = k.id := ⟨rfl, rfl⟩

section landing
variable {s : State} {y idx : Nat} {k : Copy} {p : Page} {q : Nat}

variable (hr : runningCopy s y idx = some k)
include hr

/-- A granule of a bulk copy moves, one more free value taken. -/
theorem copyLanding_granule (ht : copyTensor k.ctl = false) (hd : copyDone k = false)
    (hq : landingPos k 32 (k.word 2).toNat (takeFree s).1.toNat = q) :
    exec (.copyLanding y idx) s = .next (moveGranule (takeFree s).2 k q) := by
  rw [show exec (.copyLanding y idx) s = execCopyLanding y idx s from rfl, execCopyLanding, hr, ← hq]
  dsimp only
  rw [if_neg (by simp [hd]), if_neg (by simp [ht])]

/-- An element of a tensor copy moves, one more free value taken. -/
theorem copyLanding_element {d : Desc} (ht : copyTensor k.ctl = true) (hd : k.desc = some d) (hp : k.pos < d.total)
    (hq : landingPos k 1 d.total (takeFree s).1.toNat = q) :
    exec (.copyLanding y idx) s = .next (moveElement (takeFree s).2 k d q) := by
  have hn : ¬ copyDone k = true := by simp [copyDone, ht, hd, hp]
  rw [show exec (.copyLanding y idx) s = execCopyLanding y idx s from rfl, execCopyLanding, hr, ← hq]
  dsimp only
  rw [if_neg hn, if_pos ht, hd]

variable (hy : y = yardNum (coreOf s k.lc).phys)
include hy

/-- A request that moves by a read at the MSC and a change of its core: the core changed, the request in its FIFO. -/
theorem moved_in_leaves (asid va n unit q : Nat) (p : Page) {f : LCore → LCore} (hf : ∀ c, (f c).phys = c.phys) :
    let t := setCopy (modCore (mscRead (takeFree s).2 asid va n p).1 k.lc f) (moved k unit q)
    coreOf t k.lc = f (coreOf s k.lc) ∧ moved k unit q ∈ (yardOf t y).copies := by
  have hs := pocStrip_mscRead (takeFree s).2 asid va n p
  have hc : coreOf (modCore (mscRead (takeFree s).2 asid va n p).1 k.lc f) k.lc = f (coreOf s k.lc) :=
    (coreOf_modCore_same _ _ _).trans (congrArg f (coreOf_of_poc hs k.lc))
  subst hy
  exact ⟨hc, mem_setCopy (runningCopy_mem hr) (moved_same k unit q) (pocStrip_get hs State.yards) (by rw [hc, hf])⟩

/-- A request that moves by a write at the MSC: its core as it was, the request in its FIFO. -/
theorem moved_out_leaves {u : State} (unit q : Nat) (hu : pocStrip u = pocStrip (takeFree s).2) :
    coreOf (setCopy u (moved k unit q)) k.lc = coreOf s k.lc ∧
      moved k unit q ∈ (yardOf (setCopy u (moved k unit q)) y).copies := by
  have hc : coreOf u k.lc = coreOf s k.lc := coreOf_of_poc hu k.lc
  subst hy
  exact ⟨hc, mem_setCopy (runningCopy_mem hr) (moved_same k unit q) (pocStrip_get hu State.yards) (by rw [hc])⟩

section granule
variable (ht : copyTensor k.ctl = false) (hd : copyDone k = false)
  (hq : landingPos k 32 (k.word 2).toNat (takeFree s).1.toNat = q)
include ht hd hq

/-- The stash takes a granule of a copy in, and WM follows what has landed without a gap (R173). -/
theorem copyLanding_granule_in (hin : copyIn k.ctl = true)
    (ha : CopyAccess s k (granuleAddr k q) (granuleSize k q) false p)
    (hb : halfBlocks s (lineKey (asidOf s k.lc) (granuleAddr k q)) (spanMask (granuleAddr k q % 128) (granuleSize k q))
      false = false) : ∃ t, exec (.copyLanding y idx) s = .next t ∧
      StashTakes (coreOf s k.lc) (coreOf t k.lc) (granulePlace s k q) (granuleSize k q)
        (mscRead s (asidOf s k.lc) (granuleAddr k q) (granuleSize k q) p).2 ∧
      (tileOf (coreOf t k.lc) k.tile).wm = min (moved k 32 q).pos (k.word 2).toNat ∧
      moved k 32 q ∈ (yardOf t y).copies := by
  have hm := moveGranule_in (s := (takeFree s).2) hin ha.takeFree hb
  obtain ⟨hc, hk⟩ := moved_in_leaves hr hy (asidOf s k.lc) (granuleAddr k q) (granuleSize k q) 32 q p
    (f := fun c => granuleLanded c k (granulePlace s k q) q
      (mscRead (takeFree s).2 (asidOf s k.lc) (granuleAddr k q) (granuleSize k q) p).2)
    fun c => setStashNat_phys c _ _ _
  refine ⟨_, (copyLanding_granule hr ht hd hq).trans (congrArg Host.Outcome.next hm), ?_, ?_, hk⟩
  · rw [← (sameMap_takeFree s).mscRead_value]
    exact hc ▸ stashTakes_setStashNat (coreOf s k.lc) _ _ _
  · refine (congrArg (fun c => (tileOf c k.tile).wm) hc).trans ?_
    dsimp only [granuleLanded]
    rw [tileOf_setTile_same]

/-- The MSC takes a granule of a copy out. -/
theorem copyLanding_granule_out (hlt : q < (k.word 2).toNat) (hin : copyIn k.ctl = false)
    (ha : CopyAccess s k (granuleAddr k q) (granuleSize k q) true p)
    (hm : mscReady s (asidOf s k.lc) (granuleAddr k q) (granuleSize k q)
      (stashNat (coreOf s k.lc) (granulePlace s k q) (granuleSize k q)) p = true) :
    ∃ t, exec (.copyLanding y idx) s = .next t ∧
      LineTakes s t (lineKey (asidOf s k.lc) (granuleAddr k q)) p false
        (natLine (stashNat (coreOf s k.lc) (granulePlace s k q) (granuleSize k q)) (granuleAddr k q % 128)
          (granuleSize k q)) (spanMask (granuleAddr k q % 128) (granuleSize k q)) ∧
      coreOf t k.lc = coreOf s k.lc ∧ moved k 32 q ∈ (yardOf t y).copies := by
  have hn : 0 < granuleSize k q := by
    rw [granuleSize]
    omega
  have ho := moveGranule_out (s := (takeFree s).2) hin ha.takeFree hm
  refine ⟨_, (copyLanding_granule hr ht hd hq).trans (congrArg Host.Outcome.next ho), ?_,
    moved_out_leaves hr hy 32 q (pocStrip_mscWrite _ _ _ _ _ _ _)⟩
  exact (mscWrite_takes _ _ _ _ hn p _).congr (sameMap_takeFree s).symm (sameMap_setCopy _ _)

end granule

section element
variable {d : Desc} {va : Nat} (ht : copyTensor k.ctl = true) (hd : k.desc = some d) (hp : k.pos < d.total)
  (hq : landingPos k 1 d.total (takeFree s).1.toNat = q) (hva : elementAddr k.ctl d (elementIndices k.ctl d q) = va)
include ht hd hp hq hva

/-- The stash takes an element of a copy in. -/
theorem copyLanding_element_in (hin : copyIn k.ctl = true) (ha : CopyAccess s k va (elementSize k) false p)
    (hb : halfBlocks s (lineKey (asidOf s k.lc) va) (spanMask (va % 128) (elementSize k)) false = false) :
    ∃ t, exec (.copyLanding y idx) s = .next t ∧ moved k 1 q ∈ (yardOf t y).copies ∧
      StashTakes (coreOf s k.lc) (coreOf t k.lc) (elementPlace s k q) (elementSize k)
        (elementIn k d (elementPlace s k q) q (mscRead s (asidOf s k.lc) va (elementSize k) p).2 (coreOf s k.lc)) := by
  have hm := moveElement_in (s := (takeFree s).2) hva hin ha.takeFree hb
  obtain ⟨hc, hk⟩ := moved_in_leaves hr hy (asidOf s k.lc) va (elementSize k) 1 q p
    (f := fun c => setStashNat c (elementPlace s k q) (elementSize k) (elementIn k d (elementPlace s k q) q
      (mscRead (takeFree s).2 (asidOf s k.lc) va (elementSize k) p).2 c)) fun c => setStashNat_phys c _ _ _
  refine ⟨_, (copyLanding_element hr ht hd hp hq).trans (congrArg Host.Outcome.next hm), hk, ?_⟩
  rw [← (sameMap_takeFree s).mscRead_value]
  exact hc ▸ stashTakes_setStashNat (coreOf s k.lc) _ _ _

/-- The MSC takes an element of a copy out. -/
theorem copyLanding_element_out (hin : copyIn k.ctl = false) (ha : CopyAccess s k va (elementSize k) true p) {v : Nat}
    (hv : elementOut k d (elementPlace s k q) q (mscRead s (asidOf s k.lc) va (elementSize k) p).2 (coreOf s k.lc) = v)
    (hm : mscReady (mscRead s (asidOf s k.lc) va (elementSize k) p).1 (asidOf s k.lc) va (elementSize k) v p = true) :
    ∃ t, exec (.copyLanding y idx) s = .next t ∧ moved k 1 q ∈ (yardOf t y).copies ∧
      coreOf t k.lc = coreOf s k.lc ∧
      LineTakes (mscRead s (asidOf s k.lc) va (elementSize k) p).1 t (lineKey (asidOf s k.lc) va) p false
        (natLine v (va % 128) (elementSize k)) (spanMask (va % 128) (elementSize k)) := by
  have ho := moveElement_out (s := (takeFree s).2) (v := v) hva hin ha.takeFree
    (by rw [(sameMap_takeFree s).mscRead_value]; exact hv) ((mscReady_read_takeFree s _ _ _ _ _).trans hm)
  obtain ⟨hc, hk⟩ := moved_out_leaves hr hy 1 q
    ((pocStrip_mscWrite (mscRead (takeFree s).2 (asidOf s k.lc) va (elementSize k) p).1 (asidOf s k.lc) va
      (elementSize k) v p (taskNum k.lc)).trans (pocStrip_mscRead _ _ _ _ _))
  refine ⟨_, (copyLanding_element hr ht hd hp hq).trans (congrArg Host.Outcome.next ho), hk, hc, ?_⟩
  exact (mscWrite_takes _ _ _ v (elementSize_pos k) p _).congr (mscRead_takeFree s _ _ _ p) (sameMap_setCopy _ _)

end element
end landing

/-! ### COPY_COMPLETE and COPY_ABANDON (R246, R248) -/

/-- A request whose bytes have moved ends, and leaves the FIFO. -/
theorem copyComplete_ends {s : State} {y idx : Nat} {k : Copy} (hr : runningCopy s y idx = some k)
    (hd : copyDone k = true) : exec (.copyComplete y idx) s =
      .next (finishCopy (modYard s y (fun q => { q with copies := q.copies.eraseIdx idx })) k) := by
  rw [show exec (.copyComplete y idx) s = execCopyComplete y idx s from rfl, execCopyComplete, hr]
  exact if_pos hd

theorem finishCopy_copies (s : State) (y idx : Nat) (k : Copy) :
    (yardOf (finishCopy (modYard s y (fun q => { q with copies := q.copies.eraseIdx idx })) k) y).copies =
      (yardOf s y).copies.eraseIdx idx := by
  rw [yardOf, finishCopy_yards, ← yardOf, yardOf_modYard, if_pos rfl]

theorem abandonCopy_core (s : State) (k : Copy) : coreOf (abandonCopy s k) k.lc =
    { setTile (coreOf s k.lc) k.tile Tile.reset with mxOut := (coreOf s k.lc).mxOut.erase k.id } := by
  rw [abandonCopy, coreOf_modCore_same]
  rfl

theorem abandonCopy_tile (s : State) (k : Copy) : tileOf (coreOf (abandonCopy s k) k.lc) k.tile = Tile.reset := by
  rw [abandonCopy_core]
  exact tileOf_setTile_same (coreOf s k.lc) k.tile Tile.reset

theorem abandonCopy_outstanding (s : State) (k : Copy) :
    (coreOf (abandonCopy s k) k.lc).mxOut = (coreOf s k.lc).mxOut.erase k.id := by
  rw [abandonCopy_core]

theorem copyAbandon_abandons {s : State} {y idx : Nat} {k : Copy} (hk : (yardOf s y).copies[idx]? = some k)
    (hf : k.fault.isSome = true) (hx : (ctxOf s k.lc k.ctx).frozen = true)
    (hp : ∀ p ∈ (ctxOf s k.lc k.ctx).pend, p.cause ≠ causeCopy ∨ p.detail ≠ copyDetail k) :
    exec (.copyAbandon y idx) s = .next (abandonCopy s k) := by
  have hall : (ctxOf s k.lc k.ctx).pend.all (fun p => p.cause != causeCopy || p.detail != copyDetail k) = true := by
    simpa [List.all_eq_true] using hp
  rw [show exec (.copyAbandon y idx) s = execCopyAbandon y idx s from rfl, execCopyAbandon, hk]
  exact if_pos (by rw [hf, hx, hall]; rfl)

end Sys2Proof.Machine
end

section
/-! O46. Copy requests: pushing, the layout of a tensor, landings, completion and abandonment. -/

open Sys2Proof.Machine

/-- Settles O46: CPY and CPYT are `push` of one request, a landing is one access at the MSC and one change of the request
in its FIFO, and each clause is the lemma of its part. -/
theorem copiesMove : Obligations.CopiesMove := by
  unfold Obligations.CopiesMove
  refine ⟨?push, descRules, ?accept, ?steps, ?positions, ?elements, ?abandon⟩
  case push =>
    intro d a s
    exact ⟨pushChecks s _, fun hi hc => ⟨cpy_accepts hc hi, cpy_heldBack hc hi⟩,
      fun hi hc => ⟨cpyt_accepts hc hi, cpyt_heldBack hc hi, cpyt_busy hc hi⟩,
      fun cause hc => ⟨fun hi => cpy_traps hi hc, fun hi => cpyt_traps hi hc⟩⟩
  case accept => exact fun s y ws _ h => ⟨acceptCopy_copies h, acceptCopy_moving h, acceptCopy_outstanding h⟩
  case steps =>
    intro s k y idx hy hr
    refine ⟨fun t d ht hd h => copyDescriptorRead_keeps hr ht hd h,
      fun t d ht hd h => copyDescriptorRead_refuses hr ht hd h,
      fun p q ht hd hq hlt => ⟨copyLanding_granule_in hr hy ht hd hq, copyLanding_granule_out hr hy ht hd hq hlt⟩,
      fun d p q ht hd hp hq _ => ?_, fun hd => ?_⟩
    · have hva := elementAddr_eq k.ctl d (elementIndices k.ctl d q)
      exact ⟨copyLanding_element_in hr hy ht hd hp hq hva,
        fun hin ha => copyLanding_element_out hr hy ht hd hp hq hva hin ha rfl⟩
    · exact ⟨_, copyComplete_ends hr hd, finishCopy_copies s y idx k, congrArg Tile.state (finishCopy_tile _ k),
        congrArg Tile.wm (finishCopy_tile _ k), finishCopy_outstanding _ k⟩
  case positions =>
    exact fun k unit total hu hk hp hl => ⟨landingPos_unmoved hu hk hp hl, fun q => landingPos_any hu hk,
      fun q _ => moved_positions hu q⟩
  case elements =>
    exact fun ctl d q hq => ⟨elementIndices_lt hq, elementIndices_length, elementIndices_value hq,
      elementIndices_transposed hq⟩
  case abandon =>
    exact fun s k y idx hk hf hx hp =>
      ⟨_, copyAbandon_abandons hk hf hx hp, abandonCopy_tile s k, abandonCopy_outstanding s k⟩
end


section
/-! SUPPORT. Moves of logical cores (R103, R255, R288, R289, R397): what the fence of a move and the move itself leave as it
was. -/

namespace Sys2Proof.Machine

/-! ### The registers of a context, and where a logical core stands -/

/-- A context without its freeze, its pending causes and how far its instruction has come. -/
def bareCtx (x : Ctx) : Ctx :=
  { x with frozen := false, cause := 0, sub := 0, deliv := false, wait := 0, pend := [], stage := .idle, counted := false,
           stepping := false }

theorem sameRegisters_iff (x y : Ctx) : SameRegisters x y ↔ bareCtx y = bareCtx x := by
  refine ⟨fun h => ?_, fun h => ?_⟩
  · unfold SameRegisters at h
    have e := congrArg bareCtx h
    exact e
  · exact congrArg (fun b : Ctx =>
      { b with frozen := y.frozen, cause := y.cause, sub := y.sub, deliv := y.deliv, wait := y.wait, pend := y.pend,
               stage := y.stage, counted := y.counted, stepping := y.stepping }) h

/-- The LPCT entry of a logical core, and what it keeps of its place while it is lodged (R288, R289). -/
def lpctEntry (c : LCore) : Nat × Bool × Nat × Nat × Option Nat := (c.lstate, c.half, c.phys, c.left, c.storedIn)

/-- Every logical core is where it was, every context has the registers it had. -/
structure StaysPut (s t : State) : Prop where
  places : ∀ lc, lpctEntry (coreOf t lc) = lpctEntry (coreOf s lc)
  registers : ∀ lc c, bareCtx (ctxOf t lc c) = bareCtx (ctxOf s lc c)

theorem StaysPut.refl (s : State) : StaysPut s s := ⟨fun _ => rfl, fun _ _ => rfl⟩

theorem StaysPut.trans {s t u : State} (h : StaysPut s t) (k : StaysPut t u) : StaysPut s u :=
  ⟨fun lc => (k.places lc).trans (h.places lc), fun lc c => (k.registers lc c).trans (h.registers lc c)⟩

theorem StaysPut.of_cores {s t : State} (h : t.cores = s.cores) : StaysPut s t :=
  ⟨fun lc => by rw [coreOf, h, ← coreOf], fun lc c => by rw [SameCtxs.of_cores h lc c]⟩

theorem staysPut_modCore (s : State) (lc : Nat) {f : LCore → LCore} (hp : ∀ c, lpctEntry (f c) = lpctEntry c)
    (hx : ∀ c, (f c).ctxs = c.ctxs) : StaysPut s (modCore s lc f) := by
  refine ⟨fun k => ?_, fun k c => by rw [sameCtxs_modCore s lc f hx k c]⟩
  rw [coreOf_modCore]
  split
  · next h => rw [hp, h]
  · rfl

theorem Quiet.staysPut {s t : State} (h : Quiet s t) (hx : ∀ lc c, bareCtx (ctxOf t lc c) = bareCtx (ctxOf s lc c)) :
    StaysPut s t := ⟨h.part lpctEntry fun _ => rfl, hx⟩

theorem staysPut_foldl {α : Type} {g : State → α → State} (h : ∀ s x, StaysPut s (g s x)) (l : List α) (s : State) :
    StaysPut s (l.foldl g s) := by
  induction l generalizing s with
  | nil => exact .refl s
  | cons x l ih => exact (h s x).trans (ih _)

/-! ### Causes change no register (R285, R305, R306) -/

theorem staysPut_pendCause (s : State) (lc c : Nat) (p : Pending) : StaysPut s (pendCause s lc c p) :=
  (quiet_pendCause s lc c p).staysPut fun a b => by
    rw [pendCause_ctxOf]
    split <;> rfl

theorem staysPut_freeze (s : State) (lc c cause sub : Nat) (d : Bool) (a : Word) (l : List Word) :
    StaysPut s (freeze s lc c cause sub d a l) :=
  (freeze_quiet s lc c cause sub d a l).staysPut fun k b => by
    rw [freeze_ctxOf]
    split
    · next h => rw [h.1, h.2]; rfl
    · rfl

theorem staysPut_leaseCrew (s : State) (task : Nat) (but : Option (Nat × Nat)) : StaysPut s (leaseCrew s task but) :=
  staysPut_foldl (fun t x => by
    split
    · exact .refl t
    · exact staysPut_pendCause _ _ _ _) _ s

theorem staysPut_leaseSender (s : State) (lc c task va : Nat) : StaysPut s (leaseSender s lc c task va) := by
  have h0 : StaysPut s (heatMiss s (asidOf s lc) va) := .of_cores (unseen_heatMiss s _ va).cores
  have h1 := h0.trans (staysPut_leaseCrew (heatMiss s (asidOf s lc) va) task (some (lc, c)))
  unfold leaseSender
  dsimp only
  split
  · exact h0
  · split
    · exact h1.trans (staysPut_freeze _ _ _ _ _ _ _ _)
    · exact h1.trans (staysPut_pendCause _ _ _ _)

/-! ### The fence of a move (R255) -/

theorem cleanL2Line_cores (s : State) (k : Nat) (m : BitVec 128) : (cleanL2Line s k m).cores = s.cores := by
  unfold cleanL2Line
  split
  · dsimp only
    split <;> rfl
  · rfl

theorem staysPut_cleanCore (s : State) (lc key : Nat) (m : BitVec 128) : StaysPut s (cleanCore s lc key m) :=
  by
  refine staysPut_modCore s lc (fun c => ?_) fun c => ?_
  · dsimp only [cleanMap, lpctEntry]
    split <;> rfl
  · dsimp only [cleanMap]
    split <;> rfl

theorem staysPut_cleanSources (s : State) (w : WriteReq) : StaysPut s (cleanSources s w) := by
  have hl : ∀ (u : State) k, StaysPut u (cleanL2Line u k w.mask) := fun u k => .of_cores (cleanL2Line_cores u k w.mask)
  unfold cleanSources
  split
  · exact hl s _
  · exact staysPut_cleanCore s _ _ _
  · exact ((hl _ _).trans (hl _ _)).trans (staysPut_cleanCore _ _ _ _)

theorem refreshL2_cores (s : State) (die key : Nat) (l : Line) (m : BitVec 128) :
    (refreshL2 s die key l m).cores = s.cores := by
  obtain ⟨x, e⟩ := refreshL2_eq s die key l m
  rw [e]

theorem staysPut_landMsc (s : State) (w : WriteReq) (p : Page) : StaysPut s (landMsc s w p) := by
  have h : StaysPut s (toPoc s w.key (outLine s w p) fullMask) := .of_cores (pocStrip_get (toPoc_strip _ _ _ _) State.cores)
  exact (h.trans (staysPut_cleanSources _ w)).trans (.of_cores (refreshL2_cores _ _ _ _ _))

theorem staysPut_flushOne (s : State) (w : WriteReq) : StaysPut s (flushOne s w) := by
  unfold flushOne
  split
  · exact staysPut_landMsc _ _ _
  · exact .refl s

theorem staysPut_flushAll (ws : List WriteReq) (s : State) : StaysPut s (flushAll s ws).1 := by
  induction ws generalizing s with
  | nil => exact .refl s
  | cons w ws ih =>
    rw [flushAll]
    split
    · exact (staysPut_flushOne s w).trans (ih _)
    · split
      · exact (staysPut_leaseSender _ _ _ _ _).trans (ih _)
      · exact .refl s

theorem staysPut_flushCore {s u : State} {lc : Nat} {o : Option WriteReq} (h : flushCore s lc = (u, o)) : StaysPut s u := by
  have hs := staysPut_flushAll (releaseWrites s lc 0 scopeSys true) s
  rw [show flushAll s (releaseWrites s lc 0 scopeSys true) = (u, o) from h] at hs
  exact hs

/-- Of the logical cores an acquire changes its own alone: its first-level cache and its mappings. -/
theorem coreOf_acquired (s : State) (lc scope : Nat) : ∃ l m, ∀ k, coreOf (acquire s lc scope) k =
    if k = lc then { coreOf s lc with l1 := l, maps := m } else coreOf s k := by
  have hl : ∀ (u : State) x k, coreOf { u with l2 := x } k = coreOf u k := fun _ _ _ => rfl
  unfold acquire
  split
  · refine ⟨(coreOf s lc).l1, (coreOf s lc).maps, fun k => ?_⟩
    split
    · next h => rw [h]
    · rfl
  · dsimp only
    split
    · exact ⟨_, _, fun k => coreOf_modCore s lc k _⟩
    · exact ⟨_, _, fun k => (hl _ _ k).trans (coreOf_modCore s lc k _)⟩

/-- Any other part of a core is as it was before an acquire. -/
theorem acquire_part {β : Type} (f : LCore → β) (hf : ∀ c l m, f { c with l1 := l, maps := m } = f c) (s : State)
    (lc scope k : Nat) : f (coreOf (acquire s lc scope) k) = f (coreOf s k) := by
  obtain ⟨l, m, h⟩ := coreOf_acquired s lc scope
  rw [h]
  split
  · next hk => rw [hf, hk]
  · rfl

/-- The state in which a move's fence has ended: its writes have landed, its contexts have acquired, and no line is left. -/
def fencedState (u : State) (lc : Nat) : State := emptyL1 (acquire u lc scopePkg) lc

theorem fenceThen_flushed {s u : State} {lc : Nat} (h : flushCore s lc = (u, none)) (k : State → State) :
    fenceThen s lc k = k (fencedState u lc) := by
  rw [fenceThen, h]
  rfl

theorem fencedState_part {β : Type} (f : LCore → β) (hf : ∀ c l m, f { c with l1 := l, maps := m } = f c) (u : State)
    (lc k : Nat) : f (coreOf (fencedState u lc) k) = f (coreOf u k) := by
  rw [fencedState, emptyL1, coreOf_modCore, ← acquire_part f hf u lc scopePkg k]
  split
  · next h => rw [hf, h]
  · rfl

theorem sameCtxs_fencedState (u : State) (lc : Nat) : SameCtxs u (fencedState u lc) := fun k c =>
  congrArg (fun x => getD Ctx.reset x c) (fencedState_part LCore.ctxs (fun _ _ _ => rfl) u lc k)

theorem fenced_fencedState (u : State) (lc : Nat) : Fenced (fencedState u lc) lc := by
  rw [Fenced, fencedState, emptyL1, coreOf_modCore_same]
  refine ⟨rfl, fun m hm => ?_⟩
  obtain ⟨_, -, rfl⟩ := List.mem_map.mp hm
  rfl

/-! ### What a change of place leaves -/

/-- The state without its cores, its physical cores, rows and yards and the count of free values. -/
def placeStrip (s : State) : State := { s with cores := [], phys := [], rows := [], yards := [], taken := 0 }

theorem placeStrip_get {α : Type} {s t : State} (h : placeStrip t = placeStrip s) (f : State → α) :
    f (placeStrip t) = f (placeStrip s) := by rw [h]

/-- No logical core has changed but one, and of that one the map of its accumulators alone. -/
def Remapped (s t : State) (lc : Nat) : Prop :=
  ∃ x, ∀ k, coreOf t k = if k = lc then { coreOf s lc with mxacc := x } else coreOf s k

theorem Remapped.of_cores {s t : State} {lc : Nat} (h : t.cores = s.cores) : Remapped s t lc :=
  ⟨(coreOf s lc).mxacc, fun k => by
    rw [coreOf, h, ← coreOf]
    split
    · next hk => rw [hk]
    · rfl⟩

theorem Remapped.trans {s t u : State} {lc : Nat} (h : Remapped s t lc) (k : Remapped t u lc) : Remapped s u lc := by
  obtain ⟨x, hx⟩ := h
  obtain ⟨y, hy⟩ := k
  refine ⟨y, fun a => ?_⟩
  rw [hy, hx, hx, if_pos rfl]
  split <;> rfl

/-- The free accumulator that serves a name. -/
def servingAcc (s : State) (y : Nat) : Nat :=
  (freeAccs (yardOf s y)).getD ((Config.freeValue s.taken).toNat % (freeAccs (yardOf s y)).length) 0

theorem serveAcc_eq (s : State) (lc y : Nat) (content : Sparse (BitVec 32)) (n : Nat) : serveAcc s lc y content n =
    modCore (modYard { s with taken := s.taken + 1 } y fun q =>
      { q with owner := put q.owner (servingAcc s y) (lc + 1), acc := setD [] q.acc (servingAcc s y) content
               lost := erase q.lost (servingAcc s y) }) lc
      fun c => { c with mxacc := setBits (setBits c.mxacc n n 1) (3 * n + 10) (3 * n + 8) (servingAcc s y) } := rfl

theorem serveAcc_remapped (s : State) (lc y : Nat) (content : Sparse (BitVec 32)) (n : Nat) :
    Remapped s (serveAcc s lc y content n) lc :=
  ⟨setBits (setBits (coreOf s lc).mxacc n n 1) (3 * n + 10) (3 * n + 8) (servingAcc s y), fun k => by
    rw [serveAcc_eq, coreOf_modCore]
    rfl⟩

theorem placeStrip_serveAcc (s : State) (lc y : Nat) (content : Sparse (BitVec 32)) (n : Nat) :
    placeStrip (serveAcc s lc y content n) = placeStrip s := by
  rw [serveAcc_eq]
  rfl

theorem foldl_remapped {α : Type} {lc : Nat} {g : State → α → State} (h : ∀ s a, Remapped s (g s a) lc) (l : List α)
    (s : State) : Remapped s (l.foldl g s) lc := by
  induction l generalizing s with
  | nil => exact .of_cores rfl
  | cons a l ih => exact (h s a).trans (ih _)

/-- The accumulators' change of yard is one of their map in the core (R237, R397). -/
theorem moveAccs_remapped (s : State) (lc a b : Nat) : Remapped s (moveAccs s lc a b) lc := by
  unfold moveAccs
  split
  · exact .of_cores rfl
  · exact Remapped.trans (t := modYard s a fun y => { y with owner := y.owner.filter (fun e => e.2 != lc + 1) })
      (.of_cores rfl) (foldl_remapped (fun t (e : Nat × Sparse (BitVec 32)) => serveAcc_remapped t lc b e.2 e.1) _ _)

theorem placeStrip_moveAccs (s : State) (lc a b : Nat) : placeStrip (moveAccs s lc a b) = placeStrip s := by
  unfold moveAccs
  split
  · rfl
  · exact (foldl_keeps placeStrip (fun t (e : Nat × Sparse (BitVec 32)) => placeStrip_serveAcc t lc b e.2 e.1) _ _).trans rfl

theorem wakeCore_cores (s : State) (p : Nat) : (wakeCore s p).cores = s.cores := by
  unfold wakeCore
  split <;> rfl

theorem placeStrip_wakeCore (s : State) (p : Nat) : placeStrip (wakeCore s p) = placeStrip s := by
  unfold wakeCore
  split <;> rfl

theorem arriveOn_cores (s : State) (p : Nat) : (arriveOn s p).cores = s.cores := by
  unfold arriveOn
  rw [wakeCore_cores]
  split <;> rfl

theorem placeStrip_arriveOn (s : State) (p : Nat) : placeStrip (arriveOn s p) = placeStrip s := by
  unfold arriveOn
  rw [placeStrip_wakeCore]
  split <;> rfl

theorem leaveCore_cores (s : State) (p : Nat) : (leaveCore s p).cores = s.cores := by
  unfold leaveCore
  split <;> rfl

theorem freeHost_cores (s : State) (host : Option Nat) : (freeHost s host).cores = s.cores := by
  obtain ⟨ph, e⟩ := freeHost_eq s host
  rw [e]

/-- A core that stands on physical core p, placed and with no other's place kept for it. -/
def movedCore (c : LCore) (p : Nat) (x : Word) : LCore :=
  { c with phys := p, left := 0, storedIn := none, lstate := 1, half := false, mxacc := x }

/-- Of the logical cores a move changes its own alone: its place, and the map of its accumulators. -/
theorem coreOf_moveTo (s : State) (lc p : Nat) :
    ∃ x, ∀ k, coreOf (moveTo s lc p) k = if k = lc then movedCore (coreOf s lc) p x else coreOf s k := by
  obtain ⟨x, hx⟩ := moveAccs_remapped (arriveOn s p) lc (yardNum (homePhys (coreOf s lc))) (yardNum p)
  have ha : ∀ k, coreOf (arriveOn s p) k = coreOf s k := fun k => by rw [coreOf, arriveOn_cores, coreOf]
  refine ⟨x, fun k => ?_⟩
  unfold moveTo
  dsimp only
  generalize moveAccs (arriveOn s p) lc (yardNum (homePhys (coreOf s lc))) (yardNum p) = u at hx ⊢
  have hm : coreOf (modCore u lc fun k =>
      { k with phys := p, left := 0, storedIn := none, lstate := 1, half := false }) k =
      if k = lc then movedCore (coreOf s lc) p x else coreOf s k := by
    rw [coreOf_modCore, hx, hx, ha, ha, if_pos rfl]
    split <;> rfl
  split
  · rw [coreOf, freeHost_cores, ← coreOf, hm]
  · rw [coreOf, leaveCore_cores, ← coreOf, hm]

theorem placeStrip_moveTo (s : State) (lc p : Nat) : placeStrip (moveTo s lc p) = placeStrip s := by
  have h : ∀ (u : State) f, placeStrip (modCore u lc f) = placeStrip u := fun _ _ => rfl
  have hs := placeStrip_moveAccs (arriveOn s p) lc (yardNum (homePhys (coreOf s lc))) (yardNum p)
  rw [placeStrip_arriveOn] at hs
  unfold moveTo
  dsimp only
  split
  · obtain ⟨ph, e⟩ := freeHost_eq (modCore (moveAccs (arriveOn s p) lc (yardNum (homePhys (coreOf s lc))) (yardNum p)) lc
      fun k => { k with phys := p, left := 0, storedIn := none, lstate := 1, half := false }) (coreOf s lc).storedIn
    rw [e]
    exact hs
  · unfold leaveCore
    split <;> exact hs

/-- What follows a move of a core whose contexts have been kept. -/
theorem sameCtxs_moveTo (s : State) (lc p : Nat) : SameCtxs s (moveTo s lc p) := fun k c => by
  obtain ⟨x, hx⟩ := coreOf_moveTo s lc p
  rw [ctxOf, hx]
  split
  · next h => rw [h]; rfl
  · rfl

end Sys2Proof.Machine
end

section
/-! SUPPORT. The moves of logical cores (R289, R397), and the requests that contexts held while their core was lodged
(R314). -/

namespace Sys2Proof.Machine

/-! ### The contexts of a core that moves -/

theorem StaysPut.sameContexts {s u t : State} (h : StaysPut s u) (k : SameCtxs u t) (lc : Nat) : SameContexts s u t lc :=
  fun c => ⟨k lc c, (sameRegisters_iff _ _).mpr (by rw [k lc c, h.registers])⟩

/-- A core that has been fenced and moves stands on its new place, its contexts as the fence left them. -/
theorem movedTo_fenced {s u : State} {lc : Nat} (h : flushCore s lc = (u, none)) (p : Nat) :
    MovedTo s u (moveTo (fencedState u lc) lc p) lc p ∧ Fenced (moveTo (fencedState u lc) lc p) lc := by
  obtain ⟨x, hx⟩ := coreOf_moveTo (fencedState u lc) lc p
  have hlc := (hx lc).trans (if_pos rfl)
  have hc := (sameCtxs_fencedState u lc).trans (sameCtxs_moveTo (fencedState u lc) lc p)
  refine ⟨⟨by rw [hlc]; rfl, by rw [hlc]; rfl, by rw [hlc]; rfl, (staysPut_flushCore h).sameContexts hc lc⟩, ?_⟩
  rw [Fenced, hlc]
  exact fenced_fencedState u lc

/-- A core that folds onto another, with the map of its accumulators there. -/
def foldedCore (c : LCore) (p : Nat) (x : Word) : LCore := { c with phys := p, lstate := 3, half := true, mxacc := x }

theorem coreOf_foldOnto (s : State) (lc v : Nat) : ∃ x, ∀ k, coreOf (foldOnto s lc v) k =
    if k = lc then foldedCore (coreOf s lc) (coreOf s v).phys x else coreOf s k := by
  obtain ⟨x, hx⟩ := moveAccs_remapped (wakeCore s (coreOf s v).phys) lc (yardNum (coreOf s lc).phys)
    (yardNum (coreOf s v).phys)
  have hw : ∀ k, coreOf (wakeCore s (coreOf s v).phys) k = coreOf s k := fun k => by rw [coreOf, wakeCore_cores, coreOf]
  refine ⟨x, fun k => ?_⟩
  rw [foldOnto, coreOf, leaveCore_cores, ← coreOf, coreOf_modCore, hx, hx, hw, hw, if_pos rfl]
  split <;> rfl

theorem folded_fenced {s u : State} {lc v : Nat} (h : flushCore s lc = (u, none)) :
    let t := foldOnto (fencedState u lc) lc v
    (coreOf t lc).phys = (coreOf s v).phys ∧ (coreOf t lc).lstate = 3 ∧ (coreOf t lc).half = true ∧
      SameContexts s u t lc ∧ Fenced t lc := by
  intro t
  have hs := staysPut_flushCore h
  obtain ⟨x, hx⟩ := coreOf_foldOnto (fencedState u lc) lc v
  have hlc := (hx lc).trans (if_pos rfl)
  have hp : (coreOf (fencedState u lc) v).phys = (coreOf s v).phys :=
    (fencedState_part LCore.phys (fun _ _ _ => rfl) u lc v).trans (congrArg (·.2.2.1) (hs.places v))
  have hc : SameCtxs u t := (sameCtxs_fencedState u lc).trans fun k c => by
    rw [ctxOf, hx]
    split
    · next hk => rw [hk]; rfl
    · rfl
  refine ⟨by rw [hlc, ← hp]; rfl, by rw [hlc]; rfl, by rw [hlc]; rfl, hs.sameContexts hc lc, ?_⟩
  rw [Fenced, hlc]
  exact fenced_fencedState u lc

theorem coreOf_lodge (s : State) (lc q slot n : Nat) : coreOf (lodge s lc q slot n) lc =
    { coreOf s lc with left := q, storedIn := some n, phys := dieOf q * 256 + slot, lstate := 4, half := false } := by
  rw [lodge, coreOf, leaveCore_cores, ← coreOf, coreOf_modCore_same]

theorem lodged_fenced {s u : State} {lc : Nat} (h : flushCore s lc = (u, none)) (q slot n : Nat) :
    let t := lodge (fencedState u lc) lc q slot n
    (coreOf t lc).lstate = 4 ∧ (coreOf t lc).left = q ∧ (coreOf t lc).phys = dieOf q * 256 + slot ∧
      (coreOf t lc).storedIn = some n ∧ SameContexts s u t lc ∧ Fenced t lc := by
  intro t
  have hlc := coreOf_lodge (fencedState u lc) lc q slot n
  have hc : SameCtxs (fencedState u lc) t := by
    refine SameCtxs.trans (sameCtxs_modCore (fencedState u lc) lc (fun k =>
      { k with left := q, storedIn := some n, phys := dieOf q * 256 + slot, lstate := 4, half := false }) fun _ => rfl)
      (.of_cores (leaveCore_cores _ q))
  refine ⟨by rw [hlc], by rw [hlc], by rw [hlc], by rw [hlc],
    (staysPut_flushCore h).sameContexts ((sameCtxs_fencedState u lc).trans hc) lc, ?_⟩
  rw [Fenced, hlc]
  exact fenced_fencedState u lc

/-! ### The events (R289) -/

theorem thermalMigration_moves {lc p q : Nat} {s u : State} (hq : standsOn s lc = some q)
    (hhot : sensorAbove s (.core q) = true) (hcool : sensorAbove s (.core p) = false) (hd : dieOf p = dieOf q)
    (hfree : p ∈ freeCores s lc (dieOf q)) (hacc : accRoom s lc (yardNum p) = true) (hr : moveReady s lc = true)
    (hf : flushCore s lc = (u, none)) : exec (.thermalMigration lc p) s = .next (moveTo (fencedState u lc) lc p) := by
  rw [show exec (.thermalMigration lc p) s = execThermalMigration lc p s from rfl, execThermalMigration, hq]
  dsimp only
  rw [if_pos (by simp [hhot, hcool, hd, hfree, hacc, hr]), fenceThen_flushed hf]

theorem spatialPreemption_folds {lc v : Nat} {s u : State} {q : Task} (hq : taskOf s (taskNum lc) = some q)
    (hfold : q.fold = true) (hp : pressed s q = true) (hv : foldsOnto s lc v = true) (hy : yardPreferred s lc v = true)
    (hr : moveReady s lc = true) (hrv : moveReady s v = true)
    (hn : 2 * (foldedCount s q.num + 1) ≤ crewSize q.levels) (hf : flushCore s lc = (u, none)) :
    exec (.spatialPreemption lc v) s = .next (foldOnto (fencedState u lc) lc v) := by
  rw [show exec (.spatialPreemption lc v) s = execSpatialPreemption lc v s from rfl, execSpatialPreemption, hq]
  dsimp only
  rw [if_pos (by simp [hfold, hp, hv, hy, hr, hrv, hn]), fenceThen_flushed hf]

theorem unfold_moves {lc p : Nat} {s u : State} (h3 : (coreOf s lc).lstate = 3)
    (hd : dieOf p = dieOf (coreOf s lc).phys) (hfree : p ∈ freeCores s lc (dieOf (coreOf s lc).phys))
    (hacc : accRoom s lc (yardNum p) = true) (hr : moveReady s lc = true) (hf : flushCore s lc = (u, none)) :
    exec (.unfold lc p) s = .next (moveTo (fencedState u lc) lc p) := by
  rw [show exec (.unfold lc p) s = execUnfold lc p s from rfl, execUnfold]
  rw [if_pos (by simp [h3, hd, hfree, hacc, hr]), fenceThen_flushed hf]

section lodging
variable {lc slot q n : Nat} {s : State} (hq : standsOn s lc = some q) (hs : slotFree s (dieOf q) slot = true)
  (hw : freeCores s lc (dieOf q) = [] ∨ allFrozen (coreOf s lc) = true) (hr : moveReady s lc = true)
  (hn : lodgeHost s q = some n)
include hq hs hw hr hn

theorem exec_lodging : exec (.lodging lc slot) s = if (physOf s n).power = .on
    then .next (fenceThen s lc fun t => lodge t lc q slot n) else .next (wakeCore s n) := by
  have hc : ((freeCores s lc (dieOf q)).isEmpty || allFrozen (coreOf s lc)) = true := by
    simpa using hw
  rw [show exec (.lodging lc slot) s = execLodging lc slot s from rfl, execLodging, hq]
  dsimp only
  rw [if_pos (by rw [hs, hc, hr]; rfl), hn]

theorem lodging_lodges {u : State} (ho : (physOf s n).power = .on) (hf : flushCore s lc = (u, none)) :
    exec (.lodging lc slot) s = .next (lodge (fencedState u lc) lc q slot n) := by
  rw [exec_lodging hq hs hw hr hn, if_pos ho, fenceThen_flushed hf]

theorem lodging_wakes (ho : (physOf s n).power = .off) : exec (.lodging lc slot) s = .next (wakeCore s n) := by
  rw [exec_lodging hq hs hw hr hn, if_neg (by simp [ho])]

end lodging

/-- A core that is off waits for its row's in-rush (R300). -/
theorem wakeCore_queues {s : State} {n : Nat} (ho : (physOf s n).power = .off) :
    (physOf (wakeCore s n) n).power = .queued s.ticks ∧ n ∈ (rowOf (wakeCore s n) (rowNum n)).inrush := by
  have hp : ∀ (u : State) r f, physOf (modRow u r f) n = physOf u n := fun _ _ _ => rfl
  unfold wakeCore
  rw [ho]
  dsimp only
  rw [hp, physOf_modPhys, rowOf_modRow, if_pos rfl, if_pos rfl]
  exact ⟨rfl, List.mem_append_right _ (List.mem_singleton_self _)⟩

/-! ### A context that acts on what it held (R313, R314) -/

/-- The context as a request that it held leaves it: it goes on, or steps, after a FENCE.acq. -/
def resumedCtx (x : Ctx) : Ctx :=
  { x with frozen := false, cause := 0, sub := 0, deliv := false, wait := 0, stage := .idle, dctl := 0,
           stepping := x.dctl == 2, fence := true }

/-- A context after the restoration of its core. -/
def restoredCtx (s : State) (lc c : Nat) : Ctx :=
  let x := ctxOf s lc c
  if x.live ∧ x.frozen ∧ (x.dctl = 1 ∨ x.dctl = 2) ∧ packetWaits s lc c = false then
    if rollingBack s lc then { x with dctl := 0 } else resumedCtx x
  else x

/-- What a thaw frees: the jobs and copies behind a fault that the context has been told of (R234, R248). -/
def unblocked (s : State) (lc c : Nat) : State :=
  modYard (modCore s lc fun k => { k with blocked := k.blocked.filter (fun b => b.1 != c || stillHeld (ctxOf s lc c) b.2) })
    (yardNum (homePhys (coreOf s lc))) fun y => { y with copies := y.copies.map (resumeCopy lc c (ctxOf s lc c)) }

theorem staysPut_unblocked (s : State) (lc c : Nat) : StaysPut s (unblocked s lc c) :=
  (staysPut_modCore s lc (f := fun k =>
    { k with blocked := k.blocked.filter (fun b => b.1 != c || stillHeld (ctxOf s lc c) b.2) }) (fun _ => rfl)
    fun _ => rfl).trans (.of_cores rfl)

theorem sameCtxs_unblocked (s : State) (lc c : Nat) : SameCtxs s (unblocked s lc c) :=
  (sameCtxs_modCore s lc (fun k =>
    { k with blocked := k.blocked.filter (fun b => b.1 != c || stillHeld (ctxOf s lc c) b.2) }) fun _ => rfl).trans
    (.of_cores rfl)

/-- A context that a thaw has freed. -/
def thawedCtx (x : Ctx) : Ctx :=
  { x with frozen := false, cause := 0, sub := 0, deliv := false, wait := 0, stage := .idle }

theorem thaw_eq (s : State) (lc c : Nat) : ∃ tr, thaw s lc c =
    { setCtx (unblocked s lc c) lc c (thawedCtx (ctxOf s lc c)) with tripped := tr } := by
  unfold thaw
  dsimp only
  split
  · exact ⟨_, rfl⟩
  · exact ⟨_, rfl⟩

/-- Of contexts a thaw changes its own alone; no core leaves its place. -/
theorem thaw_ctxOf (s : State) (lc c a b : Nat) : ctxOf (thaw s lc c) a b =
    if a = lc ∧ b = c then thawedCtx (ctxOf s lc c) else ctxOf s a b := by
  obtain ⟨tr, h⟩ := thaw_eq s lc c
  rw [h, ← sameCtxs_unblocked s lc c a b]
  exact ctxOf_setCtx _ _ _ _ _ _

theorem lpctEntry_setCtx (s : State) (lc c : Nat) (x : Ctx) (k : Nat) :
    lpctEntry (coreOf (setCtx s lc c x) k) = lpctEntry (coreOf s k) :=
  (quiet_setCtx s lc c x).part lpctEntry (fun _ => rfl) k

theorem thaw_lpctEntry (s : State) (lc c k : Nat) : lpctEntry (coreOf (thaw s lc c) k) = lpctEntry (coreOf s k) := by
  obtain ⟨tr, h⟩ := thaw_eq s lc c
  rw [h, ← (staysPut_unblocked s lc c).places k]
  exact lpctEntry_setCtx _ _ _ _ _

/-- The state without its cores, its yards and what halt groups have tripped. -/
def thawStrip (s : State) : State := { s with cores := [], yards := [], tripped := [] }

theorem thawStrip_get {α : Type} {s t : State} (h : thawStrip t = thawStrip s) (f : State → α) :
    f (thawStrip t) = f (thawStrip s) := by rw [h]

theorem thawStrip_physOf {s t : State} (h : thawStrip t = thawStrip s) (n : Nat) : physOf t n = physOf s n :=
  thawStrip_get h fun t => physOf t n

theorem thawStrip_thaw (s : State) (lc c : Nat) : thawStrip (thaw s lc c) = thawStrip s := by
  obtain ⟨tr, h⟩ := thaw_eq s lc c
  rw [h]
  rfl

/-- What acting on a held request leaves: the places of the cores and all but cores, yards and tripped groups. -/
theorem actHeld_keeps (s : State) (lc c : Nat) : thawStrip (actHeld s lc c) = thawStrip s ∧
    ∀ k, lpctEntry (coreOf (actHeld s lc c) k) = lpctEntry (coreOf s k) := by
  have hm : ∀ (u : State) f, thawStrip (modCtx u lc c f) = thawStrip u := fun _ _ => rfl
  unfold actHeld resumeCtx
  dsimp only
  split
  · split
    · exact ⟨hm s _, fun k => lpctEntry_setCtx _ _ _ _ _⟩
    · exact ⟨(hm _ _).trans (thawStrip_thaw s lc c), fun k => (lpctEntry_setCtx _ _ _ _ _).trans (thaw_lpctEntry s lc c k)⟩
  · exact ⟨rfl, fun _ => rfl⟩

theorem actHeld_ctxOf (s : State) (lc c a b : Nat) :
    ctxOf (actHeld s lc c) a b = if a = lc ∧ b = c then restoredCtx s lc c else ctxOf s a b := by
  unfold actHeld restoredCtx resumeCtx
  dsimp only
  split
  · split
    · exact ctxOf_modCtx _ _ _ _ _ _
    · rw [ctxOf_modCtx]
      split
      · rw [thaw_ctxOf, if_pos ⟨rfl, rfl⟩]
        rfl
      · next h => rw [thaw_ctxOf, if_neg h]
  · split
    · next h => rw [h.1, h.2]
    · rfl

/-- What a context becomes depends on itself, the packets and the tasks. -/
theorem restoredCtx_congr {s t : State} {lc c : Nat} (hx : ctxOf t lc c = ctxOf s lc c) (hp : t.packets = s.packets)
    (ht : t.tasks = s.tasks) : restoredCtx t lc c = restoredCtx s lc c := by
  have hw : packetWaits t lc c = packetWaits s lc c := by rw [packetWaits, hp, packetWaits]
  have hr : rollingBack t lc = rollingBack s lc := by
    unfold rollingBack taskOf
    rw [ht]
  simp only [restoredCtx, hx, hw, hr]

theorem foldl_actHeld_ctxOf (lc : Nat) {l : List Nat} (hl : l.Nodup) (s : State) (c : Nat) :
    ctxOf (l.foldl (fun t c => actHeld t lc c) s) lc c = if c ∈ l then restoredCtx s lc c else ctxOf s lc c := by
  induction l generalizing s with
  | nil => rfl
  | cons a l ih =>
    obtain ⟨ha, hl⟩ := List.nodup_cons.mp hl
    have hk := (actHeld_keeps s lc a).1
    rw [List.foldl_cons, ih hl]
    by_cases hc : c = a
    · subst hc
      rw [if_neg ha, actHeld_ctxOf, if_pos ⟨rfl, rfl⟩, if_pos List.mem_cons_self]
    · have hx : ctxOf (actHeld s lc a) lc c = ctxOf s lc c := by rw [actHeld_ctxOf, if_neg fun h => hc h.2]
      rw [restoredCtx_congr hx (thawStrip_get hk State.packets) (thawStrip_get hk State.tasks), hx]
      simp [hc]

theorem restoredCtx_idle {s : State} {lc c : Nat} (h : (ctxOf s lc c).dctl = 0) : restoredCtx s lc c = ctxOf s lc c := by
  simp [restoredCtx, h]

theorem restoredCtx_waits {s : State} {lc c : Nat} (hp : packetWaits s lc c = true) :
    restoredCtx s lc c = ctxOf s lc c := by
  simp [restoredCtx, hp]

theorem restoredCtx_resumes {s : State} {lc c : Nat} (hl : (ctxOf s lc c).live = true) (hf : (ctxOf s lc c).frozen = true)
    (hd : (ctxOf s lc c).dctl = 1 ∨ (ctxOf s lc c).dctl = 2) (hp : packetWaits s lc c = false)
    (hr : rollingBack s lc = false) : restoredCtx s lc c = resumedCtx (ctxOf s lc c) := by
  simp [restoredCtx, hl, hf, hd, hp, hr]

/-! ### Restoration (R397) -/

/-- The state of a restored core, the requests of its contexts acted on. -/
def restoredState (s : State) (lc p : Nat) : State := (List.range 11).foldl (fun t c => actHeld t lc c) (moveTo s lc p)

theorem exec_lodgeRestore {lc p : Nat} {s : State} (h4 : (coreOf s lc).lstate = 4) (ht : restoreTarget s lc = some p) :
    exec (.lodgeRestore lc p) s = .next (restoredState s lc p) := if_pos ⟨h4, ht⟩

theorem restored_lpctEntry (s : State) (lc p : Nat) : ∃ x,
    lpctEntry (coreOf (restoredState s lc p) lc) = lpctEntry (movedCore (coreOf s lc) p x) := by
  obtain ⟨x, hx⟩ := coreOf_moveTo s lc p
  refine ⟨x, ?_⟩
  rw [restoredState, foldl_keeps (fun t => lpctEntry (coreOf t lc)) fun t c => (actHeld_keeps t lc c).2 lc, hx, if_pos rfl]

theorem lpctEntry_moved {c d : LCore} {p : Nat} {x : Word} (h : lpctEntry c = lpctEntry (movedCore d p x)) :
    c.phys = p ∧ c.lstate = 1 ∧ c.half = false :=
  ⟨congrArg (·.2.2.1) h, congrArg (·.1) h, congrArg (·.2.1) h⟩

/-- The host of the image is idle from the restoration on (R300). -/
theorem restored_host {s : State} {lc p n : Nat} (h4 : (coreOf s lc).lstate = 4) (hn : (coreOf s lc).storedIn = some n) :
    (physOf (restoredState s lc p) n).idleSince = s.ticks := by
  have hk : thawStrip (restoredState s lc p) = thawStrip (moveTo s lc p) := by
    rw [restoredState]
    exact foldl_keeps thawStrip (fun t c => (actHeld_keeps t lc c).1) _ _
  have hp := thawStrip_physOf hk n
  have ht : (moveAccs (arriveOn s p) lc (yardNum (homePhys (coreOf s lc))) (yardNum p)).ticks = s.ticks :=
    (placeStrip_get (placeStrip_moveAccs (arriveOn s p) lc (yardNum (homePhys (coreOf s lc))) (yardNum p)) State.ticks).trans
      (placeStrip_get (placeStrip_arriveOn s p) State.ticks)
  rw [hp, moveTo, if_pos h4, hn, freeHost_phys, if_pos rfl]
  exact ht

theorem restored_ctxOf (s : State) (lc p : Nat) {c : Nat} (hc : c ≤ 10) :
    ctxOf (restoredState s lc p) lc c = restoredCtx s lc c := by
  have hs := placeStrip_moveTo s lc p
  rw [restoredState, foldl_actHeld_ctxOf lc List.nodup_range, if_pos (List.mem_range.mpr (by omega)),
    restoredCtx_congr (sameCtxs_moveTo s lc p lc c) (placeStrip_get hs State.packets) (placeStrip_get hs State.tasks)]

/-! ### Contexts that may move, and the running function -/

theorem ctxMovable_boundary {lc c : Nat} {s : State} (h : ctxMovable s lc (c, ctxOf s lc c) = true)
    (hl : (ctxOf s lc c).live = true) :
    ((ctxOf s lc c).stage = .idle ∨ interruptible (ctxOf s lc c) = true ∨ parkedCtx s lc c = true) ∧
      (ctxOf s lc c).loads = [] := by
  simp only [ctxMovable, atBoundary, hl, Bool.not_true, Bool.false_or, Bool.and_eq_true, Bool.or_eq_true,
    decide_eq_true_eq, List.isEmpty_iff, or_assoc] at h
  exact h.1

theorem exec_runningFunctionChange {part vf : Nat} {s : State} (hm : s.modPower ≠ .standby) (hp : (vfOf s vf).part = part) :
    exec (.runningFunctionChange part vf) s = .next (modPart s part fun p => { p with running := some vf }) :=
  if_pos ⟨hm, hp⟩

end Sys2Proof.Machine
end

section
/-! O50. Moves of logical cores, contexts that may move, and the running function. -/

open Sys2Proof.Machine

/-- Settles O50: a move is a flush, which only causes may change contexts in, then a change of the core's LPCT entry and of
the map of its accumulators. -/
theorem logicalCoresMove : Obligations.LogicalCoresMove := by
  unfold Obligations.LogicalCoresMove
  refine ⟨?migrates, ?folds, ?unfolds, ?lodges, ?restores, fun lc c s => ctxMovable_boundary, ?runs⟩
  case migrates =>
    intro lc p q s u hq hhot hcool hd hfree hacc hr hf
    exact ⟨_, thermalMigration_moves hq hhot hcool hd hfree hacc hr hf, movedTo_fenced hf p⟩
  case folds =>
    intro lc v s u q hq hfold hp hv hy hr hrv hn hf
    exact ⟨_, spatialPreemption_folds hq hfold hp hv hy hr hrv hn hf, folded_fenced hf⟩
  case unfolds =>
    intro lc p s u h3 hd hfree hacc hr hf
    exact ⟨_, unfold_moves h3 hd hfree hacc hr hf, movedTo_fenced hf p⟩
  case lodges =>
    intro lc slot q n s hq hs hw hr hn
    refine ⟨fun u ho hf => ⟨_, lodging_lodges hq hs hw hr hn ho hf, lodged_fenced hf q slot n⟩, fun ho => ?_⟩
    obtain ⟨hp, hi⟩ := wakeCore_queues ho
    exact ⟨_, lodging_wakes hq hs hw hr hn ho, hp, hi, wakeCore_cores s n⟩
  case restores =>
    intro lc p s h4 ht
    obtain ⟨x, hx⟩ := restored_lpctEntry s lc p
    obtain ⟨hp, hl, hh⟩ := lpctEntry_moved hx
    refine ⟨_, exec_lodgeRestore h4 ht, hp, hl, hh, fun n hn => restored_host h4 hn, fun c hc => ?_⟩
    have hx := restored_ctxOf s lc p hc
    exact ⟨fun hd => hx.trans (restoredCtx_idle hd), fun hl hf hd hr => ⟨fun hp => hx.trans (restoredCtx_waits hp),
      fun hp => hx.trans (restoredCtx_resumes hl hf hd hp hr)⟩⟩
  case runs =>
    intro part vf s hm hp
    refine ⟨_, exec_runningFunctionChange hm hp, by rw [partOf_modPart, if_pos rfl], fun k hk => ?_⟩
    rw [partOf_modPart, if_neg hk]
end

section
/-! SUPPORT. Launch records and their words (R278 to R283), LAUNCH, and the host's command queue (R284, R354). -/

namespace Sys2Proof.Machine

/-! ### Bytes of words (R2, R282) -/

theorem byteAt_flatMap_toBytes (ws : List Word) (i : Nat) {b : Nat} (hb : b < 8) :
    byteAt (ws.flatMap fun w => toBytes 8 w.toNat) (8 * i + b) = byteAt (toBytes 8 (ws.getD i 0#64).toNat) b := by
  induction ws generalizing i with
  | nil =>
    refine BitVec.eq_of_getLsbD_eq fun j hj => ?_
    rw [getLsbD_byteAt_toBytes _ hb hj]
    simp [byteAt]
  | cons w ws ih =>
    rw [List.flatMap_cons, byteAt]
    cases i with
    | zero =>
      rw [List.getD_append _ _ _ _ (by rw [length_toBytes]; omega), show 8 * 0 + b = b by omega]
      rfl
    | succ i =>
      rw [List.getD_append_right _ _ _ _ (by rw [length_toBytes]; omega), length_toBytes,
        show 8 * (i + 1) + b - 8 = 8 * i + b by omega, ← byteAt, ih]
      rfl

theorem testBit_byte (x k : Nat) {j : Nat} (hj : j < 8) : (x / 256 ^ k % 256).testBit j = x.testBit (8 * k + j) := by
  rw [show 256 ^ k = 2 ^ (8 * k) by rw [Nat.pow_mul], show 256 = 2 ^ 8 from rfl, Nat.testBit_mod_two_pow,
    Nat.testBit_div_two_pow, Nat.add_comm]
  simp [hj]

/-- The bytes of the number that words stand for are the words' own, in their order. -/
theorem wordsNat_byte (ws : List Word) (i : Nat) {b : Nat} (hb : b < 8) :
    wordsNat ws / 256 ^ (8 * i + b) % 256 = (ws.getD i 0#64).toNat / 256 ^ b % 256 := by
  refine Nat.eq_of_testBit_eq fun j => ?_
  by_cases hj : j < 8
  · rw [testBit_byte _ _ hj, testBit_byte _ _ hj, wordsNat, testBit_ofBytes _ _ hj, byteAt_flatMap_toBytes _ _ hb,
      getLsbD_byteAt_toBytes _ hb hj]
  · have h : ∀ y : Nat, (y % 2 ^ 8).testBit j = false := fun y => by
      rw [Nat.testBit_mod_two_pow]
      simp [hj]
    exact (h _).trans (h _).symm

/-! ### Entering a record (R203, R283, R290) -/

theorem exists_free_number (m : Sparse Task) : ∃ i < m.length + 1, look m (i + 1) = none := by
  by_contra hn
  have hsub : (List.range (m.length + 1)).map (· + 1) ⊆ keys m := fun k hk => by
    obtain ⟨i, hi, rfl⟩ := List.mem_map.mp hk
    by_contra hk
    exact hn ⟨i, List.mem_range.mp hi, look_eq_none hk⟩
  have hl := ((List.nodup_range.map Nat.succ_injective).subperm hsub).length_le
  simp [keys] at hl

theorem newNumber_free (s : State) : newNumber s ≠ 0 ∧ look s.tasks (newNumber s) = none := by
  unfold newNumber
  dsimp only
  split
  · next h => exact ⟨by omega, Option.isNone_iff_eq_none.mp h⟩
  · refine ⟨by omega, ?_⟩
    cases hf : (List.range (s.tasks.length + 1)).find? fun i => (look s.tasks (i + 1)).isNone with
    | some i => exact Option.isNone_iff_eq_none.mp (List.find?_some (p := fun i => (look s.tasks (i + 1)).isNone) hf)
    | none =>
      obtain ⟨i, hi, hl⟩ := exists_free_number s.tasks
      exact absurd (List.find?_eq_none.mp hf i (List.mem_range.mpr hi)) (by simp [hl])

section record
variable {s : State} {ra asid part vf : Nat}

theorem takeRecord_busy (h : 4096 ≤ poolSize s) : takeRecord s ra asid part vf = (s, .answer answerBusy) := if_pos h

variable (hp : poolSize s < 4096)
include hp

theorem takeRecord_entered (he : entered s asid ra = true) :
    takeRecord s ra asid part vf = (s, .answer answerEntered) := by
  rw [takeRecord, if_neg (by omega), if_pos he]

variable (he : entered s asid ra = false) {u : State} {hs : List Word} (hh : readWords asid 16 ra [] s = (u, .got hs))
include he hh

theorem takeRecord_tooMany (hr : 16 < recRanges hs) : takeRecord s ra asid part vf = (u, .answer answerInvalid) := by
  rw [takeRecord, if_neg (by omega), if_neg (by simp [he]), hh]
  exact if_pos hr

variable (hr : recRanges hs ≤ 16) {v : State} {ws : List Word}
  (hw : readWords asid (2 * recRanges hs) (ra + 128) hs u = (v, .got ws))
include hr hw

theorem takeRecord_read : takeRecord s ra asid part vf = if recordOk ws
    then ((enterTask v ra asid part vf ws).1, .answer (enterTask v ra asid part vf ws).2) else (v, .answer answerInvalid) := by
  rw [takeRecord, if_neg (by omega), if_neg (by simp [he]), hh]
  dsimp only
  rw [if_neg (by omega), hw]

theorem takeRecord_invalid (hk : recordOk ws = false) : takeRecord s ra asid part vf = (v, .answer answerInvalid) := by
  rw [takeRecord_read hp he hh hr hw, if_neg (by simp [hk])]

theorem takeRecord_enters (hk : recordOk ws = true) : takeRecord s ra asid part vf =
    ((enterTask v ra asid part vf ws).1, .answer (word (newNumber v))) := by
  rw [takeRecord_read hp he hh hr hw, if_pos hk]
  rfl

end record

/-- The task of a record that is entered stands in the pool under its new number. -/
theorem taskOf_enterTask (s : State) (ra asid part vf : Nat) (ws : List Word) :
    look (enterTask s ra asid part vf ws).1.tasks (newNumber s) = some (newTask s (newNumber s) ra asid part vf
      (min (getD 0 s.credits (recordKey asid ra)) (bits (recWord ws 3) 63 48)) ws) := look_put_same _ _ _

/-! ### LAUNCH (R283) -/

section launch
variable {d : F6} {a : Opnd} {s : State} (hi : Issues ⟨[a], some d.toNat, [], []⟩ s)
include hi

theorem launch_misaligned (h : (valB s a).toNat % 128 ≠ 0) :
    exec (.launch d a) s = trapAddr s causeMisaligned (valB s a).toNat := by
  rw [show exec (.launch d a) s = execLaunch d a s from rfl, execLaunch, issue_ready hi]
  exact if_pos h

variable (h : (valB s a).toNat % 128 = 0)
include h

theorem launch_denied (hw : inWindow (valB s a).toNat = true ∨ canonicalVa (valB s a).toNat = false) :
    exec (.launch d a) s = trapAddr s causeProtect (valB s a).toNat := by
  rw [show exec (.launch d a) s = execLaunch d a s from rfl, execLaunch, issue_ready hi]
  dsimp only
  rw [if_neg (by omega), if_pos]
  rcases hw with hw | hw <;> simp [hw]

theorem launch_answers {u : State} {w : Word} (hin : inWindow (valB s a).toNat = false)
    (hc : canonicalVa (valB s a).toNat = true) (hd : debugWindow s s.cur.1 (valB s a).toNat = none)
    (hst : ∀ v, (me s).stage ≠ .answered v) (hr : ReleaseComplete s scopeSys false)
    (ht : takeRecord s (valB s a).toNat (asidOf s s.cur.1) (partOfCore s s.cur.1).1 (partOfCore s s.cur.1).2 =
      (u, .answer w)) : exec (.launch d a) s = finish ⟨[a], some d.toNat, [], []⟩ long u w := by
  rw [show exec (.launch d a) s = execLaunch d a s from rfl, execLaunch, issue_ready hi]
  dsimp only
  rw [if_neg (by omega), if_neg (by simp [hin, hc, hd])]
  split
  · next v hv => exact absurd hv (hst v)
  · rw [releaseThen_done hr, askDispatcher, ht]

end launch

/-! ### HQDB_WRITE (R354) -/

/-- The word without its low seven bits is the address of its 128 bytes. -/
theorem toNat_and_lines (v : Word) : (v &&& 0xFFFFFFFFFFFFFF80#64).toNat = v.toNat / 128 * 128 := by
  have hm : ∀ i, i < 64 → (0xFFFFFFFFFFFFFF80#64).getLsbD i = decide (7 ≤ i) := by decide
  refine Nat.eq_of_testBit_eq fun i => ?_
  rw [BitVec.testBit_toNat, BitVec.getLsbD_and, show 128 = 2 ^ 7 from rfl, Nat.testBit_mul_two_pow,
    Nat.testBit_div_two_pow]
  by_cases hi : i < 64
  · rw [hm i hi, ← BitVec.testBit_toNat, Bool.and_comm]
    by_cases h7 : 7 ≤ i
    · rw [show i - 7 + 7 = i by omega]
    · simp [h7]
  · rw [BitVec.getLsbD_of_ge _ _ (by omega)]
    have hv : v.toNat.testBit (i - 7 + 7) = false := by
      rw [BitVec.testBit_toNat]
      exact BitVec.getLsbD_of_ge _ _ (by omega)
    simp [hv]

section hqdb
variable {vf : Nat} {v : Word} {s : State} (hm : s.modPower = .active) (hc : cxlUp s = true)
include hm hc

theorem hqdbWrite_queues (hq : (vfOf s vf).queue.length < 16) : exec (.hqdbWrite vf v) s =
    .next (modVf s vf fun x => { x with queue := x.queue ++ [v.toNat / 128 * 128], hqdb := v &&& 0xFFFFFFFFFFFFFF80#64 }) := by
  have hk : ∀ f, wakeModule (modVf s vf f) = modVf s vf f := fun f =>
    if_neg (show ¬ s.modPower = .idle by rw [hm]; decide)
  rw [show exec (.hqdbWrite vf v) s = execHqdbWrite vf v s from rfl, execHqdbWrite]
  rw [if_neg (by simp [hm, hc]), if_neg (by omega), hk, toNat_and_lines]

theorem hqdbWrite_full (hq : 16 ≤ (vfOf s vf).queue.length) :
    exec (.hqdbWrite vf v) s = .next (modVf s vf fun x => { x with ref := true }) := by
  rw [show exec (.hqdbWrite vf v) s = execHqdbWrite vf v s from rfl, execHqdbWrite]
  rw [if_neg (by simp [hm, hc]), if_pos hq]

end hqdb

end Sys2Proof.Machine
end

section
/-! SUPPORT. The dispatcher's reads, the host's entries (R284, R354), the ready pool (R285, R286), the credits of a record
(R290) and the lapse of retained ways (R291). -/

namespace Sys2Proof.Machine

/-! ### The dispatcher's reads (R283) -/

theorem MscChange.trans {s t u : State} (h : MscChange s t) (k : MscChange t u) : MscChange s u := by
  unfold MscChange at h k ⊢
  rw [k, h]

theorem mscChange_mscRead (s : State) (asid va n : Nat) (p : Page) : MscChange s (mscRead s asid va n p).1 := by
  obtain ⟨g, h, e⟩ := mscRead_eq s asid va n p
  unfold MscChange
  conv_lhs => rw [e]
  rw [congrArg State.gens e, congrArg State.heat e]

theorem mscChange_readWords (asid n va : Nat) (acc : List Word) (s : State) :
    MscChange s (readWords asid n va acc s).1 := by
  induction n generalizing va acc s with
  | zero => exact .refl s
  | succ n ih =>
    rw [readWords]
    split
    · exact .refl s
    · split
      · exact .refl s
      · exact (mscChange_mscRead _ _ _ _ _).trans (ih _ _ _)

/-- What the dispatcher does with a record address leaves the virtual functions as they are. -/
theorem takeRecord_vfs (s : State) (ra asid part vf : Nat) : (takeRecord s ra asid part vf).1.vfs = s.vfs := by
  have hr : ∀ n va acc (u : State), (readWords asid n va acc u).1.vfs = u.vfs := fun n va acc u =>
    (mscChange_readWords asid n va acc u).get State.vfs fun _ _ _ _ => rfl
  have h1 := hr 16 ra [] s
  unfold takeRecord
  split
  · rfl
  split
  · rfl
  generalize readWords asid 16 ra [] s = x at h1 ⊢
  obtain ⟨t, hs | _ | _⟩ := x
  · dsimp only
    split
    · exact h1
    have h2 := hr (2 * recRanges hs) (ra + 128) hs t
    generalize readWords asid (2 * recRanges hs) (ra + 128) hs t = y at h2 ⊢
    obtain ⟨u, ws | _ | _⟩ := y
    · dsimp only
      split <;> exact h2.trans h1
    · exact h2.trans h1
    · exact h2.trans h1
  · exact h1
  · exact h1

/-! ### Host entries (R284, R354) -/

/-- A reply that is written takes the entry from the queue, moves the ring's tail on and signals vector 0. -/
theorem writeReply_effect (s : State) (vf ra : Nat) (w : Word) :
    vfOf (writeReply s vf ra w) vf = { vfOf s vf with
      queue := (vfOf s vf).queue.drop 1, rrtail := ((vfOf s vf).rrtail + 1) % 2 ^ 32, answers := 0 } ∧
    (writeReply s vf ra w).msix = s.msix ++ [(vf, 0)] := by
  have hk : ∀ {β : Type} (f : State → β), (∀ (u : State) m c, f { u with mem := m, msc := c } = f u) → ∀ a bs,
      f (pokeFrame s a bs) = f s := fun f hf a bs => by
    rw [pokeFrame]
    exact foldl_keeps f (fun t (e : Byte × Nat) => hf t _ _) _ _
  have hv : ∀ (u : State) m, vfOf { u with msix := m } vf = vfOf u vf := fun _ _ => rfl
  have hm : ∀ (u : State) f, (modVf u vf f).msix = u.msix := fun _ _ => rfl
  unfold writeReply
  dsimp only
  rw [hv, vfOf_modVf, if_pos rfl, hm, hk (fun u => vfOf u vf) fun _ _ _ => rfl, hk State.msix fun _ _ _ => rfl]
  exact ⟨rfl, rfl⟩

theorem exec_hostQueueEntry {vf ra : Nat} {rest : List Nat} {s u : State} {w : Word} (hq : (vfOf s vf).queue = ra :: rest)
    (hm : s.modPower = .active) (hp : isParked s (.hostEntry vf) = false) (ha : (vfOf s vf).part < 48)
    (hr : ((vfOf s vf).rrtail + 2 ^ 32 - (vfOf s vf).rrhead) % 2 ^ 32 < ringSize (vfOf s vf).rrbase)
    (hn : (vfOf s vf).answers ≠ 1) (ht : takeRecord s ra (vfOf s vf).asid (vfOf s vf).part vf = (u, .answer w)) :
    exec (.hostQueueEntry vf) s = .next (writeReply u vf ra w) := by
  have hs : assigned (vfOf s vf) = true := decide_eq_true ha
  rw [show exec (.hostQueueEntry vf) s = execHostQueueEntry vf s from rfl, execHostQueueEntry, hq]
  dsimp only
  rw [if_neg, if_neg hn, ht]
  rintro (h | h | h | h)
  · exact h hm
  · rw [hs] at h
    cases h
  · rw [hp] at h
    cases h
  · omega

/-! ### The ready pool (R285, R286) -/

section pool
variable {n : Nat} {q : Task} {s : State} (hq : taskOf s n = some q)
include hq

theorem taskOf_queueTask (level : Nat) : taskOf (queueTask s n level) n =
      some { q with stage := .ready, level := level, since := s.ticks, seq := s.readySeq } ∧
    (queueTask s n level).readySeq = s.readySeq + 1 := by
  have hc : taskOf { s with readySeq := s.readySeq + 1 } n = some q := hq
  refine ⟨?_, ?_⟩
  · rw [queueTask, taskOf_modTask, if_pos rfl, hc]
    rfl
  · rw [queueTask, modTask, show look (State.tasks { s with readySeq := s.readySeq + 1 }) n = some q from hq]

theorem exec_taskReady (hs : q.stage = .pending) (hp : q.pred = 0) (hr : rangesResident s q = true) :
    exec (.taskReady n) s = .next (queueTask s n q.prio) := by
  rw [show exec (.taskReady n) s = execTaskReady n s from rfl, execTaskReady, hq]
  exact if_pos ⟨hs, hp, hr⟩

theorem exec_priorityAgeing (hs : q.stage = .ready) (hl : q.level < 7) (ha : q.since + 1800000 ≤ s.ticks) :
    exec (.priorityAgeing n) s = .next (queueTask s n (q.level + 1)) := by
  rw [show exec (.priorityAgeing n) s = execPriorityAgeing n s from rfl, execPriorityAgeing, hq]
  exact if_pos (by simp [ageDue, hs, hl, msTicks, ha])

theorem exec_starvationHold (hs : q.stage = .ready) (hl : q.level = 7) (ha : q.since + 7200000 ≤ s.ticks)
    (hn : s.starved = none) (hf : ∀ e ∈ s.tasks, e.1 ≠ n → starves s e.2 = true → before e.2 q = false) :
    exec (.starvationHold n) s = .next { s with starved := some n } := by
  have hst : starves s q = true := by simp [starves, hs, hl, msTicks, ha]
  have hall : (s.tasks.all fun e => e.1 == n || !starves s e.2 || !before e.2 q) = true := by
    refine List.all_eq_true.mpr fun e he => ?_
    by_cases h1 : e.1 = n
    · simp [h1]
    by_cases h2 : starves s e.2 = true
    · simp [hf e he h1 h2]
    · simp [h2]
  rw [show exec (.starvationHold n) s = execStarvationHold n s from rfl, execStarvationHold, hq]
  exact if_pos (by rw [hst, hn, hall]; rfl)

/-- A task before which another that fits stands is not placed (R286). -/
theorem exec_placeTask_waits {m : Nat} {r : Task} (cores : List Nat) (hm : (m, r) ∈ s.tasks) (hd : r.num ≠ q.num)
    (hr : r.stage = .ready) (hrun : mayRun s r = true) (hfit : fits s r = true)
    (hb : q.level < r.level ∨ (q.level = r.level ∧ r.seq < q.seq)) : exec (.placeTask n cores) s = .next s := by
  have hbef : before r q = true := by
    rcases hb with h | ⟨h, h'⟩
    · simp [before, h]
    · simp [before, h, h']
  have ht : placeTurn s q = false := by
    rw [placeTurn, Bool.and_eq_false_iff]
    refine .inr (Bool.eq_false_iff.mpr fun ha => ?_)
    have := List.all_eq_true.mp ha (m, r) hm
    simp [hd, hr, hbef, hrun, hfit] at this
  rw [show exec (.placeTask n cores) s = execPlaceTask n cores s from rfl, execPlaceTask, hq]
  exact if_pos (.inr (.inr (.inr (.inl ht))))

end pool

/-! ### Credits (R290) -/

section credit
variable {s : State} {asid ra : Nat} (hra : ra ≠ 0)
include hra

/-- The entry of the pending task at a record address of an address space. -/
theorem creditSuccessor_eq : creditSuccessor s asid ra =
    match s.tasks.find? (fun e => e.2.record == ra && e.2.asid == asid && e.2.stage == .pending) with
    | some e => if e.2.pred = 0 then keepCredit s (recordKey asid ra)
        else modTask s e.1 fun t => { t with pred := t.pred - 1 }
    | none => keepCredit s (recordKey asid ra) := if_neg hra

theorem creditSuccessor_decrements {m : Nat} {r : Task} (hf : s.tasks.find? (fun e =>
      e.2.record == ra && e.2.asid == asid && e.2.stage == .pending) = some (m, r)) (hp : 0 < r.pred) :
    creditSuccessor s asid ra = modTask s m fun t => { t with pred := t.pred - 1 } := by
  rw [creditSuccessor_eq hra, hf]
  exact if_neg (by simp; omega)

theorem creditSuccessor_keeps (hf : s.tasks.find? (fun e =>
      e.2.record == ra && e.2.asid == asid && e.2.stage == .pending) = none ∨ ∃ m r, s.tasks.find? (fun e =>
      e.2.record == ra && e.2.asid == asid && e.2.stage == .pending) = some (m, r) ∧ r.pred = 0) :
    creditSuccessor s asid ra = keepCredit s (recordKey asid ra) := by
  rw [creditSuccessor_eq hra]
  rcases hf with hf | ⟨m, r, hf, hp⟩
  · rw [hf]
  · rw [hf]
    exact if_pos hp

end credit

theorem keepCredit_held (s : State) (key : Nat) :
    getD 0 (keepCredit s key).credits key = min 65535 (getD 0 s.credits key + 1) := getD_setD_same _ _ _ _

/-! ### Retained ways (R291) -/

theorem exec_stashRetentionLapse {p : Nat} {s : State} (h : keptOver s p = true) : exec (.stashRetentionLapse p) s =
    .next (modPhys s p fun q => { q with kept := none, idleSince := s.ticks }) := if_pos h

theorem keptOver_iff {p : Nat} {s : State} {k : Kept} (h : (physOf s p).kept = some k) :
    keptOver s p = true ↔ k.since + 18000000 ≤ s.ticks := by
  rw [keptOver, h]
  exact decide_eq_true_iff

end Sys2Proof.Machine
end

section
/-! SUPPORT. The placing of a crew (R287, R291, R299). -/

namespace Sys2Proof.Machine

/-! ### A logical core that is placed -/

/-- What a placement fixes of a logical core: where it stands, its LPCT state, its contexts and its ways. -/
def placing (c : LCore) : Nat × Nat × Sparse Ctx × Nat := (c.phys, c.lstate, c.ctxs, c.ways)

theorem placedCore_starts (s : State) (t : Task) (n p : Nat) : (placedCore s t n p).phys = p ∧
    (placedCore s t n p).lstate = 1 ∧
    (placedCore s t n p).ctxs = setD Ctx.reset [] 0 (startedCtx t.seed n 0 (word t.entry) (word t.record)) := by
  unfold placedCore
  dsimp only
  split
  · split <;> exact ⟨rfl, rfl, rfl⟩
  · exact ⟨rfl, rfl, rfl⟩

theorem placedCore_ways {s : State} {t : Task} {n p : Nat} {r : Kept} (h : (physOf s p).kept = some r)
    (hr : r.record = t.record) (ha : r.asid = t.asid) (hn : r.lcn = n) :
    (placedCore s t n p).ways = if t.fold then min r.ways 7 else r.ways := by
  unfold placedCore
  rw [h]
  dsimp only
  rw [if_pos ⟨hr, ha, hn⟩]
  rfl

/-- How a core starts depends on what is retained at its physical core alone. -/
theorem placedCore_congr {s u : State} {p : Nat} (h : (physOf u p).kept = (physOf s p).kept) (t : Task) (n : Nat) :
    placedCore u t n p = placedCore s t n p := by rw [placedCore, h, placedCore]

/-- Waking a core and arriving on one leave what is retained. -/
theorem arriveOn_kept (s : State) (p k : Nat) : (physOf (arriveOn s p) k).kept = (physOf s k).kept := by
  have hm : ∀ (u : State) f, (∀ x, (f x).kept = x.kept) → (physOf (modPhys u p f) k).kept = (physOf u k).kept :=
    fun u f hf => by
      rw [physOf_modPhys]
      split
      · next h => rw [hf, h]
      · rfl
  have hw : ∀ u : State, (physOf (wakeCore u p) k).kept = (physOf u k).kept := fun u => by
    unfold wakeCore
    split
    · exact hm u (fun x => { x with power := .queued u.ticks }) fun _ => rfl
    · rfl
  unfold arriveOn
  rw [hw]
  split
  · exact hm s _ fun _ => rfl
  · rfl

theorem serveAcc_phys (s : State) (lc y : Nat) (content : Sparse (BitVec 32)) (n : Nat) :
    (serveAcc s lc y content n).phys = s.phys := by
  rw [serveAcc_eq]
  rfl

section place
variable (t : Task) (cores : List Nat) (s : State) (n : Nat)

theorem placeCore_kept (p : Nat) : (physOf (placeCore t cores s n) p).kept = (physOf s p).kept := by
  rw [← arriveOn_kept s (cores.getD n 0) p, physOf, placeCore,
    foldl_keeps State.phys (fun u (a : Nat) => serveAcc_phys u _ _ _ a)]
  rfl

theorem placeCore_tasks : (placeCore t cores s n).tasks = s.tasks := by
  rw [placeCore]
  exact (placeStrip_get (foldl_keeps placeStrip (fun u (a : Nat) => placeStrip_serveAcc u _ _ _ a) _ _) State.tasks).trans
    (placeStrip_get (placeStrip_arriveOn s _) State.tasks)

theorem coreOf_placeCore : ∃ x, ∀ k, coreOf (placeCore t cores s n) k = if k = lcKey t.num n
    then { placedCore s t n (cores.getD n 0) with mxacc := x } else coreOf s k := by
  obtain ⟨x, hx⟩ := foldl_remapped (lc := lcKey t.num n)
    (fun u (a : Nat) => serveAcc_remapped u (lcKey t.num n) (yardNum (cores.getD n 0)) [] a)
    (accNames t (yardPlace cores n).2 (yardPlace cores n).1)
    (setCore (arriveOn s (cores.getD n 0)) (lcKey t.num n) (placedCore s t n (cores.getD n 0)))
  refine ⟨x, fun k => ?_⟩
  rw [placeCore, hx, coreOf_setCore_same, coreOf_setCore, coreOf, arriveOn_cores, ← coreOf]
  split <;> rfl

theorem placing_placeCore (k : Nat) : placing (coreOf (placeCore t cores s n) k) = if k = lcKey t.num n
    then placing (placedCore s t n (cores.getD n 0)) else placing (coreOf s k) := by
  obtain ⟨x, hx⟩ := coreOf_placeCore t cores s n
  rw [hx]
  split <;> rfl

end place

/-! ### The crew -/

/-- The crew's cores placed one after another. -/
theorem foldl_placeCore (t : Task) (cores : List Nat) (s : State) (n : Nat) :
    (∀ p, (physOf ((List.range n).foldl (placeCore t cores) s) p).kept = (physOf s p).kept) ∧
    ((List.range n).foldl (placeCore t cores) s).tasks = s.tasks ∧
    ∀ k < n, placing (coreOf ((List.range n).foldl (placeCore t cores) s) (lcKey t.num k)) =
      placing (placedCore s t k (cores.getD k 0)) := by
  induction n with
  | zero => exact ⟨fun _ => rfl, rfl, fun k hk => absurd hk (by omega)⟩
  | succ n ih =>
    obtain ⟨hkept, htasks, hcores⟩ := ih
    rw [List.range_succ, List.foldl_append, List.foldl_cons, List.foldl_nil]
    refine ⟨fun p => (placeCore_kept _ _ _ _ _).trans (hkept p), (placeCore_tasks _ _ _ _).trans htasks, fun k hk => ?_⟩
    rw [placing_placeCore, placedCore_congr (hkept _)]
    split
    · next h => rw [show k = n from Nat.add_left_cancel h]
    · next h => exact hcores k (by have : k ≠ n := fun e => h (by rw [e]); omega)

theorem acquire_tasks (s : State) (lc scope : Nat) : (acquire s lc scope).tasks = s.tasks := by
  unfold acquire
  dsimp only
  split
  · rfl
  · split <;> rfl

theorem placing_beginCrew (s : State) (task lc : Nat) :
    placing (coreOf (beginCrew s task) lc) = placing (coreOf s lc) := by
  have hm : ∀ f, coreOf (modTask s task f) lc = coreOf s lc := fun f => by
    unfold modTask
    split <;> rfl
  unfold beginCrew
  split
  · rw [foldl_keeps (fun u => placing (coreOf u lc))
      (fun u (k : Nat) => acquire_part placing (fun _ _ _ => rfl) u k scopeSys lc), hm]
  · rfl

/-- That its heads start together is all that changes of a task when its crew begins. -/
theorem taskOf_beginCrew {β : Type} (f : Task → β) (hf : ∀ t b, f { t with begun := b } = f t) (s : State) (task : Nat) :
    (taskOf (beginCrew s task) task).map f = (taskOf s task).map f := by
  unfold beginCrew
  split
  · rw [foldl_keeps (fun u => (taskOf u task).map f)
      (fun u (k : Nat) => by rw [taskOf, acquire_tasks, ← taskOf]), taskOf_modTask, if_pos rfl]
    cases taskOf s task with
    | none => rfl
    | some x => exact congrArg some (hf x true)
  · rfl

/-- The task of a crew that is placed. -/
def placedTask (s : State) (bank : List Word) (x : Task) : Task :=
  { x with stage := .placed, bank := bank, tstart := some (x.tstart.getD s.ticks), barriers := [], begun := false }

theorem placeCrew_tasks {s : State} {q : Task} {n : Nat} (hq : taskOf s n = some q) (hn : q.num = n) (cores : List Nat)
    (bank : List Word) {β : Type} (f : Task → β) (hf : ∀ t b, f { t with begun := b } = f t) :
    (taskOf (placeCrew s q cores bank) n).map f = some (f (placedTask s bank q)) := by
  have h1 : taskOf (dropKept ((List.range cores.length).foldl (placeCore q cores) s) q.asid q.record) n = some q := by
    rw [← hq, taskOf, taskOf, ← (foldl_placeCore q cores s cores.length).2.1]
    rfl
  rw [placeCrew, hn, taskOf_beginCrew f hf]
  have h2 := taskOf_modTask (dropKept ((List.range cores.length).foldl (placeCore q cores) s) q.asid q.record) n n
    (placedTask s bank)
  rw [if_pos rfl, h1] at h2
  exact congrArg (Option.map f) h2

theorem placing_placeCrew (s : State) (q : Task) (cores : List Nat) (bank : List Word) {k : Nat} (hk : k < cores.length) :
    placing (coreOf (placeCrew s q cores bank) (lcKey q.num k)) = placing (placedCore s q k (cores.getD k 0)) := by
  have hm : ∀ (u : State) f x lc, coreOf { modTask u q.num f with starved := x } lc = coreOf u lc := fun u f x lc => by
    unfold modTask
    split <;> rfl
  rw [placeCrew, placing_beginCrew, hm]
  exact (foldl_placeCore q cores s cores.length).2.2 k hk

theorem placeCrew_core {s : State} {q : Task} {n : Nat} (hn : q.num = n) (cores : List Nat) (bank : List Word) {k : Nat}
    (hk : k < cores.length) :
    let c := coreOf (placeCrew s q cores bank) (lcKey n k)
    c.phys = cores.getD k 0 ∧ c.lstate = 1 ∧
      getD Ctx.reset c.ctxs 0 = startedCtx q.seed k 0 (word q.entry) (word q.record) ∧
      ∀ r, (physOf s (cores.getD k 0)).kept = some r → r.record = q.record → r.asid = q.asid → r.lcn = k →
        c.ways = if q.fold then min r.ways 7 else r.ways := by
  have h := placing_placeCrew s q cores bank hk
  rw [hn] at h
  obtain ⟨hphys, hstate, hctxs⟩ := placedCore_starts s q k (cores.getD k 0)
  refine ⟨(congrArg (·.1) h).trans hphys, (congrArg (·.2.1) h).trans hstate, ?_, fun r hr hrec has hlcn =>
    (congrArg (·.2.2.2) h).trans (placedCore_ways hr hrec has hlcn)⟩
  rw [show LCore.ctxs _ = _ from (congrArg (·.2.2.1) h).trans hctxs]
  exact getD_setD_same _ _ _ _

section placeTask
variable {n : Nat} {q : Task} {cores : List Nat} {s : State} (hq : taskOf s n = some q) (hs : q.stage = .ready)
  (hp : isParked s (.bank n) = false) (hr : mayRun s q = true) (ht : placeTurn s q = true)
  (ho : placementOk s q cores = true)
include hq hs hp hr ht ho

/-- The crew is placed once the constant bank has been read, where the task has one. -/
theorem exec_placeTask {bank : List Word} {u : State} (hb : (q.const = 0 ∧ u = s ∧ bank = []) ∨
      (q.const ≠ 0 ∧ readWords q.asid 64 q.const [] s = (u, .got bank))) :
    exec (.placeTask n cores) s = .next (placeCrew u q cores bank) := by
  rw [show exec (.placeTask n cores) s = execPlaceTask n cores s from rfl, execPlaceTask, hq]
  dsimp only
  rw [if_neg (by simp [hs, hp, hr, ht, ho])]
  rcases hb with ⟨hc, rfl, rfl⟩ | ⟨hc, hw⟩
  · exact if_pos hc
  · rw [if_neg hc, hw]

end placeTask

/-- A constant bank that is read changes no task, no physical core. -/
theorem bankRead_keeps {q : Task} {s u : State} {bank : List Word} (hb : (q.const = 0 ∧ u = s ∧ bank = []) ∨
      (q.const ≠ 0 ∧ readWords q.asid 64 q.const [] s = (u, .got bank))) : u.tasks = s.tasks ∧ u.phys = s.phys := by
  rcases hb with ⟨-, rfl, -⟩ | ⟨-, hw⟩
  · exact ⟨rfl, rfl⟩
  · have h := mscChange_readWords q.asid 64 q.const [] s
    rw [hw] at h
    exact ⟨h.get State.tasks fun _ _ _ _ => rfl, h.get State.phys fun _ _ _ _ => rfl⟩

end Sys2Proof.Machine
end

section
/-! SUPPORT. Completion (R282, R290): the record is written at the MSC, the successors take their decrements or credits, and
the task is forgotten. -/

namespace Sys2Proof.Machine

/-! ### The steps of a completion change no line, no task and no credit (R290) -/

/-- What a line is read from, the tasks and the credits are the same. -/
structure SamePools (s t : State) : Prop where
  map : SameMap s t
  tasks : t.tasks = s.tasks
  credits : t.credits = s.credits

theorem SamePools.refl (s : State) : SamePools s s := ⟨.refl s, rfl, rfl⟩

theorem SamePools.trans {s t u : State} (h : SamePools s t) (k : SamePools t u) : SamePools s u :=
  ⟨h.map.trans k.map, k.tasks.trans h.tasks, k.credits.trans h.credits⟩

theorem samePools_foldl {α : Type} {g : State → α → State} (h : ∀ s x, SamePools s (g s x)) (l : List α) (s : State) :
    SamePools s (l.foldl g s) := by
  induction l generalizing s with
  | nil => exact .refl s
  | cons x l ih => exact (h s x).trans (ih _)

theorem samePools_modRow (s : State) (row : Nat) (f : Row → Row) : SamePools s (modRow s row f) :=
  ⟨⟨rfl, rfl, rfl, rfl, rfl, rfl, rfl, rfl⟩, rfl, rfl⟩

theorem samePools_modYard (s : State) (y : Nat) (f : Yard → Yard) : SamePools s (modYard s y f) :=
  ⟨⟨rfl, rfl, rfl, rfl, rfl, rfl, rfl, rfl⟩, rfl, rfl⟩

theorem samePools_lowerRail (s : State) (row : Nat) : SamePools s (lowerRail s row) := by
  unfold lowerRail
  split
  · exact .refl s
  · exact samePools_modRow _ _ _

theorem samePools_sprel (s : State) (row : Nat) : SamePools s (endLease s row false) := by
  have hz : ∀ u : State, SamePools u (if 600 < u.melt then { u with rfz := true } else u) := fun u => by
    split
    · exact ⟨⟨rfl, rfl, rfl, rfl, rfl, rfl, rfl, rfl⟩, rfl, rfl⟩
    · exact .refl u
  unfold endLease
  split
  · exact (((samePools_modRow s row _).trans (samePools_foldl (fun t y => samePools_modYard t y _) _ _)).trans (hz _)).trans
      (samePools_lowerRail _ row)
  · exact .refl s

theorem samePools_endTaskLeases (s : State) (task : Nat) : SamePools s (endTaskLeases s task) :=
  samePools_foldl (fun t r => by
    split
    · exact samePools_sprel t r
    · exact .refl t) _ s

theorem samePools_evictL1 (s : State) (lc key : Nat) : SamePools s (evictL1 s lc key) := by
  cases h : look (coreOf s lc).l1 key with
  | none =>
    rw [evictL1_none h]
    exact .refl s
  | some l =>
    obtain ⟨x, e⟩ := evictL1_some h
    rw [e]
    exact ⟨⟨rfl, rfl, rfl, rfl, rfl, rfl, rfl, rfl⟩, rfl, rfl⟩

theorem samePools_freeLines (s : State) (o : Obj) : SamePools s (freeLines s o) := by
  have hl : ∀ (u : State) x, SamePools u { u with l2 := x } := fun _ _ =>
    ⟨⟨rfl, rfl, rfl, rfl, rfl, rfl, rfl, rfl⟩, rfl, rfl⟩
  exact (samePools_foldl (fun t (e : Nat × Nat) => samePools_evictL1 t e.1 e.2) _ s).trans (hl _ _)

theorem samePools_freeObject (s : State) (o : Obj) : SamePools s (freeObject s o) := by
  have hg : ∀ (u : State) x, SamePools u { u with gtags := x } := fun _ _ =>
    ⟨⟨rfl, rfl, rfl, rfl, rfl, rfl, rfl, rfl⟩, rfl, rfl⟩
  have hw : ∀ (u : State) a, SamePools u (heatWrite u a) := fun u a =>
    ⟨sameMap_heatWrite u a, heatWrite_tasks u a, pocStrip_get (pocStrip_heatWrite u a) State.credits⟩
  have hh : ∀ (u : State) m, SamePools u (endHoldsAt u m (fun _ h => holdInObject s o h) 10) := fun u m =>
    ⟨sameMap_endHoldsAt u m _ 10, rfl, rfl⟩
  unfold freeObject
  dsimp only
  exact (((samePools_freeLines s o).trans (samePools_foldl hh _ _)).trans
    (samePools_foldl (fun t i => hw t (o.hdr + 65536 * i)) _ _)).trans (hg _ _)

/-! ### Tasks but for their undo logs (R348) -/

/-- A task without its undo log. -/
def bareTask (x : Task) : Task := { x with log := [] }

/-- The tasks without their undo logs, and the credits. -/
def barePool (s : State) : State :=
  { State.reset with tasks := s.tasks.map fun e => (e.1, bareTask e.2), credits := s.credits }

theorem barePool_congr {s t : State} (ht : t.tasks = s.tasks) (hc : t.credits = s.credits) : barePool t = barePool s := by
  rw [barePool, ht, hc, barePool]

theorem taskOf_barePool (s : State) (m : Nat) : taskOf (barePool s) m = (taskOf s m).map bareTask :=
  look_map_entries s.tasks (fun _ x => bareTask x) m

theorem insertAt_map {α β : Type} (f : α → β) (a : Nat) (v : α) (m : Sparse α) :
    (insertAt a v m).map (fun e => (e.1, f e.2)) = insertAt a (f v) (m.map fun e => (e.1, f e.2)) := by
  induction m with
  | nil => rfl
  | cons e m ih =>
    obtain ⟨k, w⟩ := e
    rw [List.map_cons, insertAt, insertAt]
    split
    · rfl
    · rw [List.map_cons, ih]

theorem put_map {α β : Type} (f : α → β) (m : Sparse α) (a : Nat) (v : α) :
    (put m a v).map (fun e => (e.1, f e.2)) = put (m.map fun e => (e.1, f e.2)) a (f v) := by
  rw [put, insertAt_map, put, erase, erase, List.filter_map]
  rfl

theorem barePool_modTask (s : State) (n : Nat) {f : Task → Task} (hf : ∀ x, bareTask (f x) = f (bareTask x)) :
    barePool (modTask s n f) = modTask (barePool s) n f := by
  have hl : look (barePool s).tasks n = (look s.tasks n).map bareTask := taskOf_barePool s n
  unfold modTask
  rw [hl]
  cases h : look s.tasks n with
  | none => rfl
  | some x =>
    rw [Option.map_some]
    dsimp only
    rw [← hf]
    exact congrArg (fun m => { State.reset with tasks := m, credits := s.credits }) (put_map bareTask _ _ _)

/-- What becomes of a successor does not depend on undo logs. -/
theorem barePool_creditSuccessor (s : State) (asid ra : Nat) :
    barePool (creditSuccessor s asid ra) = creditSuccessor (barePool s) asid ra := by
  by_cases hra : ra = 0
  · rw [creditSuccessor, if_pos hra, creditSuccessor, if_pos hra]
  have hf : (barePool s).tasks.find? (fun e => e.2.record == ra && e.2.asid == asid && e.2.stage == .pending) =
      (s.tasks.find? fun e => e.2.record == ra && e.2.asid == asid && e.2.stage == .pending).map
        fun e => (e.1, bareTask e.2) := List.find?_map
  rw [creditSuccessor_eq hra, creditSuccessor_eq hra, hf]
  cases s.tasks.find? fun e => e.2.record == ra && e.2.asid == asid && e.2.stage == .pending with
  | none => rfl
  | some e =>
    by_cases hp : e.2.pred = 0
    · exact (congrArg barePool (if_pos hp)).trans (if_pos (c := (bareTask e.2).pred = 0) hp).symm
    · exact (congrArg barePool (if_neg hp)).trans ((barePool_modTask s e.1
        (f := fun t => { t with pred := t.pred - 1 }) fun _ => rfl).trans
        (if_neg (c := (bareTask e.2).pred = 0) hp).symm)

theorem pocWrite_tasks (s : State) (key : Nat) (p : Page) (d : BitVec 1024) (m : BitVec 128) (task : Nat)
    (but : Option Nat) : (pocWrite s key p d m task but).tasks = if m = 0 then s.tasks else
      (logWrite s key p m task).tasks := by
  unfold pocWrite pocWriteVia
  dsimp only
  split
  · rfl
  · refine (tagWrite_tasks _ _ _).trans ((heatWrite_tasks _ _).trans ?_)
    split
    · exact (frameWrite_tasks _ _ _ _ _).trans (cmpReserve_tasks _ _ _ _)
    · exact (mscStore_tasks _ _ _ _ _).trans (cmpReserve_tasks _ _ _ _)

/-- Of a write for no task, the logs alone know. -/
theorem barePool_pocWrite {s : State} (h0 : taskOf s 0 = none) (key : Nat) (p : Page) (d : BitVec 1024) (m : BitVec 128)
    (but : Option Nat) : barePool (pocWrite s key p d m 0 but) = barePool s := by
  have hc : (pocWrite s key p d m 0 but).credits = s.credits :=
    pocStrip_get (pocStrip_pocWrite s key p d m 0 but) State.credits
  have hf : (logForget s key (frameOf p (keyVa key)) m 0).tasks =
      s.tasks.map fun e => (e.1, logForgotten key (frameOf p (keyVa key)) m 0 e.1 e.2) :=
    List.map_congr_left fun e _ => by
      unfold logForgotten
      split <;> rfl
  have hn : look (logForget s key (frameOf p (keyVa key)) m 0).tasks 0 = none := by
    rw [hf, look_map_entries, show look s.tasks 0 = none from h0]
    rfl
  have hk : ∀ m', logKeep (logForget s key (frameOf p (keyVa key)) m 0) key p m' 0 =
      logForget s key (frameOf p (keyVa key)) m 0 := fun m' => by
    unfold logKeep
    dsimp only
    split
    · rfl
    · rw [modTask, hn]
  rw [barePool, hc, pocWrite_tasks]
  split
  · rfl
  · rw [logWrite, hk, hf, List.map_map]
    refine congrArg (fun x => { State.reset with tasks := x, credits := s.credits }) (List.map_congr_left fun e _ => ?_)
    refine Prod.ext rfl ?_
    show bareTask (logForgotten _ _ _ _ _ _) = bareTask e.2
    unfold logForgotten
    split <;> rfl

theorem sameMap_creditSuccessor (s : State) (asid ra : Nat) : SameMap s (creditSuccessor s asid ra) := by
  have hk : ∀ k, SameMap s (keepCredit s k) := fun _ => ⟨rfl, rfl, rfl, rfl, rfl, rfl, rfl, rfl⟩
  by_cases hra : ra = 0
  · rw [creditSuccessor, if_pos hra]
    exact .refl s
  · rw [creditSuccessor_eq hra]
    split
    · split
      · exact hk _
      · exact sameMap_modTask _ _ _
    · exact hk _

/-! ### The completion (R290) -/

/-- The successors of a task that has ended take their decrements or credits, where it ended without a cause. -/
def creditSuccessors (s : State) (q : Task) : State :=
  if q.cause = 0 then creditSuccessor (creditSuccessor s q.asid q.succ0) q.asid q.succ1 else s

theorem barePool_creditSuccessors {s t : State} (h : barePool t = barePool s) (q : Task) :
    barePool (creditSuccessors t q) = barePool (creditSuccessors s q) := by
  unfold creditSuccessors
  split
  · rw [barePool_creditSuccessor, barePool_creditSuccessor, h, barePool_creditSuccessor, barePool_creditSuccessor]
  · exact h

theorem sameMap_creditSuccessors (s : State) (q : Task) : SameMap s (creditSuccessors s q) := by
  unfold creditSuccessors
  split
  · exact (sameMap_creditSuccessor _ _ _).trans (sameMap_creditSuccessor _ _ _)
  · exact .refl s

/-- What is forgotten is the task of a state with the lines, tasks and credits that the successors left. -/
theorem completeTask_eq (s : State) (q : Task) : ∃ v, SamePools (creditSuccessors s q) v ∧
    completeTask s q = forgetTask v q.num :=
  ⟨_, (samePools_endTaskLeases _ _).trans (samePools_foldl samePools_freeObject _ _), rfl⟩

theorem completeTask_forgets (s : State) (q : Task) : (∀ e ∈ (completeTask s q).tasks, e.1 ≠ q.num) ∧
    ∀ lc, taskNum lc = q.num → coreOf (completeTask s q) lc = LCore.reset := by
  obtain ⟨v, -, h⟩ := completeTask_eq s q
  rw [h]
  refine ⟨fun e he => (mem_erase.mp he).2, fun lc hlc => ?_⟩
  have hf := getD_filter_key LCore.reset (fun k => taskNum k != q.num) v.cores lc
  rw [if_neg (by simp [hlc])] at hf
  exact hf

theorem sameMap_completeTask (s : State) (q : Task) : SameMap s (completeTask s q) := by
  obtain ⟨v, hv, h⟩ := completeTask_eq s q
  rw [h]
  exact ((sameMap_creditSuccessors s q).trans hv.map).trans ⟨rfl, rfl, rfl, rfl, rfl, rfl, rfl, rfl⟩

/-- Of the tasks that stay the predecessors, and the credits, are as the successors' decrements left them. -/
theorem completeTask_pool {s t : State} (h : barePool t = barePool s) (q : Task) :
    (completeTask t q).credits = (creditSuccessors s q).credits ∧ ∀ m, m ≠ q.num →
      (taskOf (completeTask t q) m).map Task.pred = (taskOf (creditSuccessors s q) m).map Task.pred := by
  obtain ⟨v, hv, he⟩ := completeTask_eq t q
  have hb : barePool v = barePool (creditSuccessors s q) :=
    (barePool_congr hv.tasks hv.credits).trans (barePool_creditSuccessors h q)
  have hp : ∀ (u : State) m, (taskOf u m).map Task.pred = (taskOf (barePool u) m).map Task.pred := fun u m => by
    rw [taskOf_barePool, Option.map_map]
    rfl
  rw [he]
  refine ⟨(congrArg State.credits hb :), fun m hm => ?_⟩
  rw [hp (creditSuccessors s q), ← hb, ← hp, taskOf, taskOf]
  exact congrArg (Option.map Task.pred) (look_erase_other _ hm)

section complete
variable {n : Nat} {q : Task} {s : State} (hq : taskOf s n = some q) (ho : taskOver s q = true)
  (hz : taskQuiet s q = true) (hp : isParked s (.completion n) = false)
include hq ho hz hp

theorem exec_taskComplete_noRecord (hc : q.compl = 0) : exec (.taskComplete n) s = .next (completeTask s q) := by
  rw [show exec (.taskComplete n) s = execTaskComplete n s from rfl, execTaskComplete, hq]
  dsimp only
  rw [if_neg (by simp [ho, hz, hp]), if_pos hc]

theorem exec_taskComplete_record (hc : q.compl ≠ 0) {p : Page} (ht : translate s q.asid q.compl = .ok p)
    (hr : mscReady s q.asid q.compl 64 (wordsNat (complWords s q)) p = true) : exec (.taskComplete n) s =
      .next (completeTask (mscWrite s q.asid q.compl 64 (wordsNat (complWords s q)) p 0) q) := by
  rw [show exec (.taskComplete n) s = execTaskComplete n s from rfl, execTaskComplete, hq]
  dsimp only
  rw [if_neg (by simp [ho, hz, hp]), if_neg hc, ht]
  exact if_pos hr

end complete

/-- The completion record is in its line once its task is forgotten. -/
theorem completeTask_record (s : State) (q : Task) (p : Page) : LineTakes s
    (completeTask (mscWrite s q.asid q.compl 64 (wordsNat (complWords s q)) p 0) q) (lineKey q.asid q.compl) p false
    (natLine (wordsNat (complWords s q)) (q.compl % 128) 64) (spanMask (q.compl % 128) 64) :=
  (mscWrite_takes s q.asid q.compl _ (by decide) p 0).congr (.refl s) (sameMap_completeTask _ q)

end Sys2Proof.Machine
end

section
/-! O47. Tasks in the pool: entered, ready, placed, completed. -/

open Sys2Proof.Machine

/-- Settles O47: each event is one equation of the dispatcher, and what it leaves is read from that; a completion's write and
its frees change no more of the pool than undo logs. -/
theorem tasksEnterPlaceAndComplete : Obligations.TasksEnterPlaceAndComplete := by
  unfold Obligations.TasksEnterPlaceAndComplete
  refine ⟨?launch, ?takes, ?queues, ?answered, ?readies, ?waits, ?places, ?completes, fun ws i b hb =>
    wordsNat_byte ws i hb, ?credits, ?lapses, fun p s k hk => keptOver_iff hk⟩
  case launch =>
    intro d a s hi ra o
    refine ⟨fun h => ?_, fun h hw => ?_, fun u w h hin hc hd hst hr ht => ?_⟩
    · rw [launch_misaligned hi h]
      exact trapAt_trapped s 0 (word ra) [] (by decide)
    · rw [launch_denied hi h hw]
      exact trapAt_trapped s 0 (word ra) [] (by decide)
    · rw [launch_answers hi h hin hc hd hst hr ht]
      exact finish_wrote _ long u w
  case takes =>
    intro s ra asid part vf
    refine ⟨fun h => takeRecord_busy h, fun hp he => takeRecord_entered hp he, fun u hs hp he hh =>
      ⟨fun hr => takeRecord_tooMany hp he hh hr, fun v ws hr hw => ⟨fun hk => takeRecord_invalid hp he hh hr hw hk,
        fun hk => ?_⟩⟩⟩
    obtain ⟨hn, hfree⟩ := newNumber_free v
    exact ⟨_, newNumber v, _, takeRecord_enters hp he hh hr hw hk, hn, hfree, taskOf_enterTask v ra asid part vf ws,
      rfl, rfl, rfl, rfl, rfl, rfl⟩
  case queues =>
    intro vf v s hm hc
    refine ⟨fun hq => ⟨_, hqdbWrite_queues hm hc hq, ?_⟩, fun hq => ⟨_, hqdbWrite_full hm hc hq, ?_, ?_⟩⟩ <;>
      rw [vfOf_modVf, if_pos rfl]
  case answered =>
    intro vf ra rest s u w hq hm hp ha hr hn ht
    obtain ⟨hv, hx⟩ := writeReply_effect u vf ra w
    have hu : vfOf u vf = vfOf s vf := by
      have h := takeRecord_vfs s ra (vfOf s vf).asid (vfOf s vf).part vf
      rw [ht] at h
      rw [vfOf, h, ← vfOf]
    rw [hu] at hv
    refine ⟨_, exec_hostQueueEntry hq hm hp ha hr hn ht, ?_, by rw [hv], hx⟩
    rw [hv, hq]
    rfl
  case readies =>
    intro n q s hq
    exact ⟨fun hs hp hr => ⟨_, exec_taskReady hq hs hp hr, taskOf_queueTask hq q.prio⟩,
      fun hs hl ha => ⟨_, exec_priorityAgeing hq hs hl ha, hs ▸ taskOf_queueTask hq (q.level + 1)⟩,
      fun hs hl ha hn hf => ⟨_, exec_starvationHold hq hs hl ha hn hf, rfl⟩⟩
  case waits =>
    intro n m q r cores s hq _ hm hd hr hrun hfit hb
    exact exec_placeTask_waits hq cores hm hd hr hrun hfit hb
  case places =>
    intro n q cores bank s u hq hn hs hp hr ht ho hb
    obtain ⟨htasks, hphys⟩ := bankRead_keeps hb
    have hu : taskOf u n = some q := by rw [taskOf, htasks, ← taskOf, hq]
    refine ⟨_, exec_placeTask hq hs hp hr ht ho hb, placeCrew_tasks hu hn cores bank Task.stage fun _ _ => rfl,
      placeCrew_tasks hu hn cores bank Task.bank fun _ _ => rfl, fun k hk => ?_⟩
    rw [physOf, ← hphys, ← physOf]
    exact placeCrew_core hn cores bank hk
  case completes =>
    intro n q s hq hn ho hz hp ws u hr
    have hws : complWords s q = ws := by rw [complWords, hn]
    by_cases hc : q.compl = 0
    · obtain ⟨htasks, hcores⟩ := completeTask_forgets s q
      rw [hn] at htasks hcores
      exact ⟨_, exec_taskComplete_noRecord hq ho hz hp hc, htasks, hcores,
        fun _ => hn ▸ completeTask_pool (rfl : barePool s = barePool s) q, fun p h => absurd hc h⟩
    · obtain ⟨p, ht, hm⟩ := hr.resolve_left hc
      rw [← hws] at hm
      obtain ⟨htasks, hcores⟩ := completeTask_forgets (mscWrite s q.asid q.compl 64 (wordsNat (complWords s q)) p 0) q
      rw [hn] at htasks hcores
      refine ⟨_, exec_taskComplete_record hq ho hz hp hc ht hm, htasks, hcores,
        fun h0 => hn ▸ completeTask_pool (barePool_pocWrite h0 _ _ _ _ _) q, fun p' _ ht' => ?_⟩
      rw [ht] at ht'
      cases ht'
      rw [← hws]
      exact completeTask_record s q p
  case credits =>
    intro asid ra m r s hra next held
    refine ⟨fun hf hp => ?_, fun hf => ?_⟩
    · rw [creditSuccessor_decrements hra hf hp]
      exact ⟨by rw [taskOf_modTask, if_pos rfl], by rw [modTask_eq]⟩
    · rw [creditSuccessor_keeps hra (hf.imp_right fun h => ⟨m, r, h⟩)]
      exact ⟨keepCredit_held s _, rfl⟩
  case lapses =>
    intro p s h
    refine ⟨_, exec_stashRetentionLapse h, by rw [physOf_modPhys, if_pos rfl], fun q hq => ?_⟩
    rw [physOf_modPhys, if_neg hq]
end
